-- ==== Sys2Proof/Word.lean ====
section
/-! DEFINITION. The words of the module: registers, addresses and instruction words, and the eight-word
record (R31). Their plainest arithmetic is that of `BitVec`. -/

namespace Sys2Proof

/-- A byte. -/
abbrev Byte := BitVec 8

/-- A 64-bit register value or address. -/
abbrev Word := BitVec 64

/-- A 32-bit instruction word. -/
abbrev IWord := BitVec 32

/-- A register field of an instruction word. -/
abbrev Reg := BitVec 5

/-- A record of 64 bytes as its eight words, word 0 at the lowest address (R6, R31): a launch record, a hint
block, a host-assisted request or answer, a voyage descriptor. -/
structure Words8 where
  w0 : Word := 0
  w1 : Word := 0
  w2 : Word := 0
  w3 : Word := 0
  w4 : Word := 0
  w5 : Word := 0
  w6 : Word := 0
  w7 : Word := 0
  deriving DecidableEq, Repr

end Sys2Proof
end

