-- ==== Sys2Proof/Syntax.lean ====
section
/-! DEFINITION. The steps of the module, one constructor for each row of spec/opcode_table.json: the 163 Speril
instructions with the fields of their words (R249–R258), then the steps that have no word of their own (stream
commands as the engines perform them, bridge and management accesses, and the events of the device's agents), each
with operands that name what it acts on: a queue, a record's sequence number, a cluster (die × 32 + cluster), a
core (cluster × 128 + core), a thread tag (R130), a register address, a value. -/

namespace Sys2Proof

/-- The instructions and events of the VX8-M. -/
inductive Instr where
  /-- ADD (R273): Writes x[a] + x[b] modulo 2^64 to x[d]. -/
  | add (d : Reg) (a : Reg) (b : Reg)
  /-- SUB (R273): Writes x[a] − x[b] to x[d]. -/
  | sub (d : Reg) (a : Reg) (b : Reg)
  /-- AND (R273): Writes the bitwise AND of x[a] and x[b] to x[d]. -/
  | and (d : Reg) (a : Reg) (b : Reg)
  /-- OR (R273): Writes the bitwise OR of x[a] and x[b] to x[d]. -/
  | or (d : Reg) (a : Reg) (b : Reg)
  /-- XOR (R273): Writes the bitwise XOR of x[a] and x[b] to x[d]. -/
  | xor (d : Reg) (a : Reg) (b : Reg)
  /-- ANDN (R273): Writes x[a] AND NOT x[b] to x[d]. -/
  | andn (d : Reg) (a : Reg) (b : Reg)
  /-- SLL (R273): Writes x[a] shifted left by x[b][5:0] to x[d]. -/
  | sll (d : Reg) (a : Reg) (b : Reg)
  /-- SRL (R273): Writes x[a] shifted right logically by x[b][5:0] to x[d]. -/
  | srl (d : Reg) (a : Reg) (b : Reg)
  /-- SRA (R273): Writes x[a] shifted right arithmetically by x[b][5:0] to x[d]. -/
  | sra (d : Reg) (a : Reg) (b : Reg)
  /-- ROTL (R273): Writes x[a] rotated left by x[b][5:0] to x[d]. -/
  | rotl (d : Reg) (a : Reg) (b : Reg)
  /-- ROTR (R273): Writes x[a] rotated right by x[b][5:0] to x[d]. -/
  | rotr (d : Reg) (a : Reg) (b : Reg)
  /-- SLT (R273): Writes 1 to x[d] if x[a] is less than x[b] as signed integers, else 0. -/
  | slt (d : Reg) (a : Reg) (b : Reg)
  /-- SLTU (R273): Writes 1 to x[d] if x[a] is less than x[b] as unsigned integers, else 0. -/
  | sltu (d : Reg) (a : Reg) (b : Reg)
  /-- MIN (R273): Writes the signed minimum of x[a] and x[b] to x[d]. -/
  | min (d : Reg) (a : Reg) (b : Reg)
  /-- MAX (R273): Writes the signed maximum of x[a] and x[b] to x[d]. -/
  | max (d : Reg) (a : Reg) (b : Reg)
  /-- MINU (R273): Writes the unsigned minimum of x[a] and x[b] to x[d]. -/
  | minu (d : Reg) (a : Reg) (b : Reg)
  /-- MAXU (R273): Writes the unsigned maximum of x[a] and x[b] to x[d]. -/
  | maxu (d : Reg) (a : Reg) (b : Reg)
  /-- MUL (R273): Writes the low 64 bits of the product of x[a] and x[b] to x[d]. -/
  | mul (d : Reg) (a : Reg) (b : Reg)
  /-- MULH (R273): Writes the high 64 bits of the signed 128-bit product to x[d]. -/
  | mulh (d : Reg) (a : Reg) (b : Reg)
  /-- MULHU (R273): Writes the high 64 bits of the unsigned 128-bit product to x[d]. -/
  | mulhu (d : Reg) (a : Reg) (b : Reg)
  /-- MULHSU (R273): Writes the high 64 bits of the signed-by-unsigned 128-bit product to x[d]. -/
  | mulhsu (d : Reg) (a : Reg) (b : Reg)
  /-- DIV (R273): Writes the signed quotient of x[a] by x[b] to x[d], under the non-trapping rules of R228. -/
  | div (d : Reg) (a : Reg) (b : Reg)
  /-- DIVU (R273): Writes the unsigned quotient of x[a] by x[b] to x[d]. -/
  | divu (d : Reg) (a : Reg) (b : Reg)
  /-- REM (R273): Writes the signed remainder of x[a] by x[b] to x[d]. -/
  | rem (d : Reg) (a : Reg) (b : Reg)
  /-- REMU (R273): Writes the unsigned remainder of x[a] by x[b] to x[d]. -/
  | remu (d : Reg) (a : Reg) (b : Reg)
  /-- CLZ (R273): Writes the number of leading zero bits of x[a] to x[d]. -/
  | clz (d : Reg) (a : Reg)
  /-- CTZ (R273): Writes the number of trailing zero bits of x[a] to x[d]. -/
  | ctz (d : Reg) (a : Reg)
  /-- POPC (R273): Writes the number of 1 bits of x[a] to x[d]. -/
  | popc (d : Reg) (a : Reg)
  /-- BSWAP (R273): Writes x[a] with its byte order reversed to x[d]. -/
  | bswap (d : Reg) (a : Reg)
  /-- ADD_W (R274): Writes the sign-extended 32-bit sum of the low words of x[a] and x[b] to x[d]. -/
  | addW (d : Reg) (a : Reg) (b : Reg)
  /-- SUB_W (R274): Writes the sign-extended 32-bit difference of the low words to x[d]. -/
  | subW (d : Reg) (a : Reg) (b : Reg)
  /-- SLL_W (R274): Writes the low word of x[a] shifted left by x[b][4:0], sign-extended, to x[d]. -/
  | sllW (d : Reg) (a : Reg) (b : Reg)
  /-- SRL_W (R274): Writes the low word of x[a] shifted right logically, sign-extended, to x[d]. -/
  | srlW (d : Reg) (a : Reg) (b : Reg)
  /-- SRA_W (R274): Writes the low word of x[a] shifted right arithmetically, sign-extended, to x[d]. -/
  | sraW (d : Reg) (a : Reg) (b : Reg)
  /-- MUL_W (R274): Writes the sign-extended low 32 bits of the product of the low words to x[d]. -/
  | mulW (d : Reg) (a : Reg) (b : Reg)
  /-- DIV_W (R274): Writes the sign-extended signed 32-bit quotient to x[d]. -/
  | divW (d : Reg) (a : Reg) (b : Reg)
  /-- DIVU_W (R274): Writes the sign-extended unsigned 32-bit quotient to x[d]. -/
  | divuW (d : Reg) (a : Reg) (b : Reg)
  /-- REM_W (R274): Writes the sign-extended signed 32-bit remainder to x[d]. -/
  | remW (d : Reg) (a : Reg) (b : Reg)
  /-- REMU_W (R274): Writes the sign-extended unsigned 32-bit remainder to x[d]. -/
  | remuW (d : Reg) (a : Reg) (b : Reg)
  /-- FADD (R285): Adds two floats of precision p, rounded once under RM. -/
  | fadd (d : Reg) (a : Reg) (b : Reg) (p : BitVec 1)
  /-- FSUB (R285): Subtracts two floats of precision p, rounded once under RM. -/
  | fsub (d : Reg) (a : Reg) (b : Reg) (p : BitVec 1)
  /-- FMUL (R285): Multiplies two floats of precision p, rounded once under RM. -/
  | fmul (d : Reg) (a : Reg) (b : Reg) (p : BitVec 1)
  /-- FDIV (R285): Divides two floats of precision p, rounded once under RM. -/
  | fdiv (d : Reg) (a : Reg) (b : Reg) (p : BitVec 1)
  /-- FSQRT (R285): Computes the square root of a float of precision p, rounded under RM. -/
  | fsqrt (d : Reg) (a : Reg) (p : BitVec 1)
  /-- FMADD (R285): Computes a × b + c with one rounding. -/
  | fmadd (d : Reg) (a : Reg) (b : Reg) (c : Reg) (p : BitVec 1)
  /-- FMSUB (R285): Computes a × b − c with one rounding. -/
  | fmsub (d : Reg) (a : Reg) (b : Reg) (c : Reg) (p : BitVec 1)
  /-- FNMADD (R285): Computes −(a × b) − c with one rounding. -/
  | fnmadd (d : Reg) (a : Reg) (b : Reg) (c : Reg) (p : BitVec 1)
  /-- FMIN (R286): Writes the minimumNumber of two floats without rounding. -/
  | fmin (d : Reg) (a : Reg) (b : Reg) (p : BitVec 1)
  /-- FMAX (R286): Writes the maximumNumber of two floats without rounding. -/
  | fmax (d : Reg) (a : Reg) (b : Reg) (p : BitVec 1)
  /-- FSGNJ (R287): Writes a with the sign of b. -/
  | fsgnj (d : Reg) (a : Reg) (b : Reg) (p : BitVec 1)
  /-- FSGNJN (R287): Writes a with the inverted sign of b. -/
  | fsgnjn (d : Reg) (a : Reg) (b : Reg) (p : BitVec 1)
  /-- FSGNJX (R287): Writes a with the XOR of the signs of a and b. -/
  | fsgnjx (d : Reg) (a : Reg) (b : Reg) (p : BitVec 1)
  /-- FEQ (R288): Writes 1 if a equals b, else 0. -/
  | feq (d : Reg) (a : Reg) (b : Reg) (p : BitVec 1)
  /-- FLT (R288): Writes 1 if a is less than b, else 0. -/
  | flt (d : Reg) (a : Reg) (b : Reg) (p : BitVec 1)
  /-- FLE (R288): Writes 1 if a is less than or equal to b, else 0. -/
  | fle (d : Reg) (a : Reg) (b : Reg) (p : BitVec 1)
  /-- FCLASS (R288): Writes a one-hot mask that classifies a. -/
  | fclass (d : Reg) (a : Reg) (p : BitVec 1)
  /-- FCVT_W (R289): Converts f32 or f64 to i32, saturating. -/
  | fcvtW (d : Reg) (a : Reg) (p : BitVec 1)
  /-- FCVT_WU (R289): Converts f32 or f64 to u32, saturating. -/
  | fcvtWu (d : Reg) (a : Reg) (p : BitVec 1)
  /-- FCVT_L (R289): Converts f32 or f64 to i64, saturating. -/
  | fcvtL (d : Reg) (a : Reg) (p : BitVec 1)
  /-- FCVT_LU (R289): Converts f32 or f64 to u64, saturating. -/
  | fcvtLu (d : Reg) (a : Reg) (p : BitVec 1)
  /-- FCVT_FROM_W (R289): Converts i32 to f32 or f64. -/
  | fcvtFromW (d : Reg) (a : Reg) (p : BitVec 1)
  /-- FCVT_FROM_WU (R289): Converts u32 to f32 or f64. -/
  | fcvtFromWu (d : Reg) (a : Reg) (p : BitVec 1)
  /-- FCVT_FROM_L (R289): Converts i64 to f32 or f64. -/
  | fcvtFromL (d : Reg) (a : Reg) (p : BitVec 1)
  /-- FCVT_FROM_LU (R289): Converts u64 to f32 or f64. -/
  | fcvtFromLu (d : Reg) (a : Reg) (p : BitVec 1)
  /-- FCVT_D_S (R289): Converts f32 to f64 (p = 0) or f64 to f32 (p = 1). -/
  | fcvtDS (d : Reg) (a : Reg) (p : BitVec 1)
  /-- FCVT_H_S (R289): Converts f32 to f16. -/
  | fcvtHS (d : Reg) (a : Reg)
  /-- FCVT_S_H (R289): Converts f16 to f32. -/
  | fcvtSH (d : Reg) (a : Reg)
  /-- FCVT_BF_S (R289): Converts f32 to bf16. -/
  | fcvtBfS (d : Reg) (a : Reg)
  /-- FCVT_S_BF (R289): Converts bf16 to f32. -/
  | fcvtSBf (d : Reg) (a : Reg)
  /-- FCVT_E4_S (R289): Converts f32 to e4m3, saturating. -/
  | fcvtE4S (d : Reg) (a : Reg)
  /-- FCVT_S_E4 (R289): Converts e4m3 to f32. -/
  | fcvtSE4 (d : Reg) (a : Reg)
  /-- FCVT_E5_S (R289): Converts f32 to e5m2, saturating. -/
  | fcvtE5S (d : Reg) (a : Reg)
  /-- FCVT_S_E5 (R289): Converts e5m2 to f32. -/
  | fcvtSE5 (d : Reg) (a : Reg)
  /-- ADDI (R275): Writes x[a] plus the sign-extended immediate to x[d]. -/
  | addi (d : Reg) (a : Reg) (i : BitVec 16)
  /-- ANDI (R275): Writes x[a] AND the zero-extended immediate to x[d]. -/
  | andi (d : Reg) (a : Reg) (i : BitVec 16)
  /-- ORI (R275): Writes x[a] OR the zero-extended immediate to x[d]. -/
  | ori (d : Reg) (a : Reg) (i : BitVec 16)
  /-- XORI (R275): Writes x[a] XOR the zero-extended immediate to x[d]. -/
  | xori (d : Reg) (a : Reg) (i : BitVec 16)
  /-- SLTI (R275): Writes 1 if x[a] is less than the signed immediate, else 0. -/
  | slti (d : Reg) (a : Reg) (i : BitVec 16)
  /-- SLTIU (R275): Writes 1 if x[a] is less than the sign-extended immediate read as unsigned, else 0. -/
  | sltiu (d : Reg) (a : Reg) (i : BitVec 16)
  /-- ADDI_W (R275): Writes the sign-extended 32-bit sum of x[a] and the immediate to x[d]. -/
  | addiW (d : Reg) (a : Reg) (i : BitVec 16)
  /-- SLLI (R276): Shifts x[a] left by an immediate amount. -/
  | slli (d : Reg) (a : Reg) (n : BitVec 6)
  /-- SRLI (R276): Shifts x[a] right logically by an immediate amount. -/
  | srli (d : Reg) (a : Reg) (n : BitVec 6)
  /-- SRAI (R276): Shifts x[a] right arithmetically by an immediate amount. -/
  | srai (d : Reg) (a : Reg) (n : BitVec 6)
  /-- ROTRI (R276): Rotates x[a] right by an immediate amount. -/
  | rotri (d : Reg) (a : Reg) (n : BitVec 6)
  /-- SLLI_W (R276): Shifts the low word of x[a] left by an immediate amount, sign-extended. -/
  | slliW (d : Reg) (a : Reg) (n : Reg)
  /-- SRLI_W (R276): Shifts the low word of x[a] right logically by an immediate amount, sign-extended. -/
  | srliW (d : Reg) (a : Reg) (n : Reg)
  /-- SRAI_W (R276): Shifts the low word of x[a] right arithmetically by an immediate amount, sign-extended. -/
  | sraiW (d : Reg) (a : Reg) (n : Reg)
  /-- LDHI (R277): Writes the sign-extended imm21 times 2^16 to x[d]. -/
  | ldhi (d : Reg) (i : BitVec 21)
  /-- PCADD (R277): Writes pc plus the sign-extended imm21 times 2^16 to x[d]. -/
  | pcadd (d : Reg) (i : BitVec 21)
  /-- LD_B (R278): Loads a sign-extended byte. -/
  | ldB (d : Reg) (a : Reg) (i : BitVec 16)
  /-- LD_BU (R278): Loads a zero-extended byte. -/
  | ldBu (d : Reg) (a : Reg) (i : BitVec 16)
  /-- LD_H (R278): Loads a sign-extended halfword. -/
  | ldH (d : Reg) (a : Reg) (i : BitVec 16)
  /-- LD_HU (R278): Loads a zero-extended halfword. -/
  | ldHu (d : Reg) (a : Reg) (i : BitVec 16)
  /-- LD_W (R278): Loads a sign-extended word. -/
  | ldW (d : Reg) (a : Reg) (i : BitVec 16)
  /-- LD_WU (R278): Loads a zero-extended word. -/
  | ldWu (d : Reg) (a : Reg) (i : BitVec 16)
  /-- LD_D (R278): Loads a doubleword. -/
  | ldD (d : Reg) (a : Reg) (i : BitVec 16)
  /-- ST_B (R278): Stores the low byte of x[b]. -/
  | stB (b : Reg) (a : Reg) (i : BitVec 16)
  /-- ST_H (R278): Stores the low halfword of x[b]. -/
  | stH (b : Reg) (a : Reg) (i : BitVec 16)
  /-- ST_W (R278): Stores the low word of x[b]. -/
  | stW (b : Reg) (a : Reg) (i : BitVec 16)
  /-- ST_D (R278): Stores x[b] as a doubleword. -/
  | stD (b : Reg) (a : Reg) (i : BitVec 16)
  /-- LDSYNC_TAKE (R291): Waits for a scratchpad word to be full, reads it and empties it. -/
  | ldsyncTake (d : Reg) (a : Reg) (k : BitVec 13)
  /-- LDSYNC_KEEP (R291): Waits for a scratchpad word to be full and reads it. -/
  | ldsyncKeep (d : Reg) (a : Reg) (k : BitVec 13)
  /-- STSYNC_FILL (R291): Waits for a scratchpad word to be empty, writes it and sets it full. -/
  | stsyncFill (b : Reg) (a : Reg) (k : BitVec 13)
  /-- STSYNC_SET (R291): Writes a scratchpad word and sets it full without waiting. -/
  | stsyncSet (b : Reg) (a : Reg) (k : BitVec 13)
  /-- SYNC_CLEAR (R291): Sets a scratchpad word empty without waiting. -/
  | syncClear (a : Reg) (k : BitVec 13)
  /-- SYNC_TEST (R291): Reads a scratchpad word's full/empty bit. -/
  | syncTest (d : Reg) (a : Reg) (k : BitVec 13)
  /-- ATM_ADD (R293): Atomically adds x[b] at the home of x[a] and returns the old value. -/
  | atmAdd (d : Reg) (a : Reg) (b : Reg) (z : BitVec 1) (o : BitVec 2) (c : BitVec 2)
  /-- ATM_AND (R293): Atomically ANDs x[b] into the location and returns the old value. -/
  | atmAnd (d : Reg) (a : Reg) (b : Reg) (z : BitVec 1) (o : BitVec 2) (c : BitVec 2)
  /-- ATM_OR (R293): Atomically ORs x[b] into the location and returns the old value. -/
  | atmOr (d : Reg) (a : Reg) (b : Reg) (z : BitVec 1) (o : BitVec 2) (c : BitVec 2)
  /-- ATM_XOR (R293): Atomically XORs x[b] into the location and returns the old value. -/
  | atmXor (d : Reg) (a : Reg) (b : Reg) (z : BitVec 1) (o : BitVec 2) (c : BitVec 2)
  /-- ATM_MIN (R293): Atomically stores the signed minimum and returns the old value. -/
  | atmMin (d : Reg) (a : Reg) (b : Reg) (z : BitVec 1) (o : BitVec 2) (c : BitVec 2)
  /-- ATM_MAX (R293): Atomically stores the signed maximum and returns the old value. -/
  | atmMax (d : Reg) (a : Reg) (b : Reg) (z : BitVec 1) (o : BitVec 2) (c : BitVec 2)
  /-- ATM_MINU (R293): Atomically stores the unsigned minimum and returns the old value. -/
  | atmMinu (d : Reg) (a : Reg) (b : Reg) (z : BitVec 1) (o : BitVec 2) (c : BitVec 2)
  /-- ATM_MAXU (R293): Atomically stores the unsigned maximum and returns the old value. -/
  | atmMaxu (d : Reg) (a : Reg) (b : Reg) (z : BitVec 1) (o : BitVec 2) (c : BitVec 2)
  /-- ATM_SWAP (R293): Atomically writes x[b] and returns the old value. -/
  | atmSwap (d : Reg) (a : Reg) (b : Reg) (z : BitVec 1) (o : BitVec 2) (c : BitVec 2)
  /-- ATM_CAS (R293): Atomically writes x[b] if the old value equals x[d], and returns the old value. -/
  | atmCas (d : Reg) (a : Reg) (b : Reg) (z : BitVec 1) (o : BitVec 2) (c : BitVec 2)
  /-- ATM_FADD_S (R293): Atomically adds an f32 by RNE at the home and returns the old value. -/
  | atmFaddS (d : Reg) (a : Reg) (b : Reg) (o : BitVec 2) (c : BitVec 2)
  /-- FENCE_ACQ (R296): Forms an acquire end and invalidates clean reconcile bytes at module or system scope. -/
  | fenceAcq (c : BitVec 2)
  /-- FENCE_REL (R296): Forms a release end and writes back dirty bytes at module or system scope. -/
  | fenceRel (c : BitVec 2)
  /-- FENCE_FULL (R296): Acts as both a release and an acquire, and joins the module's fence order. -/
  | fenceFull (c : BitVec 2)
  /-- BARR_INIT (R298): Sets a barrier's COUNT and clears ARRIVED. -/
  | barrInit (a : Reg) (n : BitVec 4)
  /-- BARR_ARRIVE (R299): Counts an arrival, returns the phase and completes the phase when COUNT is reached. -/
  | barrArrive (d : Reg) (n : BitVec 4)
  /-- BARR_WAIT (R300): Parks the thread until the named phase is complete. -/
  | barrWait (a : Reg) (n : BitVec 4)
  /-- B_EQ (R281): Branches if x[a] equals x[b]. -/
  | bEq (a : Reg) (b : Reg) (o : BitVec 16)
  /-- B_NE (R281): Branches if x[a] differs from x[b]. -/
  | bNe (a : Reg) (b : Reg) (o : BitVec 16)
  /-- B_LT (R281): Branches if x[a] is less than x[b], signed. -/
  | bLt (a : Reg) (b : Reg) (o : BitVec 16)
  /-- B_GE (R281): Branches if x[a] is greater than or equal to x[b], signed. -/
  | bGe (a : Reg) (b : Reg) (o : BitVec 16)
  /-- B_LTU (R281): Branches if x[a] is less than x[b], unsigned. -/
  | bLtu (a : Reg) (b : Reg) (o : BitVec 16)
  /-- B_GEU (R281): Branches if x[a] is greater than or equal to x[b], unsigned. -/
  | bGeu (a : Reg) (b : Reg) (o : BitVec 16)
  /-- CALL (R282): Writes pc + 4 to x1 and jumps by a 26-bit word offset. -/
  | call (o : BitVec 26)
  /-- JR (R282): Jumps to x[a] plus the immediate and writes the link to x[d]. -/
  | jr (d : Reg) (a : Reg) (i : BitVec 16)
  /-- SEND (R301): Sends x[b] to message register mN of the thread that x[a] names, and parks for the target's answer. -/
  | send (a : Reg) (b : Reg) (n : BitVec 3)
  /-- SPAWN (R302): Starts a task on the cluster and channel that x[a] names, with up to two data words. -/
  | spawn (a : Reg) (b : Reg) (k : BitVec 2)
  /-- MGET (R303): Waits for a message register to be full, reads it and empties it, as an acquire. -/
  | mget (d : Reg) (n : BitVec 3)
  /-- MPEEK (R303): Waits for a message register to be full and reads it without emptying it. -/
  | mpeek (d : Reg) (n : BitVec 3)
  /-- MTEST (R303): Writes the full bits of the message registers to x[d]. -/
  | mtest (d : Reg)
  /-- SGET (R304): Reads a core-shared register. -/
  | sget (d : Reg) (n : BitVec 4)
  /-- SPUT (R304): Writes a core-shared register. -/
  | sput (a : Reg) (n : BitVec 4)
  /-- SERVE_IMM (R305): Calls the server image of an immediate function id with n arguments and parks until the return. -/
  | serveImm (d : Reg) (a : Reg) (f : BitVec 10) (g : BitVec 2) (n : BitVec 3)
  /-- SERVE_REG (R305): Calls the server image whose function id a register holds and parks until the return. -/
  | serveReg (d : Reg) (a : Reg) (r : Reg) (n : BitVec 3)
  /-- SLOAD (R307): Starts loading a function's image without a call. -/
  | sload (a : Reg)
  /-- SEVICT (R307): Sets EVPEND on a resident image. -/
  | sevict (a : Reg)
  /-- SINFO (R307): Reads words 0 to 2 of a function's resident image entry. -/
  | sinfo (d : Reg) (a : Reg)
  /-- TZERO (R309): Queues a zeroing of an accumulator bank and sets its column scales to 1.0. -/
  | tzero (z : BitVec 2)
  /-- TMMA (R311): Queues a 16 × 16 × K multiply-accumulate into a bank. -/
  | tmma (d : Reg) (a : Reg) (b : Reg) (z : BitVec 2) (g : BitVec 3) (f : BitVec 3)
  /-- TDRAIN (R312): Checks a drain descriptor and queues a drain of a bank to the own scratchpad. -/
  | tdrain (a : Reg) (b : Reg) (z : BitVec 2) (f : BitVec 3)
  /-- TLOAD (R309): Queues a copy of 1 KiB of scratchpad into a bank. -/
  | tload (a : Reg) (z : BitVec 2)
  /-- TSTAT (R314): Writes a snapshot of the tile engine's state to x[d]. -/
  | tstat (d : Reg)
  /-- VSTART (R315): Reads and checks a voyage descriptor and starts the voyage. -/
  | vstart (a : Reg)
  /-- VREL (R316): Releases the tiles of the task's sighting and reports whether it still stands. -/
  | vrel (d : Reg)
  /-- VINFO (R317): Reads VSTATE. -/
  | vinfo (d : Reg)
  /-- SCMD (R324): Checks a 128-bit stream command and appends it to engine queue eN. -/
  | scmd (a : Reg) (b : Reg) (n : BitVec 2)
  /-- RGET (R339): Reads the thread's next response element, parking until it is filled. -/
  | rget (d : Reg)
  /-- NWAIT (R342): Parks until a counter's VALUE reaches x[a], then acquires. -/
  | nwait (a : Reg) (n : BitVec 4)
  /-- NREAD (R342): Reads a counter word. -/
  | nread (d : Reg) (n : BitVec 4)
  /-- NSET (R342): Sets a counter's VALUE and starts a drain if commands are pending. -/
  | nset (a : Reg) (n : BitVec 4)
  /-- TRAP (R318): Takes a precise trap with cause 0x08 and tval x[a]. -/
  | trap (a : Reg)
  /-- TRET (R319): Returns from a trap handler to tepc and clears IH. -/
  | tret
  /-- RDSYS (R320): Reads a system register. -/
  | rdsys (d : Reg) (b : Reg)
  /-- WRSYS (R320): Writes a system register. -/
  | wrsys (a : Reg) (b : Reg)
  /-- EXIT (R321): Ends the thread after its commands and tile instructions complete, releasing its writes. -/
  | exit
  /-- YIELD (R322): Passes the thread over once in the issue rotation. -/
  | yield
  /-- PARK (R323): Parks the thread until a message register is full or a trap or crew event is pending. -/
  | park
  /-- SUBMIT_RECORD (R28): A 64-byte write to a queue's submit window is taken whole as a record, or discarded with DISCARD set. -/
  | submitRecord (queue : BitVec 8) (off : BitVec 12) (size : Nat) (rec : Words8)
  /-- QCFG_WRITE (R27): A write to QCFG sets EN, and PRIO and OWNER only while the queue is disabled and not live, else sets CFGERR. -/
  | qcfgWrite (queue : BitVec 8) (v : Word)
  /-- LOGTAIL_WRITE (R41): Software advances LOGTAIL; held entries are written in order and reading of submit windows resumes. -/
  | logtailWrite (v : Word)
  /-- SNAP (R42): A write of SNAP makes the helm append a snapshot of every non-final record and a snapshot end entry. -/
  | snap
  /-- ABORT_QUEUE (R39): A write to the abort register with QUEUE = 1 aborts every record of a queue. -/
  | abortQueue (queue : BitVec 8)
  /-- ABORT_RECORD (R39): A write to the abort register with QUEUE = 0 aborts the record with the given sequence number. -/
  | abortRecord (seq : Nat)
  /-- REGISTER_WRITE (R25): A write to a device register or window that has no behaviour of its own sets its RW fields, clears W1C bits, and discards reserved bits. -/
  | registerWrite (addr : BitVec 48) (v : Word)
  /-- APERTURE_ACCESS (R391): A bridge-core access through an aperture is translated from the owner's page tables and performed at system scope, or reads all ones and sets AFAULT. -/
  | apertureAccess (ap : BitVec 8) (off : BitVec 36) (size : Nat) (write : Bool) (v : Word)
  /-- PCIE_REQUEST (R22): A PCIe agent's request reaches device memory through a window at system scope, or completes as Unsupported Request. -/
  | pcieRequest (port : BitVec 1) (toOther : Bool) (owner : BitVec 12) (va : Word) (size : Nat) (write : Bool) (data : List Byte)
  /-- OWNER_CREATE (R46): OWNCMD op 1 creates an owner, drawing and loading a fresh signet key pair. -/
  | ownerCreate (owner : BitVec 12) (modes : BitVec 6)
  /-- OWNER_RETIRE (R48): OWNCMD op 2 retires an owner: it rejects new records, aborts work, scrubs clusters, zeroises keys and leaves the key group. -/
  | ownerRetire (owner : BitVec 12)
  /-- SET_MODES (R43): OWNCMD op 3 sets an owner's hardware or host-assisted modes. -/
  | setModes (owner : BitVec 12) (modes : BitVec 6)
  /-- SET_EVENT_SLOT (R45): OWNCMD op 4 sets an event slot's count. -/
  | setEventSlot (owner : BitVec 12) (slot : BitVec 6) (v32 : BitVec 32)
  /-- EXPORT (R47): OWNCMD op 5 exports an owner's key pair to a joining module over an authenticated channel. -/
  | ownerExport (owner : BitVec 12) (peer : BitVec 3)
  /-- JOIN (R47): OWNCMD op 6 joins an owner's key group, receiving its key pair and peer mask. -/
  | join (owner : BitVec 12) (modes : BitVec 6) (peer : BitVec 3)
  /-- ANSWER_CREW_PLACEMENT (R85): A host answer to a crew placement request admits the crew, defers it, or leads to a fresh request. -/
  | answerCrewPlacement (rec : Words8)
  /-- ANSWER_IMAGE_PLACEMENT (R204): A host answer to an image placement request evicts, defers, or names a rectangle for the load. -/
  | answerImagePlacement (rec : Words8)
  /-- ANSWER_TIER_MIGRATION (R86): A host answer orders up to six page moves, which the pilot performs in word order. -/
  | answerTierMigration (rec : Words8)
  /-- ANSWER_SPILL (R110): A host answer gives a spill area a new size. -/
  | answerSpill (rec : Words8)
  /-- ANSWER_TWIN_RELOAD (R119): A host answer orders the reload of a twin image after a mismatch. -/
  | answerTwinReload (rec : Words8)
  /-- TLBINV_PAGE (R100): SCOPE 00 removes the TLB and walk-cache entries of one page of an owner. -/
  | tlbinvPage (owner : BitVec 12) (page : BitVec 39)
  /-- TLBINV_OWNER (R100): SCOPE 01 removes every TLB and walk-cache entry of an owner. -/
  | tlbinvOwner (owner : BitVec 12)
  /-- TLBINV_ALL (R100): SCOPE 10 removes every TLB and walk-cache entry of all owners. -/
  | tlbinvAll
  /-- REPLAY (R98): A write of an owner to REPLAY frees its fault entries and re-walks every waiter, or is held behind a running replay. -/
  | replay (owner : BitVec 12)
  /-- DECLINE (R99): A write to DPAGE frees a fault entry and ends its waiters with cause 0x04 outcomes. -/
  | decline (owner : BitVec 12) (page : BitVec 39)
  /-- DROPCNT_READ (R95): A read of DROPCNT returns the records dropped since the last read and clears the count. -/
  | dropcntRead (die : BitVec 3)
  /-- MEASUREMENT_EXTEND (R52): A write to security offset 0x140 extends MR4–MR7 with the data at 0x100. -/
  | measurementExtend (v : Word)
  /-- TELEMETRY (R24): Management message that returns power, voltages, temperatures and clocks. -/
  | telemetry (conn : Nat) (mseq : Word) (len : Nat)
  /-- SET_POWER_LIMIT (R24): Management message that sets the module's power limit. -/
  | setPowerLimit (conn : Nat) (mseq : Word) (len : Nat) (v32 : BitVec 32)
  /-- MODULE_RESET (R17): Management message that performs a warm reset. -/
  | moduleReset (conn : Nat) (mseq : Word) (len : Nat)
  /-- FIRMWARE_WRITE (R24): Management message that writes data to the inactive flash bank. -/
  | firmwareWrite (conn : Nat) (mseq : Word) (len : Nat) (foff : BitVec 32) (data : List Byte)
  /-- FIRMWARE_SELECT (R24): Management message that verifies and selects the bank for the next cold reset. -/
  | firmwareSelect (conn : Nat) (mseq : Word) (len : Nat) (bank : BitVec 32)
  /-- ATTEST (R53): Management message that returns a signed attestation report for a nonce. -/
  | attest (conn : Nat) (mseq : Word) (len : Nat) (nonce : BitVec 256)
  /-- EVENTS (R24): Management message that returns the boot, training, thermal and link reports since the last read. -/
  | events (conn : Nat) (mseq : Word) (len : Nat)
  /-- ENROLL_CLIENT (R24): Management message that enrols a client key during recovery boot. -/
  | enrollClient (conn : Nat) (mseq : Word) (len : Nat) (key : BitVec 256)
  /-- COLD_RESET (R17): RESET_N asserted stops all activity, zeroises keys and loses SRAM and the logbook. -/
  | coldReset
  /-- V12_AUX_LOSS (R11): Loss of V12_AUX while V48_MAIN is present acts as a cold reset. -/
  | v12AuxLoss
  /-- POWER_UP (R18): Deassertion of RESET_N with V12_AUX good samples the straps and runs the power-up sequence. -/
  | powerUp (pins : BitVec 9) (dimms : List (Nat × Bool × Nat)) (retrains : List (Option Nat)) (trainFail : Option Nat)
  /-- PWRGD_48 (R18): PWRGD_48 arrives during power-up and the V48_MAIN regulators are enabled. -/
  | pwrgd48
  /-- BRIDGE_CORE_RESET (R17): Bridge software or the watchdog restarts only the 64 bridge cores. -/
  | bridgeCoreReset
  /-- SENSOR_READ (R13): Every 100 µs the security controller reads the junction sensors and lowers or raises die clocks. -/
  | sensorRead (die : Nat) (temps : List Nat)
  /-- POWER_WINDOW (R14): At the end of each 1 ms window the firmware compares average power with the limit and steps the compute-die clocks. -/
  | powerWindow (watts : Nat)
  /-- MERIDIAN_LANE_FAILURE (R21): A lane failure retrains the port on two lanes or takes it down, rerouting its accesses. -/
  | meridianLaneFailure (port4 : BitVec 4)
  /-- MERIDIAN_ACCESS (R47): An arriving Meridian access is performed only for an owner whose peer mask includes the sender, else completes with an access fault. -/
  | meridianAccess (kind : BitVec 3) (src : BitVec 3) (owner : BitVec 12) (va : Word) (size : Nat) (v : Word)
  /-- PATROL_SCRUB (R117): The patrol scrubber reads every SRAM and DRAM word at least once in 24 hours, correcting or poisoning. -/
  | patrolScrub (location : Nat) (bad : Bool)
  /-- ILLEGAL_INSTRUCTION (R244): An instruction word with a reserved major code, fn, op or sub-code takes a precise illegal-instruction trap, cause 0x01. -/
  | illegalInstruction (word : IWord)
  /-- BAD_OP (R45): An OWNCMD write with an op other than 1 to 6 fails with result 1 in OWNSTAT. -/
  | badOp (op : BitVec 4) (owner : BitVec 12)
  /-- UNKNOWN_TYPE (R24): A management message of an undefined type receives a reply with status 1. -/
  | unknownType (conn : Nat) (mseq : Word) (mtype : BitVec 16)
  /-- REQTAIL_WRITE (R44): Software advances REQTAIL, and host-assisted requests held while the ring was full are written to it. -/
  | reqtailWrite (v : Word)
  /-- MANAGEMENT_CONNECTION (R24): A client opens a TLS 1.3 connection on TCP port 7420, which the security controller authenticates against enrolled keys and accepts up to four of. -/
  | managementConnection (conn : Nat) (key : BitVec 256)
  /-- GET (R330): Stream command that copies LEN bytes from a far address into the own scratchpad. -/
  | get (core : Nat) (q : Nat)
  /-- PUT (R330): Stream command that copies LEN bytes from the own scratchpad to a far address. -/
  | put (core : Nat) (q : Nat)
  /-- GETX (R332): Stream command that gathers elements named by an index list into the own scratchpad. -/
  | getx (core : Nat) (q : Nat)
  /-- PUTX (R332): Stream command that scatters own-scratchpad elements to addresses named by an index list. -/
  | putx (core : Nat) (q : Nat)
  /-- COPY (R330): Stream command that copies LEN bytes from a far source to a destination address read from the scratchpad. -/
  | copy (core : Nat) (q : Nat)
  /-- FILL (R330): Stream command that fills LEN bytes at a far address with an 8-byte pattern. -/
  | fill (core : Nat) (q : Nat)
  /-- REDPUT (R334): Stream command that adds own-scratchpad elements into far elements as relaxed atomics at their homes. -/
  | redput (core : Nat) (q : Nat)
  /-- CHAIN (R337): Stream command that multicasts LEN bytes along a chain of cores with reserved buffers. -/
  | chain (core : Nat) (q : Nat)
  /-- HALO (R344): Stream command that sends a core's faces to its neighbours and completes when the expected faces have arrived. -/
  | halo (core : Nat) (q : Nat)
  /-- BIND (R347): Stream command that binds or releases an elastic circuit for a halo group between gang crews. -/
  | bind (core : Nat) (q : Nat)
  /-- SCAN (R336): Stream command that writes an index list, and optionally the values, of the non-zero elements of a vector. -/
  | scan (core : Nat) (q : Nat)
  /-- PROBE (R333): Stream command that translates and holds the pages an index list covers. -/
  | probe (core : Nat) (q : Nat)
  /-- COMMAND_START (R325): A queued stream command starts when its predecessor completes and its counter is not draining. -/
  | commandStart (core : Nat) (q : Nat)
  /-- COMMAND_COMPLETE (R325): A stream command completes once its writes are home and its reads returned, then makes its counter increment and response element. -/
  | commandComplete (core : Nat) (q : Nat)
  /-- FACE_DELIVERED (R345): A halo face from another core is stored, raises INB for its group, and may complete a waiting halo. -/
  | faceDelivered (core : Nat) (q : Nat) (face : Nat)
  /-- CREW (R32): The helm reads a CREW launch record, checks it under R33, and accepts or rejects it with a logbook entry. -/
  | crew (queue : BitVec 8)
  /-- GANG (R60): The helm reads a GANG launch record, checks it, and accepts or rejects it. -/
  | gang (queue : BitVec 8)
  /-- VOYAGE (R32): The helm reads a VOYAGE launch record, checks it, and accepts or rejects it. -/
  | voyage (queue : BitVec 8)
  /-- STREAM (R32): The helm reads a STREAM launch record, checks it, and accepts or rejects it. -/
  | stream (queue : BitVec 8)
  /-- WAIT (R36): The helm reads a WAIT record, which completes when its event slot reaches its target. -/
  | wait (queue : BitVec 8)
  /-- GRAPH (R34): The helm reads a GRAPH record and checks its whole array before accepting every record of it or rejecting the GRAPH. -/
  | graph (queue : BitVec 8)
  /-- NESTED_GRAPH_START (R34): A nested GRAPH becomes startable and its array is checked, accepted or faulted. -/
  | nestedGraphStart (seq : Nat)
  /-- ABORTED_ENTRY (R39): Once every access of aborted work has been performed or discarded, the helm writes its aborted entry. -/
  | abortedEntry (seq : Nat)
  /-- KEY_TRANSFER_TIMEOUT (R47): An export or join whose matching command does not arrive within 100 ms ends with result 5. -/
  | keyTransferTimeout
  /-- INVALIDATION_DONE (R100): INVBUSY clears once no matching entry remains and every access through a removed entry has been performed. -/
  | invalidationDone
  /-- CREW_ADMIT (R55): The helm and pilot place and admit a crew on the C lowest idle cores of a cluster, making its threads ready. -/
  | crewAdmit (seq : Nat)
  /-- GANG_ADMIT (R60): The pilot admits all crews of a gang in one decision, or none. -/
  | gangAdmit (seq : Nat)
  /-- STREAM_ADMIT (R206): A STREAM launch is placed, its image loaded, and its section armed with its arguments and tile count. -/
  | streamAdmit (seq : Nat)
  /-- VOYAGE_ADMIT (R70): A VOYAGE launch is placed on a cluster and its descriptor is read and checked. -/
  | voyageAdmit (seq : Nat)
  /-- CLUSTER_SCRUB (R49): Before a new owner's crew, the cluster's SRAM, bits, caches and control state are cleared. -/
  | clusterScrub (cluster : Nat)
  /-- RESERVATION (R72): When a launch's unit has been refused longer than HAGE, the pilot reserves clusters for it. -/
  | reservation (seq : Nat)
  /-- PREEMPTION (R74): When a unit waits longer than its HPREEMPT wait, the helm starts pre-empting victim crews. -/
  | preemption (seq : Nat)
  /-- SAVE_COMPLETE (R111): A crew's pre-emption save completes and its cores become idle. -/
  | saveComplete (crew : Nat)
  /-- CREW_RESUME (R114): A pre-empted crew is restored on its cores and its threads become ready or parked as saved. -/
  | crewResume (crew : Nat)
  /-- CREW_RETIRE (R58): When every thread of a crew has exited and its spill area and voyage are done, the crew retires. -/
  | crewRetire (crew : Nat)
  /-- TIER_EPOCH (R83): At the end of each epoch the pilot sums access counts and promotes or demotes pages. -/
  | tierEpoch
  /-- PAGE_MOVE_COMPLETE (R84): A page copy through its home ends and the PTE's tier field is rewritten. -/
  | pageMoveComplete (owner : BitVec 12) (page : BitVec 39)
  /-- LOAD_RETURN (R128): The value of a parked load or atomic returns and the thread becomes ready. -/
  | loadReturn (tag : Nat)
  /-- HOME_ARRIVAL (R224): An access arrives at its home and is performed in home order. -/
  | homeArrival (access : Nat)
  /-- RELEASE_ACK (R141): The homes acknowledge a release write-back and the release completes. -/
  | releaseAck (tag : Nat)
  /-- WALK_COMPLETE (R94): A page-table walk ends, filling the TLBs and releasing waiters, or becoming a fault entry. -/
  | walkComplete (die : BitVec 3) (owner : BitVec 12) (page : BitVec 39)
  /-- ICACHE_FILL (R139): An instruction-cache line arrives and the threads parked on its miss resume. -/
  | icacheFill (core : Nat) (line : Nat)
  /-- SEND_ARRIVES (R131): A send reaches its target cluster, which refuses or accepts it, and the answer wakes the sender. -/
  | sendArrives (msg : Nat)
  /-- MESSAGE_DELIVERY (R132): An accepted message fills its target register or waits in the holding buffer or network. -/
  | messageDelivery (msg : Nat)
  /-- SPAWN_ARRIVES (R64): A spawn reaches its target cluster, which refuses it or starts a task or queues it. -/
  | spawnArrives (msg : Nat)
  /-- PENDING_TASK_START (R66): When a slot frees or an entry becomes eligible, the highest-priority oldest pending spawn starts. -/
  | pendingTaskStart (cluster : Nat)
  /-- SPILL (R108): A send or spawn still undelivered 1,024 clk after issue spills to the crew's spill area. -/
  | spill (msg : Nat)
  /-- SPILL_RETRY (R110): Every 1,024 clk the spill engine retries writing held traffic after a spill failure. -/
  | spillRetry (cluster : Nat)
  /-- SPILL_DELIVER (R109): The spill engine delivers a spilled entry once its target can take it. -/
  | spillDeliver (crew : Nat)
  /-- WAITER_RESEND (R129): Every 64 clk a core re-sends a full/empty request that a full waiter unit refused. -/
  | waiterResend (tag : Nat)
  /-- DEFERRED_TRAP (R105): A pending deferred trap is taken at the thread's next instruction boundary. -/
  | deferredTrap (tag : Nat)
  /-- CREW_EVENT (R107): A crew event is delivered to the crew's event thread, waking it if parked. -/
  | crewEvent (crew : Nat)
  /-- TILE_START (R136): A queued tile instruction starts when the engine's timing rules allow. -/
  | tileStart (core : Nat)
  /-- TILE_COMPLETE (R136): A tile instruction completes and leaves the queue. -/
  | tileComplete (core : Nat)
  /-- SERVE_ADMIT (R378): The server entry port admits the next core's head packet when tag, commit and argument-link room exist. -/
  | serveAdmit (cluster : Nat) (server : Nat)
  /-- SERVE_EXIT (R186): The exit pairs a result set with its tag, commits or discards held stores, and returns results or poison. -/
  | serveExit (cluster : Nat) (fid : BitVec 12)
  /-- CELL_FIRE (R177): Each clock a cell fires, switches or idles among its contexts. -/
  | cellFire (cluster : Nat) (server : Nat) (cell : Nat)
  /-- SERVE_TIMEOUT (R188): A packet still inside 1,048,576 clk after admission marks the image broken and unloads it. -/
  | serveTimeout (cluster : Nat) (fid : BitVec 12)
  /-- IMAGE_LOAD (R199): The pilot reads, validates, places and configures an image for waiting calls. -/
  | imageLoad (cluster : Nat) (fid : BitVec 12)
  /-- IMAGE_LOAD_COMPLETE (R200): An image load ends and its first waiting packet is admitted, or waiting calls are poisoned. -/
  | imageLoadComplete (cluster : Nat) (fid : BitVec 12)
  /-- IMAGE_EVICT (R201): An image becomes quiescent and is evicted if EVPEND is set or a placement needs its pages. -/
  | imageEvict (cluster : Nat) (fid : BitVec 12)
  /-- COMPACTION (R202): A quiescent image is moved to another rectangle by freeze and thaw, raising its GEN. -/
  | compaction (cluster : Nat) (fid : BitVec 12)
  /-- TWIN_RELOAD (R119): After a twin mismatch the pilot reloads both copies, or withdraws the server after four mismatches in a second. -/
  | twinReload (cluster : Nat) (fid : BitVec 12)
  /-- FREEZE_WAVE (R115): A freeze wave halts a fabric region and reads it out as a relocatable image. -/
  | freezeWave (cluster : Nat) (fid : BitVec 12)
  /-- THAW (R115): A frozen image is written into a free rectangle and released by a reverse wave. -/
  | thaw (cluster : Nat) (fid : BitVec 12)
  /-- SECTION_COMPLETE (R207): When the armed tile count is spent and its stores are performed, a stream section completes. -/
  | sectionComplete (cluster : Nat) (fid : BitVec 12)
  /-- ENDPOINT_POLL (R368): A consumer endpoint re-reads the tail word every 64 clk while it waits. -/
  | endpointPoll (cluster : Nat) (server : Nat) (cell : Nat)
  /-- EMBARK (R152): The ring controller zeroes the counter, checks headers, fetches tiles and builds chart memory. -/
  | embark (cluster : Nat)
  /-- EMBARK_COMPLETE (R152): Every tile fetch has been performed and half-step 0 begins. -/
  | embarkComplete (cluster : Nat)
  /-- SIGHTING (R160): A station fires a pending sighting of its current half-step, running the tile engine or starting a task. -/
  | sighting (cluster : Nat) (station : Nat)
  /-- ACCUMULATION_COMPLETE (R160): All 256 additions of an engine-kind sighting have been performed and the entry is counted. -/
  | accumulationComplete (cluster : Nat) (entry : Nat)
  /-- STATION_READY (R155): A station whose tasks have released its tiles passes the moving tile and reports READY. -/
  | stationReady (cluster : Nat) (station : Nat)
  /-- HALF_STEP_START (R155): 4 clk after the last READY report the controller starts the next half-step, or ends the half-steps after h = 95. -/
  | halfStepStart (cluster : Nat)
  /-- RECKONING (R163): After half-step 95 the tiles are dropped and missed entries are copied to the reckoning list and rerun. -/
  | reckoning (cluster : Nat)
  /-- RECKON_TASK_START (R387): A reckoning thread-kind entry starts its task when a slot on its station frees. -/
  | reckonTaskStart (cluster : Nat) (station : Nat)
  /-- VOYAGE_FAILURE (R398): An access fault or declined fault in a voyage read or accumulation ends the voyage with ERROR 5. -/
  | voyageFailure (cluster : Nat)
  /-- VOYAGE_STOP (R167): A pre-empted voyage stops at its next half-step boundary and is saved. -/
  | voyageStop (cluster : Nat)
  /-- VOYAGE_RESUME (R169): A stopped voyage is restored on its cluster and resumes at its saved half-step or reckoning position. -/
  | voyageResume (cluster : Nat)
  /-- UNKNOWN_KIND (R33): The helm reads a launch record of kind 0x6 to 0xF and rejects it with reason 0x01 and a logbook entry. -/
  | unknownKind (queue : BitVec 8)
  deriving DecidableEq, Repr

end Sys2Proof
end

