-- ==== Sys2Proof/WellFormed.lean ====
section
/-! DEFINITION. The checks of an instruction's fields that its format leaves open and the spec makes illegal: those of
`spawn` (R256), `serve` (R257) and `sinfo` (R307); and the ranges of the names that the steps without a word carry. -/

namespace Sys2Proof

/-- A core name: cluster × 128 + core, with 256 clusters of 96 cores (R10, R120). -/
def coreName (k : Nat) : Bool := k / 128 < 256 && k % 128 < 96

/-- A thread tag (R130). -/
def threadTag (t : Nat) : Bool := coreName (t / 16)

/-- A cluster name: die × 32 + cluster (R8, R10). -/
def clusterName (c : Nat) : Bool := c < 256

/-- The checks on an instruction's operands. -/
def wellFormed : Instr → Bool
  | .spawn _ b k => k != 3 && (k != 0 || b == 0) && (k != 2 || b != 31)
  | .serveImm _ a _ _ n => a.toNat + n.toNat ≤ 31
  | .serveReg _ a _ n => a.toNat + n.toNat ≤ 31
  | .sinfo d _ => d.toNat ≤ 29
  | .get k q | .put k q | .getx k q | .putx k q | .copy k q | .fill k q | .redput k q | .chain k q | .halo k q
  | .bind k q | .scan k q | .probe k q | .commandStart k q | .commandComplete k q => coreName k && q < 4
  | .faceDelivered k q f => coreName k && q < 4 && f < 6
  | .tileStart k | .tileComplete k | .icacheFill k _ => coreName k
  | .loadReturn t | .releaseAck t | .waiterResend t | .deferredTrap t => threadTag t
  | .clusterScrub c | .pendingTaskStart c | .spillRetry c | .embark c | .embarkComplete c | .halfStepStart c
  | .reckoning c | .voyageFailure c | .voyageStop c | .voyageResume c => clusterName c
  | .sighting c st | .stationReady c st | .reckonTaskStart c st => clusterName c && st < 96
  | .serveAdmit c v => clusterName c && v < 12
  | .cellFire c v cell | .endpointPoll c v cell => clusterName c && v < 12 && cell < 128
  | .sensorRead die temps => die < 9 && temps.length == 8
  | .meridianLaneFailure p => p.toNat < 12
  | _ => true

end Sys2Proof
end

