-- ==== Sys2Proof/Decode.lean ====
section
/-! DEFINITION. The decoder of Speril instruction words, total on any word, and the encoder (R243–R258). A row holds the
bits that a form fixes (mask and pattern) and reads its fields. A word that matches no row, or whose fields break
R256, R257 or R307, is illegal under R244. -/

namespace Sys2Proof

/-- One form of the opcode map (R249): the fixed bits, and the instruction its fields give. -/
structure OpRow where
  mask  : IWord
  pat   : IWord
  build : IWord → Instr

/-- Rows of the integer register-register forms (R250). -/
def intRows : List OpRow :=
  [
    ⟨0xFC00_07FF, 0x0400_0000, fun w => .add (w.extractLsb' 21 5) (w.extractLsb' 16 5) (w.extractLsb' 11 5)⟩,
    ⟨0xFC00_07FF, 0x0400_0001, fun w => .sub (w.extractLsb' 21 5) (w.extractLsb' 16 5) (w.extractLsb' 11 5)⟩,
    ⟨0xFC00_07FF, 0x0400_0002, fun w => .and (w.extractLsb' 21 5) (w.extractLsb' 16 5) (w.extractLsb' 11 5)⟩,
    ⟨0xFC00_07FF, 0x0400_0003, fun w => .or (w.extractLsb' 21 5) (w.extractLsb' 16 5) (w.extractLsb' 11 5)⟩,
    ⟨0xFC00_07FF, 0x0400_0004, fun w => .xor (w.extractLsb' 21 5) (w.extractLsb' 16 5) (w.extractLsb' 11 5)⟩,
    ⟨0xFC00_07FF, 0x0400_0005, fun w => .andn (w.extractLsb' 21 5) (w.extractLsb' 16 5) (w.extractLsb' 11 5)⟩,
    ⟨0xFC00_07FF, 0x0400_0006, fun w => .sll (w.extractLsb' 21 5) (w.extractLsb' 16 5) (w.extractLsb' 11 5)⟩,
    ⟨0xFC00_07FF, 0x0400_0007, fun w => .srl (w.extractLsb' 21 5) (w.extractLsb' 16 5) (w.extractLsb' 11 5)⟩,
    ⟨0xFC00_07FF, 0x0400_0008, fun w => .sra (w.extractLsb' 21 5) (w.extractLsb' 16 5) (w.extractLsb' 11 5)⟩,
    ⟨0xFC00_07FF, 0x0400_0009, fun w => .rotl (w.extractLsb' 21 5) (w.extractLsb' 16 5) (w.extractLsb' 11 5)⟩,
    ⟨0xFC00_07FF, 0x0400_000A, fun w => .rotr (w.extractLsb' 21 5) (w.extractLsb' 16 5) (w.extractLsb' 11 5)⟩,
    ⟨0xFC00_07FF, 0x0400_000B, fun w => .slt (w.extractLsb' 21 5) (w.extractLsb' 16 5) (w.extractLsb' 11 5)⟩,
    ⟨0xFC00_07FF, 0x0400_000C, fun w => .sltu (w.extractLsb' 21 5) (w.extractLsb' 16 5) (w.extractLsb' 11 5)⟩,
    ⟨0xFC00_07FF, 0x0400_000D, fun w => .min (w.extractLsb' 21 5) (w.extractLsb' 16 5) (w.extractLsb' 11 5)⟩,
    ⟨0xFC00_07FF, 0x0400_000E, fun w => .max (w.extractLsb' 21 5) (w.extractLsb' 16 5) (w.extractLsb' 11 5)⟩,
    ⟨0xFC00_07FF, 0x0400_000F, fun w => .minu (w.extractLsb' 21 5) (w.extractLsb' 16 5) (w.extractLsb' 11 5)⟩,
    ⟨0xFC00_07FF, 0x0400_0010, fun w => .maxu (w.extractLsb' 21 5) (w.extractLsb' 16 5) (w.extractLsb' 11 5)⟩,
    ⟨0xFC00_07FF, 0x0400_0011, fun w => .mul (w.extractLsb' 21 5) (w.extractLsb' 16 5) (w.extractLsb' 11 5)⟩,
    ⟨0xFC00_07FF, 0x0400_0012, fun w => .mulh (w.extractLsb' 21 5) (w.extractLsb' 16 5) (w.extractLsb' 11 5)⟩,
    ⟨0xFC00_07FF, 0x0400_0013, fun w => .mulhu (w.extractLsb' 21 5) (w.extractLsb' 16 5) (w.extractLsb' 11 5)⟩,
    ⟨0xFC00_07FF, 0x0400_0014, fun w => .mulhsu (w.extractLsb' 21 5) (w.extractLsb' 16 5) (w.extractLsb' 11 5)⟩,
    ⟨0xFC00_07FF, 0x0400_0015, fun w => .div (w.extractLsb' 21 5) (w.extractLsb' 16 5) (w.extractLsb' 11 5)⟩,
    ⟨0xFC00_07FF, 0x0400_0016, fun w => .divu (w.extractLsb' 21 5) (w.extractLsb' 16 5) (w.extractLsb' 11 5)⟩,
    ⟨0xFC00_07FF, 0x0400_0017, fun w => .rem (w.extractLsb' 21 5) (w.extractLsb' 16 5) (w.extractLsb' 11 5)⟩,
    ⟨0xFC00_07FF, 0x0400_0018, fun w => .remu (w.extractLsb' 21 5) (w.extractLsb' 16 5) (w.extractLsb' 11 5)⟩,
    ⟨0xFC00_FFFF, 0x0400_0019, fun w => .clz (w.extractLsb' 21 5) (w.extractLsb' 16 5)⟩,
    ⟨0xFC00_FFFF, 0x0400_001A, fun w => .ctz (w.extractLsb' 21 5) (w.extractLsb' 16 5)⟩,
    ⟨0xFC00_FFFF, 0x0400_001B, fun w => .popc (w.extractLsb' 21 5) (w.extractLsb' 16 5)⟩,
    ⟨0xFC00_FFFF, 0x0400_001C, fun w => .bswap (w.extractLsb' 21 5) (w.extractLsb' 16 5)⟩ ]

/-- Rows of the word forms (R250). -/
def wordRows : List OpRow :=
  [
    ⟨0xFC00_07FF, 0x0800_0000, fun w => .addW (w.extractLsb' 21 5) (w.extractLsb' 16 5) (w.extractLsb' 11 5)⟩,
    ⟨0xFC00_07FF, 0x0800_0001, fun w => .subW (w.extractLsb' 21 5) (w.extractLsb' 16 5) (w.extractLsb' 11 5)⟩,
    ⟨0xFC00_07FF, 0x0800_0006, fun w => .sllW (w.extractLsb' 21 5) (w.extractLsb' 16 5) (w.extractLsb' 11 5)⟩,
    ⟨0xFC00_07FF, 0x0800_0007, fun w => .srlW (w.extractLsb' 21 5) (w.extractLsb' 16 5) (w.extractLsb' 11 5)⟩,
    ⟨0xFC00_07FF, 0x0800_0008, fun w => .sraW (w.extractLsb' 21 5) (w.extractLsb' 16 5) (w.extractLsb' 11 5)⟩,
    ⟨0xFC00_07FF, 0x0800_0011, fun w => .mulW (w.extractLsb' 21 5) (w.extractLsb' 16 5) (w.extractLsb' 11 5)⟩,
    ⟨0xFC00_07FF, 0x0800_0015, fun w => .divW (w.extractLsb' 21 5) (w.extractLsb' 16 5) (w.extractLsb' 11 5)⟩,
    ⟨0xFC00_07FF, 0x0800_0016, fun w => .divuW (w.extractLsb' 21 5) (w.extractLsb' 16 5) (w.extractLsb' 11 5)⟩,
    ⟨0xFC00_07FF, 0x0800_0017, fun w => .remW (w.extractLsb' 21 5) (w.extractLsb' 16 5) (w.extractLsb' 11 5)⟩,
    ⟨0xFC00_07FF, 0x0800_0018, fun w => .remuW (w.extractLsb' 21 5) (w.extractLsb' 16 5) (w.extractLsb' 11 5)⟩ ]

/-- Rows of the floating point (R252). -/
def floatRows : List OpRow :=
  [
    ⟨0xFC00_07FE, 0x0C00_0000, fun w => .fadd (w.extractLsb' 21 5) (w.extractLsb' 16 5) (w.extractLsb' 11 5) (w.extractLsb' 0 1)⟩,
    ⟨0xFC00_07FE, 0x0C00_0002, fun w => .fsub (w.extractLsb' 21 5) (w.extractLsb' 16 5) (w.extractLsb' 11 5) (w.extractLsb' 0 1)⟩,
    ⟨0xFC00_07FE, 0x0C00_0004, fun w => .fmul (w.extractLsb' 21 5) (w.extractLsb' 16 5) (w.extractLsb' 11 5) (w.extractLsb' 0 1)⟩,
    ⟨0xFC00_07FE, 0x0C00_0006, fun w => .fdiv (w.extractLsb' 21 5) (w.extractLsb' 16 5) (w.extractLsb' 11 5) (w.extractLsb' 0 1)⟩,
    ⟨0xFC00_FFFE, 0x0C00_0008, fun w => .fsqrt (w.extractLsb' 21 5) (w.extractLsb' 16 5) (w.extractLsb' 0 1)⟩,
    ⟨0xFC00_003E, 0x0C00_000A, fun w => .fmadd (w.extractLsb' 21 5) (w.extractLsb' 16 5) (w.extractLsb' 11 5) (w.extractLsb' 6 5) (w.extractLsb' 0 1)⟩,
    ⟨0xFC00_003E, 0x0C00_000C, fun w => .fmsub (w.extractLsb' 21 5) (w.extractLsb' 16 5) (w.extractLsb' 11 5) (w.extractLsb' 6 5) (w.extractLsb' 0 1)⟩,
    ⟨0xFC00_003E, 0x0C00_000E, fun w => .fnmadd (w.extractLsb' 21 5) (w.extractLsb' 16 5) (w.extractLsb' 11 5) (w.extractLsb' 6 5) (w.extractLsb' 0 1)⟩,
    ⟨0xFC00_07FE, 0x0C00_0010, fun w => .fmin (w.extractLsb' 21 5) (w.extractLsb' 16 5) (w.extractLsb' 11 5) (w.extractLsb' 0 1)⟩,
    ⟨0xFC00_07FE, 0x0C00_0012, fun w => .fmax (w.extractLsb' 21 5) (w.extractLsb' 16 5) (w.extractLsb' 11 5) (w.extractLsb' 0 1)⟩,
    ⟨0xFC00_07FE, 0x0C00_0014, fun w => .fsgnj (w.extractLsb' 21 5) (w.extractLsb' 16 5) (w.extractLsb' 11 5) (w.extractLsb' 0 1)⟩,
    ⟨0xFC00_07FE, 0x0C00_0016, fun w => .fsgnjn (w.extractLsb' 21 5) (w.extractLsb' 16 5) (w.extractLsb' 11 5) (w.extractLsb' 0 1)⟩,
    ⟨0xFC00_07FE, 0x0C00_0018, fun w => .fsgnjx (w.extractLsb' 21 5) (w.extractLsb' 16 5) (w.extractLsb' 11 5) (w.extractLsb' 0 1)⟩,
    ⟨0xFC00_07FE, 0x0C00_001A, fun w => .feq (w.extractLsb' 21 5) (w.extractLsb' 16 5) (w.extractLsb' 11 5) (w.extractLsb' 0 1)⟩,
    ⟨0xFC00_07FE, 0x0C00_001C, fun w => .flt (w.extractLsb' 21 5) (w.extractLsb' 16 5) (w.extractLsb' 11 5) (w.extractLsb' 0 1)⟩,
    ⟨0xFC00_07FE, 0x0C00_001E, fun w => .fle (w.extractLsb' 21 5) (w.extractLsb' 16 5) (w.extractLsb' 11 5) (w.extractLsb' 0 1)⟩,
    ⟨0xFC00_FFFE, 0x0C00_0020, fun w => .fclass (w.extractLsb' 21 5) (w.extractLsb' 16 5) (w.extractLsb' 0 1)⟩,
    ⟨0xFC00_FFFE, 0x0C00_0022, fun w => .fcvtW (w.extractLsb' 21 5) (w.extractLsb' 16 5) (w.extractLsb' 0 1)⟩,
    ⟨0xFC00_FFFE, 0x0C00_0062, fun w => .fcvtWu (w.extractLsb' 21 5) (w.extractLsb' 16 5) (w.extractLsb' 0 1)⟩,
    ⟨0xFC00_FFFE, 0x0C00_00A2, fun w => .fcvtL (w.extractLsb' 21 5) (w.extractLsb' 16 5) (w.extractLsb' 0 1)⟩,
    ⟨0xFC00_FFFE, 0x0C00_00E2, fun w => .fcvtLu (w.extractLsb' 21 5) (w.extractLsb' 16 5) (w.extractLsb' 0 1)⟩,
    ⟨0xFC00_FFFE, 0x0C00_0122, fun w => .fcvtFromW (w.extractLsb' 21 5) (w.extractLsb' 16 5) (w.extractLsb' 0 1)⟩,
    ⟨0xFC00_FFFE, 0x0C00_0162, fun w => .fcvtFromWu (w.extractLsb' 21 5) (w.extractLsb' 16 5) (w.extractLsb' 0 1)⟩,
    ⟨0xFC00_FFFE, 0x0C00_01A2, fun w => .fcvtFromL (w.extractLsb' 21 5) (w.extractLsb' 16 5) (w.extractLsb' 0 1)⟩,
    ⟨0xFC00_FFFE, 0x0C00_01E2, fun w => .fcvtFromLu (w.extractLsb' 21 5) (w.extractLsb' 16 5) (w.extractLsb' 0 1)⟩,
    ⟨0xFC00_FFFE, 0x0C00_0222, fun w => .fcvtDS (w.extractLsb' 21 5) (w.extractLsb' 16 5) (w.extractLsb' 0 1)⟩,
    ⟨0xFC00_FFFF, 0x0C00_0262, fun w => .fcvtHS (w.extractLsb' 21 5) (w.extractLsb' 16 5)⟩,
    ⟨0xFC00_FFFF, 0x0C00_02A2, fun w => .fcvtSH (w.extractLsb' 21 5) (w.extractLsb' 16 5)⟩,
    ⟨0xFC00_FFFF, 0x0C00_02E2, fun w => .fcvtBfS (w.extractLsb' 21 5) (w.extractLsb' 16 5)⟩,
    ⟨0xFC00_FFFF, 0x0C00_0322, fun w => .fcvtSBf (w.extractLsb' 21 5) (w.extractLsb' 16 5)⟩,
    ⟨0xFC00_FFFF, 0x0C00_0362, fun w => .fcvtE4S (w.extractLsb' 21 5) (w.extractLsb' 16 5)⟩,
    ⟨0xFC00_FFFF, 0x0C00_03A2, fun w => .fcvtSE4 (w.extractLsb' 21 5) (w.extractLsb' 16 5)⟩,
    ⟨0xFC00_FFFF, 0x0C00_03E2, fun w => .fcvtE5S (w.extractLsb' 21 5) (w.extractLsb' 16 5)⟩,
    ⟨0xFC00_FFFF, 0x0C00_0422, fun w => .fcvtSE5 (w.extractLsb' 21 5) (w.extractLsb' 16 5)⟩ ]

/-- Rows of the immediates and shift-immediates (R249, R251). -/
def immRows : List OpRow :=
  [
    ⟨0xFC00_0000, 0x1000_0000, fun w => .addi (w.extractLsb' 21 5) (w.extractLsb' 16 5) (w.extractLsb' 0 16)⟩,
    ⟨0xFC00_0000, 0x1400_0000, fun w => .andi (w.extractLsb' 21 5) (w.extractLsb' 16 5) (w.extractLsb' 0 16)⟩,
    ⟨0xFC00_0000, 0x1800_0000, fun w => .ori (w.extractLsb' 21 5) (w.extractLsb' 16 5) (w.extractLsb' 0 16)⟩,
    ⟨0xFC00_0000, 0x1C00_0000, fun w => .xori (w.extractLsb' 21 5) (w.extractLsb' 16 5) (w.extractLsb' 0 16)⟩,
    ⟨0xFC00_0000, 0x2000_0000, fun w => .slti (w.extractLsb' 21 5) (w.extractLsb' 16 5) (w.extractLsb' 0 16)⟩,
    ⟨0xFC00_0000, 0x2400_0000, fun w => .sltiu (w.extractLsb' 21 5) (w.extractLsb' 16 5) (w.extractLsb' 0 16)⟩,
    ⟨0xFC00_0000, 0x3400_0000, fun w => .addiW (w.extractLsb' 21 5) (w.extractLsb' 16 5) (w.extractLsb' 0 16)⟩,
    ⟨0xFC00_FFC0, 0x2800_0000, fun w => .slli (w.extractLsb' 21 5) (w.extractLsb' 16 5) (w.extractLsb' 0 6)⟩,
    ⟨0xFC00_FFC0, 0x2800_0100, fun w => .srli (w.extractLsb' 21 5) (w.extractLsb' 16 5) (w.extractLsb' 0 6)⟩,
    ⟨0xFC00_FFC0, 0x2800_0200, fun w => .srai (w.extractLsb' 21 5) (w.extractLsb' 16 5) (w.extractLsb' 0 6)⟩,
    ⟨0xFC00_FFC0, 0x2800_0300, fun w => .rotri (w.extractLsb' 21 5) (w.extractLsb' 16 5) (w.extractLsb' 0 6)⟩,
    ⟨0xFC00_FFE0, 0x3800_0000, fun w => .slliW (w.extractLsb' 21 5) (w.extractLsb' 16 5) (w.extractLsb' 0 5)⟩,
    ⟨0xFC00_FFE0, 0x3800_0100, fun w => .srliW (w.extractLsb' 21 5) (w.extractLsb' 16 5) (w.extractLsb' 0 5)⟩,
    ⟨0xFC00_FFE0, 0x3800_0200, fun w => .sraiW (w.extractLsb' 21 5) (w.extractLsb' 16 5) (w.extractLsb' 0 5)⟩,
    ⟨0xFC00_0000, 0x2C00_0000, fun w => .ldhi (w.extractLsb' 21 5) (w.extractLsb' 0 21)⟩,
    ⟨0xFC00_0000, 0x3000_0000, fun w => .pcadd (w.extractLsb' 21 5) (w.extractLsb' 0 21)⟩ ]

/-- Rows of the loads, stores, full/empty group (R249, R253). -/
def memRows : List OpRow :=
  [
    ⟨0xFC00_0000, 0x4000_0000, fun w => .ldB (w.extractLsb' 21 5) (w.extractLsb' 16 5) (w.extractLsb' 0 16)⟩,
    ⟨0xFC00_0000, 0x4400_0000, fun w => .ldBu (w.extractLsb' 21 5) (w.extractLsb' 16 5) (w.extractLsb' 0 16)⟩,
    ⟨0xFC00_0000, 0x4800_0000, fun w => .ldH (w.extractLsb' 21 5) (w.extractLsb' 16 5) (w.extractLsb' 0 16)⟩,
    ⟨0xFC00_0000, 0x4C00_0000, fun w => .ldHu (w.extractLsb' 21 5) (w.extractLsb' 16 5) (w.extractLsb' 0 16)⟩,
    ⟨0xFC00_0000, 0x5000_0000, fun w => .ldW (w.extractLsb' 21 5) (w.extractLsb' 16 5) (w.extractLsb' 0 16)⟩,
    ⟨0xFC00_0000, 0x5400_0000, fun w => .ldWu (w.extractLsb' 21 5) (w.extractLsb' 16 5) (w.extractLsb' 0 16)⟩,
    ⟨0xFC00_0000, 0x5800_0000, fun w => .ldD (w.extractLsb' 21 5) (w.extractLsb' 16 5) (w.extractLsb' 0 16)⟩,
    ⟨0xFC00_0000, 0x6000_0000, fun w => .stB (w.extractLsb' 21 5) (w.extractLsb' 16 5) (w.extractLsb' 0 16)⟩,
    ⟨0xFC00_0000, 0x6400_0000, fun w => .stH (w.extractLsb' 21 5) (w.extractLsb' 16 5) (w.extractLsb' 0 16)⟩,
    ⟨0xFC00_0000, 0x6800_0000, fun w => .stW (w.extractLsb' 21 5) (w.extractLsb' 16 5) (w.extractLsb' 0 16)⟩,
    ⟨0xFC00_0000, 0x6C00_0000, fun w => .stD (w.extractLsb' 21 5) (w.extractLsb' 16 5) (w.extractLsb' 0 16)⟩,
    ⟨0xFC00_E000, 0x7000_0000, fun w => .ldsyncTake (w.extractLsb' 21 5) (w.extractLsb' 16 5) (w.extractLsb' 0 13)⟩,
    ⟨0xFC00_E000, 0x7000_2000, fun w => .ldsyncKeep (w.extractLsb' 21 5) (w.extractLsb' 16 5) (w.extractLsb' 0 13)⟩,
    ⟨0xFC00_E000, 0x7000_4000, fun w => .stsyncFill (w.extractLsb' 21 5) (w.extractLsb' 16 5) (w.extractLsb' 0 13)⟩,
    ⟨0xFC00_E000, 0x7000_6000, fun w => .stsyncSet (w.extractLsb' 21 5) (w.extractLsb' 16 5) (w.extractLsb' 0 13)⟩,
    ⟨0xFFE0_E000, 0x7000_8000, fun w => .syncClear (w.extractLsb' 16 5) (w.extractLsb' 0 13)⟩,
    ⟨0xFC00_E000, 0x7000_A000, fun w => .syncTest (w.extractLsb' 21 5) (w.extractLsb' 16 5) (w.extractLsb' 0 13)⟩ ]

/-- Rows of the atomics, fences, barriers (R254, R255). -/
def atomRows : List OpRow :=
  [
    ⟨0xFC00_0783, 0x7400_0000, fun w => .atmAdd (w.extractLsb' 21 5) (w.extractLsb' 16 5) (w.extractLsb' 11 5) (w.extractLsb' 6 1) (w.extractLsb' 4 2) (w.extractLsb' 2 2)⟩,
    ⟨0xFC00_0783, 0x7400_0080, fun w => .atmAnd (w.extractLsb' 21 5) (w.extractLsb' 16 5) (w.extractLsb' 11 5) (w.extractLsb' 6 1) (w.extractLsb' 4 2) (w.extractLsb' 2 2)⟩,
    ⟨0xFC00_0783, 0x7400_0100, fun w => .atmOr (w.extractLsb' 21 5) (w.extractLsb' 16 5) (w.extractLsb' 11 5) (w.extractLsb' 6 1) (w.extractLsb' 4 2) (w.extractLsb' 2 2)⟩,
    ⟨0xFC00_0783, 0x7400_0180, fun w => .atmXor (w.extractLsb' 21 5) (w.extractLsb' 16 5) (w.extractLsb' 11 5) (w.extractLsb' 6 1) (w.extractLsb' 4 2) (w.extractLsb' 2 2)⟩,
    ⟨0xFC00_0783, 0x7400_0200, fun w => .atmMin (w.extractLsb' 21 5) (w.extractLsb' 16 5) (w.extractLsb' 11 5) (w.extractLsb' 6 1) (w.extractLsb' 4 2) (w.extractLsb' 2 2)⟩,
    ⟨0xFC00_0783, 0x7400_0280, fun w => .atmMax (w.extractLsb' 21 5) (w.extractLsb' 16 5) (w.extractLsb' 11 5) (w.extractLsb' 6 1) (w.extractLsb' 4 2) (w.extractLsb' 2 2)⟩,
    ⟨0xFC00_0783, 0x7400_0300, fun w => .atmMinu (w.extractLsb' 21 5) (w.extractLsb' 16 5) (w.extractLsb' 11 5) (w.extractLsb' 6 1) (w.extractLsb' 4 2) (w.extractLsb' 2 2)⟩,
    ⟨0xFC00_0783, 0x7400_0380, fun w => .atmMaxu (w.extractLsb' 21 5) (w.extractLsb' 16 5) (w.extractLsb' 11 5) (w.extractLsb' 6 1) (w.extractLsb' 4 2) (w.extractLsb' 2 2)⟩,
    ⟨0xFC00_0783, 0x7400_0400, fun w => .atmSwap (w.extractLsb' 21 5) (w.extractLsb' 16 5) (w.extractLsb' 11 5) (w.extractLsb' 6 1) (w.extractLsb' 4 2) (w.extractLsb' 2 2)⟩,
    ⟨0xFC00_0783, 0x7400_0480, fun w => .atmCas (w.extractLsb' 21 5) (w.extractLsb' 16 5) (w.extractLsb' 11 5) (w.extractLsb' 6 1) (w.extractLsb' 4 2) (w.extractLsb' 2 2)⟩,
    ⟨0xFC00_07C3, 0x7400_0500, fun w => .atmFaddS (w.extractLsb' 21 5) (w.extractLsb' 16 5) (w.extractLsb' 11 5) (w.extractLsb' 4 2) (w.extractLsb' 2 2)⟩,
    ⟨0xFFFF_FFF3, 0x7800_0000, fun w => .fenceAcq (w.extractLsb' 2 2)⟩,
    ⟨0xFFFF_FFF3, 0x7800_0100, fun w => .fenceRel (w.extractLsb' 2 2)⟩,
    ⟨0xFFFF_FFF3, 0x7800_0200, fun w => .fenceFull (w.extractLsb' 2 2)⟩,
    ⟨0xFFE0_FF0F, 0x7800_0300, fun w => .barrInit (w.extractLsb' 16 5) (w.extractLsb' 4 4)⟩,
    ⟨0xFC1F_FF0F, 0x7800_0400, fun w => .barrArrive (w.extractLsb' 21 5) (w.extractLsb' 4 4)⟩,
    ⟨0xFFE0_FF0F, 0x7800_0500, fun w => .barrWait (w.extractLsb' 16 5) (w.extractLsb' 4 4)⟩ ]

/-- Rows of the branches, call, jr (R249). -/
def ctlRows : List OpRow :=
  [
    ⟨0xFC00_0000, 0x8000_0000, fun w => .bEq (w.extractLsb' 21 5) (w.extractLsb' 16 5) (w.extractLsb' 0 16)⟩,
    ⟨0xFC00_0000, 0x8400_0000, fun w => .bNe (w.extractLsb' 21 5) (w.extractLsb' 16 5) (w.extractLsb' 0 16)⟩,
    ⟨0xFC00_0000, 0x8800_0000, fun w => .bLt (w.extractLsb' 21 5) (w.extractLsb' 16 5) (w.extractLsb' 0 16)⟩,
    ⟨0xFC00_0000, 0x8C00_0000, fun w => .bGe (w.extractLsb' 21 5) (w.extractLsb' 16 5) (w.extractLsb' 0 16)⟩,
    ⟨0xFC00_0000, 0x9000_0000, fun w => .bLtu (w.extractLsb' 21 5) (w.extractLsb' 16 5) (w.extractLsb' 0 16)⟩,
    ⟨0xFC00_0000, 0x9400_0000, fun w => .bGeu (w.extractLsb' 21 5) (w.extractLsb' 16 5) (w.extractLsb' 0 16)⟩,
    ⟨0xFC00_0000, 0x9800_0000, fun w => .call (w.extractLsb' 0 26)⟩,
    ⟨0xFC00_0000, 0x9C00_0000, fun w => .jr (w.extractLsb' 21 5) (w.extractLsb' 16 5) (w.extractLsb' 0 16)⟩ ]

/-- Rows of the messages, shared registers, servers (R256, R257). -/
def msgRows : List OpRow :=
  [
    ⟨0xFFE0_07F8, 0xA000_0000, fun w => .send (w.extractLsb' 16 5) (w.extractLsb' 11 5) (w.extractLsb' 0 3)⟩,
    ⟨0xFFE0_07FC, 0xA000_0100, fun w => .spawn (w.extractLsb' 16 5) (w.extractLsb' 11 5) (w.extractLsb' 0 2)⟩,
    ⟨0xFC1F_FFF8, 0xA000_0200, fun w => .mget (w.extractLsb' 21 5) (w.extractLsb' 0 3)⟩,
    ⟨0xFC1F_FFF8, 0xA000_0300, fun w => .mpeek (w.extractLsb' 21 5) (w.extractLsb' 0 3)⟩,
    ⟨0xFC1F_FFFF, 0xA000_0400, fun w => .mtest (w.extractLsb' 21 5)⟩,
    ⟨0xFC1F_FFF0, 0xA400_0000, fun w => .sget (w.extractLsb' 21 5) (w.extractLsb' 0 4)⟩,
    ⟨0xFFE0_FFF0, 0xA400_0100, fun w => .sput (w.extractLsb' 16 5) (w.extractLsb' 0 4)⟩,
    ⟨0xFC00_0020, 0xB000_0000, fun w => .serveImm (w.extractLsb' 21 5) (w.extractLsb' 16 5) (w.extractLsb' 6 10) (w.extractLsb' 3 2) (w.extractLsb' 0 3)⟩,
    ⟨0xFC00_07F8, 0xB000_0020, fun w => .serveReg (w.extractLsb' 21 5) (w.extractLsb' 16 5) (w.extractLsb' 11 5) (w.extractLsb' 0 3)⟩,
    ⟨0xFFE0_FFFF, 0xB400_0000, fun w => .sload (w.extractLsb' 16 5)⟩,
    ⟨0xFFE0_FFFF, 0xB400_0100, fun w => .sevict (w.extractLsb' 16 5)⟩,
    ⟨0xFC00_FFFF, 0xB400_0200, fun w => .sinfo (w.extractLsb' 21 5) (w.extractLsb' 16 5)⟩ ]

/-- Rows of the tile, voyage (R257, R258). -/
def tileRows : List OpRow :=
  [
    ⟨0xFFFF_F9FF, 0xC000_0000, fun w => .tzero (w.extractLsb' 9 2)⟩,
    ⟨0xFC00_0038, 0xC000_0008, fun w => .tmma (w.extractLsb' 21 5) (w.extractLsb' 16 5) (w.extractLsb' 11 5) (w.extractLsb' 9 2) (w.extractLsb' 6 3) (w.extractLsb' 0 3)⟩,
    ⟨0xFFE0_01F8, 0xC000_0010, fun w => .tdrain (w.extractLsb' 16 5) (w.extractLsb' 11 5) (w.extractLsb' 9 2) (w.extractLsb' 0 3)⟩,
    ⟨0xFFE0_F9FF, 0xC000_0018, fun w => .tload (w.extractLsb' 16 5) (w.extractLsb' 9 2)⟩,
    ⟨0xFC1F_FFFF, 0xC000_0020, fun w => .tstat (w.extractLsb' 21 5)⟩,
    ⟨0xFFE0_FFFF, 0xC400_0000, fun w => .vstart (w.extractLsb' 16 5)⟩,
    ⟨0xFC1F_FFFF, 0xC400_0100, fun w => .vrel (w.extractLsb' 21 5)⟩,
    ⟨0xFC1F_FFFF, 0xC400_0200, fun w => .vinfo (w.extractLsb' 21 5)⟩ ]

/-- Rows of the commands, counters, system (R258). -/
def sysRows : List OpRow :=
  [
    ⟨0xFFE0_07FC, 0xD000_0000, fun w => .scmd (w.extractLsb' 16 5) (w.extractLsb' 11 5) (w.extractLsb' 0 2)⟩,
    ⟨0xFC1F_FFFF, 0xD400_0000, fun w => .rget (w.extractLsb' 21 5)⟩,
    ⟨0xFFE0_FFF0, 0xD400_0100, fun w => .nwait (w.extractLsb' 16 5) (w.extractLsb' 0 4)⟩,
    ⟨0xFC1F_FFF0, 0xD400_0200, fun w => .nread (w.extractLsb' 21 5) (w.extractLsb' 0 4)⟩,
    ⟨0xFFE0_FFF0, 0xD400_0300, fun w => .nset (w.extractLsb' 16 5) (w.extractLsb' 0 4)⟩,
    ⟨0xFFE0_FFFF, 0x0000_0001, fun w => .trap (w.extractLsb' 16 5)⟩,
    ⟨0xFFFF_FFFF, 0x0000_0002, fun _ => .tret⟩,
    ⟨0xFC1F_07FF, 0x0000_0003, fun w => .rdsys (w.extractLsb' 21 5) (w.extractLsb' 11 5)⟩,
    ⟨0xFFE0_07FF, 0x0000_0004, fun w => .wrsys (w.extractLsb' 16 5) (w.extractLsb' 11 5)⟩,
    ⟨0xFFFF_FFFF, 0x0000_0005, fun _ => .exit⟩,
    ⟨0xFFFF_FFFF, 0x0000_0006, fun _ => .yield⟩,
    ⟨0xFFFF_FFFF, 0x0000_0007, fun _ => .park⟩ ]

/-- The complete opcode map (R249). -/
def opRows : List OpRow :=
  intRows ++ wordRows ++ floatRows ++ immRows ++ memRows ++ atomRows ++ ctlRows ++ msgRows ++ tileRows ++ sysRows

/-- The row whose fixed bits the word has. -/
def findRow : List OpRow → IWord → Option Instr
  | [], _ => none
  | r :: rest, w => if w &&& r.mask = r.pat then some (r.build w) else findRow rest w

/-- The instruction of a word; none for a word that R244 makes illegal. -/
def decode (w : IWord) : Option Instr :=
  match findRow opRows w with
  | some i => if wellFormed i then some i else none
  | none => none

/-- A field of an instruction word placed at bit `lo`. -/
def put {n : Nat} (v : BitVec n) (lo : Nat) : IWord := v.setWidth 32 <<< lo

/-- The word of an instruction (R245–R258); none for the steps that have no word. -/
def encode : Instr → Option IWord
  | .add d a b => some (0x0400_0000 ||| put d 21 ||| put a 16 ||| put b 11)
  | .sub d a b => some (0x0400_0001 ||| put d 21 ||| put a 16 ||| put b 11)
  | .and d a b => some (0x0400_0002 ||| put d 21 ||| put a 16 ||| put b 11)
  | .or d a b => some (0x0400_0003 ||| put d 21 ||| put a 16 ||| put b 11)
  | .xor d a b => some (0x0400_0004 ||| put d 21 ||| put a 16 ||| put b 11)
  | .andn d a b => some (0x0400_0005 ||| put d 21 ||| put a 16 ||| put b 11)
  | .sll d a b => some (0x0400_0006 ||| put d 21 ||| put a 16 ||| put b 11)
  | .srl d a b => some (0x0400_0007 ||| put d 21 ||| put a 16 ||| put b 11)
  | .sra d a b => some (0x0400_0008 ||| put d 21 ||| put a 16 ||| put b 11)
  | .rotl d a b => some (0x0400_0009 ||| put d 21 ||| put a 16 ||| put b 11)
  | .rotr d a b => some (0x0400_000A ||| put d 21 ||| put a 16 ||| put b 11)
  | .slt d a b => some (0x0400_000B ||| put d 21 ||| put a 16 ||| put b 11)
  | .sltu d a b => some (0x0400_000C ||| put d 21 ||| put a 16 ||| put b 11)
  | .min d a b => some (0x0400_000D ||| put d 21 ||| put a 16 ||| put b 11)
  | .max d a b => some (0x0400_000E ||| put d 21 ||| put a 16 ||| put b 11)
  | .minu d a b => some (0x0400_000F ||| put d 21 ||| put a 16 ||| put b 11)
  | .maxu d a b => some (0x0400_0010 ||| put d 21 ||| put a 16 ||| put b 11)
  | .mul d a b => some (0x0400_0011 ||| put d 21 ||| put a 16 ||| put b 11)
  | .mulh d a b => some (0x0400_0012 ||| put d 21 ||| put a 16 ||| put b 11)
  | .mulhu d a b => some (0x0400_0013 ||| put d 21 ||| put a 16 ||| put b 11)
  | .mulhsu d a b => some (0x0400_0014 ||| put d 21 ||| put a 16 ||| put b 11)
  | .div d a b => some (0x0400_0015 ||| put d 21 ||| put a 16 ||| put b 11)
  | .divu d a b => some (0x0400_0016 ||| put d 21 ||| put a 16 ||| put b 11)
  | .rem d a b => some (0x0400_0017 ||| put d 21 ||| put a 16 ||| put b 11)
  | .remu d a b => some (0x0400_0018 ||| put d 21 ||| put a 16 ||| put b 11)
  | .clz d a => some (0x0400_0019 ||| put d 21 ||| put a 16)
  | .ctz d a => some (0x0400_001A ||| put d 21 ||| put a 16)
  | .popc d a => some (0x0400_001B ||| put d 21 ||| put a 16)
  | .bswap d a => some (0x0400_001C ||| put d 21 ||| put a 16)
  | .addW d a b => some (0x0800_0000 ||| put d 21 ||| put a 16 ||| put b 11)
  | .subW d a b => some (0x0800_0001 ||| put d 21 ||| put a 16 ||| put b 11)
  | .sllW d a b => some (0x0800_0006 ||| put d 21 ||| put a 16 ||| put b 11)
  | .srlW d a b => some (0x0800_0007 ||| put d 21 ||| put a 16 ||| put b 11)
  | .sraW d a b => some (0x0800_0008 ||| put d 21 ||| put a 16 ||| put b 11)
  | .mulW d a b => some (0x0800_0011 ||| put d 21 ||| put a 16 ||| put b 11)
  | .divW d a b => some (0x0800_0015 ||| put d 21 ||| put a 16 ||| put b 11)
  | .divuW d a b => some (0x0800_0016 ||| put d 21 ||| put a 16 ||| put b 11)
  | .remW d a b => some (0x0800_0017 ||| put d 21 ||| put a 16 ||| put b 11)
  | .remuW d a b => some (0x0800_0018 ||| put d 21 ||| put a 16 ||| put b 11)
  | .fadd d a b p => some (0x0C00_0000 ||| put d 21 ||| put a 16 ||| put b 11 ||| put p 0)
  | .fsub d a b p => some (0x0C00_0002 ||| put d 21 ||| put a 16 ||| put b 11 ||| put p 0)
  | .fmul d a b p => some (0x0C00_0004 ||| put d 21 ||| put a 16 ||| put b 11 ||| put p 0)
  | .fdiv d a b p => some (0x0C00_0006 ||| put d 21 ||| put a 16 ||| put b 11 ||| put p 0)
  | .fsqrt d a p => some (0x0C00_0008 ||| put d 21 ||| put a 16 ||| put p 0)
  | .fmadd d a b c p => some (0x0C00_000A ||| put d 21 ||| put a 16 ||| put b 11 ||| put c 6 ||| put p 0)
  | .fmsub d a b c p => some (0x0C00_000C ||| put d 21 ||| put a 16 ||| put b 11 ||| put c 6 ||| put p 0)
  | .fnmadd d a b c p => some (0x0C00_000E ||| put d 21 ||| put a 16 ||| put b 11 ||| put c 6 ||| put p 0)
  | .fmin d a b p => some (0x0C00_0010 ||| put d 21 ||| put a 16 ||| put b 11 ||| put p 0)
  | .fmax d a b p => some (0x0C00_0012 ||| put d 21 ||| put a 16 ||| put b 11 ||| put p 0)
  | .fsgnj d a b p => some (0x0C00_0014 ||| put d 21 ||| put a 16 ||| put b 11 ||| put p 0)
  | .fsgnjn d a b p => some (0x0C00_0016 ||| put d 21 ||| put a 16 ||| put b 11 ||| put p 0)
  | .fsgnjx d a b p => some (0x0C00_0018 ||| put d 21 ||| put a 16 ||| put b 11 ||| put p 0)
  | .feq d a b p => some (0x0C00_001A ||| put d 21 ||| put a 16 ||| put b 11 ||| put p 0)
  | .flt d a b p => some (0x0C00_001C ||| put d 21 ||| put a 16 ||| put b 11 ||| put p 0)
  | .fle d a b p => some (0x0C00_001E ||| put d 21 ||| put a 16 ||| put b 11 ||| put p 0)
  | .fclass d a p => some (0x0C00_0020 ||| put d 21 ||| put a 16 ||| put p 0)
  | .fcvtW d a p => some (0x0C00_0022 ||| put d 21 ||| put a 16 ||| put p 0)
  | .fcvtWu d a p => some (0x0C00_0062 ||| put d 21 ||| put a 16 ||| put p 0)
  | .fcvtL d a p => some (0x0C00_00A2 ||| put d 21 ||| put a 16 ||| put p 0)
  | .fcvtLu d a p => some (0x0C00_00E2 ||| put d 21 ||| put a 16 ||| put p 0)
  | .fcvtFromW d a p => some (0x0C00_0122 ||| put d 21 ||| put a 16 ||| put p 0)
  | .fcvtFromWu d a p => some (0x0C00_0162 ||| put d 21 ||| put a 16 ||| put p 0)
  | .fcvtFromL d a p => some (0x0C00_01A2 ||| put d 21 ||| put a 16 ||| put p 0)
  | .fcvtFromLu d a p => some (0x0C00_01E2 ||| put d 21 ||| put a 16 ||| put p 0)
  | .fcvtDS d a p => some (0x0C00_0222 ||| put d 21 ||| put a 16 ||| put p 0)
  | .fcvtHS d a => some (0x0C00_0262 ||| put d 21 ||| put a 16)
  | .fcvtSH d a => some (0x0C00_02A2 ||| put d 21 ||| put a 16)
  | .fcvtBfS d a => some (0x0C00_02E2 ||| put d 21 ||| put a 16)
  | .fcvtSBf d a => some (0x0C00_0322 ||| put d 21 ||| put a 16)
  | .fcvtE4S d a => some (0x0C00_0362 ||| put d 21 ||| put a 16)
  | .fcvtSE4 d a => some (0x0C00_03A2 ||| put d 21 ||| put a 16)
  | .fcvtE5S d a => some (0x0C00_03E2 ||| put d 21 ||| put a 16)
  | .fcvtSE5 d a => some (0x0C00_0422 ||| put d 21 ||| put a 16)
  | .addi d a i => some (0x1000_0000 ||| put d 21 ||| put a 16 ||| put i 0)
  | .andi d a i => some (0x1400_0000 ||| put d 21 ||| put a 16 ||| put i 0)
  | .ori d a i => some (0x1800_0000 ||| put d 21 ||| put a 16 ||| put i 0)
  | .xori d a i => some (0x1C00_0000 ||| put d 21 ||| put a 16 ||| put i 0)
  | .slti d a i => some (0x2000_0000 ||| put d 21 ||| put a 16 ||| put i 0)
  | .sltiu d a i => some (0x2400_0000 ||| put d 21 ||| put a 16 ||| put i 0)
  | .addiW d a i => some (0x3400_0000 ||| put d 21 ||| put a 16 ||| put i 0)
  | .slli d a n => some (0x2800_0000 ||| put d 21 ||| put a 16 ||| put n 0)
  | .srli d a n => some (0x2800_0100 ||| put d 21 ||| put a 16 ||| put n 0)
  | .srai d a n => some (0x2800_0200 ||| put d 21 ||| put a 16 ||| put n 0)
  | .rotri d a n => some (0x2800_0300 ||| put d 21 ||| put a 16 ||| put n 0)
  | .slliW d a n => some (0x3800_0000 ||| put d 21 ||| put a 16 ||| put n 0)
  | .srliW d a n => some (0x3800_0100 ||| put d 21 ||| put a 16 ||| put n 0)
  | .sraiW d a n => some (0x3800_0200 ||| put d 21 ||| put a 16 ||| put n 0)
  | .ldhi d i => some (0x2C00_0000 ||| put d 21 ||| put i 0)
  | .pcadd d i => some (0x3000_0000 ||| put d 21 ||| put i 0)
  | .ldB d a i => some (0x4000_0000 ||| put d 21 ||| put a 16 ||| put i 0)
  | .ldBu d a i => some (0x4400_0000 ||| put d 21 ||| put a 16 ||| put i 0)
  | .ldH d a i => some (0x4800_0000 ||| put d 21 ||| put a 16 ||| put i 0)
  | .ldHu d a i => some (0x4C00_0000 ||| put d 21 ||| put a 16 ||| put i 0)
  | .ldW d a i => some (0x5000_0000 ||| put d 21 ||| put a 16 ||| put i 0)
  | .ldWu d a i => some (0x5400_0000 ||| put d 21 ||| put a 16 ||| put i 0)
  | .ldD d a i => some (0x5800_0000 ||| put d 21 ||| put a 16 ||| put i 0)
  | .stB b a i => some (0x6000_0000 ||| put b 21 ||| put a 16 ||| put i 0)
  | .stH b a i => some (0x6400_0000 ||| put b 21 ||| put a 16 ||| put i 0)
  | .stW b a i => some (0x6800_0000 ||| put b 21 ||| put a 16 ||| put i 0)
  | .stD b a i => some (0x6C00_0000 ||| put b 21 ||| put a 16 ||| put i 0)
  | .ldsyncTake d a k => some (0x7000_0000 ||| put d 21 ||| put a 16 ||| put k 0)
  | .ldsyncKeep d a k => some (0x7000_2000 ||| put d 21 ||| put a 16 ||| put k 0)
  | .stsyncFill b a k => some (0x7000_4000 ||| put b 21 ||| put a 16 ||| put k 0)
  | .stsyncSet b a k => some (0x7000_6000 ||| put b 21 ||| put a 16 ||| put k 0)
  | .syncClear a k => some (0x7000_8000 ||| put a 16 ||| put k 0)
  | .syncTest d a k => some (0x7000_A000 ||| put d 21 ||| put a 16 ||| put k 0)
  | .atmAdd d a b z o c => some (0x7400_0000 ||| put d 21 ||| put a 16 ||| put b 11 ||| put z 6 ||| put o 4 ||| put c 2)
  | .atmAnd d a b z o c => some (0x7400_0080 ||| put d 21 ||| put a 16 ||| put b 11 ||| put z 6 ||| put o 4 ||| put c 2)
  | .atmOr d a b z o c => some (0x7400_0100 ||| put d 21 ||| put a 16 ||| put b 11 ||| put z 6 ||| put o 4 ||| put c 2)
  | .atmXor d a b z o c => some (0x7400_0180 ||| put d 21 ||| put a 16 ||| put b 11 ||| put z 6 ||| put o 4 ||| put c 2)
  | .atmMin d a b z o c => some (0x7400_0200 ||| put d 21 ||| put a 16 ||| put b 11 ||| put z 6 ||| put o 4 ||| put c 2)
  | .atmMax d a b z o c => some (0x7400_0280 ||| put d 21 ||| put a 16 ||| put b 11 ||| put z 6 ||| put o 4 ||| put c 2)
  | .atmMinu d a b z o c => some (0x7400_0300 ||| put d 21 ||| put a 16 ||| put b 11 ||| put z 6 ||| put o 4 ||| put c 2)
  | .atmMaxu d a b z o c => some (0x7400_0380 ||| put d 21 ||| put a 16 ||| put b 11 ||| put z 6 ||| put o 4 ||| put c 2)
  | .atmSwap d a b z o c => some (0x7400_0400 ||| put d 21 ||| put a 16 ||| put b 11 ||| put z 6 ||| put o 4 ||| put c 2)
  | .atmCas d a b z o c => some (0x7400_0480 ||| put d 21 ||| put a 16 ||| put b 11 ||| put z 6 ||| put o 4 ||| put c 2)
  | .atmFaddS d a b o c => some (0x7400_0500 ||| put d 21 ||| put a 16 ||| put b 11 ||| put o 4 ||| put c 2)
  | .fenceAcq c => some (0x7800_0000 ||| put c 2)
  | .fenceRel c => some (0x7800_0100 ||| put c 2)
  | .fenceFull c => some (0x7800_0200 ||| put c 2)
  | .barrInit a n => some (0x7800_0300 ||| put a 16 ||| put n 4)
  | .barrArrive d n => some (0x7800_0400 ||| put d 21 ||| put n 4)
  | .barrWait a n => some (0x7800_0500 ||| put a 16 ||| put n 4)
  | .bEq a b o => some (0x8000_0000 ||| put a 21 ||| put b 16 ||| put o 0)
  | .bNe a b o => some (0x8400_0000 ||| put a 21 ||| put b 16 ||| put o 0)
  | .bLt a b o => some (0x8800_0000 ||| put a 21 ||| put b 16 ||| put o 0)
  | .bGe a b o => some (0x8C00_0000 ||| put a 21 ||| put b 16 ||| put o 0)
  | .bLtu a b o => some (0x9000_0000 ||| put a 21 ||| put b 16 ||| put o 0)
  | .bGeu a b o => some (0x9400_0000 ||| put a 21 ||| put b 16 ||| put o 0)
  | .call o => some (0x9800_0000 ||| put o 0)
  | .jr d a i => some (0x9C00_0000 ||| put d 21 ||| put a 16 ||| put i 0)
  | .send a b n => some (0xA000_0000 ||| put a 16 ||| put b 11 ||| put n 0)
  | .spawn a b k => some (0xA000_0100 ||| put a 16 ||| put b 11 ||| put k 0)
  | .mget d n => some (0xA000_0200 ||| put d 21 ||| put n 0)
  | .mpeek d n => some (0xA000_0300 ||| put d 21 ||| put n 0)
  | .mtest d => some (0xA000_0400 ||| put d 21)
  | .sget d n => some (0xA400_0000 ||| put d 21 ||| put n 0)
  | .sput a n => some (0xA400_0100 ||| put a 16 ||| put n 0)
  | .serveImm d a f g n => some (0xB000_0000 ||| put d 21 ||| put a 16 ||| put f 6 ||| put g 3 ||| put n 0)
  | .serveReg d a r n => some (0xB000_0020 ||| put d 21 ||| put a 16 ||| put r 11 ||| put n 0)
  | .sload a => some (0xB400_0000 ||| put a 16)
  | .sevict a => some (0xB400_0100 ||| put a 16)
  | .sinfo d a => some (0xB400_0200 ||| put d 21 ||| put a 16)
  | .tzero z => some (0xC000_0000 ||| put z 9)
  | .tmma d a b z g f => some (0xC000_0008 ||| put d 21 ||| put a 16 ||| put b 11 ||| put z 9 ||| put g 6 ||| put f 0)
  | .tdrain a b z f => some (0xC000_0010 ||| put a 16 ||| put b 11 ||| put z 9 ||| put f 0)
  | .tload a z => some (0xC000_0018 ||| put a 16 ||| put z 9)
  | .tstat d => some (0xC000_0020 ||| put d 21)
  | .vstart a => some (0xC400_0000 ||| put a 16)
  | .vrel d => some (0xC400_0100 ||| put d 21)
  | .vinfo d => some (0xC400_0200 ||| put d 21)
  | .scmd a b n => some (0xD000_0000 ||| put a 16 ||| put b 11 ||| put n 0)
  | .rget d => some (0xD400_0000 ||| put d 21)
  | .nwait a n => some (0xD400_0100 ||| put a 16 ||| put n 0)
  | .nread d n => some (0xD400_0200 ||| put d 21 ||| put n 0)
  | .nset a n => some (0xD400_0300 ||| put a 16 ||| put n 0)
  | .trap a => some (0x0000_0001 ||| put a 16)
  | .tret => some (0x0000_0002)
  | .rdsys d b => some (0x0000_0003 ||| put d 21 ||| put b 11)
  | .wrsys a b => some (0x0000_0004 ||| put a 16 ||| put b 11)
  | .exit => some (0x0000_0005)
  | .yield => some (0x0000_0006)
  | .park => some (0x0000_0007)
  | .get _ _ => none
  | .put _ _ => none
  | .getx _ _ => none
  | .putx _ _ => none
  | .copy _ _ => none
  | .fill _ _ => none
  | .redput _ _ => none
  | .chain _ _ => none
  | .halo _ _ => none
  | .bind _ _ => none
  | .scan _ _ => none
  | .probe _ _ => none
  | .commandStart _ _ => none
  | .commandComplete _ _ => none
  | .faceDelivered _ _ _ => none
  | .submitRecord _ _ _ _ => none
  | .qcfgWrite _ _ => none
  | .crew _ => none
  | .gang _ => none
  | .voyage _ => none
  | .stream _ => none
  | .wait _ => none
  | .graph _ => none
  | .nestedGraphStart _ => none
  | .logtailWrite _ => none
  | .snap => none
  | .abortQueue _ => none
  | .abortRecord _ => none
  | .abortedEntry _ => none
  | .registerWrite _ _ => none
  | .apertureAccess _ _ _ _ _ => none
  | .pcieRequest _ _ _ _ _ _ _ => none
  | .ownerCreate _ _ => none
  | .ownerRetire _ => none
  | .setModes _ _ => none
  | .setEventSlot _ _ _ => none
  | .ownerExport _ _ => none
  | .join _ _ _ => none
  | .keyTransferTimeout => none
  | .answerCrewPlacement _ => none
  | .answerImagePlacement _ => none
  | .answerTierMigration _ => none
  | .answerSpill _ => none
  | .answerTwinReload _ => none
  | .tlbinvPage _ _ => none
  | .tlbinvOwner _ => none
  | .tlbinvAll => none
  | .invalidationDone => none
  | .replay _ => none
  | .decline _ _ => none
  | .dropcntRead _ => none
  | .measurementExtend _ => none
  | .telemetry _ _ _ => none
  | .setPowerLimit _ _ _ _ => none
  | .moduleReset _ _ _ => none
  | .firmwareWrite _ _ _ _ _ => none
  | .firmwareSelect _ _ _ _ => none
  | .attest _ _ _ _ => none
  | .events _ _ _ => none
  | .enrollClient _ _ _ _ => none
  | .coldReset => none
  | .v12AuxLoss => none
  | .powerUp _ _ _ _ => none
  | .pwrgd48 => none
  | .bridgeCoreReset => none
  | .sensorRead _ _ => none
  | .powerWindow _ => none
  | .meridianLaneFailure _ => none
  | .meridianAccess _ _ _ _ _ _ => none
  | .patrolScrub _ _ => none
  | .crewAdmit _ => none
  | .gangAdmit _ => none
  | .streamAdmit _ => none
  | .voyageAdmit _ => none
  | .clusterScrub _ => none
  | .reservation _ => none
  | .preemption _ => none
  | .saveComplete _ => none
  | .crewResume _ => none
  | .crewRetire _ => none
  | .tierEpoch => none
  | .pageMoveComplete _ _ => none
  | .loadReturn _ => none
  | .homeArrival _ => none
  | .releaseAck _ => none
  | .walkComplete _ _ _ => none
  | .icacheFill _ _ => none
  | .sendArrives _ => none
  | .messageDelivery _ => none
  | .spawnArrives _ => none
  | .pendingTaskStart _ => none
  | .spill _ => none
  | .spillRetry _ => none
  | .spillDeliver _ => none
  | .waiterResend _ => none
  | .deferredTrap _ => none
  | .crewEvent _ => none
  | .tileStart _ => none
  | .tileComplete _ => none
  | .serveAdmit _ _ => none
  | .serveExit _ _ => none
  | .cellFire _ _ _ => none
  | .serveTimeout _ _ => none
  | .imageLoad _ _ => none
  | .imageLoadComplete _ _ => none
  | .imageEvict _ _ => none
  | .compaction _ _ => none
  | .twinReload _ _ => none
  | .freezeWave _ _ => none
  | .thaw _ _ => none
  | .sectionComplete _ _ => none
  | .endpointPoll _ _ _ => none
  | .embark _ => none
  | .embarkComplete _ => none
  | .sighting _ _ => none
  | .accumulationComplete _ _ => none
  | .stationReady _ _ => none
  | .halfStepStart _ => none
  | .reckoning _ => none
  | .reckonTaskStart _ _ => none
  | .voyageFailure _ => none
  | .voyageStop _ => none
  | .voyageResume _ => none
  | .illegalInstruction _ => none
  | .unknownKind _ => none
  | .badOp _ _ => none
  | .unknownType _ _ _ => none
  | .reqtailWrite _ => none
  | .managementConnection _ _ => none

/-- The instruction word at the lowest bytes of a list, little-endian (R6, R243); none when fewer than four bytes. -/
def wordOfBytes : List Byte → Option (IWord × List Byte)
  | b0 :: b1 :: b2 :: b3 :: rest => some (b3 ++ b2 ++ b1 ++ b0, rest)
  | _ => none

/-- The four bytes of an instruction word, as memory holds them (R6). -/
def bytesOfWord (w : IWord) : List Byte :=
  [w.extractLsb' 0 8, w.extractLsb' 8 8, w.extractLsb' 16 8, w.extractLsb' 24 8]

/-- Decoding from bytes: the instruction and the bytes behind it. -/
def decodeBytes (bs : List Byte) : Option (Instr × List Byte) :=
  match wordOfBytes bs with
  | some (w, rest) =>
    match decode w with
    | some i => some (i, rest)
    | none => none
  | none => none

/-- The instruction this decoder reads from an instruction whose bits are `w` (the host's numbering): the bits are laid
out as memory holds them and given to `decodeBytes`. Every Speril instruction is one 32-bit word (R243). -/
def decodeTableWord (nbits w : Nat) : Option Instr :=
  match decodeBytes (bytesOfWord (BitVec.ofNat 32 (w % 2 ^ nbits))) with
  | some (i, _) => some i
  | none => none

end Sys2Proof
end

