-- ==== Sys2Proof/Machine/Bits.lean ====
section
/-! DEFINITION. The helpers of the spec's pseudocode (R9): bit ranges, widening, little-endian bytes. -/

namespace Sys2Proof.Machine

/-- `Bits(v, hi, lo)` of a natural number (R9). -/
def bitsN (v hi lo : Nat) : Nat := v / 2 ^ lo % 2 ^ (hi + 1 - lo)

/-- `Bits(v, hi, lo)` of a word, as a number (R9). -/
def bits (v : Word) (hi lo : Nat) : Nat := bitsN v.toNat hi lo

/-- One bit of a word. -/
def bitAt (v : Word) (k : Nat) : Bool := v.getLsbD k

/-- `SX(v, n)` to 64 bits (R9). -/
def sx {n : Nat} (v : BitVec n) : Word := v.signExtend 64

/-- `ZX(v, n)` to 64 bits (R9). -/
def zx {n : Nat} (v : BitVec n) : Word := v.setWidth 64

/-- The low `n` bytes of a number, little-endian (R6). -/
def bytesOf : Nat → Nat → List Byte
  | 0, _ => []
  | n + 1, v => BitVec.ofNat 8 v :: bytesOf n (v / 256)

/-- The number that little-endian bytes hold (R6). -/
def ofBytes : List Byte → Nat
  | [] => 0
  | b :: rest => b.toNat + 256 * ofBytes rest

/-- The low 32 bits of a word (R274, R289). -/
def lo32 (v : Word) : BitVec 32 := v.setWidth 32

/-- A truth value as a register value. -/
def wordOfBool (b : Bool) : Word := if b then 1 else 0

/-- XOR of the successive `w`-bit fields of `v` from bit 0 upward (R211); `fuel` fields are taken. -/
def foldXor : Nat → Nat → Nat → Nat
  | 0, _, _ => 0
  | fuel + 1, w, v => Nat.xor (v % 2 ^ w) (foldXor fuel w (v / 2 ^ w))

/-- The number of 1 bits among the low `n` bits. -/
def popCount : Nat → Nat → Nat
  | 0, _ => 0
  | n + 1, v => v % 2 + popCount n (v / 2)

/-- Leading zero bits of an `n`-bit number; `n` when it is zero. -/
def leadingZeros (n v : Nat) : Nat := if v = 0 then n else n - 1 - Nat.log2 v

/-- Trailing zero bits of an `n`-bit number; `n` when it is zero. -/
def trailingZeros : Nat → Nat → Nat
  | 0, _ => 0
  | n + 1, v => if v % 2 = 1 then 0 else 1 + trailingZeros n (v / 2)

/-- A signed number clamped to `n` signed bits. -/
def clampSigned (n : Nat) (v : Int) : Int :=
  if v < -(2 ^ (n - 1) : Int) then -(2 ^ (n - 1) : Int)
  else if v > (2 ^ (n - 1) : Int) - 1 then (2 ^ (n - 1) : Int) - 1 else v

/-- A number clamped to `n` unsigned bits. -/
def clampUnsigned (n : Nat) (v : Int) : Int :=
  if v < 0 then 0 else if v > (2 ^ n : Int) - 1 then (2 ^ n : Int) - 1 else v

/-- The first index below `n` where `p` holds. -/
def firstIndex (p : Nat → Bool) : Nat → Nat → Option Nat
  | 0, _ => none
  | n + 1, k => if p k then some k else firstIndex p n (k + 1)

/-- The numbers `k, k + 1, …` (`n` of them). -/
def rangeFrom : Nat → Nat → List Nat
  | 0, _ => []
  | n + 1, k => k :: rangeFrom n (k + 1)

/-- The least of a list by a measure: the first of equals. -/
def leastBy {α : Type} (f : α → Nat) : List α → Option α
  | [] => none
  | x :: rest => match leastBy f rest with
    | some y => if f y < f x then some y else some x
    | none => some x

end Sys2Proof.Machine
end

