-- ==== Sys2Proof/Machine/Flags.lean ====
section
/-! DEFINITION. Floating-point values, rounding and flags (R229, R235–R237, R285–R289, R180): a finite value is an
exact number sign × mant × 2^exp, and every result is rounded once. -/

namespace Sys2Proof.Machine

/-- A floating-point format of R229. -/
structure Fmt where
  expBits  : Nat
  fracBits : Nat
  bias     : Nat
  /-- e4m3: exponent all ones holds finite values and one NaN, no infinity. -/
  e4m3     : Bool
  deriving DecidableEq, Repr

def f64 : Fmt := ⟨11, 52, 1023, false⟩
def f32 : Fmt := ⟨8, 23, 127, false⟩
def f16 : Fmt := ⟨5, 10, 15, false⟩
def bf16 : Fmt := ⟨8, 7, 127, false⟩
def e5m2 : Fmt := ⟨5, 2, 15, false⟩
def e4m3 : Fmt := ⟨4, 3, 7, true⟩

def Fmt.width (f : Fmt) : Nat := 1 + f.expBits + f.fracBits

/-- A floating-point value. -/
inductive FVal where
  | nan (neg : Bool) (signalling : Bool)
  | inf (neg : Bool)
  /-- (−1)^neg × mant × 2^exp, exactly; mant = 0 is a signed zero. -/
  | fin (neg : Bool) (mant : Nat) (exp : Int)
  deriving DecidableEq, Repr

/-- Rounding modes (R235). -/
inductive RMode where
  | rne | rtz | rdn | rup | rmm
  deriving DecidableEq, Repr

/-- Sticky flags raised by one operation (R235). -/
structure FFlags where
  nv : Bool := false
  dz : Bool := false
  of : Bool := false
  uf : Bool := false
  nx : Bool := false
  deriving DecidableEq, Repr

def FFlags.or (a b : FFlags) : FFlags :=
  { nv := a.nv || b.nv, dz := a.dz || b.dz, of := a.of || b.of, uf := a.uf || b.uf, nx := a.nx || b.nx }

/-- The value a bit pattern encodes (R229). -/
def Fmt.unpack (f : Fmt) (v : Nat) : FVal :=
  let frac := v % 2 ^ f.fracBits
  let e := v / 2 ^ f.fracBits % 2 ^ f.expBits
  let neg := v / 2 ^ (f.fracBits + f.expBits) % 2 = 1
  if e = 2 ^ f.expBits - 1 ∧ f.e4m3 = true ∧ frac = 2 ^ f.fracBits - 1 then .nan neg false
  else if e = 2 ^ f.expBits - 1 ∧ f.e4m3 = false then
    if frac = 0 then .inf neg else .nan neg (frac < 2 ^ (f.fracBits - 1))
  else if e = 0 then .fin neg frac (1 - (f.bias : Int) - f.fracBits)
  else .fin neg (2 ^ f.fracBits + frac) ((e : Int) - f.bias - f.fracBits)

def Fmt.signBit (f : Fmt) (neg : Bool) : Nat := if neg then 2 ^ (f.expBits + f.fracBits) else 0

/-- The canonical NaN of the format with a sign (R229). -/
def Fmt.nan (f : Fmt) (neg : Bool) : Nat :=
  f.signBit neg +
    (if f.e4m3 then 2 ^ (f.expBits + f.fracBits) - 1
     else (2 ^ f.expBits - 1) * 2 ^ f.fracBits + 2 ^ (f.fracBits - 1))

/-- Infinity (no such pattern in e4m3). -/
def Fmt.inf (f : Fmt) (neg : Bool) : Nat := f.signBit neg + (2 ^ f.expBits - 1) * 2 ^ f.fracBits

/-- The largest finite value of a sign (R229). -/
def Fmt.maxFinite (f : Fmt) (neg : Bool) : Nat :=
  f.signBit neg +
    (if f.e4m3 then 2 ^ (f.expBits + f.fracBits) - 2 else (2 ^ f.expBits - 1) * 2 ^ f.fracBits - 1)

/-- Whether the kept part is rounded up in magnitude: `rem` of `2 ^ sh` was cut off, `sticky` more below it. -/
def roundsUp (rm : RMode) (neg : Bool) (keep rem sh : Nat) (sticky : Bool) : Bool :=
  let half := 2 ^ sh / 2
  let inexact := rem ≠ 0 ∨ sticky = true
  match rm with
  | .rtz => false
  | .rdn => neg && inexact
  | .rup => !neg && inexact
  | .rmm => decide (sh ≠ 0 ∧ rem ≥ half)
  | .rne => decide (sh ≠ 0 ∧ (rem > half ∨ (rem = half ∧ (sticky = true ∨ keep % 2 = 1))))

/-- `mant × 2^exp` (and a sticky rest below it) on the grid of ulp `2 ^ q`: the rounded multiple of the ulp, and
whether it is inexact. -/
def roundAt (rm : RMode) (neg : Bool) (mant : Nat) (exp q : Int) (sticky : Bool) : Nat × Bool :=
  let sh := (q - exp).toNat
  let up := (exp - q).toNat
  let m := mant * 2 ^ up
  let keep := m / 2 ^ sh
  let rem := m % 2 ^ sh
  (keep + (if roundsUp rm neg keep rem sh sticky then 1 else 0), decide (rem ≠ 0 ∨ sticky = true))

/-- How a result beyond the largest finite value ends (R236, R237, R241). -/
inductive Over where
  | ieee | saturate | propagate
  deriving DecidableEq, Repr

/-- Whether an overflow gives infinity under IEEE 754 (R236). -/
def overflowsToInf (rm : RMode) (neg : Bool) : Bool :=
  match rm with
  | .rne => true
  | .rmm => true
  | .rtz => false
  | .rdn => neg
  | .rup => !neg

/-- The pattern for a result beyond the largest finite value. -/
def Fmt.overflow (f : Fmt) (rm : RMode) (ov : Over) (neg : Bool) : Nat :=
  match ov with
  | .saturate => f.maxFinite neg
  | .propagate => if f.e4m3 then f.nan neg else f.inf neg
  | .ieee =>
    if f.e4m3 then f.maxFinite neg
    else if overflowsToInf rm neg then f.inf neg else f.maxFinite neg

/-- Rounds an exact number to the format (R236, R237); tininess after rounding. `mant ≠ 0`. A tiny inexact result sets UF also in a
conversion to e4m3 or e5m2, of whose flags R237 names OF, NX and NV. (DESIGN CHOICE, log 88) -/
def Fmt.roundFin (f : Fmt) (rm : RMode) (ov : Over) (neg : Bool) (mant : Nat) (exp : Int) (sticky : Bool) :
    Nat × FFlags :=
  let lead : Int := exp + (Nat.log2 mant : Int)
  let emin : Int := 1 - (f.bias : Int)
  let q : Int := (if lead < emin then emin else lead) - f.fracBits
  let (n, inexact) := roundAt rm neg mant exp q sticky
  -- n ulps of 2^q, with n ≤ 2^(fracBits+1)
  let carried := n = 2 ^ (f.fracBits + 1)
  let n' := if carried then 2 ^ f.fracBits else n
  let q' : Int := if carried then q + 1 else q
  let field : Nat :=
    if n' < 2 ^ f.fracBits then n'
    else (q' + f.fracBits + f.bias).toNat * 2 ^ f.fracBits + (n' - 2 ^ f.fracBits)
  let limit : Nat :=
    if f.e4m3 then 2 ^ (f.expBits + f.fracBits) - 2 else (2 ^ f.expBits - 1) * 2 ^ f.fracBits - 1
  if field > limit then (f.overflow rm ov neg, { of := true, nx := true })
  else
    let (np, _) := roundAt rm neg mant exp (lead - f.fracBits) sticky
    let tiny := decide (lead < emin) && !(decide (lead = emin - 1) && decide (np = 2 ^ (f.fracBits + 1)))
    (f.signBit neg + field, { nx := inexact, uf := tiny && inexact })

/-- Packs a value, rounding once. `nanNeg` keeps the sign of a NaN (R237); arithmetic gives sign 0 (R236). -/
def Fmt.pack (f : Fmt) (rm : RMode) (ov : Over) (v : FVal) : Nat × FFlags :=
  match v with
  | .nan neg _ => (f.nan neg, {})
  | .inf neg =>
    match ov with
    | .ieee => if f.e4m3 then (f.maxFinite neg, { nv := true }) else (f.inf neg, {})
    | .saturate => (f.maxFinite neg, { nv := true })
    | .propagate => (if f.e4m3 then f.nan neg else f.inf neg, {})
  | .fin neg m e => if m = 0 then (f.signBit neg, {}) else f.roundFin rm ov neg m e false

/-- The exact sum of finite terms (sign, mant, exp), aligned at the least exponent. -/
def sumExact (ts : List (Bool × Nat × Int)) : Int × Int :=
  let lo := ts.foldl (fun a t => if t.2.2 < a then t.2.2 else a) (match ts with | t :: _ => t.2.2 | [] => 0)
  (ts.foldl (fun a t => a + (if t.1 then -1 else 1) * ((t.2.1 * 2 ^ (t.2.2 - lo).toNat : Nat) : Int)) 0, lo)

/-- The product of two values, exact; none when it is invalid (∞ × 0). -/
def mulVal (a b : FVal) : Option FVal :=
  match a, b with
  | .nan n s, _ => some (.nan n s)
  | _, .nan n s => some (.nan n s)
  | .inf x, .inf y => some (.inf (x != y))
  | .inf x, .fin y m _ => if m = 0 then none else some (.inf (x != y))
  | .fin x m _, .inf y => if m = 0 then none else some (.inf (x != y))
  | .fin x m e, .fin y n d => some (.fin (x != y) (m * n) (e + d))

def FVal.isNan : FVal → Bool
  | .nan _ _ => true
  | _ => false

def FVal.isSig : FVal → Bool
  | .nan _ s => s
  | _ => false

def FVal.negate : FVal → FVal
  | .nan n s => .nan n s
  | .inf n => .inf (!n)
  | .fin n m e => .fin (!n) m e

def FVal.isZero : FVal → Bool
  | .fin _ 0 _ => true
  | _ => false

/-- The exact sum of values under IEEE 754: a NaN operand, or ∞ with −∞, gives none. An exact zero sum is +0, or −0
when every term is −0, or when the mode is RDN and some term is not +0 (R236, R239, R285). (DESIGN CHOICE, log 88) -/
def sumVals (rm : RMode) (vs : List FVal) : Option FVal :=
  if vs.any FVal.isNan then none
  else
    let pos := vs.any (fun v => v == .inf false)
    let ngt := vs.any (fun v => v == .inf true)
    if pos && ngt then none
    else if pos then some (.inf false)
    else if ngt then some (.inf true)
    else
      let ts := vs.filterMap (fun v => match v with | .fin n m e => some (n, m, e) | _ => none)
      let (s, e) := sumExact ts
      if s = 0 then
        let allNeg := ts.all (fun t => t.1 && t.2.1 == 0)
        let allPos := ts.all (fun t => !t.1 && t.2.1 == 0)
        some (.fin (allNeg || (!allPos && rm == .rdn)) 0 0)
      else some (.fin (decide (s < 0)) s.natAbs e)

/-- One arithmetic result rounded to the format; a NaN is canonical with sign 0 (R236). -/
def Fmt.result (f : Fmt) (rm : RMode) (v : Option FVal) (invalid : Bool) : Nat × FFlags :=
  match v with
  | none => (f.nan false, { nv := invalid })
  | some (.nan _ _) => (f.nan false, { nv := invalid })
  | some w => let (r, fl) := f.pack rm .ieee w; (r, fl.or { nv := invalid })

/-- `a + b` rounded once (R285). -/
def Fmt.add (f : Fmt) (rm : RMode) (x y : Nat) : Nat × FFlags :=
  let a := f.unpack x
  let b := f.unpack y
  let r := sumVals rm [a, b]
  f.result rm r (a.isSig || b.isSig || (r.isNone && !a.isNan && !b.isNan))

def Fmt.negBits (f : Fmt) (x : Nat) : Nat := Nat.xor (x % 2 ^ f.width) (2 ^ (f.expBits + f.fracBits))

/-- `a − b` rounded once (R285). -/
def Fmt.sub (f : Fmt) (rm : RMode) (x y : Nat) : Nat × FFlags := f.add rm x (f.negBits y)

/-- `a × b` rounded once (R285). -/
def Fmt.mul (f : Fmt) (rm : RMode) (x y : Nat) : Nat × FFlags :=
  let a := f.unpack x
  let b := f.unpack y
  let r := mulVal a b
  f.result rm r (a.isSig || b.isSig || r.isNone)

/-- `a / b` rounded once (R285): the quotient to enough bits, with a sticky rest. -/
def Fmt.div (f : Fmt) (rm : RMode) (x y : Nat) : Nat × FFlags :=
  match f.unpack x, f.unpack y with
  | .nan _ s, b => (f.nan false, { nv := s || b.isSig })
  | a, .nan _ s => (f.nan false, { nv := s || a.isSig })
  | .inf _, .inf _ => (f.nan false, { nv := true })
  | .inf n, .fin d _ _ => (f.inf (n != d), {})
  | .fin n _ _, .inf d => (f.signBit (n != d), {})
  | .fin n m e, .fin d k g =>
    if k = 0 then
      if m = 0 then (f.nan false, { nv := true }) else (f.inf (n != d), { dz := true })
    else if m = 0 then (f.signBit (n != d), {})
    else
      let up := f.fracBits + 4 + Nat.log2 k
      let q := m * 2 ^ up / k
      f.roundFin rm .ieee (n != d) q (e - g - up) (decide (m * 2 ^ up % k ≠ 0))

/-- Integer square root by bits, `fuel` of them. -/
def isqrtBits : Nat → Nat → Nat → Nat
  | 0, _, r => r
  | fuel + 1, n, r => isqrtBits fuel n (if (r + 2 ^ fuel) * (r + 2 ^ fuel) ≤ n then r + 2 ^ fuel else r)

def isqrt (n : Nat) : Nat := isqrtBits (Nat.log2 n / 2 + 1) n 0

/-- `√a` rounded once (R285). -/
def Fmt.sqrt (f : Fmt) (rm : RMode) (x : Nat) : Nat × FFlags :=
  match f.unpack x with
  | .nan _ s => (f.nan false, { nv := s })
  | .inf n => if n then (f.nan false, { nv := true }) else (f.inf false, {})
  | .fin n m e =>
    if m = 0 then (f.signBit n, {})
    else if n then (f.nan false, { nv := true })
    else
      let up := 2 * f.fracBits + 6 + (if (e - (2 * f.fracBits + 6 : Nat)) % 2 = 0 then 0 else 1)
      let r := isqrt (m * 2 ^ up)
      f.roundFin rm .ieee false r ((e - up) / 2) (decide (r * r ≠ m * 2 ^ up))

/-- `± (a × b) ± c` with one rounding (R285). -/
def Fmt.fma (f : Fmt) (rm : RMode) (negProd negC : Bool) (x y z : Nat) : Nat × FFlags :=
  let a := f.unpack x
  let b := f.unpack y
  let c := f.unpack z
  let p := mulVal a b
  let sig := a.isSig || b.isSig || c.isSig
  match p with
  | none => (f.nan false, { nv := true })
  | some p =>
    let p' := if negProd then p.negate else p
    let c' := if negC then c.negate else c
    let r := sumVals rm [p', c']
    f.result rm r (sig || (r.isNone && !p.isNan && !c.isNan))

/-- `a < b` of two numbers, exactly; −0 equals +0. -/
def ltVal (a b : FVal) : Bool :=
  match a, b with
  | .nan _ _, _ => false
  | _, .nan _ _ => false
  | .inf x, .inf y => x && !y
  | .inf x, .fin _ _ _ => x
  | .fin _ _ _, .inf y => !y
  | .fin x m e, .fin y n d => decide ((sumExact [(x, m, e), (!y, n, d)]).1 < 0)

def eqVal (a b : FVal) : Bool :=
  match a, b with
  | .nan _ _, _ => false
  | _, .nan _ _ => false
  | .inf x, .inf y => x == y
  | .inf _, .fin _ _ _ => false
  | .fin _ _ _, .inf _ => false
  | .fin x m e, .fin y n d => decide ((sumExact [(x, m, e), (!y, n, d)]).1 = 0)

def FVal.isNeg : FVal → Bool
  | .nan n _ => n
  | .inf n => n
  | .fin n _ _ => n

/-- minimumNumber and maximumNumber (R286): the chosen operand unchanged; −0 is below +0. -/
def Fmt.minmax (f : Fmt) (isMax : Bool) (x y : Nat) : Nat × FFlags :=
  let a := f.unpack x
  let b := f.unpack y
  let fl : FFlags := { nv := a.isSig || b.isSig }
  match a.isNan, b.isNan with
  | true, true => (f.nan false, fl)
  | true, false => (y % 2 ^ f.width, fl)
  | false, true => (x % 2 ^ f.width, fl)
  | false, false =>
    let less := ltVal a b || (eqVal a b && a.isNeg && !b.isNeg)
    (if less != isMax then x % 2 ^ f.width else y % 2 ^ f.width, fl)

/-- The compares of R288: result, and NV. -/
def Fmt.feq (f : Fmt) (x y : Nat) : Bool × FFlags :=
  (eqVal (f.unpack x) (f.unpack y), { nv := (f.unpack x).isSig || (f.unpack y).isSig })

def Fmt.flt (f : Fmt) (x y : Nat) : Bool × FFlags :=
  (ltVal (f.unpack x) (f.unpack y), { nv := (f.unpack x).isNan || (f.unpack y).isNan })

def Fmt.fle (f : Fmt) (x y : Nat) : Bool × FFlags :=
  (ltVal (f.unpack x) (f.unpack y) || eqVal (f.unpack x) (f.unpack y),
    { nv := (f.unpack x).isNan || (f.unpack y).isNan })

/-- The class mask of R288. -/
def Fmt.classify (f : Fmt) (x : Nat) : Nat :=
  match f.unpack x with
  | .nan _ s => if s then 256 else 512
  | .inf n => if n then 1 else 128
  | .fin n m _ =>
    if m = 0 then (if n then 8 else 16)
    else if m < 2 ^ f.fracBits then (if n then 4 else 32)
    else (if n then 2 else 64)

/-- Conversion between float formats (R237): a NaN keeps its sign; NV for a signalling NaN. -/
def Fmt.convert (src dst : Fmt) (rm : RMode) (ov : Over) (x : Nat) : Nat × FFlags :=
  match src.unpack x with
  | .nan n s => (dst.nan n, { nv := s })
  | v => dst.pack rm ov v

/-- A number rounded to an integer under a mode, and whether it was inexact. -/
def roundInt (rm : RMode) (neg : Bool) (m : Nat) (e : Int) : Int × Bool :=
  let (n, inexact) := roundAt rm neg m e 0 false
  (if neg then -(n : Int) else (n : Int), inexact)

/-- Float to integer (R237, R289): range judged after rounding; NaN gives 0. -/
def Fmt.toInt (f : Fmt) (rm : RMode) (lo hi : Int) (x : Nat) : Int × FFlags :=
  match f.unpack x with
  | .nan _ _ => (0, { nv := true })
  | .inf n => (if n then lo else hi, { nv := true })
  | .fin n m e =>
    let (v, inexact) := roundInt rm n m e
    if v < lo then (lo, { nv := true }) else if v > hi then (hi, { nv := true }) else (v, { nx := inexact })

/-- Integer to float (R237). -/
def Fmt.ofInt (f : Fmt) (rm : RMode) (ov : Over) (v : Int) : Nat × FFlags :=
  if v = 0 then (0, {}) else f.roundFin rm ov (decide (v < 0)) v.natAbs 0 false

/-- `RNE(old + v, f32)` of a home addition (R293): NaN result 0x7FC0_0000, no flags. -/
def addF32 (x y : Nat) : Nat := (f32.add .rne x y).1

/-- The rounding mode of `fstat` (R235). -/
def rmOf (fstat : Word) : RMode :=
  match bits fstat 2 0 with
  | 1 => .rtz
  | 2 => .rdn
  | 3 => .rup
  | 4 => .rmm
  | _ => .rne

/-- Flags raised into `fstat`: they are sticky (R235). -/
def raiseFlags (fstat : Word) (fl : FFlags) : Word :=
  fstat ||| (if fl.nv then 256#64 else 0) ||| (if fl.dz then 128#64 else 0) ||| (if fl.of then 64#64 else 0)
    ||| (if fl.uf then 32#64 else 0) ||| (if fl.nx then 16#64 else 0)

end Sys2Proof.Machine
end

