-- ==== Sys2Proof/Config.lean ====
section
/-! DEFINITION. What the spec leaves open: free values (R2), choices it gives to the device, and what one module was
built with. Every constant is opaque: nothing proves a value of it (log 3). -/

namespace Sys2Proof.Config

/-- An unspecified 64-bit value (R2), a fresh one for each argument. (DESIGN CHOICE, log 3) -/
opaque freeWord : Nat → Word

/-- An unspecified byte (R2). (DESIGN CHOICE, log 3) -/
opaque freeByte : Nat → Byte

/-- A choice the spec gives to the device or to no one: an order of agents, a replaced entry, a write of a frontier
(R93, R139, R221, R224). (DESIGN CHOICE, log 3) -/
opaque choice : Nat → Nat

/-- REFCLK_SYS counts that pass before the next step of the model (R15, R18). (DESIGN CHOICE, log 12) -/
opaque refTicks : Nat → Nat

/-- Core clocks that pass before the next step of the model (R14). (DESIGN CHOICE, log 12) -/
opaque clkTicks : Nat → Nat

/-- SHA-512 (R51, R52). (DESIGN CHOICE, log 19) -/
opaque sha512 : List Byte → BitVec 512

/-- Verification of an Ed25519 signature: public key, message, signature (R51). (DESIGN CHOICE, log 19) -/
opaque ed25519Verify : BitVec 512 → List Byte → BitVec 512 → Bool

/-- A signature by the device identity key (R53). (DESIGN CHOICE, log 19) -/
opaque identitySign : List Byte → BitVec 512

/-- The module serial number (R53). -/
opaque serialNumber : BitVec 128

/-- The boot ROM's own digest (R52). -/
opaque bootRomDigest : BitVec 512

/-- The Molnikar public key whose SHA-512 is fused in each slot (R51). -/
opaque molnikarKey : Nat → BitVec 512

/-- What bridge firmware extends MR2 and MR3 with (R52). -/
opaque firmwareConfig : Nat → BitVec 512

/-- Where bridge firmware reserves bridge-private memory, in 64 KiB units (R90): base and size. -/
opaque privateBase : BitVec 24
opaque privateSize : BitVec 32

/-- Where bridge firmware puts the logbook before it opens (R40): LOGBASE, bits [63:12] of an address. -/
opaque logBase : BitVec 52

/-- The module number that a Meridian port's cable leads to; 8 or more for none (R21). (DEDUCED, log 75) -/
opaque meridianPeer : Nat → Nat

/-- A rail voltage that TELEMETRY reports (R24), in millivolts. (DESIGN CHOICE, log 79) -/
opaque railVoltage : Nat → BitVec 64

end Sys2Proof.Config
end

