-- ==== Sys2Proof/Machine/Maps.lean ====
section
/-! DEFINITION. Finite maps with natural-number keys, kept as association lists: register files, the owners, the
cores and threads that have been touched. A key that is not listed holds its default (reset) value. -/

namespace Sys2Proof.Machine

/-- A finite map: at most one entry for each key. -/
abbrev AMap (α : Type) := List (Nat × α)

/-- The entry of key `k`, if listed. -/
def AMap.find {α : Type} : AMap α → Nat → Option α
  | [], _ => none
  | (j, v) :: rest, k => if j = k then some v else AMap.find rest k

/-- The entry of key `k`, or the default `d`. -/
def AMap.getD {α : Type} (m : AMap α) (k : Nat) (d : α) : α :=
  match AMap.find m k with
  | some v => v
  | none => d

/-- The map with `k ↦ v`; an entry keeps its place, a new one is added at the end. -/
def AMap.set {α : Type} : AMap α → Nat → α → AMap α
  | [], k, v => [(k, v)]
  | (j, w) :: rest, k, v => if j = k then (k, v) :: rest else (j, w) :: AMap.set rest k v

/-- The map without key `k`, wherever it is listed. -/
def AMap.erase {α : Type} : AMap α → Nat → AMap α
  | [], _ => []
  | (j, w) :: rest, k => if j = k then AMap.erase rest k else (j, w) :: AMap.erase rest k

end Sys2Proof.Machine
end

