-- ==== Sys2Proof/Machine/State.lean ====
section
/-! DEFINITION. The state of the module as plain data: every register, queue, buffer and memory the spec names
(INVENTORY.md lists each with its rule and reset value). A map that does not list a key holds the structure's default,
which is the reset value. -/

namespace Sys2Proof.Machine

/-- The canonical form of a memory: addresses strictly rising, and no byte equal to 0, which an unlisted address
reads as (log 2). -/
def Memory.wf : List Host.Cell → Bool
  | [] => true
  | [(_, v)] => v != 0
  | (a, v) :: (b, w) :: rest => v != 0 && decide (a < b) && Memory.wf ((b, w) :: rest)

/-! ### Module, package, power and links (spec/01) -/

/-- Where the module stands in the power-up sequence of R18 and the resets of R17. -/
inductive PowerPhase where
  /-- RESET_N asserted, or V12_AUX absent: nothing runs. -/
  | held
  /-- The step (1–6) of R18 that runs now. -/
  | powerUp (stepNo : Nat)
  /-- The security controller halted with a code (BOOT_STRAP, BOOT_VERIFY) (R16, R51). -/
  | halted (code : BitVec 8)
  /-- A HBM4 stack or a UCIe link failed to train: the helm is not started (R18). -/
  | notStarted
  /-- THERMTRIP_N: V48_MAIN is off until RESET_N is cycled (R13, R17). -/
  | tripped
  /-- Step 6 has ended: the helm and the pilot run. -/
  | running
  deriving DecidableEq, Repr

/-- The straps (R16). -/
structure Straps where
  boot  : BitVec 2 := 0
  slot  : BitVec 3 := 0
  pcie0 : BitVec 2 := 0
  pcie1 : BitVec 2 := 0
  deriving DecidableEq, Repr

/-- One report the management port's EVENTS message reads (R24). -/
inductive EventReport where
  | bootStrap | bootVerify
  | trainFail (part : Nat)
  | tierDisabled (cause : Nat)
  | thermalTrip (die : Nat)
  | thermalStep (die : Nat)
  | laneDropped (port : Nat)
  | portDown (port : Nat)
  | corrected (die : Nat)
  | ptePoisoned (address : Nat)
  | privatePoisoned (address : Nat)
  | serverUnused (server : Nat)
  deriving DecidableEq, Repr

/-- A management connection (R24): at most four are open. -/
structure MgmtConn where
  conn     : Nat
  /-- The client's key is among the enrolled keys. -/
  enrolled : Bool
  /-- Requests that arrived while one of this connection was in progress, oldest first: one is handled at a time. -/
  waiting  : List Instr := []
  deriving DecidableEq, Repr

/-- The reply the module gave last on a connection (R24). -/
structure MgmtReply where
  conn     : Nat
  seqNo    : BitVec 64
  status   : BitVec 16
  mtype    : BitVec 16
  body     : List Byte
  deriving DecidableEq, Repr

/-- One Meridian port (R21): lanes in use (4, 2 or 0). -/
structure MeridianPort where
  lanes : Nat := 4
  deriving DecidableEq, Repr

/-- The power, reset, clock, strap, link and security state of the module (spec/01, spec/02). (DESIGN CHOICE, log 1)
(DESIGN CHOICE, log 79) -/
structure ModuleState where
  phase        : PowerPhase := .held
  resetN       : Bool := false
  v12Good      : Bool := false
  pwrgd48      : Bool := false
  v48On        : Bool := false
  thermtripN   : Bool := true
  strapPins    : Straps := {}
  straps       : Straps := {}
  warmRunning  : Bool := false
  /-- The MODULE_RESET or FIRMWARE_SELECT in progress on a management connection (status 4 rule of R24). -/
  mgmtBusy     : Option Instr := none
  /-- Steps of 105 MHz by which R13 lowered each die's clock (die 8 is the bridge die). -/
  thermalSteps : AMap Nat := []
  /-- Steps of 105 MHz by which R14 lowered all compute dies together. -/
  powerSteps   : Nat := 0
  /-- The last reading of each junction sensor (die × 8 + sensor), in °C (R13). -/
  sensors      : AMap Nat := []
  /-- REFCLK time since which every sensor of a die reads below 95 °C (R13). -/
  coolSince    : AMap Nat := []
  powerLimit   : Nat := 4200
  inputPower   : Nat := 0
  /-- REFCLK_SYS counts of 10 ns since RESET_N was deasserted (R37). -/
  refclk       : Nat := 0
  /-- Core clocks of the module's network delivered since power-up step 5 (R14). -/
  clk          : Nat := 0
  /-- Core clocks delivered to each die since power-up step 5: what `cycle` reads (R14, R248). -/
  dieClk       : AMap Nat := []
  /-- The DIMMs of the second tier (R20): channel 0–15, whether it is an MRDIMM, capacity in GiB. -/
  dimms        : List (Nat × Bool × Nat) := []
  tier2On      : Bool := false
  /-- The part that fails to train in the running power-up (R18, R20): a HBM4 stack 0–15, a UCIe link from 16 on, or a
  DDR-5 channel from 64 on. -/
  trainFail    : Option Nat := none
  /-- What the next warm resets will find when the UCIe links train again, in order: the link that fails, if one does (R17, R18). -/
  retrains     : List (Option Nat) := []
  ports        : AMap MeridianPort := []
  /-- Meridian ports that reach a module (module × 16 + port). -/
  routes       : List Nat := []
  bankSel      : Option Nat := none
  bankRunning  : Option Nat := none
  flash        : List Host.Cell := []
  fuseRevoked  : BitVec 4 := 0
  fuseMinVer   : BitVec 32 := 0
  fuseKeyHash  : AMap (BitVec 512) := []
  runningVer   : BitVec 32 := 0
  enrolledKeys : List (BitVec 256) := []
  conns        : List MgmtConn := []
  replies      : List MgmtReply := []
  events       : List EventReport := []
  measure      : AMap (BitVec 512) := []
  /-- Security offset 0x100: the 64 data bytes of the next extension (R52). -/
  measureData  : BitVec 512 := 0
  /-- Corrected SRAM errors per die (R117). -/
  correctedCnt : AMap Nat := []
  /-- Keys drawn so far; the next drawn key pair has this number (R46). -/
  keysDrawn    : Nat := 0
  deriving DecidableEq, Repr

/-- A vector clock: for each agent, how many of its writes happen before this point (R217). -/
abbrev Clock := AMap Nat

/-! ### Queues, helm registers, logbook, owners (spec/02) -/

/-- A queue's registers and the records the helm has not read (R27, R28). -/
structure QueueState where
  en      : Bool := false
  prio    : BitVec 2 := 0
  owner   : BitVec 12 := 0
  discard : Bool := false
  cfgErr  : Bool := false
  lastSeq : BitVec 48 := 0
  tag     : BitVec 64 := 0
  /-- Records written and not yet read, oldest first; at most 64. -/
  fifo    : List Words8 := []
  /-- What happens before each of those writes, in the same order (R30). -/
  fifoClk : List Clock := []
  deriving DecidableEq, Repr

/-- The states of R37/R38. -/
inductive RecPhase where
  | accepted | admitted | running | completed | faulted | aborted | rejected
  deriving DecidableEq, Repr

/-- A record the helm has read (R37, R38). -/
structure RecordState where
  seqNo     : Nat
  queue     : BitVec 8
  owner     : BitVec 12
  prio      : BitVec 2
  words     : Words8
  /-- Index in the enclosing array, 0xFFF at top level. -/
  index     : BitVec 12
  parent    : Nat
  /-- GRAPH nesting level of the record (R33 reason 0x07): 0 at top level. -/
  level     : Nat
  phase     : RecPhase
  /-- The record has been admitted (R38). -/
  entered   : Bool := false
  reason    : BitVec 8
  /-- Sequence number of record 0 of this GRAPH's array, once its array is accepted. -/
  arrayBase : Option Nat
  arrayLen  : Nat
  /-- REFCLK time since which the record's next unit has been refused (R72, R74). -/
  refusedAt : Option Nat
  /-- Crews not yet placed, and the next crew's index (R71). -/
  nextCrew  : Nat
  crewsLeft : Nat
  /-- A final state reached whose entry waits: until every access of stopped work is performed or discarded (R39),
  or while 4,096 logbook entries wait (R41). -/
  ending    : Option (RecPhase × BitVec 8)
  /-- The hint block as the pilot read it (R79). -/
  hintRead  : Option Words8
  /-- Clusters decided for the next unit (a gang: for every crew, in order) while they are scrubbed or read (R49). -/
  chosen    : List Nat
  /-- Clusters the host named for crews of a gang; 256 where it deferred (R85). -/
  named     : AMap Nat
  /-- Free capacity when the host deferred, or its answer could not be used (R85). -/
  deferredAt : Option Nat
  /-- What happens before every access of the record's work: the bridge's clock when the helm read it (R30). -/
  clk       : Clock
  /-- What the ended parts of its work release (R30). -/
  endClk    : Clock
  deriving DecidableEq, Repr

/-- A logbook entry not yet written to memory (R37, R41). -/
structure LogEntry where
  w0 : BitVec 64
  w1 : BitVec 64
  w2 : BitVec 64
  w3 : BitVec 64
  /-- What a final entry of a record's work happens after (R30). -/
  clk : Clock := []
  deriving DecidableEq, Repr

/-- A state change that R41 holds back while 4,096 entries wait. -/
inductive HeldStep where
  /-- The first issue of a crew, whose running entry has no place. -/
  | start (crew : Nat)
  /-- A crew whose last thread has exited keeps its cores. -/
  | retire (crew : Nat)
  /-- A crew whose handler trapped stays stopped without its abort. -/
  | handler (crew : Nat)
  /-- A voyage holds its last increment. -/
  | voyage (cluster : Nat)
  /-- A stream section holds its completion. -/
  | sectionEnd (cluster : Nat) (fid : BitVec 12)
  /-- Any other change of a record's state. -/
  | record (seq : Nat)
  deriving DecidableEq, Repr

/-- The helm's registers (R26, R40, R76, R83, R90, R112) and the logbook's inner state (R41, R42). -/
structure HelmState where
  logBase   : BitVec 52 := 0
  logSize   : BitVec 5 := 12
  logHead   : BitVec 32 := 0
  logTail   : BitVec 32 := 0
  snap      : Bool := false
  afault    : Bool := false
  paused    : Bool := false
  isOpen    : Bool := false
  /-- Offset 0x030 as last written. -/
  abortReg  : BitVec 64 := 0
  /-- HPREEMPT, offset 0x040. -/
  wait3     : BitVec 16 := 1000
  wait2     : BitVec 16 := 1000
  wait1     : BitVec 16 := 0
  /-- Offset 0x048. -/
  hage      : BitVec 32 := 1000
  /-- Offset 0x050. -/
  hintBad   : Bool := false
  /-- Offsets 0x060 and 0x068. -/
  saveBase  : BitVec 48 := 0
  saveSize  : BitVec 32 := 0
  /-- Offsets 0x070 and 0x078 (R90). -/
  privBase  : BitVec 24 := 0
  privSize  : BitVec 32 := 0
  /-- Offset 0x100 (R83). -/
  epoch     : BitVec 16 := 1000
  promote   : BitVec 16 := 64
  headroom  : BitVec 16 := 64
  /-- Aperture control registers, offset 0x800 + 8 × a (R26). -/
  apertures : AMap (BitVec 64) := []
  nextSeq   : Nat := 0
  /-- Entries that wait while the logbook is full, oldest first, at most 4,096 (R41). -/
  waiting   : List LogEntry := []
  /-- Records whose snapshot entries are still to be appended (R42). -/
  snapLeft  : List Nat := []
  /-- REFCLK time of the end of the running tier epoch (R83). -/
  epochEnd  : Nat := 0
  /-- Final entries that stand in the logbook: the entry's number and what it happens after (R30). -/
  logEnds   : AMap Clock := []
  /-- What happens before the records that the helm has read (R30). -/
  pilotClk  : Clock := []
  /-- State changes held back while 4,096 entries wait, in the order in which they arose (R41). -/
  heldBack  : List HeldStep := []
  deriving DecidableEq, Repr

/-- What a posted host-assisted request concerns (R43, R44). -/
inductive HostNeed where
  | crewPlacement (record : Nat) (crew : Nat)
  | imagePlacement (cluster : Nat) (owner : BitVec 12) (fid : BitVec 12)
  | tierMigration (owner : BitVec 12)
  | spill (record : Nat) (crew : Nat)
  | twinReload (cluster : Nat) (fid : BitVec 12) (server : Nat)
  deriving DecidableEq, Repr

/-- A host-assisted request (R44). -/
structure HostRequest where
  reqId : BitVec 48
  need  : HostNeed
  body  : Words8
  deriving DecidableEq, Repr

/-- The host-assisted request registers and requests (R44). (DESIGN CHOICE, log 1) -/
structure ReqState where
  reqBase  : BitVec 64 := 0
  reqSize  : BitVec 5 := 6
  reqHead  : BitVec 32 := 0
  reqTail  : BitVec 32 := 0
  badAns   : Bool := false
  nextId   : Nat := 0
  /-- Posted in the ring and not answered. -/
  posted   : List HostRequest := []
  /-- Held inside the device while the ring is full, oldest first. -/
  held     : List HostRequest := []
  deriving DecidableEq, Repr

inductive OwnerPhase where
  | absent | live | retiring
  deriving DecidableEq, Repr

/-- One owner (R43, R45–R48). -/
structure OwnerState where
  phase   : OwnerPhase := .absent
  /-- OWNARG's frame bits [41:16] at creation, the root of the page table (R89). -/
  root    : BitVec 26 := 0
  modes   : BitVec 6 := 0
  /-- The number of the key pair drawn for the owner; none once zeroised (R46, R48). -/
  key     : Option Nat := none
  peers   : BitVec 8 := 0
  /-- Event slots that are not zero (R36). -/
  slots   : AMap (BitVec 32) := []
  deriving DecidableEq, Repr

/-- A key transfer that OWNCMD ops 5 and 6 started (R47). -/
structure KeyTransfer where
  isJoin  : Bool
  owner   : BitVec 12
  peer    : BitVec 3
  modes   : BitVec 6
  began   : Nat
  deriving DecidableEq, Repr

/-- The owner registers (R45) and owners. -/
structure OwnersState where
  ownArg   : BitVec 64 := 0
  busy     : Bool := false
  result   : BitVec 3 := 0
  statOwner : BitVec 12 := 0
  transfer : Option KeyTransfer := none
  owners   : AMap OwnerState := []
  deriving DecidableEq, Repr

/-! ### Translation, faults (spec/04) -/

/-- A TLB entry (R93): the leaf an owner's page is mapped by. -/
structure TlbEntry where
  owner : BitVec 12
  /-- Virtual page number va[54:16] (64 KiB) or va[54:29] × 2^13 (512 MiB). -/
  vpn   : Nat
  big   : Bool
  /-- The page-table entry (R91). -/
  pte   : BitVec 64
  deriving DecidableEq, Repr

/-- Who waits on a walk or a fault entry (R94, R101). -/
inductive Requester where
  | thread (tag : Nat)
  | fetch (tag : Nat)
  | command (core : Nat) (queue : Nat)
  | probe (core : Nat) (queue : Nat)
  | region (cluster : Nat) (fid : BitVec 12) (cell : Nat)
  | serveCell (cluster : Nat) (fid : BitVec 12) (pkt : Nat)
  | voyage (cluster : Nat)
  /-- The read of a VOYAGE launch's descriptor: cluster and record. -/
  | launch (cluster : Nat) (record : Nat)
  /-- The accumulation, or the reckoning fetch, of a chart entry. -/
  | sighting (cluster : Nat) (entry : Nat)
  | spill (cluster : Nat)
  deriving DecidableEq, Repr

/-- A waiter: its own faulting address and access kind (R96). -/
structure Waiter where
  who  : Requester
  va   : BitVec 64
  kind : BitVec 4
  deriving DecidableEq, Repr

/-- A walk in progress on a die's walkers (R94). -/
structure Walk where
  owner   : BitVec 12
  /-- va[54:16]. -/
  page    : Nat
  /-- First faulting address and kind (R96). -/
  va      : BitVec 64
  kind    : BitVec 4
  waiters : List Waiter
  /-- In the miss queue: the walk ended in a page fault while every fault entry was in use (R94). -/
  starved : Bool
  deriving DecidableEq, Repr

/-- A fault entry of a die (R94). -/
structure FaultEntry where
  owner   : BitVec 12
  page    : Nat
  va      : BitVec 64
  kind    : BitVec 4
  waiters : List Waiter
  deriving DecidableEq, Repr

/-- A die's translation and fault state (R93–R97). -/
structure DieState where
  fbBase   : BitVec 52 := 0
  fbSize   : BitVec 5 := 3
  fbHead   : BitVec 32 := 0
  fbTail   : BitVec 32 := 0
  dropped  : Bool := false
  en       : Bool := false
  dropCnt  : BitVec 32 := 0
  l2       : List TlbEntry := []
  /-- The walk cache: (owner, level, index bits, pointer entry). -/
  wcache   : List (BitVec 12 × Nat × Nat × BitVec 64) := []
  walks    : List Walk := []
  faults   : List FaultEntry := []
  /-- The miss queue: misses that found no walker, fault entry or waiter place. -/
  missQ    : List Walk := []
  deriving DecidableEq, Repr

/-- The module-wide translation registers (R95, R98, R100). -/
structure InvState where
  inv      : BitVec 64 := 0
  invBusy  : Bool := false
  replay   : BitVec 12 := 0
  repBusy  : Bool := false
  /-- Owners whose replay is held, in the order written. -/
  repQ     : List (BitVec 12) := []
  /-- What happens before each of those writes, in the same order, and before that of the running replay (R392). -/
  repClks  : List Clock := []
  repClk   : Clock := []
  decline  : BitVec 64 := 0
  /-- The location keys that the entries removed by the running invalidation mapped: first key and length (R100). -/
  ranges   : List (Nat × Nat) := []
  /-- Accesses numbered below this one are waited for by the running invalidation (R100). -/
  upto     : Nat := 0
  /-- Server packets numbered below this one are waited for by it, while they hold stores. -/
  uptoCall : Nat := 0
  deriving DecidableEq, Repr

/-! ### Happens-before and write sets (spec/08) -/

/-- Where an agent stands, for the scopes of R216. -/
inductive Place where
  | core (core : Nat)
  | cluster (cluster : Nat)
  | device
  | outside
  deriving DecidableEq, Repr

/-- The scopes of R216. -/
inductive Scope where
  | core | cluster | device | system
  deriving DecidableEq, Repr

/-- A release end (R218): who released, from where, with which scope, and what happens before it. (DEDUCED, log 18) -/
structure RelEnd where
  place : Place
  scope : Scope
  clock : Clock
  deriving DecidableEq, Repr

/-- One write of a write set (R220). `addr` is a location key of the memory (R209, R211). -/
structure WriteRec where
  /-- Running number of the write. -/
  num     : Nat
  addr    : Nat
  bytes   : List Byte
  /-- The notional initial write of R220. -/
  initial : Bool
  agent   : Nat
  /-- The writing thread's core, for the same-core exemption (R222). -/
  core    : Option Nat
  /-- The cluster whose cache holds the bytes dirty (R140). -/
  cluster : Nat
  /-- The write's number among its agent's writes: `W` happens before a point whose clock reaches it. -/
  stamp   : Nat
  clock   : Clock
  /-- Header key of the tile frame whose flag the write clears when it arrives (R148). -/
  flagAt  : Option Nat
  /-- The write stands in home order (R224). -/
  arrived : Bool
  /-- The running number of the instruction that made it, among the accesses of its core (R222). -/
  issued  : Nat
  rel     : List RelEnd
  /-- For a read-modify-write, the release ends of each byte: it extends the sequences of what it replaced (R218). -/
  byteRel : AMap (List RelEnd) := []
  /-- Locations of which a later write of the cluster has gone home: they do not go home from here (R140). -/
  passed  : List Nat := []
  /-- Locations of which it holds an unspecified value (R2). -/
  loose   : List Nat := []
  /-- Its bytes are uncorrectable (R118): poisoned data that a command moved into a cluster cache. -/
  bad     : Bool := false
  deriving DecidableEq, Repr

/-- A store sent to a home and not yet performed there (R128, R224): home class and windows. -/
structure PostedStore where
  num   : Nat
  addr  : Nat
  bytes : List Byte
  /-- The accessed page is tile-typed: the flag is cleared on arrival (R148), at this header key. -/
  flagAt : Option Nat
  agent : Nat
  core  : Nat
  stamp : Nat
  clock : Clock
  rel   : List RelEnd
  deriving DecidableEq, Repr

/-! ### Threads (spec/05, spec/12) -/

/-- The operations of `atm` (R293). -/
inductive AtomicOp where
  | add | and | or | xor | min | max | minu | maxu | swap | cas | fadd
  deriving DecidableEq, Repr

/-- The operations of the full/empty group (R291). -/
inductive SyncOp where
  | take | keep | fill | set | clear | test
  deriving DecidableEq, Repr

/-- A load or atomic that left the core and whose value has not returned (R128). -/
structure MemReq where
  /-- Location key of the first byte. -/
  key    : Nat
  va     : Word
  size   : Nat
  /-- The bytes are home-located (R214). -/
  atHome : Bool
  signed : Bool
  dest   : Reg
  /-- The atomic operation and its operand, expected value; none for a plain load. -/
  op     : Option AtomicOp
  operand : Word
  expect : Word
  acquire : Bool
  release : Bool
  scope  : Scope
  /-- Control-window words that are registers, not memory (R121): the window offset. -/
  control : Option Nat
  /-- Header key of the frame when the page is tile-typed (R148). -/
  flagAt : Option Nat
  /-- Its running number: stores of the core numbered below it are performed first (R128). -/
  after  : Nat
  /-- An operation of the full/empty group on another core's word (R129); its value, if it writes one, is `operand`. -/
  sync   : Option SyncOp := none
  /-- The page's class is stream: dirty bytes of the cluster's cache, else the home's (R212). -/
  stream : Bool := false
  deriving DecidableEq, Repr

/-- Kinds of waiting full/empty requests (R129, R290). -/
inductive SyncKind where
  | take | keep | fill
  deriving DecidableEq, Repr

/-- A request in a core's waiter unit (R129). -/
structure Waiting where
  kind  : SyncKind
  word  : Nat
  tag   : Nat
  dest  : Reg
  value : Word
  /-- The address its thread named. -/
  va    : Word := 0
  /-- The crew whose core it was: while that crew is saved the word is, too (R292). -/
  crew  : Option Nat := none
  deriving DecidableEq, Repr

/-- Why a thread is out of the rotation (R123, R128–R132, R182, R296–R342). -/
inductive Park where
  | none
  /-- A load or atomic in flight: LOAD_RETURN ends it. -/
  | memory (r : MemReq)
  /-- A fetch miss on an instruction-cache line (virtual line address): ICACHE_FILL ends it. -/
  | fetch (line : Nat)
  /-- A page fault or walk: the waiter of `(owner, page)` on the thread's die (R94). -/
  | fault
  /-- A fence that waits: the thread's posted stores, and at module or system scope every dirty write of the
  cluster, numbered below `upto`, must be home (R141, R296). -/
  | release (upto : Nat) (scope : Scope) (full : Bool)
  /-- A full/empty request in the waiter unit of a core; one that a full unit refused is sent again (R129). -/
  | sync (core : Nat) (refused : Option Waiting)
  | send (msg : Nat)
  | spawn (msg : Nat)
  | message (reg : Nat)
  | anyMessage
  | barrier (n : Nat) (phase : BitVec 32)
  | counter (n : Nat) (value : BitVec 48)
  | response
  | serve
  /-- `sload`/`sinfo`/`vinfo`, control answers are given at once; `vstart` waits here for the ring (R315). -/
  | voyage
  | exiting
  deriving DecidableEq, Repr

/-- A pending deferred trap (R105). -/
structure Deferred where
  cause : BitVec 8
  tval  : Word
  deriving DecidableEq, Repr

/-- The sighting a task holds (R161): cluster, chart index, tiles not released, what `vrel` gave. -/
structure HeldSighting where
  entry    : Nat
  released : Bool
  missed   : Bool
  reckon   : Bool
  /-- Marked missed by a stop or a failure: the tiles are released without a `vrel` (R167, R398). -/
  freed    : Bool := false
  deriving DecidableEq, Repr

/-- A thread slot (R56, R103, R123, R130, R248). -/
structure ThreadState where
  live    : Bool := false
  crew    : Nat := 0
  /-- A launch thread (not a task). -/
  launch  : Bool := true
  /-- Its thread index in the crew (R55), for launch threads. -/
  index   : Nat := 0
  /-- x1–x31 as written; x0 is never listed. -/
  x       : AMap Word := []
  pc      : Word := 0
  /-- m0–m7: a listed register is full (R130). -/
  m       : AMap Word := []
  /-- What happens before the message in each full register (R217). -/
  mclk    : AMap (List (Nat × Nat)) := []
  tcause  : Word := 0
  tepc    : Word := 0
  tval    : Word := 0
  tvec    : Word := 0
  tstat   : Word := 0
  fstat   : Word := 0
  thid    : Word := 0
  crix    : Word := 0
  park    : Park := .none
  /-- Core clock of the last issue (R123). -/
  lastIssue : Option Nat := none
  /-- Forfeits in a row for a scratchpad bank (R125). -/
  forfeits : Nat := 0
  /-- Forfeits so far, for any cause of R124. -/
  bubbles : Nat := 0
  /-- `yield`: passed over once (R322). -/
  yielded : Bool := false
  /-- Stopped for pre-emption or abort (R111). -/
  stopped : Bool := false
  deferred : List Deferred := []
  sighting : Option HeldSighting := none
  /-- The agent number of this thread in happens-before (R216), and its clock. -/
  agent   : Nat := 0
  clock   : Clock := []
  /-- Release fences of the thread: every later write is their release end (R218). -/
  fences  : List RelEnd := []
  /-- Release ends that earlier reads took values from, for a later acquire fence (R218). -/
  seen    : List RelEnd := []
  deriving DecidableEq, Repr

/-! ### Cores: tile engine, engine queues, halo (spec/05, spec/12, spec/13) -/

/-- A queued tile instruction (R134, R308). -/
inductive TileOp where
  | zero (z : Nat)
  | mma (z : Nat) (fa fb : BitVec 3) (a b : Nat) (k q p : Nat)
  | drain (z : Nat) (fmt : BitVec 3) (dst : Nat) (scale : BitVec 32) (bias : Option Nat) (relu acc prop : Bool)
      (flag : Option Nat) (stride : Nat)
  | load (z : Nat) (src : Nat)
  deriving DecidableEq, Repr

/-- A tile instruction in the queue, and the thread that issued it. -/
structure TileEntry where
  op   : TileOp
  tag  : Nat
  /-- Accesses of the core numbered below this one were issued before it (R138). -/
  number : Nat := 0
  /-- What happens before its issue. -/
  clock : Clock := []
  /-- Chunks of its operands that the engine has read: by twice the offset, plus 1 for operand B (R136). -/
  latched : AMap (List Byte) := []
  deriving DecidableEq, Repr

/-- A bank z0–z3 (R135, R238): 256 words, row-major, and the column scales CS. -/
structure Bank where
  z  : AMap (BitVec 32) := []
  /-- CS words that differ from 1.0. -/
  cs : AMap (BitVec 32) := []
  deriving DecidableEq, Repr

/-- How far a stream command has come (R325). -/
inductive CmdPhase where
  /-- In the queue, not started. -/
  | queued
  /-- Held by a draining counter (R343), joined to no PEND. -/
  | held
  /-- Running: the next element is `progress`. -/
  | running
  /-- Parked on a page fault at the element `progress` (R340). -/
  | parked
  /-- All data moved, or ended early: only its writes' arrival and its completion remain. -/
  | moved
  deriving DecidableEq, Repr

/-- A stream command (R324–R326). -/
structure Command where
  hi      : Word
  lo      : Word
  /-- Issuing thread, and the number of the thread's life. -/
  tag     : Nat
  agentOf : Nat
  phase   : CmdPhase
  progress : Nat
  /-- Data read by the command: a copy's D, a fill's P, an index list, a halo descriptor, a chain's header and its units (each the
  bytes as one number, then 1 where they are bad). -/
  listed  : List Nat
  status  : BitVec 4
  value   : Nat
  /-- Response entry number, when RSP = 1. -/
  response : Option Nat
  /-- The command's agent number and clock. -/
  agent   : Nat
  clock   : Clock
  deriving DecidableEq, Repr

/-- A reserved or filled response entry (R338). -/
structure ResponseEntry where
  num     : Nat
  tag     : Nat
  element : Option Word
  clock   : Clock
  deriving DecidableEq, Repr

/-- A halo group record (R345). -/
structure HaloGroup where
  bound : Bool := false
  ccl   : Nat := 0
  cdie  : Nat := 0
  ccore : Nat := 0
  bpend : Bool := false
  wslot : Nat := 0
  wnc   : Bool := false
  wrsp  : Bool := false
  wctr  : Nat := 0
  wait  : Bool := false
  wexp  : Nat := 0
  inb   : Nat := 0
  /-- Happens-before clock of the faces counted in INB (R346). -/
  clock : Clock := []
  deriving DecidableEq, Repr

/-- A message on its way (R131, R132). -/
structure Message where
  num     : Nat
  sender  : Nat
  /-- The message address, x[a] of the `send` (R130). -/
  addr    : Word
  /-- The thread tag in it. -/
  target  : Nat
  reg     : Nat
  value   : Word
  clock   : Clock
  accepted : Bool
  /-- In the holding buffer of the target core (R132). -/
  held    : Bool
  /-- REFCLK-independent: the module clock at issue, for the 1,024 clk of R108. -/
  issued  : Nat
  crew    : Nat
  deriving DecidableEq, Repr

/-- A spawn on its way or pending (R64–R66). -/
structure Spawn where
  num     : Nat
  sender  : Nat
  cluster : Nat
  channel : Nat
  words   : List Word
  clock   : Clock
  answered : Bool
  issued  : Nat
  crew    : Nat
  owner   : BitVec 12
  deriving DecidableEq, Repr

/-- An instruction-cache line (R139). -/
structure ICacheLine where
  line  : Nat
  words : List IWord
  deriving DecidableEq, Repr

/-- A core (R123–R139). -/
structure CoreState where
  crew    : Option Nat := none
  /-- The core clock: one more at each turn of the barrel (R123). -/
  clk     : Nat := 0
  /-- The slot chosen last (R123). -/
  ptr     : Nat := 15
  /-- s0–s15, oldest first: the clock of each write and its value (R126). -/
  s       : AMap (List (Nat × Word)) := []
  banks   : AMap Bank := []
  tiles   : List TileEntry := []
  /-- The head of `tiles` is executing (R136). -/
  tileBusy : Bool := false
  /-- Rows that the running drain has written (R137). -/
  rows    : Nat := 0
  /-- A ring-controller operation runs on the engine (R158). -/
  ringBusy : Bool := false
  e0      : List Command := []
  e1      : List Command := []
  e2      : List Command := []
  e3      : List Command := []
  /-- What the completed commands of each queue happen before the later ones with (R348). -/
  qclk    : AMap Clock := []
  /-- L2 TLB entries each queue's probe holds: owner and 64 KiB page (R333). -/
  held    : AMap (List (BitVec 12 × Nat)) := []
  responses : List ResponseEntry := []
  halo    : AMap HaloGroup := []
  waiters : List Waiting := []
  icache  : List ICacheLine := []
  deriving DecidableEq, Repr

/-! ### Clusters (spec/03, spec/05, spec/06, spec/07) -/

/-- A counter n0–n15 (R341). -/
structure Counter where
  drain : Bool := false
  pend  : BitVec 12 := 0
  value : BitVec 48 := 0
  /-- What happens before the increments counted (R217). -/
  clock : Clock := []
  deriving DecidableEq, Repr

/-- A barrier b0–b15 (R297). -/
structure Barrier where
  count   : BitVec 16 := 0
  arrived : BitVec 16 := 0
  phase   : BitVec 32 := 0
  /-- What happens before the completion of each phase (R300). -/
  clocks  : AMap Clock := []
  deriving DecidableEq, Repr

/-- An embarked tile of a voyage (R146, R152). -/
structure VTile where
  id     : Nat
  home   : Nat
  flag   : Bool
  source : Word
  planes : Nat
  lost   : Bool
  deriving DecidableEq, Repr

/-- The statuses of a sighting record (R154). -/
inductive SightStatus where
  | pending | counted | skipped | void | missed | reckoned | running
  deriving DecidableEq, Repr

/-- A chart entry of the running voyage (R153, R154). -/
structure ChartEntry where
  w0      : Word
  target  : Word
  half    : Nat
  /-- The meeting station (R157). -/
  station : Nat
  /-- The station where it runs: the meeting station, or that of the reckoning pass (R163). -/
  runAt   : Nat := 0
  status  : SightStatus
  /-- A thread-kind sighting that could not start at SIGHT: declined at the end of HOLD (R161, R162). -/
  tried   : Bool
  /-- Run by the reckoning pass. -/
  again   : Bool
  /-- An engine sighting's products, while its additions are to be made. -/
  products : List (BitVec 32)
  /-- Its accumulation, or its fetch in the reckoning pass, is parked on a page fault at this address (R101, R160). -/
  waits   : Option Word := none
  /-- Locations that its additions changed: unspecified values once the voyage fails or is aborted (R169, R398), or its bank is spoiled (R308). -/
  rows    : List (Nat × Nat) := []
  deriving DecidableEq, Repr

/-- The phases of VSTATE (R154). -/
inductive VPhase where
  | embark | halfSteps | reckoning | stopped
  deriving DecidableEq, Repr

/-- The active voyage of a cluster (R149–R170). -/
structure Voyage where
  descVa   : Word
  desc     : Words8
  owner    : BitVec 12
  /-- The VOYAGE launch's record; none for a `vstart` voyage. -/
  record   : Option Nat
  thread   : Option Nat
  /-- The agent number of the `vstart` thread's life. -/
  threadAgent : Nat
  crew     : Option Nat
  phase    : VPhase
  /-- Increments of the counter so far (R164). -/
  tally    : Nat
  /-- The counter has been set to zero (R152). -/
  zeroed   : Bool
  /-- The embark phase has read lists, headers and chart; fetches remain to be performed (R152). -/
  fetched  : Bool
  half     : Nat
  port     : List VTile
  stbd     : List VTile
  entries  : List ChartEntry
  /-- Stations that reported READY for this half-step (R155). -/
  ready    : List Nat
  counted  : Nat
  missed   : Nat
  skipped  : Nat
  reckoned : Nat
  /-- The reckoning list with the stations of its entries (R163). -/
  reckon   : List (Nat × Nat)
  /-- The reckoning position that a stop saved: the first entry not counted (R167). -/
  reckonAt : Nat
  /-- The tiles were dropped and counted after half-step 95 (R163). -/
  dropped  : Bool := false
  /-- A stop takes effect at the end of the embark phase: half-step 0 is not run (R167). -/
  atStart  : Bool := false
  /-- Banks of stations that hold unspecified values: a thread's queued tile instruction wrote them (R308). -/
  spoiled  : List (Nat × Nat) := []
  lostTask : Bool
  void     : Bool
  badTile  : Bool
  wasStopped : Bool
  /-- A stop was asked for by a pre-emption (R167). -/
  stopping : Bool
  /-- A read or accumulation parked on a page fault (R101), with its address and kind. -/
  parked   : Option Word
  /-- A read or accumulation met an access fault (0x03) or a declined fault (0x04): R398. -/
  failure  : Option (BitVec 8 × Word)
  clock    : Clock
  agent    : Nat
  deriving DecidableEq, Repr

/-- Token kinds (R178). -/
inductive TokKind where
  | data | null | stop | config
  deriving DecidableEq, Repr

/-- A token (R178). `pkt` and `itr` are the model's own marks: the packet a serve-mode token belongs to (R187),
and the streaming loop iteration (lcu, number) that issued it (R193). -/
structure Tok where
  kind : TokKind
  pay  : BitVec 256
  pkt  : Nat
  itr  : List (Nat × Nat)
  deriving DecidableEq, Repr

/-- A link of a placed image (R369) and the tokens it holds, oldest first. -/
structure LinkState where
  desc : Word
  toks : List Tok
  deriving DecidableEq, Repr

/-- A context of a placed image (R175, R353, R366) with its running state. -/
structure CtxState where
  col   : Nat
  row   : Nat
  ctx   : Nat
  mem   : Bool
  word  : BitVec 256
  k0    : BitVec 32
  k1    : BitVec 32
  cnt0  : Nat
  cnt1  : Nat
  /-- OWN of S1–S4 (R355): stage number ↦ value; absent when empty. -/
  own   : AMap (BitVec 256)
  /-- The stage registers of S0 and S5 (R175): the gathered operand A and what was routed to output 0 last. -/
  reg0  : BitVec 256 := 0
  reg5  : BitVec 256 := 0
  /-- carry: in the loop phase (R361). -/
  inLoop : Bool
  /-- lcu (R362): the next index, the iterations left of the current bounds, whether they are the one null iteration,
  whether a stop is due; iterations issued, done tokens taken, exit tokens taken; and the first iteration of each later
  bounds token that is not yet confirmed. -/
  index  : Nat
  left   : Nat
  nullIter : Bool
  stopDue : Bool
  issued : Nat
  done   : Nat
  ended  : Nat
  starts : List Nat
  /-- Memory cell: the two address generators' walk positions and bases (R367). -/
  ag0   : Nat
  ag1   : Nat
  base0 : Option Int
  base1 : Option Int
  stopsDue : List Nat
  /-- Operand store: the buffer written, and the side that fired last (R399). -/
  buf   : Nat
  lastWrite : Bool
  /-- FIFO and line buffer: words held, first to be read first (R368). -/
  queue : List (BitVec 256)
  /-- Endpoint: elements moved, and the tail or head last read (R368). -/
  moved : Nat
  seenCount : Nat
  /-- The model's own marks: the packet the context serves, and the loop iterations of the token that began AG0's walk. -/
  pkt   : Nat
  marks : List (Nat × Nat)
  deriving DecidableEq, Repr

/-- A cell's context counter and run count (R175, R177). -/
structure CellState where
  cc  : Nat := 0
  run : Nat := 0
  deriving DecidableEq, Repr

/-- A copy of an image on a rectangle of fabric pages (R82, R172). -/
structure Placed where
  server : Nat
  page   : Nat
  ctxs   : List CtxState
  links  : List LinkState
  cells  : AMap CellState
  /-- Its place among the image's copies: 1 for a twin's second (R189). -/
  copy   : Nat
  deriving DecidableEq, Repr

/-- A store held in the commit buffer (R186). -/
structure HeldStore where
  key   : Nat
  va    : Word
  bytes : List Byte
  flagAt : Option Nat
  itr   : List (Nat × Nat)
  /-- The page is of reconcile or stream class: the store is performed at the cluster cache. -/
  cached : Bool
  deriving DecidableEq, Repr

/-- An admitted packet: its tag-queue entry (R183, R187). -/
structure Packet where
  num      : Nat
  tag      : Nat
  dest     : Reg
  /-- Faults recorded, oldest first: code, faulting address, and the loop iterations each may be squashed with. -/
  faults   : List (BitVec 4 × Word × List (Nat × Nat))
  /-- Walks of the packet that ended in a fault: the address, and the poison code its access then takes. -/
  answers  : List (Word × BitVec 4)
  /-- Held stores of the first and, for a twin, the second copy. -/
  stores   : List HeldStore
  stores2  : List HeldStore
  bd       : Bool
  admitted : Nat
  clock    : Clock
  deriving DecidableEq, Repr

/-- A `serve` not yet admitted (R182): in an entry queue or the miss list. -/
structure CallReq where
  /-- Arrival number. -/
  num   : Nat
  tag   : Nat
  fid   : BitVec 12
  dest  : Reg
  nargs : Nat
  args  : List Word
  clock : Clock
  deriving DecidableEq, Repr

/-- A resident image (R199–R203). -/
structure Image where
  fid     : BitVec 12
  /-- Header words 0 to 2 (R350). -/
  h0      : Word
  h1      : Word
  h2      : Word
  copies  : List Placed
  /-- Entry queue, oldest first, and tag queue, oldest first. -/
  entry   : List CallReq
  tags    : List Packet
  evPend  : Bool
  broken  : Bool
  /-- Entry closed: a freeze or reload is under way (R115, R119). -/
  closed  : Bool
  /-- A twin's reload (R119): 0 none, 1 due, 2 ordered by the host. -/
  reload  : Nat
  gen     : Nat
  calls   : Nat
  poisoned : Nat
  lastUse : Nat
  loadClk : Nat
  /-- Stream section: record, remaining tiles, pending fault, halted (R206). -/
  launch  : Option Nat
  tilesLeft : Nat
  stalled : Option Word
  /-- Iterations squashed by an lcu (R193): lcu, named with its copy, and iteration. -/
  squashed : List (Nat × Nat)
  /-- Argument words of the section that have not entered their links (R206): argument number and word. -/
  argsDue : List (Nat × Word) := []
  /-- The core clock at which a twin's reload fell due (R119, R203 LOADCLK). -/
  reloadAt : Nat := 0
  /-- The section's agent number and clock (R216, R217). -/
  agent   : Nat
  clock   : Clock
  deriving DecidableEq, Repr

/-- A load of an image in progress (R199). -/
structure ImageLoad where
  fid    : BitVec 12
  /-- Bytes read, once read; then the check's outcome: none while unknown, else a poison code, 0 for good. -/
  words  : List Word
  outcome : Option (BitVec 4)
  record : Option Nat
  /-- A host-assisted placement answer (R204). -/
  place  : Option (Nat × Nat × Nat × Nat)
  /-- The host deferred, and no image has been evicted or become quiescent since (R204). -/
  deferred : Bool
  /-- The core clock at its start (R203 LOADCLK). -/
  began  : Nat
  deriving DecidableEq, Repr

/-- A server's shared state (R119, R203, R378). -/
structure ServerState where
  offline  : BitVec 8 := 0
  /-- REFCLK times of the twin mismatches of the last second, the latest first. -/
  mismatches : List Nat := []
  /-- The core whose packet was admitted last (round-robin, R378). -/
  lastCore : Nat := 95
  deriving DecidableEq, Repr

/-- A message or spawn in the spill engine or area (R108–R110). -/
inductive SpillItem where
  | message (m : Message)
  | spawn (p : Spawn)
  deriving DecidableEq, Repr

/-- A cluster (R59, R62, R66, R120, R121). -/
structure ClusterState where
  /-- The owner that held the cluster last since its last scrub (R59). -/
  lastOwner : Option (BitVec 12) := none
  scrubbing : Bool := false
  counters : AMap Counter := []
  barriers : AMap Barrier := []
  /-- Task table words: 2 × channel and 2 × channel + 1 (R62). -/
  tasks    : AMap Word := []
  pendingQ : List Spawn := []
  /-- Spawns that wait in the network for the pending queue. -/
  waitingQ : List Spawn := []
  voyage   : Option Voyage := none
  servers  : AMap ServerState := []
  images   : AMap Image := []
  loads    : List ImageLoad := []
  misses   : List CallReq := []
  /-- GEN of each function id since the last scrub (R202). -/
  gens     : AMap Nat := []
  l1       : List TlbEntry := []
  /-- What waits at the spill engine (R109, R110). -/
  spill    : List SpillItem := []
  /-- What happens before the spill engine's writes (R392). -/
  spillClk : Clock := []
  /-- The core clock at which the spill engine tried its items last (R110). -/
  spillTried : Nat := 0
  deriving DecidableEq, Repr

/-! ### Crews, reservations, saves (spec/03, spec/04) -/

inductive CrewPhase where
  | running | stopping | saved | aborting | holding
  deriving DecidableEq, Repr

/-- What stands in a stretch of on-chip memory, by offset: bytes, poisoned bytes (R114, R118), full words (R129), and what their writes and
fills release (R217, R218). -/
structure Region where
  cells  : List Host.Cell := []
  poison : List Nat := []
  full   : List Nat := []
  rel    : AMap (List RelEnd) := []
  fill   : AMap Clock := []
  /-- Stretches of unspecified values (R2), and who wrote what last (R39). -/
  loose  : List (Nat × Nat) := []
  wrote  : List (Nat × Nat × Nat) := []
  deriving DecidableEq, Repr

/-- A saved core: what R113's core block and slot records hold. -/
structure SavedCore where
  core    : Nat
  state   : CoreState
  threads : AMap ThreadState
  /-- The scratchpad (R113 offset 0x0_0000) with its full words and poison. -/
  pad     : Region
  deriving DecidableEq, Repr

/-- A crew's save area (R113), kept as the values it holds under the owner's key. (DESIGN CHOICE, log 20) -/
structure Save where
  cores    : List SavedCore
  block    : Option ClusterState
  /-- Chart memory of the cluster block. -/
  chart    : Region
  units    : Nat
  base     : Nat
  /-- What happens before the end of the save: all the crew did (R111 step 6). -/
  clock    : Clock
  deriving DecidableEq, Repr

/-- A crew (R55–R58, R107, R111). -/
structure Crew where
  record   : Nat
  index    : Nat
  owner    : BitVec 12
  prio     : BitVec 2
  gang     : Bool
  cluster  : Nat
  /-- Its cores in increasing order; core index is the position (R55). -/
  cores    : List Nat
  threads  : Nat
  spillVa  : Word
  /-- Spill area size in 64 KiB units, declared and current (R110). -/
  spillDecl : Nat
  spillCur : Nat
  /-- Entries in the spill area, oldest first. -/
  spilled  : List SpillItem
  /-- The area's write and read offsets (R108). -/
  spillWr  : Nat
  spillRd  : Nat
  /-- Where the entry of a message or spawn stands: its number ↦ bytes from 0x40 (R108). -/
  spillAt  : AMap Nat := []
  phase    : CrewPhase
  issued   : Bool
  /-- Pending crew events 0x0A and 0x0B with their first `tval` (R107). -/
  event0A  : Option Word
  event0B  : Option Word
  save     : Option Save
  deriving DecidableEq, Repr

/-- A reservation (R72). -/
structure Reservation where
  record   : Nat
  clusters : List Nat
  deriving DecidableEq, Repr

/-- A stopped voyage's save area (R168). (DESIGN CHOICE, log 20) -/
structure VoyageSave where
  cluster : Nat
  voyage  : Voyage
  counter : BitVec 48
  /-- Bays of the 96 stations and chart memory. -/
  bays    : List Region
  chart   : Region
  /-- Its first unit in the pool (R112). -/
  base    : Nat
  deriving DecidableEq, Repr

/-- A frozen image (R116): a stream section frozen for pre-emption. (DESIGN CHOICE, log 20) -/
structure Frozen where
  cluster : Nat
  image   : Image
  /-- The contents of the rectangle's memory cells, in order. -/
  cells   : List Region
  /-- Its first unit in the pool (R112). -/
  base    : Nat
  deriving DecidableEq, Repr

/-- A page move in progress (R84). -/
structure PageMove where
  owner : BitVec 12
  page  : Nat
  toDdr : Bool
  frame : Nat
  deriving DecidableEq, Repr

/-- A pre-emption that has been started for a record's unit (R74, R111). -/
structure Preempting where
  record : Nat
  crews  : List Nat
  /-- The clusters that the unit takes, one for each crew of it. -/
  places : List Nat := []
  deriving DecidableEq, Repr

/-! ### Agents outside the dies (spec/08 R216) -/

/-- A bridge core, a PCIe agent or an agent of another module: its clock, the release ends its reads took values from, and the
release end that its later writes belong to (R30, R218). -/
structure OutsideAgent where
  clock : Clock := []
  seen  : List RelEnd := []
  rel   : List RelEnd := []
  deriving DecidableEq, Repr

/-- What happens outside the module's dies. (DESIGN CHOICE, log 6) -/
inductive Outside where
  /-- An agent makes a step of the opcode table. -/
  | row (who : Nat) (i : Instr)
  /-- A bridge core loads 8 bytes of a device register, of the logbook, or of other bridge-private memory (R25). -/
  | load (core : BitVec 6) (addr : BitVec 48)
  /-- An agent executes a fence that orders what it has read and what it writes next (R30). -/
  | fence (who : Nat)
  /-- A bridge core acquires, through memory of the bridge complex, what another released. -/
  | handOver (fromCore toCore : BitVec 6)
  /-- Running firmware asks for a higher fused minimum version (R51). -/
  | raiseMinVersion (v : BitVec 32)
  deriving DecidableEq, Repr

/-! ### The machine -/

/-- Why a step ends in a fault. No rule of the spec gives the module a step that has no effect at all, so the one
reason below guards the model's own bookkeeping. -/
inductive Fault where
  /-- Raised by no meaning of the table; kept for a step that finds the model's own data inconsistent. Safe: the
  machine stops. -/
  | inconsistent
  deriving DecidableEq, Repr

/-- Why a step is refused. -/
inductive Refusal where
  /-- Raised by the arm of an instruction whose meaning has not been written. Safe. -/
  | notModelled (mnemonic : String)
  deriving DecidableEq, Repr

/-- The whole module (INVENTORY.md, State). Keys: a queue 0–255; a cluster die × 32 + cluster; a core
cluster × 128 + core; a thread its tag of R130; a record its sequence number; an owner its id. -/
structure State where
  /-- Power, reset, straps, clocks, links, security controller (spec/01, spec/02). -/
  board     : ModuleState
  queues    : AMap QueueState
  helm      : HelmState
  req       : ReqState
  own       : OwnersState
  records   : AMap RecordState
  dies      : AMap DieState
  inv       : InvState
  clusters  : AMap ClusterState
  cores     : AMap CoreState
  threads   : AMap ThreadState
  crews     : AMap Crew
  nextCrew  : Nat
  reserves  : List Reservation
  preempting : List Preempting
  vsaves    : List VoyageSave
  frozen    : List Frozen
  moves     : List PageMove
  /-- Accesses in the running epoch: owner, page × 64 + home slice, count (R83). -/
  counts    : List (BitVec 12 × Nat × Nat)
  messages  : List Message
  spawns    : List Spawn
  /-- What every home holds (R224), in the canonical form of `Memory.wf`. -/
  mem       : List Host.Cell
  /-- 64-byte lines of global memory: line key ↦ key number and virtual line address they are enciphered under (R46). -/
  lines     : AMap (Nat × Nat)
  /-- Stretches of bridge-private memory that hold save areas enciphered under an owner's key (R112): first byte and length. -/
  ciphered  : List (Nat × Nat)
  /-- Stretches of locations whose contents are unspecified until they are written: each read finds its own value (R2). The
  model's own field. (DEDUCED, log 89) -/
  loose     : List (Nat × Nat)
  /-- The agent whose write a location's home holds, by stretches: agent, first location, length (R39). The
  model's own field. (DEDUCED, log 39) -/
  wrote     : List (Nat × Nat × Nat)
  /-- The record whose work an agent is (R39). The model's own field. -/
  work      : List (Nat × Nat)
  /-- Full words of the scratchpads, by location key (R129). -/
  full      : List Nat
  /-- Poisoned bytes (R117), by location key. -/
  poison    : List Nat
  /-- The write sets of bytes that are not home-located (R220). -/
  writes    : List WriteRec
  posted    : List PostedStore
  /-- Release ends whose release sequence includes the latest home write of a byte (R218). -/
  homeRel   : AMap (List RelEnd)
  /-- Clock of the fill or set whose value a full word holds, by location key (R217). -/
  fillClk   : AMap Clock
  /-- The clock of the last `fence.full` of each scope place, for the fence order (R219). -/
  fullFences : List RelEnd
  nextWrite : Nat
  nextAgent : Nat
  nextMsg   : Nat
  /-- The thread that issues now. The model's own field. -/
  cur       : Nat
  /-- The agent outside the dies that acts now: a bridge core 0–63, or a PCIe agent or an agent of another module from 64 on. The
  model's own field. -/
  outer     : Nat
  /-- What such agents have acquired and released (R30, R216, R218). -/
  outside   : AMap OutsideAgent
  /-- Value the bridge, PCIe or Meridian agent's last read returned. The model's own field. -/
  readData  : Word
  /-- The bytes that a PCIe agent's last read returned (R22). The model's own field. -/
  readBytes : List Byte
  /-- That agent's last access completed without a fault, an Unsupported Request or all ones (R22, R26, R47). The
  model's own field. -/
  accessOk  : Bool
  /-- The core that takes the next step, where that is fixed beforehand; none: any agent that can act may (log 4). The
  model's own field. -/
  turn      : Option Nat
  /-- Free values taken so far. The model's own field. -/
  fresh     : Nat
  /-- What the board, the host and other modules will still do, in order. The model's own field. -/
  inputs    : List Outside
  deriving DecidableEq, Repr

/-- The machine before power-up: RESET_N asserted, nothing listed (R17, R18). (DESIGN CHOICE, log 1) -/
def State.reset : State where
  board     := {}
  queues    := []
  helm      := {}
  req       := {}
  own       := {}
  records   := []
  dies      := []
  inv       := {}
  clusters  := []
  cores     := []
  threads   := []
  crews     := []
  nextCrew  := 0
  reserves  := []
  preempting := []
  vsaves    := []
  frozen    := []
  moves     := []
  counts    := []
  messages  := []
  spawns    := []
  mem       := []
  lines     := []
  ciphered  := []
  loose     := []
  wrote     := []
  work      := []
  full      := []
  poison    := []
  writes    := []
  posted    := []
  homeRel   := []
  fillClk   := []
  fullFences := []
  nextWrite := 1
  nextAgent := 1
  nextMsg   := 1
  cur       := 0
  outer     := 0
  outside   := []
  readData  := 0
  readBytes := []
  accessOk  := true
  turn      := none
  fresh     := 0
  inputs    := []

end Sys2Proof.Machine
end

