-- ==== Sys2Proof/Machine/Memory.lean ====
section
/-! DEFINITION. Memory and the frontier model (spec/08): location keys, the homes' contents, write sets,
happens-before clocks, scopes, what a load may return, and how a write reaches its home. -/

namespace Sys2Proof.Machine

/-! ### Location keys
HBM4 bytes stand at their module form (R90), DDR-5 bytes from 2^40, scratchpad bytes from 2^43 by core and offset,
memory-cell bytes from 2^44 by cluster, server, cell and offset, chart memory from 2^45 by cluster and offset. -/

def ddrKey (a : Nat) : Nat := 2 ^ 40 + a
def padKey (core off : Nat) : Nat := 2 ^ 43 + core * 2 ^ 18 + off
def cellKey (cluster server cell off : Nat) : Nat := 2 ^ 44 + ((cluster * 16 + server) * 64 + cell) * 8192 + off
def chartKey (cluster off : Nat) : Nat := 2 ^ 45 + cluster * 2 ^ 16 + off

/-- The one place that requests for a location go to, which performs those of one source in the order sent (R120, R133, R142): a line's
home, a core's scratchpad, a function server, or a cluster's ring controller and control block. -/
def destination (k : Nat) : Nat :=
  if k < 2 ^ 43 then k / 64
  else if k < 2 ^ 44 then 2 ^ 43 + (k - 2 ^ 43) / 2 ^ 18
  else if k < 2 ^ 45 then 2 ^ 44 + (k - 2 ^ 44) / (64 * 8192)
  else if k < 2 ^ 48 then 2 ^ 45 + (k - 2 ^ 45) / 2 ^ 16
  else 2 ^ 45 + (k - 2 ^ 48) / 2 ^ 18

/-- The cluster-window address of a scratchpad location (R209). -/
def padAddress (k : Nat) : Word :=
  BitVec.ofNat 64 (0xC0 * 2 ^ 56 + (k - 2 ^ 43) / 2 ^ 18 % 128 * 2 ^ 18 + k % 2 ^ 18)

/-- A key of global memory (HBM4 or DDR-5). -/
def globalKey (k : Nat) : Bool := k < 2 ^ 43

/-! ### The homes' contents -/

/-- One byte; an unlisted byte reads 0 (R18 for SRAM, log 2 for DRAM). (DESIGN CHOICE, log 2) -/
def memGet : List Host.Cell → Nat → Byte
  | [], _ => 0
  | (k, v) :: rest, a => if k = a then v else memGet rest a

/-- Writes one byte and keeps the canonical form. (DESIGN CHOICE, log 2) -/
def memSet : List Host.Cell → Nat → Byte → List Host.Cell
  | [], a, b => if b = 0 then [] else [(a, b)]
  | (k, v) :: rest, a, b =>
    if a < k then (if b = 0 then (k, v) :: rest else (a, b) :: (k, v) :: rest)
    else if a = k then (if b = 0 then rest else (a, b) :: rest)
    else (k, v) :: memSet rest a b

/-- `n` bytes from `a` upward. -/
def memGetN (m : List Host.Cell) : Nat → Nat → List Byte
  | 0, _ => []
  | n + 1, a => memGet m a :: memGetN m n (a + 1)

/-- Writes bytes from `a` upward. -/
def memSetN (m : List Host.Cell) (a : Nat) : List Byte → List Host.Cell
  | [] => m
  | b :: rest => memSetN (memSet m a b) (a + 1) rest

/-- A location lies in one of the stretches. -/
def inStretch (l : List (Nat × Nat)) (x : Nat) : Bool := l.any fun r => r.1 ≤ x && x < r.1 + r.2

/-- One byte as its home holds it: in a stretch of unspecified contents each read finds its own value (R2). (DEDUCED, log 89) -/
def State.byteAt (s : State) (x : Nat) : Byte :=
  if inStretch s.loose x then Config.freeByte (s.fresh * 2 ^ 50 + x) else memGet s.mem x

/-- `n` bytes at the home from `a` upward. -/
def State.bytesAt (s : State) : Nat → Nat → List Byte
  | 0, _ => []
  | n + 1, a => s.byteAt a :: s.bytesAt n (a + 1)

/-- Stretches without `[a, a + n)`. -/
def cutRange (l : List (Nat × Nat)) (a n : Nat) : List (Nat × Nat) :=
  l.flatMap fun r =>
    if a < r.1 + r.2 ∧ r.1 < a + n then [(r.1, a - r.1), (a + n, r.1 + r.2 - (a + n))].filter fun x => x.2 != 0 else [r]

/-- As `cutRange`, of stretches with their writers. -/
def cutWrote (l : List (Nat × Nat × Nat)) (a n : Nat) : List (Nat × Nat × Nat) :=
  l.flatMap fun r => (cutRange [r.2] a n).map fun x => (r.1, x)

/-- The parts of stretches that lie in `[a, a + n)`. -/
def meetRange (l : List (Nat × Nat)) (a n : Nat) : List (Nat × Nat) :=
  (l.map fun r => (max r.1 a, min (r.1 + r.2) (a + n) - max r.1 a)).filter fun x => x.2 != 0

/-- As `meetRange`, of stretches with their writers. -/
def meetWrote (l : List (Nat × Nat × Nat)) (a n : Nat) : List (Nat × Nat × Nat) :=
  l.flatMap fun r => (meetRange [r.2] a n).map fun x => (r.1, x)

/-- Removes every byte of `[lo, hi)`: it reads 0 again. -/
def memClear (m : List Host.Cell) (lo hi : Nat) : List Host.Cell :=
  m.filter fun c => !(lo ≤ c.1 && c.1 < hi)

/-- The listed bytes of `[lo, hi)`. -/
def memSlice (m : List Host.Cell) (lo hi : Nat) : List Host.Cell :=
  m.filter fun c => lo ≤ c.1 && c.1 < hi

/-- Writes back a list of cells. -/
def memPut (m : List Host.Cell) (cs : List Host.Cell) : List Host.Cell :=
  cs.foldl (fun m c => memSet m c.1 c.2) m

/-! ### Stretches of on-chip memory that are saved, moved and restored (R111, R114, R116, R168, R202) -/

/-- What stands in `[lo, lo + n)`. -/
def takeRegion (s : State) (lo n : Nat) : Region :=
  let inside := fun (x : Nat) => lo ≤ x && x < lo + n
  { cells := (memSlice s.mem lo (lo + n)).map fun c => (c.1 - lo, c.2)
    poison := (s.poison.filter inside).map fun x => x - lo
    full := (s.full.filter inside).map fun x => x - lo
    rel := (s.homeRel.filter fun e => inside e.1).map fun e => (e.1 - lo, e.2)
    fill := (s.fillClk.filter fun e => inside e.1).map fun e => (e.1 - lo, e.2)
    loose := (meetRange s.loose lo n).map fun r => (r.1 - lo, r.2)
    wrote := (meetWrote s.wrote lo n).map fun r => (r.1, r.2.1 - lo, r.2.2) }

/-- `[lo, lo + n)` holds what a region holds, and nothing else. -/
def putRegion (s : State) (lo n : Nat) (r : Region) : State :=
  let outside := fun (x : Nat) => !(lo ≤ x && x < lo + n)
  { s with
    mem := memPut (memClear s.mem lo (lo + n)) (r.cells.map fun c => (c.1 + lo, c.2))
    poison := s.poison.filter outside ++ r.poison.map fun x => x + lo
    full := s.full.filter outside ++ r.full.map fun x => x + lo
    homeRel := (s.homeRel.filter fun e => outside e.1) ++ r.rel.map fun e => (e.1 + lo, e.2)
    fillClk := (s.fillClk.filter fun e => outside e.1) ++ r.fill.map fun e => (e.1 + lo, e.2)
    loose := cutRange s.loose lo n ++ r.loose.map fun x => (x.1 + lo, x.2)
    wrote := cutWrote s.wrote lo n ++ r.wrote.map fun x => (x.1, x.2.1 + lo, x.2.2) }

/-! ### Clocks and scopes -/

/-- The join of two clocks (R217): what happens before either. (DEDUCED, log 17) -/
def Clock.join (a b : Clock) : Clock :=
  b.foldl (fun c e => if AMap.getD c e.1 0 < e.2 then AMap.set c e.1 e.2 else c) a

/-- The cluster of a place, if it has one. -/
def Place.cluster? : Place → Option Nat
  | .core k => some (k / 128)
  | .cluster c => some c
  | _ => none

/-- Whether a scope seen from `a` covers `b` (R216). -/
def Scope.covers (sc : Scope) (a b : Place) : Bool :=
  match sc with
  | .core => match a, b with
    | .core x, .core y => x == y
    | _, _ => false
  | .cluster => a.cluster?.isSome && a.cluster? == b.cluster?
  | .device => b != .outside
  | .system => true

/-- Whether a release end and an acquire end at `b` of scope `sc` form an edge (R216). -/
def RelEnd.reaches (r : RelEnd) (b : Place) (sc : Scope) : Bool :=
  r.scope.covers r.place b && sc.covers b r.place

/-- The clock after acquiring: the release ends that reach are joined (R218). -/
def acquireFrom (c : Clock) (rs : List RelEnd) (b : Place) (sc : Scope) : Clock :=
  rs.foldl (fun c r => if r.reaches b sc then Clock.join c r.clock else c) c

/-! ### Write sets and frontiers (R220–R223) -/

/-- The write covers byte `x`. -/
def WriteRec.coversByte (w : WriteRec) (x : Nat) : Bool := w.addr ≤ x && x < w.addr + w.bytes.length

/-- The release ends that a read of byte `x` of the write takes its value from (R218). -/
def WriteRec.endsAt (w : WriteRec) (x : Nat) : List RelEnd := (AMap.find w.byteRel x).getD w.rel

/-- Two stretches of locations share a byte. -/
def overlap (a n b m : Nat) : Bool := decide (a < b + m ∧ b < a + n)

def WriteRec.byteAt (w : WriteRec) (x : Nat) : Byte := w.bytes.getD (x - w.addr) 0

/-- `w` happens before a point whose clock is `c`. -/
def WriteRec.before (w : WriteRec) (c : Clock) : Bool := w.initial || w.stamp ≤ AMap.getD c w.agent 0

/-- `w` happens before the write `v`, which was made later. -/
def WriteRec.beforeWrite (w v : WriteRec) : Bool :=
  if v.initial then false else w.initial || (decide (w.num < v.num) && w.stamp ≤ AMap.getD v.clock w.agent 0)

/-- Both writes come from threads of core `k`, and `w` issued first (R222, R128). -/
def WriteRec.sameCoreFirst (k : Option Nat) (w v : WriteRec) : Bool :=
  k.isSome && w.core == k && v.core == k && w.issued < v.issued

/-- The frontier of byte `x` for a load with clock `c` by a thread of core `k` (none for an agent that is no thread), which
issued with the number `at_`: the writes that no write before the load hides, without those that the core issued after it (R222).
(DEDUCED, log 14) -/
def frontier (ws : List WriteRec) (c : Clock) (k : Option Nat) (at_ x : Nat) : List WriteRec :=
  let rs := ws.filter fun w => w.coversByte x && !(k.isSome && w.core == k && at_ ≤ w.issued)
  let prior := rs.filter fun w => w.before c || (k.isSome && w.core == k)
  rs.filter fun w => !(prior.any fun v => w.beforeWrite v || WriteRec.sameCoreFirst k w v)

/-- The write matches a load of `n` bytes at `a` (R223). -/
def WriteRec.matching (w : WriteRec) (a n : Nat) : Bool := w.initial || (w.addr == a && w.bytes.length == n)

/-- An element of a list chosen by number; the list's only element needs no choice. -/
def pick {α : Type} (l : List α) (i : Nat) : Option α :=
  match l with
  | [] => none
  | [x] => some x
  | _ => l[i % l.length]?

/-- What one byte of a load may come from, when the load's one matching write is `m` (none: no matching write;
the initial writes count as one). -/
def byteOptions (fr : List WriteRec) (m : Option WriteRec) (a n : Nat) : List WriteRec :=
  fr.filter fun w =>
    !w.matching a n || (match m with
      | none => false
      | some v => (w.initial && v.initial) || w.num == v.num)

/-- The device's choice number `i` for a load at `a` (R221). (DEDUCED, log 14) -/
def frontierChoice (s : State) (a i : Nat) : Nat := Config.choice (2 * ((s.fresh * 2 ^ 50 + a) * 16 + i) + 1)

/-- The byte a read finds of a write: an unspecified one is each read's own (R2). -/
def WriteRec.valueAt (s : State) (w : WriteRec) (x : Nat) : Byte :=
  if w.loose.contains x then Config.freeByte (s.fresh * 2 ^ 50 + x) else w.byteAt x

/-- The value of an 8-byte or smaller load: its bytes and the writes they come from (R221, R223). A byte whose write set
is empty reads the home. (DEDUCED, log 14) -/
def loadFrontier (s : State) (c : Clock) (k : Option Nat) (at_ a n : Nat) : List (Byte × Option WriteRec) :=
  let xs := rangeFrom n a
  let frs := xs.map fun x => (x, frontier s.writes c k at_ x)
  let all := (frs.map (·.2)).flatten
  let ms := none :: (all.filter fun w => w.matching a n).map some
  let good := ms.filter fun m => frs.all fun p => p.2.isEmpty || !(byteOptions p.2 m a n).isEmpty
  let m := (pick good (frontierChoice s a 0)).getD none
  frs.map fun p =>
    match pick (byteOptions p.2 m a n) (frontierChoice s a (1 + (p.1 - a))) with
    | some w => (w.valueAt s p.1, some w)
    | none => (s.byteAt p.1, none)

/-- The release ends behind a byte that `loadFrontier` gave (R218). -/
def byteEnds (s : State) (x : Nat) (b : Byte × Option WriteRec) : List RelEnd :=
  match b.2 with
  | some w => w.endsAt x
  | none => AMap.getD s.homeRel x []

/-- The write holds byte `x` dirty in the cache of cluster `c`, itself or beneath a later one (R140). -/
def WriteRec.dirtyAt (w : WriteRec) (c x : Nat) : Bool := !w.initial && !w.arrived && w.cluster == c && w.coversByte x

/-- The write whose byte `x` stands dirty in the cache of cluster `c`, as a load of core `k` with the number `at_` finds it: not what its
core issued later (R222). -/
def topDirty (s : State) (c : Nat) (k : Option Nat) (at_ x : Nat) : Option WriteRec :=
  (s.writes.filter fun w => w.dirtyAt c x && !(k.isSome && w.core == k && at_ ≤ w.issued)).getLast?

/-- One byte of a stream page as an agent of cluster `c` reads it: a dirty byte of the cluster's cache, else the home's (R212). -/
def streamByte (s : State) (c : Nat) (k : Option Nat) (at_ x : Nat) : Byte × List RelEnd :=
  match topDirty s c k at_ x with
  | some w => (w.valueAt s x, w.endsAt x)
  | none => (s.byteAt x, AMap.getD s.homeRel x [])

/-- The release ends that a read of `[a, a + n)` at the home takes its bytes from (R218). -/
def homeEnds (s : State) (a n : Nat) : List RelEnd :=
  ((rangeFrom n a).map fun x => AMap.getD s.homeRel x []).flatten

/-! ### Writes -/

/-- The bytes of `[a, a + n)` that no write record covers. -/
def uncovered (ws : List WriteRec) (a n : Nat) : List Nat :=
  (rangeFrom n a).filter fun x => !(ws.any fun w => w.coversByte x)

/-- The initial writes of bytes that get their first record (R220). -/
def initialWrites (s : State) (a n : Nat) : List WriteRec :=
  (uncovered s.writes a n).map fun x =>
    { num := 0, addr := x, bytes := [memGet s.mem x], initial := true, agent := 0, core := none, cluster := 0,
      stamp := 0, clock := [], flagAt := none, arrived := true, issued := 0, rel := [], loose := if inStretch s.loose x then [x] else [] }

/-- Sets the release ends of the latest home write of each byte. -/
def setHomeRel (m : AMap (List RelEnd)) (a n : Nat) (rel : List RelEnd) : AMap (List RelEnd) :=
  (rangeFrom n a).foldl (fun m x => if rel.isEmpty then AMap.erase m x else AMap.set m x rel) m

/-- The bytes that one mark covers: a line of global memory, or a word of on-chip memory (R117). -/
def poisonExtent (k : Nat) : List Nat := if globalKey k then rangeFrom 64 (k / 64 * 64) else rangeFrom 8 (k / 8 * 8)

/-- Two places stand under one mark's cover. -/
def sameExtent (a b : Nat) : Bool := if globalKey a then a / 64 == b / 64 else a / 8 == b / 8

/-- The locations hold unspecified values from now on (R2). -/
def spoil (s : State) (ranges : List (Nat × Nat)) : State :=
  { s with
    loose := ranges.foldl (fun l r => (r.1, r.2) :: cutRange l r.1 r.2) s.loose
    wrote := ranges.foldl (fun l r => cutWrote l r.1 r.2) s.wrote
    poison := s.poison.filter fun x => !inStretch ranges x
    homeRel := s.homeRel.filter fun e => !inStretch ranges e.1 }

/-- Marks the lines or words of `[a, a + n)`. -/
def markBad (s : State) (a n : Nat) : State :=
  let new := ((rangeFrom n a).flatMap poisonExtent).eraseDups
  { s with poison := s.poison ++ new.filter fun x => !s.poison.contains x }

/-- Some byte under a mark that covers a byte of `[a, a + n)` has not been written since (R117). -/
def poisoned (s : State) (a n : Nat) : Bool :=
  s.poison.any fun x => (a ≤ x && x < a + n) || sameExtent x a || (n != 0 && sameExtent x (a + n - 1))

/-- The bytes written no longer stand under a mark: it clears with the last of those it covers (R117). (DEDUCED, log 76) -/
def clearPoison (p : List Nat) (a n : Nat) : List Nat := p.filter fun x => !(a ≤ x && x < a + n)

/-- The home takes bytes that an agent writes: what stood there, its marks and its unspecified stretches go. Work of records is noted. -/
def putBytes (s : State) (agent a : Nat) (bs : List Byte) : State :=
  let rest := cutWrote s.wrote a bs.length
  { s with
    mem := memSetN s.mem a bs
    loose := cutRange s.loose a bs.length
    wrote := if agent = 0 ∨ 2 ^ 64 ≤ agent then rest else (agent, a, bs.length) :: rest
    poison := clearPoison s.poison a bs.length }

/-- The device's write to bridge-private memory, without a cipher (R46): the logbook, a ring, a fault buffer. -/
def deviceWrite (s : State) (a : Nat) (bs : List Byte) : State :=
  { putBytes s 0 a bs with ciphered := cutRange s.ciphered a bs.length }

/-- A fill or set's edge ends when its word is written again (R217). -/
def clearFill (m : AMap Clock) (a n : Nat) : AMap Clock := m.filter fun e => !(a < e.1 + 8 && e.1 < a + n)

/-- Who writes: agent number, place data and clock. -/
structure Writer where
  agent   : Nat
  core    : Option Nat
  cluster : Nat
  stamp   : Nat
  clock   : Clock
  /-- Header key of the tile frame the write clears the flag of (R148). -/
  flagAt  : Option Nat
  /-- The number of the instruction, where it issued before the write is made: an atomic's. -/
  issued  : Option Nat := none
  deriving DecidableEq, Repr

/-- The record of a write. -/
def mkWrite (num a : Nat) (bs : List Byte) (w : Writer) (arrived : Bool) (rel : List RelEnd) : WriteRec where
  num := num
  addr := a
  bytes := bs
  initial := false
  agent := w.agent
  core := w.core
  cluster := w.cluster
  stamp := w.stamp
  clock := w.clock
  flagAt := w.flagAt
  arrived := arrived
  issued := w.issued.getD num
  rel := rel

/-- The 16 KiB tile frame's header key of a byte in a tile-typed page, when the byte clears the flag (R148). The key's
low 14 bits are those of the address, since pages are aligned. (DEDUCED, log 60) -/
def frameHeader (k : Nat) : Option Nat := if k % 16384 < 64 then none else some (k / 16384 * 16384)

/-- Writes at `[a, a + n)` some of whose bytes have a write set. -/
def trackedAt (s : State) (a n : Nat) : Bool := s.writes.any fun v => overlap v.addr v.bytes.length a n

/-- A write performed at its home now (R224): the home's bytes change, and where a write set is kept, or `track` asks for one, the write
joins it. -/
def performWrite (s : State) (a : Nat) (bs : List Byte) (w : Writer) (rel : List RelEnd) (track : Bool) : State :=
  let n := bs.length
  { putBytes s w.agent a bs with
    writes := if track || trackedAt s a n then s.writes ++ initialWrites s a n ++ [mkWrite s.nextWrite a bs w true rel] else s.writes
    homeRel := setHomeRel s.homeRel a n rel
    fillClk := clearFill s.fillClk a n
    nextWrite := s.nextWrite + 1 }

/-- A read-modify-write at the home: the write extends the release sequences of the bytes it replaces (R218). (DEDUCED, log 60) -/
def rmwHome (s : State) (a : Nat) (bs : List Byte) (w : Writer) (track : Bool) (own : List RelEnd) : State :=
  let old := (rangeFrom bs.length a).map fun x => (x, AMap.getD s.homeRel x [])
  let s' := performWrite s a bs w [] track
  { s' with
    homeRel := old.foldl (fun m e => if (e.2 ++ own).isEmpty then AMap.erase m e.1 else AMap.set m e.1 (e.2 ++ own)) s'.homeRel
    writes := s'.writes.map fun v =>
      if v.num == s.nextWrite && !v.initial then { v with rel := own, byteRel := old.map fun e => (e.1, e.2 ++ own) } else v }

/-- Some of the write's bytes go home from it: no later write of the cluster stands above them. -/
def WriteRec.goesHome (w : WriteRec) (x : Nat) : Bool := w.coversByte x && !w.passed.contains x

/-- A write of the cluster above this one has gone home: those bytes do not go home from here any more. -/
def WriteRec.buried (v w : WriteRec) : WriteRec :=
  if !v.initial && !v.arrived && v.cluster == w.cluster && v.num < w.num && overlap v.addr v.bytes.length w.addr w.bytes.length then
    let passed := v.passed ++ (rangeFrom v.bytes.length v.addr).filter fun x => w.goesHome x && !v.passed.contains x
    { v with passed := passed, arrived := passed.length == v.bytes.length }
  else v

/-- The home takes what a dirty write still holds (R141, R213, R224), but for the clear of a tile frame's flag. -/
def bringHome (s : State) (w : WriteRec) : State :=
  let xs := (rangeFrom w.bytes.length w.addr).filter w.goesHome
  let s' := if w.passed.isEmpty then putBytes s w.agent w.addr w.bytes else xs.foldl (fun s x => putBytes s w.agent x [w.byteAt x]) s
  let s' := if w.loose.isEmpty then s' else spoil s' ((xs.filter w.loose.contains).map fun x => (x, 1))
  let s' := if w.bad && !xs.isEmpty then markBad s' w.addr w.bytes.length else s'
  { s' with
    homeRel := xs.foldl (fun m x => setHomeRel m x 1 w.rel) s.homeRel
    writes := s.writes.map fun v => if v.num == w.num && !v.initial then { v with arrived := true } else v.buried w }

/-- The dirty writes of the writer's cluster to the header of a tile frame that happen before the store reach home before the clear that the
store makes: home order extends happens-before (R148, R166, R224). -/
def headerFirst (s : State) (w : WriteRec) (h : Nat) : State :=
  (s.writes.filter fun v => !v.initial && !v.arrived && v.cluster == w.cluster && overlap v.addr v.bytes.length h 8 && v.beforeWrite w).foldl bringHome s

/-- A store `w` clears bit 39 of the frame's header word: an atomic AND at the header's home, in that word's home order (R148). In a page of
reconcile or stream class the clear joins the header's write set, with its initial writes. (DEDUCED, log 60) -/
def clearTileFlag (s : State) (w : WriteRec) (track : Bool) : State :=
  match w.flagAt with
  | none => s
  | some h =>
    let s := headerFirst s w h
    let b := s.bytesAt 8 h
    rmwHome s h (b.take 4 ++ [b.getD 4 0 &&& 0x7F] ++ b.drop 5)
      { agent := w.agent, core := w.core, cluster := w.cluster, stamp := w.stamp, clock := w.clock, flagAt := none, issued := some w.issued } track []

/-- A write performed at its home now (R224), and the clear of its tile frame's flag (R148). -/
def homeWrite (s : State) (a : Nat) (bs : List Byte) (w : Writer) (rel : List RelEnd) : State :=
  clearTileFlag (performWrite s a bs w rel false) (mkWrite s.nextWrite a bs w true rel) false

/-- As `homeWrite`, in a reconcile or stream page, where every write joins its write set. -/
def trackedHomeWrite (s : State) (a : Nat) (bs : List Byte) (w : Writer) (rel : List RelEnd) : State :=
  clearTileFlag (performWrite s a bs w rel true) (mkWrite s.nextWrite a bs w true rel) true

/-- A read-modify-write at the home, with the clear of its tile frame's flag. -/
def rmwWrite (s : State) (a : Nat) (bs : List Byte) (w : Writer) (track : Bool) (own : List RelEnd) : State :=
  clearTileFlag (rmwHome s a bs w track own) (mkWrite s.nextWrite a bs w true own) track

/-- A plain write performed in a cluster cache (R140, R212): it is in the write set and not yet at its home; `bad` marks uncorrectable bytes
(R118). (DESIGN CHOICE, log 15) -/
def cacheWrite (s : State) (a : Nat) (bs : List Byte) (w : Writer) (rel : List RelEnd) (bad : Bool := false) : State :=
  { s with
    writes := s.writes ++ initialWrites s a bs.length ++ [{ mkWrite s.nextWrite a bs w false rel with bad := bad }]
    nextWrite := s.nextWrite + 1 }

/-- A dirty write reaches its home (R141, R213, R224): what stood beneath it in the cache goes home no more. (DESIGN CHOICE, log 15) -/
def arriveWrite (s : State) (num : Nat) : State :=
  match s.writes.find? fun w => w.num == num && !w.initial && !w.arrived with
  | none => s
  | some w => clearTileFlag (bringHome s w) w true

/-- Some write of the cluster numbered below `upto` is still dirty in its cache (R141). -/
def dirtyBelow (s : State) (cluster upto : Nat) : Bool :=
  s.writes.any fun w => !w.arrived && w.cluster == cluster && w.num < upto

/-! ### Keys of lines (R46): what a line holds is readable only under the key and address it was written with -/

/-- The line of `k` is enciphered under another key or address. -/
def lineForeign (s : State) (k keyNo vline : Nat) : Bool :=
  match AMap.find s.lines (k / 64) with
  | none => false
  | some e => e != (keyNo, vline)

/-- Free bytes (R2) of the locations from `a` upward. -/
def freeBytes (s : State) (a n : Nat) : List Byte :=
  (rangeFrom n a).map fun x => Config.freeByte (s.fresh * 2 ^ 50 + x)

/-- What some agents wrote at locations that a predicate picks, and no one since, is unspecified to later readers, at the home and in the
write sets (R2, R39, R169, R398). (DEDUCED, log 39) -/
def spoilAgents (s : State) (agents : Nat → Bool) (within : List (Nat × Nat) → List (Nat × Nat)) : State :=
  let s := spoil s (within ((s.wrote.filter fun r => agents r.1).map (·.2)))
  { s with writes := s.writes.map fun w =>
      if !w.initial && agents w.agent then
        { w with loose := (within [(w.addr, w.bytes.length)]).flatMap fun r => rangeFrom r.2 r.1 }
      else w }

/-- An agent begins to work for a record (R39). -/
def enlist (s : State) (agent record : Nat) : State := { s with work := (agent, record) :: s.work }

/-- The writes of a record's work that has been stopped are unspecified to later readers (R39). (DEDUCED, log 39) -/
def spoilWork (s : State) (record : Nat) : State :=
  spoilAgents s (fun a => s.work.any fun e => e.1 == a && e.2 == record) id

/-- Claims a line for a key and address before a write: what it held under another key is unspecified (R46, R93). -/
def claimLine (s : State) (k keyNo vline : Nat) : State :=
  if globalKey k then
    let base := k / 64 * 64
    let s := if lineForeign s k keyNo vline then
        { spoil s [(base, 64)] with
                 writes := s.writes.filter fun w => !(w.addr < base + 64 && base < w.addr + w.bytes.length) }
      else s
    { s with lines := AMap.set s.lines (k / 64) (keyNo, vline) }
  else s

end Sys2Proof.Machine
end

