-- ==== Sys2Proof/Machine/Records.lean ====
section
/-! DEFINITION. The helm's records, the logbook and event slots as operations (spec/02 R31–R42), shared by every step
that moves a record to another state. -/

namespace Sys2Proof.Machine

/-! ### Fields of a record (R31) -/

def RecordState.kind (r : RecordState) : Nat := bits r.words.w0 63 60
def RecordState.fence (r : RecordState) : Bool := bitAt r.words.w0 59
def RecordState.signal (r : RecordState) : Bool := bitAt r.words.w0 58
def RecordState.consumes (r : RecordState) : Bool := bitAt r.words.w0 57
def RecordState.depA (r : RecordState) : Nat := bits r.words.w0 51 40
def RecordState.depB (r : RecordState) : Nat := bits r.words.w0 39 28
def RecordState.softTag (r : RecordState) : Nat := bits r.words.w0 27 12
def RecordState.slot (r : RecordState) : Nat := bits r.words.w1 63 58
def RecordState.target (r : RecordState) : Nat := bits r.words.w1 31 0

/-- Completed, faulted, aborted and rejected are final (R38). -/
def RecPhase.final : RecPhase → Bool
  | .completed | .faulted | .aborted | .rejected => true
  | _ => false

/-- The state codes of R37. -/
def RecPhase.code : RecPhase → Nat
  | .accepted => 0 | .admitted => 1 | .running => 2 | .completed => 3 | .faulted => 4 | .aborted => 5 | .rejected => 6

/-! ### The logbook (R37, R40, R41) -/

/-- A logbook entry of a record. `kind` 0 transition, 1 snapshot, 2 snapshot end. -/
def logEntry (s : State) (r : RecordState) (phase : RecPhase) (reason : BitVec 8) (index : BitVec 12) (etype : Nat) :
    LogEntry where
  w0 := BitVec.ofNat 64 (r.seqNo * 2 ^ 16 + r.queue.toNat * 256 + phase.code * 16 + etype)
  w1 := BitVec.ofNat 64 (r.owner.toNat * 2 ^ 52 + index.toNat * 2 ^ 40 + r.softTag * 2 ^ 24 + reason.toNat * 2 ^ 16)
  w2 := BitVec.ofNat 64 s.board.refclk
  w3 := BitVec.ofNat 64 (r.parent * 2 ^ 16 + r.kind)
  clk := if phase.final && etype == 0 then Clock.join r.clk r.endClk else []

def LogEntry.bytes (e : LogEntry) : List Byte :=
  bytesOf 8 e.w0.toNat ++ bytesOf 8 e.w1.toNat ++ bytesOf 8 e.w2.toNat ++ bytesOf 8 e.w3.toNat

/-- The logbook holds no further entry (R41). -/
def logFull (h : HelmState) : Bool := (h.logHead - h.logTail).toNat == 2 ^ h.logSize.toNat

/-- Writes one entry into the logbook's next slot; PAUSED is set once the logbook is full (R37, R40, R41). -/
def logWrite (s : State) (e : LogEntry) : State :=
  let slot := s.helm.logHead.toNat % 2 ^ s.helm.logSize.toNat
  { deviceWrite s (s.helm.logBase.toNat * 4096 + 32 * slot) e.bytes with
    helm := { s.helm with
      logHead := s.helm.logHead + 1
      paused := logFull { s.helm with logHead := s.helm.logHead + 1 }
      logEnds := (s.helm.logEnds.filter fun x => x.1 % 2 ^ s.helm.logSize.toNat != slot)
        ++ (if e.clk.isEmpty then [] else [(s.helm.logHead.toNat, e.clk)]) } }

/-- Appends an entry, or lets it wait in order while the logbook is full (R41). -/
def logAppend (s : State) (e : LogEntry) : State :=
  if s.helm.waiting.isEmpty && !logFull s.helm then logWrite s e
  else { s with helm := { s.helm with waiting := s.helm.waiting ++ [e], paused := true } }

/-- A further state change has a place to wait (R41). -/
def logRoom (s : State) : Bool := s.helm.waiting.length < 4096

/-- Writes waiting entries while there is room (R41); `fuel` entries at most. -/
def logDrain : Nat → State → State
  | 0, s => s
  | fuel + 1, s =>
    match s.helm.waiting with
    | [] => { s with helm := { s.helm with paused := logFull s.helm } }
    | e :: rest =>
      if logFull s.helm then { s with helm := { s.helm with paused := true } }
      else logDrain fuel (logWrite { s with helm := { s.helm with waiting := rest } } e)

/-! ### Records and their states (R35, R36, R38) -/

def getOwner (s : State) (o : BitVec 12) : OwnerState := AMap.getD s.own.owners o.toNat {}

def setOwner (s : State) (o : BitVec 12) (w : OwnerState) : State :=
  { s with own := { s.own with owners := AMap.set s.own.owners o.toNat w } }

/-- A record's own queue and array siblings: those of one array, or the top-level records of one queue. -/
def sameOrder (r q : RecordState) : Bool :=
  if r.index == 0xFFF then q.index == 0xFFF && q.queue == r.queue else q.index != 0xFFF && q.parent == r.parent

/-- The record a dependence names (R31). -/
def depOf (s : State) (r : RecordState) (i : Nat) : Option RecordState :=
  if i = 0xFFF then none
  else (s.records.map (·.2)).find? fun q => q.index.toNat == i && q.index != 0xFFF && q.parent == r.parent

/-- A dependence is met: final, or for the producer of a consuming record, admitted (R35, R73). -/
def depMet (s : State) (r : RecordState) (i : Nat) (admittedIsEnough : Bool) : Bool :=
  match depOf s r i with
  | none => true
  | some q => q.phase.final || (admittedIsEnough && (q.phase == .admitted || q.phase == .running))

/-- A dependence ended in a state other than completed (R35). -/
def depFailed (s : State) (r : RecordState) (i : Nat) : Bool :=
  match depOf s r i with
  | none => false
  | some q => q.phase.final && q.phase != .completed

/-- Every earlier record of the same queue or array is final (R31 fence). -/
def fenceMet (s : State) (r : RecordState) : Bool :=
  !r.fence || (s.records.map (·.2)).all fun q => !(sameOrder r q) || r.seqNo ≤ q.seqNo || q.phase.final

/-- The enclosing GRAPH is admitted or running, or there is none (R35). -/
def graphOpen (s : State) (r : RecordState) : Bool :=
  r.index == 0xFFF || match AMap.find s.records r.parent with
    | some g => g.phase == .admitted || g.phase == .running
    | none => false

/-- The record is startable (R35). -/
def startable (s : State) (r : RecordState) : Bool :=
  r.phase == .accepted && r.ending.isNone && graphOpen s r && fenceMet s r
    && depMet s r r.depA r.consumes && depMet s r r.depB false
    && !depFailed s r r.depA && !depFailed s r r.depB

/-- Adds 1 to the record's event slot when it signals (R36). -/
def signalSlot (s : State) (r : RecordState) : State :=
  if r.signal then
    let o := getOwner s r.owner
    setOwner s r.owner { o with slots := AMap.set o.slots r.slot (AMap.getD o.slots r.slot 0 + 1) }
  else s

/-- What is kept for an ended launch's placement goes with it: its reserve and its pre-emption (R72, R74). -/
def dropPlacement (s : State) (seq : Nat) : State :=
  { s with
    reserves := s.reserves.filter fun v => v.record != seq
    preempting := s.preempting.filter fun v => v.record != seq }

/-- What a part of a record's work releases when it ends (R30). -/
def joinEnd (s : State) (seq : Nat) (c : Clock) : State :=
  match AMap.find s.records seq with
  | some r => { s with records := AMap.set s.records seq { r with endClk := Clock.join r.endClk c } }
  | none => s

/-- What a record of an array released is released by its GRAPH's final entry too, whose work it is (R30). -/
def joinGraph (s : State) (r : RecordState) : State := if r.index == 0xFFF then s else joinEnd s r.parent r.endClk

/-- Moves a record to a state and appends the entry; a final state other than rejected signals (R36, R38). What work that was stopped has
written is unspecified from then on (R39). -/
def moveRecord (s : State) (r : RecordState) (phase : RecPhase) (reason : BitVec 8) (index : BitVec 12) : State :=
  let r' := { r with phase := phase, reason := reason, ending := none, entered := r.entered || phase == .admitted }
  let s := { s with records := AMap.set s.records r.seqNo r' }
  let s := if phase.final then joinGraph (dropPlacement s r.seqNo) r else s
  let s := if phase == .aborted || r.ending.isSome then spoilWork s r.seqNo else s
  let s := logAppend s (logEntry s r phase reason index 0)
  if phase.final && phase != .rejected then signalSlot s r else s

/-- The event condition of a WAIT (R36). -/
def eventHolds (s : State) (r : RecordState) : Bool :=
  ((AMap.getD (getOwner s r.owner).slots r.slot 0) - BitVec.ofNat 32 r.target).toNat < 2 ^ 31

/-- Every record of the GRAPH's array is final. -/
def arrayDone (s : State) (g : RecordState) : Bool :=
  g.arrayBase.isSome && (s.records.map (·.2)).all fun q => !(q.index != 0xFFF && q.parent == g.seqNo) || q.phase.final

def arrayGood (s : State) (g : RecordState) : Bool :=
  (s.records.map (·.2)).all fun q => !(q.index != 0xFFF && q.parent == g.seqNo) || q.phase == .completed

/-- Some record of the GRAPH's array has been admitted. -/
def arrayStarted (s : State) (g : RecordState) : Bool :=
  (s.records.map (·.2)).any fun q => q.index != 0xFFF && q.parent == g.seqNo && q.entered

/-- Work of a record exists, a section's load or an accepted array among it: it must be stopped before an aborted entry is
written (R39). -/
def hasWork (r : RecordState) : Bool :=
  (r.kind ≤ 3 && (r.phase == .admitted || r.phase == .running || (r.kind == 3 && !r.chosen.isEmpty)))
    || (r.kind == 5 && r.arrayBase.isSome)

/-- The helm reads submit windows, walks graphs and admits work: the logbook has room and no entry waits (R41). -/
def helmRuns (s : State) : Bool := s.helm.waiting.isEmpty && !logFull s.helm

/-- One transition that the helm makes by itself for a record, if one is due (R35, R36, R38). -/
def autoStep (s : State) (r : RecordState) : Option State :=
  if r.phase.final || r.ending.isSome then none
  else if (depFailed s r r.depA || depFailed s r r.depB) && (r.phase == .accepted || r.consumes) then
    if hasWork r then some { s with records := AMap.set s.records r.seqNo { r with ending := some (.aborted, 0x32) } }
    else some (moveRecord s r .aborted 0x32 r.index)
  else if r.kind = 4 then
    if r.phase == .running then
      if eventHolds s r then some (moveRecord s r .completed 0 r.index) else none
    else if startable s r && helmRuns s then
      let s := moveRecord s r .admitted 0 r.index
      some (moveRecord s { r with phase := .admitted } .running 0 r.index)
    else none
  else if r.kind = 5 then
    if r.phase == .accepted && startable s r && helmRuns s && r.arrayBase.isSome then some (moveRecord s r .admitted 0 r.index)
    else if r.phase == .admitted && arrayStarted s r then some (moveRecord s r .running 0 r.index)
    else if (r.phase == .admitted || r.phase == .running) && arrayDone s r then
      some (if arrayGood s r then moveRecord s r .completed 0 r.index else moveRecord s r .faulted 0x23 r.index)
    else none
  else none

/-! ### State changes held back (R41) -/

/-- A record's state change is still to come: an aborted entry, a transition of the helm's that is due, or the start of its work. -/
def recordDue (s : State) (r : RecordState) : Bool :=
  !r.phase.final && (r.ending.isSome || (autoStep s r).isSome || (decide (r.kind ≤ 3) && (r.phase == .accepted || r.phase == .admitted)))

/-- A held state change can still happen: its unit exists, and the change is due. -/
def heldValid (s : State) : HeldStep → Bool
  | .start c | .retire c | .handler c => match AMap.find s.crews c with | some w => w.phase != .aborting | none => false
  | .voyage c => match AMap.find s.clusters c with | some x => x.voyage.isSome | none => false
  | .sectionEnd c f => match AMap.find s.clusters c with
    | some x => x.images.any fun i => i.2.fid == f && i.2.launch.isSome
    | none => false
  | .record q => match AMap.find s.records q with | some r => recordDue s r | none => false

/-- A state change may be made: a place is free, and of those held back it is the one that arose first (R41). -/
def mayChange (s : State) (h : HeldStep) : Bool :=
  logRoom s && (match s.helm.heldBack.filter (heldValid s) with | [] => true | x :: _ => x == h)

/-- The change waits behind those that arose before it. -/
def holdBack (s : State) (h : HeldStep) : State :=
  if s.helm.heldBack.contains h then s
  else { s with helm := { s.helm with heldBack := s.helm.heldBack.filter (heldValid s) ++ [h] } }

/-- The change is made: it waits no longer. -/
def unhold (s : State) (h : HeldStep) : State :=
  if s.helm.heldBack.isEmpty then s else { s with helm := { s.helm with heldBack := s.helm.heldBack.erase h } }

/-- A launch that is admitted and whose work begins is running (R38). -/
def recordRuns (s : State) (seq : Nat) : State :=
  match AMap.find s.records seq with
  | some r => if r.phase == .admitted then moveRecord (unhold s (.record seq)) r .running 0 r.index else s
  | none => s

/-- The launch's running entry has no place to wait (R41). -/
def runHeld (s : State) (seq : Nat) : Bool :=
  match AMap.find s.records seq with
  | some r => r.phase == .admitted && !mayChange s (.record seq)
  | none => false

/-- The first due transition that R41 lets through. -/
def firstPermitted (s : State) : List (Nat × RecordState) → Option State
  | [] => none
  | (q, r) :: rest =>
    match autoStep s r with
    | some s' => if mayChange s (.record q) then some (unhold s' (.record q)) else firstPermitted s rest
    | none => firstPermitted s rest

/-- Every due transition waits its turn. -/
def holdDue (s : State) : State :=
  s.records.foldl (fun s e => if (autoStep s e.2).isSome then holdBack s (.record e.1) else s) s

/-- The helm's own transitions, until none is due or those left are held back (R41); at most `fuel` of them. -/
def settleN : Nat → State → State
  | 0, s => s
  | fuel + 1, s =>
    match firstPermitted s s.records with
    | some s' => settleN fuel s'
    | none => if logRoom s && s.helm.heldBack.isEmpty then s else holdDue s

/-- The helm's own transitions: each record makes at most four. -/
def settle (s : State) : State := settleN (4 * s.records.length) s

/-- What the helm and the pilot have seen: their own writes, and what happens before the records that the helm has read (R30). -/
def pilotClock (s : State) : Clock := AMap.set s.helm.pilotClk 0 (s.nextWrite - 1)

/-! ### Agents outside the dies (R30, R216) -/

/-- The agent number of a bridge core, a PCIe agent or an agent of another module. -/
def outsideNumber (who : Nat) : Nat := 2 ^ 64 + who

def getOutside (s : State) (who : Nat) : OutsideAgent := AMap.getD s.outside who {}

def setOutside (s : State) (who : Nat) (v : OutsideAgent) : State := { s with outside := AMap.set s.outside who v }

/-- The clock of the outside agent that acts: what it has acquired, and its own writes so far. -/
def outsideClock (s : State) : Clock := AMap.set (getOutside s s.outer).clock (outsideNumber s.outer) (s.nextWrite - 1)

/-- What the outside agent that acts has ordered before its next writes by a fence (R30, R392). -/
def fencedClock (s : State) : Clock := (getOutside s s.outer).rel.foldl (fun c r => Clock.join c r.clock) []

/-- Moves the record numbered `seq`, if it is not final, and makes the transitions that follow from it. -/
def moveSeq (s : State) (seq : Nat) (phase : RecPhase) (reason : BitVec 8) : State :=
  match AMap.find s.records seq with
  | some r => if r.phase.final then s else settle (moveRecord s r phase reason r.index)
  | none => s

end Sys2Proof.Machine
end

