-- ==== Sys2Proof/Machine/Ops.lean ====
section
/-! DEFINITION. The named operations over threads, registers, cores and clusters; counters and barriers; stopping work;
taking a trap and returning from one (R103–R107). -/

namespace Sys2Proof.Machine

/-- What a step answers. -/
abbrev Out := Host.Outcome State Fault Refusal

/-! ### Names: tags, cores, clusters, dies (R130) -/

def tagCore (t : Nat) : Nat := t / 16
def tagSlot (t : Nat) : Nat := t % 16
def tagCluster (t : Nat) : Nat := t / 2048
def tagDie (t : Nat) : Nat := t / 65536
def coreCluster (k : Nat) : Nat := k / 128
def coreDie (k : Nat) : Nat := k / 4096
def clusterDie (c : Nat) : Nat := c / 32
def coreTag (k slot : Nat) : Nat := k * 16 + slot

/-! ### Accessors -/

def getThread (s : State) (t : Nat) : ThreadState := AMap.getD s.threads t {}
def setThread (s : State) (t : Nat) (v : ThreadState) : State := { s with threads := AMap.set s.threads t v }
def getCore (s : State) (k : Nat) : CoreState := AMap.getD s.cores k {}
def setCore (s : State) (k : Nat) (v : CoreState) : State := { s with cores := AMap.set s.cores k v }
def getCluster (s : State) (c : Nat) : ClusterState := AMap.getD s.clusters c {}
def setCluster (s : State) (c : Nat) (v : ClusterState) : State := { s with clusters := AMap.set s.clusters c v }
def getDie (s : State) (d : Nat) : DieState := AMap.getD s.dies d {}
def setDie (s : State) (d : Nat) (v : DieState) : State := { s with dies := AMap.set s.dies d v }
def getCrew (s : State) (c : Nat) : Option Crew := AMap.find s.crews c
def setCrew (s : State) (c : Nat) (v : Crew) : State := { s with crews := AMap.set s.crews c v }

/-- The owner of a thread's crew (R248 register 9). -/
def ownerOf (s : State) (t : Nat) : BitVec 12 :=
  match getCrew s (getThread s t).crew with
  | some c => c.owner
  | none => 0

/-- The number of an owner's key pair (R46). -/
def keyOf (s : State) (o : BitVec 12) : Nat := (getOwner s o).key.getD 0

/-- The issuing thread. -/
def State.th (s : State) : ThreadState := getThread s s.cur
def State.setTh (s : State) (v : ThreadState) : State := setThread s s.cur v

/-- x[i] of a thread; x0 reads zero (R247). -/
def ThreadState.readX (th : ThreadState) (r : Reg) : Word := if r = 0 then 0 else AMap.getD th.x r.toNat 0

/-- Writes x[i]; a write to x0 is discarded (R9, R272). -/
def ThreadState.writeX (th : ThreadState) (r : Reg) (v : Word) : ThreadState :=
  if r = 0 then th else { th with x := AMap.set th.x r.toNat v }

/-- x[i] of the issuing thread. -/
def State.x (s : State) (r : Reg) : Word := s.th.readX r

/-- pc := pc + 4 (R272). -/
def ThreadState.advance (th : ThreadState) : ThreadState := { th with pc := th.pc + 4 }

/-- The issuing thread goes on: pc := pc + 4, nothing else. -/
def State.skip (s : State) : State := s.setTh s.th.advance

/-- x[d] := v and pc := pc + 4 (R272). -/
def State.put (s : State) (d : Reg) (v : Word) : State := s.setTh ((s.th.writeX d v).advance)

/-- A free word (R2): nothing is known of it. -/
def State.free (s : State) (i : Nat) : Word := Config.freeWord (s.fresh * 4096 + i)

/-- A free choice among `n` (R2). -/
def State.choose (s : State) (i n : Nat) : Nat := if n ≤ 1 then 0 else Config.choice (2 * (s.fresh * 64 + i)) % n

/-- The thread's place, for scopes (R216). -/
def threadPlace (t : Nat) : Place := .core (tagCore t)

/-- The thread as a writer whose next write has the stamp after its own latest one. -/
def ThreadState.writer (th : ThreadState) (t : Nat) (flagAt : Option Nat) : Writer :=
  let n := AMap.getD th.clock th.agent 0 + 1
  { agent := th.agent, core := some (tagCore t), cluster := tagCluster t, stamp := n,
    clock := AMap.set th.clock th.agent n, flagAt := flagAt }

/-- The release ends that a plain write of the thread belongs to (R218): its earlier release fences. (DEDUCED, log 18) -/
def ThreadState.plainEnds (th : ThreadState) : List RelEnd := th.fences

/-- The thread after a write: its clock counts it. -/
def ThreadState.wrote (th : ThreadState) : ThreadState :=
  { th with clock := AMap.set th.clock th.agent (AMap.getD th.clock th.agent 0 + 1) }

/-! ### Counters (R341, R343) -/

def getCounter (s : State) (c n : Nat) : Counter := AMap.getD (getCluster s c).counters n {}

def setCounter (s : State) (c n : Nat) (v : Counter) : State :=
  let cl := getCluster s c
  setCluster s c { cl with counters := AMap.set cl.counters n v }

/-- A counter's word (R341). -/
def Counter.word (k : Counter) : Word :=
  BitVec.ofNat 64 ((if k.drain then 2 ^ 63 else 0) + k.pend.toNat * 2 ^ 48 + k.value.toNat)

def Command.op (m : Command) : Nat := bits m.hi 63 56
def Command.ctr (m : Command) : Nat := bits m.hi 55 52
def Command.rsp (m : Command) : Bool := bitAt m.hi 51
def Command.nc (m : Command) : Bool := bitAt m.hi 50

/-- The commands of queue `q` of a core. -/
def CoreState.queue (k : CoreState) (q : Nat) : List Command :=
  match q with
  | 0 => k.e0
  | 1 => k.e1
  | 2 => k.e2
  | _ => k.e3

def CoreState.setQueue (k : CoreState) (q : Nat) (v : List Command) : CoreState :=
  match q with
  | 0 => { k with e0 := v }
  | 1 => { k with e1 := v }
  | 2 => { k with e2 := v }
  | _ => { k with e3 := v }

/-- A held command naming counter `n` joins the queue (R343). -/
def unholdCommand (n : Nat) (m : Command) : Command :=
  if m.phase == .held && !m.nc && m.ctr == n then { m with phase := .queued } else m

def CoreState.unholdAll (k : CoreState) (n : Nat) : CoreState :=
  { k with e0 := k.e0.map (unholdCommand n), e1 := k.e1.map (unholdCommand n), e2 := k.e2.map (unholdCommand n), e3 := k.e3.map (unholdCommand n) }

/-- The commands of a core that name counter `n`, held or not (R341). -/
def CoreState.naming (k : CoreState) (n : Nat) : List Command :=
  (k.e0 ++ k.e1 ++ k.e2 ++ k.e3).filter fun m => !m.nc && m.ctr == n

/-- A crew of the cluster's owner that is saved there: what its commands wait for is still counted (R345). -/
def savedHere (s : State) (c : Nat) (w : Crew) : Bool := w.cluster == c && (getCluster s c).lastOwner == some w.owner

/-- The cores of a cluster, and those of its owner's crews that are saved there. -/
def counterCores (s : State) (c : Nat) : List CoreState :=
  (s.cores.filter fun e => coreCluster e.1 == c).map (·.2)
    ++ s.crews.flatMap fun e => if savedHere s c e.2 then (match e.2.save with | some v => v.cores.map (·.state) | none => []) else []

/-- The commands held for counter `n` may start (R343). -/
def unholdCores (s : State) (c n : Nat) : State :=
  { s with
    cores := s.cores.map fun e => if coreCluster e.1 == c then (e.1, e.2.unholdAll n) else e
    crews := s.crews.map fun e => if savedHere s c e.2 then
        (e.1, { e.2 with save := e.2.save.map fun v => { v with cores := v.cores.map fun k => { k with state := k.state.unholdAll n } } })
      else e }

/-- PEND reached 0 while draining: DRAIN returns to 0 and the held commands join PEND (R343). -/
def endDrain (s : State) (c n : Nat) : State :=
  let k := getCounter s c n
  let held := ((counterCores s c).map fun x => ((x.naming n).filter fun m => m.phase == .held).length).sum
  unholdCores (setCounter s c n { k with drain := false, pend := BitVec.ofNat 12 held }) c n

/-- PEND of counter `n` counts the commands that stand in the cluster's queues, running and saved, once a crew's have come or gone
(R341, R345): while it drains those that are not held, else all. (DEDUCED, log 31) -/
def recount (s : State) (c n : Nat) : State :=
  let k := getCounter s c n
  let all := (counterCores s c).flatMap fun x => x.naming n
  if k.drain then
    let counted := (all.filter fun m => m.phase != .held).length
    let s := setCounter s c n { k with pend := BitVec.ofNat 12 counted }
    if counted = 0 then endDrain s c n else s
  else unholdCores (setCounter s c n { k with pend := BitVec.ofNat 12 all.length }) c n

/-- As `recount`, of every counter. -/
def recountAll (s : State) (c : Nat) : State := (rangeFrom 16 0).foldl (fun s n => recount s c n) s

/-- The embark phase has begun, or the voyage is or was stopped (R144). -/
def Voyage.active (v : Voyage) : Bool := v.zeroed || v.wasStopped

/-- Its completion counter (R149). -/
def Voyage.ctr (v : Voyage) : Nat := bits v.desc.w0 48 45

/-- An active voyage of the cluster, running or stopped, counts on counter `n` (R164). -/
def voyageCounts (s : State) (c n : Nat) : Bool :=
  (match (getCluster s c).voyage with | some v => v.active && v.ctr == n | none => false)
    || s.vsaves.any fun v => v.cluster == c && v.voyage.ctr == n

/-- The value that a command or an `nset` gives a counter: unspecified where an active voyage counts on it (R164, R343). (DEDUCED, log 37) -/
def counterValue (s : State) (c n : Nat) (v : BitVec 48) : BitVec 48 :=
  if voyageCounts s c n then (s.free (64 + n)).setWidth 48 else v

/-- A command counted in PEND ends: PEND falls; VALUE rises by one when `count` and no drain is under way; a drain ends
when PEND reaches 0 (R341, R343). `clock` is what happens before the increment. -/
def counterDone (s : State) (c n : Nat) (count : Bool) (clock : Clock) : State :=
  let k := getCounter s c n
  let pend := k.pend - 1
  let k' := if count && !k.drain then
      { k with pend := pend, value := counterValue s c n (k.value + 1), clock := Clock.join k.clock clock }
    else { k with pend := pend }
  let s := setCounter s c n k'
  if k.drain && pend == 0 then endDrain s c n else s

/-- VALUE := v, and DRAIN := 1 if PEND > 0 (R342); the value forms no edge. -/
def counterPut (s : State) (c n : Nat) (v : BitVec 48) : State :=
  let k := getCounter s c n
  setCounter s c n { k with value := v, drain := k.drain || k.pend != 0, clock := [] }

/-- An `nset` (R342): an active voyage's counter takes an unspecified value (R343). -/
def counterSet (s : State) (c n : Nat) (v : BitVec 48) : State := counterPut s c n (counterValue s c n v)

/-- VALUE rises by one for a voyage's counting (R164). -/
def counterUp (s : State) (c n : Nat) (clock : Clock) : State :=
  let k := getCounter s c n
  setCounter s c n { k with value := k.value + 1, clock := Clock.join k.clock clock }

/-! ### Crews, launches and stopping work (R39, R106) -/

/-- The tags of a crew's live threads. -/
def crewTags (s : State) (c : Nat) : List Nat :=
  (s.threads.filter fun e => e.2.live && e.2.crew == c).map (·.1)

/-- The crew's cores are its own: it is neither saved nor stopped while it was (R55, R59). -/
def ownsCores (s : State) (e : Nat × Crew) : Bool :=
  e.2.phase != .saved && (e.2.phase != .aborting || e.2.cores.any fun k => (getCore s k).crew == some e.1)

/-- The owner that holds a cluster, if any (R59): by a crew's cores, an active voyage or a running section. -/
def holder (s : State) (c : Nat) : Option (BitVec 12) :=
  match s.crews.find? fun e => e.2.cluster == c && ownsCores s e with
  | some e => some e.2.owner
  | none =>
    let cl := getCluster s c
    match cl.voyage with
    | some v => some v.owner
    | none =>
      match (cl.images.map fun e => e.2.launch) ++ (cl.loads.map fun l => l.record) |>.find? Option.isSome with
      | some (some seq) => (AMap.find s.records seq).map (·.owner)
      | _ => none

/-- A launch's section or voyage runs on the cluster, or a crew's `vstart` voyage (R38, R170). -/
def voyageOfCrew (s : State) (crew : Nat) : Bool :=
  s.clusters.any (fun e => match e.2.voyage with | some v => v.crew == some crew | none => false)
    || s.vsaves.any fun v => v.voyage.crew == some crew

/-- The engine has read a chunk for the first of these tile instructions: it executes (R136). -/
def headStreams (l : List TileEntry) : Bool := match l with | e :: _ => !e.latched.isEmpty | [] => false

/-- Commands of stopped threads are discarded or stop; PEND falls without an increment (R39). (DEDUCED, log 32) -/
def dropQueued (s : State) (k : Nat) (tags : List Nat) : State :=
  let core := getCore s k
  let all := core.e0 ++ core.e1 ++ core.e2 ++ core.e3
  let gone := all.filter fun m => tags.contains m.tag
  let keep := fun (l : List Command) => l.filter fun m => !tags.contains m.tag
  let core := { core with e0 := keep core.e0, e1 := keep core.e1, e2 := keep core.e2, e3 := keep core.e3 }
  let core := { core with
    responses := core.responses.filter fun r => !tags.contains r.tag
    waiters := core.waiters.filter fun w => !tags.contains w.tag
    tiles := core.tiles.filter fun t => !tags.contains t.tag
    tileBusy := (core.tileBusy && (match core.tiles with | e :: _ => !tags.contains e.tag | [] => false))
      || headStreams (core.tiles.filter fun t => !tags.contains t.tag)
    rows := if core.tileBusy && (match core.tiles with | e :: _ => !tags.contains e.tag | [] => false) then core.rows else 0 }
  let s := setCore s k core
  gone.foldl (fun s m => if m.phase != .held && !m.nc then counterDone s (coreCluster k) m.ctr false [] else s) s

/-- The image is not quiescent (R201). -/
def Image.busy (i : Image) (cl : ClusterState) : Bool :=
  !i.entry.isEmpty || !i.tags.isEmpty || i.launch.isSome || cl.misses.any fun m => m.fid == i.fid

/-- An image of the old list has been evicted, or has become quiescent, in the new one (R204). -/
def quietened (old new : ClusterState) : Bool :=
  old.images.any fun e => match AMap.find new.images e.1 with
    | some i => i.fid != e.2.fid || (e.2.busy old && !i.busy new)
    | none => true

/-- The memory cells of a copy, by their numbers in the server (R172). -/
def Placed.memCells (p : Placed) (h0 : Word) : List Nat :=
  (rangeFrom (4 * bits h0 52 51) (4 * (p.page / 4))).flatMap fun row =>
    ((rangeFrom (4 * bits h0 50 48) (4 * (p.page % 4))).filter fun col => (col + row) % 2 = 1).map fun col => 8 * row + col / 2

/-- What cells hold that an image has left is unspecified (R202). -/
def leaveCells (s : State) (c : Nat) (h0 : Word) (ps : List Placed) : State :=
  spoil s (ps.flatMap fun p => (p.memCells h0).map fun n => (cellKey c p.server n 0, 8192))

/-- Images with EVPEND that are quiescent go, and their cells hold unspecified values (R201, R202). -/
def evictQuiet (s : State) (c : Nat) : State :=
  let cl := getCluster s c
  let due := fun (e : Nat × Image) => e.2.evPend && !e.2.busy cl
  (cl.images.filter due).foldl (fun s e => leaveCells s c e.2.h0 e.2.copies) (setCluster s c { cl with images := cl.images.filter fun e => !due e })

/-- Replaces what a cluster's servers hold: an image with EVPEND goes at the first moment it is quiescent (R201), and a load that the host
deferred is asked for again after an eviction or quiescence (R204). -/
def setServers (s : State) (c : Nat) (new : ClusterState) : State :=
  let s' := setCluster s c (if quietened (getCluster s c) new then { new with loads := new.loads.map fun x => { x with deferred := false } } else new)
  if new.images.any fun e => e.2.evPend then evictQuiet s' c else s'

/-- Replaces the images of a cluster. -/
def setImages (s : State) (c : Nat) (l : AMap Image) : State := setServers s c { getCluster s c with images := l }

/-- An agent that works for a thread works for the record of its crew (R39). -/
def enlistFor (s : State) (t agent : Nat) : State :=
  match getCrew s (getThread s t).crew with
  | some w => enlist s agent w.record
  | none => s

/-- Calls of stopped threads that no server has admitted are withdrawn (R39). -/
def dropCalls (s : State) (c : Nat) (tags : List Nat) : State :=
  let cl := getCluster s c
  setServers s c { cl with
    misses := cl.misses.filter fun q => !tags.contains q.tag
    images := cl.images.map fun e => (e.1, { e.2 with entry := e.2.entry.filter fun q => !tags.contains q.tag }) }

/-- Waiters of stopped threads leave every other core's waiter unit without effect (R292). -/
def dropWaiters (s : State) (tags : List Nat) : State :=
  { s with cores := s.cores.map fun e =>
      (e.1, { e.2 with waiters := e.2.waiters.filter fun w => !tags.contains w.tag }) }

/-- The requesters that a predicate picks wait on no walk, fault entry or queued miss any longer. -/
def forgetWaiters (s : State) (p : Requester → Bool) : State :=
  let keep := fun (ws : List Waiter) => ws.filter fun w => !(p w.who)
  { s with dies := s.dies.map fun d => (d.1, { d.2 with
      walks := d.2.walks.map fun w => { w with waiters := keep w.waiters }
      faults := d.2.faults.map fun w => { w with waiters := keep w.waiters }
      missQ := (d.2.missQ.map fun w => { w with waiters := keep w.waiters }).filter fun w => !w.waiters.isEmpty }) }

/-- The requesters that belong to threads, and to the commands they issued on the crew's cores. -/
def Crew.waits (w : Crew) (tags : List Nat) (r : Requester) : Bool :=
  match r with
  | .thread t | .fetch t => tags.contains t
  | .command k _ | .probe k _ => w.cores.contains k
  | _ => false

/-! ### The end of a voyage's state (R144, R154, R169, R398) -/

/-- The bay bytes of every station hold unspecified values (R144). (DEDUCED, log 34) -/
def scrambleBays (s : State) (c : Nat) : State :=
  (rangeFrom 96 0).foldl (fun s st =>
    let k := padKey (c * 128 + st) 0x28000
    spoil { s with poison := clearPoison s.poison k 0x8000 } [(k, 0x8000)]) s

/-- A voyage is over: bays and chart memory hold unspecified values, and VSTATE reads zero (R144, R154). (DEDUCED, log 34) -/
def forgetBays (s : State) (c : Nat) : State :=
  let s := scrambleBays s c
  putBytes (spoil s [(chartKey c 8, 0xFFF8)]) 0 (chartKey c 0) (bytesOf 8 0)

/-- The sighting of a task whose voyage ended without completing: unreleased tiles are released and the sighting is missed; one that
was released counts no more (R164, R398). -/
def HeldSighting.orphan (h : HeldSighting) : Option HeldSighting :=
  if h.released then none else some { h with missed := true, freed := true }

/-- No task of the cluster, running or saved, holds a sighting of its ended voyage any longer. -/
def orphanTasks (s : State) (c : Nat) : State :=
  let loose := fun (th : ThreadState) => { th with sighting := th.sighting.bind HeldSighting.orphan }
  { s with
    threads := s.threads.map fun e => if tagCluster e.1 == c then (e.1, loose e.2) else e
    crews := s.crews.map fun e => (e.1, { e.2 with save := e.2.save.map fun v => { v with
      cores := v.cores.map fun k => if coreCluster k.core == c then { k with threads := k.threads.map fun t => (t.1, loose t.2) } else k } }) }

/-- A voyage ends before its completion: what it accumulated is unspecified, its tasks count no more, and nothing of it waits for a
translation (R169, R398). -/
def voyageOver (s : State) (c : Nat) (v : Voyage) : State :=
  orphanTasks (forgetWaiters (spoilAgents s (fun a => a == v.agent) fun l => (v.entries.flatMap ChartEntry.rows).flatMap fun r => meetRange l r.1 r.2) fun r => match r with | .voyage k | .sighting k _ => k == c | _ => false) c

/-- A running voyage of the cluster stops without a save (R39, R48, R169). -/
def dropVoyage (s : State) (c : Nat) (v : Voyage) : State :=
  let s := voyageOver (setCluster s c { getCluster s c with voyage := none }) c v
  if v.active then forgetBays s c else s

/-- The voyages, running or saved, that a predicate picks stop without a save. -/
def dropVoyages (s : State) (p : Voyage → Bool) : State :=
  let live := s.clusters.filterMap fun e => match e.2.voyage with | some v => if p v then some (e.1, v) else none | none => none
  let kept := s.vsaves.filter fun v => p v.voyage
  let s := live.foldl (fun s e => dropVoyage s e.1 e.2) s
  let s := { s with vsaves := s.vsaves.filter fun v => !p v.voyage }
  kept.foldl (fun s v => forgetBays (voyageOver s v.cluster v.voyage) v.cluster) s

/-- A crew's threads stop at the boundary they stand at; what has not started is discarded, and parked threads are withdrawn
without completing their wait (R39). -/
def stopCrew (s : State) (c : Nat) : State :=
  match getCrew s c with
  | none => s
  | some w =>
    let tags := crewTags s c
    let s := { s with threads := s.threads.map fun e =>
        if e.2.live && e.2.crew == c then (e.1, { e.2 with stopped := true, deferred := [] }) else e }
    let s := if w.phase == .saved then s else forgetWaiters s (w.waits tags)
    let s := w.cores.foldl (fun s k => dropQueued s k tags) s
    let s := dropCalls (dropWaiters s tags) w.cluster tags
    let s := dropVoyages s fun v => v.crew == some c
    let s := setCrew s c { w with phase := .aborting, save := none, event0A := none, event0B := none }
    if w.phase == .saved && savedHere s w.cluster w then recountAll s w.cluster else s

/-- The requester is a record's section, or its descriptor's read. -/
def ofSection (s : State) (seq : Nat) : Requester → Bool
  | .region c fid _ => (getCluster s c).images.any fun i => i.2.fid == fid && i.2.launch == some seq
  | .launch _ q => q == seq
  | _ => false

/-- A section or voyage of the record stops without a save: nothing of it waits for a translation, its image leaves its cells, and a
section's frozen copy is discarded (R39, R101, R169, R202, R205). -/
def stopSection (s : State) (seq : Nat) : State :=
  let s := forgetWaiters (dropVoyages s fun v => v.record == some seq) (ofSection s seq)
  let s := (s.clusters.map (·.1)).foldl (fun s c =>
    let cl := getCluster s c
    let gone := cl.images.filter fun i => i.2.launch == some seq
    let s := setServers s c { cl with
      images := cl.images.filter fun i => i.2.launch != some seq
      loads := cl.loads.filter fun l => l.record != some seq }
    gone.foldl (fun s i => leaveCells s c i.2.h0 i.2.copies) s) s
  { s with frozen := s.frozen.filter fun f => f.image.launch != some seq }

/-- What the sections and voyages of a record did so far (R30). -/
def sectionClocks (s : State) (seq : Nat) : List Clock :=
  (s.clusters.flatMap fun e =>
      (e.2.images.filter fun i => i.2.launch == some seq).map (fun i => i.2.clock)
        ++ (match e.2.voyage with
          | some v => if v.record == some seq then [v.clock] else []
          | none => []))
    ++ (s.frozen.filter fun f => f.image.launch == some seq).map (fun f => f.image.clock)
    ++ (s.vsaves.filter fun v => v.voyage.record == some seq).map (fun v => v.voyage.clock)

/-- All work of a record stops without a save; its final entry follows when its accesses are done (R39). (DEDUCED, log 39) -/
def stopRecord (s : State) (seq : Nat) (phase : RecPhase) (reason : BitVec 8) : State :=
  match AMap.find s.records seq with
  | none => s
  | some r =>
    if r.phase.final then s
    else
      let s := ((s.crews.filter fun e => e.2.record == seq).map (·.1)).foldl stopCrew s
      let ends := (sectionClocks s seq).foldl Clock.join r.endClk
      let s := spoilWork (stopSection s seq) seq
      { s with
        records := AMap.set s.records seq { r with ending := some (r.ending.getD (phase, reason)), nextCrew := r.nextCrew, crewsLeft := 0, endClk := ends }
        reserves := s.reserves.filter fun v => v.record != seq
        preempting := s.preempting.filter fun v => v.record != seq }

/-! ### Traps (R103–R106) -/

/-- IH, bit 0 of `tstat` (R103). -/
def ThreadState.ih (th : ThreadState) : Bool := bitAt th.tstat 0

/-- The registers of a thread that takes a trap outside a handler (R106). -/
def ThreadState.enterTrap (th : ThreadState) (c : BitVec 8) (v epc : Word) : ThreadState :=
  { th with
    tcause := zx c
    tval := v
    tepc := epc
    tstat := th.tstat ||| 1
    pc := th.tvec
    park := .none }

/-- Every thread of a crew stops where it stands, losing nothing (R41). -/
def haltCrew (s : State) (c : Nat) : State :=
  { s with threads := s.threads.map fun e => if e.2.live && e.2.crew == c then (e.1, { e.2 with stopped := true }) else e }

/-- `AbortLaunch(0x20)` for a crew whose handler trapped (R106): while the abort has no place to wait, that crew stays stopped
without it (R41). -/
def abortLaunch (s : State) (c : Nat) : State :=
  match getCrew s c with
  | some w =>
    if mayChange s (.handler c) then stopRecord (unhold s (.handler c)) w.record .faulted 0x20 else holdBack (haltCrew s c) (.handler c)
  | none => s

/-- `TakeTrap(c, v, epc)` for thread `t` (R106): inside a handler the launch is aborted with reason 0x20. (DEDUCED, log 39) -/
def takeTrap (s : State) (t : Nat) (c : BitVec 8) (v epc : Word) : State :=
  let th := getThread s t
  if th.ih then
    match getCrew s th.crew with
    | some _ => abortLaunch s th.crew
    | none => setThread s t { th with stopped := true }
  else setThread s t (th.enterTrap c v epc)

/-- A precise trap of the issuing thread: `tepc` is the instruction (R103). -/
def State.trap (s : State) (c : BitVec 8) (v : Word) : Out := .next (takeTrap s s.cur c v s.th.pc)

/-- `tret` outside its illegal case (R319): pc := `tepc`, IH := 0. -/
def ThreadState.leaveTrap (th : ThreadState) : ThreadState :=
  { th with pc := th.tepc, tstat := th.tstat &&& ~~~(1 : Word) }

/-- The issuing thread parks; its pc stays at the instruction, which executes again or is completed by the event it
waits for (R111). -/
def State.parkOn (s : State) (p : Park) : Out := .next (s.setTh { s.th with park := p })

/-- The chosen thread forfeits its clock: nothing but the count of forfeits changes, and the instruction issues at a later turn
(R124). (DEDUCED, log 77) -/
def State.forfeit (s : State) : Out := .next (s.setTh { s.th with bubbles := s.th.bubbles + 1 })

/-- A deferred trap is added to a thread; past eight it merges into the eighth and sets DOV (R105). -/
def ThreadState.addDeferred (th : ThreadState) (d : Deferred) : ThreadState :=
  if th.deferred.length < 8 then { th with deferred := th.deferred ++ [d] } else { th with tstat := th.tstat ||| 4 }

/-- A deferred trap for the thread `t`, if its life is the one that issued the command. -/
def deferTrap (s : State) (t agent : Nat) (c : BitVec 8) (v : Word) : State :=
  let th := getThread s t
  if th.live && th.agent == agent then setThread s t (th.addDeferred { cause := c, tval := v }) else s

/-- A crew event 0x0A or 0x0B; a second of one cause merges into the first (R107). -/
def crewEvent (s : State) (c : Nat) (cause : BitVec 8) (v : Word) : State :=
  match getCrew s c with
  | none => s
  | some w =>
    if cause == 0x0A then setCrew s c { w with event0A := some (w.event0A.getD v) }
    else setCrew s c { w with event0B := some (w.event0B.getD v) }

end Sys2Proof.Machine
end

