-- ==== Sys2Proof/Machine/Operands.lean ====
section
/-! DEFINITION. Operand forms: immediates (R246), address spaces (R209), page-table entries and translation (R89–R94,
R211), and where an access of a thread goes (R279, R290, R294). -/

namespace Sys2Proof.Machine

/-! ### Immediates (R246) -/

/-- I and S immediates, and `jr`: SX(imm16, 16). -/
def immI (i : BitVec 16) : Word := sx i
/-- `andi`, `ori`, `xori`: ZX(imm16, 16). -/
def immZ (i : BitVec 16) : Word := zx i
/-- U immediates: SX(imm21, 21) × 2^16. -/
def immU (i : BitVec 21) : Word := sx i <<< 16
/-- B offsets: SX(offset, 16) × 4. -/
def offB (o : BitVec 16) : Word := sx o <<< 2
/-- J offsets: SX(offset, 26) × 4. -/
def offJ (o : BitVec 26) : Word := sx o <<< 2
/-- Y offsets: SX(off13, 13) × 8. -/
def offY (k : BitVec 13) : Word := sx k <<< 3

/-! ### Address spaces (R209) -/

/-- Where an address points before translation. -/
inductive Space where
  | global
  | pad (core : Nat) (off : Nat)
  | cell (key : Nat)
  | control (off : Nat)
  | invalid
  deriving DecidableEq, Repr

/-- The space of an access of `n` bytes at `va` by an agent of `cluster`; `own` is the core of the own-core alias (R209,
R210). A field out of range, a non-zero other bit, or an extent past the window's end is invalid. -/
def spaceOf (cluster : Nat) (own : Option Nat) (va : Word) (n : Nat) : Space :=
  match bits va 63 56 with
  | 0x00 => if bitAt va 55 then .invalid else if bits va 54 0 + n ≤ 2 ^ 55 then .global else .invalid
  | 0xC0 =>
    if bits va 55 25 = 0 ∧ bits va 24 18 < 96 ∧ bits va 17 0 + n ≤ 0x30000 then
      .pad (cluster * 128 + bits va 24 18) (bits va 17 0)
    else .invalid
  | 0xC1 =>
    if bits va 55 23 = 0 ∧ bits va 22 19 < 12 ∧ bits va 12 0 + n ≤ 8192 then
      .cell (cellKey cluster (bits va 22 19) (bits va 18 13) (bits va 12 0))
    else .invalid
  | 0xC2 =>
    match own with
    | some k => if bits va 55 18 = 0 ∧ bits va 17 0 + n ≤ 0x30000 then .pad k (bits va 17 0) else .invalid
    | none => .invalid
  | 0xC3 => if bits va 55 18 = 0 then .control (bits va 17 0) else .invalid
  | _ => .invalid

/-- A bay offset (R144). -/
def inBay (off n : Nat) : Bool := 0x28000 < off + n && off < 0x30000

/-- A voyage is active on the cluster, running or stopped (R144). -/
def voyageActive (s : State) (c : Nat) : Bool :=
  (match (getCluster s c).voyage with | some v => v.active | none => false) || s.vsaves.any fun v => v.cluster == c

/-- The cluster's ring has a voyage: an active one, or one that waits for its counter to drain (R70, R164). -/
def voyageTaken (s : State) (c : Nat) : Bool :=
  (getCluster s c).voyage.isSome || s.vsaves.any fun v => v.cluster == c

/-! ### Page-table entries (R91) and translation -/

def pteV (p : Word) : Bool := bitAt p 63
def pteLeaf (p : Word) : Bool := bitAt p 62
def pteClass (p : Word) : BitVec 2 := p.extractLsb' 60 2
def pteTier (p : Word) : Bool := bitAt p 59
def pteTT (p : Word) : Bool := bitAt p 58
def ptePin (p : Word) : Bool := bitAt p 57
def pteRd (p : Word) : Bool := bitAt p 56
def pteWr (p : Word) : Bool := bitAt p 55
def pteEx (p : Word) : Bool := bitAt p 54
def pteApt (p : Word) : Bool := bitAt p 53
def pteMer (p : Word) : Bool := bitAt p 52

/-- What an access wants of a page (R92). -/
inductive Want where
  | read | write | both | exec
  deriving DecidableEq, Repr

def Want.allowed (w : Want) (p : Word) : Bool :=
  match w with
  | .read => pteRd p
  | .write => pteWr p
  | .both => pteRd p && pteWr p
  | .exec => pteEx p

/-- The home die of an address in a page of either size (R211). -/
def homeDie (va : Word) (big : Bool) : Nat := foldXor 14 3 (if big then bits va 54 29 else bits va 54 16)

/-- The home slice of an address on its die (R211). -/
def homeSlice (va : Word) : Nat := Nat.xor (bits va 11 6) (foldXor 8 6 (bits va 54 12))

/-- The location key of an address that a leaf maps (R90, R211). -/
def leafKey (va : Word) (p : Word) (big : Bool) : Nat :=
  let phys := if big then bits p 41 29 * 2 ^ 29 + bits va 28 0 else bits p 41 16 * 2 ^ 16 + bits va 15 0
  if pteTier p then ddrKey phys else homeDie va big * 2 ^ 37 + phys % 2 ^ 37

/-- The 64 KiB page number va[54:16]. -/
def pageOf (va : Word) : Nat := bits va 54 16

def TlbEntry.hits (e : TlbEntry) (o : BitVec 12) (page : Nat) : Bool :=
  e.owner == o && (if e.big then e.vpn / 2 ^ 13 == page / 2 ^ 13 else e.vpn == page)

/-- A translation in the cluster's L1 TLB or the die's L2 TLB (R93). -/
def tlbFind (s : State) (cluster : Nat) (o : BitVec 12) (page : Nat) : Option TlbEntry :=
  match (getCluster s cluster).l1.find? fun e => e.hits o page with
  | some e => some e
  | none => (getDie s (clusterDie cluster)).l2.find? fun e => e.hits o page

/-- Adds an entry to a TLB of `cap` places; the device chooses which entry goes (R93). -/
def tlbAdd (l : List TlbEntry) (e : TlbEntry) (cap victim : Nat) : List TlbEntry :=
  if l.contains e then l
  else if l.length < cap then l ++ [e] else l.eraseIdx (victim % cap) ++ [e]

/-- A held probe entry covers the TLB entry (R333). -/
def heldEntry (s : State) (die : Nat) (e : TlbEntry) : Bool :=
  s.cores.any fun k => coreDie k.1 == die && k.2.held.any fun q => q.2.any fun p => e.hits p.1 p.2

/-- Fills the die's L2 TLB; the device replaces an entry that no probe holds (R93, R333). -/
def addL2 (s : State) (die : Nat) (e : TlbEntry) : State :=
  let d := getDie s die
  if d.l2.contains e then s
  else if d.l2.length < 32768 then setDie s die { d with l2 := d.l2 ++ [e] }
  else
    let free := d.l2.filter fun x => !heldEntry s die x
    match free[s.choose 51 free.length]? with
    | some x => setDie s die { d with l2 := d.l2.erase x ++ [e] }
    | none => s

/-- An L1 miss that hits the L2 fills the L1 (R93). -/
def fillL1 (s : State) (cluster : Nat) (o : BitVec 12) (page : Nat) : State :=
  let cl := getCluster s cluster
  match cl.l1.find? fun e => e.hits o page with
  | some _ => s
  | none =>
    match (getDie s (clusterDie cluster)).l2.find? fun e => e.hits o page with
    | some e => setCluster s cluster { cl with l1 := tlbAdd cl.l1 e 1024 (s.choose 60 1024) }
    | none => s

/-- An access to a page at a home slice is counted; the slice takes one in 16 (R83). (DEDUCED, log 21) -/
def countAccess (s : State) (o : BitVec 12) (va : Word) : State :=
  let k := pageOf va * 64 + homeSlice va
  if s.counts.any fun e => e.1 == o && e.2.1 == k then
    { s with counts := s.counts.map fun e => if e.1 == o && e.2.1 == k then (e.1, e.2.1, e.2.2 + 1) else e }
  else { s with counts := s.counts ++ [(o, k, 1)] }

/-- A global access of `cluster` for owner `o`: its key, class and flag header; or denied (R92); or not in a TLB. -/
inductive Xlate where
  | hit (key : Nat) (cls : BitVec 2) (flagAt : Option Nat)
  | denied
  | miss
  deriving DecidableEq, Repr

def xlate (s : State) (cluster : Nat) (o : BitVec 12) (va : Word) (w : Want) : Xlate :=
  match tlbFind s cluster o (pageOf va) with
  | none => .miss
  | some e =>
    if w.allowed e.pte then
      let key := leafKey va e.pte e.big
      .hit key (pteClass e.pte) (if pteTT e.pte then frameHeader key else none)
    else .denied

/-! ### Misses (R94) -/

/-- The miss joins or starts a walk, joins a fault entry, or waits in the miss queue (R94). -/
def startWalk (s : State) (die : Nat) (o : BitVec 12) (w : Waiter) : State :=
  let va := w.va
  let kind := w.kind
  let d := getDie s die
  let page := pageOf va
  let fresh : Walk := { owner := o, page := page, va := va, kind := kind, waiters := [w], starved := false }
  let serve := match w.who with | .serveCell _ _ _ => true | _ => false
  match d.faults.find? fun f => f.owner == o && f.page == page && !serve with
  | some f =>
    if f.waiters.length < 4096 then
      setDie s die { d with faults := d.faults.map fun g =>
        if g.owner == o && g.page == page then { g with waiters := g.waiters ++ [w] } else g }
    else setDie s die { d with missQ := d.missQ ++ [fresh] }
  | none =>
    match d.walks.find? fun f => f.owner == o && f.page == page with
    | some f =>
      if f.waiters.length < 4096 then
        setDie s die { d with walks := d.walks.map fun g =>
          if g.owner == o && g.page == page then { g with waiters := g.waiters ++ [w] } else g }
      else setDie s die { d with missQ := d.missQ ++ [fresh] }
    | none =>
      if d.walks.length < 512 then setDie s die { d with walks := d.walks ++ [fresh] }
      else setDie s die { d with missQ := d.missQ ++ [fresh] }

/-- Some walk, fault entry or queued miss already holds this waiter for the page. -/
def alreadyWaits (s : State) (die : Nat) (page : Nat) (r : Requester) : Bool :=
  let d := getDie s die
  let has := fun (ws : List Waiter) => ws.any fun w => w.who == r && pageOf w.va == page
  d.walks.any (fun w => w.page == page && has w.waiters) || d.faults.any (fun w => w.page == page && has w.waiters)
    || d.missQ.any fun w => w.page == page && has w.waiters

/-- A fault entry stands for the page (R94). -/
def faultEntry (s : State) (die : Nat) (o : BitVec 12) (page : Nat) : Bool :=
  (getDie s die).faults.any fun f => f.owner == o && f.page == page

/-! ### Page-table walks (R89, R92) -/

/-- An 8-byte word of physical memory, without a cipher (R89). -/
def physWord (s : State) (a : Nat) : Word := BitVec.ofNat 64 (ofBytes (s.bytesAt 8 a))

/-- Whether `[a, a + n)` lies in bridge-private memory (R90). -/
def inPrivate (s : State) (a n : Nat) : Bool :=
  let base := s.helm.privBase.toNat * 2 ^ 16
  base ≤ a && a + n ≤ base + s.helm.privSize.toNat * 2 ^ 16

/-- How a walk ends (R92): a leaf and its size, a page fault with its level, an access fault, or a poisoned entry, which is
an access fault too (R118). -/
inductive WalkEnd where
  | leaf (pte : Word) (big : Bool)
  | pageFault (level : Nat)
  | accessFault
  | poisoned (address : Nat)
  deriving DecidableEq, Repr

/-- The bytes installed in the DDR-5 tier (R20). -/
def ddrBytes (s : State) : Nat := (s.board.dimms.map fun d => d.2.2).sum * 2 ^ 30

/-- The checks of R92 on a leaf. (DEDUCED, log 51) -/
def leafGood (s : State) (va p : Word) (big : Bool) : Bool :=
  let size := if big then 2 ^ 29 else 2 ^ 16
  let base := if big then bits p 41 29 * 2 ^ 29 else bits p 41 16 * 2 ^ 16
  bits p 51 42 = 0 && bits p 15 0 = 0 && (!big || bits p 28 16 = 0) && pteClass p != 3
    && (if pteTier p then s.board.tier2On && decide (base + size ≤ ddrBytes s)
        else bits p 41 37 = 0 && !(
          let k := homeDie va big * 2 ^ 37 + base
          let lo := s.helm.privBase.toNat * 2 ^ 16
          decide (k < lo + s.helm.privSize.toNat * 2 ^ 16) && decide (lo < k + size)))

/-- The checks of R92 on a table pointer: reserved bits, and a table inside bridge-private memory. -/
def pointerGood (s : State) (p : Word) : Bool :=
  bits p 61 42 = 0 && bits p 15 0 = 0 && inPrivate s (bits p 41 16 * 2 ^ 16) 0x10000

/-- The entry of a table that a walk reads (R89); none where it is poisoned (R118). -/
def tableEntry (s : State) (frame index : Nat) : Option Word :=
  let a := frame * 2 ^ 16 + 8 * index
  if poisoned s a 8 then none else some (physWord s a)

/-- The address of a table entry. -/
def entryAddress (frame index : Nat) : Nat := frame * 2 ^ 16 + 8 * index

/-- The FRAME of an entry. -/
def pteFrame (p : Word) : Nat := bits p 41 16

/-- Level 3, from the pointer that level 2 gave. -/
def walk3 (s : State) (p2 va : Word) : WalkEnd :=
  match tableEntry s (pteFrame p2) (bits va 28 16) with
  | none => .poisoned (entryAddress (pteFrame p2) (bits va 28 16))
  | some p3 =>
    if !pteV p3 then .pageFault 3
    else if pteLeaf p3 && leafGood s va p3 false then .leaf p3 false
    else .accessFault

/-- Levels 2 and 3, from the pointer that level 1 gave; beside the end, the level-2 pointer read. -/
def walk2 (s : State) (p1 va : Word) : WalkEnd × Option Word :=
  match tableEntry s (pteFrame p1) (bits va 41 29) with
  | none => (.poisoned (entryAddress (pteFrame p1) (bits va 41 29)), none)
  | some p2 =>
    if !pteV p2 then (.pageFault 2, none)
    else if pteLeaf p2 then (if leafGood s va p2 true then .leaf p2 true else .accessFault, none)
    else if !pointerGood s p2 then (.accessFault, none)
    else (walk3 s p2 va, some p2)

/-- All three levels; beside the end, the pointers read at levels 1 and 2. -/
def walk1 (s : State) (root : BitVec 26) (va : Word) : WalkEnd × Option Word × Option Word :=
  if !inPrivate s (root.toNat * 2 ^ 16) 0x10000 then (.accessFault, none, none)
  else match tableEntry s root.toNat (bits va 54 42) with
    | none => (.poisoned (entryAddress root.toNat (bits va 54 42)), none, none)
    | some p1 =>
      if !pteV p1 then (.pageFault 1, none, none)
      else if pteLeaf p1 || !pointerGood s p1 then (.accessFault, none, none)
      else
        let r := walk2 s p1 va
        (r.1, some p1, r.2)

/-- The walk of `va` through an owner's table as it stands (R89). -/
def walk (s : State) (root : BitVec 26) (va : Word) : WalkEnd := (walk1 s root va).1

/-- A poisoned page-table entry is reported (R118). -/
def reportEntry (s : State) (a : Nat) : State :=
  { s with board := { s.board with events := s.board.events ++ [.ptePoisoned a] } }

/-- A walk that the device made for itself met a poisoned entry: it is reported (R118). -/
def reportWalk (s : State) (o : BitVec 12) (va : Word) : State :=
  match walk s (getOwner s o).root va with
  | .poisoned a => reportEntry s a
  | _ => s

/-- As `reportWalk`, for each page of `n` bytes from an address upward. -/
def reportWalks (s : State) (o : BitVec 12) (va : Word) (n : Nat) : State :=
  (rangeFrom ((bits va 15 0 + n + 65535) / 65536) 0).foldl (fun s i => reportWalk s o (va + BitVec.ofNat 64 (65536 * i))) s

/-! ### Tile interlock (R138) -/

/-- Bytes of one element of a format in the A or plain B role (R310). -/
def elemBytes (f : BitVec 3) : Nat :=
  match f.toNat with
  | 0 | 1 => 2
  | 2 | 3 | 4 => 1
  | _ => 4

/-- Bytes of one element of a drain format (R312). -/
def drainBytes (f : BitVec 3) : Nat :=
  match f.toNat with
  | 0 | 1 => 2
  | 2 | 3 | 4 => 1
  | _ => 4

/-- The 16 rows of a drain's destination. -/
def drainExtents (f : BitVec 3) (dst stride : Nat) : List (Nat × Nat) :=
  (rangeFrom 16 0).map fun i => (dst + i * stride, 16 * drainBytes f)

/-- The operands of a tile instruction: 1 for operand B, the offset and the length of each stretch read (R311, R312). An sd operand's
scales are read from its first block only, and its first q planes from every block. -/
def TileOp.operands : TileOp → List (Nat × Nat × Nat)
  | .zero _ => []
  | .mma _ fa fb a b k q p =>
    (0, a, 16 * k * elemBytes fa)
      :: (if fb = 6 then (1, b, 64) :: (rangeFrom (k / 16) 0).map fun i => (1, b + i * (64 + 64 * p) + 64, 64 * q)
          else [(1, b, 16 * k * elemBytes fb)])
  | .drain _ f dst _ bias _ acc _ _ stride =>
    (match bias with | some b => [(0, b, 64)] | none => []) ++ (if acc then (drainExtents f dst stride).map fun e => (0, e) else [])
  | .load _ src => [(0, src, 1024)]

/-- The chunks of at most 64 bytes in which a tile instruction reads its operands (R136, R137). -/
def TileOp.chunks (o : TileOp) : List (Nat × Nat × Nat) :=
  o.operands.flatMap fun e => (rangeFrom ((e.2.2 + 63) / 64) 0).map fun i => (e.1, e.2.1 + 64 * i, min 64 (e.2.2 - 64 * i))

/-- The flag word of a drain, which it reads and writes (R313). -/
def TileOp.flag : TileOp → List (Nat × Nat)
  | .drain _ _ _ _ _ _ _ _ (some f) _ => [(f, 8)]
  | _ => []

/-- Extents of the own scratchpad that a tile instruction reads: offset and length. -/
def TileOp.reads (o : TileOp) : List (Nat × Nat) := o.operands.map (·.2) ++ o.flag

/-- Extents that a tile instruction writes. -/
def TileOp.writes (o : TileOp) : List (Nat × Nat) :=
  (match o with | .drain _ f dst _ _ _ _ _ _ stride => drainExtents f dst stride | _ => []) ++ o.flag

def overlaps (l : List (Nat × Nat)) (off n : Nat) : Bool := l.any fun e => off < e.1 + e.2 && e.1 < off + n

/-- The chunks that the engine has still to read for a tile instruction. -/
def TileEntry.chunksLeft (e : TileEntry) : List (Nat × Nat × Nat) := e.op.chunks.filter fun x => (AMap.find e.latched (2 * x.2.1 + x.1)).isNone

/-- What a tile instruction has still to read: the chunks that it has not read, and its flag word (R138). -/
def readsLeft (e : TileEntry) : List (Nat × Nat) := e.chunksLeft.map (·.2) ++ e.op.flag

/-- What it has still to write: the rows that it has not written, and its flag word (R138). -/
def writesLeft (k : CoreState) (o : TileOp) : List (Nat × Nat) :=
  (match o with | .drain _ f dst _ _ _ _ _ _ stride => (drainExtents f dst stride).drop k.rows | _ => []) ++ o.flag

/-- A thread's access of its own scratchpad must wait for a queued or running tile instruction that has not yet performed an access which
overlaps it (R138). (DEDUCED, log 32) (DEDUCED, log 33) -/
def interlocked (k : CoreState) (store : Bool) (off n : Nat) : Bool :=
  let meets := fun (reads writes : List (Nat × Nat)) => overlaps writes off n || (store && overlaps reads off n)
  match k.tiles with
  | [] => false
  | e :: rest =>
    meets (readsLeft e) (if k.tileBusy then writesLeft k e.op else e.op.writes) || rest.any fun t => meets (readsLeft t) t.op.writes

/-! ### Where a thread's access goes -/

/-- The place of a checked access (R279, R294). -/
inductive Located where
  /-- A word of a scratchpad: core and offset. -/
  | pad (core off : Nat)
  /-- A memory-cell word. -/
  | cell (key : Nat)
  /-- A control-window offset. -/
  | control (off : Nat)
  /-- A global byte's key, class and flag header. -/
  | global (key : Nat) (cls : BitVec 2) (flagAt : Option Nat)
  /-- An access fault, cause 0x03. -/
  | denied
  /-- No translation yet. -/
  | missing
  deriving DecidableEq, Repr

/-- Locates an access of the issuing thread. -/
def locate (s : State) (t : Nat) (va : Word) (n : Nat) (w : Want) : Located :=
  match spaceOf (tagCluster t) (some (tagCore t)) va n with
  | .invalid => .denied
  | .pad k off =>
    if w != .read && inBay off n && voyageActive s (tagCluster t) then .denied else .pad k off
  | .cell key => .cell key
  | .control off => .control off
  | .global =>
    match xlate s (tagCluster t) (ownerOf s t) va w with
    | .hit key cls fl => .global key cls fl
    | .denied => .denied
    | .miss => .missing

/-- The issuing thread's access meets no translation: it parks on the walk (R94, R280). -/
def State.parkMiss (s : State) (va : Word) (kind : BitVec 4) : Out :=
  .next (startWalk (s.setTh { s.th with park := .fault }) (tagDie s.cur) (ownerOf s s.cur) { who := .thread s.cur, va := va, kind := kind })

/-- Control-window offsets (R121). -/
inductive Control where
  | counter (n : Nat)
  | barrier (n : Nat) (hi : Bool)
  | pending (off : Nat)
  | task (word : Nat)
  | chart (off : Nat)
  | directory (off : Nat)
  | outside
  deriving DecidableEq, Repr

def controlOf (off : Nat) : Control :=
  if off < 0x80 then .counter (off / 8)
  else if off < 0x180 then .barrier ((off - 0x80) / 16) (off % 16 ≥ 8)
  else if 0x400 ≤ off ∧ off < 0x800 then .pending (off - 0x400)
  else if 0x1000 ≤ off ∧ off < 0x2000 then .task ((off - 0x1000) / 8)
  else if 0x10000 ≤ off ∧ off < 0x20000 then .chart (off - 0x10000)
  else if 0x20000 ≤ off ∧ off < 0x28000 then .directory (off - 0x20000)
  else .outside

end Sys2Proof.Machine
end

