-- ==== Sys2Proof/Machine/LoadStore.lean ====
section
/-! DEFINITION. Loads and stores (R278–R280), the full/empty group (R129, R290–R292), atomics (R293–R295), fences (R296),
and the events that complete them: LOAD_RETURN, HOME_ARRIVAL, RELEASE_ACK, WAITER_RESEND. -/

namespace Sys2Proof.Machine

/-! ### Values of loads -/

/-- How a loaded value enters a register (R278). -/
def extend (signed : Bool) (n : Nat) (v : Nat) : Word :=
  if signed then BitVec.ofInt 64 (if v < 2 ^ (8 * n - 1) then (v : Int) else (v : Int) - 2 ^ (8 * n))
  else BitVec.ofNat 64 v

/-- The thread receives event 0x0B for poisoned data at `va` (R118). (DEDUCED, log 76) -/
def poisonEvent (s : State) (t : Nat) (va : Word) : State := crewEvent s (getThread s t).crew 0x0B va

/-- x[d] := v for thread `t`, pc := pc + 4, no longer parked; `ends` are release ends its read took values from. -/
def finishLoad (s : State) (t : Nat) (d : Reg) (v : Word) (ends : List RelEnd) : State :=
  let th := getThread s t
  setThread s t { (th.writeX d v).advance with park := .none, seen := th.seen ++ ends }

/-- A load of the own scratchpad returns in time for the next instruction (R128). -/
def loadOwn (s : State) (d : Reg) (off n : Nat) (signed : Bool) (va : Word) : State :=
  let key := padKey (tagCore s.cur) off
  if poisoned s key n then poisonEvent (finishLoad s s.cur d (extend signed n ((s.free 0).toNat % 2 ^ (8 * n))) []) s.cur va
  else finishLoad s s.cur d (extend signed n (ofBytes (s.bytesAt n key))) (homeEnds s key n)

/-- The request is an atomic: of `atm`, or of the full/empty group (R291). -/
def MemReq.atomic (r : MemReq) : Bool := r.op.isSome || r.sync.isSome

/-- The request reads at its home, or what the home holds beneath its cluster's dirty bytes (R212, R214). -/
def MemReq.homeBound (r : MemReq) : Bool := r.atHome || r.stream || r.atomic

/-- A request that the core `k` issued before the number `num`, that goes to a home and that `p` picks, has not been performed. -/
def requestBefore (s : State) (k num : Nat) (p : MemReq → Bool) : Bool :=
  s.threads.any fun e => tagCore e.1 == k && match e.2.park with
    | .memory r => decide (r.after < num) && r.homeBound && p r
    | _ => false

/-- An atomic that the core `k` issued before on bytes of `[a, a + n)` has not been performed: a later access of the core sees its
write, so that it waits (R128, R222). -/
def atomicAhead (s : State) (k a n : Nat) : Bool :=
  s.threads.any fun e => tagCore e.1 == k && match e.2.park with
    | .memory r => r.atomic && overlap r.key r.size a n
    | _ => false

/-- The dirty write stands behind an earlier load or atomic of its core that has not been performed (R222). -/
def WriteRec.heldBack (s : State) (w : WriteRec) : Bool :=
  match w.core with
  | some k => requestBefore s k w.issued fun r => overlap r.key r.size w.addr w.bytes.length
  | none => false

/-- A write of bytes of `[a, a + n)` that happens before the clock is still on its way to their home: an access there waits for it
(R214, R224). -/
def writeAhead (s : State) (clk : Clock) (a n : Nat) : Bool :=
  s.posted.any (fun p => overlap p.addr p.bytes.length a n && decide (p.stamp ≤ AMap.getD clk p.agent 0))
    || s.writes.any fun w => !w.initial && !w.arrived && overlap w.addr w.bytes.length a n && w.before clk && w.heldBack s

/-- A write to the header of a tile frame that happens before a store to its body has not been performed: the flag's clear follows it, in
home order (R148, R224). -/
def headerWaits (s : State) (clk : Clock) (flagAt : Option Nat) : Bool :=
  match flagAt with
  | some h => writeAhead s clk h 8
  | none => false

/-- The thread's access of its own scratchpad cannot be made now: a tile instruction overlaps it (R138), an earlier atomic of the core has
not been performed, or a store of another core that happens before it has not. (DEDUCED, log 16) -/
def padBlocked (s : State) (t : Nat) (store : Bool) (off n : Nat) : Bool :=
  let k := tagCore t
  interlocked (getCore s k) store off n || atomicAhead s k (padKey k off) n || writeAhead s (getThread s t).clock (padKey k off) n

/-- The key that a control-window word's stores and release ends stand under; chart memory is memory (R121). -/
def controlKey (c off : Nat) : Nat :=
  match controlOf off with
  | .chart o => chartKey c o
  | _ => 2 ^ 48 + c * 2 ^ 18 + off

/-- The issuing thread's load or atomic leaves the core with a number of its own, and the thread parks for its value (R128). -/
def sendRequest (s : State) (r : MemReq) : Out := { s with nextWrite := s.nextWrite + 1 }.parkOn (.memory r)

/-- The request of a load that leaves the core (R128). -/
def loadReq (s : State) (key : Nat) (va : Word) (n : Nat) (atHome signed : Bool) (d : Reg) (control : Option Nat) :
    MemReq where
  key := key
  va := va
  size := n
  atHome := atHome
  signed := signed
  dest := d
  op := none
  operand := 0
  expect := 0
  acquire := false
  release := false
  scope := .core
  control := control
  flagAt := none
  after := s.nextWrite

/-- A load of `n` bytes (R278): alignment, space, then the access; all but the own scratchpad park for the value. -/
def load (d a : Reg) (i : BitVec 16) (n : Nat) (signed : Bool) (s : State) : Out :=
  let ea := s.x a + immI i
  if ea.toNat % n ≠ 0 then s.trap 0x02 ea
  else match locate s s.cur ea n .read with
    | .denied => s.trap 0x03 ea
    | .missing => s.parkMiss ea 0
    | .pad k off =>
      if k = tagCore s.cur then
        if padBlocked s s.cur false off n then s.forfeit else .next (loadOwn s d off n signed ea)
      else sendRequest s (loadReq s (padKey k off) ea n true signed d none)
    | .cell key => sendRequest s (loadReq s key ea n true signed d none)
    | .control off =>
      if n ≠ 8 ∨ controlOf off = .outside then s.trap 0x03 ea
      else sendRequest s (loadReq s (controlKey (tagCluster s.cur) off) ea n true signed d (some off))
    | .global key cls _ =>
      let s := fillL1 (countAccess s (ownerOf s s.cur) ea) (tagCluster s.cur) (ownerOf s s.cur) (pageOf ea)
      sendRequest s { loadReq s key ea n (cls == 1) signed d none with stream := cls == 2 }

/-! ### Stores (R278–R280) -/

/-- A store performed at the own scratchpad. -/
def storeOwn (s : State) (off : Nat) (bs : List Byte) : State :=
  let th := s.th
  let s' := homeWrite s (padKey (tagCore s.cur) off) bs (th.writer s.cur none) th.plainEnds
  s'.setTh th.wrote.advance

/-- A store posted to a home (R128): performed when its HOME_ARRIVAL comes. (DEDUCED, log 16) -/
def storePosted (s : State) (key : Nat) (bs : List Byte) (flagAt : Option Nat) : State :=
  let th := s.th
  let w := th.writer s.cur flagAt
  let p : PostedStore :=
    { num := s.nextWrite, addr := key, bytes := bs, flagAt := flagAt, agent := w.agent, core := tagCore s.cur, stamp := w.stamp, clock := w.clock, rel := th.plainEnds }
  { s with posted := s.posted ++ [p], nextWrite := s.nextWrite + 1 }.setTh th.wrote.advance

/-- A store performed in the cluster cache (R140). -/
def storeCached (s : State) (key : Nat) (bs : List Byte) (flagAt : Option Nat) : State :=
  let th := s.th
  (cacheWrite s key bs (th.writer s.cur flagAt) th.plainEnds).setTh th.wrote.advance

/-- A task-table word as written: reserved bits keep reading zero (R3, R62). -/
def taskMask (word : Nat) (v : Word) : Word :=
  if word % 2 = 0 then v &&& 0xFFFFFFFFFFFFFFFC else v &&& 0xFFF0000000000000

def setTask (s : State) (c word : Nat) (v : Word) : State :=
  let cl := getCluster s c
  setCluster s c { cl with tasks := AMap.set cl.tasks word (taskMask word v) }

def getTask (s : State) (c word : Nat) : Word := AMap.getD (getCluster s c).tasks word 0

/-- The line of a global store is claimed for the owner's key and address (R46). -/
def claimFor (s : State) (t : Nat) (key : Nat) (va : Word) : State :=
  claimLine s key (keyOf s (ownerOf s t)) (bits va 54 6)

/-- A store of `n` bytes (R278): alignment, space, then the access. -/
def store (b a : Reg) (i : BitVec 16) (n : Nat) (s : State) : Out :=
  let ea := s.x a + immI i
  let bs := bytesOf n (s.x b).toNat
  if ea.toNat % n ≠ 0 then s.trap 0x02 ea
  else match locate s s.cur ea n .write with
    | .denied => s.trap 0x03 ea
    | .missing => s.parkMiss ea 1
    | .pad k off =>
      if k = tagCore s.cur then
        if padBlocked s s.cur true off n then s.forfeit else .next (storeOwn s off bs)
      else .next (storePosted s (padKey k off) bs none)
    | .cell key => .next (storePosted s key bs none)
    | .control off =>
      if n ≠ 8 then s.trap 0x03 ea
      else match controlOf off with
        | .task _ => .next (storePosted s (controlKey (tagCluster s.cur) off) bs none)
        | .chart o =>
          if voyageActive s (tagCluster s.cur) then .next s.skip
          else .next (storePosted s (chartKey (tagCluster s.cur) o) bs none)
        | _ => s.trap 0x03 ea
    | .global key cls fl =>
      let s := fillL1 (countAccess s (ownerOf s s.cur) ea) (tagCluster s.cur) (ownerOf s s.cur) (pageOf ea)
      let s := claimFor s s.cur key ea
      if cls == 1 then .next (storePosted s key bs fl) else .next (storeCached s key bs fl)

/-! ### Stores reach their homes (R224) -/

/-- A store to a word of the task table is performed there (R63). -/
def performTask (s : State) (p : PostedStore) : State :=
  match controlOf (p.addr % 2 ^ 18) with
  | .task w => { setTask s ((p.addr - 2 ^ 48) / 2 ^ 18) w (BitVec.ofNat 64 (ofBytes p.bytes)) with
      posted := s.posted.filter fun q => q.num != p.num, homeRel := setHomeRel s.homeRel p.addr 8 p.rel }
  | _ => { s with posted := s.posted.filter fun q => q.num != p.num }

/-- Bytes of a ring bay whose cluster has an active voyage (R144). -/
def inActiveBay (s : State) (key n : Nat) : Bool :=
  decide (2 ^ 43 ≤ key ∧ key < 2 ^ 44) && inBay (key % 2 ^ 18) n && voyageActive s (coreCluster ((key - 2 ^ 43) / 2 ^ 18))

/-- The store of the thread with this agent number meets an active bay when it arrives: it writes nothing, and the thread has a deferred
access fault (R145). (DEDUCED, log 34) -/
def refuseStore (s : State) (p : PostedStore) : State :=
  match s.threads.find? fun e => e.2.live && e.2.agent == p.agent with
  | some e => deferTrap s e.1 p.agent 0x03 (padAddress p.addr)
  | none => s

/-- A posted store is performed at its home. (DEDUCED, log 16) -/
def performPosted (s : State) (p : PostedStore) : State :=
  if 2 ^ 48 ≤ p.addr then performTask s p
  else
    let rest := { s with posted := s.posted.filter fun q => q.num != p.num }
    if inActiveBay s p.addr p.bytes.length then refuseStore rest p
    else
      let w : Writer :=
        { agent := p.agent, core := some p.core, cluster := coreCluster p.core, stamp := p.stamp, clock := p.clock, flagAt := p.flagAt }
      homeWrite rest p.addr p.bytes w p.rel

/-- The store may be performed: the earlier requests of its core to the same place have been (R120, R133, R142), and so has every store of
these bytes that happens before it (R224). -/
def postedFirst (s : State) (p : PostedStore) : Bool :=
  !(s.posted.any fun q => q.num != p.num && ((q.core == p.core && decide (q.num < p.num) && destination q.addr == destination p.addr)
      || (overlap q.addr q.bytes.length p.addr p.bytes.length && decide (q.stamp ≤ AMap.getD p.clock q.agent 0))))
    && !headerWaits s p.clock p.flagAt && !requestBefore s p.core p.num fun r => destination r.key == destination p.addr

/-- The dirty write may go home: it is not held back, and every write of these bytes that happens before it and will reach their home
from elsewhere has (R224); so has what its flag clear follows (R148). -/
def mayArrive (s : State) (w : WriteRec) : Bool :=
  !w.heldBack s && !headerWaits s w.clock w.flagAt
    && !(s.posted.any fun p => overlap p.addr p.bytes.length w.addr w.bytes.length && decide (p.stamp ≤ AMap.getD w.clock p.agent 0))
    && !(s.writes.any fun v => !v.initial && !v.arrived && v.cluster != w.cluster && overlap v.addr v.bytes.length w.addr w.bytes.length
      && v.before w.clock)

/-- The cluster's dirty writes that a predicate picks reach home, but for those behind an earlier request of their core (R141, R213,
R222). (DESIGN CHOICE, log 15) -/
def flushWrites (s : State) (cluster : Nat) (p : WriteRec → Bool) : State :=
  (s.writes.filter fun w => !w.arrived && !w.initial && w.cluster == cluster && p w && mayArrive s w).foldl (fun s w => arriveWrite s w.num) s

/-- Every dirty write of a cluster to the 64-byte line of `a` reaches home (R213). (DESIGN CHOICE, log 15) -/
def flushLine (s : State) (cluster a : Nat) : State := flushWrites s cluster fun w => w.addr / 64 == a / 64

/-- As `flushLine`, for an atomic of core `k` with the number `at_`: neither what its core issued later, nor what stands above that (R213,
R222). (DESIGN CHOICE, log 15) -/
def flushLineFor (s : State) (cluster k at_ a : Nat) : State :=
  let later := s.writes.filter fun w => !w.initial && !w.arrived && w.cluster == cluster && w.core == some k && at_ ≤ w.issued
  let above := fun (w : WriteRec) => later.any fun v => decide (v.num ≤ w.num) && overlap v.addr v.bytes.length w.addr w.bytes.length
  flushWrites s cluster fun w => w.addr / 64 == a / 64 && !above w

/-- Every dirty write of a cluster reaches home. -/
def flushCluster (s : State) (cluster : Nat) : State := flushWrites s cluster fun _ => true

/-- The stores of a core that are in flight are performed, in order (R128, R141); none overtakes an earlier request of its core. -/
def performCore (s : State) (k : Nat) : State :=
  (s.posted.filter fun p => p.core == k).foldl (fun s p => if postedFirst s p then performPosted s p else s) s

/-- Every store that left the core has been performed (R128). -/
def coreDone (s : State) (k : Nat) : Bool := !(s.posted.any fun p => p.core == k)

/-- The release actions of the scopes of a cluster (R141, R185, R299): the core's stores are performed; the instruction waits, its slot
forfeited, while one stands behind an earlier request (R128). (DEDUCED, log 16) -/
def State.afterStores (s : State) (go : State → Out) : Out :=
  let s' := performCore s (tagCore s.cur)
  if coreDone s' (tagCore s.cur) then go s' else s'.forfeit

/-- The sending side of a device edge: the thread's writes are made to reach home, as a release of module scope would (R141, R217). -/
def releaseNow (s : State) (t : Nat) : State := flushCluster (performCore s (tagCore t)) (tagCluster t)

/-- Every byte that was dirty in the cluster's cache is home, and every store of the core is performed (R141). -/
def releaseDone (s : State) (t : Nat) : Bool := coreDone s (tagCore t) && !dirtyBelow s (tagCluster t) s.nextWrite

/-- The release actions of module scope (R141, R217), before an instruction goes on; it waits, its slot forfeited, while a write stands
behind an earlier request. (DEDUCED, log 16) -/
def State.afterRelease (s : State) (go : State → Out) : Out :=
  let s' := releaseNow s s.cur
  if releaseDone s' s.cur then go s' else s'.forfeit

/-- An earlier request of another thread of the core to the cluster's control block has not been performed (R120). -/
def controlAhead (s : State) (t : Nat) : Bool :=
  s.threads.any fun e => e.1 != t && tagCore e.1 == tagCore t && match e.2.park with
    | .memory r => destination r.key == destination (chartKey (tagCluster t) 0)
    | _ => false

/-- What the control block performs for an instruction is sent after the core's earlier stores and behind its earlier requests there (R120,
R128). (DEDUCED, log 16) -/
def State.atControl (s : State) (go : State → Out) : Out :=
  s.afterStores fun s' => if controlAhead s' s'.cur then s'.forfeit else go s'

/-- HOME_ARRIVAL (R224): the posted store or dirty write of that number is performed at its home; without one, or
behind an earlier request of its source to those bytes, nothing changes. (DEDUCED, log 16) -/
def execHomeArrival (access : Nat) (s : State) : Out :=
  match s.posted.find? fun p => p.num == access with
  | some p => if postedFirst s p then .next (performPosted s p) else .next s
  | none =>
    match s.writes.find? fun w => w.num == access && !w.initial && !w.arrived with
    | some w => if mayArrive s w then .next (arriveWrite s access) else .next s
    | none => .next s

/-! ### Control-window reads (R121) -/

/-- A barrier's word 0 (R297). -/
def Barrier.word (b : Barrier) : Word := b.count ++ b.arrived ++ b.phase

def getBarrier (s : State) (c n : Nat) : Barrier := AMap.getD (getCluster s c).barriers n {}

def setBarrier (s : State) (c n : Nat) (b : Barrier) : State :=
  let cl := getCluster s c
  setCluster s c { cl with barriers := AMap.set cl.barriers n b }

/-- One pending spawn as the 32 bytes of its queue entry: the layout is that of a spill entry (R108; log 13). -/
def spawnWord (p : Spawn) (i : Nat) : Word :=
  match i with
  | 0 => BitVec.ofNat 64 (2 * 2 ^ 62 + (p.cluster / 32) * 2 ^ 19 + (p.cluster % 32) * 2 ^ 14 + p.channel)
  | 1 => p.words.getD 0 0
  | 2 => p.words.getD 1 0
  | _ => BitVec.ofNat 64 p.words.length

/-- The pages of a server that hold no image (R203). -/
def placedPages (p : Placed) (h0 : Word) : List Nat :=
  let w := bits h0 50 48
  let h := bits h0 52 51
  (rangeFrom h 0).flatMap fun r => (rangeFrom w 0).map fun c => p.page + c + 4 * r

def usedPages (cl : ClusterState) (server : Nat) : List Nat :=
  cl.images.flatMap fun e => (e.2.copies.filter fun p => p.server == server).flatMap fun p => placedPages p e.2.h0

def freeMap (cl : ClusterState) (server : Nat) : Nat :=
  ((rangeFrom 8 0).filter fun p => !(usedPages cl server).contains p).foldl (fun a p => a + 2 ^ p) 0

/-- The pages of a server that an image may be placed on: free, and not withdrawn (R119). -/
def usableMap (cl : ClusterState) (server : Nat) : Nat :=
  ((rangeFrom 8 0).filter fun p => !(usedPages cl server).contains p
    && !(AMap.getD cl.servers server {}).offline.getLsbD p).foldl (fun a p => a + 2 ^ p) 0

/-- The server whose entry port and queues an image uses: that of its first copy. (DEDUCED, log 61) -/
def Image.server (i : Image) : Nat := match i.copies with | p :: _ => p.server | [] => 0

/-- The twin mismatches of a server within the second that ends now (R119, R203). (DEDUCED, log 68) -/
def ServerState.recent (v : ServerState) (now : Nat) : List Nat := v.mismatches.filter fun t => decide (now < t + 100000000)

/-- A word of a resident image's directory entry (R203). -/
def imageWord (cl : ClusterState) (i : Image) (w : Nat) : Word :=
  let p0 := i.copies.getD 0 ⟨0, 0, [], [], [], 0⟩
  let p1 := i.copies.getD 1 ⟨0, 0, [], [], [], 0⟩
  let bit := fun (b : Bool) (n : Nat) => if b then 2 ^ n else 0
  match w with
  | 0 => BitVec.ofNat 64 (2 ^ 63 + bit (bitAt i.h0 53) 62 + bit (bitAt i.h0 54) 61 + bit (bitAt i.h0 55) 60
      + bit i.evPend 59 + bit (i.busy cl) 58 + i.fid.toNat * 2 ^ 46 + bits i.h0 50 48 % 8 * 2 ^ 43
      + bits i.h0 52 51 * 2 ^ 41 + p0.server * 2 ^ 37 + p0.page * 2 ^ 34
      + (if bitAt i.h0 53 then p1.server * 2 ^ 30 + p1.page * 2 ^ 27 else 0))
  | 1 => BitVec.ofNat 64 (i.gen * 2 ^ 32)
  | 2 => BitVec.ofNat 64 i.calls
  | 3 => BitVec.ofNat 64 (i.poisoned % 2 ^ 32)
  | 4 => BitVec.ofNat 64 i.lastUse
  | 5 => BitVec.ofNat 64 (i.loadClk % 2 ^ 32)
  | _ => 0

/-- The context counter of cell `cell` of a server (R203 CC). -/
def cellCC (cl : ClusterState) (server cell : Nat) : Nat :=
  match (cl.images.flatMap fun e => e.2.copies.filter fun p =>
    p.server == server && (placedPages p e.2.h0).contains (cell % 16 / 4 + cell / 16 / 4 * 4)) with
  | p :: _ => (AMap.getD p.cells cell {}).cc
  | [] => 0

/-- A word of the server directory (R203). -/
def directoryWord (cl : ClusterState) (now off : Nat) : Word :=
  if off < 0x1000 then
    let v := off / 0x100
    let w := off % 0x100 / 8
    let imgs := (cl.images.map (·.2)).filter fun i => i.server == v
    if v ≥ 12 then 0
    else match w with
      | 0 => BitVec.ofNat 64 ((imgs.map fun i => i.tags.length).sum * 2 ^ 32
          + (imgs.map fun i => i.entry.length).sum * 2 ^ 16 + (AMap.getD cl.servers v {}).offline.toNat * 256
          + freeMap cl v)
      | 1 => BitVec.ofNat 64 (((AMap.getD cl.servers v {}).recent now).length % 16 * 2 ^ 16
          + 16 * (imgs.map fun i => i.tags.length).sum)
      | 4 | 5 | 6 | 7 =>
        BitVec.ofNat 64 (((rangeFrom 32 0).map fun c => cellCC cl v ((w - 4) * 32 + c) * 4 ^ c).sum)
      | _ => 0
  else
    match AMap.find cl.images ((off - 0x1000) / 0x40) with
    | some i => if (off - 0x1000) / 0x40 < 96 then imageWord cl i (off % 0x40 / 8) else 0
    | none => 0

/-- A status code of a sighting record (R154). -/
def SightStatus.code : SightStatus → Nat
  | .pending => 0 | .counted => 1 | .skipped => 2 | .void => 3 | .missed => 4 | .reckoned => 5 | .running => 6

/-- VSTATE (R154). -/
def Voyage.vstate (v : Voyage) : Word :=
  let ph := match v.phase with | .embark => 1 | .halfSteps => 2 | .reckoning => 3 | .stopped => 4
  BitVec.ofNat 64 (2 ^ 63 + ph * 2 ^ 60 + v.half * 2 ^ 53 + v.counted * 2 ^ 34 + v.missed * 2 ^ 20)

/-- The active voyage of a cluster, running or stopped (R144). -/
def theVoyage (s : State) (c : Nat) : Option Voyage :=
  match (getCluster s c).voyage with
  | some v => if v.active then some v else none
  | none => (s.vsaves.find? fun v => v.cluster == c).map fun v => { v.voyage with phase := .stopped }

/-- Station of a tile in half-step h (R157). -/
def portAt (home h : Nat) : Nat := (home + (h + 1) / 2) % 96
def stbdAt (home h : Nat) : Nat := (home + 96 - h / 2 % 96) % 96

/-- Sighting records in order: by half-step, then chart index; void entries last in bucket 96 (R154). -/
def sightOrder (v : Voyage) : List (Nat × ChartEntry) :=
  let es := (rangeFrom v.entries.length 0).zip v.entries
  (rangeFrom 97 0).flatMap fun h => es.filter fun e => e.2.half == h

/-- A half-word of a station map (R154). -/
def stationHalf (tiles : List VTile) (at_ : Nat → Nat → Nat) (h st : Nat) : Nat :=
  match tiles.find? fun t => !t.lost && at_ t.home h == st with
  | some t => 0x8000 + t.id
  | none => 0

/-- Chart memory while a voyage is active (R154): the 8 bytes at an offset. -/
def chartWord (v : Voyage) (off : Nat) : Word :=
  let halves := fun (f : Nat → Nat) => BitVec.ofNat 64 (((rangeFrom 4 0).map fun i => f i * 2 ^ (16 * i)).sum)
  if off < 8 then v.vstate
  else if off < 16 then v.descVa
  else if 0x100 ≤ off ∧ off < 0x1C0 then halves fun i => stationHalf (if v.dropped then [] else v.port) portAt v.half ((off - 0x100) / 2 + i)
  else if 0x200 ≤ off ∧ off < 0x2C0 then halves fun i => stationHalf (if v.dropped then [] else v.stbd) stbdAt v.half ((off - 0x200) / 2 + i)
  else if 0x400 ≤ off ∧ off < 0x4C8 then
    halves fun i =>
      if (off - 0x400) / 2 + i > 96 then 0
      else (v.entries.filter fun e => e.half < (off - 0x400) / 2 + i).length
  else if 0x1000 ≤ off ∧ off < 0xA000 then
    let rec32 := fun (k : Nat) => match (sightOrder v)[k]? with
      | some (i, e) => e.status.code * 2 ^ 29 + e.station * 2 ^ 22 + i
      | none => 0
    BitVec.ofNat 64 (rec32 ((off - 0x1000) / 4) + rec32 ((off - 0x1000) / 4 + 1) * 2 ^ 32)
  else 0

/-- The 8 bytes a load of the control window returns (R121). (DEDUCED, log 13) -/
def controlWord (s : State) (c off : Nat) : Word :=
  match controlOf off with
  | .counter n => (getCounter s c n).word
  | .barrier n hi => if hi then 0 else (getBarrier s c n).word
  | .pending o =>
    match (getCluster s c).pendingQ[o / 32]? with
    | some p => spawnWord p (o % 32 / 8)
    | none => 0
  | .task w => getTask s c w
  | .chart o =>
    match theVoyage s c with
    | some v => chartWord v o
    | none => BitVec.ofNat 64 (ofBytes (s.bytesAt 8 (chartKey c o)))
  | .directory o => directoryWord (getCluster s c) s.board.refclk o
  | .outside => 0

/-! ### Atomics (R293–R295) -/

/-- `Op(op, old, v)` in `n` bytes (R293). -/
def AtomicOp.apply (op : AtomicOp) (n : Nat) (old v : Nat) : Nat :=
  let m := 2 ^ (8 * n)
  let sgn := fun (x : Nat) => if x < m / 2 then (x : Int) else (x : Int) - m
  match op with
  | .add => (old + v) % m
  | .and => Nat.land old v
  | .or => Nat.lor old v
  | .xor => Nat.xor old v
  | .min => if sgn old ≤ sgn v then old else v
  | .max => if sgn old ≤ sgn v then v else old
  | .minu => if old ≤ v then old else v
  | .maxu => if old ≤ v then v else old
  | .swap => v
  | .cas => v
  | .fadd => addF32 old v

/-- The scope of an encoding (R254). -/
def scopeOf (c : BitVec 2) : Scope :=
  match c.toNat with
  | 0 => .core
  | 1 => .cluster
  | 2 => .device
  | _ => .system

/-- The request of an atomic. -/
def atomicReq (s : State) (key : Nat) (va : Word) (n : Nat) (atHome : Bool) (d : Reg) (b : Reg) (op : AtomicOp)
    (o c : BitVec 2) (control flagAt : Option Nat) : MemReq where
  key := key
  va := va
  size := n
  atHome := atHome
  signed := op != .fadd
  dest := d
  op := some op
  operand := s.x b
  expect := s.x d
  acquire := o.getLsbD 0
  release := o.getLsbD 1
  scope := scopeOf c
  control := control
  flagAt := flagAt
  after := s.nextWrite

/-- The atomics the task table takes (R63). -/
def AtomicOp.onTable : AtomicOp → Bool
  | .and | .or | .swap | .cas => true
  | _ => false

/-- An atomic (R293): alignment, space (R294), then the request leaves the core and the thread parks (R295). -/
def atomic (op : AtomicOp) (n : Nat) (d a b : Reg) (o c : BitVec 2) (s : State) : Out :=
  let ea := s.x a
  if ea.toNat % n ≠ 0 then s.trap 0x02 ea
  else match locate s s.cur ea n .both with
    | .denied => s.trap 0x03 ea
    | .missing => s.parkMiss ea 2
    | .pad k off =>
      if k = tagCore s.cur ∧ padBlocked s s.cur true off n = true then s.forfeit
      else sendRequest s (atomicReq s (padKey k off) ea n true d b op o c none none)
    | .cell key => sendRequest s (atomicReq s key ea n true d b op o c none none)
    | .control off =>
      match controlOf off with
      | .task _ =>
        if n = 8 ∧ op.onTable = true then sendRequest s (atomicReq s (controlKey (tagCluster s.cur) off) ea n true d b op o c (some off) none)
        else s.trap 0x03 ea
      | _ => s.trap 0x03 ea
    | .global key cls fl =>
      let s := fillL1 (countAccess s (ownerOf s s.cur) ea) (tagCluster s.cur) (ownerOf s s.cur) (pageOf ea)
      let s := claimFor s s.cur key ea
      sendRequest s (atomicReq s key ea n (cls == 1) d b op o c none fl)

/-- The size of an atomic (R254). -/
def atomSize (z : BitVec 1) : Nat := if z = 1 then 8 else 4

/-! ### The value returns (R128) -/

/-- An earlier request of another thread of the core has not been performed, and goes to the same place, or is an atomic on these bytes:
requests of one source to one place are performed in order, and a core's accesses are seen in issue order (R120, R128, R142, R222). -/
def MemReq.behind (s : State) (t : Nat) (r : MemReq) : Bool :=
  s.threads.any fun e => e.1 != t && tagCore e.1 == tagCore t && match e.2.park with
    | .memory q => decide (q.after < r.after)
        && ((q.homeBound && r.homeBound && destination q.key == destination r.key) || (q.atomic && overlap q.key q.size r.key r.size))
    | _ => false

/-- A request may be performed: the core's earlier stores are (R128), and the stores that happen before it where it goes to a home (R214);
for a release the cluster's dirty writes are home (R295). -/
def MemReq.ready (s : State) (t : Nat) (r : MemReq) : Bool :=
  !r.behind s t && !(s.posted.any fun p => p.core == tagCore t && p.num < r.after)
    && !(r.homeBound && writeAhead s (getThread s t).clock r.key r.size)
    && !(r.release && (r.scope == .device || r.scope == .system) && dirtyBelow s (tagCluster t) r.after)

/-- The line of a global request is enciphered under another key or address: what it reads is unspecified. -/
def MemReq.foreign (s : State) (t : Nat) (r : MemReq) : Bool :=
  globalKey r.key && lineForeign s r.key (keyOf s (ownerOf s t)) (bits r.va 54 6)

/-- A plain load's value and the release ends behind it (R221, R214). (DEDUCED, log 76) -/
def loadValue (s : State) (t : Nat) (r : MemReq) : Nat × List RelEnd :=
  match r.control with
  | some off => ((controlWord s (tagCluster t) off).toNat, homeEnds s r.key r.size)
  | none =>
    if r.atHome then (ofBytes (s.bytesAt r.size r.key), homeEnds s r.key r.size)
    else if r.stream then
      let bs := (rangeFrom r.size r.key).map fun x => streamByte s (tagCluster t) (some (tagCore t)) r.after x
      (ofBytes (bs.map (·.1)), (bs.map (·.2)).flatten)
    else
      let bs := loadFrontier s (getThread s t).clock (some (tagCore t)) r.after r.key r.size
      (ofBytes (bs.map (·.1)), ((rangeFrom r.size r.key).zip bs).flatMap fun e => byteEnds s e.1 e.2)

/-- A plain load meets poisoned data (R118): at its home, or, in a cached page, beneath bytes that its cluster's cache does not hold dirty. -/
def loadBad (s : State) (t : Nat) (r : MemReq) : Bool :=
  if r.control.isSome then poisoned s r.key r.size && !voyageActive s (tagCluster t)
  else if r.atHome then poisoned s r.key r.size
  else (rangeFrom r.size r.key).any fun x => match topDirty s (tagCluster t) (some (tagCore t)) r.after x with
    | some w => w.bad
    | none => poisoned s x 1

/-- The plain load of thread `t` returns. -/
def returnLoad (s : State) (t : Nat) (r : MemReq) : State :=
  if loadBad s t r then
    poisonEvent (finishLoad s t r.dest (extend r.signed r.size ((s.free 0).toNat % 2 ^ (8 * r.size))) []) t r.va
  else if r.control.isNone && r.foreign s t then
    finishLoad s t r.dest (extend r.signed r.size ((s.free 0).toNat % 2 ^ (8 * r.size))) []
  else
    let v := loadValue s t r
    finishLoad s t r.dest (extend r.signed r.size v.1) v.2

/-- The atomic's own release end (R218). (DEDUCED, log 17) -/
def ownEnd (t : Nat) (r : MemReq) (w : Writer) : List RelEnd :=
  if r.release then [{ place := threadPlace t, scope := r.scope, clock := w.clock }] else []

/-- The acquire end of an atomic: the release ends that its read takes its value from happen before the atomic and its own write
(R218). (DEDUCED, log 17) -/
def acquired (s : State) (t : Nat) (ends : List RelEnd) (sc : Scope) : State :=
  let th := getThread s t
  setThread s t { th with clock := acquireFrom th.clock ends (threadPlace t) sc }

/-- The atomic of thread `t` is performed at its home and its value returns (R293, R295). -/
def returnAtomic (s : State) (t : Nat) (r : MemReq) (op : AtomicOp) : State :=
  match r.control with
  | some off =>
    match controlOf off with
    | .task wd =>
      let old := getTask s (tagCluster t) wd
      let new := BitVec.ofNat 64 (op.apply 8 old.toNat r.operand.toNat)
      let ends := homeEnds s r.key 8
      let s := if r.acquire then acquired s t ends r.scope else s
      let th := getThread s t
      let w := th.writer t none
      let s := if op == .cas && old != r.expect then s
        else
          let s := setThread (setTask s (tagCluster t) wd new) t th.wrote
          { s with homeRel := setHomeRel s.homeRel r.key 8 ((AMap.getD s.homeRel r.key []) ++ th.plainEnds ++ ownEnd t r w) }
      finishLoad s t r.dest old ends
    | _ => finishLoad s t r.dest 0 []
  | none =>
    let s := flushLineFor s (tagCluster t) (tagCore t) r.after r.key
    if poisoned s r.key r.size then
      poisonEvent (finishLoad s t r.dest (extend r.signed r.size ((s.free 0).toNat % 2 ^ (8 * r.size))) []) t r.va
    else
      let m := 2 ^ (8 * r.size)
      let old := ofBytes (s.bytesAt r.size r.key)
      let ends := homeEnds s r.key r.size
      let s := if r.acquire then acquired s t ends r.scope else s
      let th := getThread s t
      let w := { th.writer t r.flagAt with issued := some r.after }
      let writes := !(op == .cas && old != r.expect.toNat % m)
      let s := if writes then
          setThread (rmwWrite s r.key (bytesOf r.size (op.apply r.size old (r.operand.toNat % m))) w (!r.atHome)
            (th.plainEnds ++ ownEnd t r w)) t th.wrote
        else s
      finishLoad s t r.dest (extend r.signed r.size old) ends

/-! ### Full/empty group (R129, R290–R292) -/

/-- A waiter is served: its thread completes its instruction. -/
def wakeWaiter (s : State) (w : Waiting) (v : Option Word) (clk : Clock) (ends : List RelEnd) : State :=
  let th := getThread s w.tag
  let th := match v with | some v => th.writeX w.dest v | none => th
  setThread s w.tag { th.advance with park := .none, clock := Clock.join th.clock clk, seen := th.seen ++ ends }

/-- V := v, F := 1 by thread `t` (R291). The write ends a release sequence, as one that is no read-modify-write does: whether a fill or set
extends it the spec leaves open. (DESIGN CHOICE, log 87) -/
def fillWord (s : State) (t : Nat) (key : Nat) (v : Word) : State :=
  let th := getThread s t
  let w := th.writer t none
  let s := homeWrite s key (bytesOf 8 v.toNat) w th.plainEnds
  setThread { s with
    full := if s.full.contains key then s.full else s.full ++ [key]
    fillClk := AMap.set s.fillClk key w.clock } t th.wrote

def emptyWord (s : State) (key : Nat) : State := { s with full := s.full.filter fun k => k != key }

/-- The word's value for a take or keep; an uncorrectable word gives an unspecified value (R292). -/
def syncValue (s : State) (key : Nat) : Word :=
  if poisoned s key 8 then s.free 0 else BitVec.ofNat 64 (ofBytes (s.bytesAt 8 key))

/-- Removes the first waiter equal to `w`. -/
def dropWaiter (s : State) (k : Nat) (w : Waiting) : State :=
  let c := getCore s k
  setCore s k { c with waiters := c.waiters.erase w }

/-- The word that the waiter waits on is saved with its crew: service goes on after the restore (R292). -/
def Waiting.suspended (s : State) (w : Waiting) : Bool :=
  match w.crew with
  | some c => (match getCrew s c with | some x => x.phase == .saved | none => false)
  | none => false

/-- Serves a word's waiters after it became full or empty (R129); `fuel` of them at most. -/
def serveWord : Nat → State → Nat → Nat → State
  | 0, s, _, _ => s
  | fuel + 1, s, k, key =>
    let ws := (getCore s k).waiters.filter fun w => w.word == key && !w.suspended s
    if s.full.contains key then
      match ws.find? fun w => w.kind != .fill with
      | none => s
      | some w =>
        let s' := wakeWaiter (dropWaiter s k w) w (some (syncValue s key)) (AMap.getD s.fillClk key []) (homeEnds s key 8)
        let s' := if poisoned s key 8 then poisonEvent s' w.tag w.va else s'
        match w.kind with
        | .take => serveWord fuel (emptyWord s' key) k key
        | _ => serveWord fuel s' k key
    else
      match ws.find? fun w => w.kind == .fill with
      | none => s
      | some w => serveWord fuel (wakeWaiter (fillWord (dropWaiter s k w) w.tag key w.value) w none [] []) k key

/-- Serves a word of core `k`. -/
def serveAt (s : State) (k key : Nat) : State := serveWord ((getCore s k).waiters.length + 1) s k key

/-- The request joins the waiter unit, or is refused when 64 wait (R129): its thread is parked; one that is stopped for pre-emption is
withdrawn, and executes again on resume (R292). (DEDUCED, log 59) -/
def joinWaiters (s : State) (k : Nat) (w : Waiting) : State :=
  let c := getCore s k
  let th := getThread s w.tag
  if th.stopped then setThread s w.tag { th with park := .none }
  else if c.waiters.length < 64 then
    let s := setCore s k { c with waiters := c.waiters ++ [{ w with crew := c.crew }] }
    setThread s w.tag { th with park := .sync k none }
  else setThread s w.tag { th with park := .sync k (some w) }

/-- A take or keep on a full word by thread `t` (R291): an atomic read, and the receiving side of the edge of the fill. (DEDUCED, log 59) -/
def syncRead (s : State) (t : Nat) (d : Reg) (key : Nat) (va : Word) : State :=
  let th := getThread s t
  let s' := setThread s t { (th.writeX d (syncValue s key)).advance with
    park := .none, clock := Clock.join th.clock (AMap.getD s.fillClk key []), seen := th.seen ++ homeEnds s key 8 }
  if poisoned s key 8 then poisonEvent s' t va else s'

/-- The thread's instruction completes: pc := pc + 4, no longer parked. -/
def passed (s : State) (t : Nat) : State := setThread s t { (getThread s t).advance with park := .none }

/-- An operation of the group is performed at the word of core `k`, for thread `t` (R291). An uncorrectable word, whose bit is lost with it,
makes no operation wait: it is read as an unspecified value, with event 0x0B, or written (R118, R292). (DEDUCED, log 59) -/
def performSync (s : State) (t k key : Nat) (op : SyncOp) (d : Reg) (v va : Word) : State :=
  let wait := fun (kind : SyncKind) (dest : Reg) (value : Word) =>
    joinWaiters s k { kind := kind, word := key, tag := t, dest := dest, value := value, va := va }
  let bad := poisoned s key 8
  match op with
  | .take => if s.full.contains key || bad then serveAt (emptyWord (syncRead s t d key va) key) k key else wait .take d 0
  | .keep => if s.full.contains key || bad then syncRead s t d key va else wait .keep d 0
  | .fill => if s.full.contains key && !bad then wait .fill 0 v else serveAt (passed (fillWord s t key v) t) k key
  | .set => serveAt (passed (fillWord s t key v) t) k key
  | .clear => if s.full.contains key then serveAt (passed (emptyWord s key) t) k key else passed s t
  | .test =>
    if bad then poisonEvent (finishLoad s t d (s.free 0 &&& 1) []) t va
    else finishLoad s t d (wordOfBool (s.full.contains key)) []

/-- The operation may give the word new contents, its own or those of a waiter it serves. -/
def SyncOp.changes : SyncOp → Bool
  | .keep | .test => false
  | _ => true

/-- The request of an operation on another core's word (R129). -/
def syncReq (s : State) (key : Nat) (va : Word) (op : SyncOp) (d : Reg) (v : Word) : MemReq :=
  { loadReq s key va 8 true false d none with sync := some op, operand := v }

/-- An operation of the group (R290): the checks of its address, then the operation: at once on a word of the own scratchpad, as a request
on another core's. (DEDUCED, log 59) -/
def syncOp (op : SyncOp) (d : Reg) (v : Word) (a : Reg) (off : BitVec 13) (s : State) : Out :=
  let ea := s.x a + offY off
  if bits ea 2 0 ≠ 0 then s.trap 0x02 ea
  else match spaceOf (tagCluster s.cur) (some (tagCore s.cur)) ea 8 with
    | .pad k o =>
      if inBay o 8 && voyageActive s (tagCluster s.cur) then s.trap 0x03 ea
      else if k = tagCore s.cur then
        if padBlocked s s.cur op.changes o 8 then s.forfeit else .next (performSync s s.cur k (padKey k o) op d v ea)
      else sendRequest s (syncReq s (padKey k o) ea op d v)
    | _ => s.trap 0x03 ea

/-- `ldsync.take` (R291): Park(F = 1); x[d] := V; F := 0. -/
def execLdsyncTake (d a : Reg) (k : BitVec 13) (s : State) : Out := syncOp .take d 0 a k s

/-- `ldsync.keep` (R291): Park(F = 1); x[d] := V. -/
def execLdsyncKeep (d a : Reg) (k : BitVec 13) (s : State) : Out := syncOp .keep d 0 a k s

/-- `stsync.fill` (R291): Park(F = 0); V := x[b]; F := 1. -/
def execStsyncFill (b a : Reg) (k : BitVec 13) (s : State) : Out := syncOp .fill 0 (s.x b) a k s

/-- `stsync.set` (R291): V := x[b]; F := 1; never waits. -/
def execStsyncSet (b a : Reg) (k : BitVec 13) (s : State) : Out := syncOp .set 0 (s.x b) a k s

/-- `sync.clear` (R291): F := 0; on an empty word nothing changes. -/
def execSyncClear (a : Reg) (k : BitVec 13) (s : State) : Out := syncOp .clear 0 0 a k s

/-- `sync.test` (R291): x[d] := F. -/
def execSyncTest (d a : Reg) (k : BitVec 13) (s : State) : Out := syncOp .test d 0 a k s

/-! ### Requests are performed (R128) -/

/-- LOAD_RETURN (R128): the request of the thread is performed and its value returns; an atomic that meets an active bay takes the access
fault (R145). -/
def execLoadReturn (tag : Nat) (s : State) : Out :=
  let th := getThread s tag
  match th.park with
  | .memory r =>
    if !r.ready s tag then .next s
    else if r.atomic && inActiveBay s r.key r.size then .next (takeTrap (setThread s tag { th with park := .none }) tag 0x03 r.va th.pc)
    else match r.sync, r.op with
      | some op, _ => .next (performSync s tag ((r.key - 2 ^ 43) / 2 ^ 18) r.key op r.dest r.operand r.va)
      | none, none => .next (returnLoad s tag r)
      | none, some op => .next (returnAtomic s tag r op)
  | _ => .next s

/-- The operation that a waiting request asks for. -/
def SyncKind.op : SyncKind → SyncOp
  | .take => .take
  | .keep => .keep
  | .fill => .fill

/-- WAITER_RESEND (R129): a refused request is sent again. -/
def execWaiterResend (tag : Nat) (s : State) : Out :=
  match (getThread s tag).park with
  | .sync k (some w) => .next (performSync s tag k w.word w.kind.op w.dest w.value w.va)
  | _ => .next s

/-! ### Fences (R296) -/

/-- A fence of the thread still waits (R296): its own posted stores, and at module or system scope the dirty writes of
its cluster. -/
def fenceWaits (s : State) (t upto : Nat) (sc : Scope) : Bool :=
  (s.posted.any fun p => p.agent == (getThread s t).agent && p.num < upto)
    || ((sc == .device || sc == .system) && dirtyBelow s (tagCluster t) upto)

/-- The thread's release fence: a release end of every later write (R218). (DEDUCED, log 18) -/
def releaseFence (s : State) (t : Nat) (sc : Scope) : State :=
  let th := getThread s t
  setThread s t { th with fences := th.fences ++ [{ place := threadPlace t, scope := sc, clock := th.clock }] }

/-- The thread's acquire fence: it acquires from every earlier read (R218). -/
def acquireFence (s : State) (t : Nat) (sc : Scope) : State :=
  let th := getThread s t
  setThread s t { th with clock := acquireFrom th.clock th.seen (threadPlace t) sc }

/-- A `fence.full` takes its place in the fence order (R219). -/
def orderFence (s : State) (t : Nat) (sc : Scope) : State :=
  let th := getThread s t
  let n := AMap.getD th.clock th.agent 0 + 1
  let c := AMap.set (acquireFrom th.clock s.fullFences (threadPlace t) sc) th.agent n
  let s := setThread s t { th with clock := c }
  { s with fullFences := s.fullFences ++ [{ place := threadPlace t, scope := sc, clock := c }] }

/-- A release or full fence of thread `t` completes. -/
def finishFence (s : State) (t : Nat) (sc : Scope) (full : Bool) : State :=
  let s := if full then releaseFence (orderFence (acquireFence s t sc) t sc) t sc else releaseFence s t sc
  let th := getThread s t
  setThread s t { th.advance with park := .none }

/-- `fence.acq` (R296): acquire end for the loads and atomics before it. -/
def execFenceAcq (c : BitVec 2) (s : State) : Out := .next (acquireFence s s.cur (scopeOf c)).skip

/-- `fence.rel` (R296): parks until the thread's stores, and at module or system scope the write-back, are performed. -/
def execFenceRel (c : BitVec 2) (s : State) : Out :=
  if fenceWaits s s.cur s.nextWrite (scopeOf c) then s.parkOn (.release s.nextWrite (scopeOf c) false)
  else .next (finishFence s s.cur (scopeOf c) false)

/-- `fence.full` (R296): both, and a place in the fence order (R219). -/
def execFenceFull (c : BitVec 2) (s : State) : Out :=
  if fenceWaits s s.cur s.nextWrite (scopeOf c) then s.parkOn (.release s.nextWrite (scopeOf c) true)
  else .next (finishFence s s.cur (scopeOf c) true)

/-- RELEASE_ACK (R141): the homes have acknowledged what the fence waited for, and it completes. -/
def execReleaseAck (tag : Nat) (s : State) : Out :=
  match (getThread s tag).park with
  | .release upto sc full => if fenceWaits s tag upto sc then .next s else .next (finishFence s tag sc full)
  | _ => .next s

/-! ### Split barriers (R297–R300) -/

/-- Phase `p` is complete (R297). -/
def Barrier.complete (b : Barrier) (p : BitVec 32) : Bool := (b.phase - 1 - p).toNat < 2 ^ 31

/-- `barr.init` (R298). -/
def execBarrInit (a : Reg) (n : BitVec 4) (s : State) : Out :=
  s.atControl fun s =>
    let c := tagCluster s.cur
    let b := getBarrier s c n.toNat
    .next (setBarrier s c n.toNat { b with count := (s.x a).setWidth 16, arrived := 0 }).skip

/-- One arrival (R299). -/
def Barrier.arrive (b : Barrier) (clk : Clock) : Barrier :=
  let p := b.phase.toNat
  let b := { b with clocks := AMap.set b.clocks p (Clock.join (AMap.getD b.clocks p []) clk) }
  if b.arrived + 1 = b.count then { b with arrived := 0, phase := b.phase + 1 } else { b with arrived := b.arrived + 1 }

/-- `barr.arrive` (R299): sent after every earlier store of the core (R128). -/
def execBarrArrive (d : Reg) (n : BitVec 4) (s : State) : Out :=
  s.atControl fun s =>
    let c := tagCluster s.cur
    let b := getBarrier s c n.toNat
    if b.count = 0 then s.trap 0x03 (0xC300000000000080 + 16 * BitVec.ofNat 64 n.toNat)
    else
      let th := s.th
      let clk := Clock.join th.clock (AMap.getD b.clocks (b.phase - 1).toNat [])
      let s := setBarrier s c n.toNat (b.arrive clk)
      .next (s.setTh { (th.writeX d (zx b.phase)).advance with clock := clk })

/-- `barr.wait` (R300): parks until the phase is complete. -/
def execBarrWait (a : Reg) (n : BitVec 4) (s : State) : Out :=
  let b := getBarrier s (tagCluster s.cur) n.toNat
  let p := lo32 (s.x a)
  if b.complete p then
    let th := s.th
    .next (s.setTh { th.advance with park := .none, clock := Clock.join th.clock (AMap.getD b.clocks p.toNat []) })
  else s.parkOn (.barrier n.toNat p)

/-! ### Loads, stores and atomics, one by one -/

/-- `ld.b` (R278). -/
def execLdB (d a : Reg) (i : BitVec 16) (s : State) : Out := load d a i 1 true s

/-- `ld.bu` (R278). -/
def execLdBu (d a : Reg) (i : BitVec 16) (s : State) : Out := load d a i 1 false s

/-- `ld.h` (R278). -/
def execLdH (d a : Reg) (i : BitVec 16) (s : State) : Out := load d a i 2 true s

/-- `ld.hu` (R278). -/
def execLdHu (d a : Reg) (i : BitVec 16) (s : State) : Out := load d a i 2 false s

/-- `ld.w` (R278). -/
def execLdW (d a : Reg) (i : BitVec 16) (s : State) : Out := load d a i 4 true s

/-- `ld.wu` (R278). -/
def execLdWu (d a : Reg) (i : BitVec 16) (s : State) : Out := load d a i 4 false s

/-- `ld.d` (R278). -/
def execLdD (d a : Reg) (i : BitVec 16) (s : State) : Out := load d a i 8 false s

/-- `st.b` (R278). -/
def execStB (b a : Reg) (i : BitVec 16) (s : State) : Out := store b a i 1 s

/-- `st.h` (R278). -/
def execStH (b a : Reg) (i : BitVec 16) (s : State) : Out := store b a i 2 s

/-- `st.w` (R278). -/
def execStW (b a : Reg) (i : BitVec 16) (s : State) : Out := store b a i 4 s

/-- `st.d` (R278). -/
def execStD (b a : Reg) (i : BitVec 16) (s : State) : Out := store b a i 8 s

/-- `atm.add` (R293). -/
def execAtmAdd (d a b : Reg) (z : BitVec 1) (o c : BitVec 2) (s : State) : Out :=
  atomic .add (atomSize z) d a b o c s

/-- `atm.and` (R293). -/
def execAtmAnd (d a b : Reg) (z : BitVec 1) (o c : BitVec 2) (s : State) : Out :=
  atomic .and (atomSize z) d a b o c s

/-- `atm.or` (R293). -/
def execAtmOr (d a b : Reg) (z : BitVec 1) (o c : BitVec 2) (s : State) : Out :=
  atomic .or (atomSize z) d a b o c s

/-- `atm.xor` (R293). -/
def execAtmXor (d a b : Reg) (z : BitVec 1) (o c : BitVec 2) (s : State) : Out :=
  atomic .xor (atomSize z) d a b o c s

/-- `atm.min` (R293). -/
def execAtmMin (d a b : Reg) (z : BitVec 1) (o c : BitVec 2) (s : State) : Out :=
  atomic .min (atomSize z) d a b o c s

/-- `atm.max` (R293). -/
def execAtmMax (d a b : Reg) (z : BitVec 1) (o c : BitVec 2) (s : State) : Out :=
  atomic .max (atomSize z) d a b o c s

/-- `atm.minu` (R293). -/
def execAtmMinu (d a b : Reg) (z : BitVec 1) (o c : BitVec 2) (s : State) : Out :=
  atomic .minu (atomSize z) d a b o c s

/-- `atm.maxu` (R293). -/
def execAtmMaxu (d a b : Reg) (z : BitVec 1) (o c : BitVec 2) (s : State) : Out :=
  atomic .maxu (atomSize z) d a b o c s

/-- `atm.swap` (R293). -/
def execAtmSwap (d a b : Reg) (z : BitVec 1) (o c : BitVec 2) (s : State) : Out :=
  atomic .swap (atomSize z) d a b o c s

/-- `atm.cas` (R293). -/
def execAtmCas (d a b : Reg) (z : BitVec 1) (o c : BitVec 2) (s : State) : Out :=
  atomic .cas (atomSize z) d a b o c s

/-- `atm.fadd.s` (R293). -/
def execAtmFaddS (d a b : Reg) (o c : BitVec 2) (s : State) : Out := atomic .fadd 4 d a b o c s

end Sys2Proof.Machine
end

