-- ==== Sys2Proof/Machine/Requests.lean ====
section
/-! DEFINITION. Host-assisted requests (R44): the request ring, the requests held while it is full, and answers. -/

namespace Sys2Proof.Machine

/-- The eight words of a record as 64 bytes (R6). -/
def words8Bytes (r : Words8) : List Byte :=
  [r.w0, r.w1, r.w2, r.w3, r.w4, r.w5, r.w6, r.w7].flatMap fun w => bytesOf 8 w.toNat

/-- A record from a list of words; missing words are zero. -/
def words8Of (l : List Word) : Words8 :=
  ⟨l.getD 0 0, l.getD 1 0, l.getD 2 0, l.getD 3 0, l.getD 4 0, l.getD 5 0, l.getD 6 0, l.getD 7 0⟩

def words8List (r : Words8) : List Word := [r.w0, r.w1, r.w2, r.w3, r.w4, r.w5, r.w6, r.w7]

/-- The request ring holds no further record. -/
def ringFull (r : ReqState) : Bool := (r.reqHead - r.reqTail).toNat == 2 ^ r.reqSize.toNat

/-- Writes a request into the ring's next slot. -/
def ringWrite (s : State) (r : HostRequest) : State :=
  let slot := s.req.reqHead.toNat % 2 ^ s.req.reqSize.toNat
  { deviceWrite s (s.req.reqBase.toNat + 64 * slot) (words8Bytes r.body) with
    req := { s.req with reqHead := s.req.reqHead + 1, posted := s.req.posted ++ [r] } }

/-- HOST_REQUEST (R44): a request is posted, or held inside the device while the ring is full. -/
def postRequest (s : State) (fn : Nat) (owner : BitVec 12) (need : HostNeed) (body : Words8) : State :=
  let w0 := BitVec.ofNat 64 (fn * 2 ^ 60 + owner.toNat * 2 ^ 48 + s.req.nextId % 2 ^ 48)
  let r : HostRequest := { reqId := BitVec.ofNat 48 s.req.nextId, need := need, body := { body with w0 := w0 } }
  let s := { s with req := { s.req with nextId := s.req.nextId + 1 } }
  if s.req.held.isEmpty && !ringFull s.req then ringWrite s r
  else { s with req := { s.req with held := s.req.held ++ [r] } }

/-- Held requests are written while there is room; `fuel` of them at most. -/
def ringDrain : Nat → State → State
  | 0, s => s
  | fuel + 1, s =>
    match s.req.held with
    | [] => s
    | r :: rest =>
      if ringFull s.req then s else ringDrain fuel (ringWrite { s with req := { s.req with held := rest } } r)

/-- A request for this need stands, posted or held. -/
def requested (s : State) (p : HostNeed → Bool) : Bool :=
  s.req.posted.any (fun r => p r.need) || s.req.held.any fun r => p r.need

/-- Takes the posted request that an answer repeats word 0 of; an answer to none sets the sticky bit (R44). (DEDUCED, log 44) -/
def takeAnswer (s : State) (fn : Nat) (w0 : Word) : Option (HostRequest × State) :=
  if bits w0 63 60 = fn then
    match s.req.posted.find? fun r => r.body.w0 == w0 with
    | some r => some (r, { s with req := { s.req with posted := s.req.posted.filter fun q => q.reqId != r.reqId } })
    | none => none
  else none

/-- An answer with an unknown request id is discarded and sets bit 0 of offset 0x020. (DEDUCED, log 44) -/
def badAnswer (s : State) : State := { s with req := { s.req with badAns := true } }

/-- Requests that concern an ended record are withdrawn from what the device still holds. (DEDUCED, log 73) -/
def dropRequests (s : State) (p : HostNeed → Bool) : State :=
  { s with req := { s.req with posted := s.req.posted.filter fun r => !(p r.need), held := s.req.held.filter fun r => !(p r.need) } }

end Sys2Proof.Machine
end

