-- ==== Sys2Proof/Machine/Messages.lean ====
section
/-! DEFINITION. Messages and tasks: `send`, `spawn`, the message registers and the core-shared registers (R126,
R130–R132, R301–R304), how messages and spawns arrive, start tasks, wait and spill (R62–R67, R108–R110). -/

namespace Sys2Proof.Machine

/-! ### Sending (R301, R302) -/

/-- The spill engine of the cluster is full, so its undelivered traffic keeps the network from taking more (R110). (DEDUCED, log 26) -/
def networkFull (s : State) (c : Nat) : Bool := (getCluster s c).spill.length ≥ 64

/-- `send a, mN, b` (R301). (DEDUCED, log 26) -/
def execSend (a b : Reg) (n : BitVec 3) (s : State) : Out :=
  let t := s.x a
  if bits t 63 22 ≠ 0 then s.trap 0x09 t
  else if networkFull s (tagCluster s.cur) then s.forfeit
  else
    s.afterRelease fun s =>
      let th := s.th
      let m : Message := { num := s.nextMsg, sender := s.cur, addr := t, target := bits t 21 3, reg := n.toNat, value := s.x b, clock := th.clock, accepted := false, held := false, issued := s.board.clk, crew := th.crew }
      { s with messages := s.messages ++ [m], nextMsg := s.nextMsg + 1 }.parkOn (.send m.num)

/-- The data words of a spawn, read at issue (R302). -/
def spawnWords (s : State) (b : Reg) (k : BitVec 2) : List Word :=
  if k = 0 then [] else if k = 1 then [s.x b] else [s.x b, s.x (b + 1)]

/-- `spawn a, b, k` (R302). (DEDUCED, log 26) -/
def execSpawn (a b : Reg) (k : BitVec 2) (s : State) : Out :=
  let t := s.x a
  if bits t 63 22 ≠ 0 ∨ bits t 13 8 ≠ 0 then s.trap 0x09 t
  else if networkFull s (tagCluster s.cur) then s.forfeit
  else
    s.afterRelease fun s =>
      let th := s.th
      let p : Spawn := { num := s.nextMsg, sender := s.cur, cluster := bits t 21 14, channel := bits t 7 0, words := spawnWords s b k, clock := th.clock, answered := false, issued := s.board.clk, crew := th.crew, owner := ownerOf s s.cur }
      { s with spawns := s.spawns ++ [p], nextMsg := s.nextMsg + 1 }.parkOn (.spawn p.num)

/-! ### Message registers (R303) -/

/-- `mget d, mN` (R303): parks until full; the register empties; the acquire half of the message edge (R217). -/
def execMget (d : Reg) (n : BitVec 3) (s : State) : Out :=
  let th := s.th
  match AMap.find th.m n.toNat with
  | some v =>
    .next (s.setTh { (th.writeX d v).advance with
      m := AMap.erase th.m n.toNat
      mclk := AMap.erase th.mclk n.toNat
      clock := Clock.join th.clock (AMap.getD th.mclk n.toNat [])
      park := .none })
  | none => s.parkOn (.message n.toNat)

/-- `mpeek d, mN` (R303): parks until full; the register stays full. -/
def execMpeek (d : Reg) (n : BitVec 3) (s : State) : Out :=
  match AMap.find s.th.m n.toNat with
  | some v => .next (s.setTh { (s.th.writeX d v).advance with park := .none })
  | none => s.parkOn (.message n.toNat)

/-- The full bits of m0–m7. -/
def ThreadState.fullBits (th : ThreadState) : Nat :=
  ((rangeFrom 8 0).map fun i => if (AMap.find th.m i).isSome then 2 ^ i else 0).sum

/-- `mtest d` (R303). -/
def execMtest (d : Reg) (s : State) : Out := .next (s.put d (BitVec.ofNat 64 s.th.fullBits))

/-! ### Core-shared registers (R126, R304) -/

/-- The value of sN at core clock `t`: the latest write issued at `t - 4` or earlier (R126). -/
def sharedAt (ws : List (Nat × Word)) (t : Nat) : Word :=
  match (ws.filter fun w => w.1 + 4 ≤ t).getLast? with
  | some w => w.2
  | none => 0

/-- The writes of sN that a read at core clock `t` or later may return: of those visible at `t`, the last. -/
def dropShadowed (t : Nat) : List (Nat × Word) → List (Nat × Word)
  | [] => []
  | w :: rest =>
    if w.1 + 4 ≤ t && rest.any (fun v => v.1 + 4 ≤ t) then dropShadowed t rest else w :: dropShadowed t rest

/-- A write of sN at core clock `t`. -/
def sharedWrite (ws : List (Nat × Word)) (t : Nat) (v : Word) : List (Nat × Word) := dropShadowed t ws ++ [(t, v)]

/-- `sget d, sN` (R304). -/
def execSget (d : Reg) (n : BitVec 4) (s : State) : Out :=
  let k := getCore s (tagCore s.cur)
  .next (s.put d (sharedAt (AMap.getD k.s n.toNat []) k.clk))

/-- `sput sN, a` (R304). -/
def execSput (a : Reg) (n : BitVec 4) (s : State) : Out :=
  let k := getCore s (tagCore s.cur)
  let k' := { k with s := AMap.set k.s n.toNat (sharedWrite (AMap.getD k.s n.toNat []) k.clk (s.x a)) }
  .next (setCore s (tagCore s.cur) k').skip

/-! ### Who holds a cluster, and saved crews (R59, R75) -/

/-- A saved crew's slot record of a thread tag. (DEDUCED, log 25) -/
def savedThread (w : Crew) (t : Nat) : Option ThreadState :=
  match w.save with
  | none => none
  | some v => match v.cores.find? fun k => k.core == tagCore t with
    | some k => match AMap.find k.threads (tagSlot t) with
      | some th => if th.live then some th else none
      | none => none
    | none => none

/-- A pre-empted crew of the owner has its cores on the cluster (R75). -/
def savedCrewOn (s : State) (c : Nat) (o : BitVec 12) : Bool :=
  s.crews.any fun e => e.2.phase == .saved && e.2.cluster == c && e.2.owner == o

/-- The checks of R131 on a message's target. (DEDUCED, log 25) -/
def targetGood (s : State) (t : Nat) (o : BitVec 12) : Bool :=
  let k := tagCore t
  if k % 128 ≥ 96 then false
  else
    let th := getThread s t
    let here := holder s (tagCluster t) == some o && th.live
      && (match getCrew s th.crew with | some w => w.owner == o | none => false)
    let away := s.crews.any fun e => e.2.phase == .saved && e.2.owner == o && (savedThread e.2 t).isSome
    here || away

/-! ### Arrival of a send (R131) -/

def dropMessage (s : State) (num : Nat) : State := { s with messages := s.messages.filter fun m => m.num != num }

/-- The parked sender of message or spawn `num` goes on. -/
def resumeSender (s : State) (t num : Nat) : State :=
  let th := getThread s t
  if th.park = .send num ∨ th.park = .spawn num then setThread s t { th.advance with park := .none } else s

/-- The parked sender takes cause 0x09. -/
def refuseSender (s : State) (t num : Nat) (v : Word) : State :=
  let th := getThread s t
  if th.park = .send num ∨ th.park = .spawn num then takeTrap (setThread s t { th with park := .none }) t 0x09 v th.pc
  else s

/-- SEND_ARRIVES (R131): the target cluster checks the message and answers. -/
def execSendArrives (msg : Nat) (s : State) : Out :=
  match s.messages.find? fun m => m.num == msg && !m.accepted with
  | none => .next s
  | some m =>
    if targetGood s m.target (ownerOf s m.sender) then
      let s := { s with messages := s.messages.map fun q => if q.num == msg then { q with accepted := true } else q }
      .next (resumeSender s m.sender msg)
    else .next (refuseSender (dropMessage s msg) m.sender msg m.addr)

/-! ### Delivery (R132) -/

/-- Items of the spill engine and of the spill areas. -/
def allSpilled (s : State) : List SpillItem :=
  s.clusters.flatMap (fun e => e.2.spill) ++ s.crews.flatMap fun e => e.2.spilled

/-- An earlier message of the same sender to the same register is not yet delivered (R132). -/
def earlierMessage (s : State) (m : Message) : Bool :=
  let same := fun (q : Message) => q.sender == m.sender && q.target == m.target && q.reg == m.reg && q.num < m.num
  s.messages.any same || (allSpilled s).any fun i => match i with | .message q => same q | .spawn _ => false

/-- The message fills its register. -/
def fillRegister (s : State) (m : Message) : State :=
  let th := getThread s m.target
  setThread s m.target { th with m := AMap.set th.m m.reg m.value, mclk := AMap.set th.mclk m.reg m.clock }

/-- Whether the target's register is empty. -/
def registerEmpty (s : State) (m : Message) : Bool :=
  (getThread s m.target).live && (AMap.find (getThread s m.target).m m.reg).isNone

/-- Messages in the holding buffer of a core, in the order they reached it. -/
def heldOn (s : State) (k : Nat) : List Message := s.messages.filter fun m => m.held && tagCore m.target == k

/-- A message can fill its register now: the register is empty, no earlier message of the sender is on its way, and it
is the oldest held for the register, or none is held. -/
def canFill (s : State) (m : Message) : Bool :=
  registerEmpty s m && !earlierMessage s m
    && (match (heldOn s (tagCore m.target)).find? fun q => q.target == m.target && q.reg == m.reg with
        | some q => q.num == m.num
        | none => true)

/-- MESSAGE_DELIVERY (R132): an accepted message fills its register, or takes a place of the holding buffer. -/
def execMessageDelivery (msg : Nat) (s : State) : Out :=
  match s.messages.find? fun m => m.num == msg && m.accepted with
  | none => .next s
  | some m =>
    if canFill s m then .next (fillRegister (dropMessage s msg) m)
    else if !m.held && !earlierMessage s m && (getThread s m.target).live
        && decide ((heldOn s (tagCore m.target)).length < 16) then
      .next { s with messages := (s.messages.filter fun q => q.num != msg) ++ [{ m with held := true }] }
    else .next s

/-! ### The spill area (R108) -/

/-- The four words of a spill entry (R108). -/
def SpillItem.words : SpillItem → List Word
  | .message m => [BitVec.ofNat 64 (2 ^ 62 + m.reg * 2 ^ 59 + bits m.addr 21 0), m.value, 0, 0]
  | .spawn p =>
    [BitVec.ofNat 64 (2 ^ 63 + p.cluster * 2 ^ 14 + p.channel), p.words.getD 0 0, p.words.getD 1 0,
     BitVec.ofNat 64 p.words.length]

def SpillItem.crew : SpillItem → Nat
  | .message m => m.crew
  | .spawn p => p.crew

def SpillItem.num : SpillItem → Nat
  | .message m => m.num
  | .spawn p => p.num

def SpillItem.sender : SpillItem → Nat
  | .message m => m.sender
  | .spawn p => p.sender

/-- Event 0x0A for a crew, with the spill address that failed (R103, R110). -/
def spillFailed (s : State) (crew : Nat) (va : Word) : State := crewEvent s crew 0x0A va

/-- The key of a word of a spill area, and whether its page is of the home class: by the TLBs or a walk of the device's own; none where
the write meets a fault. -/
def areaKey (s : State) (c : Nat) (o : BitVec 12) (va : Word) : Option (Nat × Bool) :=
  match spaceOf c none va 8 with
  | .global =>
    match xlate s c o va .write with
    | .hit key cls _ => some (key, cls == 1)
    | .denied => none
    | .miss => match walk s (getOwner s o).root va with
      | .leaf p big => if Want.allowed .write p then some (leafKey va p big, pteClass p == 1) else none
      | _ => none
  | _ => none

/-- The device's write of one word of a spill area, performed at its home; in a reconcile or stream page it joins the write set (R220). -/
def areaWord (s : State) (c : Nat) (o : BitVec 12) (va : Word) (key : Nat) (home : Bool) (v : Word) : State :=
  let s := claimLine s key (keyOf s o) (bits va 54 6)
  let w : Writer :=
    { agent := 0, core := none, cluster := 0, stamp := s.nextWrite, clock := AMap.set (getCluster s c).spillClk 0 s.nextWrite, flagAt := none }
  if home then homeWrite s key (bytesOf 8 v.toNat) w [] else trackedHomeWrite s key (bytesOf 8 v.toNat) w []

/-- Writes words of a crew's area from `va` upward; one that meets a fault is a spill failure (R110). -/
def areaWords (s : State) (crew c : Nat) (o : BitVec 12) (va : Word) : List Word → State
  | [] => s
  | v :: rest =>
    let s := match areaKey s c o va with
      | some (key, home) => areaWord s c o va key home v
      | none => spillFailed s crew va
    areaWords s crew c o (va + 8) rest

/-- The area's first three words (R108). -/
def areaHeader (s : State) (crew : Nat) (w : Crew) : State :=
  areaWords s crew w.cluster w.owner w.spillVa [BitVec.ofNat 64 w.spillWr, BitVec.ofNat 64 w.spillRd, BitVec.ofNat 64 (w.spillCur * 2 ^ 16)]

/-- `n` entries have left a crew's area. When the read offset reaches the write offset both return to zero (R108). How far the read offset
moves when an entry is passed over the spec leaves open: it moves by 32 for each entry that leaves. (DESIGN CHOICE, log 83) -/
def Crew.leaveArea (w : Crew) (left : List SpillItem) (n : Nat) : Crew :=
  if left.isEmpty then { w with spilled := [], spillWr := 0, spillRd := 0, spillAt := [] }
  else { w with spilled := left, spillRd := w.spillRd + 32 * n }

/-- The entries of one crew's area that `keep` turns away are discarded. -/
def pruneArea (keep : SpillItem → Bool) (s : State) (crew : Nat) : State :=
  match getCrew s crew with
  | none => s
  | some w =>
    let left := w.spilled.filter keep
    if left.length = w.spilled.length then s
    else
      let w' := w.leaveArea left (w.spilled.length - left.length)
      areaHeader (setCrew s crew w') crew w'

/-- The items of every spill engine and area that `keep` turns away are discarded. -/
def pruneSpills (s : State) (keep : SpillItem → Bool) : State :=
  let s : State := { s with clusters := s.clusters.map fun e => (e.1, { e.2 with spill := e.2.spill.filter keep }) }
  (s.crews.map (·.1)).foldl (pruneArea keep) s

/-- Messages for a slot whose thread has ended are discarded (R132, R321). -/
def discardFor (s : State) (t : Nat) : State :=
  pruneSpills { s with messages := s.messages.filter fun m => !(m.accepted && m.target == t) } fun i =>
    match i with
    | .message q => q.target != t
    | .spawn _ => true

/-! ### Tasks (R62–R67) -/

def taskValid (w1 : Word) : Bool := bitAt w1 63 && !bitAt w1 62
def taskPrio (w1 : Word) : Nat := bits w1 60 59

/-- Cores a task entry allows, lowest first (R65): assigned to a crew of the owner that runs. -/
def allowedCores (s : State) (c : Nat) (o : BitVec 12) (w1 : Word) : List Nat :=
  let mine := fun (k : Nat) => match (getCore s k).crew with
    | some w => match getCrew s w with
      | some w => w.owner == o && w.phase == .running
      | none => false
    | none => false
  if bitAt w1 61 || bits w1 58 52 ≥ 96 then (rangeFrom 96 (c * 128)).filter mine
  else [c * 128 + bits w1 58 52].filter mine

/-- The lowest free slot of a core. -/
def freeSlot (s : State) (k : Nat) : Option Nat := firstIndex (fun i => !(getThread s (coreTag k i)).live) 16 0

/-- The first core of a list with a free slot, and the slot. -/
def firstFree (s : State) : List Nat → Option (Nat × Nat)
  | [] => none
  | k :: rest => match freeSlot s k with
    | some i => some (k, i)
    | none => firstFree s rest

/-- A task thread's state at its start (R56, R67). -/
def taskThread (s : State) (k slot entry ch x7 : Nat) (ms : AMap Word) (clk : Clock) : ThreadState :=
  let cid := (getCore s k).crew.getD 0
  let ix := match getCrew s cid with | some w => w.index | none => 0
  let r := match getCrew s cid with | some w => AMap.find s.records w.record | none => none
  let w4 := match r with | some r => r.words.w4 | none => 0
  let w5 := match r with | some r => r.words.w5 | none => 0
  { live := true, crew := cid, launch := false, x := [(4, BitVec.ofNat 64 ch), (5, BitVec.ofNat 64 ix), (6, w4), (7, BitVec.ofNat 64 x7)], pc := BitVec.ofNat 64 (entry * 4), m := ms, tvec := w5 &&& ~~~3, thid := BitVec.ofNat 64 (coreTag k slot), crix := BitVec.ofNat 64 ix, agent := s.nextAgent, clock := clk }

/-- A task starts on a slot. -/
def startTask (s : State) (c k slot ch x7 : Nat) (ms : AMap Word) (clk : Clock) : State :=
  let th := taskThread s k slot (bits (getTask s c (2 * ch)) 63 2) ch x7 ms clk
  { enlistFor (setThread s (coreTag k slot) th) (coreTag k slot) th.agent with nextAgent := s.nextAgent + 1 }

/-- A spawn's words as m0 and m1 (R67). -/
def Spawn.regs (p : Spawn) : AMap Word := (rangeFrom p.words.length 0).zip p.words

/-- A spawn starts its task. -/
def startSpawn (s : State) (p : Spawn) (k slot : Nat) : State :=
  startTask s p.cluster k slot p.channel p.sender p.regs p.clock

/-- The place a spawn may start on now: its entry is valid and unblocked, and an allowed core has a free slot (R65). -/
def spawnPlace (s : State) (p : Spawn) : Option (Nat × Nat) :=
  let w1 := getTask s p.cluster (2 * p.channel + 1)
  if taskValid w1 then firstFree s (allowedCores s p.cluster p.owner w1) else none

/-- Pending spawns in the order of R66: highest PRIO first, then oldest. -/
def pendingOrder (s : State) (c : Nat) : List Spawn :=
  let q := (getCluster s c).pendingQ
  (rangeFrom 4 0).reverse.flatMap fun pr => q.filter fun p => taskPrio (getTask s c (2 * p.channel + 1)) == pr

/-- The eligible pending spawn of the highest priority that a free slot's core allows starts (R66). -/
def startPending (s : State) (c : Nat) : Option State :=
  match (pendingOrder s c).find? fun p => (spawnPlace s p).isSome with
  | none => none
  | some p =>
    match spawnPlace s p with
    | none => none
    | some (k, i) =>
      let s := startSpawn s p k i
      let cl := getCluster s c
      some (setCluster s c { cl with pendingQ := cl.pendingQ.filter fun q => q.num != p.num })

/-- Pending spawns that may start do; `fuel` of them at most. -/
def drainPending : Nat → State → Nat → State
  | 0, s, _ => s
  | fuel + 1, s, c => match startPending s c with
    | some s' => drainPending fuel s' c
    | none => s

/-- The cluster can take the spawn now, or it starts at once, behind every pending spawn that may start (R65, R66). -/
def takeSpawn (s : State) (p : Spawn) : Option State :=
  let s := drainPending (getCluster s p.cluster).pendingQ.length s p.cluster
  let cl := getCluster s p.cluster
  if holder s p.cluster == some p.owner then
    match spawnPlace s p with
    | some (k, i) =>
      if cl.pendingQ.any fun q => q.channel == p.channel then
        (if cl.pendingQ.length < 32 then some (setCluster s p.cluster { cl with pendingQ := cl.pendingQ ++ [p] }) else none)
      else some (startSpawn s p k i)
    | none =>
      if cl.pendingQ.length < 32 then some (setCluster s p.cluster { cl with pendingQ := cl.pendingQ ++ [p] }) else none
  else none

/-- An earlier spawn of the same cluster and channel waits ahead of this one: in the network of the cluster, or, from
the same sender, in a spill area (R66, R109). -/
def earlierSpawn (s : State) (p : Spawn) : Bool :=
  let same := fun (q : Spawn) => q.cluster == p.cluster && q.channel == p.channel && q.num < p.num
  (getCluster s p.cluster).waitingQ.any same
    || (allSpilled s).any fun i => match i with | .spawn q => same q && q.sender == p.sender | .message _ => false

/-- SPAWN_ARRIVES (R64–R66): the target cluster answers; then the task starts, enters the pending queue, or waits. -/
def execSpawnArrives (msg : Nat) (s : State) : Out :=
  match s.spawns.find? fun p => p.num == msg with
  | some p =>
    let s' := { s with spawns := s.spawns.filter fun q => q.num != msg }
    if holder s p.cluster == some p.owner || savedCrewOn s p.cluster p.owner then
      let s' := resumeSender s' p.sender msg
      let p := { p with answered := true }
      let cl := getCluster s' p.cluster
      let wait := setCluster s' p.cluster { cl with waitingQ := cl.waitingQ ++ [p] }
      .next (if earlierSpawn s' p then wait else (takeSpawn s' p).getD wait)
    else .next (refuseSender s' p.sender msg (BitVec.ofNat 64 (p.cluster * 2 ^ 14 + p.channel)))
  | none =>
    match s.clusters.findSome? fun e => e.2.waitingQ.find? fun p => p.num == msg with
    | none => .next s
    | some p =>
      if earlierSpawn s p then .next s
      else
        match takeSpawn s p with
        | none => .next s
        | some s' =>
          let cl := getCluster s' p.cluster
          .next (setCluster s' p.cluster { cl with waitingQ := cl.waitingQ.filter fun q => q.num != msg })

/-- PENDING_TASK_START (R66): the eligible pending spawn of the highest priority that a free slot's core allows starts. -/
def execPendingTaskStart (cluster : Nat) (s : State) : Out := .next ((startPending s cluster).getD s)

/-! ### Spill (R108–R110) -/

/-- What a spill area's write of 8 bytes at `va` meets. -/
inductive SpillReach where
  | good (key : Nat)
  | bad
  | walking
  deriving DecidableEq, Repr

def spillReach (s : State) (c : Nat) (o : BitVec 12) (va : Word) : SpillReach :=
  match spaceOf c none va 8 with
  | .global =>
    match xlate s c o va .write with
    | .hit key _ _ => .good key
    | .denied => .bad
    | .miss => .walking
  | _ => .bad

/-- A spill write that meets no reachable word waits for its walk, or is a failure (R94, R110). -/
def spillMiss (s : State) (c crew : Nat) (o : BitVec 12) (va : Word) : SpillReach → State
  | .good _ => s
  | .bad => spillFailed s crew va
  | .walking =>
    let s := if alreadyWaits s (clusterDie c) (pageOf va) (.spill c) then s
      else startWalk s (clusterDie c) o { who := .spill c, va := va, kind := 10 }
    if faultEntry s (clusterDie c) o (pageOf va) then spillFailed s crew va else s

/-- One attempt of the spill engine to write an item to its crew's area (R108, R110); the answer is the new state and
whether the item left the engine. -/
def spillItem (s : State) (c : Nat) (i : SpillItem) : State × Bool :=
  match getCrew s i.crew with
  | none => (s, true)
  | some w =>
    let va := w.spillVa + BitVec.ofNat 64 (0x40 + w.spillWr)
    let need := 0x40 + w.spillWr + 32
    let assisted := (getOwner s w.owner).modes.getLsbD 4
    if need ≤ w.spillCur * 2 ^ 16 ∨ (assisted = false ∧ w.spillCur + 1 ≤ 16 * w.spillDecl) then
      match spillReach s c w.owner w.spillVa, spillReach s c w.owner va with
      | .good _, .good _ =>
        let cur := if need ≤ w.spillCur * 2 ^ 16 then w.spillCur else w.spillCur + 1
        let w := { w with spilled := w.spilled ++ [i], spillWr := w.spillWr + 32, spillCur := cur, spillAt := AMap.set w.spillAt i.num w.spillWr }
        (areaHeader (areaWords (setCrew s i.crew w) i.crew c w.owner va i.words) i.crew w, true)
      | .good _, r => (spillMiss s c i.crew w.owner va r, false)
      | r, _ => (spillMiss s c i.crew w.owner w.spillVa r, false)
    else if assisted then
      let r := w.record
      if requested s fun n => n == .spill r w.index then (s, false)
      else
        let body := words8Of [0, BitVec.ofNat 64 (r * 2 ^ 16), BitVec.ofNat 64 (w.index * 2 ^ 44), w.spillVa, BitVec.ofNat 64 w.spillCur]
        (postRequest s 4 w.owner (.spill r w.index) body, false)
    else (spillFailed s i.crew va, false)

/-- Undelivered 1,024 clk after issue (R108). (DEDUCED, log 24) -/
def overdue (s : State) (issued : Nat) : Bool := issued + 1024 ≤ s.board.clk

/-- An item enters a cluster's spill engine; the engine's 1,024 clk count from the first (R110). -/
def enterEngine (s : State) (c : Nat) (i : SpillItem) : State :=
  let cl := getCluster s c
  setCluster s c { cl with spill := cl.spill ++ [i], spillTried := if cl.spill.isEmpty then s.board.clk else cl.spillTried }

/-- Two items go to one message register, or to one cluster and channel (R109). -/
def SpillItem.sameTarget : SpillItem → SpillItem → Bool
  | .message a, .message b => a.target == b.target && a.reg == b.reg
  | .spawn a, .spawn b => a.cluster == b.cluster && a.channel == b.channel
  | _, _ => false

/-- An item enters the engine, which tries to write it unless an item for the same target stands before it (R109). -/
def engineTakes (s : State) (c : Nat) (i : SpillItem) : State :=
  let wait := (getCluster s c).spill.any fun j => j.sameTarget i
  let s := enterEngine s c i
  if wait then s
  else
    let (s, gone) := spillItem s c i
    if gone then setCluster s c { getCluster s c with spill := (getCluster s c).spill.erase i } else s

/-- An item that its sender sent to the same target before this one is still in the network (R109). -/
def overtakes (s : State) (i : SpillItem) : Bool :=
  let before := fun (j : SpillItem) => j.sender == i.sender && j.sameTarget i && decide (j.num < i.num)
  s.messages.any (fun m => before (.message m)) || s.spawns.any (fun p => before (.spawn p))
    || s.clusters.any fun e => e.2.waitingQ.any fun p => before (.spawn p)

/-- SPILL (R108, R110): an overdue message or spawn enters its sender's spill engine, which tries to write it; behind every earlier one of
its sender to the same target (R109). (DEDUCED, log 24) -/
def execSpill (msg : Nat) (s : State) : Out :=
  match s.messages.find? fun m => m.num == msg && m.accepted with
  | some m =>
    let c := tagCluster m.sender
    let cl := getCluster s c
    if overdue s m.issued && (getCrew s m.crew).isSome && decide (cl.spill.length < 64) && !overtakes s (.message m) then
      .next (engineTakes (dropMessage s msg) c (.message m))
    else .next s
  | none =>
    match s.clusters.findSome? fun e => e.2.waitingQ.find? fun p => p.num == msg with
    | none => .next s
    | some p =>
      let c := tagCluster p.sender
      if overdue s p.issued && (getCrew s p.crew).isSome && decide ((getCluster s c).spill.length < 64) && !overtakes s (.spawn p) then
        let tgt := getCluster s p.cluster
        let s := setCluster s p.cluster { tgt with waitingQ := tgt.waitingQ.filter fun q => q.num != msg }
        .next (engineTakes s c (.spawn p))
      else .next s

/-- The target cluster of an item no longer holds the crew's owner (R68, R109). -/
def itemLost (s : State) (o : BitVec 12) (i : SpillItem) : Bool :=
  let c := match i with | .message m => tagCluster m.target | .spawn p => p.cluster
  !(holder s c == some o || savedCrewOn s c o)

/-- The state after an item is delivered, if its target can take it now. -/
def deliverItem (s : State) (i : SpillItem) : Option State :=
  match i with
  | .message m =>
    if canFill s m then some (fillRegister s m)
    else if (getThread s m.target).live && !earlierMessage s m && decide ((heldOn s (tagCore m.target)).length < 16) then
      some { s with messages := s.messages ++ [{ m with held := true }] }
    else none
  | .spawn p => takeSpawn s p

/-- The first entry of an area that can leave it, and the state after (R109). -/
def firstDelivery (s : State) (o : BitVec 12) (before : List SpillItem) : List SpillItem → Option (SpillItem × State)
  | [] => none
  | i :: rest =>
    if itemLost s o i then some (i, s)
    else if before.any fun j => j.sameTarget i then firstDelivery s o (before ++ [i]) rest
    else match deliverItem s i with
      | some s' => some (i, s')
      | none => firstDelivery s o (before ++ [i]) rest

/-- Entries of the crew's area, oldest first. -/
def areaItems (s : State) (crew : Nat) : List SpillItem :=
  match getCrew s crew with
  | some w => w.spilled
  | none => []

/-- One item of the engine is tried again: it goes to its target where that can take it and no earlier entry for the same target
stands before it, else to the area (R109, R110). -/
def retryItem (s : State) (c : Nat) (before : List SpillItem) (i : SpillItem) : State × Bool :=
  match getCrew s i.crew with
  | none => (s, true)
  | some w =>
    if itemLost s w.owner i then (s, true)
    else if before.any fun j => j.sameTarget i then (s, false)
    else if (areaItems s i.crew).any fun j => j.sameTarget i then spillItem s c i
    else match deliverItem s i with
      | some s' => (s', true)
      | none => spillItem s c i

/-- The engine tries each item again, in order. -/
def retryAll (s : State) (c : Nat) (before : List SpillItem) : List SpillItem → State
  | [] => s
  | i :: rest =>
    let (s, gone) := retryItem s c before i
    if gone then
      let cl := getCluster s c
      retryAll (setCluster s c { cl with spill := cl.spill.erase i }) c before rest
    else retryAll s c (before ++ [i]) rest

/-- SPILL_RETRY (R110): every 1,024 clk the engine tries its items again. (DEDUCED, log 24) -/
def execSpillRetry (cluster : Nat) (s : State) : Out :=
  let cl := getCluster s cluster
  if cl.spill.isEmpty || decide (s.board.clk < cl.spillTried + 1024) then .next s
  else .next (retryAll (setCluster s cluster { cl with spillTried := s.board.clk }) cluster [] cl.spill)

/-- The bytes of an entry of an area are not those that the device wrote: the program wrote the area, so the entry may be lost or delivered
twice (R108). -/
def areaTouched (s : State) (w : Crew) (i : SpillItem) : Bool :=
  match AMap.find w.spillAt i.num with
  | none => false
  | some off =>
    let va := w.spillVa + BitVec.ofNat 64 (0x40 + off)
    match areaKey s w.cluster w.owner va with
    | some (key, _) => decide (s.bytesAt 32 key ≠ i.words.flatMap fun v => bytesOf 8 v.toNat)
    | none => false

/-- SPILL_DELIVER (R109): the first entry of a crew's area that its target can take is delivered. Of an entry that a program wrote over the
device delivers it, loses it, or delivers it and keeps it (R108). -/
def execSpillDeliver (crew : Nat) (s : State) : Out :=
  match getCrew s crew with
  | none => .next s
  | some w =>
    let s0 := setCrew s crew { w with spilled := [] }
    match firstDelivery s0 w.owner [] w.spilled with
    | none => .next s
    | some (i, s') =>
      let fate := if areaTouched s w i then s.choose 24 3 else 0
      let s' := { (if fate = 1 then s0 else s') with fresh := s.fresh + (if areaTouched s w i then 1 else 0) }
      if fate = 2 then .next (setCrew s' crew w)
      else
        let w' := w.leaveArea (w.spilled.erase i) 1
        .next (areaHeader (setCrew s' crew w') crew w')

end Sys2Proof.Machine
end

