-- ==== Sys2Proof/Machine/Engine.lean ====
section
/-! DEFINITION. Accesses by agents that are no thread: stream commands, memory cells, the ring controller (R93, R101,
R133, R173): where an address points, what a read returns, how a write and an atomic addition are performed. -/

namespace Sys2Proof.Machine

/-- Where an engine's access goes. -/
inductive Reach where
  /-- Home-located bytes: a scratchpad, a memory cell, or a home-class page. -/
  | home (key : Nat) (flagAt : Option Nat)
  /-- Bytes of a reconcile or stream page. -/
  | cached (key : Nat) (flagAt : Option Nat)
  /-- An access fault (R92), or a bay written while a voyage is active (R145). -/
  | denied
  /-- No translation in a TLB. -/
  | missing
  deriving DecidableEq, Repr

/-- Where an access of `n` bytes by an engine of `cluster` for owner `o` goes; `own` is the core of the own-core alias. -/
def reach (s : State) (cluster : Nat) (own : Option Nat) (o : BitVec 12) (va : Word) (n : Nat) (w : Want) : Reach :=
  match spaceOf cluster own va n with
  | .invalid => .denied
  | .control _ => .denied
  | .cell key => .home key none
  | .pad k off => if w != .read && inBay off n && voyageActive s cluster then .denied else .home (padKey k off) none
  | .global =>
    match xlate s cluster o va w with
    | .hit key cls fl => if cls == 1 then .home key fl else .cached key fl
    | .denied => .denied
    | .miss => .missing

/-- As `reach`, for an access that its agent makes at once: where no TLB holds the translation it is walked (R93). -/
def reachWalk (s : State) (cluster : Nat) (own : Option Nat) (o : BitVec 12) (va : Word) (n : Nat) (w : Want) : Reach :=
  match reach s cluster own o va n w with
  | .missing =>
    match walk s (getOwner s o).root va with
    | .leaf p big =>
      let key := leafKey va p big
      let fl := if pteTT p then frameHeader key else none
      if !w.allowed p then .denied else if pteClass p == 1 then .home key fl else .cached key fl
    | _ => .missing
  | r => r

/-- The page of an address is of the stream class, for an agent of cluster `c`, or for one outside every cluster (R212). -/
def streamPage (s : State) (c : Option Nat) (o : BitVec 12) (va : Word) : Bool :=
  match c.bind fun c => tlbFind s c o (pageOf va) with
  | some e => pteClass e.pte == 2
  | none => match walk s (getOwner s o).root va with
    | .leaf p _ => pteClass p == 2
    | _ => false

/-- The bytes of a reconcile or stream page, and the release ends behind each (R212, R218, R221): an agent of no cluster has no dirty bytes. -/
def cachedBytes (s : State) (c : Option Nat) (o : BitVec 12) (clk : Clock) (va : Word) (n key : Nat) : List (Byte × List RelEnd) :=
  if streamPage s c o va then
    (rangeFrom n key).map fun x => match c with
      | some c => streamByte s c none 0 x
      | none => (s.byteAt x, AMap.getD s.homeRel x [])
  else ((rangeFrom n key).zip (loadFrontier s clk none 0 key n)).map fun e => (e.2.1, byteEnds s e.1 e.2)

/-- A read meets uncorrectable bytes (R118): at their home, or dirty in the cluster's cache. -/
def readBad (s : State) (c : Option Nat) (key n : Nat) (cached : Bool) : Bool :=
  if cached then (rangeFrom n key).any fun x => match c.bind fun c => topDirty s c none 0 x with
    | some w => w.bad
    | none => poisoned s x 1
  else poisoned s key n

/-- An access of `n` bytes at a key by an agent whose clock is `clk` cannot be made yet: a write of these bytes that happens before it is on
its way, or one that its clear of a tile flag follows (R148, R214, R224). (DEDUCED, log 16) -/
def engineWaits (s : State) (clk : Clock) (key n : Nat) (flagAt : Option Nat) : Bool := writeAhead s clk key n || headerWaits s clk flagAt

/-- Nothing that happens before the clock is still on its way to a home. (DEDUCED, log 16) -/
def allHome (s : State) (clk : Clock) : Bool :=
  !(s.posted.any fun p => decide (p.stamp ≤ AMap.getD clk p.agent 0))
    && !(s.writes.any fun w => !w.initial && !w.arrived && w.before clk && w.heldBack s)

/-- A read of at most 8 bytes at a key: its bytes, and whether they are bad (poisoned). Bytes under another key are free
values (R46). -/
def readAt (s : State) (c : Option Nat) (o : BitVec 12) (clk : Clock) (va : Word) (n : Nat) (key : Nat) (cached : Bool) :
    List Byte × Bool :=
  if readBad s c key n cached then (freeBytes s key n, true)
  else if globalKey key && lineForeign s key (keyOf s o) (bits va 54 6) then (freeBytes s key n, false)
  else if cached then ((cachedBytes s c o clk va n key).map (·.1), false)
  else (s.bytesAt n key, false)

/-- The release ends that a read takes its bytes from (R218). -/
def readEnds (s : State) (c : Option Nat) (o : BitVec 12) (clk : Clock) (va : Word) (n : Nat) (key : Nat) (cached : Bool) : List RelEnd :=
  if cached then ((cachedBytes s c o clk va n key).map (·.2)).flatten else homeEnds s key n

/-- What an engine's read meets. -/
inductive Got where
  | got (bytes : List Byte) (bad : Bool)
  | denied (va : Word)
  | missing (va : Word)
  /-- A write that happens before the read is on its way: the read waits (R214, R224). -/
  | wait
  deriving DecidableEq, Repr

/-- A read at a key of a page, once what happens before it is home. -/
def gotAt (s : State) (cluster : Nat) (o : BitVec 12) (clk : Clock) (va : Word) (n key : Nat) (cached : Bool) : Got :=
  if engineWaits s clk key n none then .wait
  else
    let r := readAt s (some cluster) o clk va n key cached
    .got r.1 r.2

/-- A read of at most 8 bytes, within one page. -/
def engineRead (s : State) (cluster : Nat) (own : Option Nat) (o : BitVec 12) (clk : Clock) (va : Word) (n : Nat)
    (w : Want) : Got :=
  match reach s cluster own o va n w with
  | .home key _ => gotAt s cluster o clk va n key false
  | .cached key _ => gotAt s cluster o clk va n key true
  | .denied => .denied va
  | .missing => .missing va

/-- Reads `m` words of 8 bytes from an 8-aligned address upward. -/
def engineWords (s : State) (cluster : Nat) (own : Option Nat) (o : BitVec 12) (clk : Clock) (w : Want) :
    Nat → Word → List Byte → Bool → Got
  | 0, _, acc, bad => .got acc bad
  | m + 1, va, acc, bad =>
    match engineRead s cluster own o clk va 8 w with
    | .got bs b => engineWords s cluster own o clk w m (va + 8) (acc ++ bs) (bad || b)
    | r => r

/-- Bytes as words of 8 bytes. -/
def wordsOf : Nat → List Byte → List Word
  | 0, _ => []
  | n + 1, bs => BitVec.ofNat 64 (ofBytes (bs.take 8)) :: wordsOf n (bs.drop 8)

/-- A write by an engine of a cluster, in a line claimed for the owner's key: to a reconcile or stream page it is performed in the cluster's
cache (R212), to another place at its home (R224). `bad` marks the bytes poisoned (R118). -/
def engineWriteAt (s : State) (o : BitVec 12) (w : Writer) (va : Word) (key : Nat) (cached : Bool) (bs : List Byte)
    (bad : Bool) : State :=
  let s := claimLine s key (keyOf s o) (bits va 54 6)
  if cached then cacheWrite s key bs w [] bad
  else
    let s := homeWrite s key bs w []
    if bad then markBad s key bs.length else s

/-- As `engineWriteAt`, by an agent with no cache of its own, or written back at once: at the home (R224), with release ends. -/
def homeWriteAt (s : State) (o : BitVec 12) (w : Writer) (va : Word) (key : Nat) (cached : Bool) (bs : List Byte)
    (rel : List RelEnd) : State :=
  let s := claimLine s key (keyOf s o) (bits va 54 6)
  if cached then trackedHomeWrite s key bs w rel else homeWrite s key bs w rel

/-- Writes of an agent stand dirty in the cache of a cluster. -/
def dirtyOf (s : State) (cluster agent : Nat) : Bool :=
  s.writes.any fun w => !w.initial && !w.arrived && w.cluster == cluster && w.agent == agent

/-- An agent's writes are written back from the cache of its cluster (R212, R325). -/
def flushAgent (s : State) (cluster agent : Nat) : State := flushWrites s cluster fun w => w.agent == agent

/-- A writer that is no thread: its clock counts the write. -/
def engineWriter (agent : Nat) (cluster : Nat) (clk : Clock) (flagAt : Option Nat) : Writer :=
  let n := AMap.getD clk agent 0 + 1
  { agent := agent, core := none, cluster := cluster, stamp := n, clock := AMap.set clk agent n, flagAt := flagAt }

/-- The clock after one more write of the agent. -/
def Clock.tick (clk : Clock) (agent : Nat) : Clock := AMap.set clk agent (AMap.getD clk agent 0 + 1)

/-- An addition of R334: f32 rounded once (0), i32 (1) or i64 (2) modulo its width. -/
def addElem (kind old v : Nat) : Nat :=
  match kind with
  | 0 => addF32 old v
  | 1 => (old + v) % 2 ^ 32
  | _ => (old + v) % 2 ^ 64

/-- An atomic addition of an element of `n` bytes at its home (R160, R334); to a poisoned element it gives an unspecified value, which stays
poisoned (R118). -/
def atomicAdd (s : State) (o : BitVec 12) (w : Writer) (va : Word) (key : Nat) (cached : Bool) (n kind v : Nat) : State :=
  let s := claimLine s key (keyOf s o) (bits va 54 6)
  let s := if cached then flushLine s w.cluster key else s
  if poisoned s key n then markBad (rmwWrite s key (freeBytes s key n) w cached []) key n
  else rmwWrite s key (bytesOf n (addElem kind (ofBytes (s.bytesAt n key)) v)) w cached []

end Sys2Proof.Machine
end

