-- ==== Sys2Proof/Machine/Tiles.lean ====
section
/-! DEFINITION. The tile engine (R134–R138, R231–R241, R308–R314): the checks and queueing of the tile instructions, the
engine's arithmetic, TILE_START and TILE_COMPLETE. -/

namespace Sys2Proof.Machine

/-- The word of an instruction, as `tval` holds it (R103). -/
def instrWord (i : Instr) : Word := zx ((encode i).getD 0)

/-! ### Formats and pairs (R146, R310) -/

/-- The floating-point format of a tile format code. -/
def tileFmt (c : BitVec 3) : Option Fmt :=
  match c.toNat with
  | 0 => some f16
  | 1 => some bf16
  | 2 => some e4m3
  | 3 => some e5m2
  | 5 => some f32
  | _ => none

/-- The pairs `tmma` accepts (R310); fb = 6 is sd. -/
def pairGood (fa fb : BitVec 3) : Bool :=
  if fb == 6 then fa == 0 || fa == 1 || fa == 2
  else if fa == 2 || fa == 3 then fb == 2 || fb == 3
  else fa == fb && (fa == 0 || fa == 1 || fa == 4 || fa == 5)

/-! ### Arithmetic (R231–R234, R239) -/

/-- How the engine reads its operands: `n` bytes at an offset. -/
abbrev Reader := Nat → Nat → Nat

/-- acc + products, rounded once to f32 by RNE; any invalid product gives the canonical NaN (R239). -/
def accStep (acc : Nat) (ps : List (Option FVal)) : Nat :=
  if ps.any Option.isNone then f32.nan false
  else (f32.result .rne (sumVals .rne (f32.unpack acc :: ps.filterMap id)) false).1

/-- The digit code of element (r, c) in plane `t` (from 1) of the sd block at `blk` (R231). -/
def digitCode (rd : Reader) (blk t r c : Nat) : Nat :=
  let i := 16 * r + c
  rd (blk + 64 * t + i / 4) 1 / 4 ^ (i % 4) % 4

/-- The value of a digit times 2^−t (R232). -/
def digitVal (code t : Nat) : FVal :=
  match code with
  | 1 => .fin false 1 (-(t : Int))
  | 3 => .fin true 1 (-(t : Int))
  | _ => .fin false 0 0

/-- A tmma's operands (R311). -/
structure Mma where
  fa : BitVec 3
  fb : BitVec 3
  a  : Nat
  b  : Nat
  k  : Nat
  q  : Nat
  p  : Nat

/-- A(i, k) as bits. -/
def Mma.aBits (m : Mma) (rd : Reader) (i k : Nat) : Nat :=
  rd (m.a + (m.k * i + k) * elemBytes m.fa) (elemBytes m.fa)

/-- B(k, j) as bits, stored as its transpose. -/
def Mma.bBits (m : Mma) (rd : Reader) (j k : Nat) : Nat :=
  rd (m.b + (m.k * j + k) * elemBytes m.fb) (elemBytes m.fb)

def sx8 (v : Nat) : Int := if v < 128 then v else (v : Int) - 256

/-- The accumulator of PE(i, j) after every step, in increasing k (R239). -/
def Mma.element (m : Mma) (ra rb : Reader) (i j : Nat) (acc : Nat) : Nat :=
  if m.fb == 6 then
    match tileFmt m.fa with
    | none => acc
    | some f =>
      (rangeFrom m.k 0).foldl (fun acc k =>
        let av := f.unpack (m.aBits ra i k)
        let blk := m.b + k / 16 * (64 + 64 * m.p)
        (rangeFrom m.q 1).foldl (fun acc t => accStep acc [mulVal av (digitVal (digitCode rb blk t (k % 16) j) t)]) acc) acc
  else if m.fa == 4 then
    (rangeFrom m.k 0).foldl (fun acc k =>
      (((acc : Int) + sx8 (m.aBits ra i k) * sx8 (m.bBits rb j k)) % 2 ^ 32).toNat) acc
  else
    match tileFmt m.fa, tileFmt m.fb with
    | some f, some g =>
      let prod := fun (k : Nat) => mulVal (f.unpack (m.aBits ra i k)) (g.unpack (m.bBits rb j k))
      if m.fa == 2 || m.fa == 3 then
        (rangeFrom (m.k / 2) 0).foldl (fun acc h => accStep acc [prod (2 * h), prod (2 * h + 1)]) acc
      else (rangeFrom m.k 0).foldl (fun acc k => accStep acc [prod k]) acc
    | _, _ => acc

/-- A code-10 digit is read (R232). -/
def Mma.badDigit (m : Mma) (rd : Reader) : Bool :=
  m.fb == 6 && (rangeFrom (m.k / 16) 0).any fun b => (rangeFrom m.q 1).any fun t =>
    (rangeFrom 256 0).any fun i => digitCode rd (m.b + b * (64 + 64 * m.p)) t (i / 16) (i % 16) == 2

/-- 1.0 as f32. -/
def oneF32 : BitVec 32 := 0x3F800000

def Bank.csAt (b : Bank) (j : Nat) : BitVec 32 := AMap.getD b.cs j oneF32
def Bank.at (b : Bank) (i j : Nat) : BitVec 32 := AMap.getD b.z (16 * i + j) 0

/-- A bank from the 256 words of a function. -/
def bankOf (f : Nat → Nat → BitVec 32) : AMap (BitVec 32) :=
  (rangeFrom 256 0).filterMap fun n => if f (n / 16) (n % 16) = 0 then none else some (n, f (n / 16) (n % 16))

/-- The bank after a tmma (R239, R238). -/
def Mma.run (m : Mma) (ra rb : Reader) (b : Bank) : Bank where
  z := bankOf fun i j => BitVec.ofNat 32 (m.element ra rb i j (b.at i j).toNat)
  cs := if m.fb == 6 then
      (rangeFrom 16 0).filterMap fun j =>
        if rb (m.b + 4 * j) 4 = oneF32.toNat then none else some (j, BitVec.ofNat 32 (rb (m.b + 4 * j) 4))
    else b.cs

/-! ### Drain (R240, R241) -/

/-- Integer drain formats: i8 and i32. -/
def intFmt (f : BitVec 3) : Bool := f == 4 || f == 6

/-- The range of an integer drain format. -/
def intRange (f : BitVec 3) : Int × Int :=
  if f == 4 then (-128, 127) else (-2147483648, 2147483647)

/-- A signed number of `n` bytes. -/
def signedOf (n v : Nat) : Int := if v < 2 ^ (8 * n - 1) then v else (v : Int) - 2 ^ (8 * n)

/-- A signed number in `n` bytes. -/
def unsignedOf (n : Nat) (v : Int) : Nat := (v % (2 : Int) ^ (8 * n)).toNat

/-- The f32 value of an old destination element (R240). -/
def oldF32 (f : BitVec 3) (v : Nat) : Nat :=
  if intFmt f then (f32.ofInt .rne .ieee (signedOf (drainBytes f) v)).1
  else match tileFmt f with
    | some g => (g.convert f32 .rne .ieee v).1
    | none => 0

/-- Convert(t, fmt, satbit) (R241). -/
def drainConvert (f : BitVec 3) (propagate : Bool) (t : Nat) : Nat :=
  if intFmt f then unsignedOf (drainBytes f) (f32.toInt .rne (intRange f).1 (intRange f).2 t).1
  else if f == 5 then t
  else match tileFmt f with
    | some g =>
      let ov : Over := if f == 2 || f == 3 then (if propagate then .propagate else .saturate) else .ieee
      (f32.convert g .rne ov t).1
    | none => 0

/-- A drain's parameters. -/
structure DrainArgs where
  fmt   : BitVec 3
  scale : BitVec 32
  /-- bias[j], when the descriptor names any. -/
  bias  : Option (AMap (BitVec 32))
  relu  : Bool
  acc   : Bool
  prop  : Bool

/-- One element of a drain (R240). Of a NaN that its roundings form from a NaN word, scale, column scale or bias the spec states no sign: the model
gives it sign 0. (DESIGN CHOICE, log 88) -/
def DrainArgs.element (d : DrainArgs) (w cs : BitVec 32) (j old : Nat) : Nat :=
  if intFmt d.fmt && d.scale == oneF32 && cs == oneF32 && d.bias.isNone then
    let t := w.toInt
    let t := if d.relu && decide (t < 0) then 0 else t
    let t := if d.acc then t + signedOf (drainBytes d.fmt) old else t
    let r := intRange d.fmt
    unsignedOf (drainBytes d.fmt) (if t < r.1 then r.1 else if t > r.2 then r.2 else t)
  else
    let v : FVal := if intFmt d.fmt then .fin (decide (w.toInt < 0)) w.toInt.natAbs 0 else f32.unpack w.toNat
    let prod := match mulVal (f32.unpack d.scale.toNat) (f32.unpack cs.toNat) with
      | some p => mulVal p v
      | none => none
    let terms := match d.bias with
      | some b => [prod, some (f32.unpack (AMap.getD b j 0).toNat)]
      | none => [prod]
    let t := if terms.any Option.isNone then f32.nan false
      else (f32.result .rne (sumVals .rne (terms.filterMap id)) false).1
    let t := if d.relu && !(f32.unpack t).isNan && (f32.unpack t).isNeg then 0 else t
    let t := if d.acc then addF32 t (oldF32 d.fmt old) else t
    drainConvert d.fmt d.prop t

/-- The converted value is +0 or −0 (R137, R313). -/
def drainZero (f : BitVec 3) (y : Nat) : Bool :=
  if intFmt f then y == 0 else y % 2 ^ (8 * drainBytes f - 1) == 0

/-! ### Checks at issue (R308, R145) -/

/-- The offset of an address operand that names the own scratchpad with its whole extent (R308). -/
def ownExtent (t : Nat) (va : Word) (n align : Nat) : Option Nat :=
  match spaceOf (tagCluster t) (some (tagCore t)) va n with
  | .pad k off => if k = tagCore t ∧ va.toNat % align = 0 then some off else none
  | _ => none

/-- The bank mask of the cluster's active voyage; 0 when none (R149, R158). -/
def voyageMask (s : State) (c : Nat) : Nat :=
  match theVoyage s c with
  | some v => bits v.desc.w0 44 41
  | none => 0

/-- zN is reserved for the active voyage (R158). -/
def bankTaken (s : State) (z : BitVec 2) : Bool := (voyageMask s (tagCluster s.cur)).testBit z.toNat

/-- A checked tile instruction enters the queue and retires, or forfeits while four wait (R134, R308). -/
def enterTile (s : State) (op : TileOp) : Out :=
  let k := getCore s (tagCore s.cur)
  if k.tiles.length < 4 then
    .next (setCore s (tagCore s.cur) { k with tiles := k.tiles ++ [{ op := op, tag := s.cur, number := s.nextWrite, clock := s.th.clock }] }).skip
  else s.forfeit

/-- `tzero zN` (R309). -/
def execTzero (z : BitVec 2) (s : State) : Out :=
  if bankTaken s z then s.trap 0x06 (instrWord (.tzero z)) else enterTile s (.zero z.toNat)

/-- `tload zN, a` (R309). -/
def execTload (a : Reg) (z : BitVec 2) (s : State) : Out :=
  match ownExtent s.cur (s.x a) 1024 64 with
  | some off => if bankTaken s z then s.trap 0x06 (instrWord (.tload a z)) else enterTile s (.load z.toNat off)
  | none => s.trap 0x06 (instrWord (.tload a z))

/-- The shape in x[d] of a tmma is within its limits (R310). -/
def shapeGood (fb : BitVec 3) (v : Word) : Bool :=
  let k := bits v 15 0
  let q := bits v 19 16
  let p := bits v 23 20
  decide (16 ≤ k ∧ k ≤ 256 ∧ k % 16 = 0 ∧ bits v 63 24 = 0)
    && (if fb == 6 then decide (1 ≤ p ∧ p ≤ 8 ∧ 1 ≤ q ∧ q ≤ p) else decide (q = 0 ∧ p = 0))

/-- `tmma.fa.fb zN, a, b, d` (R310, R311). -/
def execTmma (d a b : Reg) (z : BitVec 2) (g f : BitVec 3) (s : State) : Out :=
  let word := instrWord (.tmma d a b z g f)
  let v := s.x d
  let k := bits v 15 0
  let p := bits v 23 20
  if !pairGood f g || !shapeGood g v || bankTaken s z then s.trap 0x06 word
  else
    match ownExtent s.cur (s.x a) (16 * k * elemBytes f) 64,
      ownExtent s.cur (s.x b) (if g = 6 then k / 16 * (64 + 64 * p) else 16 * k * elemBytes g) 64 with
    | some ao, some bo => enterTile s (.mma z.toNat f g ao bo k (bits v 19 16) p)
    | _, _ => s.trap 0x06 word

/-- The row stride of a drain (R312). -/
def drainStride (f : BitVec 3) (w0 : Word) : Nat := if bits w0 15 0 = 0 then 16 * drainBytes f else bits w0 15 0

/-- The checks of R312 on a descriptor's words 0 and 3. -/
def descGood (f : BitVec 3) (w0 w3 : Word) : Bool :=
  decide (bits w0 26 16 = 0 ∧ w3 = 0 ∧ bits w0 15 0 % 16 = 0 ∧ (bits w0 15 0 = 0 ∨ 16 * drainBytes f ≤ bits w0 15 0))

/-- `tdrain.fmt zN, a, b` (R312): the descriptor at x[b] is read and checked before the instruction enters the queue. -/
def execTdrain (a b : Reg) (z : BitVec 2) (f : BitVec 3) (s : State) : Out :=
  let word := instrWord (.tdrain a b z f)
  let core := tagCore s.cur
  match ownExtent s.cur (s.x b) 32 32 with
  | none => s.trap 0x06 word
  | some bo =>
    if f == 7 || bankTaken s z then s.trap 0x06 word
    else if padBlocked s s.cur false bo 32 then s.forfeit
    else
      let w := fun (i : Nat) => BitVec.ofNat 64 (ofBytes (s.bytesAt 8 (padKey core (bo + 8 * i))))
      let w0 : Word := w 0
      let stride := drainStride f w0
      let ext := 15 * stride + 16 * drainBytes f
      let bias := if bitAt w0 31 then (ownExtent s.cur (w 1) 64 64).map some else some none
      let flag := if bitAt w0 27 then (ownExtent s.cur (w 2) 8 8).map some else some none
      if !descGood f w0 (w 3) then s.trap 0x06 word
      else match ownExtent s.cur (s.x a) ext 16, bias, flag with
        | some ao, some bias, some flag =>
          if voyageActive s (tagCluster s.cur) && inBay ao ext then s.trap 0x03 (s.x a)
          else if voyageActive s (tagCluster s.cur) && (match flag with | some o => inBay o 8 | none => false) then
            s.trap 0x03 (w 2)
          else enterTile s (.drain z.toNat f ao (BitVec.ofNat 32 (bits w0 63 32)) bias (bitAt w0 30) (bitAt w0 29)
            (bitAt w0 28) flag stride)
        | _, _, _ => s.trap 0x06 word

def TileOp.bank : TileOp → Nat
  | .zero z => z
  | .mma z _ _ _ _ _ _ _ => z
  | .drain z _ _ _ _ _ _ _ _ _ => z
  | .load z _ => z

/-- What `tstat` reads (R314). -/
def tileStatus (s : State) (k : Nat) : Word :=
  let c := getCore s k
  let pend := ((rangeFrom 4 0).map fun i => if c.tiles.any fun t => t.op.bank == i then 2 ^ i else 0).sum
  BitVec.ofNat 64 (pend * 2 ^ 12 + voyageMask s (coreCluster k) * 2 ^ 8 + (if c.ringBusy then 128 else 0)
    + (if c.tileBusy then 8 else 0) + c.tiles.length)

/-- `tstat d` (R314). -/
def execTstat (d : Reg) (s : State) : Out := .next (s.put d (tileStatus s (tagCore s.cur)))

/-! ### Execution (R134–R137, R313) -/

def getBank (k : CoreState) (z : Nat) : Bank := AMap.getD k.banks z {}
def setBank (k : CoreState) (z : Nat) (b : Bank) : CoreState := { k with banks := AMap.set k.banks z b }

/-- The reader of a core's scratchpad. -/
def padReader (s : State) (k : Nat) : Reader := fun off n => ofBytes (s.bytesAt n (padKey k off))

/-- The reader of a tile instruction: a byte of a chunk that the engine has read for it is as it was then (R136). -/
def latchReader (s : State) (k : Nat) (e : TileEntry) (side : Nat) : Reader :=
  let l := e.latched
  if l.isEmpty then padReader s k
  else fun off n => ofBytes ((rangeFrom n off).map fun o =>
    match l.find? fun x => x.1 % 2 == side && x.1 / 2 ≤ o && o < x.1 / 2 + x.2.length with
    | some x => x.2.getD (o - x.1 / 2) 0
    | none => s.byteAt (padKey k o))

/-- The engine reads these chunks for a tile instruction, but for those it has read (R136). -/
def TileEntry.latch (e : TileEntry) (s : State) (k : Nat) (xs : List (Nat × Nat × Nat)) : TileEntry :=
  xs.foldl (fun e x =>
    if (AMap.find e.latched (2 * x.2.1 + x.1)).isSome then e
    else { e with latched := AMap.set e.latched (2 * x.2.1 + x.1) (s.bytesAt x.2.2 (padKey k x.2.1)) }) e

/-- The engine reads chunks for instruction `j` of a core's queue. -/
def latchChunks (s : State) (k j : Nat) (xs : List (Nat × Nat × Nat)) : State :=
  let c := getCore s k
  match c.tiles[j]? with
  | some e => setCore s k { c with tiles := c.tiles.set j (e.latch s k xs) }
  | none => s

/-- The rows of a drain, each as its bytes, and whether every element is zero. -/
def drainRows (rd : Reader) (b : Bank) (d : DrainArgs) (dst stride : Nat) : List (Nat × List Byte) × Bool :=
  let w := drainBytes d.fmt
  let ys := fun (i : Nat) => (rangeFrom 16 0).map fun j =>
    d.element (b.at i j) (b.csAt j) j (if d.acc then rd (dst + i * stride + j * w) w else 0)
  ((rangeFrom 16 0).map fun i => (dst + i * stride, (ys i).flatMap fun y => bytesOf w y),
    (rangeFrom 16 0).all fun i => (ys i).all fun y => drainZero d.fmt y)

/-- Writes rows to a core's scratchpad. -/
def padRows (s : State) (k : Nat) (w : Writer) (rows : List (Nat × List Byte)) : State :=
  rows.foldl (fun s r => homeWrite s (padKey k r.1) r.2 w []) s

/-- Bit 39 of the flag word (R313). -/
def setFlag (s : State) (k : Nat) (w : Writer) (off : Nat) (v : Bool) : State :=
  let b := s.byteAt (padKey k off + 4)
  homeWrite s (padKey k (off + 4)) [if v then b ||| 0x80 else b &&& 0x7F] w []

/-- The running or stopped voyage of a cluster is changed. -/
def mapVoyage (s : State) (c : Nat) (f : Voyage → Voyage) : State :=
  let cl := getCluster s c
  let s := match cl.voyage with | some v => setCluster s c { cl with voyage := some (f v) } | none => s
  { s with vsaves := s.vsaves.map fun q => if q.cluster = c then { q with voyage := f q.voyage } else q }

/-- A bank of unspecified words (R308). -/
def freeBank (s : State) : Bank where
  z := (rangeFrom 256 0).map fun n => (n, (s.free (1024 + n)).setWidth 32)
  cs := (rangeFrom 16 0).map fun j => (j, (s.free (1280 + j)).setWidth 32)

/-- The products of an accumulation through a bank with unspecified contents (R308). -/
def freeProducts (s : State) : List (BitVec 32) := (rangeFrom 256 0).map fun n => (s.free (1536 + n)).setWidth 32

/-- What a voyage accumulated with the entries that a predicate picks is unspecified to later readers, where no one else has written since. -/
def spoilEntries (s : State) (v : Voyage) (p : ChartEntry → Bool) : State :=
  spoilAgents s (fun a => a == v.agent) fun l => ((v.entries.filter p).flatMap ChartEntry.rows).flatMap fun r => meetRange l r.1 r.2

/-- A thread's tile instruction wrote a bank that the active voyage has reserved: the bank, and the voyage's accumulations through it, those
made and those to come, are unspecified (R308). -/
def spoilBank (s : State) (k z : Nat) : State :=
  let c := coreCluster k
  if (voyageMask s c).testBit z then
    let through := fun (e : ChartEntry) => e.runAt == k % 128 && bits e.w0 39 38 == 0 && bits e.w0 37 36 == z
    let s := match theVoyage s c with | some v => spoilEntries s v through | none => s
    let s := mapVoyage s c fun v => { v with
      spoiled := (k % 128, z) :: v.spoiled
      entries := v.entries.map fun e => if through e && e.status == .running then { e with products := freeProducts s } else e }
    setCore s k (setBank (getCore s k) z (freeBank s))
  else s

/-- The rows that a running drain of core `k` writes, and whether all is zero (R240, R313); its biases and old rows have been read. -/
def drainOutput (s : State) (k : Nat) (e : TileEntry) : List (Nat × List Byte) × Bool :=
  match e.op with
  | .drain z f dst scale bias relu acc prop _ stride =>
    let rd := latchReader s k e 0
    let bm := bias.map fun o => (rangeFrom 16 0).map fun j => (j, BitVec.ofNat 32 (rd (o + 4 * j) 4))
    drainRows rd (getBank (getCore s k) z) ⟨f, scale, bm, relu, acc, prop⟩ dst stride
  | _ => ([], true)

/-- The effect of a tile instruction that completes on memory, its bank and its thread (R309–R313): what it has not read yet it reads now, and
the rows that it has not written. -/
def runTile (s : State) (k : Nat) (e : TileEntry) : State :=
  let c := getCore s k
  let rd := latchReader s k e 0
  match e.op with
  | .zero z => setCore s k (setBank c z {})
  | .load z src =>
    setCore s k (setBank c z { z := bankOf fun i j => BitVec.ofNat 32 (rd (src + 4 * (16 * i + j)) 4), cs := [] })
  | .mma z fa fb a b kk q p =>
    let m : Mma := ⟨fa, fb, a, b, kk, q, p⟩
    let rb := latchReader s k e 1
    let s := setCore s k (setBank c z (m.run rd rb (getBank c z)))
    let th := getThread s e.tag
    if m.badDigit rb then setThread s e.tag { th with tstat := th.tstat ||| 2 } else s
  | .drain _ _ _ _ _ _ _ _ flag _ =>
    let r := drainOutput s k (e.latch s k e.op.chunks)
    let th := getThread s e.tag
    let w := th.writer e.tag none
    let s := padRows s k w (r.1.drop c.rows)
    match flag with
    | some o => setFlag s k w o r.2
    | none => s

/-- The running drain writes its next row (R137): its biases and that row's old values have been read. (DESIGN CHOICE, log 33) -/
def drainRow (core : Nat) (s : State) : Out :=
  let c := getCore s core
  match c.tiles with
  | e :: rest =>
    match e.op with
    | .drain _ _ dst _ bias _ _ _ _ stride =>
      if !c.tileBusy || 16 ≤ c.rows then .next s
      else
        let e := e.latch s core (e.op.chunks.filter fun x => x.2.1 == dst + c.rows * stride || some x.2.1 == bias)
        let w := (getThread s e.tag).writer e.tag none
        let s := padRows s core w (((drainOutput s core e).1.drop c.rows).take 1)
        .next (setCore s core { getCore s core with rows := c.rows + 1, tiles := e :: rest })
    | _ => .next s
  | [] => .next s

/-- The tile instruction waits for an atomic that its core issued before it, or for a store that happens before it, on bytes that it accesses
(R138). -/
def tileWaits (s : State) (k : Nat) (e : TileEntry) : Bool :=
  let hits := fun (a n : Nat) => (e.op.reads ++ e.op.writes).any fun x => overlap a n (padKey k x.1) x.2
  requestBefore s k e.number (fun r => r.atomic && hits r.key r.size)
    || s.posted.any fun p => hits p.addr p.bytes.length && decide (p.stamp ≤ AMap.getD e.clock p.agent 0)

/-- An entry of the reckoning list that has been counted (R163). -/
def Voyage.reckonDone (v : Voyage) (i : Nat) : Bool :=
  match v.entries[i]? with
  | some e => e.status == .reckoned || e.status == .counted
  | none => true

/-- The first entry of a station's part of the reckoning list that has not been counted, when it is to be run now (R163: one after
another, in list order). -/
def Voyage.reckonNext (v : Voyage) (st : Nat) : Option (Nat × ChartEntry) :=
  match v.reckon.find? fun g => g.2 == st && !v.reckonDone g.1 with
  | none => none
  | some g =>
    match v.entries[g.1]? with
    | some e => if e.status == .missed && e.waits.isNone then some (g.1, e) else none
    | none => none

/-- The ring controller has an engine sighting to start at the station of core `k` (R158): it goes ahead of the queue. -/
def ringWants (s : State) (k : Nat) : Bool :=
  match (getCluster s (coreCluster k)).voyage with
  | none => false
  | some v =>
    if v.failure.isSome || v.parked.isSome then false
    else match v.phase with
      | .halfSteps => !v.atStart && v.entries.any fun e =>
          e.status == .pending && e.half == v.half && e.station == k % 128 && bits e.w0 39 38 == 0
      | .reckoning => !v.stopping && (match v.reckonNext (k % 128) with | some e => bits e.2.w0 39 38 == 0 | none => false)
      | _ => false

/-- A `tmma` that has read all its operands has finished streaming (R136). -/
def TileEntry.isMma (e : TileEntry) : Bool := match e.op with | .mma _ _ _ _ _ _ _ _ => true | _ => false

/-- The engine may read operands of instruction `j` of a core's queue: the running one's, and those of a `tmma` behind `tmma`s that have all
finished streaming (R136). (DEDUCED, log 33) -/
def streams (s : State) (core j : Nat) (e : TileEntry) : Bool :=
  let c := getCore s core
  c.tileBusy && (j == 0
    || (e.isMma && (c.tiles.take j).all (fun x => x.isMma && x.chunksLeft.isEmpty)
      && (!e.latched.isEmpty || (!ringWants s core && !tileWaits s core e))))

/-- The engine reads a chunk of an instruction's operands, ahead of its completion (R136). (DESIGN CHOICE, log 33) -/
def latchChunk (core : Nat) (s : State) : Out :=
  let c := getCore s core
  let left := (c.tiles.mapIdx fun j e => if streams s core j e then e.chunksLeft.map fun x => (j, x) else []).flatten
  match left[s.choose 42 left.length]? with
  | some (j, x) => .next (latchChunks s core j [x])
  | none => .next s

/-- TILE_START (R136): the head of the queue starts when the engine is free and what comes before it is done (R138). (DEDUCED, log 33) -/
def execTileStart (core : Nat) (s : State) : Out :=
  let c := getCore s core
  match c.tiles with
  | e :: _ =>
    if c.tileBusy || c.ringBusy || ringWants s core || tileWaits s core e then .next s
    else .next (setCore s core { c with tileBusy := true, rows := 0 })
  | [] => .next s

/-- TILE_COMPLETE (R136, R137): the running instruction, or the ring controller's operation, completes; a `tmma` that streams already runs on.
(DEDUCED, log 33) -/
def execTileComplete (core : Nat) (s : State) : Out :=
  let c := getCore s core
  if c.ringBusy then .next (setCore s core { c with ringBusy := false })
  else match c.tiles with
  | e :: rest =>
    if c.tileBusy then
      let s := spoilBank (runTile s core e) core e.op.bank
      .next (setCore s core { getCore s core with tiles := rest, tileBusy := headStreams rest, rows := 0 })
    else .next s
  | [] => .next s

end Sys2Proof.Machine
end

