-- ==== Sys2Proof/Machine/Fabric.lean ====
section
/-! DEFINITION. Fabric contexts (spec/07, spec/14): link conversion (R180, R369), lane operations (R355–R358), compute
contexts of every kind (R353–R364), and how a fire takes and writes tokens (R176–R179, R190–R195). Pipeline and link
latencies are left out (log 5): a fire writes its tokens at once. -/

namespace Sys2Proof.Machine

/-! ### Fields -/

/-- A field of a 256-bit context word. -/
def cfield (w : BitVec 256) (hi lo : Nat) : Nat := bitsN w.toNat hi lo

def LinkState.f (l : LinkState) (hi lo : Nat) : Nat := bits l.desc hi lo
def LinkState.slots (l : LinkState) : Nat := l.f 30 28
def LinkState.net (l : LinkState) : Nat := l.f 27 26
def LinkState.dport (l : LinkState) : Nat := l.f 25 22
def LinkState.sport (l : LinkState) : Nat := l.f 12 9

/-- The link ends at input `i` of the context. -/
def LinkState.into (l : LinkState) (k : CtxState) (i : Nat) : Bool :=
  l.dport == i && l.f 21 20 == k.ctx && l.f 19 17 == k.row && l.f 16 13 == k.col

/-- The link starts at output `j` of the context. -/
def LinkState.outOf (l : LinkState) (k : CtxState) (j : Nat) : Bool :=
  l.sport == j && l.f 8 7 == k.ctx && l.f 6 4 == k.row && l.f 3 0 == k.col

def CtxState.names (k : CtxState) (i : Nat) : Bool := (cfield k.word 251 248).testBit i
def CtxState.writes (k : CtxState) (j : Nat) : Bool := (cfield k.word 247 244).testBit j
/-- KIND of a compute context, MODE of a memory context. -/
def CtxState.kind (k : CtxState) : Nat := cfield k.word 254 252
/-- The register of stage S0 to S5 (R175); one that holds nothing reads zero. -/
def CtxState.stageReg (k : CtxState) (n : Nat) : BitVec 256 :=
  if n = 0 then k.reg0 else if n = 5 then k.reg5 else AMap.getD k.own n 0

def CtxState.emit (k : CtxState) : Nat := cfield k.word 146 145

/-- The cell number 16 × row + column in the server of a relative cell of a copy (R172, R203). -/
def Placed.cellAt (p : Placed) (col row : Nat) : Nat := 16 * (row + 4 * (p.page / 4)) + col + 4 * (p.page % 4)

/-! ### Link conversion (R180, R369) -/

/-- Width in bits of a type code; `bits` has none. -/
def typeWidth (t : Nat) : Nat :=
  match t with
  | 0 => 16 | 1 => 16 | 2 => 8 | 3 => 8 | 4 => 8 | 5 => 32 | 6 => 16 | 7 => 32 | _ => 64

/-- The format of a float type code. -/
def typeFmt (t : Nat) : Option Fmt :=
  match t with
  | 0 => some f16 | 1 => some bf16 | 2 => some e4m3 | 3 => some e5m2 | 5 => some f32 | 9 => some f64 | _ => none

/-- A signed number of `w` bits. -/
def laneInt (w a : Nat) : Int := if a < 2 ^ (w - 1) then (a : Int) else (a : Int) - 2 ^ w

/-- The low `w` bits of an integer. -/
def wrapTo (w : Nat) (r : Int) : Nat := (r % (2 ^ w : Int)).toNat

/-- The value of a lane scaled by 2^e (R180). -/
def laneValue (t : Nat) (e : Int) (v : Nat) : FVal :=
  match typeFmt t with
  | some f => match f.unpack v with
    | .fin n m x => .fin n m (x + e)
    | r => r
  | none => let i := laneInt (typeWidth t) v; .fin (decide (i < 0)) i.natAbs e

/-- A value as a lane of type `t`, rounded once and saturating (R180). -/
def laneOf (t : Nat) (v : FVal) : Nat :=
  match typeFmt t with
  | some f => (f.pack .rne .saturate v).1
  | none =>
    let w := typeWidth t
    match v with
    | .nan _ _ => 0
    | .inf n => if n then 2 ^ (w - 1) else 2 ^ (w - 1) - 1
    | .fin n m x => wrapTo w (clampSigned w (roundInt .rne n m x).1)

/-- The lanes of width `w` of the low `n` bits, lane 0 first. -/
def lanes (w n v : Nat) : List Nat := (rangeFrom (n / w) 0).map fun i => bitsN v (w * i + w - 1) (w * i)

/-- Lanes of width `w` joined, lane 0 lowest. -/
def joinLanes (w : Nat) (l : List Nat) : Nat := l.foldr (fun x r => x % 2 ^ w + 2 ^ w * r) 0

/-- A payload as the destination of the link receives it. (DEDUCED, log 63) -/
def LinkState.convert (l : LinkState) (v : BitVec 256) : BitVec 256 :=
  let n := match l.net with | 0 => 64 | 1 => 256 | _ => 1
  let v := v.toNat % 2 ^ n
  let st := l.f 34 31
  let dt := l.f 38 35
  if st = dt then BitVec.ofNat 256 v
  else
    let e := laneInt 6 (l.f 44 39)
    BitVec.ofNat 256 (joinLanes (typeWidth dt) ((lanes (typeWidth st) n v).map fun x => laneOf dt (laneValue st e x)))

/-- A token enters a link (R178–R180): only data are converted. -/
def LinkState.push (l : LinkState) (t : Tok) : LinkState :=
  { l with toks := l.toks ++ [if t.kind == .data then { t with pay := l.convert t.pay } else t] }

/-! ### Lane operations (R355–R358) -/

/-- A stage word's fields (R355). -/
structure Stage where
  op   : Nat
  sa   : Nat
  sb   : Nat
  lane : Nat
  sat  : Bool
  u    : Bool

def stageOf (w : Nat) : Stage where
  op := bitsN w 15 10
  sa := bitsN w 9 7
  sb := bitsN w 6 4
  lane := bitsN w 3 2
  sat := w.testBit 1
  u := w.testBit 0

/-- The four stage words S1–S4 (R353). -/
def CtxState.stages (k : CtxState) : List Stage :=
  [stageOf (cfield k.word 219 204), stageOf (cfield k.word 203 188), stageOf (cfield k.word 187 172),
   stageOf (cfield k.word 171 156)]

/-- Lane width of a LANE code. (DEDUCED, log 63) -/
def laneWidth (l : Nat) : Nat := match l with | 0 => 64 | 1 => 32 | 2 => 16 | _ => 8

def Stage.w (g : Stage) : Nat := laneWidth g.lane

/-- The float format of a stage (R357). -/
def Stage.fmt (g : Stage) : Fmt :=
  match g.lane with
  | 0 => f64
  | 1 => f32
  | 2 => if g.u then bf16 else f16
  | _ => if g.u then e5m2 else e4m3

/-- A constant as a lane of the stage (R355): an f32 in a float operation, which saturates in the 8-bit formats (R237). -/
def Stage.const (g : Stage) (k : BitVec 32) : Nat :=
  if 0x20 ≤ g.op then (f32.convert g.fmt .rne (if g.lane = 3 then .saturate else .ieee) k.toNat).1 else wrapTo g.w (laneInt 32 k.toNat)

/-- The same lane everywhere. -/
def spread (w v : Nat) : BitVec 256 := BitVec.ofNat 256 (joinLanes w ((rangeFrom (256 / w) 0).map fun _ => v))

/-- A result clamped with SAT, else wrapped (R356). -/
def Stage.fit (g : Stage) (r : Int) : Nat :=
  wrapTo g.w (if g.sat then (if g.u then clampUnsigned g.w r else clampSigned g.w r) else r)

/-- A lane read as signed or, with U, unsigned. -/
def Stage.num (g : Stage) (a : Nat) : Int := if g.u then (a : Int) else laneInt g.w a

def rotLane (w a n : Nat) : Nat := (a * 2 ^ n + a / 2 ^ (w - n)) % 2 ^ w

/-- An integer lane operation of R356. -/
def Stage.intOp (g : Stage) (pred : Bool) (a b : Nat) : Nat :=
  let w := g.w
  let ones := 2 ^ w - 1
  let n := b % w
  let x := g.num a
  let y := g.num b
  match g.op with
  | 0x01 => g.fit (x + y)
  | 0x02 => g.fit (x - y)
  | 0x03 => g.fit (x * y)
  | 0x04 => wrapTo w (x * y / (2 ^ w : Int))
  | 0x05 => Nat.land a b
  | 0x06 => Nat.lor a b
  | 0x07 => Nat.xor a b
  | 0x08 => Nat.land a (Nat.xor b ones)
  | 0x09 => a * 2 ^ n % 2 ^ w
  | 0x0A => wrapTo w (x / (2 ^ n : Int))
  | 0x0B => rotLane w a n
  | 0x0C => rotLane w a ((w - n) % w)
  | 0x0D => if x ≤ y then a else b
  | 0x0E => if x ≤ y then b else a
  | 0x0F => popCount w a
  | 0x10 => leadingZeros w a
  | 0x11 => if a = b then ones else 0
  | 0x12 => if x < y then ones else 0
  | 0x13 => if x ≤ y then ones else 0
  | 0x14 => if pred then a else b
  | 0x15 => rotLane w (a * b % 2 ^ w) (w / 2)
  | 0x16 => Nat.xor a (a / 2 ^ n)
  | 0x1A => g.fit (-x)
  | _ => a

/-- A float lane operation of R357. -/
def Stage.floatOp (g : Stage) (a b : Nat) : Nat :=
  let f := g.fmt
  let ones := 2 ^ g.w - 1
  match g.op with
  | 0x20 => (f.add .rne a b).1
  | 0x21 => (f.sub .rne a b).1
  | 0x22 => (f.mul .rne a b).1
  | 0x23 => (f.minmax false a b).1
  | 0x24 => (f.minmax true a b).1
  | 0x25 => if (f.flt a b).1 then ones else 0
  | 0x26 => if (f.feq a b).1 then ones else 0
  | 0x27 => (f.ofInt .rne .ieee (laneInt g.w a)).1
  | _ => wrapTo g.w (f.toInt .rne (-(2 ^ (g.w - 1) : Int)) ((2 ^ (g.w - 1) : Int) - 1) a).1

/-- `tcmp` (R208): 0 left, 1 right; a NaN takes the default-direction bit. -/
def treeCompare (a b : BitVec 256) : Nat :=
  let x := a.toNat % 2 ^ 32
  let t := b.toNat % 2 ^ 32
  if (f32.unpack x).isNan || (f32.unpack t).isNan then bitsN b.toNat 48 48
  else if (f32.flt x t).1 then 0 else 1

/-- `sddot` (R358): one digit plane, one rounding. -/
def planeDot (f : Fmt) (a b : BitVec 256) (t q : Nat) (own : Option (BitVec 256)) : Nat :=
  let v := match own with | some o => o.toNat % 2 ^ 32 | none => 0
  if t ≤ q then
    accStep v ((rangeFrom 16 0).map fun i =>
      mulVal (f.unpack (bitsN a.toNat (16 * i + 15) (16 * i))) (digitVal (bitsN b.toNat (2 * i + 1) (2 * i)) t))
  else v

/-- A code-10 digit among the 16 (R232). -/
def badPlane (b : BitVec 256) : Bool := (rangeFrom 16 0).any fun i => bitsN b.toNat (2 * i + 1) (2 * i) == 2

/-- What a stage's sources can be (R355). -/
structure Sources where
  a : BitVec 256
  b : BitVec 256
  c : BitVec 256
  pred : Bool

/-- A stage source (R355); none for an empty OWN. -/
def stageSrc (k : CtxState) (n : Nat) (g : Stage) (o : Sources) (prev : BitVec 256) (code : Nat) :
    Option (BitVec 256) :=
  match code with
  | 0 => some prev
  | 1 => some o.a
  | 2 => some o.b
  | 3 => some o.c
  | 4 => some (spread g.w (g.const k.k0))
  | 5 => some (spread g.w (g.const k.k1))
  | 6 => some (spread g.w k.cnt0)
  | _ => AMap.find k.own n

/-- The result of stage `n` on its two sources. -/
def stageRun (k : CtxState) (n : Nat) (g : Stage) (pred : Bool) (a b : BitVec 256) : BitVec 256 :=
  let w := g.w
  let la := lanes w 256 a.toNat
  let lb := lanes w 256 b.toNat
  match g.op with
  | 0x17 => BitVec.ofNat 256 (g.fit ((la.map g.num).sum))
  | 0x18 =>
    let old := match AMap.find k.own n with | some o => lanes w 256 o.toNat | none => []
    BitVec.ofNat 256 (joinLanes w (la.headD 0 :: old.take (256 / w - 1)))
  | 0x19 => BitVec.ofNat 256 (la.getD (lb.headD 0 % (256 / w)) 0)
  | 0x29 => BitVec.ofNat 256 ((la.drop 1).foldl (fun r x => (g.fmt.add .rne r x).1) (la.headD 0))
  | 0x2A => BitVec.ofNat 256 (treeCompare a b)
  | 0x2B => BitVec.ofNat 256 (planeDot g.fmt a b (k.cnt0 + 1) (k.k1.toNat % 16) (AMap.find k.own n))
  | op =>
    let f := if op < 0x20 then g.intOp pred else g.floatOp
    BitVec.ofNat 256 (joinLanes w ((la.zip lb).map fun p => f p.1 p.2))

/-- One stage (R355, R359): with an empty OWN as a source the other operand passes unchanged, but for `slide` and
`sddot`. -/
def stageStep (k : CtxState) (n : Nat) (g : Stage) (o : Sources) (prev : BitVec 256) : BitVec 256 :=
  match stageSrc k n g o prev g.sa, stageSrc k n g o prev g.sb with
  | some a, some b => stageRun k n g o.pred a b
  | none, some b => if g.op = 0x18 ∨ g.op = 0x2B then stageRun k n g o.pred 0 b else b
  | some a, none => if g.op = 0x18 ∨ g.op = 0x2B then stageRun k n g o.pred a 0 else a
  | none, none => if g.op = 0x18 ∨ g.op = 0x2B then stageRun k n g o.pred 0 0 else 0

/-- The stage results S1–S4, each from the one before. -/
def stageAll (k : CtxState) (o : Sources) : Nat → List Stage → BitVec 256 → List (Nat × BitVec 256)
  | _, [], _ => []
  | n, g :: rest, prev =>
    let r := stageStep k n g o prev
    (n, r) :: stageAll k o (n + 1) rest r

/-- Some stage is an `sddot` that reads a code-10 digit within its cut (R232, R358). -/
def readsBadDigit (k : CtxState) (o : Sources) (rs : List (Nat × BitVec 256)) : Bool :=
  ((rangeFrom 4 1).zip k.stages).any fun p =>
    let prev := if p.1 = 1 then o.a else AMap.getD rs (p.1 - 1) 0
    p.2.op == 0x2B && decide (k.cnt0 + 1 ≤ k.k1.toNat % 16)
      && (match stageSrc k p.1 p.2 o prev p.2.sb with | some b => badPlane b | none => false)

/-! ### Heads, room, and what a context does next (R176, R361–R364) -/

/-- The head token at input `i` of a context. -/
def Placed.headAt (p : Placed) (k : CtxState) (i : Nat) : Option Tok :=
  match p.links.find? fun l => l.into k i with
  | some l => l.toks.head?
  | none => none

/-- What a context does in a fire. -/
inductive Act where
  /-- A configuration token at an input is consumed or forwarded (R195). -/
  | config (i : Nat)
  /-- The stops of one level at these inputs pass (R194). -/
  | stops (level : Nat) (ins : List Nat)
  /-- The stop reduction of R364. -/
  | fold (ins : List Nat)
  /-- The stages run on the heads of these inputs. -/
  | run (ins : List Nat)
  /-- A join's fire: inputs consumed, the head emitted, counter 0 reset (R363). -/
  | join (ins : List Nat) (from_ : Option Nat) (reset : Bool)
  /-- lcu: the next index, taking a bounds token or not; a count of 0; the stop after the last index (R362). -/
  | index (bounds : Bool)
  | noIndex
  | lastStop
  /-- Memory cell: a stop still due on output 0; the buffer swap of R399; one access of a side; a push or pop; an endpoint's
  take or put. -/
  | dueStop
  | swap
  | read
  | write
  | push
  | pop
  | take
  | put
  deriving DecidableEq, Repr

def Tok.isStop (t : Tok) : Bool := t.kind == .stop
def Tok.level (t : Tok) : Nat := t.pay.toNat % 4

/-- The inputs a compute context fires on (R361); a gated merge takes one of two. -/
def CtxState.needs (k : CtxState) (gated : Bool) (head : Nat → Option Tok) : List Nat :=
  match k.kind with
  | 1 =>
    if gated then (if (head 0).isSome then [0] else [1])
    else
      let g := cfield k.word 223 220
      if g = 2 ∨ g = 3 then [0, 1, g] else [0, 1]
  | 2 => if k.inLoop then [1, 2] else [0]
  | 4 => [0, 1]
  | _ => (rangeFrom 4 0).filter k.names

/-- Iterations of an lcu that stand issued and unconfirmed may grow (R362). -/
def CtxState.windowOpen (k : CtxState) : Bool :=
  !(k.word.getLsbD 30 && k.names 2) || decide (k.issued - k.ended ≤ cfield k.word 29 27)

/-- Sequential mode: the done token of the iteration issued before has come (R362). -/
def CtxState.doneCame (k : CtxState) (head : Nat → Option Tok) : Bool :=
  k.word.getLsbD 30 || !k.names 1 || decide (k.issued ≤ k.done) || (match head 1 with | some t => !t.isStop | none => false)

/-- An lcu's next act (R362, R364). (DEDUCED, log 64) -/
def lcuAct (k : CtxState) (head : Nat → Option Tok) : Option Act :=
  if k.stopDue then some .lastStop
  else if k.left ≠ 0 then (if k.windowOpen && k.doneCame head then some (.index false) else none)
  else match head 0 with
    | none => none
    | some t =>
      match t.kind with
      | .stop => some (.stops t.level [0])
      | .config => some (.config 0)
      | .data =>
        if bitsN t.pay.toNat 63 32 = 0 then some .noIndex
        else if k.windowOpen && k.doneCame head then some (.index true) else none
      | .null => if k.windowOpen && k.doneCame head then some (.index true) else none

/-- A join's next act (R363, R364): a level-1 stop compares greater than every key. (DEDUCED, log 64) -/
def joinAct (k : CtxState) (a b : Tok) : Option Act :=
  if (a.isStop && a.level ≠ 1) || (b.isStop && b.level ≠ 1) then
    (if a.isStop && b.isStop && a.level == b.level then some (.stops a.level [0, 1]) else none)
  else if a.isStop && b.isStop then some (.stops 1 [0, 1])
  else if a.kind == .null || b.kind == .null then some (.join [0, 1] none false)
  else
    let ka := if a.isStop then 2 ^ 32 else a.pay.toNat % 2 ^ 32
    let kb := if b.isStop then 2 ^ 32 else b.pay.toNat % 2 ^ 32
    let t := if ka < kb then cfield k.word 23 18 else if ka = kb then cfield k.word 17 12 else cfield k.word 11 6
    let takes := fun (x : Nat) => x == 1 || x == 2
    some (.join ((if takes (t / 16) then [0] else []) ++ (if takes (t / 4 % 4) then [1] else []))
      (match t % 4 with | 1 => some 0 | 2 => some 1 | _ => none) (t / 16 == 2 || t / 4 % 4 == 2))

/-- The stop level at the head of each named input, where a stop stands (R194). -/
def stopHeads (k : CtxState) (head : Nat → Option Tok) : List (Option Nat) :=
  ((rangeFrom 4 0).filter k.names).map fun i => match head i with
    | some t => if t.isStop then some t.level else none
    | none => none

/-- A compute context's next act, if its heads allow one (R176, R194, R195, R361). Once a stop heads one of its inputs, every named input
must hold a stop of that level, also where the kind fires on some of them only. -/
def computeAct (k : CtxState) (gated : Bool) (head : Nat → Option Tok) : Option Act :=
  match (rangeFrom 4 0).find? fun i => k.names i && (match head i with | some t => t.kind == .config | none => false) with
  | some i => some (.config i)
  | none =>
    if k.kind = 3 then lcuAct k head
    else
      let ins := k.needs gated head
      let toks := ins.filterMap head
      if k.kind ≠ 4 && (stopHeads k head).any (·.isSome) then
        match stopHeads k head with
        | some lv :: rest =>
          let all := (rangeFrom 4 0).filter k.names
          if rest.all (· == some lv) then some (if k.kind = 0 && k.emit == 1 && lv == 1 then .fold all else .stops lv all) else none
        | _ => none
      else if toks.length < ins.length || ins.isEmpty && k.kind ≠ 0 then none
      else if k.kind = 4 then
        match toks with
        | [a, b] => joinAct k a b
        | _ => none
      else some (.run ins)

/-! ### Memory contexts: readiness (R366–R368, R399) -/

def CtxState.agWord (k : CtxState) (one : Bool) : Nat := if one then cfield k.word 111 0 else cfield k.word 223 112
def CtxState.agOn (k : CtxState) (one : Bool) : Bool := (k.agWord one).testBit 111
def CtxState.agExt (k : CtxState) (one : Bool) : Bool := (k.agWord one).testBit 110
def CtxState.agSrc (k : CtxState) (one : Bool) : Nat := bitsN (k.agWord one) 109 108
def CtxState.agStops (k : CtxState) : Nat := bitsN (k.agWord false) 7 6
def CtxState.memSize (k : CtxState) : Nat :=
  match cfield k.word 231 229 with | 0 => 1 | 1 => 2 | 2 => 4 | 3 => 8 | _ => 32
def CtxState.ordered (k : CtxState) : Bool := k.word.getLsbD 237 || k.word.getLsbD 235
def CtxState.wantsDone (k : CtxState) : Bool := k.word.getLsbD 236

/-- Counts C0 + 1, C1 + 1, C2 + 1 of a generator (R367). -/
def CtxState.agCounts (k : CtxState) (one : Bool) : Nat × Nat × Nat :=
  (bitsN (k.agWord one) 37 28 + 1, bitsN (k.agWord one) 27 18 + 1, bitsN (k.agWord one) 17 8 + 1)

def CtxState.walkLength (k : CtxState) (one : Bool) : Nat :=
  let c := k.agCounts one
  c.1 * c.2.1 * c.2.2

/-- The pattern's offset at position `n` of a walk, and BASE (R367). -/
def CtxState.agOffset (k : CtxState) (one : Bool) (n : Nat) : Int :=
  let g := k.agWord one
  let c := k.agCounts one
  laneInt 32 (bitsN g 105 74) + 8 * (laneInt 12 (bitsN g 73 62) * (n % c.1 : Nat)
    + laneInt 12 (bitsN g 61 50) * (n / c.1 % c.2.1 : Nat) + laneInt 12 (bitsN g 49 38) * (n / c.1 / c.2.1 % c.2.2 : Nat))

/-- The generator takes a token before its next access: each access, or each walk (R367). -/
def CtxState.agTakes (k : CtxState) (one : Bool) : Bool :=
  match k.agSrc one with
  | 1 => true
  | 2 => (if one then k.base1 else k.base0).isNone
  | _ => false

def endpointProd (k : CtxState) : Bool := k.word.getLsbD 243

/-- The sides of a memory context that could fire, in the order of R399: heads only, room apart, no stop due. -/
def sideActs (k : CtxState) (head : Nat → Option Tok) : List Act :=
  let ins := (rangeFrom 4 0).filter k.names
  let toks := ins.filterMap head
  let stop := fun (i : Nat) => match head i with | some t => t.isStop | none => false
  let null := fun (i : Nat) => match head i with | some t => t.kind == .null | none => false
  match ins.find? fun i => (match head i with | some t => t.kind == .config | none => false) with
  | some i => [.config i]
  | none =>
    if ins.any stop then
      if k.kind = 0 && stop 1 && (match head 1 with | some t => t.level == 1 | none => false) then [.swap]
      else
        let lv := match toks with | t :: _ => t.level | [] => 0
        if toks.length = ins.length && (toks.all fun t => t.isStop && t.level == lv) && (k.kind != 1 || k.queue.isEmpty) then [.stops lv ins]
        else if k.kind = 1 && !k.queue.isEmpty then [.pop] else []
    else if k.ordered && (head 3).isNone then []
    else match k.kind with
      | 0 =>
        let wr := k.agOn true && (head 1).isSome && (!k.agTakes true || (head 2).isSome)
        let rd := k.agOn false && (!k.agTakes false || (head 0).isSome)
        (if wr && (!rd || !k.lastWrite) then [Act.write] else []) ++ (if rd then [Act.read] else [])
          ++ (if wr && rd && k.lastWrite then [Act.write] else [])
      | 1 =>
        (if k.queue.isEmpty then [] else [Act.pop])
          ++ (if (head 1).isSome && decide (k.queue.length < 1024) then [Act.push] else [])
      | 2 => if (head 1).isSome then [.push] else []
      | 3 => if k.agOn false && (head 0).isSome && (head 1).isSome then [.write] else []
      | _ =>
        if endpointProd k then
          (if k.agOn true && (head 1).isSome && (!k.agTakes true || (head 2).isSome)
              && (decide (k.moved < k.seenCount + k.walkLength true) || null 1 || (k.agTakes true && null 2)) then [.put] else [])
        else if k.agOn false && !k.agTakes false && decide (k.moved < k.seenCount) then [.take] else []

/-- What a memory context could do: while a stop of its walk is due the read side writes it first, and the write side goes on as it can
(R367, R399). -/
def memActs (k : CtxState) (head : Nat → Option Tok) : List Act :=
  if k.stopsDue.isEmpty then sideActs k head
  else .dueStop :: (if k.kind = 0 then (sideActs k head).filter fun a => a == .write || a == .swap else [])

/-! ### Room on outputs (R176, R179, R370) -/

/-- The outputs that an act of a context must have room on. -/
def Act.outs (k : CtxState) (a : Act) : List Nat :=
  let all := (rangeFrom 4 0).filter k.writes
  if k.mem then
    match a with
    | .read | .pop | .take => all.filter fun j => j == 0 || (j == 3 && k.wantsDone)
    | .dueStop => all.filter fun j => j == 0
    | .push => if k.kind = 2 then all.filter fun j => j == 0 || (j == 3 && k.wantsDone) else all.filter fun j => j == 3 && k.wantsDone
    | .write => all.filter fun j => (j == 0 && k.kind == 3) || (j == 3 && k.wantsDone)
    | .put => all.filter fun j => j == 3 && k.wantsDone
    | .swap | .config _ => []
    | _ => all
  else
    match a with
    | .config _ => all.filter fun j => j == 0
    | _ => all

/-- Inputs of a memory access, with its gate's (R366, R368). -/
def gated3 (k : CtxState) (ins : List Nat) : List Nat := if k.ordered then ins ++ [3] else ins

/-- The next iteration of a sequential lcu takes the done token of the one before (R362). -/
def CtxState.takesDone (k : CtxState) : Bool := !k.word.getLsbD 30 && k.names 1 && decide (k.done < k.issued)

/-- The inputs whose head tokens an act consumes. -/
def Act.takes (k : CtxState) (a : Act) : List Nat :=
  match a with
  | .config i => [i]
  | .stops _ ins | .fold ins | .run ins | .join ins _ _ => ins
  | .index bounds => (if bounds then [0] else []) ++ (if k.takesDone then [1] else [])
  | .noIndex => [0]
  | .lastStop | .dueStop => []
  | .swap => [1]
  | .read => gated3 k (if k.agTakes false then [0] else [])
  | .write => gated3 k (if k.kind = 3 then [0, 1] else [1] ++ (if k.agTakes true then [2] else []))
  | .put => gated3 k ([1] ++ (if k.agTakes true then [2] else []))
  | .push => gated3 k [1]
  | .pop | .take => gated3 k []

/-- The next acts of a context in order of preference. -/
def CtxState.acts (k : CtxState) (gated : Bool) (head : Nat → Option Tok) : List Act :=
  if k.mem then memActs k head
  else match computeAct k gated head with
    | some a => [a]
    | none => []

/-- Where a link ends: the context, if it is one. -/
def Placed.target (p : Placed) (l : LinkState) : Option CtxState :=
  if l.dport < 4 then p.ctxs.find? fun k => l.into k l.dport else none

/-! ### A fire's effect on the copy -/

/-- What a fire does: inputs consumed, tokens written on outputs, the context afterwards. -/
structure Fire where
  takes : List Nat
  puts  : List (Nat × Tok)
  ctx   : CtxState

/-- The same context: one cell and context number. -/
def CtxState.same (a b : CtxState) : Bool := a.col == b.col && a.row == b.row && a.ctx == b.ctx

/-- The packet of a fire: the latest among its tokens. (DEDUCED, log 62) -/
def packetOf (ts : List Tok) : Nat := ts.foldl (fun n t => Nat.max n t.pkt) 0

/-- The packet that a fire of the context belongs to: the latest among its tokens and those it took before. -/
def CtxState.pktOf (k : CtxState) (ts : List Tok) : Nat := Nat.max k.pkt (packetOf ts)

/-- A token of packet `n`, unless it is marked already. -/
def Tok.ofPacket (t : Tok) (n : Nat) : Tok := if t.pkt = 0 then { t with pkt := n } else t

/-- A fire's tokens move, and its context is replaced (R176). -/
def Placed.apply (p : Placed) (f : Fire) : Placed :=
  let n := f.ctx.pktOf (f.takes.filterMap (p.headAt f.ctx))
  let k := { f.ctx with pkt := n }
  { p with
    ctxs := p.ctxs.map fun x => if x.same k then k else x
    links := p.links.map fun l =>
      let l := if l.dport < 4 && l.into k l.dport && f.takes.contains l.dport then { l with toks := l.toks.drop 1 } else l
      (f.puts.filter fun w => l.outOf k w.1).foldl (fun l w => l.push (w.2.ofPacket n)) l }

/-- The loop iterations its tokens belong to. -/
def itersOf (ts : List Tok) : List (Nat × Nat) := (ts.flatMap fun t => t.itr).eraseDups

/-- The token belongs to a squashed iteration (R193). -/
def Tok.squashedIn (t : Tok) (sq : List (Nat × Nat)) : Bool := t.itr.any fun i => sq.contains i

/-- A token to every named output. -/
def CtxState.everywhere (k : CtxState) (t : Tok) : List (Nat × Tok) := ((rangeFrom 4 0).filter k.writes).map fun j => (j, t)

/-- The number an lcu is known by in the marks of R193: each copy of a twin has lcus of its own. -/
def Placed.lcuId (p : Placed) (k : CtxState) : Nat := k.col + 16 * k.row + 128 * k.ctx + 512 * p.copy

/-- Counters after a fire, and whether it was last (R359). -/
def CtxState.count (k : CtxState) : CtxState × Bool :=
  let n0 := cfield k.word 63 48
  let n1 := cfield k.word 47 32
  let last := n0 == 0 || k.cnt0 == n0 - 1
  let step1 := n1 != 0 && (!k.word.getLsbD 31 || (n0 != 0 && last))
  ({ k with cnt0 := if last then 0 else k.cnt0 + 1, cnt1 := if step1 then (k.cnt1 + 1) % n1 else k.cnt1, own := if last then [] else k.own }, last)

/-- A gathered operand (R354). (DEDUCED, log 63) -/
def CtxState.gather (k : CtxState) (head : Nat → BitVec 256) (code : Nat) : BitVec 256 :=
  let g := stageOf (cfield k.word 219 204)
  match code with
  | 0 | 1 | 2 | 3 => if k.names code then head code else 0
  | 4 => spread g.w (g.const k.k0)
  | 5 => spread g.w (g.const k.k1)
  | 6 => spread g.w k.cnt0
  | 8 => BitVec.allOnes 256
  | _ => 0

/-- An input after ALIGN (R354). -/
def CtxState.aligned (k : CtxState) (head : Nat → Option Tok) (i : Nat) : BitVec 256 :=
  match head i with
  | none => 0
  | some t =>
    let w := laneWidth (stageOf (cfield k.word 219 204)).lane
    if cfield k.word (237 + 2 * i) (236 + 2 * i) = 1 then spread w (t.pay.toNat % 2 ^ w) else t.pay

/-- How a fire runs: operand A when the kind gives it, null, silent, the last-iteration flag of an lcu, its marks. -/
structure RunArgs where
  opA   : Option (BitVec 256)
  null  : Bool
  quiet : Bool
  flag  : Option Bool
  pkt   : Nat
  itr   : List (Nat × Nat)

/-- The stages, routing, emission and counters of a fire (R355–R360), and whether a code-10 digit was read. -/
def CtxState.fireRun (k : CtxState) (gated : Bool) (head : Nat → Option Tok) (r : RunArgs) :
    CtxState × List (Nat × Tok) × Bool :=
  let hd := k.aligned head
  let a := r.opA.getD (k.gather hd (cfield k.word 235 232))
  let pred := ((k.gather hd (cfield k.word 223 220)).getLsbD 0)
  let o : Sources := { a := a, b := k.gather hd (cfield k.word 231 228), c := k.gather hd (cfield k.word 227 224), pred := pred }
  let rs := if r.null then [] else stageAll k o 1 k.stages a
  let k1 := if r.null then k else { k with own := rs }
  let (k2, last) := k1.count
  let value := fun (j : Nat) =>
    match cfield k.word (149 + 2 * j) (148 + 2 * j) with
    | 0 => AMap.getD rs 4 0
    | 1 => a
    | 2 => if pred then 1 else 0
    | _ => if r.flag.getD last then 1 else 0
  let k2 := if r.null then k2 else { k2 with reg0 := a, reg5 := value 0 }
  let itr := if k.emit = 1 then [] else r.itr
  let mk := fun (kind : TokKind) (v : BitVec 256) => Tok.mk kind v r.pkt itr
  let silent := r.quiet || (k.emit == 1 && !last) || (gated && k.emit == 2 && !pred)
  let outs := (rangeFrom 4 0).filter fun j => k.writes j && !(k.kind == 3 && j == 2)
  let puts := if silent then [] else outs.filterMap fun j =>
    if k.word.getLsbD 147 && decide (j < 2) && (j == 1) != pred then (if gated then none else some (j, mk .null 0))
    else if r.null || (k.emit == 2 && !pred) then some (j, mk .null 0)
    else some (j, mk .data (value j))
  (k2, puts, !r.null && readsBadDigit k o rs)

/-- What the fires of a copy read beside it: its image's size in pages, gating, the iterations squashed, and what the memory contexts would
do now. -/
structure Fab where
  wide : Nat
  high : Nat
  gated : Bool
  squashed : List (Nat × Nat)
  /-- The copy after an act of one of its memory contexts. -/
  memFire : Placed → CtxState → Act → Placed

/-- A configuration token (R195, R365): its target is in the copy's rectangle and its reserved field is zero. -/
def configGood (w h : Nat) (v : BitVec 256) : Bool :=
  bitsN v.toNat 27 10 == 0 && decide (bitsN v.toNat 3 0 < 4 * w) && decide (bitsN v.toNat 6 4 < 4 * h)

/-- Writes a constant of a context. -/
def CtxState.setConst (k : CtxState) (v : BitVec 256) : CtxState :=
  let c := BitVec.ofNat 32 (bitsN v.toNat 63 32)
  if bitsN v.toNat 9 9 = 1 then { k with k1 := c } else { k with k0 := c }

/-- A configuration token at input `i` of a compute context (R195). -/
def Placed.configure (p : Placed) (w h : Nat) (k : CtxState) (i : Nat) (t : Tok) : Placed :=
  let v := t.pay
  let here := bitsN v.toNat 3 0 == k.col && bitsN v.toNat 6 4 == k.row
  let puts := if configGood w h v && !here && k.writes 0 then [(0, t)] else []
  let p := p.apply { takes := [i], puts := puts, ctx := k.count.1 }
  if configGood w h v && here then
    { p with ctxs := p.ctxs.map fun x =>
        if x.col == k.col && x.row == k.row && x.ctx == bitsN v.toNat 8 7 then x.setConst v else x }
  else p

/-- What a fire of a compute context changes beside the copy: iterations squashed, and a code-10 digit of a packet. -/
structure Fired where
  copy : Placed
  squash : List (Nat × Nat)
  bd   : Option Nat

/-- The operand A, null and silence of a run (R190, R193, R361). -/
def runArgs (k : CtxState) (gated : Bool) (sq : List (Nat × Nat)) (head : Nat → Option Tok) (ins : List Nat) :
    CtxState × RunArgs :=
  let toks := ins.filterMap head
  let null := toks.any fun t => t.kind == .null
  let base : RunArgs := { opA := none, null := null, quiet := false, flag := none, pkt := k.pktOf toks, itr := itersOf toks }
  match k.kind with
  | 1 =>
    if gated then (k, { base with opA := some (k.aligned head (ins.headD 0)) })
    else
      let g := cfield k.word 223 220
      let pt := if g ≤ 3 then head g else none
      let pred := (k.gather (k.aligned head) g).getLsbD 0
      let i := if pred then 1 else 0
      let chosen := head i
      let bad := match chosen with | some t => t.kind == .null || t.squashedIn sq | none => true
      let pbad := match pt with | some t => t.kind == .null || t.squashedIn sq | none => false
      (k, { base with opA := some (k.aligned head i), null := bad || pbad, itr := (match chosen with | some t => t.itr | none => []) })
  | 2 =>
    if k.inLoop then
      let past := match head 2 with | some t => t.kind == .null || t.pay.getLsbD 0 | none => false
      (if past then { k with inLoop := false } else k, { base with opA := some (k.aligned head 1), quiet := past })
    else ({ k with inLoop := true }, { base with opA := some (k.aligned head 0) })
  | _ => (k, base)

/-- An lcu issues an iteration (R362). (DEDUCED, log 64) -/
def lcuIssue (p : Placed) (gated : Bool) (k : CtxState) (bounds : Bool) : Fired :=
  let head := p.headAt k
  let t := (head 0).getD ⟨.data, 0, 0, []⟩
  let k0 := if bounds then
      { k with
        index := if t.kind == .null then 0 else t.pay.toNat % 2 ^ 32
        left := if t.kind == .null then 1 else bitsN t.pay.toNat 63 32
        nullIter := t.kind == .null
        starts := k.starts ++ [k.issued] }
    else k
  let last := k0.left == 1
  let waits := k.takesDone
  let takes := (if bounds then [0] else []) ++ (if waits then [1] else [])
  let itr := if k.names 2 then [(p.lcuId k, k.issued)] else []
  let pkt := k.pktOf ((if bounds then [t] else []) ++ (if waits then (head 1).toList else []))
  let (k1, puts, bd) := k0.fireRun gated head
    { opA := some (BitVec.ofNat 256 k0.index), null := k0.nullIter, quiet := false, flag := some last, pkt := pkt, itr := itr }
  let confirm := if k.writes 2 && !k.names 2 then
      [(2, Tok.mk (if k0.nullIter then .null else .data) (if k0.nullIter then 0 else 1) pkt [])] else []
  let k2 := { k1 with
    index := k0.index + 1
    left := k0.left - 1
    stopDue := last && decide (cfield k.word 26 25 ≠ 0)
    issued := k.issued + 1
    done := if waits then k.done + 1 else k.done
    ended := if k.names 2 then k.ended else k.issued + 1
    starts := if k.names 2 then k1.starts else [] }
  { copy := p.apply { takes := takes, puts := puts ++ confirm, ctx := k2 }, squash := [], bd := if bd then some pkt else none }

/-- An lcu consumes the exit token at input 2 and writes its confirm token (R362): an exit ends the count of its bounds token and squashes
every later iteration already issued (R193). Stop and configuration tokens are no exit tokens (R194, R195). (DEDUCED, log 64) -/
def lcuExit (g : Fab) (p : Placed) (k : CtxState) : Option Fired :=
  match p.headAt k 2 with
  | none => none
  | some t =>
    if k.mem || k.kind ≠ 3 || !k.names 2 || decide (k.issued ≤ k.ended) || t.isStop || t.kind == .config then none
    else
      let i := k.ended
      let dead := g.squashed.contains (p.lcuId k, i) || t.kind == .null
      let leaves := !dead && t.pay.getLsbD 0
      let current := !(k.starts.any fun x => i < x)
      let gone := if leaves then (rangeFrom (k.issued - i - 1) (i + 1)).map fun j => (p.lcuId k, j) else []
      let k' := { k with
        ended := i + 1
        left := if leaves && current then 0 else k.left
        stopDue := k.stopDue || (leaves && current && k.left != 0 && decide (cfield k.word 26 25 ≠ 0))
        starts := k.starts.filter fun x => i < x }
      let c : Tok := if dead then ⟨.null, 0, t.pkt, []⟩ else ⟨.data, 1, t.pkt, []⟩
      some { copy := p.apply { takes := [2], puts := if k.writes 2 then [(2, c)] else [], ctx := k' }, squash := gone, bd := none }

/-- One fire of a compute context: every one advances the counters, but for the stop reduction, which resets them (R359, R364). (DEDUCED,
log 62) -/
def fireCompute (g : Fab) (p : Placed) (k : CtxState) (a : Act) : Fired :=
  let head := p.headAt k
  match a with
  | .config i => { copy := p.configure g.wide g.high k i ((head i).getD ⟨.config, 0, 0, []⟩), squash := [], bd := none }
  | .stops lv ins =>
    let t : Tok := ⟨.stop, BitVec.ofNat 256 lv, 0, []⟩
    let puts := if k.kind = 3 then (if k.writes 0 then [(0, t)] else []) else k.everywhere t
    { copy := p.apply { takes := ins, puts := puts, ctx := k.count.1 }, squash := [], bd := none }
  | .fold ins =>
    let v := AMap.getD k.own 4 0
    let t : Tok := ⟨.data, v, k.pktOf (ins.filterMap head), []⟩
    { copy := p.apply { takes := ins, puts := k.everywhere t, ctx := { k with own := [], cnt0 := 0, cnt1 := 0 } }, squash := [], bd := none }
  | .run ins =>
    let (k', r) := runArgs k g.gated g.squashed head ins
    let (k2, puts, bd) := k'.fireRun g.gated head r
    { copy := p.apply { takes := ins, puts := puts, ctx := k2 }, squash := [], bd := if bd then some r.pkt else none }
  | .join ins from_ reset =>
    let t := from_.bind head
    let toks := ins.filterMap head
    let r : RunArgs := { opA := from_.map (k.aligned head), null := t.isNone, quiet := t.isNone && g.gated && !(toks.any fun x => x.kind == .null), flag := none, pkt := k.pktOf toks, itr := itersOf toks }
    let (k', puts, bd) := k.fireRun g.gated head r
    let k' := if reset then { k' with cnt0 := 0 } else k'
    { copy := p.apply { takes := ins, puts := puts, ctx := k' }, squash := [], bd := if bd then some r.pkt else none }
  | .index b => lcuIssue p g.gated k b
  | .noIndex => { copy := p.apply { takes := [0], puts := [], ctx := k.count.1 }, squash := [], bd := none }
  | .lastStop =>
    let t : Tok := ⟨.stop, BitVec.ofNat 256 (cfield k.word 26 25), 0, []⟩
    { copy := p.apply { takes := [], puts := if k.writes 0 then [(0, t)] else [], ctx := { k.count.1 with stopDue := false } }, squash := [], bd := none }
  | _ => { copy := p, squash := [], bd := none }

/-! ### Room on outputs (R176, R179, R370) -/

/-- The gate of ORDIN and CONF (R368): consumed with the access; a null confirm token cancels it. -/
def gateNull (k : CtxState) (head : Nat → Option Tok) : Bool :=
  k.word.getLsbD 235 && (match head 3 with | some t => t.kind != .data | none => false)

/-- The mark of a null that stands in a FIFO. -/
def nullEntry : BitVec 256 := BitVec.ofNat 256 (2 ^ 255)

/-- The copy right after an act of a context: its tokens stand on the links. -/
def Placed.after (g : Fab) (p : Placed) (k : CtxState) (a : Act) : Placed := if k.mem then g.memFire p k a else (fireCompute g p k a).copy

/-- Links of a copy that a producer writes have room: a free slot, or, on a link of 0 slots, a consumer that fires with the token that
arrives, as `takes` says of the copy `q` in which it stands (R179). -/
def Placed.linksFree (q : Placed) (takes : LinkState → Bool) (ls : List LinkState) : Bool :=
  ls.all fun l =>
    if l.slots ≠ 0 then decide (l.toks.length < l.slots)
    else l.toks.isEmpty && (match q.links.find? fun x => x.desc == l.desc with
      | some x => x.toks.isEmpty || takes x
      | none => true)

/-- The links at outputs `js` of a context. -/
def Placed.linksAt (p : Placed) (k : CtxState) (js : List Nat) : List LinkState := js.flatMap fun j => p.links.filter fun l => l.outOf k j

/-- The outputs that an act needs have room, as `takes` says of the copy after it; with no link of 0 slots among them only slots count. -/
def Placed.roomWith (takes : Placed → LinkState → Bool) (g : Fab) (p : Placed) (k : CtxState) (a : Act) : Bool :=
  let ls := p.linksAt k (a.outs k)
  if ls.all fun l => l.slots ≠ 0 then ls.all fun l => decide (l.toks.length < l.slots)
  else
    let q := p.after g k a
    q.linksFree (takes q) ls

/-- The consumer of a 0-slot link takes the token that stands on it at once; `fuel` bounds a chain of such links (R179). (DEDUCED, log 62) -/
def linkTakes : Nat → Fab → Placed → LinkState → Bool
  | 0, _, _, _ => false
  | fuel + 1, g, p, l =>
    match p.target l with
    | none => true
    | some k =>
      match (if l.dport = 2 then lcuExit g p k else none) with
      | some f => f.copy.linksFree (linkTakes fuel g f.copy) (p.linksAt k (if k.writes 2 then [2] else []))
      | none =>
        match (k.acts g.gated (p.headAt k)).find? fun a => p.roomWith (linkTakes fuel g) g k a with
        | some a => (a.takes k).contains l.dport
        | none => false

/-- A chain of 0-slot links is at most as long as there are links (R371). -/
def Placed.fuel (p : Placed) : Nat := p.links.length + 1

/-- Every output that an act needs has room on each of its links (R176, R370). -/
def Placed.room (g : Fab) (p : Placed) (k : CtxState) (a : Act) : Bool :=
  p.roomWith (linkTakes p.fuel g) g k a

/-- What the context would do now (R176, R177): none when it cannot fire. -/
def Placed.nextAct (g : Fab) (p : Placed) (k : CtxState) : Option Act :=
  (k.acts g.gated (p.headAt k)).find? fun a => p.room g k a

/-- An exit token is taken while output 2 has a free slot (R362). -/
def lcuConfirm (g : Fab) (p : Placed) (k : CtxState) : Option Fired :=
  match lcuExit g p k with
  | none => none
  | some f => if f.copy.linksFree (linkTakes p.fuel g f.copy) (p.linksAt k (if k.writes 2 then [2] else [])) then some f else none

/-! ### The cell's choice (R177) -/

/-- The context `n` of a cell. -/
def Placed.ctxAt (p : Placed) (cell n : Nat) : Option CtxState :=
  p.ctxs.find? fun k => p.cellAt k.col k.row == cell && k.ctx == n

/-- The context `n` of the cell and what it would do, when it can fire. -/
def Placed.canFire (g : Fab) (p : Placed) (cell n : Nat) : Option (CtxState × Act) :=
  match p.ctxAt cell n with
  | none => none
  | some k => (p.nextAct g k).map fun a => (k, a)

/-- The first other context of a cell that can fire, in the order of R177. -/
def Placed.otherFires (g : Fab) (p : Placed) (cell : Nat) : Option Nat :=
  let cc := (AMap.getD p.cells cell {}).cc
  [(cc + 1) % 4, (cc + 2) % 4, (cc + 3) % 4].find? fun n => (p.canFire g cell n).isSome

/-- What a cell does in its clock. -/
inductive CellTurn where
  | fire (k : CtxState) (a : Act)
  | switch (n : Nat)
  | idle

/-- The rule of R177. -/
def Placed.cellTurn (g : Fab) (p : Placed) (cell : Nat) : CellTurn :=
  let c := AMap.getD p.cells cell {}
  match p.canFire g cell c.cc, p.otherFires g cell with
  | some (k, a), none => .fire k a
  | some (k, a), some n => if c.run < 16 then .fire k a else .switch n
  | none, some n => .switch n
  | none, none => .idle

/-- The cell's run count after a fire, or its counter after a switch. -/
def Placed.fired (p : Placed) (cell : Nat) : Placed :=
  let c := AMap.getD p.cells cell {}
  { p with cells := AMap.set p.cells cell { c with run := Nat.min (c.run + 1) 16 } }

/-- As `fired`, for the context that a token on a 0-slot link makes fire. -/
def Placed.firedAs (p : Placed) (cell n : Nat) : Placed :=
  if (AMap.getD p.cells cell {}).cc = n then p.fired cell else { p with cells := AMap.set p.cells cell { cc := n, run := 1 } }

def Placed.switched (p : Placed) (cell n : Nat) : Placed :=
  { p with cells := AMap.set p.cells cell { cc := n, run := 0 } }

end Sys2Proof.Machine
end

