-- ==== Sys2Proof/Machine/MemCells.lean ====
section
/-! DEFINITION. Memory-cell contexts (R173, R174, R185–R187, R193, R196–R198, R366–R368, R399): address generators, the five
modes, accesses in serve mode and in stream sections. -/

namespace Sys2Proof.Machine

/-! ### Images and packets -/

def Image.stream (i : Image) : Bool := bitAt i.h0 55
def Image.gated (i : Image) : Bool := bitAt i.h0 54
def Image.twin (i : Image) : Bool := bitAt i.h0 53
def Image.height (i : Image) : Nat := bits i.h0 52 51
def Image.width (i : Image) : Nat := bits i.h0 50 48
def Image.nRes (i : Image) : Nat := bits i.h1 7 4
def Image.nArg (i : Image) : Nat := bits i.h1 3 0

def Image.setCopy (i : Image) (j : Nat) (p : Placed) : Image := { i with copies := i.copies.set j p }

def Image.packet (i : Image) (n : Nat) : Option Packet := i.tags.find? fun p => p.num == n

def Image.mapPacket (i : Image) (n : Nat) (f : Packet → Packet) : Image :=
  { i with tags := i.tags.map fun p => if p.num == n then f p else p }

/-- A fault of a packet is recorded (R187). -/
def Image.poison (i : Image) (n : Nat) (code : BitVec 4) (va : Word) (itr : List (Nat × Nat)) : Image :=
  i.mapPacket n fun p => { p with faults := p.faults ++ [(code, va, itr)] }

/-- The owner whose memory a server's cells reach: the one that holds the cluster (R59). -/
def serverOwner (s : State) (c : Nat) : BitVec 12 :=
  match holder s c with
  | some o => o
  | none => (getCluster s c).lastOwner.getD 0

/-! ### Addresses (R367, R368) -/

/-- The 8 KiB of a memory cell by its number in the server (R172). -/
def memCell (p : Placed) (k : CtxState) : Nat :=
  let n := p.cellAt k.col k.row
  8 * (n / 16) + n % 16 / 2

/-- Buffers that an operand store's cell is split into, with AG1 enabled (R368). -/
def CtxState.buffers (k : CtxState) : Nat := if k.kind = 0 && k.agOn true then cfield k.word 241 240 + 1 else 1

def CtxState.bufSize (k : CtxState) : Nat := match k.buffers with | 1 => 8192 | 2 => 4096 | _ => 2048

/-- The location key of an internal access of `n` bytes (R367): modulo the buffer, low bits ignored. -/
def internalKey (c : Nat) (p : Placed) (k : CtxState) (write : Bool) (addr : Int) (n : Nat) : Nat :=
  let nb := k.buffers
  let b := if write then k.buf % nb else (k.buf + nb - 1) % nb
  let off := (addr % (k.bufSize : Int)).toNat / n * n
  cellKey c p.server (memCell p k) (if k.kind = 0 then b * k.bufSize + off else off)

/-- The base of a generator for this access. -/
def CtxState.agBase (k : CtxState) (one : Bool) (t : Option Tok) : Int :=
  match t with
  | some t => ((t.pay.toNat % 2 ^ 64 : Nat) : Int)
  | none => ((if one then k.base1 else k.base0).getD 0)

/-- The address of a generator's next access, given the token it takes. -/
def CtxState.agAddr (k : CtxState) (one : Bool) (t : Option Tok) : Int :=
  k.agBase one t + k.agOffset one (if one then k.ag1 else k.ag0)

/-- The walk ends with the access at position `n`. -/
def CtxState.walkEnds (k : CtxState) (one : Bool) (n : Nat) : Bool := (n + 1) % k.walkLength one == 0

/-- The generator after an access (R367). -/
def CtxState.agStep (k : CtxState) (one : Bool) (t : Option Tok) : CtxState :=
  if one then
    { k with ag1 := k.ag1 + 1, base1 := if k.agSrc true = 2 && !k.walkEnds true k.ag1 then some (k.agBase true t) else none }
  else
    { k with ag0 := k.ag0 + 1, base0 := if k.agSrc false = 2 && !k.walkEnds false k.ag0 then some (k.agBase false t) else none }

/-- Stops due after a read at position `n` (R367 STOPS). -/
def CtxState.stopsAfter (k : CtxState) (n : Nat) : List Nat :=
  let c := k.agCounts false
  (if 1 ≤ k.agStops && (n + 1) % c.1 == 0 then [1] else [])
    ++ (if 2 ≤ k.agStops && (n + 1) % (c.1 * c.2.1) == 0 then [2] else [])
    ++ (if 3 ≤ k.agStops && (n + 1) % k.walkLength false == 0 then [3] else [])

/-! ### Accesses outside the server (R173, R187) -/

/-- What an external access meets. -/
inductive CellAcc where
  | ok (key : Nat) (cached : Bool) (flagAt : Option Nat)
  /-- A fault that poisons the packet with this code, or ends the section. -/
  | fault (code : BitVec 4)
  /-- A walk is under way: the access waits. -/
  | wait (s : State)

/-- The fault in which the walk of a packet's access ended (R94). -/
def Image.answered (i : Image) (pkt : Nat) (va : Word) : Option (Word × BitVec 4) :=
  match i.packet pkt with
  | some p => p.answers.find? fun a => a.1 == va
  | none => none

/-- The clock under which a packet's or section's access reads (R185, R207). -/
def Image.readClock (i : Image) (pkt : Nat) : Clock :=
  match i.packet pkt with
  | some p => p.clock
  | none => i.clock

/-- Where an access of a memory cell goes: global memory or the cluster's scratchpads (R173). A serve-mode miss on a page with
a fault entry is answered at once (R94). It waits for what happens before it and is on its way to the same home (R224). -/
def cellAccess (s : State) (c : Nat) (i : Image) (pkt : Nat) (cell : Nat) (va : Word) (n : Nat) (w : Want)
    (kind : BitVec 4) : CellAcc :=
  let o := serverOwner s c
  let die := clusterDie c
  let who := if i.stream then Requester.region c i.fid cell else .serveCell c i.fid pkt
  match i.answered pkt va with
  | some a => .fault a.2
  | none =>
    if va.toNat % n ≠ 0 ∨ (bits va 63 56 ≠ 0 ∧ bits va 63 56 ≠ 0xC0) then .fault 1
    else match reach s c none o va n w with
      | .home key fl => if engineWaits s (i.readClock pkt) key n fl then .wait s else .ok key false fl
      | .cached key fl => if w != .write && engineWaits s (i.readClock pkt) key n none then .wait s else .ok key true fl
      | .denied => .fault 1
      | .missing =>
        if !i.stream && (getDie s die).faults.any (fun f => f.owner == o && f.page == pageOf va) then .fault 2
        else if alreadyWaits s die (pageOf va) who then .wait s
        else .wait (startWalk s die o { who := who, va := va, kind := kind })

/-- Reads `n` bytes at a key in words of at most 8. -/
def readBytes (s : State) (c : Nat) (o : BitVec 12) (clk : Clock) (va : Word) (key : Nat) (cached : Bool) (n : Nat) : List Byte × Bool :=
  if n ≤ 8 then readAt s (some c) o clk va n key cached
  else
    (rangeFrom (n / 8) 0).foldl (fun r i =>
      let x := readAt s (some c) o clk (va + BitVec.ofNat 64 (8 * i)) 8 (key + 8 * i) cached
      (r.1 ++ x.1, r.2 || x.2)) ([], false)

/-- The bytes of a load with the packet's own held stores laid over them (R185). -/
def forwarded (hs : List HeldStore) (sq : List (Nat × Nat)) (key : Nat) (bs : List Byte) : List Byte :=
  ((rangeFrom bs.length key).zip bs).map fun p =>
    ((hs.filter fun h => !(h.itr.any fun x => sq.contains x)).foldl (fun b h =>
      if h.key ≤ p.1 ∧ p.1 < h.key + h.bytes.length then h.bytes.getD (p.1 - h.key) 0 else b) p.2)

/-- One word of a section's write. -/
def sectionWord (c : Nat) (va : Word) (key : Nat) (cached : Bool) (fl : Option Nat) (bs : List Byte) (r : State × Image) (q : Nat) : State × Image :=
  (engineWriteAt r.1 (serverOwner r.1 c) (engineWriter r.2.agent c r.2.clock fl) (va + BitVec.ofNat 64 (8 * q)) (key + 8 * q) cached ((bs.drop (8 * q)).take 8) false,
    { r.2 with clock := Clock.tick r.2.clock r.2.agent })

/-- A write of a section, performed as it is issued (R207), in words of at most 8 bytes (R223): in a cached page in the cluster's cache
(R212). -/
def sectionWrite (s : State) (c : Nat) (i : Image) (va : Word) (key : Nat) (cached : Bool) (fl : Option Nat) (bs : List Byte) : State × Image :=
  (rangeFrom ((bs.length + 7) / 8) 0).foldl (sectionWord c va key cached fl bs) (s, i)

/-- The value a memory-cell update leaves (R366 RMWOP). -/
def rmwResult (op n old v : Nat) : Nat :=
  let v := v % 2 ^ (8 * n)
  let k : AtomicOp := match op with
    | 0 => .add | 1 => .fadd | 2 => .min | 3 => .max | 4 => .and | 5 => .or | 6 => .xor | _ => .swap
  k.apply n old v

/-- A step of a cell: the state and image after it, or a state in which only a walk was started or the section ended. -/
inductive CellStep where
  | done (s : State) (i : Image)
  | other (s : State)

/-- A section's launch ends faulted (R101, R118). -/
def sectionFault (s : State) (i : Image) (code : BitVec 4) : State :=
  match i.launch with
  | some seq => stopRecord s seq .faulted (if code = 6 then 0x22 else 0x21)
  | none => s

/-- The mark of a cell in a fault record: server, cell, context. -/
def cellMark (p : Placed) (k : CtxState) : Nat := (p.server * 128 + p.cellAt k.col k.row) * 4 + k.ctx

/-- A load of a memory context outside the server: bytes and the image after it, or a wait. -/
def cellLoad (s : State) (c : Nat) (i : Image) (j pkt cell : Nat) (itr : List (Nat × Nat)) (va : Word) (n : Nat) :
    Sum (Nat × Image) CellStep :=
  match cellAccess s c i pkt cell va n .read 7 with
  | .wait s' => .inr (.other s')
  | .fault code =>
    if i.stream then .inr (.other (sectionFault s i code))
    else .inl (0, (i.poison pkt code va itr).mapPacket pkt fun p => { p with answers := p.answers.filter fun a => a.1 != va })
  | .ok key cached _ =>
    let r := readBytes s c (serverOwner s c) (i.readClock pkt) va key cached n
    if r.2 then
      if i.stream then .inr (.other (sectionFault s i 6)) else .inl (ofBytes r.1, i.poison pkt 6 va itr)
    else
      let hs := match i.packet pkt with | some p => if j = 0 then p.stores else p.stores2 | none => []
      .inl (ofBytes (forwarded hs i.squashed key r.1), i)

/-- The entries that a store of `n` bytes takes in the commit buffer (R186). (DEDUCED, log 67) -/
def heldPieces (key : Nat) (cached : Bool) (va : Word) (bs : List Byte) (fl : Option Nat) (itr : List (Nat × Nat)) : List HeldStore :=
  (rangeFrom ((bs.length + 7) / 8) 0).map fun q =>
    { key := key + 8 * q, va := va + BitVec.ofNat 64 (8 * q), bytes := (bs.drop (8 * q)).take 8, flagAt := fl, itr := itr, cached := cached }

/-- A store of a packet is held (R186): past 16 entries the packet is poisoned with code 4. (DEDUCED, log 67) -/
def Image.hold (i : Image) (j pkt : Nat) (hs : List HeldStore) (itr : List (Nat × Nat)) : Image :=
  let i := i.mapPacket pkt fun p => if j = 0 then { p with stores := p.stores ++ hs } else { p with stores2 := p.stores2 ++ hs }
  match i.packet pkt with
  | some p => if 16 < (if j = 0 then p.stores else p.stores2).length then i.poison pkt 4 0 itr else i
  | none => i

/-- A store of a memory context outside the server. -/
def cellStore (s : State) (c : Nat) (i : Image) (j pkt cell : Nat) (itr : List (Nat × Nat)) (va : Word) (bs : List Byte) :
    CellStep :=
  match cellAccess s c i pkt cell va bs.length .write 8 with
  | .wait s' => .other s'
  | .fault code =>
    if i.stream then .other (sectionFault s i code)
    else .done s ((i.poison pkt code va itr).mapPacket pkt fun p => { p with answers := p.answers.filter fun a => a.1 != va })
  | .ok key cached fl =>
    if i.stream then
      let r := sectionWrite s c i va key cached fl bs
      .done r.1 r.2
    else .done s (i.hold j pkt (heldPieces key cached va bs fl itr) itr)

/-! ### One fire of a memory context -/

/-- The done token of an access (R366). -/
def doneTok (k : CtxState) (null : Bool) (pkt : Nat) (itr : List (Nat × Nat)) : List (Nat × Tok) :=
  if k.wantsDone && k.writes 3 then [(3, if null then ⟨.null, 0, pkt, itr⟩ else ⟨.data, 1, pkt, itr⟩)] else []

/-- The word that a read brings: a configuration word becomes a configuration token (R365). -/
def readTok (k : CtxState) (v : Nat) (pkt : Nat) (itr : List (Nat × Nat)) : Tok :=
  if k.word.getLsbD 238 && bitsN v 31 28 == 0xF then ⟨.config, BitVec.ofNat 256 v, pkt, itr⟩
  else ⟨.data, BitVec.ofNat 256 v, pkt, itr⟩

/-- Copy `j` of the image after a fire. -/
def Image.fire (i : Image) (j : Nat) (p : Placed) (f : Fire) : Image := i.setCopy j (p.apply f)

/-- An access of the read side, or of an update (R368). (DEDUCED, log 65) -/
def memRead (s : State) (c : Nat) (i : Image) (j : Nat) (p : Placed) (k : CtxState) : CellStep :=
  let head := p.headAt k
  let at_ := if k.agTakes false then head 0 else none
  let ins := gated3 k (if k.agTakes false then [0] else [])
  let toks := ins.filterMap head
  let pkt := k.pktOf toks
  let itr := if k.agTakes false then itersOf toks else (itersOf toks ++ k.marks).eraseDups
  let null := gateNull k head || (match at_ with | some t => t.kind == .null | none => false)
  if null then
    .done s (i.fire j p { takes := ins, puts := (if k.writes 0 then [(0, ⟨.null, 0, pkt, itr⟩)] else []) ++ doneTok k true pkt itr, ctx := { k with lastWrite := false } })
  else
    let n := k.memSize
    let addr := k.agAddr false at_
    let va : Word := BitVec.ofInt 64 addr
    let k' := { k.agStep false at_ with stopsDue := k.stopsAfter k.ag0, lastWrite := false, marks := itr }
    let finish := fun (v : Nat) (i : Image) => CellStep.done s (i.fire j p
      { takes := ins, puts := (if k.writes 0 then [(0, ⟨.data, BitVec.ofNat 256 v, pkt, itr⟩)] else []) ++ doneTok k false pkt itr, ctx := k' })
    if k.agExt false then
      match cellLoad s c i j pkt (cellMark p k) itr va n with
      | .inl (v, i') => finish v i'
      | .inr r => r
    else
      let key := internalKey c p k false addr n
      if poisoned s key n then
        if i.stream then .other (sectionFault s i 6) else finish 0 (i.poison pkt 6 va itr)
      else finish (ofBytes (s.bytesAt n key)) i

/-- An access of the write side of an operand store (R368, R399). (DEDUCED, log 65) -/
def memWrite (s : State) (c : Nat) (i : Image) (j : Nat) (p : Placed) (k : CtxState) : CellStep :=
  let head := p.headAt k
  let at_ := if k.agTakes true then head 2 else none
  let ins := gated3 k ([1] ++ (if k.agTakes true then [2] else []))
  let toks := ins.filterMap head
  let pkt := k.pktOf toks
  let itr := itersOf toks
  let dead := fun (t : Option Tok) => match t with | some t => t.kind == .null || t.squashedIn i.squashed | none => false
  if gateNull k head || dead (head 1) || dead at_ then
    .done s (i.fire j p { takes := ins, puts := doneTok k true pkt itr, ctx := { k with lastWrite := true } })
  else
    let n := k.memSize
    let addr := k.agAddr true at_
    let va : Word := BitVec.ofInt 64 addr
    let bs := bytesOf n (match head 1 with | some t => t.pay.toNat | none => 0)
    let k' := { k.agStep true at_ with lastWrite := true, buf := if k.buffers ≠ 1 && k.walkEnds true k.ag1 then (k.buf + 1) % k.buffers else k.buf }
    let f : Fire := { takes := ins, puts := doneTok k false pkt itr, ctx := k' }
    if k.agExt true then
      match cellStore s c i j pkt (cellMark p k) itr va bs with
      | .done s' i' => .done s' (i'.fire j p f)
      | r => r
    else
      let key := internalKey c p k true addr n
      let s' := homeWrite s key bs (engineWriter i.agent c i.clock none) []
      .done s' (Image.fire { i with clock := Clock.tick i.clock i.agent } j p f)

/-- A read-modify-write (R368): one atomic in home order. -/
def memUpdate (s : State) (c : Nat) (i : Image) (j : Nat) (p : Placed) (k : CtxState) : CellStep :=
  let head := p.headAt k
  let ins := gated3 k [0, 1]
  let toks := ins.filterMap head
  let itr := itersOf toks
  let dead := fun (t : Option Tok) => match t with | some t => t.kind == .null || t.squashedIn i.squashed | none => false
  if gateNull k head || dead (head 0) || dead (head 1) then
    .done s (i.fire j p { takes := ins, puts := (if k.writes 0 then [(0, ⟨.null, 0, 0, itr⟩)] else []) ++ doneTok k true 0 itr, ctx := k })
  else
    let n := k.memSize
    let addr := k.agAddr false (head 0)
    let va : Word := BitVec.ofInt 64 addr
    let v := match head 1 with | some t => t.pay.toNat | none => 0
    let k' := k.agStep false (head 0)
    let finish := fun (s : State) (old : Nat) => CellStep.done s (Image.fire { i with clock := Clock.tick i.clock i.agent } j p
      { takes := ins, puts := (if k.writes 0 then [(0, ⟨.data, BitVec.ofNat 256 old, 0, itr⟩)] else []) ++ doneTok k false 0 itr, ctx := k' })
    let update := fun (key : Nat) (cached : Bool) (fl : Option Nat) =>
      let s := if cached then flushLine s c key else s
      let old := ofBytes (s.bytesAt n key)
      let new := bytesOf n (rmwResult (cfield k.word 234 232) n old v)
      finish (rmwWrite s key new (engineWriter i.agent c i.clock fl) cached []) old
    if k.agExt false then
      match cellAccess s c i 0 (cellMark p k) va n .both 8 with
      | .wait s' => .other s'
      | .fault code => .other (sectionFault s i code)
      | .ok key cached fl => if poisoned s key n then .other (sectionFault s i 6) else update key cached fl
    else
      let key := internalKey c p k true addr n
      if poisoned s key n then .other (sectionFault s i 6) else update key false none

/-- A push into a FIFO or line buffer (R368). (DEDUCED, log 65) The words stand in the context, and the cell's bytes in memory keep what they
held: where a window access finds them the spec leaves open. (DESIGN CHOICE, log 87) -/
def memPush (s : State) (i : Image) (j : Nat) (p : Placed) (k : CtxState) : CellStep :=
  let head := p.headAt k
  let ins := gated3 k [1]
  let toks := ins.filterMap head
  let pkt := k.pktOf toks
  let itr := itersOf toks
  let null := gateNull k head || (match head 1 with | some t => t.kind == .null || t.squashedIn i.squashed | none => false)
  let v := match head 1 with | some t => t.pay.toNat | none => 0
  if k.kind = 1 then
    let k' := { k with queue := k.queue ++ [if null then nullEntry else BitVec.ofNat 256 (v % 2 ^ 64)] }
    .done s (i.fire j p { takes := ins, puts := doneTok k null pkt itr, ctx := k' })
  else if null then
    .done s (i.fire j p { takes := ins, puts := (if k.writes 0 then [(0, ⟨.null, 0, pkt, itr⟩)] else []) ++ doneTok k true pkt itr, ctx := k })
  else
    let rows := cfield k.word 242 240 + 1
    let len := (k.agCounts false).1
    let w := 8 * k.memSize
    let full := rows * len ≤ k.queue.length
    let q := (BitVec.ofNat 256 (v % 2 ^ w) :: k.queue).take (rows * len)
    let out := joinLanes w ((rangeFrom rows 0).map fun r => (q.getD (r * len) 0).toNat)
    let puts : List (Nat × Tok) := if full && k.writes 0 then [(0, Tok.mk .data (BitVec.ofNat 256 out) pkt itr)] else []
    .done s (i.fire j p { takes := ins, puts := puts ++ doneTok k false pkt itr, ctx := { k with queue := q } })

/-- A pop from a FIFO (R368). -/
def memPop (s : State) (i : Image) (j : Nat) (p : Placed) (k : CtxState) : CellStep :=
  let ins := gated3 k []
  match k.queue with
  | [] => .other s
  | v :: rest =>
    if gateNull k (p.headAt k) then
      .done s (i.fire j p { takes := ins, puts := (if k.writes 0 then [(0, ⟨.null, 0, 0, []⟩)] else []) ++ doneTok k true 0 [], ctx := k })
    else
      let null := v == nullEntry
      let t : Tok := if null then ⟨.null, 0, 0, []⟩ else readTok k v.toNat 0 []
      .done s (i.fire j p { takes := ins, puts := (if k.writes 0 then [(0, t)] else []) ++ doneTok k null 0 [], ctx := { k with queue := rest } })

/-! ### Stream-buffer endpoints (R215, R368) -/

/-- The walk's base: the tail word stands 8 bytes below it, the head word 16. -/
def CtxState.ringBase (k : CtxState) (one : Bool) (t : Option Tok) : Int :=
  k.agBase one t + laneInt 32 (bitsN (k.agWord one) 105 74)

/-- The release end of an endpoint's publication. -/
def endpointRel (c : Nat) (i : Image) : RelEnd := { place := .cluster c, scope := .system, clock := i.clock }

/-- An endpoint publishes a count in a word, with release order (R215): its elements are written back first, and the count goes home.
(DEDUCED, log 66) -/
def endpointPublish (s : State) (c : Nat) (i : Image) (cell : Nat) (va : Word) (n : Nat) : CellStep :=
  match cellAccess s c i 0 cell va 8 .write 8 with
  | .wait s' => .other s'
  | .fault code => .other (sectionFault s i code)
  | .ok key cached fl =>
    let s := flushAgent s c i.agent
    if dirtyOf s c i.agent then .other s
    else
      let s := homeWriteAt (if cached then flushLine s c key else s) (serverOwner s c) (engineWriter i.agent c i.clock fl) va key cached (bytesOf 8 n) [endpointRel c i]
      .done s { i with clock := Clock.tick i.clock i.agent }

/-- A count is published after `n` elements: every 2^PUB, and at each walk's end for a producer. -/
def publishes (k : CtxState) (n : Nat) (walkEnd : Bool) : Bool := n % 2 ^ cfield k.word 242 240 == 0 || walkEnd

/-- The producer writes the next element of the ring (R368). -/
def endpointPut (s : State) (c : Nat) (i : Image) (j : Nat) (p : Placed) (k : CtxState) : CellStep :=
  let head := p.headAt k
  let at_ := if k.agTakes true then head 2 else none
  let ins := gated3 k ([1] ++ (if k.agTakes true then [2] else []))
  let toks := ins.filterMap head
  let dead := fun (t : Option Tok) => match t with | some t => t.kind == .null || t.squashedIn i.squashed | none => false
  if gateNull k head || dead (head 1) || dead at_ then
    .done s (i.fire j p { takes := ins, puts := doneTok k true 0 (itersOf toks), ctx := k })
  else
    let addr := k.agAddr true at_
    let bs := bytesOf k.memSize (match head 1 with | some t => t.pay.toNat | none => 0)
    let k' := { k.agStep true at_ with moved := k.moved + 1 }
    let f : Fire := { takes := ins, puts := doneTok k false 0 (itersOf toks), ctx := k' }
    match cellStore s c i j 0 (cellMark p k) [] (BitVec.ofInt 64 addr) bs with
    | .other s' => .other s'
    | .done s' i' =>
      if publishes k k'.moved (k.walkEnds true k.ag1) then
        match endpointPublish s' c i' (cellMark p k) (BitVec.ofInt 64 (k.ringBase true at_ - 8)) k'.moved with
        | .done s2 i2 => .done s2 (i2.fire j p f)
        | .other _ =>
          match endpointPublish s c i (cellMark p k) (BitVec.ofInt 64 (k.ringBase true at_ - 8)) k'.moved with
          | .other s2 => .other s2
          | .done _ _ => .other s
      else .done s' (i'.fire j p f)

/-- The consumer reads the next element behind the tail it read (R368). -/
def endpointTake (s : State) (c : Nat) (i : Image) (j : Nat) (p : Placed) (k : CtxState) : CellStep :=
  let head := p.headAt k
  let ins := gated3 k []
  if gateNull k head then
    .done s (i.fire j p { takes := ins, puts := (if k.writes 0 then [(0, ⟨.null, 0, 0, []⟩)] else []) ++ doneTok k true 0 [], ctx := k })
  else
    match cellLoad s c i j 0 (cellMark p k) [] (BitVec.ofInt 64 (k.agAddr false none)) k.memSize with
    | .inr r => r
    | .inl (v, i') =>
      let k' := { k.agStep false none with moved := k.moved + 1, stopsDue := k.stopsAfter k.ag0 }
      let f : Fire := { takes := ins, puts := (if k.writes 0 then [(0, readTok k v 0 [])] else []) ++ doneTok k false 0 [], ctx := k' }
      if publishes k k'.moved false then
        match endpointPublish s c i' (cellMark p k) (BitVec.ofInt 64 (k.ringBase false none - 16)) k'.moved with
        | .done s2 i2 => .done s2 (i2.fire j p f)
        | r => r
      else .done s (i'.fire j p f)

/-- An endpoint reads the other side's count at its home with acquire order; a consumer first takes the base of its walk, and a producer
between two walks names the ring by the base that waits at its input (R215, R368). (DEDUCED, log 66) -/
def endpointPoll (s : State) (c : Nat) (i : Image) (j : Nat) (p : Placed) (k : CtxState) : CellStep :=
  let prod := endpointProd k
  let base := if k.agTakes prod then p.headAt k (if prod then 2 else 0) else none
  let based := !k.agTakes prod || (match base with | some t => t.kind == .data | none => false)
  if !based then .other s
  else if !prod && k.agTakes false then
    .done s (i.fire j p { takes := [0], puts := [], ctx := { k with base0 := some (k.agBase false base) } })
  else
    let va : Word := BitVec.ofInt 64 (k.ringBase prod base - (if prod then 16 else 8))
    match cellAccess s c i 0 (cellMark p k) va 8 .read 7 with
    | .wait s' => .other s'
    | .fault code => .other (sectionFault s i code)
    | .ok key cached _ =>
      let s := if cached then flushLine s c key else s
      if poisoned s key 8 then .other (sectionFault s i 6)
      else
        let i' := { i with clock := acquireFrom i.clock (homeEnds s key 8) (.cluster c) .system }
        .done s (i'.setCopy j (p.apply { takes := [], puts := [], ctx := { k with seenCount := ofBytes (s.bytesAt 8 key) } }))

/-- One fire of a memory context. -/
def fireMem (s : State) (c : Nat) (i : Image) (j : Nat) (p : Placed) (k : CtxState) (a : Act) : CellStep :=
  match a with
  | .config n => .done s (i.fire j p { takes := [n], puts := [], ctx := k })
  | .stops lv ins => .done s (i.fire j p { takes := ins, puts := k.everywhere ⟨.stop, BitVec.ofNat 256 lv, 0, []⟩, ctx := k })
  | .dueStop =>
    .done s (i.fire j p { takes := [], puts := (if k.writes 0 then [(0, ⟨.stop, BitVec.ofNat 256 (k.stopsDue.headD 0), 0, []⟩)] else []), ctx := { k with stopsDue := k.stopsDue.drop 1 } })
  | .swap => .done s (i.fire j p { takes := [1], puts := [], ctx := { k with buf := (k.buf + 1) % k.buffers } })
  | .read => memRead s c i j p k
  | .write => if k.kind = 3 then memUpdate s c i j p k else memWrite s c i j p k
  | .push => memPush s i j p k
  | .pop => memPop s i j p k
  | .take => endpointTake s c i j p k
  | .put => endpointPut s c i j p k
  | _ => .other s

/-- What the fires of copy `j` read beside it; what a memory context would write is found by its own fire (R179). -/
def fabOf (s : State) (c : Nat) (i : Image) (j : Nat) : Fab where
  wide := i.width
  high := i.height
  gated := i.gated
  squashed := i.squashed
  memFire := fun p k a => match fireMem s c i j p k a with
    | .done _ i' => i'.copies.getD j p
    | .other _ => p

end Sys2Proof.Machine
end

