-- ==== Sys2Proof/Machine/Images.lean ====
section
/-! DEFINITION. Fabric images: their bytes (R349–R353, R366–R370), the load-time checks (R371, R372), and a placed copy as the
image gives it (R199). -/

namespace Sys2Proof.Machine

/-! ### Parts of an image, as its words -/

/-- An image as read: its words and the function id asked for. -/
structure Raw where
  fid : BitVec 12
  ws  : List Word

def Raw.w (r : Raw) (i : Nat) : Word := r.ws.getD i 0
def Raw.nCtx (r : Raw) : Nat := bits (r.w 1) 33 24
def Raw.nLink (r : Raw) : Nat := bits (r.w 1) 45 34
def Raw.nMem (r : Raw) : Nat := bits (r.w 1) 55 48
def Raw.nRes (r : Raw) : Nat := bits (r.w 1) 7 4
def Raw.nArg (r : Raw) : Nat := bits (r.w 1) 3 0
def Raw.wide (r : Raw) : Nat := bits (r.w 0) 50 48
def Raw.high (r : Raw) : Nat := bits (r.w 0) 52 51
def Raw.stream (r : Raw) : Bool := bitAt (r.w 0) 55
def Raw.gated (r : Raw) : Bool := bitAt (r.w 0) 54
def Raw.twin (r : Raw) : Bool := bitAt (r.w 0) 53
def Raw.length (r : Raw) : Nat := bits (r.w 2) 31 0

/-- A context record: column, row, context, MEM, context word (R351). -/
structure CtxRec where
  col  : Nat
  row  : Nat
  ctx  : Nat
  mem  : Bool
  rest : Nat
  word : BitVec 256

def Raw.ctxRec (r : Raw) (i : Nat) : CtxRec :=
  let at_ := 8 + 5 * i
  let loc := r.w at_
  { col := bits loc 3 0, row := bits loc 6 4, ctx := bits loc 8 7, mem := bitAt loc 9, rest := bits loc 63 10, word := r.w (at_ + 4) ++ r.w (at_ + 3) ++ r.w (at_ + 2) ++ r.w (at_ + 1) }

def Raw.ctxs (r : Raw) : List CtxRec := (rangeFrom r.nCtx 0).map r.ctxRec

def Raw.links (r : Raw) : List LinkState := (rangeFrom r.nLink 0).map fun i => ⟨r.w (8 + 5 * r.nCtx + i), []⟩

/-- A content record: its locator and words (R352). -/
structure Content where
  loc : Word
  ws  : List Word

def Content.woff (c : Content) : Nat := bits c.loc 16 7
def Content.row (c : Content) : Nat := bits c.loc 6 4
def Content.col (c : Content) : Nat := bits c.loc 3 0

/-- The content records of a list of words, `n` of them, and what is left. -/
def contentsOf : Nat → List Word → List Content × List Word
  | 0, l => ([], l)
  | _ + 1, [] => ([], [])
  | n + 1, loc :: rest =>
    let k := bits loc 27 17
    let r := contentsOf n (rest.drop k)
    (⟨loc, rest.take k⟩ :: r.1, r.2)

def Raw.contents (r : Raw) : List Content × List Word := contentsOf r.nMem (r.ws.drop (8 + 5 * r.nCtx + r.nLink))

/-! ### Load-time checks (R371, R372) -/

/-- A cell lies inside the rectangle. -/
def Raw.inside (r : Raw) (col row : Nat) : Bool := decide (col < 4 * r.wide) && decide (row < 4 * r.high)

/-- The header's checks, but for LENGTH against the parts. -/
def Raw.headerGood (r : Raw) : Bool :=
  let h0 := r.w 0
  let h1 := r.w 1
  bits h0 31 0 == 0x49465856 && bits h0 35 32 == 1 && bits h0 47 36 == r.fid.toNat
    && decide (1 ≤ r.wide ∧ r.wide ≤ 4) && decide (1 ≤ r.high ∧ r.high ≤ 2)
    && decide ((if r.stream then 0 else 1) ≤ r.nArg ∧ r.nArg ≤ 8) && decide (1 ≤ r.nRes ∧ r.nRes ≤ 8)
    && decide (1 ≤ r.nCtx ∧ r.nCtx ≤ 64 * r.wide * r.high) && decide (1 ≤ r.nLink ∧ r.nLink ≤ 2048) && decide (r.nMem ≤ 64)
    && r.inside (bits h1 11 8) (bits h1 14 12) && r.inside (bits h1 19 16) (bits h1 22 20)
    && bits h0 63 56 == 0 && bits h1 63 56 == 0 && bits h1 47 46 == 0 && bits h1 23 23 == 0 && bits h1 15 15 == 0
    && bits (r.w 2) 63 32 == 0 && ([3, 4, 5, 6, 7].all fun i => r.w i == 0)
    && (!r.gated || r.stream) && !(r.twin && r.stream) && decide (r.length ≤ 0x90000) && r.length % 8 == 0
    && decide (64 + 40 * r.nCtx + 8 * r.nLink + 8 * r.nMem ≤ r.length)

/-- LENGTH is that of the parts (R349). -/
def Raw.lengthGood (r : Raw) : Bool :=
  let c := r.contents
  r.length == 64 + 40 * r.nCtx + 8 * r.nLink + (c.1.map fun x => 8 + 8 * x.ws.length).sum && c.1.length == r.nMem && c.2.isEmpty

/-- A stage word's checks (R355–R357). -/
def Stage.good (g : Stage) : Bool :=
  let satOps := [0x01, 0x02, 0x03, 0x17, 0x1A]
  let uOps := [0x04, 0x0A, 0x0D, 0x0E, 0x12, 0x13]
  if g.op ≤ 0x1A then
    (!g.sat || satOps.contains g.op) && (!g.u || uOps.contains g.op || (g.sat && g.op != 0x1A && satOps.contains g.op))
  else if 0x20 ≤ g.op && g.op ≤ 0x2B then
    !g.sat && (if g.op == 0x2A then g.lane == 0 && !g.u else if g.op == 0x2B then g.lane == 2 else !g.u || decide (2 ≤ g.lane))
  else false

/-- A join's action field has no reserved code (R363). -/
def actionGood (t : Nat) : Bool := t / 16 != 3 && t / 4 % 4 != 3 && t % 4 != 3

/-- A compute context's checks (R353, R371). -/
def CtxRec.computeGood (c : CtxRec) : Bool :=
  let w := c.word
  let kind := cfield w 254 252
  let names := fun (i : Nat) => (cfield w 251 248).testBit i
  decide (kind ≤ 4) && cfield w 144 128 == 0 && cfield w 24 24 == 0 && cfield w 5 0 == 0
    && ((rangeFrom 4 0).all fun i => cfield w (237 + 2 * i) (236 + 2 * i) ≤ 1)
    && (([231, 227, 223] : List Nat).all fun hi => cfield w hi (hi - 3) ≤ 8) && (kind != 0 || decide (cfield w 235 232 ≤ 8))
    && cfield w 146 145 != 3
    && ((CtxState.stages ⟨0, 0, 0, false, w, 0, 0, 0, 0, [], 0, 0, false, 0, 0, false, false, 0, 0, 0, [], 0, 0, none, none, [], 0, false, [], 0, 0, 0, []⟩).all Stage.good)
    && (!w.getLsbD 147 || cfield w 245 244 == 3)
    && (if kind == 4 then actionGood (cfield w 23 18) && actionGood (cfield w 17 12) && actionGood (cfield w 11 6) else cfield w 23 6 == 0)
    && (kind == 3 || cfield w 30 25 == 0)
    && (match kind with
      | 1 => names 0 && names 1
      | 2 => names 0 && names 1 && names 2
      | 4 => names 0 && names 1
      | _ => true)

/-- A generator's reserved fields and SRC (R367). -/
def agGood (g : Nat) : Bool := bitsN g 109 108 != 3 && bitsN g 107 106 == 0 && bitsN g 5 0 == 0

/-- A memory context's checks (R366–R368, R371). -/
def CtxRec.memGood (c : CtxRec) : Bool :=
  let w := c.word
  let mode := cfield w 254 252
  let size := cfield w 231 229
  let mp := cfield w 243 240
  let a0 := cfield w 223 112
  let a1 := cfield w 111 0
  let on0 := a0.testBit 111
  let on1 := a1.testBit 111
  let src := fun (a : Nat) => bitsN a 109 108
  decide (mode ≤ 4) && decide (size ≤ 4) && cfield w 228 224 == 0 && !(w.getLsbD 237 && w.getLsbD 235) && agGood a0 && agGood a1
    && (match mode with
      | 0 => decide (mp ≤ 3) && (if on1 then mp != 0 else mp == 0)
      | 1 => mp == 0 && !on0 && !on1
      | 2 => decide (mp ≤ 7) && decide ((mp + 1) * (match size with | 0 => 1 | 1 => 2 | 2 => 4 | 3 => 8 | _ => 32) ≤ 32)
          && !(on0 && src a0 == 1) && !(on1 && src a1 == 1)
      | 3 => mp == 0 && (!on0 || src a0 == 1) && !(on1 && src a1 == 1) && (cfield w 234 232 != 1 || size == 2)
      | _ => !(on0 && src a0 == 1) && (!on1 || src a1 == 2))

def CtxRec.same (a b : CtxRec) : Bool := a.col == b.col && a.row == b.row && a.ctx == b.ctx

/-- The context records' checks (R351, R371). -/
def Raw.ctxsGood (r : Raw) : Bool :=
  let cs := r.ctxs
  cs.all fun c =>
    c.rest == 0 && r.inside c.col c.row && c.mem == decide ((c.col + c.row) % 2 = 1) && c.word.getLsbD 255
      && (if c.mem then c.memGood else c.computeGood) && ((cs.filter c.same).length == 1)

/-- The context a link's end names. -/
def Raw.find (r : Raw) (col row ctx : Nat) : Option CtxRec := r.ctxs.find? fun c => c.col == col && c.row == row && c.ctx == ctx

def CtxRec.ins (c : CtxRec) (i : Nat) : Bool := (cfield c.word 251 248).testBit i
def CtxRec.outs (c : CtxRec) (j : Nat) : Bool := (cfield c.word 247 244).testBit j

/-- One link's own checks (R369, R371, R180). -/
def Raw.linkGood (r : Raw) (l : LinkState) : Bool :=
  let st := l.f 34 31
  let dt := l.f 38 35
  let e := l.f 44 39
  let wid := match l.net with | 0 => 64 | _ => 256
  l.f 63 45 == 0 && decide (l.net ≤ 2) && !(decide (4 ≤ l.sport ∧ l.sport < 8)) && !(decide (4 ≤ l.dport ∧ l.dport < 8))
    && decide (st ≤ 10) && decide (dt ≤ 10) && (st != dt || e == 0) && ((st == 10) == (dt == 10))
    && (l.net != 2 || (st == 10 && e == 0))
    && (st == dt || decide (wid / typeWidth st * typeWidth dt ≤ wid))
    && (if 8 ≤ l.sport then decide (l.sport - 8 < r.nArg) && l.net == 0
        else match r.find (l.f 3 0) (l.f 6 4) (l.f 8 7) with | some c => c.outs l.sport | none => false)
    && (if 8 ≤ l.dport then decide (l.dport - 8 < r.nRes) && l.net == 0
        else match r.find (l.f 16 13) (l.f 19 17) (l.f 21 20) with | some c => c.ins l.dport | none => false)

/-- The cells whose switch boxes a link uses: along the row, then along the column (R370). -/
def Raw.route (r : Raw) (l : LinkState) : List (Nat × Nat) :=
  let sc := if 8 ≤ l.sport then bits (r.w 1) 11 8 else l.f 3 0
  let sr := if 8 ≤ l.sport then bits (r.w 1) 14 12 else l.f 6 4
  let dc := if 8 ≤ l.dport then bits (r.w 1) 19 16 else l.f 16 13
  let dr := if 8 ≤ l.dport then bits (r.w 1) 22 20 else l.f 19 17
  let span := fun (a b : Nat) => rangeFrom (Nat.max a b - Nat.min a b + 1) (Nat.min a b)
  (span sc dc).map (fun c => (c, sr)) ++ ((span sr dr).filter fun y => y != sr).map fun y => (dc, y)

/-- At most eight links of one network use a switch box (R370). -/
def Raw.boxesGood (r : Raw) : Bool :=
  (rangeFrom 3 0).all fun net =>
    let used := ((r.links.filter fun l => l.net == net).map r.route).flatten
    used.all fun b => (used.filter fun x => x == b).length ≤ 8

/-- An edge of 0 slots between two contexts, each named by column, row and context. -/
abbrev ZeroEdge := (Nat × Nat × Nat) × (Nat × Nat × Nat)

def Raw.zeroEdges (r : Raw) : List ZeroEdge :=
  (r.links.filter fun l => l.slots == 0 && decide (l.sport < 4) && decide (l.dport < 4)).map fun l =>
    ((l.f 3 0, l.f 6 4, l.f 8 7), (l.f 16 13, l.f 19 17, l.f 21 20))

/-- Edges left when those whose source no edge enters are removed `n` times: what is left lies on or behind a cycle. -/
def trimEdges : Nat → List ZeroEdge → List ZeroEdge
  | 0, es => es
  | n + 1, es => trimEdges n (es.filter fun e => es.any fun f => f.2 == e.1)

/-- The links' checks together (R371). -/
def Raw.linksGood (r : Raw) : Bool :=
  let ls := r.links
  (ls.all r.linkGood)
    && ((rangeFrom r.nArg 0).all fun a => ls.any fun l => l.sport == 8 + a)
    && ((rangeFrom r.nRes 0).all fun j => (ls.filter fun l => l.dport == 8 + j).length == 1)
    && (r.ctxs.all fun c => (rangeFrom 4 0).all fun i =>
      (!c.ins i || (ls.filter fun l => l.dport == i && l.f 16 13 == c.col && l.f 19 17 == c.row && l.f 21 20 == c.ctx).length == 1)
      && decide ((ls.filter fun l => l.sport == i && l.f 3 0 == c.col && l.f 6 4 == c.row && l.f 8 7 == c.ctx).length ≤ 4))
    && r.boxesGood && (trimEdges r.zeroEdges.length r.zeroEdges).isEmpty

/-- The content records' checks (R352, R371). -/
def Raw.contentsGood (r : Raw) : Bool :=
  let cs := r.contents.1
  let numbered := (rangeFrom cs.length 0).zip cs
  numbered.all fun p =>
    let c := p.2
    bits c.loc 63 28 == 0 && r.inside c.col c.row && (c.col + c.row) % 2 == 1 && decide (1 ≤ bits c.loc 27 17)
      && decide (c.woff + bits c.loc 27 17 ≤ 1024) && c.ws.length == bits c.loc 27 17
      && numbered.all fun q => p.1 == q.1 || q.2.col != c.col || q.2.row != c.row
        || decide (c.woff + c.ws.length ≤ q.2.woff) || decide (q.2.woff + q.2.ws.length ≤ c.woff)

/-- A memory context as a serve image may have it (R372). -/
def CtxRec.serveMem (c : CtxRec) : Bool :=
  let a0 := cfield c.word 223 112
  let a1 := cfield c.word 111 0
  cfield c.word 254 252 == 0 && !c.word.getLsbD 238 && bitsN a0 7 6 == 0 && bitsN a1 7 6 == 0
    && (!a0.testBit 111 || bitsN a0 109 108 != 0) && (!a1.testBit 111 || (bitsN a1 109 108 != 0 && a1.testBit 110))

/-- The further checks of a serve image (R372). -/
def Raw.serveGood (r : Raw) : Bool :=
  r.ctxs.all fun c => cfield c.word 251 248 != 0 &&
    (if c.mem then c.serveMem
     else cfield c.word 254 252 != 4 && (cfield c.word 254 252 != 3 || cfield c.word 26 25 == 0))

/-- Contexts that a set of contexts feeds. -/
def Raw.feeds (r : Raw) (c : CtxRec) (outs : Nat → Bool) : List CtxRec :=
  (r.links.filter fun l => decide (l.sport < 4) && outs l.sport && decide (l.dport < 4) && l.f 3 0 == c.col && l.f 6 4 == c.row && l.f 8 7 == c.ctx).filterMap
    fun l => r.find (l.f 16 13) (l.f 19 17) (l.f 21 20)

/-- A search for a loop body leaves out another lcu and a context with EMIT = 01 (R193). -/
def CtxRec.inBody (c : CtxRec) : Bool := c.mem || !(cfield c.word 254 252 == 3 || cfield c.word 146 145 == 1)

/-- The loop body of R193, searched `n` rounds. -/
def Raw.body (r : Raw) : Nat → List CtxRec → List CtxRec
  | 0, seen => seen
  | n + 1, seen =>
    let next := (seen.flatMap fun c => r.feeds c fun _ => true).filter fun c => c.inBody && !(seen.any c.same)
    match next with
    | [] => seen
    | c :: _ => r.body n (seen ++ [c])

/-- Every store in the loop body of a streaming lcu takes the confirm stream (R193, R372). -/
def Raw.streamGood (r : Raw) : Bool :=
  (r.ctxs.filter fun c => !c.mem && cfield c.word 254 252 == 3 && c.word.getLsbD 30).all fun c =>
    let first := (r.feeds c fun j => j != 2).filter CtxRec.inBody
    ((r.body r.nCtx first).filter fun x => x.mem && x.ins 1).all fun x => x.word.getLsbD 235

/-- All checks of R371 and R372. -/
def Raw.good (r : Raw) : Bool :=
  r.headerGood && r.lengthGood && r.ctxsGood && r.linksGood && r.contentsGood && (if r.stream then r.streamGood else r.serveGood)

/-! ### A copy as the image gives it (R199) -/

/-- Initial words of a FIFO: the cell's contents in address order (R368). -/
def Raw.fifoWords (r : Raw) (col row : Nat) : List (BitVec 256) :=
  let cs := r.contents.1.filter fun c => c.col == col && c.row == row
  (rangeFrom 1024 0).filterMap fun n =>
    match cs.find? fun c => c.woff ≤ n && n < c.woff + c.ws.length with
    | some c => some ((c.ws.getD (n - c.woff) 0).setWidth 256)
    | none => none

/-- A context at load. -/
def Raw.context (r : Raw) (c : CtxRec) : CtxState where
  col := c.col
  row := c.row
  ctx := c.ctx
  mem := c.mem
  word := c.word
  k0 := if c.mem then 0 else c.word.extractLsb' 96 32
  k1 := if c.mem then 0 else c.word.extractLsb' 64 32
  cnt0 := 0
  cnt1 := 0
  own := []
  inLoop := false
  index := 0
  left := 0
  nullIter := false
  stopDue := false
  issued := 0
  done := 0
  ended := 0
  starts := []
  ag0 := 0
  ag1 := 0
  base0 := none
  base1 := none
  stopsDue := []
  buf := 0
  lastWrite := false
  queue := if c.mem && cfield c.word 254 252 == 1 then r.fifoWords c.col c.row else []
  moved := 0
  seenCount := 0
  pkt := 0
  marks := []

/-- A copy on a rectangle of a server. -/
def Raw.place (r : Raw) (server page copy : Nat) : Placed where
  server := server
  page := page
  ctxs := r.ctxs.map r.context
  links := r.links
  cells := []
  copy := copy

/-- The copies of an image at their places. -/
def Raw.copiesAt (r : Raw) (at_ : List (Nat × Nat)) : List Placed := at_.mapIdx fun j a => r.place a.1 a.2 j

/-- Memory-cell numbers of a rectangle. -/
def rectCells (page w h : Nat) : List Nat :=
  (rangeFrom (4 * h) (4 * (page / 4))).flatMap fun row =>
    ((rangeFrom (4 * w) (4 * (page % 4))).filter fun col => (col + row) % 2 = 1).map fun col => 8 * row + col / 2

/-- The memory cells of a copy zeroed and given the image's contents: every byte is written, and no mark stays (R117, R199, R352). -/
def Raw.writeCells (r : Raw) (s : State) (c : Nat) (p : Placed) : State :=
  let s := (rectCells p.page r.wide r.high).foldl (fun s n =>
    let k := cellKey c p.server n 0
    { s with
      mem := memClear s.mem k (k + 8192)
      poison := clearPoison s.poison k 8192
      loose := cutRange s.loose k 8192
      wrote := cutWrote s.wrote k 8192
      homeRel := s.homeRel.filter fun e => !(k ≤ e.1 && e.1 < k + 8192) }) s
  let at_ := fun (x : Content) =>
    let row := x.row + 4 * (p.page / 4)
    let col := x.col + 4 * (p.page % 4)
    cellKey c p.server (8 * row + col / 2) (8 * x.woff)
  { s with mem := r.contents.1.foldl (fun m x => memSetN m (at_ x) (x.ws.flatMap fun w => bytesOf 8 w.toNat)) s.mem }

end Sys2Proof.Machine
end

