-- ==== Sys2Proof/Machine/SaveArea.lean ====
section
/-! DEFINITION. Save areas of crews, voyages and frozen sections: their places in the pool (R112), and their bytes (R113, R116, R168). The
device reads them back as the values it wrote (log 20); every other reader finds bytes enciphered under the owner's key. -/

namespace Sys2Proof.Machine

/-! ### The pool (R112) -/

/-- Units of 64 KiB of a crew's save area (R113). -/
def crewUnits (cores : Nat) : Nat := (0x1000 + cores * 0x35000 + 0x12000 + 0xFFFF) / 0x10000

/-- Units of a voyage save area (R168). -/
def voyageUnits : Nat := (0x311000 + 0xFFFF) / 0x10000

/-- Bytes of a frozen image (R116): its header, 80 KiB for each page, 320 bytes for each link. -/
def frozenBytes (i : Image) : Nat := 0x80 + i.width * i.height * 0x14000 + 320 * (i.copies.map fun p => p.links.length).sum

def frozenUnits (i : Image) : Nat := (frozenBytes i + 0xFFFF) / 0x10000

/-- The areas that stand in the pool: first unit and length. -/
def areas (s : State) : List (Nat × Nat) :=
  (s.crews.filterMap fun e => e.2.save.map fun v => (v.base, v.units))
    ++ (s.vsaves.map fun v => (v.base, voyageUnits)) ++ s.frozen.map fun f => (f.base, frozenUnits f.image)

/-- A free place of the pool: the lowest, at its start or behind another area. (DESIGN CHOICE, log 20) -/
def poolBase (s : State) (units : Nat) : Nat :=
  let l := areas s
  let free := (0 :: l.map fun v => v.1 + v.2).filter fun b => l.all fun v => b + units ≤ v.1 || v.1 + v.2 ≤ b
  (leastBy (fun b => b) free).getD 0

/-- Bytes of an area: offset and bytes. -/
abbrev Pieces := List (Nat × List Byte)

def wordPiece (off v : Nat) : Nat × List Byte := (off, bytesOf 8 v)

/-- Numbered words from an offset. -/
def wordPieces (off : Nat) (l : List Nat) : Pieces := l.mapIdx fun i v => wordPiece (off + 8 * i) v

def Region.pieces (r : Region) (off : Nat) : Pieces := r.cells.map fun c => (off + c.1, [c.2])

/-- First byte of the area at a unit of the pool. -/
def areaAt (s : State) (base : Nat) : Nat := s.helm.saveBase.toNat * 2 ^ 16 + base * 2 ^ 16

/-- A region as it is read back: what of the area at `a` is poisoned now is poisoned in it (R114, R118). -/
def Region.readBack (r : Region) (s : State) (a n : Nat) : Region :=
  { r with poison := r.poison ++ ((s.poison.filter fun x => a ≤ x && x < a + n).map fun x => x - a) }

/-- The area's bytes are written at its place of the pool, and are enciphered under the owner's key with each line's physical address
(R112): what else reads them finds unspecified bytes. -/
def writeArea (s : State) (base units : Nat) (ps : Pieces) : State :=
  let a := areaAt s base
  { s with
    mem := ps.foldl (fun m p => memSetN m (a + p.1) p.2) (memClear s.mem a (a + units * 2 ^ 16))
    loose := cutRange s.loose a (units * 2 ^ 16)
    wrote := cutWrote s.wrote a (units * 2 ^ 16)
    poison := s.poison.filter fun x => !(a ≤ x && x < a + units * 2 ^ 16)
    ciphered := (a, units * 2 ^ 16) :: s.ciphered }

/-! ### A crew's area (R113) -/

/-- The header. The places of the two pending events in word 3 the spec leaves open: bit 0 is 0x0A, bit 1 is 0x0B. (DESIGN CHOICE, log 20) -/
def crewHeader (w : Crew) (valid : Bool) (voyage : Option Voyage) : Pieces :=
  let b := fun (x : Bool) (n : Nat) => if x then n else 0
  wordPieces 0 [w.record % 2 ^ 48 * 2 ^ 16,
    w.index * 2 ^ 44 + w.owner.toNat * 2 ^ 32 + w.cluster * 2 ^ 24 + w.cores.length * 2 ^ 16 + w.threads * 2 ^ 8,
    b valid 1 + (match voyage with | some v => 2 + v.half * 4 | none => 0),
    b w.event0A.isSome 1 + b w.event0B.isSome 2, (w.event0A.getD 0).toNat, (w.event0B.getD 0).toNat]

/-- A slot record. -/
def slotPieces (off : Nat) (th : ThreadState) : Pieces :=
  let full := ((rangeFrom 8 0).map fun i => if (AMap.find th.m i).isSome then 2 ^ i else 0).sum
  wordPieces off ((rangeFrom 32 0).map fun i => (th.readX (BitVec.ofNat 5 i)).toNat)
    ++ wordPieces (off + 0x100) ((rangeFrom 8 0).map fun i => (AMap.getD th.m i 0).toNat)
    ++ wordPieces (off + 0x140) [full + 2 ^ 8 + (if th.park = .none then 0 else 2 ^ 9), th.pc.toNat, th.tcause.toNat, th.tepc.toNat, th.tval.toNat,
        th.tvec.toNat, th.tstat.toNat, th.fstat.toNat, th.thid.toNat, th.crix.toNat, th.deferred.length]
    ++ [(off + 0x198, th.deferred.map fun d => d.cause)] ++ wordPieces (off + 0x1A0) (th.deferred.map fun d => d.tval.toNat)

/-- A halo group record as a word (R345). -/
def HaloGroup.word (r : HaloGroup) : Nat :=
  let b := fun (x : Bool) (n : Nat) => if x then 2 ^ n else 0
  b r.bound 38 + r.ccl * 2 ^ 33 + r.cdie * 2 ^ 30 + r.ccore * 2 ^ 23 + b r.bpend 22 + r.wslot * 2 ^ 18 + b r.wnc 17 + b r.wrsp 16
    + r.wctr * 2 ^ 12 + b r.wait 11 + r.wexp * 2 ^ 8 + r.inb

/-- The full/empty bits of a scratchpad, as bytes: bit i for word i. -/
def fullPieces (off : Nat) (full : List Nat) : Pieces :=
  ((full.map fun x => x / 64).eraseDups).map fun b =>
    (off + b, [BitVec.ofNat 8 (((full.filter fun x => x / 64 == b).map fun x => 2 ^ (x / 8 % 8)).sum)])

/-- The response buffer: a record of 16 bytes for each entry in order, then their count (R339). -/
def responsePieces (off : Nat) (l : List ResponseEntry) : Pieces :=
  wordPieces off (l.flatMap fun r => [(r.element.getD 0).toNat, tagSlot r.tag + (if r.element.isSome then 16 else 0)])
    ++ [wordPiece (off + 16 * l.length) l.length]

/-- A core block with its slot records. -/
def corePieces (off : Nat) (v : SavedCore) (ths : AMap ThreadState) : Pieces :=
  let k := v.state
  let bank := fun (z : Nat) => AMap.getD k.banks z {}
  v.pad.pieces off ++ fullPieces (off + 0x30000) v.pad.full
    ++ wordPieces (off + 0x30C00) ((rangeFrom 16 0).map fun i => match (AMap.getD k.s i []).getLast? with | some w => w.2.toNat | none => 0)
    ++ wordPieces (off + 0x30C80) ((rangeFrom 16 0).map fun g => (AMap.getD k.halo g {}).word)
    ++ (rangeFrom 4 0).map (fun z => (off + 0x30D00 + 64 * z, (rangeFrom 16 0).flatMap fun j => bytesOf 4 ((bank z).csAt j).toNat))
    ++ (rangeFrom 4 0).map (fun z => (off + 0x31000 + 1024 * z, (rangeFrom 256 0).flatMap fun n => bytesOf 4 ((bank z).at (n / 16) (n % 16)).toNat))
    ++ responsePieces (off + 0x32000) k.responses
    ++ ths.flatMap fun e => slotPieces (off + 0x33000 + 512 * e.1) e.2

/-- The cluster block. -/
def blockPieces (off : Nat) (cl : ClusterState) (chart : Region) : Pieces :=
  wordPieces off ((rangeFrom 16 0).map fun n => (AMap.getD cl.counters n {}).word.toNat)
    ++ (rangeFrom 16 0).map (fun n => wordPiece (off + 0x80 + 16 * n) (AMap.getD cl.barriers n {}).word.toNat)
    ++ (cl.pendingQ.mapIdx fun i p => (off + 0x400 + 32 * i, (rangeFrom 4 0).flatMap fun n => bytesOf 8 (spawnWord p n).toNat))
    ++ cl.tasks.map (fun t => wordPiece (off + 0x1000 + 8 * t.1) t.2.toNat) ++ chart.pieces (off + 0x2000)

/-! ### A voyage's area (R168) -/

/-- The header, bays and chart memory of a stopped voyage: of chart memory the controller's working state (R154). A stop after half-step 95
saves half-step 96: the drop and the reckoning pass. (DESIGN CHOICE, log 20) -/
def voyagePieces (v : VoyageSave) : Pieces :=
  let y := v.voyage
  wordPieces 0 [y.descVa.toNat, (y.record.getD 0) % 2 ^ 48 * 2 ^ 16 + v.cluster,
      y.half + (if y.ready.isEmpty then 0 else 1) + (if y.phase == .reckoning then 2 ^ 8 else 0) + y.reckonAt * 2 ^ 16, v.counter.toNat]
    ++ (v.bays.mapIdx fun st r => r.pieces (0x1000 + st * 0x8000)).flatten
    ++ wordPieces 0x301000 ((rangeFrom 0x1400 0).map fun i => (chartWord { y with phase := .stopped } (8 * i)).toNat)

/-! ### A frozen image (R116) -/

def TokKind.code : TokKind → Nat
  | .data => 0 | .null => 1 | .stop => 2 | .config => 3

/-- The offset of a cell record: pairs of a compute and a memory cell, row by row. -/
def cellOffset (i : Image) (col row : Nat) : Nat :=
  0x80 + (row * 2 * i.width + col / 2) * 0x2800 + (if col % 2 = 0 then 0 else if row % 2 = 0 then 0x400 else 0x2400)

/-- The words of a FIFO stand in the record's contents from their start, the next to be popped first; those of a line buffer in their size,
the newest first. (DESIGN CHOICE, log 20) -/
def queuePieces (off : Nat) (k : CtxState) : Pieces :=
  let n := if k.kind = 1 then 8 else k.memSize
  k.queue.mapIdx fun i w => (off + 0x400 + n * i, bytesOf n w.toNat)

/-- The bytes of a context in its cell record. -/
def ctxPieces (off : Nat) (k : CtxState) : Pieces :=
  (off + 32 * k.ctx, bytesOf 32 k.word.toNat) ::
    (if k.mem then
      wordPieces (off + 0x80 + 32 * k.ctx) [k.ag0, ((k.base0.getD 0) % 2 ^ 64).toNat, k.ag1, ((k.base1.getD 0) % 2 ^ 64).toNat]
    else
      (rangeFrom 6 0).map (fun n => (off + 0x80 + (6 * k.ctx + n) * 32, bytesOf 32 (k.stageReg n).toNat))
        ++ wordPieces (off + 0x380 + 16 * k.ctx) [k.cnt0, k.cnt1])

/-- A link record. -/
def linkPieces (off : Nat) (l : LinkState) : Pieces :=
  wordPiece off l.toks.length ::
    (l.toks.mapIdx fun j t => (off + 8 + 40 * j, bytesOf 32 t.pay.toNat ++ bytesOf 8 t.kind.code))

/-- A frozen section. The place of the run count beside the context counter the spec leaves open. (DESIGN CHOICE, log 20) -/
def frozenPieces (f : Frozen) : Pieces :=
  let i := f.image
  let p := i.copies.getD 0 ⟨0, 0, [], [], [], 0⟩
  let cells := i.width * i.height * 16
  let own := p.page
  let at_ := fun (n : Nat) => cellOffset i (n % 16 - 4 * (own % 4)) (n / 16 - 4 * (own / 4))
  wordPieces 0 [i.fid.toNat * 2 ^ 52 + i.width * 2 ^ 48 + i.height * 2 ^ 44 + cells * 2 ^ 32 + frozenBytes i, i.tilesLeft,
      match i.stalled with | some va => 2 ^ 63 + bits va 54 0 | none => 0]
    ++ wordPieces 0x40 [i.h0.toNat, i.h1.toNat, i.h2.toNat]
    ++ p.ctxs.flatMap (fun k => ctxPieces (cellOffset i k.col k.row) k)
    ++ ((p.cells.filter fun e => decide ((e.1 % 16 + e.1 / 16) % 2 = 0)).map fun e => wordPiece (at_ e.1 + 0x3C0) (e.2.cc + 4 * e.2.run))
    ++ ((rectCells p.page i.width i.height).zip f.cells).flatMap (fun e =>
        e.2.pieces (cellOffset i (2 * (e.1 % 8) + (if e.1 / 8 % 2 = 0 then 1 else 0) - 4 * (own % 4)) (e.1 / 8 - 4 * (own / 4)) + 0x400))
    ++ (p.ctxs.filter fun k => k.mem).flatMap (fun k => queuePieces (cellOffset i k.col k.row) k)
    ++ (p.links.mapIdx fun n l => linkPieces (0x80 + i.width * i.height * 0x14000 + 320 * n) l).flatten

end Sys2Proof.Machine
end

