-- ==== Sys2Proof/Machine/Voyages.lean ====
section
/-! DEFINITION. Voyages of the compass ring (R144–R170, R315–R317, R387–R389, R398): `vstart`, `vrel`, `vinfo`, and the steps of
the ring controller. -/

namespace Sys2Proof.Machine

/-! ### The descriptor (R149, R150) -/

def Voyage.fp (v : Voyage) : BitVec 3 := v.desc.w0.extractLsb' 61 3
def Voyage.fs (v : Voyage) : BitVec 3 := v.desc.w0.extractLsb' 58 3
/-- K in elements. -/
def Voyage.kk (v : Voyage) : Nat := 16 * bits v.desc.w0 57 53
def Voyage.q (v : Voyage) : Nat := bits v.desc.w0 52 49
def Voyage.nPort (v : Voyage) : Nat := bits v.desc.w0 40 34
def Voyage.nStbd (v : Voyage) : Nat := bits v.desc.w0 33 27
def Voyage.nChart (v : Voyage) : Nat := bits v.desc.w0 26 13
/-- E + P + Q (R164). -/
def Voyage.total (v : Voyage) : Nat := v.nChart + v.nPort + v.nStbd

/-- The bay form of R147, in bytes. -/
def bayForm (f : BitVec 3) (k q : Nat) : Nat :=
  match f.toNat with
  | 0 | 1 => 32 * k
  | 2 | 3 | 4 => 16 * k
  | 5 => 64 * k
  | _ => k / 16 * (64 + 64 * q)

/-- A global address aligned to `n` (R150 error 4). -/
def globalAligned (v : Word) (n : Nat) : Bool := v.toNat % n == 0 && bits v 63 55 == 0

/-- The first failing check of R150; 0 when all pass. The reckoning list's address is checked also where E = 0, of which the spec says
nothing. (DESIGN CHOICE, log 87) -/
def descError (d : Words8) (va : Word) : Nat :=
  let fp : BitVec 3 := d.w0.extractLsb' 61 3
  let fs : BitVec 3 := d.w0.extractLsb' 58 3
  let k := bits d.w0 57 53
  let q := bits d.w0 52 49
  if !pairGood fp fs || (if fs == 6 then !(decide (1 ≤ q ∧ q ≤ 8)) else q != 0) then 1
  else if k = 0 ∨ 16 < k ∨ 8192 < bayForm fp (16 * k) q ∨ 8192 < bayForm fs (16 * k) q then 2
  else if 96 < bits d.w0 40 34 ∨ 96 < bits d.w0 33 27 ∨ 9216 < bits d.w0 26 13 then 3
  else if (bits d.w0 40 34 != 0 && !globalAligned d.w1 8) || (bits d.w0 33 27 != 0 && !globalAligned d.w2 8)
      || (bits d.w0 26 13 != 0 && !globalAligned d.w3 16) || !globalAligned d.w4 16 || !globalAligned va 64 then 4
  else 0

/-- A status word (R151). -/
def statusWord (reckoned skipped error : Nat) (lost void bad stopped done : Bool) : Word :=
  let b := fun (x : Bool) (n : Nat) => if x then 2 ^ n else 0
  BitVec.ofNat 64 (reckoned * 2 ^ 32 + skipped * 2 ^ 16 + error * 2 ^ 12 + b lost 4 + b void 3 + b bad 2 + b stopped 1
    + b done 0)

def Voyage.statusWith (v : Voyage) (error : Nat) (done : Bool) : Word :=
  statusWord v.reckoned v.skipped error v.lostTask v.void v.badTile v.wasStopped done

/-- A write by the ring controller, of at most 8 bytes; in a cached page it is written back at once (R165). A page that the owner's table no
longer maps takes none. (DEDUCED, log 35) -/
def ringWrite8 (s : State) (c : Nat) (o : BitVec 12) (agent : Nat) (clk : Clock) (va : Word) (bs : List Byte) : State :=
  match reachWalk s c none o va bs.length .write with
  | .home key fl => engineWriteAt s o (engineWriter agent c clk fl) va key false bs false
  | .cached key fl => arriveWrite (engineWriteAt s o (engineWriter agent c clk fl) va key true bs false) s.nextWrite
  | _ => s

/-- A voyage before its embark phase. -/
def newVoyage (s : State) (va : Word) (d : Words8) (o : BitVec 12) (record thread crew : Option Nat) (threadAgent : Nat)
    (clk : Clock) : Voyage where
  descVa := va
  desc := d
  owner := o
  record := record
  thread := thread
  threadAgent := threadAgent
  crew := crew
  phase := .embark
  tally := 0
  zeroed := false
  fetched := false
  half := 0
  port := []
  stbd := []
  entries := []
  ready := []
  counted := 0
  missed := 0
  skipped := 0
  reckoned := 0
  reckon := []
  reckonAt := 0
  lostTask := false
  void := false
  badTile := false
  wasStopped := false
  stopping := false
  parked := none
  failure := none
  clock := clk
  agent := s.nextAgent

def setVoyage (s : State) (c : Nat) (v : Option Voyage) : State := setCluster s c { getCluster s c with voyage := v }

/-- A cluster's ring takes a voyage, which becomes active as its embark phase starts (R144). -/
def beginVoyage (s : State) (c : Nat) (v : Voyage) : State :=
  { setVoyage s c (some v) with nextAgent := s.nextAgent + 1 }

/-! ### `vstart`, `vrel`, `vinfo` (R315–R317) -/

/-- `vstart a` (R315). (DEDUCED, log 37) -/
def execVstart (a : Reg) (s : State) : Out :=
  let va := s.x a
  let word := instrWord (.vstart a)
  let c := tagCluster s.cur
  let o := ownerOf s s.cur
  if bits va 5 0 ≠ 0 ∨ bits va 63 55 ≠ 0 then s.trap 0x06 word
  else
    s.afterRelease fun s =>
    if voyageTaken s c then s.parkOn .voyage
    else match engineWords s c none o s.th.clock .both 8 va [] false with
      | .wait => s.forfeit
      | .missing m => s.parkMiss m 9
      | .denied m => s.trap 0x03 m
      | .got bs bad =>
        let d := words8Of (wordsOf 8 bs)
        let s := if bad then poisonEvent s s.cur va else s
        match descError d va with
        | 0 =>
          let th := s.th
          let v := newVoyage s va d o none (some s.cur) (some th.crew) th.agent th.clock
          .next (beginVoyage (enlistFor s s.cur v.agent) c v).skip
        | e =>
          let s := ringWrite8 s c o s.th.agent s.th.clock (va + 40) (bytesOf 8 (statusWord 0 0 e false false false false false).toNat)
          s.trap 0x06 word

/-- What `vrel` gives, and the thread after it (R316). -/
def releaseSighting (th : ThreadState) : Nat × ThreadState :=
  match th.sighting with
  | some h =>
    if h.released then (2, th)
    else (if h.missed then 1 else 0, { th with sighting := some { h with released := true } })
  | none => (2, th)

/-- `vrel d` (R316). -/
def execVrel (d : Reg) (s : State) : Out :=
  let r := releaseSighting s.th
  .next ((s.setTh r.2).put d (BitVec.ofNat 64 r.1))

/-- `vinfo d` (R317). -/
def execVinfo (d : Reg) (s : State) : Out :=
  .next (s.put d (match theVoyage s (tagCluster s.cur) with | some v => v.vstate | none => 0))

/-! ### Reads of the ring controller (R101) -/

/-- What a list of reads comes to: values, an access fault, a miss, or a write before it that is on its way. -/
inductive VRead (α : Type) where
  | ok (v : α)
  | denied (va : Word)
  | missing (va : Word)
  | wait

def VRead.bind {α β : Type} (r : VRead α) (f : α → VRead β) : VRead β :=
  match r with
  | .ok v => f v
  | .denied va => .denied va
  | .missing va => .missing va
  | .wait => .wait

/-- `n` words from `va`, and whether any is bad. -/
def vWords (s : State) (c : Nat) (v : Voyage) (w : Want) (n : Nat) (va : Word) : VRead (List Word × Bool) :=
  match engineWords s c none v.owner v.clock w n va [] false with
  | .got bs bad => .ok (wordsOf n bs, bad)
  | .denied m => .denied m
  | .missing m => .missing m
  | .wait => .wait

/-- One read for each item of a list, in order. -/
def vMap {α β : Type} (f : α → VRead β) : List α → VRead (List β)
  | [] => .ok []
  | x :: rest => (f x).bind fun y => (vMap f rest).bind fun ys => .ok (y :: ys)

/-- A header as read: words 0 and 1, and whether it is poisoned. -/
abbrev Header := Word × Word × Bool

/-- The headers a list names (R149, R152). -/
def readHeaders (s : State) (c : Nat) (v : Voyage) (list : Word) (n : Nat) : VRead (List Header) :=
  if n = 0 then .ok []
  else (vWords s c v .read n list).bind fun ps =>
    vMap (fun p => (vWords s c v .read 2 p).bind fun h => .ok (h.1.getD 0 0, h.1.getD 1 0, h.2)) ps.1

def headerId (h : Header) : Nat := bits h.1 63 52
def headerFamily (h : Header) : Bool := bitAt h.1 51
def headerHome (h : Header) : Nat := bits h.1 38 32
def headerPlanes (h : Header) : Nat := bits h.1 31 28

/-- A header is refused (R152). -/
def refused (v : Voyage) (stbd : Bool) (before : List Header) (h : Header) : Bool :=
  let f : BitVec 3 := h.1.extractLsb' 48 3
  let want := if stbd then v.fs else v.fp
  headerFamily h != stbd || f != want || f == 7 || 16 * bits h.1 47 40 != v.kk || decide (95 < headerHome h)
    || (before.any fun g => headerFamily g == headerFamily h && (headerId g == headerId h || headerHome g == headerHome h))
    || (f == 6 && (decide (headerPlanes h < v.q) || headerPlanes h == 0))

/-- The tiles that embark, in list order. -/
def embarked (v : Voyage) (stbd : Bool) : List Header → List Header → List VTile
  | _, [] => []
  | before, h :: rest =>
    let more := embarked v stbd (before ++ [h]) rest
    if refused v stbd before h then more
    else { id := headerId h, home := headerHome h, flag := bitAt h.1 39, source := h.2.1, planes := headerPlanes h, lost := h.2.2 } :: more

/-- The bytes of a tile's bay form (R147), at its source address. -/
def readBody (s : State) (c : Nat) (v : Voyage) (stbd : Bool) (t : VTile) : VRead (List Byte × Bool) :=
  let f := if stbd then v.fs else v.fp
  let part := fun (m : Nat) (va : Word) => match engineWords s c none v.owner v.clock .read m va [] false with
    | .got bs bad => VRead.ok (bs, bad)
    | .denied a => .denied a
    | .missing a => .missing a
    | .wait => .wait
  if f == 6 then
    (vMap (fun b => part (8 + 8 * v.q) (t.source + BitVec.ofNat 64 (b * (64 + 64 * t.planes)))) (rangeFrom (v.kk / 16) 0)).bind
      fun ps => .ok (ps.flatMap (·.1), ps.any (·.2))
  else part (bayForm f v.kk v.q / 8) t.source

/-! ### The chart (R153, R157, R159, R160) -/

def entryKind (w0 : Word) : Nat := bits w0 39 38
def entryBank (w0 : Word) : Nat := bits w0 37 36
def entryChannel (w0 : Word) : Nat := bits w0 35 28

def findTile (ts : List VTile) (id : Nat) : Option VTile := ts.find? fun t => t.id == id

/-- A valid accumulation target (R160). -/
def targetValid (c station : Nat) (va : Word) : Bool :=
  va.toNat % 64 == 0 && (match spaceOf c (some (c * 128 + station)) va 1024 with
    | .global => true
    | .pad _ off => !inBay off 1024
    | _ => false)

/-- A chart entry, classified at embark (R153, R157, R159). Void entries stand in bucket 96. -/
def classify (v : Voyage) (c : Nat) (port stbd : List VTile) (w0 target : Word) : ChartEntry :=
  let voided : ChartEntry := { w0 := w0, target := target, half := 96, station := 0, status := .void, tried := false, again := false, products := [] }
  match findTile port (bits w0 63 52), findTile stbd (bits w0 51 40) with
  | some a, some b =>
    let d := (b.home + 96 - a.home) % 96
    let st := (a.home + (d + 1) / 2) % 96
    let kindBad := entryKind w0 ≥ 2
    let engineBad := entryKind w0 == 0 && (!(bits v.desc.w0 44 41).testBit (entryBank w0) || !targetValid c st target)
    if kindBad || engineBad then voided
    else
      let status := if a.flag || b.flag then SightStatus.skipped else if a.lost || b.lost then .missed else .pending
      { voided with half := d, station := st, status := status }
  | _, _ => voided

/-- Address of chart entry `i`. -/
def Voyage.entryVa (v : Voyage) (i : Nat) : Word := v.desc.w3 + BitVec.ofNat 64 (16 * i)

/-- ORs bits of an entry's word 0 in memory, atomically at its home (R153); a page that the owner's table no longer maps takes none.
(DEDUCED, log 35) -/
def chartOr (s : State) (c : Nat) (v : Voyage) (i bit : Nat) : State :=
  let va := v.entryVa i
  match reachWalk s c none v.owner va 8 .both with
  | .home key fl =>
    let old := ofBytes (s.bytesAt 8 key)
    rmwWrite s key (bytesOf 8 (Nat.lor old (2 ^ bit))) (engineWriter v.agent c v.clock fl) false []
  | .cached key fl =>
    let s := flushLine s c key
    let old := ofBytes (s.bytesAt 8 key)
    rmwWrite s key (bytesOf 8 (Nat.lor old (2 ^ bit))) (engineWriter v.agent c v.clock fl) true []
  | _ => s

/-- An entry of the voyage with its status, and the bit in the model's copy of word 0. -/
def Voyage.mark (v : Voyage) (i : Nat) (st : SightStatus) (bit : Option Nat) : Voyage :=
  { v with entries := v.entries.mapIdx fun j e =>
      if j = i then { e with status := st, products := [], w0 := match bit with | some b => e.w0 ||| BitVec.ofNat 64 (2 ^ b) | none => e.w0 } else e }

/-! ### Counting and the end (R151, R164) -/

/-- The voyage ends with a status word (R151). -/
def endVoyage (s : State) (c : Nat) (v : Voyage) (error : Nat) (done : Bool) : State :=
  let s := ringWrite8 s c v.owner v.agent v.clock (v.descVa + 40) (bytesOf 8 (v.statusWith error done).toNat)
  forgetBays (setVoyage s c none) c

/-- `n` more increments of the counter; the last one completes the voyage and its launch (R164). What the controller wrote before
happens before them (R165). -/
def countUp (s : State) (c : Nat) (v : Voyage) (n : Nat) : State :=
  let w := { v with tally := v.tally + n, clock := Clock.tick v.clock v.agent }
  let done := w.tally ≥ v.total
  let s := if done then endVoyage s c { v with tally := w.tally } 0 true else setVoyage s c (some w)
  let k := getCounter s c v.ctr
  let s := setCounter s c v.ctr { k with value := k.value + BitVec.ofNat 48 n, clock := Clock.join k.clock w.clock }
  if done then
    match v.record with
    | some seq => moveSeq (joinEnd (unhold s (.voyage c)) seq w.clock) seq .completed 0
    | none => s
  else s

/-- The increments would complete a launch whose state change has no place to wait: the voyage holds its last increment (R41). -/
def countHeld (s : State) (c : Nat) (v : Voyage) (n : Nat) : Bool :=
  v.tally + n ≥ v.total && v.record.isSome && !mayChange s (.voyage c)

/-- The status and the chart bit of a counted entry: fired, and reckoned beside it in the reckoning pass (R160, R161, R163).
(DEDUCED, log 35) -/
def Voyage.markCounted (v : Voyage) (i : Nat) (again : Bool) : Voyage :=
  if again then (v.mark i .counted (some 27)).mark i .reckoned (some 26) else v.mark i .counted (some 27)

/-- An entry that ran is counted: status, its bits of the chart, COUNTED and the counter (R160, R161, R163). (DEDUCED, log 35) -/
def countEntry (s : State) (c : Nat) (v : Voyage) (i : Nat) : State :=
  match v.entries[i]? with
  | none => s
  | some e =>
    let v := v.markCounted i e.again
    let v := { v with counted := v.counted + 1, reckoned := v.reckoned + (if e.again then 1 else 0) }
    let s := chartOr s c v i 27
    countUp (if e.again then chartOr s c v i 26 else s) c v 1

/-! ### Misses of the ring controller -/

/-- The entry waits for a translation, or no longer does. -/
def Voyage.park (v : Voyage) (i : Nat) (va : Option Word) : Voyage :=
  { v with entries := v.entries.mapIdx fun j e => if j = i then { e with waits := va } else e }

/-- An entry's accumulation or fetch misses: it is parked on the walk, and the rest of the voyage goes on (R94, R160). -/
def parkSight (s : State) (c : Nat) (v : Voyage) (i : Nat) (va : Word) (kind : BitVec 4) : State :=
  startWalk (setVoyage s c (some (v.park i (some va)))) (clusterDie c) v.owner { who := .sighting c i, va := va, kind := kind }

/-- A read of the embark phase, or a write of the reckoning list, misses: the walk starts, and the voyage is parked on it (R94, R101). -/
def parkVoyage (s : State) (c : Nat) (v : Voyage) (va : Word) (kind : BitVec 4) : State :=
  startWalk (setVoyage s c (some { v with parked := some va })) (clusterDie c) v.owner { who := .voyage c, va := va, kind := kind }

/-- The state after a read that failed (R398) or missed. -/
def vFail (s : State) (c : Nat) (v : Voyage) (va : Word) : State := setVoyage s c (some { v with failure := some (3, va) })

/-- The voyage that a step of the ring controller acts on: not parked, not failed, and not to be saved before half-step 0. -/
def movingVoyage (s : State) (c : Nat) (p : VPhase) : Option Voyage :=
  match (getCluster s c).voyage with
  | some v => if v.phase == p && v.parked.isNone && v.failure.isNone && !v.atStart then some v else none
  | none => none

/-! ### Embarking (R152) -/

/-- A VOYAGE launch runs from the beginning of its embark phase (R38). -/
def voyageRuns (s : State) (v : Voyage) : State :=
  match v.record with
  | some seq => recordRuns s seq
  | none => s

def voyageHeld (s : State) (v : Voyage) : Bool :=
  match v.record with
  | some seq => runHeld s seq
  | none => false

/-- Lists, headers and chart of the embark phase. (DEDUCED, log 37) -/
def readVoyage (s : State) (c : Nat) (v : Voyage) : VRead (List VTile × List VTile × List ChartEntry) :=
  (readHeaders s c v v.desc.w1 v.nPort).bind fun hp =>
    (readHeaders s c v v.desc.w2 v.nStbd).bind fun hs =>
      let port := embarked v false [] hp
      let stbd := embarked v true [] hs
      (if v.nChart = 0 then VRead.ok ([], false) else vWords s c v .both (2 * v.nChart) v.desc.w3).bind fun ws =>
        .ok (port, stbd, (rangeFrom v.nChart 0).map fun i => classify v c port stbd (ws.1.getD (2 * i) 0) (ws.1.getD (2 * i + 1) 0))

/-- EMBARK (R152): the counter is set to zero and the bays are taken (R144), then the lists, headers and chart are read and the entries classified. A
draining counter holds the start (R164). -/
def execEmbark (cluster : Nat) (s : State) : Out :=
  match movingVoyage s cluster .embark with
  | none => .next s
  | some v =>
    if v.fetched then .next s
    else if !v.zeroed then
      if (getCounter s cluster v.ctr).drain then .next s
      else if voyageHeld s v then .next (match v.record with | some q => holdBack s (.record q) | none => s)
      else
        let s := voyageRuns s v
        let s := counterPut s cluster v.ctr 0
        .next (scrambleBays (setVoyage s cluster (some { v with zeroed := true })) cluster)
    else if (getCounter s cluster v.ctr).drain then .next s
    else match readVoyage s cluster v with
      | .wait => .next s
      | .missing va => .next (parkVoyage s cluster v va 9)
      | .denied va => .next (vFail s cluster v va)
      | .ok (port, stbd, es) =>
        .next (setVoyage s cluster (some { v with fetched := true, port := port, stbd := stbd, entries := es }))

/-- Writes tiles into the bays: port slot 0 or starboard slot 0 of their home stations (R152). -/
def fillBays (s : State) (c : Nat) (v : Voyage) (slot : Nat) (ts : List (VTile × List Byte)) : State :=
  ts.foldl (fun s t => homeWrite s (padKey (c * 128 + t.1.home) slot) t.2 (engineWriter v.agent c v.clock none) []) s

/-- Marks pending and running entries of lost tiles missed (R162). -/
def missLost (v : Voyage) : Voyage :=
  let lost := fun (e : ChartEntry) => (match findTile v.port (bits e.w0 63 52) with | some t => t.lost | none => false)
    || (match findTile v.stbd (bits e.w0 51 40) with | some t => t.lost | none => false)
  let hit := fun (e : ChartEntry) => (e.status == .pending || e.status == .running) && !e.again && lost e
  { v with
    missed := v.missed + (v.entries.filter hit).length
    entries := v.entries.map fun e => if hit e then { e with status := .missed, products := [] } else e }

/-- Sighting tasks of marked entries learn that they are missed. -/
def missTasks (s : State) (c : Nat) (v : Voyage) : State :=
  { s with threads := s.threads.map fun e =>
      match e.2.sighting with
      | some h =>
        if tagCluster e.1 == c && !h.released && (match v.entries[h.entry]? with | some x => x.status == .missed | none => false) then
          (e.1, { e.2 with sighting := some { h with missed := true } })
        else e
      | none => e }

/-- A tile with the bytes of its bay form, and whether they are bad. -/
abbrev Fetched := VTile × List Byte × Bool

/-- Every embarking tile's bay form (R152). (DEDUCED, log 37) -/
def readBodies (s : State) (c : Nat) (v : Voyage) : VRead (List Fetched × List Fetched) :=
  (vMap (fun t => (readBody s c v false t).bind fun b => .ok (t, b)) v.port).bind fun ps =>
    (vMap (fun t => (readBody s c v true t).bind fun b => .ok (t, b)) v.stbd).bind fun ss => .ok (ps, ss)

def lostTiles (ps : List Fetched) : List VTile := ps.map fun p => { p.1 with lost := p.1.lost || p.2.2 }

def ChartEntry.idle (e : ChartEntry) : Bool := e.status == .void || e.status == .skipped

def Voyage.refusedN (v : Voyage) : Nat := v.nPort + v.nStbd - v.port.length - v.stbd.length
def Voyage.count (v : Voyage) (st : SightStatus) : Nat := (v.entries.filter fun e => e.status == st).length

/-- The voyage as half-step 0 begins (R152, R159, R162). -/
def embarkDone (v : Voyage) (ps ss : List Fetched) : Voyage :=
  missLost { v with
    phase := .halfSteps
    half := 0
    atStart := v.stopping
    port := lostTiles ps
    stbd := lostTiles ss
    badTile := v.badTile || v.refusedN != 0
    void := v.void || v.count .void != 0
    skipped := v.count .skipped
    counted := v.count .void + v.count .skipped
    missed := v.count .missed
    entries := v.entries.map fun e => if e.idle then { e with w0 := e.w0 ||| BitVec.ofNat 64 (2 ^ 25) } else e }

/-- EMBARK_COMPLETE (R152): the bay forms are fetched, what does not embark or is not sighted is counted, and half-step 0
begins. -/
def execEmbarkComplete (cluster : Nat) (s : State) : Out :=
  match movingVoyage s cluster .embark with
  | none => .next s
  | some v =>
    if !v.fetched then .next s
    else match readBodies s cluster v with
      | .wait => .next s
      | .missing va => .next (parkVoyage s cluster v va 9)
      | .denied va => .next (vFail s cluster v va)
      | .ok (ps, ss) =>
        let n := v.refusedN + v.count .void + v.count .skipped
        if countHeld s cluster v n then .next (holdBack s (.voyage cluster))
        else
          let s := fillBays s cluster v 0x28000 (ps.map fun p => (p.1, p.2.1))
          let s := fillBays s cluster v 0x2C000 (ss.map fun p => (p.1, p.2.1))
          let marks := (rangeFrom v.entries.length 0).filter fun i => match v.entries[i]? with | some e => e.idle | none => false
          let s := marks.foldl (fun s i => chartOr s cluster v i 25) s
          .next (countUp s cluster (embarkDone v ps ss) n)

/-! ### Half-steps (R155–R162) -/

/-- The tile of a family that stands at a station in the current half-step, unless lost. -/
def portTile (v : Voyage) (st : Nat) : Option VTile := v.port.find? fun t => !t.lost && portAt t.home v.half == st
def stbdTile (v : Voyage) (st : Nat) : Option VTile := v.stbd.find? fun t => !t.lost && stbdAt t.home v.half == st

/-- The slots that hold the resident tiles: a tile changes slot with each move. (DEDUCED, log 34) -/
def portSlot (h : Nat) : Nat := 0x28000 + (h + 1) / 2 % 2 * 0x2000
def stbdSlot (h : Nat) : Nat := 0x2C000 + h / 2 % 2 * 0x2000

/-- The tmma of an engine sighting (R160). -/
def sightMma (v : Voyage) (ps ss : Nat) : Mma := ⟨v.fp, v.fs, ps, ss, v.kk, v.q, v.q⟩

/-- The 256 values that a bank adds to its target: ColScale(fs, j) × z[i][j], rounded once; i32 unchanged (R160). -/
def products (v : Voyage) (b : Bank) : List (BitVec 32) :=
  (rangeFrom 256 0).map fun n =>
    let z := b.at (n / 16) (n % 16)
    if v.fs == 6 then BitVec.ofNat 32 (f32.mul .rne (b.csAt (n % 16)).toNat z.toNat).1 else z

/-- Runs an engine sighting at a station: the bank, and the entry's products (R158, R160); through a bank that a thread's queued
instruction wrote, the products are unspecified (R308). -/
def engineSight (s : State) (c : Nat) (v : Voyage) (i : Nat) (e : ChartEntry) (st ps ss : Nat) : State :=
  let k := c * 128 + st
  let core := getCore s k
  let m := sightMma v ps ss
  let b := m.run (padReader s k) (padReader s k) {}
  let core := { setBank core (entryBank e.w0) b with ringBusy := true }
  let ps := if v.spoiled.contains (st, entryBank e.w0) then freeProducts s else products v b
  let e' := { e with status := SightStatus.running, runAt := st, products := ps }
  setVoyage (setCore s k core) c (some { v with entries := v.entries.set i e' })

/-- Where a sighting's task would start (R161, R387). -/
def sightSlot (s : State) (c : Nat) (v : Voyage) (e : ChartEntry) (st : Nat) : Option Nat :=
  let ch := entryChannel e.w0
  let k := c * 128 + st
  let mine := match (getCore s k).crew with
    | some w => match getCrew s w with
      | some w => w.owner == v.owner && w.phase == .running
      | none => false
    | none => false
  if taskValid (getTask s c (2 * ch + 1)) && mine then freeSlot s k else none

/-- A sighting's task starts (R161, R67). -/
def threadSight (s : State) (c : Nat) (v : Voyage) (i : Nat) (e : ChartEntry) (st slot ps ss : Nat) : State :=
  let k := c * 128 + st
  let ms := [(0, BitVec.ofNat 64 (0xC2 * 2 ^ 56 + ps)), (1, BitVec.ofNat 64 (0xC2 * 2 ^ 56 + ss)), (2, BitVec.ofNat 64 i)]
  let s := startTask s c k slot (entryChannel e.w0) 0x7FFFF ms v.clock
  let th := getThread s (coreTag k slot)
  let s := setThread s (coreTag k slot) { th with sighting := some { entry := i, released := false, missed := false, reckon := e.again } }
  setVoyage s c (some { v with entries := v.entries.set i { e with status := SightStatus.running, runAt := st } })

/-- The next record to fire at a station: the first pending one of the bucket, in chart index order. (DEDUCED, log 36) -/
def nextSight (v : Voyage) (st : Nat) : Option (Nat × ChartEntry) :=
  ((rangeFrom v.entries.length 0).zip v.entries).find? fun e =>
    e.2.status == .pending && !e.2.tried && e.2.half == v.half && e.2.station == st

/-- The bay form of a resident tile reads bad (R118). -/
def bayBad (s : State) (c : Nat) (v : Voyage) (st slot : Nat) (stbd : Bool) : Bool :=
  poisoned s (padKey (c * 128 + st) slot) (bayForm (if stbd then v.fs else v.fp) v.kk v.q)

/-- Tiles lost in the bay at a station (R118, R162). -/
def loseTiles (s : State) (c : Nat) (v : Voyage) (st : Nat) : Voyage :=
  let pb := bayBad s c v st (portSlot v.half) false
  let sb := bayBad s c v st (stbdSlot v.half) true
  missLost { v with
    port := v.port.map fun t => if pb && portAt t.home v.half == st then { t with lost := true } else t
    stbd := v.stbd.map fun t => if sb && stbdAt t.home v.half == st then { t with lost := true } else t }

/-- SIGHTING (R155, R158–R161): a station fires its next pending record of the half-step. (DEDUCED, log 36) -/
def execSighting (cluster station : Nat) (s : State) : Out :=
  match movingVoyage s cluster .halfSteps with
  | none => .next s
  | some v =>
    let v' := loseTiles s cluster v station
    if v'.missed ≠ v.missed then .next (missTasks (setVoyage s cluster (some v')) cluster v')
    else match nextSight v station with
      | none => .next s
      | some (i, e) =>
        let k := getCore s (cluster * 128 + station)
        if entryKind e.w0 = 0 then
          if k.tileBusy || k.ringBusy || v.ready.contains station then .next s
          else .next (engineSight s cluster v i e station (portSlot v.half) (stbdSlot v.half))
        else if (getCluster s cluster).pendingQ.any fun p => p.channel == entryChannel e.w0 then
          .next (setVoyage s cluster (some { v with entries := v.entries.set i { e with tried := true } }))
        else match (if v.stopping then none else sightSlot s cluster v e station) with
          | some slot => .next (threadSight s cluster v i e station slot (portSlot v.half) (stbdSlot v.half))
          | none => .next (setVoyage s cluster (some { v with entries := v.entries.set i { e with tried := true } }))

/-- An element of an accumulation where it is added: its key, whether the page is cached, the flag header, its address and the addend. -/
abbrev Addend := Nat × Bool × Option Nat × Word × BitVec 32

/-- The homes of an engine sighting's additions (R160); the own-core alias names the meeting station's scratchpad. -/
def addends (s : State) (c : Nat) (v : Voyage) (e : ChartEntry) : VRead (List Addend) :=
  let at_ := fun (n : Nat) => e.target + BitVec.ofNat 64 (64 * (n / 16) + 4 * (n % 16))
  vMap (fun p => match reach s c (some (c * 128 + e.station)) v.owner (at_ p.1) 4 .both with
    | .home key fl => if engineWaits s v.clock key 4 fl then VRead.wait else .ok (key, false, fl, at_ p.1, p.2)
    | .cached key fl => if engineWaits s v.clock key 4 fl then .wait else .ok (key, true, fl, at_ p.1, p.2)
    | .denied => .denied (at_ p.1)
    | .missing => .missing (at_ p.1)) ((rangeFrom e.products.length 0).zip e.products)

/-- One addition, an atomic at the element's home. -/
def addOne (c : Nat) (v : Voyage) (s : State) (r : Addend) : State :=
  atomicAdd s v.owner (engineWriter v.agent c v.clock r.2.2.1) r.2.2.2.1 r.1 r.2.1 4 (if v.fp == 4 then 1 else 0) r.2.2.2.2.toNat

/-- The crew or launch of a voyage met poisoned data (R118, R163). -/
def voyagePoison (s : State) (v : Voyage) (va : Word) : State :=
  match v.record, v.crew with
  | some seq, _ => stopRecord s seq .faulted 0x22
  | none, some w => crewEvent s w 0x0B va
  | none, none => s

/-- Poisoned data at an address is reported, where any was met; then the entry is counted, unless its launch has ended. -/
def poisonThenCount (s : State) (c : Nat) (bad : Option Word) (i : Nat) : State :=
  match (getCluster s c).voyage, bad with
  | some v, none => countEntry s c v i
  | some v, some va =>
    let s := voyagePoison s v va
    match (getCluster s c).voyage with
    | some v => countEntry s c v i
    | none => s
  | none, _ => s

/-- The rows of a target that additions changed. -/
def rowsOf (rs : List Addend) : List (Nat × Nat) := ((rs.map fun r => r.1 / 64 * 64).eraseDups).map fun k => (k, 64)

/-- ACCUMULATION_COMPLETE (R160, R164): an engine sighting's 256 additions are performed and its entry is counted. -/
def execAccumulationComplete (cluster entry : Nat) (s : State) : Out :=
  match (getCluster s cluster).voyage with
  | none => .next s
  | some v =>
    match v.entries[entry]? with
    | none => .next s
    | some e =>
      if e.status != .running || entryKind e.w0 != 0 || e.waits.isSome || v.failure.isSome then .next s
      else if countHeld s cluster v 1 then .next (holdBack s (.voyage cluster))
      else match addends s cluster v e with
        | .wait => .next s
        | .missing va => .next (parkSight s cluster v entry va 2)
        | .denied va => .next (vFail s cluster v va)
        | .ok rs =>
          let bad := (rs.find? fun r => poisoned s r.1 4).map fun r => r.2.2.2.1
          let s := rs.foldl (addOne cluster v) s
          let v := { v with clock := Clock.tick v.clock v.agent, entries := v.entries.set entry { e with rows := rowsOf rs } }
          .next (poisonThenCount (setVoyage s cluster (some v)) cluster bad entry)

/-- Threads that hold a sighting of the station and have not released its tiles; a lost tile does not release the other (R156). -/
def holding (s : State) (c st : Nat) : Bool :=
  s.threads.any fun e => e.2.live && tagCore e.1 == c * 128 + st && (match e.2.sighting with
    | some h => !h.released && !h.freed
    | none => false)

/-- The station may leave HOLD: no record of the bucket is to be fired, and every task has released (R155). (DEDUCED, log 36) -/
def mayPass (s : State) (c : Nat) (v : Voyage) (st : Nat) : Bool :=
  (nextSight v st).isNone && !holding s c st

/-- Copies a tile's bay form from one station's slot to the next station's reserved slot (R155). (DEDUCED, log 34) -/
def passTile (s : State) (c : Nat) (v : Voyage) (f : BitVec 3) (st slot tgt slot' : Nat) : State :=
  let bs := s.bytesAt (bayForm f v.kk v.q) (padKey (c * 128 + st) slot)
  homeWrite s (padKey (c * 128 + tgt) slot') bs (engineWriter v.agent c v.clock none) []

/-- STATION_READY (R155, R162): the station leaves HOLD, declines what has not started, passes its tile of the moving
family and reports. -/
def execStationReady (cluster station : Nat) (s : State) : Out :=
  match movingVoyage s cluster .halfSteps with
  | none => .next s
  | some v =>
    if v.ready.contains station || !mayPass s cluster v station then .next s
    else
      let late := fun (e : ChartEntry) => e.status == .pending && e.half == v.half && e.station == station
      let v := { v with
        missed := v.missed + (v.entries.filter late).length
        entries := v.entries.map fun e => if late e then { e with status := .missed } else e
        ready := v.ready ++ [station] }
      let v := loseTiles s cluster v station
      let s := setVoyage s cluster (some v)
      let s := missTasks s cluster v
      if v.half = 95 then .next s
      else if v.half % 2 = 0 then
        match portTile v station with
        | some _ => .next (passTile s cluster v v.fp station (portSlot v.half) ((station + 1) % 96) (portSlot (v.half + 1)))
        | none => .next s
      else
        match stbdTile v station with
        | some _ => .next (passTile s cluster v v.fs station (stbdSlot v.half) ((station + 95) % 96) (stbdSlot (v.half + 1)))
        | none => .next s

/-! ### Reckoning (R163) -/

/-- Stations whose core is assigned to a crew of the owner, ascending (R163). -/
def taskStations (s : State) (c : Nat) (o : BitVec 12) : List Nat :=
  (rangeFrom 96 0).filter fun st => match (getCore s (c * 128 + st)).crew with
    | some w => match getCrew s w with
      | some w => w.owner == o
      | none => false
    | none => false

/-- The reckoning list's entries with their stations; 96 marks a thread entry with no station. -/
def reckonList (s : State) (c : Nat) (v : Voyage) : List (Nat × Nat) :=
  let ts := taskStations s c v.owner
  let es := ((rangeFrom v.entries.length 0).zip v.entries).filter fun e => e.2.status == .missed
  es.mapIdx fun i e =>
    (e.1, if entryKind e.2.w0 = 0 then i % 96 else if ts.isEmpty then 96 else ts.getD (i % ts.length) 96)

/-- Writes the reckoning list (R163), in words of 8 bytes (R223); a page it cannot reach parks or ends the voyage. -/
def writeReckon (s : State) (c : Nat) (v : Voyage) (l : List (Nat × Nat)) : VRead State :=
  let cells := l.mapIdx fun n e => (v.desc.w4 + BitVec.ofNat 64 (16 * n), match v.entries[e.1]? with
    | some x => bytesOf 8 x.w0.toNat ++ bytesOf 8 x.target.toNat
    | none => [])
  let find := fun (p : Word × List Byte) => match reach s c none v.owner p.1 16 .write with
    | .home key fl => if engineWaits s v.clock key 16 fl then VRead.wait else .ok p
    | .cached _ _ => .ok p
    | .denied => .denied p.1
    | .missing => .missing p.1
  (vMap find cells).bind fun ps => .ok (ps.foldl (fun s p =>
    let s := ringWrite8 s c v.owner v.agent v.clock p.1 (p.2.take 8)
    ringWrite8 s c v.owner v.agent v.clock (p.1 + 8) (p.2.drop 8)) s)

/-- HALF_STEP_START (R155, R163): every station is ready, so the next half-step begins; after half-step 95 the tiles are
dropped and counted, and then the reckoning list is written. -/
def execHalfStepStart (cluster : Nat) (s : State) : Out :=
  match movingVoyage s cluster .halfSteps with
  | none => .next s
  | some v =>
    if v.ready.length < 96 || v.stopping then .next s
    else if v.half < 95 then .next (setVoyage s cluster (some { v with half := v.half + 1, ready := [] }))
    else if !v.dropped then
      let n := v.port.length + v.stbd.length
      if countHeld s cluster v n then .next (holdBack s (.voyage cluster)) else .next (countUp s cluster { v with dropped := true } n)
    else
      let l := reckonList s cluster v
      match writeReckon s cluster v l with
      | .wait => .next s
      | .missing va => .next (parkVoyage s cluster v va 9)
      | .denied va => .next (vFail s cluster v va)
      | .ok s' => .next (setVoyage s' cluster (some { v with phase := .reckoning, reckon := l, clock := Clock.tick v.clock v.agent }))

/-- The first station, of those a predicate picks, whose next reckoning entry is of a kind it can run. -/
def nextReckon (v : Voyage) (p : Nat → ChartEntry → Bool) : Option (Nat × Nat × ChartEntry) :=
  (rangeFrom 97 0).findSome? fun st => match v.reckonNext st with
    | some e => if p st e.2 then some (e.1, st, e.2) else none
    | none => none

/-- Fetches both tiles of an entry into slot 0 of each family at a station (R163); beside it, the source address of a tile that
is poisoned there. -/
def fetchPair (s : State) (c : Nat) (v : Voyage) (e : ChartEntry) (st : Nat) : VRead (State × Option Word) :=
  match findTile v.port (bits e.w0 63 52), findTile v.stbd (bits e.w0 51 40) with
  | some a, some b =>
    (readBody s c v false a).bind fun ba => (readBody s c v true b).bind fun bb =>
      let s := fillBays s c v 0x28000 [({ a with home := st }, ba.1)]
      .ok (fillBays s c v 0x2C000 [({ b with home := st }, bb.1)], if ba.2 then some a.source else if bb.2 then some b.source else none)
  | _, _ => .ok (s, none)

/-- Runs the reckoning entry `i` at its station: the tiles are fetched, then `run` starts it; a tile poisoned at its source makes the entry
counted without an accumulation (R163). -/
def reckonEntry (s : State) (c : Nat) (v : Voyage) (i st : Nat) (e : ChartEntry) (run : State → Voyage → ChartEntry → State) : Out :=
  match fetchPair s c v e st with
  | .wait => .next s
  | .missing va => .next (parkSight s c v i va 9)
  | .denied va => .next (vFail s c v va)
  | .ok (s', bad) =>
    let e := { e with again := true, status := SightStatus.running, runAt := st }
    match bad with
    | none => .next (run s' v e)
    | some va =>
      if countHeld s c v 1 then .next (holdBack s (.voyage c))
      else .next (poisonThenCount (setVoyage s' c (some { v with entries := v.entries.set i e })) c (some va) i)

/-- RECKONING (R163): the next engine-kind entry of a station's list runs there, or a thread-kind entry without a
station is counted unrun. (DEDUCED, log 35) -/
def execReckoning (cluster : Nat) (s : State) : Out :=
  match movingVoyage s cluster .reckoning with
  | none => .next s
  | some v =>
    let idle := fun (st : Nat) => let k := getCore s (cluster * 128 + st); !k.tileBusy && !k.ringBusy
    if v.stopping then .next s
    else match nextReckon v fun st e => st == 96 || (entryKind e.w0 == 0 && idle st) with
    | none => .next s
    | some (i, st, e) =>
      if st = 96 then
        if countHeld s cluster v 1 then .next (holdBack s (.voyage cluster))
        else
          let v := { v with lostTask := true, counted := v.counted + 1, entries := v.entries.set i { e with status := .counted } }
          .next (countUp s cluster v 1)
      else reckonEntry s cluster v i st e fun s v e => engineSight s cluster v i e st 0x28000 0x2C000

/-- RECKON_TASK_START (R163, R387): the next thread-kind entry of a station starts its task when a slot is free and no spawn of its
channel is pending (R161). -/
def execReckonTaskStart (cluster station : Nat) (s : State) : Out :=
  match movingVoyage s cluster .reckoning with
  | none => .next s
  | some v =>
    if v.stopping then .next s
    else match v.reckonNext station with
    | none => .next s
    | some (i, e) =>
      if entryKind e.w0 = 0 ∨ ((getCluster s cluster).pendingQ.any fun p => p.channel == entryChannel e.w0) = true then .next s
      else match sightSlot s cluster v e station with
      | none => .next s
      | some slot => reckonEntry s cluster v i station e fun s v e => threadSight s cluster v i e station slot 0x28000 0x2C000

/-! ### Failure, stop and resume (R398, R167–R169) -/

/-- Running thread-kind entries whose tasks have not released are marked missed, and their tiles are released (R162, R167, R398). -/
def missUnreleased (s : State) (c : Nat) (v : Voyage) : State × Voyage :=
  let held := (s.threads.filter fun e => e.2.live && tagCluster e.1 == c).filterMap fun e =>
    match e.2.sighting with
    | some h => if !h.released && !h.missed then some h.entry else none
    | none => none
  let v' := { v with
    missed := v.missed + held.length
    entries := v.entries.mapIdx fun i e =>
      if held.contains i && e.status == .running then { e with status := SightStatus.missed } else e }
  let loose := fun (h : HeldSighting) => if h.released then h else { h with missed := true, freed := true }
  ({ s with threads := s.threads.map fun e => if tagCluster e.1 == c then (e.1, { e.2 with sighting := e.2.sighting.map loose }) else e }, v')

/-- VOYAGE_FAILURE (R398): the voyage ends with ERROR = 5; a VOYAGE launch ends faulted with reason 0x24, a `vstart` thread
takes a deferred trap. -/
def execVoyageFailure (cluster : Nat) (s : State) : Out :=
  match (getCluster s cluster).voyage with
  | none => .next s
  | some v =>
    match v.failure with
    | none => .next s
    | some (cause, va) =>
      if v.record.isSome && !mayChange s (.voyage cluster) then .next (holdBack s (.voyage cluster))
      else
        let (s, v) := missUnreleased s cluster v
        let s := voyageOver (endVoyage s cluster v 5 false) cluster v
        match v.record, v.thread with
        | some seq, _ => .next (moveSeq (unhold s (.voyage cluster)) seq .faulted 0x24)
        | none, some t => .next (deferTrap s t v.threadAgent cause va)
        | none, none => .next s

/-- A pre-emption asks the cluster's voyage to stop (R167). -/
def askStop (s : State) (c : Nat) : State :=
  match (getCluster s c).voyage with
  | none => s
  | some v =>
    if v.stopping then s
    else
      let (s, v) := missUnreleased s c v
      setVoyage s c (some { v with stopping := true })

/-- Engine tasks that have not been counted run on the ring. -/
def engineRunning (v : Voyage) : Bool := v.entries.any fun e => e.status == .running && entryKind e.w0 == 0

/-- The reckoning position: the first entry of the list that is not counted (R167). -/
def Voyage.reckonPos (v : Voyage) : Nat := (v.reckon.takeWhile fun g => v.reckonDone g.1).length

/-- The voyage as it is saved, when its stop can take effect (R167). Of what its accumulations changed, the locations in global memory
are kept in mind. (DEDUCED, log 38) -/
def stoppedVoyage (v : Voyage) : Option Voyage :=
  let v' := { v with
    stopping := false, wasStopped := true, parked := none, atStart := false, reckonAt := v.reckonPos
    entries := v.entries.map fun e => { e with waits := none, rows := e.rows.filter fun r => globalKey r.1 } }
  match v.phase with
  | .embark =>
    if !v.zeroed || v.parked.isSome then some { v' with zeroed := false, fetched := false, port := [], stbd := [], entries := [] } else none
  | .halfSteps =>
    if v.atStart then some v'
    else if v.ready.length < 96 || engineRunning v then none
    else if v.half < 95 then some { v' with half := v.half + 1, ready := [] } else some v'
  | .reckoning => if engineRunning v then none else some v'
  | .stopped => none

/-- VOYAGE_STOP (R167, R168): the voyage's state goes to its save area. -/
def execVoyageStop (cluster : Nat) (s : State) : Out :=
  match (getCluster s cluster).voyage with
  | none => .next s
  | some v =>
    if !v.stopping || v.failure.isSome then .next s
    else match stoppedVoyage v with
      | none => .next s
      | some v' =>
        let s := flushCluster s cluster
        let bays := (rangeFrom 96 0).map fun st => takeRegion s (padKey (cluster * 128 + st) 0x28000) 0x8000
        let save : VoyageSave :=
          { cluster := cluster, voyage := v', counter := (getCounter s cluster v.ctr).value, bays := bays,
            chart := takeRegion s (chartKey cluster 0) 0x10000, base := poolBase s voyageUnits }
        let s := forgetWaiters (writeArea s save.base voyageUnits (voyagePieces save)) fun r => match r with | .voyage k | .sighting k _ => k == cluster | _ => false
        .next { setVoyage s cluster none with vsaves := s.vsaves ++ [save] }

end Sys2Proof.Machine
end

