-- ==== Sys2Proof/Machine/System.lean ====
section
/-! DEFINITION. System instructions (R318–R323), deferred traps and crew events (R105, R107), and instruction fetch (R139). -/

namespace Sys2Proof.Machine

/-! ### System registers (R248, R320) -/

/-- The system register numbered `n`, as `rdsys` reads it; none for a number that traps (R248). -/
def sysRead (s : State) (t n : Nat) : Option Word :=
  let th := getThread s t
  match n with
  | 0 => some th.thid
  | 1 => some th.crix
  | 2 => some (BitVec.ofNat 64 (AMap.getD s.board.dieClk (tagDie t) 0))
  | 3 => some th.tcause
  | 4 => some th.tepc
  | 5 => some th.tval
  | 6 => some th.tvec
  | 7 => some th.tstat
  | 8 => some th.fstat
  | 9 => some (zx (ownerOf s t))
  | _ => none

/-- `fstat` after a write (R235): RM codes 101 to 111 leave RM unchanged. -/
def fstatWrite (old v : Word) : Word :=
  let rm := if 5 ≤ bits v 2 0 then old &&& 7 else v &&& 7
  (v &&& 0x1F0) ||| rm

/-- The thread after a `wrsys` of register `n`; none where the write traps (R248). -/
def sysWrite (th : ThreadState) (n : Nat) (v : Word) : Option ThreadState :=
  match n with
  | 3 => some { th with tcause := v &&& 0xFF }
  | 4 => some { th with tepc := v &&& ~~~(3 : Word) }
  | 5 => some { th with tval := v }
  | 6 => some { th with tvec := v &&& ~~~(3 : Word) }
  | 7 => some { th with tstat := th.tstat &&& ~~~(v &&& 6) }
  | 8 => some { th with fstat := fstatWrite th.fstat v }
  | _ => none

/-- `rdsys d, name` (R320). -/
def execRdsys (d b : Reg) (s : State) : Out :=
  match sysRead s s.cur b.toNat with
  | some v => .next (s.put d v)
  | none => s.trap 0x01 (instrWord (.rdsys d b))

/-- `wrsys name, a` (R320). -/
def execWrsys (a b : Reg) (s : State) : Out :=
  match sysWrite s.th b.toNat (s.x a) with
  | some th => .next (s.setTh th.advance)
  | none => s.trap 0x01 (instrWord (.wrsys a b))

/-- `trap a` (R318): cause 0x08 with x[a]. -/
def execTrap (a : Reg) (s : State) : Out := s.trap 0x08 (s.x a)

/-- `tret` (R319). -/
def execTret (s : State) : Out :=
  if s.th.ih then .next (s.setTh s.th.leaveTrap) else s.trap 0x01 (instrWord .tret)

/-- `yield` (R322): the thread is passed over once. -/
def execYield (s : State) : Out := .next (s.setTh { s.th.advance with yielded := true })

/-! ### Events and the event thread (R107) -/

/-- The crew's event thread (R107). (DEDUCED, log 57) -/
def eventThread (s : State) (c : Nat) : Option Nat :=
  let mine := s.threads.filter fun e => e.2.live && e.2.crew == c
  match leastBy (fun e => e.2.index) (mine.filter fun e => e.2.launch) with
  | some e => some e.1
  | none => (leastBy (fun e => e.1) mine).map (·.1)

def Crew.eventDue (w : Crew) : Bool := w.event0A.isSome || w.event0B.isSome

/-- A crew event is pending for thread `t`. -/
def eventPending (s : State) (t : Nat) : Bool :=
  match getCrew s (getThread s t).crew with
  | some w => w.eventDue && eventThread s (getThread s t).crew == some t
  | none => false

/-- The wait of a woken thread is withdrawn: an unanswered send or spawn, a full/empty request, or a walk. (DEDUCED, log 25) -/
def withdraw (s : State) (t : Nat) : State :=
  let s := forgetWaiters s fun r => r == .thread t || r == .fetch t
  match (getThread s t).park with
  | .send n => dropMessage s n
  | .spawn n => { s with spawns := s.spawns.filter fun p => p.num != n }
  | .sync k _ => let c := getCore s k; setCore s k { c with waiters := c.waiters.filter fun w => w.tag != t }
  | _ => s

/-- A crew event can be taken by the thread now (R106, R107). -/
def canTakeEvent (th : ThreadState) : Bool := th.live && !th.ih && !th.stopped && th.park != .serve

/-- CREW_EVENT (R107): the event thread takes 0x0B first, then 0x0A; parked, it is woken and `tepc` names its parking
instruction. (DEDUCED, log 57) -/
def execCrewEvent (crew : Nat) (s : State) : Out :=
  match getCrew s crew, eventThread s crew with
  | some w, some t =>
    let th := getThread s t
    if w.phase == .running && canTakeEvent th then
      let s := withdraw s t
      match w.event0B, w.event0A with
      | some v, _ => .next (takeTrap (setCrew s crew { w with event0B := none }) t 0x0B v th.pc)
      | none, some v => .next (takeTrap (setCrew s crew { w with event0A := none }) t 0x0A v th.pc)
      | none, none => .next s
    else .next s
  | _, _ => .next s

/-- A deferred trap of the thread can be taken at this boundary (R105): crew events go first. -/
def canTakeDeferred (s : State) (t : Nat) : Bool :=
  let th := getThread s t
  th.live && !th.ih && !th.stopped && th.park == .none && !th.deferred.isEmpty && !eventPending s t

/-- DEFERRED_TRAP (R105): the oldest deferred trap of a thread is taken at its next instruction boundary. -/
def execDeferredTrap (tag : Nat) (s : State) : Out :=
  if canTakeDeferred s tag then
    let th := getThread s tag
    match th.deferred with
    | d :: rest => .next (takeTrap (setThread s tag { th with deferred := rest }) tag d.cause d.tval th.pc)
    | [] => .next s
  else .next s

/-- `park` (R323): waits for a message, a deferred trap or a crew event. -/
def execPark (s : State) : Out :=
  if s.th.fullBits != 0 || !s.th.deferred.isEmpty || eventPending s s.cur then
    .next (s.setTh { s.th.advance with park := .none })
  else s.parkOn .anyMessage

/-! ### `exit` (R321) -/

/-- Commands of a thread's life that are still queued or running. -/
def commandsOf (s : State) (t : Nat) : Bool :=
  let k := getCore s (tagCore t)
  (k.e0 ++ k.e1 ++ k.e2 ++ k.e3).any fun m => m.tag == t && m.agentOf == (getThread s t).agent

/-- The thread is its crew's last. -/
def lastThread (s : State) (t : Nat) : Bool := crewTags s (getThread s t).crew == [t]

/-- Undelivered entries of the crew in its spill area or its spill engine (R109). -/
def spillWaits (s : State) (c : Nat) : Bool :=
  match getCrew s c with
  | some w => !w.spilled.isEmpty || (getCluster s w.cluster).spill.any fun i => i.crew == c
  | none => false

/-- The entry a sighting task counts at its exit (R161). -/
def exitCounts (th : ThreadState) : Option Nat :=
  match th.sighting with
  | some h => if h.missed then none else some h.entry
  | none => none

/-- The exit's counting must wait for a logbook place (R41). -/
def exitHeld (s : State) (t : Nat) : Bool :=
  match exitCounts (getThread s t), (getCluster s (tagCluster t)).voyage with
  | some _, some v => countHeld s (tagCluster t) v 1
  | _, _ => false

/-- `exit` need not wait any longer (R321). -/
def canExit (s : State) (t : Nat) : Bool :=
  let c := (getThread s t).crew
  !commandsOf s t && !((getCore s (tagCore t)).tiles.any fun e => e.tag == t) && !exitHeld s t
    && !(lastThread s t && (spillWaits s c || voyageOfCrew s c))

/-- A running entry of a stopped voyage is counted: its bits of the chart, COUNTED and the saved counter (R161, R167). -/
def countSaved (s : State) (q : VoyageSave) (i : Nat) (clk : Clock) : State :=
  match q.voyage.entries[i]? with
  | none => s
  | some e =>
    if e.status != .running then s
    else
      let v := { q.voyage.markCounted i e.again with clock := Clock.join q.voyage.clock clk }
      let s := chartOr s q.cluster v i 27
      let s := if e.again then chartOr s q.cluster v i 26 else s
      let v := { v with counted := v.counted + 1, reckoned := v.reckoned + (if e.again then 1 else 0), tally := v.tally + 1 }
      { s with vsaves := s.vsaves.map fun x => if x == q then { q with voyage := v, counter := q.counter + 1 } else x }

/-- The entry of a sighting whose task exits having received 0 is counted, in the running or the stopped voyage. -/
def countSighting (s : State) (t : Nat) : State :=
  match exitCounts (getThread s t) with
  | none => s
  | some i =>
    let c := tagCluster t
    let clk := (getThread s t).clock
    match (getCluster s c).voyage with
    | some v =>
      if v.failure.isNone && (match v.entries[i]? with | some e => e.status == .running | none => false) then
        countEntry s c { v with clock := Clock.join v.clock clk } i
      else s
    | none => s.vsaves.foldl (fun s q => if q.cluster = c then countSaved s q i clk else s) s

/-- The slot becomes free; messages for it and unconsumed responses are discarded (R321). -/
def freeThread (s : State) (t : Nat) : State :=
  let s := discardFor s t
  let k := getCore s (tagCore t)
  let s := setCore s (tagCore t) { k with responses := k.responses.filter fun r => r.tag != t }
  { s with threads := AMap.erase s.threads t }

/-- `exit` (R321): parks until it need not wait, then ends the thread as a release of module scope. -/
def execExit (s : State) : Out :=
  if canExit s s.cur then
    s.afterRelease fun s =>
    let s := match getCrew s s.th.crew with | some w => joinEnd s w.record s.th.clock | none => s
    let s := countSighting s s.cur
    .next (freeThread s s.cur)
  else (if exitHeld s s.cur then holdBack s (.voyage (tagCluster s.cur)) else s).parkOn .exiting

/-! ### Fetch (R139) -/

/-- The word of an instruction that no decoding accepts raises cause 0x01 (R244, R249). -/
def execIllegalInstruction (word : IWord) (s : State) : Out := s.trap 0x01 (zx word)

/-- What the fetch at a pc meets. -/
inductive Fetch where
  | word (w : IWord)
  | miss
  | denied
  deriving DecidableEq, Repr

/-- The fetch of thread `t` (R127, R139): window addresses are access faults. (DEDUCED, log 58) -/
def fetch (s : State) (t : Nat) : Fetch :=
  let pc := (getThread s t).pc
  if bits pc 63 55 ≠ 0 then .denied
  else match (getCore s (tagCore t)).icache.find? fun l => l.line == pc.toNat / 64 with
    | some l => .word (l.words.getD (pc.toNat % 64 / 4) 0)
    | none => .miss

/-- A line enters the instruction cache: 64 sets of 8 ways; the device chooses the way it replaces (R139). (DEDUCED, log 58) -/
def icacheAdd (s : State) (l : List ICacheLine) (x : ICacheLine) : List ICacheLine :=
  let same := l.filter fun y => y.line % 64 == x.line % 64
  if same.length < 8 then l ++ [x]
  else match same[s.choose 50 8]? with
    | some y => (l.filter fun z => z.line != y.line) ++ [x]
    | none => l ++ [x]

/-- Sixteen instruction words of a line's 64 bytes. -/
def lineWords : Nat → List Byte → List IWord
  | 0, _ => []
  | n + 1, bs => BitVec.ofNat 32 (ofBytes (bs.take 4)) :: lineWords n (bs.drop 4)

/-- Threads of a core parked on a line. -/
def fetchers (s : State) (k line : Nat) : List Nat :=
  (s.threads.filter fun e => tagCore e.1 == k && e.2.live && e.2.park == .fetch line).map (·.1)

/-- A parked thread goes on. -/
def unpark (s : State) (t : Nat) : State := setThread s t { getThread s t with park := .none }

/-- A fetch that misses the TLBs: inside a handler a page fault aborts the launch instead of parking (R106). (DEDUCED, log 58) -/
def fetchMiss (s : State) (t : Nat) : State :=
  let th := getThread s t
  let o := ownerOf s t
  if th.ih then
    match walk s (getOwner s o).root th.pc with
    | .leaf pte big =>
      addL2 s (tagDie t) { owner := o, vpn := pageOf th.pc, big := big, pte := pte }
    | .poisoned a => takeTrap (reportEntry s a) t 0x03 th.pc th.pc
    | _ => takeTrap s t 0x03 th.pc th.pc
  else
    startWalk (setThread s t { th with park := .fault }) (tagDie t) o { who := .fetch t, va := th.pc, kind := 3 }

/-- ICACHE_FILL (R139): a line arrives, or its fetch faults (R101). -/
def execIcacheFill (core line : Nat) (s : State) : Out :=
  match fetchers s core line with
  | [] => .next s
  | t :: rest =>
    let ts := t :: rest
    let va : Word := BitVec.ofNat 64 (line * 64)
    let o := ownerOf s t
    match engineRead s (coreCluster core) none o (getThread s t).clock va 8 .exec with
    | .wait => .next s
    | .missing _ => .next (ts.foldl fetchMiss s)
    | .denied _ => .next (ts.foldl (fun s t => takeTrap s t 0x03 (getThread s t).pc (getThread s t).pc) s)
    | .got _ _ =>
      match engineWords s (coreCluster core) none o (getThread s t).clock .exec 8 va [] false with
      | .got bs bad =>
        let k := getCore s core
        let s' := setCore s core { k with icache := icacheAdd s k.icache { line := line, words := lineWords 16 bs } }
        let s' := ts.foldl unpark s'
        .next (if bad then poisonEvent s' t va else s')
      | _ => .next s

end Sys2Proof.Machine
end

