-- ==== Sys2Proof/Machine/Commands.lean ====
section
/-! DEFINITION. Stream commands (R324–R348): the five instructions that issue and observe them, their checks, and the steps
of the engines: a command's start, its turns and its completion. -/

namespace Sys2Proof.Machine

/-! ### The command word (R326) -/

def Command.rem (m : Command) : Bool := bitAt m.hi 49
def Command.die (m : Command) : Nat := bits m.hi 48 46
def Command.cl (m : Command) : Nat := bits m.hi 45 41
def Command.loc (m : Command) : Nat := bits m.hi 40 23
def Command.len (m : Command) : Nat := bits m.hi 22 5
def Command.xtra (m : Command) : Nat := bits m.hi 4 0
/-- The index list's offset and the element size of `getx`, `putx` and `probe` (R327). -/
def Command.ilist (m : Command) : Nat := bits m.hi 22 8 * 8
def Command.esize (m : Command) : Nat := 8 * (bits m.hi 7 0 + 1)
def Command.top (m : Command) : Nat := bits m.lo 63 56
/-- The far cluster (R329). -/
def Command.farCluster (m : Command) : Nat := m.die * 32 + m.cl

/-- The width of a `scan` type (R335). -/
def scanWidth (ty : Nat) : Nat :=
  match ty with
  | 2 | 3 | 4 => 1
  | 5 | 7 => 4
  | 8 => 8
  | _ => 2

/-- N' for C non-zero elements (R336). -/
def scanCount (pad : Bool) (c : Nat) : Nat := if pad then (c + 15) / 16 * 16 else c

/-! ### Checks at issue (R327, R328) -/

/-- LEN of a data command. -/
def lenGood (n : Nat) : Bool := n % 8 == 0 && decide (8 ≤ n ∧ n ≤ 0x30000)

/-- The FAR field of an addressing command: alignment `al`, and a top byte that R329 admits. `glob`: the command may reach
another module; `windows`: it admits 0xC1 and 0xC2. -/
def farGood (m : Command) (al : Nat) (glob windows : Bool) : Bool :=
  m.lo.toNat % al == 0 &&
    (if m.rem then (m.top == 0x00 && glob && m.cl == 0) || m.top == 0xC0
     else m.top == 0x00 || m.top == 0xC0 || (windows && (m.top == 0xC1 || m.top == 0xC2)))

/-- The launch of a thread is a GANG (R61). -/
def gangThread (s : State) (t : Nat) : Bool :=
  match getCrew s (getThread s t).crew with
  | some w => w.gang
  | none => false

/-- The checks of R328 that one opcode adds. (DEDUCED, log 29) -/
def opGood (s : State) (t : Nat) (m : Command) : Bool :=
  let end_ := decide (m.loc + m.len ≤ 0x30000)
  match m.op with
  | 0x01 | 0x02 => m.loc % 8 == 0 && lenGood m.len && end_ && m.xtra == 0 && farGood m 8 true true
  | 0x03 | 0x04 => m.loc % 8 == 0 && farGood m 8 false true
  | 0x05 | 0x06 => m.loc % 8 == 0 && lenGood m.len && decide (m.loc + 8 ≤ 0x30000) && m.xtra == 0 && farGood m 8 false true
  | 0x07 =>
    m.loc % 8 == 0 && lenGood m.len && end_ && m.xtra / 4 == 0 && m.xtra % 4 != 3
      && farGood m (4 * (1 + m.xtra / 2 % 2)) true true
  | 0x08 =>
    !m.rem && m.loc % 8 == 0 && lenGood m.len && end_ && m.xtra == 0 && bits m.lo 63 18 == 0 && m.lo.toNat % 8 == 0
  | 0x10 => !m.rem && m.loc % 16 == 0 && decide (m.loc + 16 ≤ 0x30000) && m.len == 0 && m.xtra / 16 == 0 && m.lo == 0
  | 0x11 =>
    m.rem && m.loc == 0 && m.len / 256 == 0 && decide (m.len % 128 < 96) && m.xtra / 16 == 0 && m.lo == 0
      && gangThread s t && m.farCluster != tagCluster t
  | 0x18 =>
    let ty := m.xtra % 16
    let w := scanWidth ty
    let n := scanCount (bitAt m.lo 18) m.len
    !m.rem && m.loc % 8 == 0 && m.xtra / 16 == 0 && decide (ty ≤ 8) && m.len != 0 && bits m.lo 63 38 == 0
      && bits m.lo 17 0 % 8 == 0 && decide (m.loc + m.len * w ≤ 0x30000) && decide (bits m.lo 17 0 + 8 + 4 * n ≤ 0x30000)
      && (!bitAt m.lo 19 || (bits m.lo 37 20 % 8 == 0 && decide (bits m.lo 37 20 + n * w ≤ 0x30000)))
  | 0x20 => !m.rem && m.loc == 0 && farGood m 8 false false
  | _ => false

/-- CheckCommand (R324, R328). -/
def commandGood (s : State) (t : Nat) (m : Command) : Bool :=
  !(m.nc && m.ctr != 0) && !(!m.rem && (m.die != 0 || m.cl != 0)) && opGood s t m

/-! ### `scmd`, `rget`, `nwait`, `nread`, `nset` -/

/-- A command as it is appended (R324). -/
def newCommand (s : State) (hi lo : Word) : Command where
  hi := hi
  lo := lo
  tag := s.cur
  agentOf := s.th.agent
  phase := .queued
  progress := 0
  listed := []
  status := 0
  value := 0
  response := none
  agent := 0
  clock := s.th.clock

/-- PEND rises by one. -/
def joinPend (s : State) (c n : Nat) : State :=
  let k := getCounter s c n
  setCounter s c n { k with pend := k.pend + 1 }

/-- The command is appended to its queue, counted in PEND or held (R341, R343), its response entry reserved. -/
def appendCommand (s : State) (k q : Nat) (m : Command) : State :=
  let c := coreCluster k
  let held := !m.nc && (getCounter s c m.ctr).drain
  let core := getCore s k
  let m := { m with agent := s.nextAgent, phase := if held then CmdPhase.held else .queued, response := if m.rsp then some s.nextMsg else none }
  let core := core.setQueue q (core.queue q ++ [m])
  let core := { core with responses := if m.rsp then core.responses ++ [{ num := s.nextMsg, tag := m.tag, element := none, clock := [] }] else core.responses }
  let s := enlistFor { setCore s k core with nextAgent := s.nextAgent + 1, nextMsg := s.nextMsg + 1 } m.tag m.agent
  if held || m.nc then s else joinPend s c m.ctr

/-- `scmd eN, a, b` (R324). -/
def execScmd (a b : Reg) (n : BitVec 2) (s : State) : Out :=
  let m := newCommand s (s.x b) (s.x a)
  let k := getCore s (tagCore s.cur)
  if !commandGood s s.cur m then s.trap 0x07 (s.x b)
  else if (k.queue n.toNat).length ≥ 8 ∨ (m.rsp = true ∧ k.responses.length ≥ 128) then s.forfeit
  else s.afterRelease fun s => .next (appendCommand s (tagCore s.cur) n.toNat m).skip

/-- The thread's oldest response entry (R338). -/
def oldestResponse (s : State) (t : Nat) : Option ResponseEntry :=
  (getCore s (tagCore t)).responses.find? fun r => r.tag == t

/-- `rget d` (R339). -/
def execRget (d : Reg) (s : State) : Out :=
  match oldestResponse s s.cur with
  | none => .next (s.put d 0)
  | some r =>
    match r.element with
    | none => s.parkOn .response
    | some v =>
      let k := getCore s (tagCore s.cur)
      let th := s.th
      let s := setCore s (tagCore s.cur) { k with responses := k.responses.filter fun q => q.num != r.num }
      .next (s.setTh { (th.writeX d v).advance with clock := Clock.join th.clock r.clock, park := .none })

/-- `nwait nN, a` (R342). -/
def execNwait (a : Reg) (n : BitVec 4) (s : State) : Out :=
  let k := getCounter s (tagCluster s.cur) n.toNat
  let v : BitVec 48 := (s.x a).setWidth 48
  if v ≤ k.value then
    .next (s.setTh { s.th.advance with clock := Clock.join s.th.clock k.clock, park := .none })
  else s.parkOn (.counter n.toNat v)

/-- What a read of a counter gives a later acquire fence (R217): the work counted so far. -/
def Counter.ends (k : Counter) (t : Nat) : List RelEnd :=
  if k.clock.isEmpty then [] else [{ place := threadPlace t, scope := .device, clock := k.clock }]

/-- `nread d, nN` (R342): a request to the control block, behind the core's earlier ones (R120). -/
def execNread (d : Reg) (n : BitVec 4) (s : State) : Out :=
  s.atControl fun s =>
    let k := getCounter s (tagCluster s.cur) n.toNat
    .next (s.setTh { (s.th.writeX d k.word).advance with seen := s.th.seen ++ k.ends s.cur })

/-- `nset nN, a` (R342, R343): a request to the control block, behind the core's earlier ones (R120). -/
def execNset (a : Reg) (n : BitVec 4) (s : State) : Out :=
  s.atControl fun s => .next (counterSet s (tagCluster s.cur) n.toNat ((s.x a).setWidth 48)).skip

/-! ### Running commands: state and ends (R325, R340) -/

/-- Replaces the head command of a queue. -/
def setHead (s : State) (k q : Nat) (m : Command) : State :=
  let core := getCore s k
  setCore s k (core.setQueue q (m :: (core.queue q).drop 1))

/-- The head command of a queue in a phase. -/
def headIn (s : State) (k q : Nat) (p : CmdPhase) : Option Command :=
  match (getCore s k).queue q with
  | m :: _ => if m.phase == p then some m else none
  | [] => none

/-- The head command that runs, if its opcode is `op`. -/
def runningOp (s : State) (k q op : Nat) : Option Command :=
  match headIn s k q .running with
  | some m => if m.op = op then some m else none
  | none => none

def commandOwner (s : State) (m : Command) : BitVec 12 := ownerOf s m.tag

/-- A `halo` of the command's group that the core's threads appended before it has not completed, at whatever place of its queue (R345). -/
def haloBefore (k : CoreState) (m : Command) : Bool :=
  m.op == 0x10 && (k.e0 ++ k.e1 ++ k.e2 ++ k.e3).any fun o => o.op == 0x10 && o.xtra % 16 == m.xtra % 16 && o.agent < m.agent

/-- COMMAND_START (R325): the head of a queue starts, after every access of the queue's earlier commands (R348). A `halo` of
a group waits at the head while an earlier one of the group has not completed (R345). -/
def execCommandStart (core q : Nat) (s : State) : Out :=
  match headIn s core q .queued with
  | none => .next s
  | some m =>
    let k := getCore s core
    if haloBefore k m then .next s
    else
      let clk := Clock.join m.clock (AMap.getD k.qclk q [])
      .next (setHead s core q { m with phase := .running, clock := clk })

/-- What one piece of a command's work comes to. -/
inductive Piece where
  | go (s : State) (m : Command)
  /-- A page fault or walk: the command parks at this access (R340). -/
  | park (va : Word) (kind : BitVec 4)
  /-- A fault ends the command (R340): deferred cause, address. -/
  | stop (cause : BitVec 8) (va : Word)
  /-- A write that happens before the access is on its way: the command goes on at a later turn (R224). -/
  | wait

/-- The head command parks on a walk. -/
def parkCommand (s : State) (k q : Nat) (m : Command) (va : Word) (kind : BitVec 4) : State :=
  let who := if kind == 6 then Requester.probe k q else .command k q
  startWalk (setHead s k q { m with phase := .parked }) (coreDie k) (commandOwner s m) { who := who, va := va, kind := kind }

/-- The head command ends early with a deferred trap (R340); `handled` is its response value. (DEDUCED, log 32) -/
def stopCommand (s : State) (k q : Nat) (m : Command) (cause : BitVec 8) (va : Word) (handled : Nat) : State :=
  let s := setHead s k q { m with phase := .moved, status := if cause = 0x04 then 2 else 1, value := handled }
  deferTrap s m.tag m.agentOf cause va

/-- All its data have moved: only its completion remains. -/
def doneCommand (s : State) (k q : Nat) (m : Command) (value : Nat) : State :=
  setHead s k q { m with phase := .moved, value := value }

/-! ### Where a command's accesses go (R329) -/

/-- The own-core alias address of an own offset. -/
def ownVa (off : Nat) : Word := BitVec.ofNat 64 (0xC2 * 2 ^ 56 + off)

/-- An end of a transfer: own offsets and near addresses, a scratchpad of another cluster, or another module. -/
inductive Side where
  | near (va : Word)
  | far (cluster : Nat) (va : Word)
  | module (num : Nat) (va : Word)

/-- The FAR address at byte `j`. -/
def Command.farAt (m : Command) (j : Nat) : Side :=
  let va := m.lo + BitVec.ofNat 64 j
  if m.rem then (if m.top = 0 then .module m.die va else .far m.farCluster va) else .near va

def Side.va : Side → Word
  | .near a => a
  | .far _ a => a
  | .module _ a => a

/-- The cluster through which a side is accessed. -/
def Side.cluster (x : Side) (k : Nat) : Nat := match x with | .far c _ => c | _ => coreCluster k

/-- Where a side's access goes; another cluster must be held by the owner (R329). -/
def sideReach (s : State) (k : Nat) (o : BitVec 12) (x : Side) (n : Nat) (w : Want) : Reach :=
  match x with
  | .near va => reach s (coreCluster k) (some k) o va n w
  | .far c va => if holder s c == some o then reach s c none o va n w else .denied
  | .module _ _ => .denied

/-- Some Meridian port that is up reaches the module, and the owner's key group holds it (R21, R47). (DEDUCED, log 75) -/
def moduleReached (s : State) (o : BitVec 12) (num : Nat) : Bool :=
  (getOwner s o).peers.getLsbD num && s.board.routes.any fun r =>
    r / 16 == num && (AMap.getD s.board.ports (r % 16) {}).lanes != 0

/-- The far module performs the access: it does so only for a page it maps for Meridian, which is its own state (R21,
R329). (DEDUCED, log 75) -/
def moduleAccepts (s : State) (o : BitVec 12) (num : Nat) (va : Word) : Bool :=
  bits va 63 55 == 0 && moduleReached s o num && s.choose 40 2 == 0

/-- The word that another module's memory holds: that module's own (R21, R330). (DEDUCED, log 75) -/
def moduleWord (s : State) (va : Word) : Word := s.free (2048 + va.toNat / 8 % 1024)

/-- Reads 8 bytes of a side. -/
def sideRead (s : State) (k : Nat) (o : BitVec 12) (clk : Clock) (x : Side) : Got :=
  match x with
  | .module num va => if moduleAccepts s o num va then .got (bytesOf 8 (moduleWord s va).toNat) false else .denied va
  | _ =>
    match sideReach s k o x 8 .read with
    | .home key _ => gotAt s (x.cluster k) o clk x.va 8 key false
    | .cached key _ => gotAt s (x.cluster k) o clk x.va 8 key true
    | .denied => .denied x.va
    | .missing => .missing x.va

/-- A command's write at a key, once what happens before it is home; in a cached page it is performed in the cluster's cache (R212). -/
def putAt (s : State) (k : Nat) (m : Command) (va : Word) (key : Nat) (cached : Bool) (fl : Option Nat) (bs : List Byte) (bad : Bool) : Piece :=
  if !cached && engineWaits s m.clock key bs.length fl then .wait
  else .go (engineWriteAt s (commandOwner s m) (engineWriter m.agent (coreCluster k) m.clock fl) va key cached bs bad)
    { m with clock := Clock.tick m.clock m.agent }

/-- Writes 8 bytes of a side for a command. -/
def sideWrite (s : State) (k : Nat) (m : Command) (x : Side) (bs : List Byte) (bad : Bool) : Piece :=
  let o := commandOwner s m
  match x with
  | .module num va => if moduleAccepts s o num va then .go s { m with clock := Clock.tick m.clock m.agent } else .stop 0x03 va
  | _ =>
    match sideReach s k o x bs.length .write with
    | .home key fl => putAt s k m x.va key false fl bs bad
    | .cached key fl => putAt s k m x.va key true fl bs bad
    | .denied => .stop 0x03 x.va
    | .missing => .park x.va 5

/-- Poisoned data moved on: status 3 and event 0x0B (R118, R340). -/
def notePoison (s : State) (m : Command) (bad : Bool) (va : Word) : State × Command :=
  if bad then (poisonEvent s m.tag va, { m with status := 3 }) else (s, m)

/-- Moves one word from a side to another. -/
def moveWord (s : State) (k : Nat) (m : Command) (src dst : Side) : Piece :=
  match sideRead s k (commandOwner s m) m.clock src with
  | .missing va => .park va 4
  | .denied va => .stop 0x03 va
  | .wait => .wait
  | .got bs bad =>
    match sideWrite s k m dst bs bad with
    | .go s m => let r := notePoison s m bad src.va; .go r.1 r.2
    | r => r

/-- Runs up to `fuel` pieces of a command (R325: a turn moves up to 256 bytes). `piece` does the work at `m.progress`
and `total` is where the progress ends; each piece advances it by `step`. (DEDUCED, log 27) -/
def runTurn (k q total step : Nat) (piece : State → Command → Piece) (handled : Command → Nat) (value : Nat) :
    Nat → State → Command → State
  | 0, s, m => setHead s k q m
  | fuel + 1, s, m =>
    if m.progress ≥ total then doneCommand s k q m value
    else match piece s m with
      | .go s' m' =>
        let m' := { m' with progress := m.progress + step }
        if m'.progress ≥ total then doneCommand s' k q m' value
        else runTurn k q total step piece handled value fuel s' m'
      | .park va kind => parkCommand s k q m va kind
      | .stop cause va => stopCommand s k q m cause va (handled m)
      | .wait => setHead s k q m

/-- Words of a turn: 256 bytes. (DEDUCED, log 27) -/
def turnWords : Nat := 32

/-- The cluster whose ring bay a write of `n` bytes at a side would change, if it would (R145). -/
def sideInBay (s : State) (k : Nat) (x : Side) (n : Nat) : Bool :=
  let bay := fun (c : Nat) (own : Option Nat) (va : Word) => match spaceOf c own va n with
    | .pad j off => inBay off n && voyageActive s (coreCluster j)
    | _ => false
  match x with
  | .near va => bay (coreCluster k) (some k) va
  | .far c va => bay c none va
  | .module _ _ => false

/-- The first write of the rest of a command that would change the ring bay of an active voyage; `dest` names the destination of the piece
at a progress (R145). -/
def bayStop (s : State) (k total step : Nat) (dest : Command → Option Side) (m : Command) : Option Word :=
  if (rangeFrom 256 0).all fun c => !voyageActive s c then none
  else (rangeFrom ((total - m.progress + step - 1) / step) 0).findSome? fun i =>
    match dest { m with progress := m.progress + i * step } with
    | some x => if sideInBay s k x step then some x.va else none
    | none => none

/-- A turn of a command that writes: one whose remaining destination meets a ring bay ends and writes nothing (R145). -/
def runWrites (k q total step : Nat) (dest : Command → Option Side) (piece : State → Command → Piece) (handled : Command → Nat)
    (value : Nat) (s : State) (m : Command) : State :=
  match bayStop s k total step dest m with
  | some va => stopCommand s k q m 0x03 va (handled m)
  | none => runTurn k q total step piece handled value turnWords s m

/-! ### `get`, `put`, `copy`, `fill` (R330) -/

/-- GET (R330). -/
def execGet (core q : Nat) (s : State) : Out :=
  match runningOp s core q 0x01 with
  | none => .next s
  | some m =>
    let own := fun (m : Command) => Side.near (ownVa (m.loc + m.progress))
    .next (runWrites core q m.len 8 (fun m => some (own m)) (fun s m => moveWord s core m (m.farAt m.progress) (own m))
      (fun m => m.progress) m.len s m)

/-- PUT (R330). -/
def execPut (core q : Nat) (s : State) : Out :=
  match runningOp s core q 0x02 with
  | none => .next s
  | some m =>
    .next (runWrites core q m.len 8 (fun m => some (m.farAt m.progress))
      (fun s m => moveWord s core m (.near (ownVa (m.loc + m.progress))) (m.farAt m.progress)) (fun m => m.progress) m.len s m)

/-- Bytes of the own scratchpad that a command reads for itself: unspecified where they are poisoned (R118). -/
def ownBytes (s : State) (k off n : Nat) : Nat :=
  ofBytes (if poisoned s (padKey k off) n then freeBytes s (padKey k off) n else s.bytesAt n (padKey k off))

/-- A word of the own scratchpad, read when a command starts. -/
def ownWord (s : State) (k off : Nat) : Nat := ownBytes s k off 8

/-- The first word of `[off, off + n)` of the own scratchpad that reads bad (R118). -/
def badWord (s : State) (k off n : Nat) : Option Nat :=
  (rangeFrom ((n + 7) / 8) 0).findSome? fun i => if poisoned s (padKey k (off + 8 * i)) 1 then some (off + 8 * i) else none

/-- The command as it stands once it has read words of its own scratchpad: `n` bytes at `off` (R118). -/
def noteOwn (s : State) (k : Nat) (m : Command) (off n : Nat) : State × Command :=
  notePoison s m (poisoned s (padKey k off) n) (ownVa ((badWord s k off n).getD off))

/-- `n` bytes of the own scratchpad that a command moves on, word by word: an uncorrectable word is unspecified; beside them, such words as
the bits of a number (R118, R340). -/
def movedBytes (s : State) (k off n : Nat) : List Byte × Nat :=
  let ws := (rangeFrom (n / 8) 0).map fun i => (i, padKey k (off + 8 * i), poisoned s (padKey k (off + 8 * i)) 8)
  (ws.flatMap fun w => if w.2.2 then freeBytes s w.2.1 8 else s.bytesAt 8 w.2.1, (ws.map fun w => if w.2.2 then 2 ^ w.1 else 0).sum)

/-- A command stores words at a scratchpad, each with its own mark (R118, R340). -/
def putMoved (s : State) (k : Nat) (m : Command) (key : Nat) (bs : List Byte) (bad : Nat) : State :=
  let s := engineWriteAt s (commandOwner s m) (engineWriter m.agent (coreCluster k) m.clock none) 0 key false bs false
  (rangeFrom (bs.length / 8) 0).foldl (fun s i => if bad.testBit i then markBad s (key + 8 * i) 8 else s) s

/-- A number for the place that an end of a transfer names, the same for two names of one scratchpad or memory-cell byte.
(DEDUCED, log 28) -/
def sidePlace (k : Nat) (x : Side) : Nat :=
  let at_ := fun (c : Nat) (own : Option Nat) (va : Word) =>
    match spaceOf c own va 1 with
    | .pad j off => 2 ^ 64 + padKey j off
    | .cell key => 2 ^ 64 + key
    | _ => va.toNat
  match x with
  | .near va => at_ (coreCluster k) (some k) va
  | .far c va => at_ c none va
  | .module n va => 2 ^ 65 + n * 2 ^ 64 + va.toNat

/-- The order of a `copy`'s words: decreasing when the destination overlaps the source from above (R330). (DEDUCED, log 28) -/
def copyAt (k : Nat) (m : Command) (d : Nat) : Nat :=
  let f := sidePlace k (m.farAt 0)
  let g := sidePlace k (.near (BitVec.ofNat 64 d))
  if f < g ∧ g < f + m.len then m.len - 8 - m.progress else m.progress

/-- A destination that `copy` admits (R329, R330). -/
def copyDest (d : Nat) : Bool :=
  d % 8 == 0 && (d / 2 ^ 56 == 0 || d / 2 ^ 56 == 0xC0 || d / 2 ^ 56 == 0xC1 || d / 2 ^ 56 == 0xC2)

/-- What a command reads of its own scratchpad when it starts waits for the stores that happen before it and are on their way there
(R224). -/
def ownWaits (s : State) (k : Nat) (m : Command) : Bool := m.listed.isEmpty && engineWaits s m.clock (padKey k 0) 0x30000 none

/-- COPY (R330): D is read when the command starts. (DEDUCED, log 28) -/
def execCopy (core q : Nat) (s : State) : Out :=
  match runningOp s core q 0x05 with
  | none => .next s
  | some m =>
    if ownWaits s core m then .next s else
    let r := if m.listed.isEmpty then noteOwn s core { m with listed := [ownWord s core m.loc] } m.loc 8 else (s, m)
    let m := r.2
    let d := m.listed.headD 0
    let dest := fun (m : Command) => Side.near (BitVec.ofNat 64 (d + copyAt core m d))
    if copyDest d then
      .next (runWrites core q m.len 8 (fun m => some (dest m)) (fun s m => moveWord s core m (m.farAt (copyAt core m d)) (dest m))
        (fun m => m.progress) m.len r.1 m)
    else .next (stopCommand r.1 core q m 0x03 (BitVec.ofNat 64 d) 0)

/-- FILL (R330): P is read when the command starts. -/
def execFill (core q : Nat) (s : State) : Out :=
  match runningOp s core q 0x06 with
  | none => .next s
  | some m =>
    if ownWaits s core m then .next s else
    let bad := if m.listed.isEmpty then poisoned s (padKey core m.loc) 8 else m.listed.getD 1 0 != 0
    let r := if m.listed.isEmpty then noteOwn s core { m with listed := [ownWord s core m.loc, if bad then 1 else 0] } m.loc 8 else (s, m)
    let p := r.2.listed.headD 0
    .next (runWrites core q m.len 8 (fun m => some (m.farAt m.progress)) (fun s m => sideWrite s core m (m.farAt m.progress) (bytesOf 8 p) bad)
      (fun m => m.progress) m.len r.1 r.2)

/-! ### `getx`, `putx`, `probe` (R331–R333) -/

/-- The index list: none when its header runs past the scratchpad (R332). (DEDUCED, log 30) -/
def readList (s : State) (k : Nat) (off : Nat) : Option (List Nat) :=
  let n := ownBytes s k off 4
  if off + 8 + 4 * n > 0x30000 then none
  else some (n :: (rangeFrom n 0).map fun i => ownBytes s k (off + 8 + 4 * i) 4)

/-- The pad index. -/
def padIndex : Nat := 0xFFFFFFFF

/-- The list of a started command: read now, or as kept. (DEDUCED, log 30) -/
def startList (s : State) (k : Nat) (m : Command) (limit : Bool) : Option (State × Command) :=
  if !m.listed.isEmpty then some (s, m)
  else match readList s k m.ilist with
    | some l =>
      if limit && decide (m.loc + l.headD 0 * m.esize > 0x30000) then none
      else some (noteOwn s k { m with listed := l } m.ilist (8 + 4 * l.headD 0))
    | none => none

/-- Element number and index of the current progress. -/
def listIndex (m : Command) : Nat := m.listed.getD (1 + m.progress / m.esize) padIndex

/-- GETX (R332). -/
def execGetx (core q : Nat) (s : State) : Out :=
  match runningOp s core q 0x03 with
  | none => .next s
  | some m =>
    if ownWaits s core m then .next s else
    match startList s core m true with
    | none => .next (stopCommand s core q m 0x03 (ownVa m.ilist) 0)
    | some (s, m) =>
      let n := m.listed.headD 0
      let own := fun (m : Command) => Side.near (ownVa (m.loc + m.progress))
      .next (runWrites core q (n * m.esize) 8 (fun m => some (own m)) (fun s m =>
        if listIndex m = padIndex then sideWrite s core m (own m) (bytesOf 8 0) false
        else moveWord s core m (m.farAt (listIndex m * m.esize + m.progress % m.esize)) (own m))
        (fun m => m.progress / m.esize) n s m)

/-- PUTX (R332). -/
def execPutx (core q : Nat) (s : State) : Out :=
  match runningOp s core q 0x04 with
  | none => .next s
  | some m =>
    if ownWaits s core m then .next s else
    match startList s core m true with
    | none => .next (stopCommand s core q m 0x03 (ownVa m.ilist) 0)
    | some (s, m) =>
      let n := m.listed.headD 0
      let far := fun (m : Command) => m.farAt (listIndex m * m.esize + m.progress % m.esize)
      .next (runWrites core q (n * m.esize) 8 (fun m => if listIndex m = padIndex then none else some (far m)) (fun s m =>
        if listIndex m = padIndex then .go s m else moveWord s core m (.near (ownVa (m.loc + m.progress))) (far m))
        (fun m => m.progress / m.esize) n s m)

/-- The pages that a running probe has translated: their first 64 KiB pages, behind its list (R333). -/
def probedPages (m : Command) : List Nat := m.listed.drop (1 + m.listed.headD 0)

/-- A page that a probe translates is noted, once (R333). (DEDUCED, log 30) -/
def notePage (s : State) (k : Nat) (m : Command) (va : Word) : Command :=
  let page := match tlbFind s (coreCluster k) (commandOwner s m) (pageOf va) with
    | some e => if e.big then pageOf va / 2 ^ 13 * 2 ^ 13 else pageOf va
    | none => pageOf va
  if (probedPages m).contains page then m else { m with listed := m.listed ++ [page] }

/-- Translates one page of an element for a `probe` (R333): RD only. -/
def probePage (s : State) (k : Nat) (m : Command) (va : Word) : Piece :=
  let o := commandOwner s m
  match m.farAt 0, spaceOf (coreCluster k) (some k) va 1 with
  | .near _, .global =>
    match xlate s (coreCluster k) o va .read with
    | .hit _ _ _ => .go (fillL1 s (coreCluster k) o (pageOf va)) (notePage s k m va)
    | .denied => .stop 0x03 va
    | .miss => .park va 6
  | _, .invalid => .stop 0x03 va
  | _, _ => .go s m

/-- Translates the pages of element `i`. -/
def probePiece (s : State) (k : Nat) (m : Command) : Piece :=
  let ix := m.listed.getD (1 + m.progress) padIndex
  if ix = padIndex then .go s m
  else
    let va := m.lo + BitVec.ofNat 64 (ix * m.esize)
    match probePage s k m va with
    | .go s m => probePage s k m (va + BitVec.ofNat 64 (m.esize - 1))
    | r => r

/-- PROBE (R333): translates every page its elements cover, then holds the first 1,024. -/
def execProbe (core q : Nat) (s : State) : Out :=
  match runningOp s core q 0x20 with
  | none => .next s
  | some m =>
    if ownWaits s core m then .next s else
    match startList s core m false with
    | none => .next (stopCommand s core q m 0x03 (ownVa m.ilist) 0)
    | some (s, m) =>
      let n := m.listed.headD 0
      let s := runTurn core q n 1 (fun s m => probePiece s core m) (fun m => m.progress) n turnWords s m
      match headIn s core q .moved with
      | some m' =>
        if m'.status = 0 ∨ m'.status = 3 then
          let ps := probedPages m'
          let s := doneCommand s core q m' ps.length
          let k := getCore s core
          let pages := (ps.take 1024).map fun p => (commandOwner s m', p)
          .next (setCore s core { k with held := AMap.set k.held q (AMap.getD k.held q [] ++ pages) })
        else .next s
      | none => .next s

/-! ### `redput` (R334) -/

/-- One element's atomic addition. A sum with a poisoned source is unspecified and takes its mark (R118, R340). -/
def redputPiece (s : State) (k : Nat) (m : Command) : Piece :=
  let o := commandOwner s m
  let kind := m.xtra % 4
  let w := if kind = 2 then 8 else 4
  let own := m.loc + m.progress
  let v := ofBytes (s.bytesAt w (padKey k own))
  let x := m.farAt m.progress
  let next := { m with clock := Clock.tick m.clock m.agent }
  let bad := poisoned s (padKey k own) w
  let v := if bad then (s.free 8).toNat % 2 ^ (8 * w) else v
  let add := fun (key : Nat) (cached : Bool) (fl : Option Nat) =>
    if engineWaits s m.clock key w fl || engineWaits s m.clock (padKey k own) w none then Piece.wait
    else
      let s1 := atomicAdd s o (engineWriter m.agent (coreCluster k) m.clock fl) x.va key cached w kind v
      let s1 := if bad then markBad s1 key w else s1
      let r := notePoison s1 next (bad || poisoned s key w) (if bad then ownVa own else x.va)
      .go r.1 r.2
  match x with
  | .module num va =>
    if moduleAccepts s o num va then
      let r := notePoison s next bad (ownVa own)
      .go r.1 r.2
    else .stop 0x03 va
  | _ =>
    match sideReach s k o x w .both with
    | .home key fl => add key false fl
    | .cached key fl => add key true fl
    | .denied => .stop 0x03 x.va
    | .missing => .park x.va 5

/-- REDPUT (R334). -/
def execRedput (core q : Nat) (s : State) : Out :=
  match runningOp s core q 0x07 with
  | none => .next s
  | some m =>
    .next (runWrites core q m.len (if m.xtra % 4 = 2 then 8 else 4) (fun m => some (m.farAt m.progress)) (fun s m => redputPiece s core m)
      (fun m => m.progress) m.len s m)

/-! ### `scan` (R335, R336) -/

/-- The element is zero (R335). -/
def scanZero (ty v : Nat) : Bool :=
  match ty with
  | 0 | 1 => v % 2 ^ 15 == 0
  | 2 | 3 => v % 2 ^ 7 == 0
  | 5 => v % 2 ^ 31 == 0
  | _ => v == 0

/-- Two extents, of `n` bytes at `a` and `m` at `b`, share a byte. (DEDUCED, log 29) -/
def meets (a n b m : Nat) : Bool := 0 < n && 0 < m && a < b + m && b < a + n

/-- SCAN (R336): the index list, and with VAL the values; an output that meets a ring bay ends it before it writes (R145). Where the list and
the values overlap each other the spec says nothing: the list is written first, and the values over it. (DEDUCED, log 29)
(DESIGN CHOICE, log 87) -/
def execScan (core q : Nat) (s : State) : Out :=
  match runningOp s core q 0x18 with
  | none => .next s
  | some m =>
    if ownWaits s core m then .next s else
    let ty := m.xtra % 16
    let w := scanWidth ty
    let n := m.len
    let out := bits m.lo 17 0
    let vout := bits m.lo 37 20
    let el := fun (i : Nat) => ownBytes s core (m.loc + i * w) w
    let nz := (rangeFrom n 0).filter fun i => !scanZero ty (el i)
    let c := nz.length
    let n' := scanCount (bitAt m.lo 18) c
    let pads := List.replicate (n' - c) padIndex
    let list := bytesOf 8 n' ++ (nz ++ pads).flatMap (fun i => bytesOf 4 i) ++ (if n' % 2 = 1 then bytesOf 4 0 else [])
    let vals := nz.flatMap (fun i => bytesOf w (el i)) ++ (pads.flatMap fun _ => bytesOf w 0)
    let overlap := meets m.loc (n * w) out list.length || (bitAt m.lo 19 && meets m.loc (n * w) vout vals.length)
    let list := if overlap then freeBytes s (padKey core out) list.length else list
    let vals := if overlap then freeBytes s (padKey core vout) vals.length else vals
    let bad := poisoned s (padKey core m.loc) (n * w)
    let bay := fun (off len : Nat) => inBay off len && voyageActive s (coreCluster core)
    let stop : Nat → Out := fun off => .next (stopCommand s core q m 0x03 (ownVa (Nat.max off 0x28000)) 0)
    if bay out list.length then stop out
    else if bitAt m.lo 19 && bay vout vals.length then stop vout
    else match sideWrite s core m (.near (ownVa out)) list bad with
    | .go s m =>
      let r := notePoison s m bad (ownVa ((badWord s core m.loc (n * w)).getD m.loc))
      if bitAt m.lo 19 && vals.length != 0 then
        match sideWrite r.1 core r.2 (.near (ownVa vout)) vals bad with
        | .go s m => .next (doneCommand s core q m c)
        | .stop cause va => .next (stopCommand r.1 core q r.2 cause va 0)
        | .park _ _ | .wait => .next s
      else .next (doneCommand r.1 core q r.2 c)
    | .stop cause va => .next (stopCommand s core q m cause va 0)
    | .park _ _ | .wait => .next s

/-! ### `chain` (R337, R171) -/

/-- The owner whose crew, running or pre-empted, a core belongs to. -/
def coreOwner (s : State) (k : Nat) : Option (BitVec 12) :=
  match (s.crews.find? fun e => e.2.cores.contains k && (e.2.phase != .saved)) with
  | some e => some e.2.owner
  | none => (s.crews.find? fun e => e.2.cores.contains k).map (·.2.owner)

/-- A crew of the owner holds the core now. -/
def coreHeld (s : State) (k : Nat) (o : BitVec 12) : Bool :=
  match (getCore s k).crew with
  | some w => match getCrew s w with
    | some w => w.owner == o
    | none => false
  | none => false

/-- The cluster-window address of a core's offset. -/
def windowVa (core off : Nat) : Word := BitVec.ofNat 64 (0xC0 * 2 ^ 56 + core * 2 ^ 18 + off)

/-- A chain entry's checks (R337). -/
def chainGood (s : State) (k : Nat) (m : Command) (e : Nat) : Bool :=
  let c := coreCluster k
  let core := e % 128
  let off := e / 2 ^ 18 % 2 ^ 18
  e / 2 ^ 7 % 2 ^ 11 == 0 && e / 2 ^ 36 == 0 && decide (core < 96) && off % 8 == 0 && decide (off + m.len ≤ 0x30000)
    && coreHeld s (c * 128 + core) (commandOwner s m) && !(inBay off m.len && voyageActive s c)

/-- The units that appearance `i` of a chain's list has stored. -/
def chainTaken (m : Command) (count i : Nat) : Nat := m.listed.getD (1 + count + i) 0

/-- Unit `u` of a chain of `count` cores: as read from the source when the first core took it, and forwarded as it is to every
later one (R171), with the marks of its words. -/
def chainUnit (s : State) (k : Nat) (m : Command) (count u n : Nat) : List Byte × Nat :=
  match m.listed[1 + 2 * count + 2 * u]? with
  | some v => (bytesOf n v, m.listed.getD (2 + 2 * count + 2 * u) 0)
  | none => movedBytes s k (m.loc + 256 * u) n

/-- The list entry of appearance `i`. -/
def chainEntry (m : Command) (i : Nat) : Nat := m.listed.getD (1 + i) 0

/-- The appearances, of the first `limit`, that can take their next unit: the one before has forwarded it, and the buffer for the next core
holds no unit that waits (R171). -/
def chainReady (m : Command) (count limit : Nat) : List Nat :=
  let t := chainTaken m count
  (rangeFrom limit 0).filter fun i => decide (t i * 256 < m.len) && (i == 0 || decide (t i < t (i - 1))) && (i + 1 == limit || decide (t i ≤ t (i + 1)))

/-- Appearance `i` stores its next unit. -/
def chainStore (s : State) (k q : Nat) (m : Command) (count i : Nat) : State :=
  let u := chainTaken m count i
  let n := Nat.min 256 (m.len - 256 * u)
  let (bs, bad) := chainUnit s k m count u n
  let kept := m.listed.set (1 + count + i) (u + 1)
  let listed := if i = 0 then kept ++ [ofBytes bs, bad] else kept
  let e := chainEntry m i
  let tgt := padKey (coreCluster k * 128 + e % 128) (e / 2 ^ 18 % 2 ^ 18 + 256 * u)
  let first := ownVa ((badWord s k (m.loc + 256 * u) n).getD (m.loc + 256 * u))
  let s := putMoved s k m tgt bs bad
  let r := notePoison s { m with listed := listed, clock := Clock.tick m.clock m.agent, progress := m.progress + n } (bad != 0 && i == 0) first
  setHead r.1 k q r.2

/-- Appearance `i` has stored all the data. -/
def chainStored (m : Command) (count i : Nat) : Bool := decide (m.len ≤ 256 * chainTaken m count i)

/-- A unit that waits for a write that happens before it, at the core that would store it (R224). -/
def chainWaits (s : State) (k : Nat) (m : Command) (count i : Nat) : Bool :=
  let e := chainEntry m i
  engineWaits s m.clock (padKey (coreCluster k * 128 + e % 128) (e / 2 ^ 18 % 2 ^ 18 + 256 * chainTaken m count i)) 256 none
    || (i == 0 && engineWaits s m.clock (padKey k (m.loc + 256 * chainTaken m count i)) 256 none)

/-- CHAIN (R337, R171): the header is read when it starts; each turn stores a unit of 256 bytes at a core of the list, before the first
entry that fails its checks; an appearance that has stored all the data fails none any more. A header whose list runs past the scratchpad, or
whose word 0 has a reserved bit set, is treated as one whose M is bad, which the spec does not say. (DEDUCED, log 27)
(DESIGN CHOICE, log 87) -/
def execChain (core q : Nat) (s : State) : Out :=
  match runningOp s core q 0x08 with
  | none => .next s
  | some m =>
    if ownWaits s core m then .next s else
    let hdr := bits m.lo 17 0
    let w0 := ownWord s core hdr
    let n := w0 % 128
    let (s, m) := if m.listed.isEmpty then
        noteOwn s core { m with listed := w0 :: ((rangeFrom n 1).map fun i => ownWord s core (hdr + 8 * i)) ++ List.replicate n 0 } hdr (8 + 8 * n)
      else (s, m)
    let count := m.listed.headD 0 % 128
    if m.listed.headD 0 / 128 ≠ 0 ∨ count = 0 ∨ 96 < count ∨ 0x30000 < hdr + 8 + 8 * count then
      .next (stopCommand s core q m 0x03 (ownVa hdr) 0)
    else
      let limit := ((rangeFrom count 0).takeWhile fun i => chainStored m count i || chainGood s core m (chainEntry m i)).length
      let ready := chainReady m count limit
      let able := ready.filter fun i => !chainWaits s core m count i
      match pick able (s.choose 41 able.length) with
      | some i => .next (chainStore s core q m count i)
      | none =>
        if !ready.isEmpty then .next (setHead s core q m)
        else if limit = count then .next (doneCommand s core q m count)
        else
          let e := chainEntry m limit
          .next (stopCommand s core q m 0x03 (windowVa (e % 128) (e / 2 ^ 18 % 2 ^ 18)) limit)

/-! ### Halo exchange (R344–R347) -/

def getGroup (s : State) (k g : Nat) : HaloGroup := AMap.getD (getCore s k).halo g {}

def setGroup (s : State) (k g : Nat) (v : HaloGroup) : State :=
  let core := getCore s k
  setCore s k { core with halo := AMap.set core.halo g v }

/-- A face of a halo descriptor (R344), from its two words. -/
structure Face where
  core : Nat
  rem  : Bool
  die  : Nat
  cl   : Nat
  so   : Nat
  ro   : Nat
  rb   : Nat
  nr   : Nat
  ss   : Nat
  rs   : Nat
  deriving DecidableEq, Repr

def faceOf (a b : Nat) : Face where
  core := a % 128
  rem := a / 128 % 2 = 1
  die := a / 2 ^ 8 % 8
  cl := a / 2 ^ 11 % 32
  so := a / 2 ^ 16 % 2 ^ 18
  ro := a / 2 ^ 34 % 2 ^ 18
  rb := b % 2 ^ 18
  nr := b / 2 ^ 18 % 2 ^ 10
  ss := b / 2 ^ 28 % 2 ^ 18
  rs := b / 2 ^ 46

/-- The neighbour's core. -/
def Face.target (f : Face) (k : Nat) : Nat :=
  (if f.rem then f.die * 32 + f.cl else coreCluster k) * 128 + f.core

/-- A face passes the checks of R344. -/
def faceGood (s : State) (k g : Nat) (o : BitVec 12) (a b : Nat) : Bool :=
  let f := faceOf a b
  let r := getGroup s k g
  a / 2 ^ 52 == 0 && f.so % 8 == 0 && f.ro % 8 == 0 && f.rb % 8 == 0 && decide (8 ≤ f.rb) && f.nr != 0
    && f.ss % 8 == 0 && f.rs % 8 == 0 && decide (f.core < 96)
    && decide (f.so + (f.nr - 1) * f.ss + f.rb ≤ 0x30000) && decide (f.ro + (f.nr - 1) * f.rs + f.rb ≤ 0x30000)
    && (f.rem || (f.die == 0 && f.cl == 0)) && coreOwner s (f.target k) == some o
    && (!f.rem || (r.bound && r.ccl == f.cl && r.cdie == f.die && r.ccore == f.core))

/-- The descriptor's words (R344). -/
def readHalo (s : State) (k : Nat) (m : Command) : List Nat :=
  let w0 := ownWord s k m.loc
  let n := w0 % 8
  (rangeFrom (2 + 2 * n) 0).map fun i => ownWord s k (m.loc + 8 * i)

def haloFaces (m : Command) : Nat := m.listed.headD 0 % 8
def haloExp (m : Command) : Nat := m.listed.headD 0 / 8 % 8

/-- The descriptor passes its checks (R344). -/
def haloGood (s : State) (k g : Nat) (o : BitVec 12) (m : Command) (l : List Nat) : Bool :=
  let w0 := l.headD 0
  let n := w0 % 8
  n != 7 && w0 / 8 % 8 != 7 && w0 / 64 == 0 && l.getD 1 0 == 0 && decide (m.loc + 16 + 16 * n ≤ 0x30000)
    && (rangeFrom n 0).all fun f => faceGood s k g o (l.getD (2 + 2 * f) 0) (l.getD (3 + 2 * f) 0)

/-- Where a face's rows first meet the ring bay of an active voyage (R145): the offset at the neighbour. -/
def faceInBay (s : State) (k : Nat) (f : Face) : Option Nat :=
  if voyageActive s (coreCluster (f.target k)) then
    (rangeFrom f.nr 0).findSome? fun r => if inBay (f.ro + r * f.rs) f.rb then some (Nat.max (f.ro + r * f.rs) 0x28000) else none
  else none

/-- A running `halo` has sent all its faces: it waits for inbound ones (R345). -/
def haloSent (m : Command) : Bool := m.op == 0x10 && m.phase == .running && !m.listed.isEmpty && m.progress == 2 ^ haloFaces m - 1

/-- The group's record holds the wait of a `halo` that has sent its faces (R345). -/
def noteWait (s : State) (k : Nat) (m : Command) : State :=
  if haloSent m then
    setGroup s k (m.xtra % 16) { getGroup s k (m.xtra % 16) with
      wait := true, wexp := haloExp m, wslot := tagSlot m.tag, wnc := m.nc, wrsp := m.rsp, wctr := m.ctr }
  else s

/-- HALO (R344): the descriptor is read and checked; a face that meets a ring bay ends it before it
writes (R145); the faces are then delivered one by one (FACE_DELIVERED). -/
def execHalo (core q : Nat) (s : State) : Out :=
  match runningOp s core q 0x10 with
  | none => .next s
  | some m =>
    if !m.listed.isEmpty || ownWaits s core m then .next s
    else
      let l := readHalo s core m
      let (s, m) := noteOwn s core m m.loc (8 * l.length)
      let faces := (rangeFrom (l.headD 0 % 8) 0).map fun i => faceOf (l.getD (2 + 2 * i) 0) (l.getD (3 + 2 * i) 0)
      if haloGood s core (m.xtra % 16) (commandOwner s m) m l then
        match faces.findSome? fun x => (faceInBay s core x).map fun off => (x, off) with
        | some (x, off) => .next (stopCommand s core q m 0x03 (windowVa x.core off) 0)
        | none => .next (noteWait (setHead s core q { m with listed := l }) core { m with listed := l })
      else .next (stopCommand s core q m 0x03 (ownVa m.loc) 0)

/-- The rows of a face, stored in the neighbour's scratchpad, each word with its mark. (DEDUCED, log 31) -/
def storeFace (s : State) (k : Nat) (m : Command) (f : Face) : State :=
  (rangeFrom f.nr 0).foldl (fun s r =>
    let d := movedBytes s k (f.so + r * f.ss) f.rb
    putMoved s k m (padKey (f.target k) (f.ro + r * f.rs)) d.1 d.2) s

/-- A row of the face waits for a write that happens before it (R224). -/
def faceWaits (s : State) (k : Nat) (m : Command) (f : Face) : Bool :=
  (rangeFrom f.nr 0).any fun r => engineWaits s m.clock (padKey (f.target k) (f.ro + r * f.rs)) f.rb none
    || engineWaits s m.clock (padKey k (f.so + r * f.ss)) f.rb none

/-- FACE_DELIVERED (R344, R345): one face of a running `halo` is stored at the neighbour, whose INB rises by one. A face waits
while INB is 255 or the neighbour's crew is pre-empted. (DEDUCED, log 31) -/
def execFaceDelivered (core q face : Nat) (s : State) : Out :=
  match runningOp s core q 0x10 with
  | none => .next s
  | some m =>
    if m.listed.isEmpty || !(decide (face < haloFaces m)) || m.progress.testBit face then .next s
    else
      let f := faceOf (m.listed.getD (2 + 2 * face) 0) (m.listed.getD (3 + 2 * face) 0)
      let g := m.xtra % 16
      let tgt := f.target core
      if !coreHeld s tgt (commandOwner s m) || decide (255 ≤ (getGroup s tgt g).inb) || faceWaits s core m f then .next s
      else match faceInBay s core f with
      | some off => .next (stopCommand s core q m 0x03 (windowVa f.core off) 0)
      | none =>
        let bad := (rangeFrom f.nr 0).findSome? fun r => badWord s core (f.so + r * f.ss) f.rb
        let s := storeFace s core m f
        let m := { m with progress := m.progress + 2 ^ face, clock := Clock.tick m.clock m.agent }
        let r := getGroup s tgt g
        let s := setGroup s tgt g { r with inb := r.inb + 1, clock := Clock.join r.clock m.clock }
        let p := notePoison s m bad.isSome (ownVa (bad.getD f.so))
        .next (noteWait (setHead p.1 core q p.2) core p.2)

/-- Circuits bound on a cluster (R347). -/
def circuits (s : State) (c : Nat) : Nat :=
  ((s.cores.filter fun e => coreCluster e.1 == c).map fun e => (e.2.halo.filter fun g => g.2.bound).length).sum

/-- Core `b` belongs to a crew of the gang whose crew holds core `a` (R347). -/
def sameGang (s : State) (a b : Nat) : Bool :=
  match (getCore s a).crew.bind fun w => getCrew s w with
  | some w => w.gang && s.crews.any fun e => e.2.record == w.record && e.2.gang && e.2.cores.contains b
  | none => false

/-- The partner core of a `bind`. -/
def bindTarget (m : Command) : Nat := m.farCluster * 128 + m.len % 128

/-- The core at the other end of a bound circuit. -/
def HaloGroup.partner (r : HaloGroup) : Nat := (r.cdie * 32 + r.ccl) * 128 + r.ccore

/-- The group record names the core. -/
def HaloGroup.names (r : HaloGroup) (k : Nat) : Bool := r.partner == k

/-- A `halo` of group `g` that core `a` runs has still to deliver a face over the circuit to core `b` (R347). -/
def faceFlies (s : State) (g a b : Nat) : Bool :=
  let k := getCore s a
  [k.e0, k.e1, k.e2, k.e3].any fun l => match l with
    | m :: _ => m.op == 0x10 && m.phase == .running && m.xtra % 16 == g && !m.listed.isEmpty && (rangeFrom (haloFaces m) 0).any fun i =>
        let f := faceOf (m.listed.getD (2 + 2 * i) 0) (m.listed.getD (3 + 2 * i) 0)
        !m.progress.testBit i && f.rem && f.target a == b
    | [] => false

/-- A release of group `g` (R347): at once where the group is not bound; else, for a partner of the gang, when no face of the group is in
flight on the circuit. (DEDUCED, log 31) -/
def releaseGroup (s : State) (core q g : Nat) (m : Command) : State :=
  let r := getGroup s core g
  if !r.bound then doneCommand s core q m 0
  else if !sameGang s core (bindTarget m) then stopCommand s core q m 0x03 0 0
  else if faceFlies s g core r.partner || faceFlies s g r.partner core then s
  else doneCommand (setGroup s core g { r with bound := false }) core q m 0

/-- BIND (R347). (DEDUCED, log 31) -/
def execBind (core q : Nat) (s : State) : Out :=
  match runningOp s core q 0x11 with
  | none => .next s
  | some m =>
    let g := m.xtra % 16
    let r := getGroup s core g
    let tgt := bindTarget m
    if !(bitAt m.hi 12) then .next (releaseGroup s core q g m)
    else if !m.listed.isEmpty then .next s
    else if !sameGang s core tgt || r.bound || r.bpend || decide (16 ≤ circuits s (coreCluster core))
        || decide (16 ≤ circuits s (coreCluster tgt)) then .next (stopCommand s core q m 0x03 0 0)
    else
      let mine := { r with ccl := m.cl, cdie := m.die, ccore := m.len % 128, wslot := tagSlot m.tag, wnc := m.nc, wrsp := m.rsp, wctr := m.ctr }
      let p := getGroup s tgt g
      let s := setHead s core q { m with listed := [1] }
      if p.bpend && p.names core then
        .next (setGroup (setGroup s tgt g { p with bpend := false, bound := true }) core g { mine with bpend := false, bound := true })
      else .next (setGroup s core g { mine with bpend := true })

/-- A running `bind` with U = 1 whose circuit is bound (R347). -/
def bindDone (s : State) (k : Nat) (m : Command) : Bool :=
  m.op == 0x11 && !m.listed.isEmpty && (getGroup s k (m.xtra % 16)).bound

/-- A running `halo` whose faces, both ways, are done (R345). -/
def haloDone (s : State) (k : Nat) (m : Command) : Bool :=
  haloSent m && decide (haloExp m ≤ (getGroup s k (m.xtra % 16)).inb)

/-! ### Completion (R325, R338, R341) -/

/-- The response element (R338). -/
def Command.element (m : Command) (q : Nat) : Word :=
  BitVec.ofNat 64 (m.op * 2 ^ 56 + m.ctr * 2 ^ 52 + m.status.toNat * 2 ^ 48 + q * 2 ^ 40 + m.value % 2 ^ 40)

/-- The head command leaves its queue: its increment and its response element are made. -/
def completeCommand (s : State) (k q : Nat) (m : Command) : State :=
  let core := getCore s k
  let core := core.setQueue q ((core.queue q).drop 1)
  let core := { core with
    qclk := AMap.set core.qclk q (Clock.join (AMap.getD core.qclk q []) m.clock)
    held := if m.op = 0x20 then core.held else AMap.erase core.held q
    responses := core.responses.map fun r => if some r.num == m.response then { r with element := some (m.element q), clock := m.clock } else r }
  let s := setCore s k core
  if m.nc then s else counterDone s (coreCluster k) m.ctr true m.clock

/-- COMMAND_COMPLETE (R325, R338, R341): all data of the head command have moved and are written back to their homes, or its wait is over. -/
def execCommandComplete (core q : Nat) (s : State) : Out :=
  match headIn s core q .moved with
  | some m =>
    let s := flushAgent s (coreCluster core) m.agent
    if dirtyOf s (coreCluster core) m.agent then .next s else .next (completeCommand s core q m)
  | none =>
    match headIn s core q .running with
    | none => .next s
    | some m =>
      if haloDone s core m then
        let g := m.xtra % 16
        let r := getGroup s core g
        let m := { m with value := haloExp m, clock := Clock.join m.clock r.clock }
        let s := setGroup s core g { r with inb := r.inb - haloExp m, wait := false, wexp := 0 }
        .next (completeCommand s core q m)
      else if bindDone s core m then .next (completeCommand s core q { m with value := 0 })
      else .next s

end Sys2Proof.Machine
end

