-- ==== Sys2Proof/Machine/Servers.lean ====
section
/-! DEFINITION. Function servers: `serve`, `sload`, `sevict`, `sinfo` (R181–R189, R305–R307), admission and exit (R182, R183,
R378), firing (R177), loads, placement, eviction, compaction, twins, freeze and thaw (R115, R119, R199–R205), sections (R206,
R207). -/

namespace Sys2Proof.Machine

/-! ### Images of a cluster -/

/-- The resident image of a function id, with its entry number (R203). -/
def resident (s : State) (c : Nat) (fid : BitVec 12) : Option (Nat × Image) :=
  (getCluster s c).images.find? fun e => e.2.fid == fid

/-- Replaces the image of its function id. -/
def putImage (s : State) (c : Nat) (i : Image) : State :=
  setImages s c ((getCluster s c).images.map fun e => if e.2.fid == i.fid then (e.1, i) else e)

/-- The resident image of a function id goes: its cells hold unspecified values from now on (R202). -/
def dropImage (s : State) (c : Nat) (fid : BitVec 12) : State :=
  let s' := setImages s c ((getCluster s c).images.filter fun e => e.2.fid != fid)
  match resident s c fid with
  | some (_, i) => leaveCells s' c i.h0 i.copies
  | none => s'

/-- The images of a server, by its entry port. -/
def imagesOn (s : State) (c v : Nat) : List Image := ((getCluster s c).images.map (·.2)).filter fun i => i.server == v

/-- The caller still waits for its call: its work is not being aborted (R39). -/
def callerWaits (s : State) (tag : Nat) : Bool :=
  let th := getThread s tag
  th.live && th.park == .serve && (match getCrew s th.crew with | some w => w.phase != .aborting | none => true)

/-- A poisoned call's trap at the `serve` (R104, R187). -/
def poisonCall (s : State) (tag : Nat) (code : BitVec 4) (va : Word) : State :=
  let th := getThread s tag
  if callerWaits s tag then
    let a := if code = 1 ∨ code = 2 ∨ code = 6 then bits va 54 0 else 0
    takeTrap (setThread s tag { th with park := .none }) tag 0x05 (BitVec.ofNat 64 (code.toNat * 2 ^ 60 + a)) th.pc
  else s

/-- The mismatches of R184. -/
def callMismatch (i : Image) (nargs : Nat) (d : Reg) : Bool :=
  nargs != i.nArg || decide (31 < d.toNat + i.nRes - 1) || i.stream || i.gated

/-! ### `serve`, `sload`, `sevict`, `sinfo` -/

/-- The call enters the path of R182: the entry queue of its image's server, or the miss list. -/
def serveCall (s : State) (fid : BitVec 12) (d a : Reg) (n : BitVec 3) : Out :=
  let c := tagCluster s.cur
  let cl := getCluster s c
  let nargs := n.toNat + 1
  let args := (rangeFrom nargs a.toNat).map fun r => s.x (BitVec.ofNat 5 r)
  let req : CallReq := { num := s.nextMsg, tag := s.cur, fid := fid, dest := d, nargs := nargs, args := args, clock := s.th.clock }
  match resident s c fid with
  | some (_, i) =>
    if callMismatch i nargs d then s.trap 0x05 (BitVec.ofNat 64 (4 * 2 ^ 60))
    else if 64 ≤ ((imagesOn s c i.server).map fun x => x.entry.length).sum then s.forfeit
    else s.afterStores fun s1 => (putImage { s1 with nextMsg := s.nextMsg + 1 } c { i with entry := i.entry ++ [req] }).parkOn .serve
  | none =>
    if 64 ≤ cl.misses.length then s.forfeit
    else s.afterStores fun s1 =>
      let s2 := { s1 with nextMsg := s.nextMsg + 1 }
      (setCluster s2 c { getCluster s2 c with misses := cl.misses ++ [req] }).parkOn .serve

/-- `serve fid, a, n, d` (R305). -/
def execServeImm (d a : Reg) (f : BitVec 10) (g : BitVec 2) (n : BitVec 3) (s : State) : Out :=
  if 31 < a.toNat + n.toNat then s.trap 0x01 (instrWord (.serveImm d a f g n)) else serveCall s (g ++ f) d a n

/-- `serve r, a, n, d` (R305). -/
def execServeReg (d a r : Reg) (n : BitVec 3) (s : State) : Out :=
  if 31 < a.toNat + n.toNat then s.trap 0x01 (instrWord (.serveReg d a r n)) else serveCall s ((s.x r).setWidth 12) d a n

/-- A load that has been asked for and not started. -/
def newLoad (s : State) (fid : BitVec 12) (record : Option Nat) : ImageLoad :=
  { fid := fid, words := [], outcome := none, record := record, place := none, deferred := false, began := s.board.clk }

/-- `sload a` (R307). -/
def execSload (a : Reg) (s : State) : Out :=
  let fid : BitVec 12 := (s.x a).setWidth 12
  let c := tagCluster s.cur
  let cl := getCluster s c
  if (resident s c fid).isSome || cl.loads.any (fun l => l.fid == fid) || cl.misses.any (fun m => m.fid == fid) then .next s.skip
  else if 64 ≤ cl.misses.length then s.forfeit
  else .next (setCluster s c { cl with loads := cl.loads ++ [newLoad s fid none] }).skip

/-- `sevict a` (R307): a quiescent image goes at once (R201). -/
def execSevict (a : Reg) (s : State) : Out :=
  let c := tagCluster s.cur
  match resident s c ((s.x a).setWidth 12) with
  | some (_, i) => .next (putImage s c { i with evPend := true }).skip
  | none => .next s.skip

/-- `sinfo d, a` (R307). -/
def execSinfo (d a : Reg) (s : State) : Out :=
  if 29 < d.toNat then s.trap 0x01 (instrWord (.sinfo d a))
  else
    let cl := getCluster s (tagCluster s.cur)
    let w := fun (n : Nat) => match resident s (tagCluster s.cur) ((s.x a).setWidth 12) with
      | some (_, i) => imageWord cl i n
      | none => 0
    .next (s.setTh ((((s.th.writeX d (w 0)).writeX (d + 1) (w 1)).writeX (d + 2) (w 2)).advance))

/-! ### Reading an image (R181, R199) -/

/-- A word read by the pilot, which never parks: a fault, or poisoned data, gives none (R181). -/
def pilotWord (s : State) (c : Nat) (o : BitVec 12) (clk : Clock) (va : Word) : Option Word :=
  let read := fun (key : Nat) (cached : Bool) =>
    let r := readAt s (some c) o clk va 8 key cached
    if r.2 then none else some (BitVec.ofNat 64 (ofBytes r.1))
  match reachWalk s c none o va 8 .read with
  | .home key _ => read key false
  | .cached key _ => read key true
  | _ => none

/-- `n` words from an address. -/
def pilotWords (s : State) (c : Nat) (o : BitVec 12) (clk : Clock) : Nat → Word → Option (List Word)
  | 0, _ => some []
  | n + 1, va =>
    match pilotWord s c o clk va with
    | none => none
    | some w => (pilotWords s c o clk n (va + 8)).map fun l => w :: l

/-- What the pilot reads for a function id: the image, or the poison code of R181 and R371. (DEDUCED, log 61) -/
def readImage (s : State) (c : Nat) (o : BitVec 12) (clk : Clock) (fid : BitVec 12) : Sum Raw (BitVec 4) :=
  match pilotWords s c o clk 2 (0x007FFFFFFFFF0000 + BitVec.ofNat 64 (16 * fid.toNat)) with
  | some [e0, e1] =>
    if !bitAt e1 63 || bits e1 62 0 != 0 || bits e0 5 0 != 0 || bits e0 63 56 != 0 then .inr 5
    else match pilotWords s c o clk 8 e0 with
      | none => .inr 5
      | some hs =>
        let r : Raw := ⟨fid, hs⟩
        if !r.headerGood then .inr 4
        else match pilotWords s c o clk (r.length / 8) e0 with
          | none => .inr 5
          | some ws =>
            let r : Raw := ⟨fid, ws⟩
            if r.good then .inl r else .inr 4
  | _ => .inr 5

/-- Poisoned page-table entries that the read of a function's entry and image met are reported (R118). -/
def reportImage (s : State) (c : Nat) (o : BitVec 12) (fid : BitVec 12) : State :=
  let at_ : Word := 0x007FFFFFFFFF0000 + BitVec.ofNat 64 (16 * fid.toNat)
  let t := reportWalk s o at_
  match pilotWords s c o (pilotClock s) 2 at_ with
  | some (e0 :: _) =>
    match pilotWords s c o (pilotClock s) 8 e0 with
    | some hs => reportWalks t o e0 (Nat.min (Raw.length ⟨fid, hs⟩) 0x90000)
    | none => reportWalk t o e0
  | _ => t

/-- The calls that wait for a function id trap with a code and leave the miss list. -/
def failCalls (s : State) (c : Nat) (fid : BitVec 12) (code : BitVec 4) : State :=
  let waiting := (getCluster s c).misses.filter fun m => m.fid == fid
  let s := setServers s c { getCluster s c with misses := (getCluster s c).misses.filter fun m => m.fid != fid }
  waiting.foldl (fun s m => poisonCall s m.tag code 0) s

/-- A load leaves the list. -/
def dropLoad (s : State) (c : Nat) (fid : BitVec 12) : State :=
  setCluster s c { getCluster s c with loads := (getCluster s c).loads.filter fun l => l.fid != fid }

/-- A load fails: calls are poisoned, a launch ends faulted with 0x25 (R206, R371). -/
def failLoad (s : State) (c : Nat) (l : ImageLoad) (code : BitVec 4) : State :=
  let s := failCalls (dropLoad s c l.fid) c l.fid code
  match l.record with
  | some seq => moveSeq (unhold s (.record seq)) seq .faulted 0x25
  | none => s

/-- The loads that have started. -/
def startedLoads (cl : ClusterState) : Nat := (cl.loads.filter fun l => l.outcome.isSome).length

/-- The load of a function id that is to start: asked for, or wanted by calls that miss. -/
def dueLoad (s : State) (c : Nat) (fid : BitVec 12) : Option ImageLoad :=
  let cl := getCluster s c
  match cl.loads.find? fun l => l.fid == fid with
  | some l => if l.outcome.isNone then some l else none
  | none => if cl.misses.any (fun m => m.fid == fid) && (resident s c fid).isNone then some (newLoad s fid none) else none

/-- IMAGE_LOAD (R199, R206): the pilot reads and checks an image; at most four loads run at once on a cluster. A STREAM launch that names
an image of another kind ends; the load goes on for the calls that wait. -/
def execImageLoad (cluster : Nat) (fid : BitVec 12) (s : State) : Out :=
  match dueLoad s cluster fid with
  | none => .next s
  | some l =>
    let o := serverOwner s cluster
    let clk := ((getCluster s cluster).misses.filter fun m => m.fid == fid).foldl (fun k m => Clock.join k m.clock) (pilotClock s)
    if 4 ≤ startedLoads (getCluster s cluster) ∨ allHome s clk = false then .next s
    else
      let ends := match l.record with | some q => if mayChange s (.record q) then none else some (HeldStep.record q) | none => none
      match readImage s cluster o clk fid with
      | .inr code =>
        match ends with
        | some h => .next (holdBack s h)
        | none => .next (failLoad (reportImage s cluster o fid) cluster l code)
      | .inl r =>
        let goOn := fun (s : State) (l : ImageLoad) =>
          let s := dropLoad s cluster fid
          let cl := getCluster s cluster
          setCluster s cluster { cl with loads := cl.loads ++ [{ l with words := r.ws, outcome := some 0, began := s.board.clk }] }
        match l.record with
        | some q =>
          if r.stream then .next (goOn s l)
          else match ends with
            | some h => .next (holdBack s h)
            | none =>
              let s := moveSeq (unhold s (.record q)) q .faulted 0x25
              if (getCluster s cluster).misses.any fun m => m.fid == fid then .next (goOn s { l with record := none })
              else .next (dropLoad s cluster fid)
        | none => .next (goOn s l)

/-! ### Rectangles (R82, R172) -/

/-- The pages of a w × h rectangle whose top-left page is `page`. -/
def rectPages (page w h : Nat) : List Nat := (rangeFrom h 0).flatMap fun r => (rangeFrom w 0).map fun x => page + x + 4 * r

/-- The rectangle lies in the 4 × 2 pages of a server. -/
def rectFits (page w h : Nat) : Bool := decide (page < 8 ∧ page % 4 + w ≤ 4 ∧ page / 4 + h ≤ 2)

/-- Free rectangles of a cluster: server and top-left page. -/
def freeRects (cl : ClusterState) (w h : Nat) : List (Nat × Nat) :=
  (rangeFrom 12 0).flatMap fun v => ((rangeFrom 8 0).filter fun p =>
    rectFits p w h && (rectPages p w h).all fun x => (usableMap cl v).testBit x).map fun p => (v, p)

/-- Places for an image: one rectangle, or two disjoint ones for a twin (R82, R189). (DEDUCED, log 61) -/
def placements (cl : ClusterState) (w h : Nat) (twin : Bool) : List (List (Nat × Nat)) :=
  let rs := freeRects cl w h
  if twin then
    rs.flatMap fun a => (rs.filter fun b => a.1 != b.1 || (rectPages a.2 w h).all fun x => !(rectPages b.2 w h).contains x).map fun b => [a, b]
  else rs.map fun a => [a]

/-- The first free entry number (R203). -/
def freeEntry (cl : ClusterState) : Option Nat := firstIndex (fun n => (AMap.find cl.images n).isNone) 96 0

/-- A function id's GEN for its next placement (R202). -/
def nextGen (cl : ClusterState) (fid : BitVec 12) : Nat :=
  match AMap.find cl.gens fid.toNat with
  | some g => g + 1
  | none => 0

/-! ### Calls that waited for a load (R184, R199) -/

/-- One waiting call enters its resident image's entry queue, behind those that stand there (R378), or traps on a mismatch. -/
def enterCall (s : State) (c : Nat) (m : CallReq) : State :=
  match resident s c m.fid with
  | none => s
  | some (_, i) =>
    if callMismatch i m.nargs m.dest then
      poisonCall (setServers s c { getCluster s c with misses := (getCluster s c).misses.erase m }) m.tag 4 0
    else if 64 ≤ ((imagesOn s c i.server).map fun x => x.entry.length).sum then s
    else
      let s := setCluster { s with nextMsg := s.nextMsg + 1 } c { getCluster s c with misses := (getCluster s c).misses.erase m }
      putImage s c { i with entry := i.entry ++ [{ m with num := s.nextMsg }] }

/-- Every waiting call whose image is resident. -/
def enterCalls (s : State) (c : Nat) : State := (getCluster s c).misses.foldl (fun s m => enterCall s c m) s

/-! ### The end of a load (R199–R204) -/

/-- A loaded image with its copies. -/
def newImage (s : State) (c : Nat) (r : Raw) (l : ImageLoad) (at_ : List (Nat × Nat)) : Image where
  fid := l.fid
  h0 := r.w 0
  h1 := r.w 1
  h2 := r.w 2
  copies := r.copiesAt at_
  entry := []
  tags := []
  evPend := false
  broken := false
  closed := false
  reload := 0
  gen := nextGen (getCluster s c) l.fid
  calls := 0
  poisoned := 0
  lastUse := s.board.refclk
  loadClk := s.board.clk - l.began
  launch := none
  tilesLeft := 0
  stalled := none
  squashed := []
  argsDue := []
  reloadAt := 0
  agent := s.nextAgent
  clock := pilotClock s

/-- Argument word `n` enters its links as a scalar data token (R206, R370). -/
def Placed.giveArg (p : Placed) (n : Nat) (w : Word) (pkt : Nat) : Placed :=
  { p with links := p.links.map fun l => if l.sport = 8 + n then l.push ⟨.data, w.setWidth 256, pkt, []⟩ else l }

/-- Argument words enter every argument link (R370). -/
def Placed.giveArgs (p : Placed) (args : List Word) (pkt : Nat) : Placed :=
  { p with links := p.links.map fun l =>
      if 8 ≤ l.sport then l.push ⟨.data, (args.getD (l.sport - 8) 0).setWidth 256, pkt, []⟩ else l }

/-- The section of a STREAM launch is armed (R206): its argument words are to enter the entry cell in order; none when its argument block
cannot be read. -/
def armSection (s : State) (c : Nat) (i : Image) (seq : Nat) : Option Image :=
  match AMap.find s.records seq with
  | none => none
  | some r =>
    (pilotWords s c r.owner (pilotClock s) i.nArg r.words.w3).map fun args =>
      { i with launch := some seq, clock := r.clk, tilesLeft := bits r.words.w2 31 0, argsDue := args.mapIdx fun n w => (n, w) }

/-- Writes an image's configuration into its rectangles and makes it resident. -/
def install (s : State) (c : Nat) (r : Raw) (l : ImageLoad) (n : Nat) (i : Image) : State :=
  let s := i.copies.foldl (fun s p => r.writeCells s c p) s
  let s := { dropLoad s c l.fid with nextAgent := s.nextAgent + 1 }
  let cl := getCluster s c
  enterCalls (setCluster s c { cl with images := AMap.set cl.images n i, gens := AMap.set cl.gens l.fid.toNat i.gen }) c

/-- A STREAM launch whose image is placed is admitted: its decision for a cluster, its reservation and its pre-emption end (R38, R70,
R72, R74). (DEDUCED, log 54) -/
def admitSection (s : State) (seq : Nat) : State :=
  let s := match AMap.find s.records seq with
    | some r => { s with records := AMap.set s.records seq { r with chosen := [], refusedAt := none } }
    | none => s
  moveSeq (dropPlacement (unhold s (.record seq)) seq) seq .admitted 0

/-- The started load of a function id. -/
def startedLoad (s : State) (c : Nat) (fid : BitVec 12) : Option ImageLoad :=
  (getCluster s c).loads.find? fun l => l.fid == fid && l.outcome == some 0

/-- Images that a load replaces: the resident copy of a stream image of the same function id, once it is quiescent (R207). -/
def replaced (s : State) (c : Nat) (l : ImageLoad) : Option State :=
  match resident s c l.fid with
  | none => some s
  | some (_, i) => if i.busy { getCluster s c with misses := [] } then none else some (dropImage s c l.fid)

/-- Image placement is host-assisted for the cluster's owner (R43 bit 1). -/
def hostPlaces (s : State) (c : Nat) : Bool := (getOwner s (serverOwner s c)).modes.getLsbD 1

/-- The free map and the quiescent map of a cluster (R204). A withdrawn page is not free for the host to name. (DEDUCED, log 61) -/
def placeMaps (cl : ClusterState) : Nat × Nat :=
  ((rangeFrom 12 0).foldl (fun a v => a + usableMap cl v * 2 ^ (8 * v)) 0,
   (cl.images.filter fun e => !e.2.busy cl).foldl (fun a e => a + 2 ^ e.1) 0)

/-- The body of a host-assisted image placement request (R204). -/
def placeRequest (s : State) (c : Nat) (r : Raw) : Words8 :=
  let m := placeMaps (getCluster s c)
  words8Of [0, BitVec.ofNat 64 (r.fid.toNat * 2 ^ 52 + r.wide % 8 * 2 ^ 49 + r.high * 2 ^ 47 + (if r.twin then 2 ^ 46 else 0)),
    BitVec.ofNat 64 (c * 2 ^ 56), BitVec.ofNat 64 m.1, BitVec.ofNat 64 (m.1 / 2 ^ 64), BitVec.ofNat 64 m.2, BitVec.ofNat 64 (m.2 / 2 ^ 64)]

/-- The placement request of this load stands. -/
def placeAsked (s : State) (c : Nat) (fid : BitVec 12) : Bool :=
  requested s fun n => match n with | .imagePlacement k _ f => k == c && f == fid | _ => false

/-- Where a started load may go now. (DEDUCED, log 61) -/
def loadPlaces (s : State) (c : Nat) (r : Raw) (l : ImageLoad) : List (List (Nat × Nat)) :=
  let all := placements (getCluster s c) r.wide r.high r.twin
  if hostPlaces s c then
    match l.place with
    | some (a, b, x, y) => all.filter fun q => q == (if r.twin then [(a, b), (x, y)] else [(a, b)])
    | none => []
  else all

/-- IMAGE_LOAD_COMPLETE (R199, R200, R206): the image is placed, configured and made resident; waiting calls enter; a section
is armed. In host-assisted mode the placement is asked for first. -/
def execImageLoadComplete (cluster : Nat) (fid : BitVec 12) (s : State) : Out :=
  match startedLoad s cluster fid with
  | none => .next s
  | some l =>
    let r : Raw := ⟨fid, l.words⟩
    match replaced s cluster l with
    | none => .next s
    | some s1 =>
      if hostPlaces s cluster && l.place.isNone then
        if placeAsked s cluster fid || l.deferred then .next s
        else .next (postRequest s 1 (serverOwner s cluster) (.imagePlacement cluster (serverOwner s cluster) fid) (placeRequest s cluster r))
      else
        let ps := loadPlaces s1 cluster r l
        match pick ps (s.choose 20 ps.length), freeEntry (getCluster s1 cluster) with
        | some at_, some n =>
          let i := newImage s1 cluster r l at_
          match l.record with
          | none => .next (install s1 cluster r l n i)
          | some seq =>
            if !helmRuns s || !allHome s (pilotClock s) then .next s
            else if !mayChange s (.record seq) then .next (holdBack s (.record seq))
            else match armSection s1 cluster i seq with
              | some i => .next (admitSection (install (enlist s1 i.agent seq) cluster r l n i) seq)
              | none =>
                let s2 := match AMap.find s1.records seq with | some q => reportWalks s1 q.owner q.words.w3 64 | none => s1
                .next (stopRecord (admitSection (install s2 cluster r l n i) seq) seq .faulted 0x25)
        | _, _ =>
          if l.place.isSome then
            .next (setCluster s cluster { getCluster s cluster with loads := (getCluster s cluster).loads.map fun x => if x.fid == fid then { x with place := none } else x })
          else .next s

/-! ### Eviction and compaction (R201, R202) -/

/-- A started load of the cluster that finds no place, not even where the copy that it replaces stands. -/
def starvedLoad (s : State) (c : Nat) : Option Raw :=
  ((getCluster s c).loads.filter fun l => l.outcome == some 0).findSome? fun l =>
    let r : Raw := ⟨l.fid, l.words⟩
    match replaced s c l with
    | none => none
    | some t => if (placements (getCluster t c) r.wide r.high r.twin).isEmpty || (freeEntry (getCluster t c)).isNone then some r else none

/-- The moves of a quiescent image's copies that serve a starved load: copy and page, on the copy's server, which has enough usable pages
for the load, at a lower page, or where the move frees a rectangle at once. (DEDUCED, log 61) -/
def moveTargets (s : State) (c : Nat) (r : Raw) (i : Image) : List (Nat × Nat) :=
  let cl := getCluster s c
  if i.busy cl then []
  else (i.copies.mapIdx fun j p =>
    if ((rangeFrom 8 0).filter fun x => (usableMap cl p.server).testBit x).length < r.wide * r.high then []
    else
      let without := getCluster (putImage s c { i with copies := i.copies.eraseIdx j }) c
      ((rangeFrom 8 0).filter fun q =>
        q != p.page && rectFits q i.width i.height
          && ((rectPages q i.width i.height).all fun x => (usableMap without p.server).testBit x)
          && (decide (q < p.page)
            || !(placements (getCluster (putImage s c (i.setCopy j { p with page := q })) c) r.wide r.high r.twin).isEmpty)).map fun q => (j, q)).flatten

/-- Some image can be moved for the load; in host-assisted mode the pilot moves none (R43). -/
def canCompact (s : State) (c : Nat) (r : Raw) : Bool :=
  !hostPlaces s c && (freeEntry (getCluster s c)).isSome && (getCluster s c).images.any fun e => !(moveTargets s c r e.2).isEmpty

/-- The contents of a copy's memory cells, in order, with their poison (R118). -/
def cellContents (s : State) (c : Nat) (i : Image) (p : Placed) : List Region :=
  (rectCells p.page i.width i.height).map fun n => takeRegion s (cellKey c p.server n 0) 8192

/-- Writes cell contents into a copy's rectangle. -/
def putContents (s : State) (c : Nat) (i : Image) (p : Placed) (cs : List Region) : State :=
  ((rectCells p.page i.width i.height).zip cs).foldl (fun s e => putRegion s (cellKey c p.server e.1 0) 8192 e.2) s

/-- The cells' own counters move with their rectangle. -/
def Placed.moveTo (p : Placed) (server page : Nat) : Placed :=
  let d := fun (q : Nat) => 64 * (q / 4) + 4 * (q % 4)
  { p with server := server, page := page, cells := p.cells.map fun e => (e.1 + d page - d p.page, e.2) }

/-- COMPACTION (R202): a quiescent image, or one copy of a twin, moves to another rectangle by freeze and thaw, and its GEN rises. In
host-assisted mode the host names the pages (R43). -/
def execCompaction (cluster : Nat) (fid : BitVec 12) (s : State) : Out :=
  match starvedLoad s cluster, resident s cluster fid with
  | some r, some (_, i) =>
    if hostPlaces s cluster then .next s
    else
      let ts := moveTargets s cluster r i
      match pick ts (s.choose 21 ts.length) with
      | none => .next s
      | some (j, tgt) =>
        match i.copies[j]? with
        | none => .next s
        | some p =>
          let cs := cellContents s cluster i p
          let p' := p.moveTo p.server tgt
          let i' := { i.setCopy j p' with gen := i.gen + 1 }
          let s' := putContents (leaveCells (putImage s cluster i') cluster i.h0 [p]) cluster i' p' cs
          let cl := getCluster s' cluster
          .next (setCluster s' cluster { cl with gens := AMap.set cl.gens fid.toNat i'.gen })
  | _, _ => .next s

/-- The quiescent image that a starved load evicts first: oldest last use, then lowest call count (R201). -/
def firstEvict (s : State) (c : Nat) : Option Image :=
  let cl := getCluster s c
  leastBy (fun i => i.lastUse * 2 ^ 64 + i.calls) ((cl.images.map (·.2)).filter fun i => !i.busy cl)

/-- IMAGE_EVICT (R201): a quiescent image goes when a placement needs its pages and no compaction helps. -/
def execImageEvict (cluster : Nat) (fid : BitVec 12) (s : State) : Out :=
  match resident s cluster fid with
  | none => .next s
  | some (_, i) =>
    if i.busy (getCluster s cluster) then .next s
    else match starvedLoad s cluster with
      | some r =>
        if !hostPlaces s cluster && !canCompact s cluster r && (match firstEvict s cluster with | some x => x.fid == fid | none => false) then
          .next (dropImage s cluster fid)
        else .next s
      | none => .next s

/-! ### Admission (R182, R378) -/

/-- The packet that a server's port admits next (R378): each core's oldest is its head; a core whose head waits for an image that is closed
for a reload is passed over (R119). (DEDUCED, log 67) -/
def nextCall (s : State) (c v : Nat) : Option (Image × CallReq) :=
  let all := (imagesOn s c v).flatMap fun i => i.entry.map fun q => (i, q)
  let last := (AMap.getD (getCluster s c).servers v {}).lastCore
  let heads := all.filter fun e => !(all.any fun x => tagCore x.2.tag == tagCore e.2.tag && decide (x.2.num < e.2.num))
  leastBy (fun (e : Image × CallReq) => (tagCore e.2.tag % 128 + 96 - (last + 1) % 96) % 96) (heads.filter fun e => !e.1.closed)

/-- Tag queue, commit buffer and argument links take the packet (R182, R186, R370). -/
def admissible (s : State) (c v : Nat) (i : Image) (args : List Word) : Bool :=
  decide (((imagesOn s c v).map fun x => x.tags.length).sum < 256)
    && ((rangeFrom i.copies.length 0).zip i.copies).all fun e =>
      let q := e.2.giveArgs args 0
      q.linksFree (linkTakes q.fuel (fabOf s c i e.1) q) (e.2.links.filter fun l => decide (8 ≤ l.sport))

/-- The packet of an admitted call. -/
def newPacket (s : State) (q : CallReq) : Packet where
  num := s.nextMsg
  tag := q.tag
  dest := q.dest
  faults := []
  answers := []
  stores := []
  stores2 := []
  bd := false
  admitted := s.board.clk
  clock := q.clock

/-! ### Firing (R177) -/

/-- The image and copy that hold a cell of a server. -/
def cellOwner (s : State) (c v cell : Nat) : Option (Image × Nat × Placed) :=
  (getCluster s c).images.findSome? fun e =>
    ((rangeFrom e.2.copies.length 0).zip e.2.copies).findSome? fun x =>
      if x.2.server == v && (placedPages x.2 e.2.h0).contains (cell % 16 / 4 + cell / 64 * 4) then some (e.2, x.1, x.2) else none

/-- A section's launch is running from the first fire (R38). -/
def sectionRuns (s : State) (i : Image) : State := match i.launch with | some seq => recordRuns s seq | none => s

/-- The section's first fire has no place for its running entry (R41). -/
def sectionHeld (s : State) (i : Image) : Bool := match i.launch with | some seq => runHeld s seq | none => false

/-- The image's cells may fire: a serve image always, a stream image while its section runs. -/
def Image.live (i : Image) : Bool := !i.stream || (i.launch.isSome && decide (0 < i.tilesLeft))

/-- The exit tokens at the lcus of a cell are taken (R362). -/
def confirmCell (s : State) (c : Nat) (i : Image) (j : Nat) (cell : Nat) : Image :=
  (rangeFrom 4 0).foldl (fun i n =>
    match i.copies[j]? with
    | none => i
    | some p => match p.ctxAt cell n with
      | none => i
      | some k => match lcuConfirm (fabOf s c i j) p k with
        | none => i
        | some f => { i.setCopy j f.copy with squashed := i.squashed ++ f.squash }) i

/-- One act of a context: a fire of a compute context, or an access of a memory cell (R176, R368). -/
def fireOnce (s : State) (c : Nat) (i : Image) (j : Nat) (p : Placed) (k : CtxState) (a : Act) : CellStep :=
  if k.mem then fireMem s c i j p k a
  else
    let f := fireCompute (fabOf s c i j) p k a
    let i' := { i.setCopy j f.copy with squashed := i.squashed ++ f.squash }
    .done s (match f.bd with | some n => i'.mapPacket n fun x => { x with bd := true } | none => i')

/-- Changes copy `j` of an image. -/
def Image.mapCopy (i : Image) (j : Nat) (f : Placed → Placed) : Image :=
  match i.copies[j]? with
  | some p => i.setCopy j (f p)
  | none => i

/-- The consumer of a 0-slot link takes the token that stands on it (R179): none while it cannot. (DEDUCED, log 62) -/
def takeZero (s : State) (c : Nat) (i : Image) (j : Nat) (p : Placed) (l : LinkState) : Option CellStep :=
  match p.target l with
  | none => none
  | some k =>
    match (if l.dport = 2 then lcuConfirm (fabOf s c i j) p k else none) with
    | some f => some (.done s { i.setCopy j f.copy with squashed := i.squashed ++ f.squash })
    | none => match p.nextAct (fabOf s c i j) k with
      | some a =>
        if (a.takes k).contains l.dport then
          match fireOnce s c i j p k a with
          | .done s' i' => some (.done (sectionRuns s' i') (i'.mapCopy j fun q => q.firedAs (q.cellAt k.col k.row) k.ctx))
          | r => some r
        else none
      | none => none

/-- The section that ran in `s` still runs in `t`, or none did. -/
def sameLaunch (t : State) (c : Nat) (i : Image) : Bool :=
  match resident t c i.fid with
  | some (_, x) => x.launch == i.launch
  | none => false

/-- Tokens on 0-slot links enter their consumers at once; one whose access waits for a walk stands until it ends (R179, R197). -/
def settleLinks : Nat → State → Nat → Image → Nat → CellStep
  | 0, s, _, i, _ => .done s i
  | n + 1, s, c, i, j =>
    match i.copies[j]? with
    | none => .done s i
    | some p =>
      match (p.links.filter fun l => l.slots == 0 && !l.toks.isEmpty).findSome? (takeZero s c i j p) with
      | none => .done s i
      | some (.done s' i') => settleLinks n s' c i' j
      | some (.other s') => if sameLaunch s' c i then .done s' i else .other s'

/-- `settleLinks` for one copy, as long as its links allow. -/
def settleCopy (s : State) (c : Nat) (i : Image) (j : Nat) : CellStep :=
  settleLinks (match i.copies[j]? with | some p => p.fuel | none => 0) s c i j

/-- Every copy of a serve image. -/
def settleAll (s : State) (c : Nat) (i : Image) : State × Image :=
  (rangeFrom i.copies.length 0).foldl (fun r j => match settleCopy r.1 c r.2 j with | .done s i => (s, i) | .other s => (s, r.2)) (s, i)

/-- Argument words of a section enter their links, in order, while there is room (R206, R370). -/
def deliverArgs : Nat → State → Nat → Image → CellStep
  | 0, s, _, i => .done s i
  | n + 1, s, c, i =>
    match i.argsDue, i.copies with
    | (a, w) :: rest, [p] =>
      let q := p.giveArg a w 0
      if q.linksFree (linkTakes p.fuel (fabOf s c i 0) q) (p.links.filter fun l => l.sport == 8 + a) then
        match settleCopy s c { i with copies := [q], argsDue := rest } 0 with
        | .done s' i' => deliverArgs n s' c i'
        | r => r
      else .done s i
    | _, _ => .done s i

/-- The context whose access waits for a walk or a page fault leaves its cell to the others (R177, R197). (DEDUCED, log 62) -/
def yieldCell (s : State) (c : Nat) (fid : BitVec 12) (j cell : Nat) : State :=
  match resident s c fid with
  | none => s
  | some (_, i) => match i.copies[j]? with
    | none => s
    | some p => match p.otherFires (fabOf s c i j) cell with
      | some n => putImage s c (i.setCopy j (p.switched cell n))
      | none => s

/-- CELL_FIRE (R177): one clock of a cell. -/
def execCellFire (cluster server cell : Nat) (s : State) : Out :=
  match cellOwner s cluster server cell with
  | none => .next s
  | some (i0, j, p0) =>
    if !i0.live then .next s
    else if sectionHeld s i0 then
      match p0.cellTurn (fabOf s cluster i0 j) cell with
      | .fire _ _ => .next (match i0.launch with | some q => holdBack s (.record q) | none => s)
      | _ => .next s
    else match deliverArgs i0.argsDue.length s cluster i0 with
      | .other s' => .next s'
      | .done s i1 =>
        let i := confirmCell s cluster i1 j cell
        let s := if i = i0 then s else putImage s cluster i
        match i.copies[j]? with
        | none => .next s
        | some p =>
          match p.cellTurn (fabOf s cluster i j) cell with
          | .idle => .next s
          | .switch n => .next (putImage s cluster (i.setCopy j (p.switched cell n)))
          | .fire k a =>
            match fireOnce s cluster i j p k a with
            | .other s' => .next (yieldCell s' cluster i.fid j cell)
            | .done s' i' =>
              match settleCopy s' cluster (i'.mapCopy j fun q => q.fired cell) j with
              | .done s2 i2 => .next (sectionRuns (putImage s2 cluster i2) i2)
              | .other s2 => .next s2

/-- SERVE_ADMIT (R182, R378): the head packet of the next core is admitted, or the port waits for it. -/
def execServeAdmit (cluster server : Nat) (s : State) : Out :=
  match nextCall s cluster server with
  | none => .next s
  | some (i, q) =>
    if admissible s cluster server i q.args then
      let p := newPacket s q
      let i' := { i with
        entry := i.entry.erase q
        tags := i.tags ++ [p]
        lastUse := s.board.refclk
        copies := i.copies.map fun x => x.giveArgs q.args p.num }
      let (s, i') := settleAll { s with nextMsg := s.nextMsg + 1 } cluster i'
      let s := putImage s cluster i'
      let cl := getCluster s cluster
      let v := AMap.getD cl.servers server {}
      let s := setCluster s cluster { cl with servers := AMap.set cl.servers server { v with lastCore := tagCore q.tag % 128 } }
      .next (enterCalls s cluster)
    else .next s

/-! ### The exit (R183, R186, R187, R189, R370) -/

/-- The result links of a copy, in order. -/
def Placed.results (p : Placed) (n : Nat) : List (Option Tok) :=
  (rangeFrom n 0).map fun j => match p.links.find? fun l => l.dport == 8 + j with
    | some l => l.toks.head?
    | none => none

def Placed.takeResults (p : Placed) : Placed :=
  { p with links := p.links.map fun l => if 8 ≤ l.dport then { l with toks := l.toks.drop 1 } else l }

/-- A held store is performed at the commit (R186). (DEDUCED, log 67) -/
def commitStore (s : State) (tag : Nat) (h : HeldStore) : State :=
  let th := getThread s tag
  let o := ownerOf s tag
  let w := { th.writer tag h.flagAt with core := none }
  let s := claimLine s h.key (keyOf s o) (bits h.va 54 6)
  let s := if h.cached then cacheWrite s h.key h.bytes w [] else homeWrite s h.key h.bytes w []
  setThread s tag th.wrote

/-- The stores that no squashed iteration made (R193). -/
def liveStores (hs : List HeldStore) (sq : List (Nat × Nat)) : List HeldStore := hs.filter fun h => !(h.itr.any fun x => sq.contains x)

/-- The first held store that would write a ring bay whose voyage is active (R145, R173). -/
def barredStore (s : State) (hs : List HeldStore) : Option HeldStore := hs.find? fun h => !h.cached && inActiveBay s h.key h.bytes.length

/-- A held store waits for what happens before it and is on its way to the same home (R224). -/
def commitWaits (s : State) (tag : Nat) (hs : List HeldStore) : Bool :=
  hs.any fun h => !h.cached && engineWaits s (getThread s tag).clock h.key h.bytes.length h.flagAt

/-- Both copies agree: kinds, payloads, and the addresses and bytes of the held stores (R189). (DEDUCED, log 68) -/
def copiesAgree (rs : List (List (Option Tok))) (p : Packet) (sq : List (Nat × Nat)) : Bool :=
  match rs with
  | [a, b] => (a.map fun t => t.map fun t => (t.kind, t.pay)) == (b.map fun t => t.map fun t => (t.kind, t.pay))
      && ((liveStores p.stores sq).map fun h => (h.va, h.bytes)) == ((liveStores p.stores2 sq).map fun h => (h.va, h.bytes))
  | _ => true

/-- The first fault of a packet that no squash discards. -/
def Packet.firstFault (p : Packet) (sq : List (Nat × Nat)) : Option (BitVec 4 × Word) :=
  (p.faults.find? fun f => !(f.2.2.any fun x => sq.contains x)).map fun f => (f.1, f.2.1)

/-- A mismatch counts at a server: the fourth within one second withdraws its pages until the next warm reset (R119). (DEDUCED, log 68) -/
def countMismatch (s : State) (c v : Nat) : State :=
  let cl := getCluster s c
  let x := AMap.getD cl.servers v {}
  let l := s.board.refclk :: x.recent s.board.refclk
  let off := decide (4 ≤ l.length)
  let s' := setCluster s c { cl with servers := AMap.set cl.servers v { x with mismatches := l, offline := if off then 0xFF else x.offline } }
  if off && x.offline == 0 then { s' with board := { s'.board with events := s'.board.events ++ [.serverUnused (c * 16 + v)] } } else s'

/-- A twin mismatch (R119): entry closes for the reload, and it counts at each server that holds a copy. (DEDUCED, log 68) -/
def noteMismatch (s : State) (c : Nat) (i : Image) : State :=
  ((i.copies.map fun p => p.server).eraseDups).foldl (fun s v => countMismatch s c v)
    (putImage s c { i with closed := true, reload := 1, reloadAt := s.board.clk })

/-- The unpoisoned return (R305): commit, results, BD, and the acquire of R185. -/
def returnCall (s : State) (p : Packet) (rs : List (Option Tok)) (sq : List (Nat × Nat)) : State :=
  let th := getThread s p.tag
  if callerWaits s p.tag && th.clock == p.clock then
    let s := (liveStores p.stores sq).foldl (fun s h => commitStore s p.tag h) s
    let th := getThread s p.tag
    let value := fun (t : Option Tok) => match t with
      | some t => if t.kind == .data && !t.squashedIn sq then (BitVec.ofNat 64 t.pay.toNat : Word) else 0
      | none => 0
    let th := ((rangeFrom rs.length 0).zip rs).foldl (fun th e =>
      if p.dest.toNat + e.1 ≤ 31 then th.writeX (BitVec.ofNat 5 (p.dest.toNat + e.1)) (value e.2) else th) th
    let th := if p.bd then { th with tstat := th.tstat ||| 2 } else th
    setThread s p.tag { th.advance with park := .none }
  else s

/-- The exit of a stream image (R206, R370): data are discarded, a level-1 stop on result link 0 is a tile. -/
def streamExit (i : Image) : Image :=
  match i.copies with
  | [p] =>
    let tile := match (p.results 1).headD none with | some t => t.isStop && t.level == 1 | none => false
    { i with copies := [p.takeResults], tilesLeft := if tile then i.tilesLeft - 1 else i.tilesLeft }
  | _ => i

/-- SERVE_EXIT (R183, R186, R187, R189): a result set is paired with the oldest tag. A held store into an active ring bay poisons the packet
with code 1 (R145, R173). -/
def execServeExit (cluster : Nat) (fid : BitVec 12) (s : State) : Out :=
  match resident s cluster fid with
  | none => .next s
  | some (_, i) =>
    if i.stream then .next (if i.live then putImage s cluster (streamExit i) else s)
    else
      let rs := i.copies.map fun p => p.results i.nRes
      match i.tags with
      | [] => .next s
      | p :: rest =>
        if rs.any fun r => r.any Option.isNone then .next s
        else
          let first := rs.headD []
          let badKind := first.any fun t => match t with | some t => t.kind == .stop || t.kind == .config | none => false
          let agree := copiesAgree rs p i.squashed
          let fault := match p.firstFault i.squashed with
            | some f => some f
            | none => if badKind then some (4, 0) else if agree then (barredStore s (liveStores p.stores i.squashed)).map fun h => (1, h.va) else some (3, 0)
          let i1 := { i with copies := i.copies.map Placed.takeResults, tags := rest }
          match fault with
          | some (code, va) =>
            let i2 := { i1 with poisoned := i.poisoned + 1 }
            let s := putImage s cluster i2
            let s := if agree then s else noteMismatch s cluster i2
            .next (poisonCall s p.tag code va)
          | none =>
            if callerWaits s p.tag && commitWaits s p.tag (liveStores p.stores i.squashed) then .next s
            else .next (returnCall (putImage s cluster { i1 with calls := i.calls + 1 }) p first i.squashed)

/-- SERVE_TIMEOUT (R188): an image whose packet stands 1,048,576 clk is broken: its packets return with code 4, it is unloaded,
and the calls that wait become misses. -/
def execServeTimeout (cluster : Nat) (fid : BitVec 12) (s : State) : Out :=
  match resident s cluster fid with
  | none => .next s
  | some (_, i) =>
    if i.tags.any fun p => decide (p.admitted + 1048576 ≤ s.board.clk) then
      let s := dropImage s cluster fid
      let s := setCluster s cluster { getCluster s cluster with misses := (getCluster s cluster).misses ++ i.entry }
      .next (i.tags.foldl (fun s p => poisonCall s p.tag 4 0) s)
    else .next s

/-! ### Twin reload (R119) -/

/-- A twin image with its copies as the image gives them, where they stand or elsewhere when their server is withdrawn. (DEDUCED, log 68) -/
def reloadTwin (s : State) (c : Nat) (n : Nat) (i : Image) (r : Raw) : Option State :=
  let here := i.copies.map fun p => (p.server, p.page)
  let off := here.any fun a => (AMap.getD (getCluster s c).servers a.1 {}).offline != 0
  let s0 := dropImage s c i.fid
  let ps := if off then placements (getCluster s0 c) r.wide r.high true else [here]
  match pick ps (s.choose 22 ps.length) with
  | none => none
  | some at_ =>
    let i' := { i with copies := r.copiesAt at_, closed := false, reload := 0, gen := i.gen + 1, calls := 0, poisoned := 0, squashed := [], loadClk := s.board.clk - i.reloadAt }
    let s1 := i'.copies.foldl (fun s p => r.writeCells s c p) s0
    let cl := getCluster s1 c
    some (enterCalls (setCluster s1 c { cl with images := AMap.set cl.images n i', gens := AMap.set cl.gens i.fid.toNat i'.gen }) c)

/-- TWIN_RELOAD (R119): both copies are loaded afresh once no packet is inside; in host-assisted mode the answer orders it. -/
def execTwinReload (cluster : Nat) (fid : BitVec 12) (s : State) : Out :=
  match resident s cluster fid with
  | none => .next s
  | some (n, i) =>
    let o := serverOwner s cluster
    if i.reload = 0 || !i.tags.isEmpty || !allHome s (pilotClock s) then .next s
    else if i.reload = 1 && (getOwner s o).modes.getLsbD 5 then
      let need := HostNeed.twinReload cluster fid i.server
      if requested s (fun x => x == need) then .next s
      else .next (postRequest s 5 o need (words8Of [0, BitVec.ofNat 64 (fid.toNat * 2 ^ 52 + i.server * 2 ^ 48)]))
    else match readImage s cluster o (pilotClock s) fid with
      | .inr code =>
        let s := dropImage (reportImage s cluster o fid) cluster fid
        .next (i.entry.foldl (fun s q => poisonCall s q.tag code 0) s)
      | .inl r => .next ((reloadTwin s cluster n i r).getD s)

/-! ### Freeze, thaw, section end (R115, R205, R207) -/

/-- FREEZE_WAVE (R115, R205): a section that is to be pre-empted is halted and read out; its pages become free. -/
def execFreezeWave (cluster : Nat) (fid : BitVec 12) (s : State) : Out :=
  match resident s cluster fid with
  | none => .next s
  | some (_, i) =>
    match i.launch, i.copies with
    | some _, [p] =>
      if i.closed then
        let f : Frozen := { cluster := cluster, image := { i with closed := false }, cells := cellContents s cluster i p, base := poolBase s (frozenUnits i) }
        let s := writeArea s f.base (frozenUnits i) (frozenPieces f)
        let s := dropImage { s with frozen := s.frozen ++ [f] } cluster fid
        .next (forgetWaiters s fun r => match r with | .region c g _ => c == cluster && g == fid | _ => false)
      else .next s
    | _, _ => .next s

/-- The cluster can take a section of the owner back: held by it or by none, and scrubbed for it. -/
def mayThaw (s : State) (c : Nat) (o : BitVec 12) : Bool :=
  (match holder s c with | some h => h == o | none => true)
    && (match (getCluster s c).lastOwner with | some l => l == o | none => true) && !(getCluster s c).scrubbing
    && !(s.preempting.any fun p => p.places.contains c)

/-- A section of the owner that waits to thaw has the cluster scrubbed: another owner held it last, none holds it now, and no unit has
been decided for it (R49, R59). (DEDUCED, log 78) -/
def thawScrubs (s : State) (c : Nat) (o : BitVec 12) : Bool :=
  (match holder s c with | some h => h == o | none => true)
    && (match (getCluster s c).lastOwner with | some l => l != o | none => false) && !(getCluster s c).scrubbing
    && !(s.preempting.any fun p => p.places.contains c)
    && !(s.records.any fun q => q.2.chosen.contains c && !q.2.phase.final && q.2.ending.isNone)

/-- THAW (R115): a frozen section is written into a free rectangle of the cluster where it was frozen and goes on. (DESIGN CHOICE, log 20) -/
def execThaw (cluster : Nat) (fid : BitVec 12) (s : State) : Out :=
  match s.frozen.find? fun f => f.cluster == cluster && f.image.fid == fid with
  | none => .next s
  | some f =>
    match f.image.copies, (match f.image.launch with | some seq => AMap.find s.records seq | none => none) with
    | [p], some r =>
      if thawScrubs s cluster r.owner then .next (setCluster s cluster { getCluster s cluster with scrubbing := true }) else
      let cl := getCluster s cluster
      let rs := freeRects cl f.image.width f.image.height
      match pick rs (s.choose 23 rs.length), freeEntry cl with
      | some (v, q), some n =>
        if mayThaw s cluster r.owner && (resident s cluster fid).isNone then
          let p' := p.moveTo v q
          let i := { f.image with copies := [p'], gen := nextGen cl fid, stalled := none }
          let s := { s with frozen := s.frozen.erase f }
          let s := setCluster s cluster { cl with images := AMap.set cl.images n i, gens := AMap.set cl.gens fid.toNat i.gen, lastOwner := some r.owner }
          .next (putContents s cluster i p' f.cells)
        else .next s
      | _, _ => .next s
    | _, _ => .next s

/-- SECTION_COMPLETE (R207): the armed tiles are spent and every store is home. -/
def execSectionComplete (cluster : Nat) (fid : BitVec 12) (s : State) : Out :=
  match resident s cluster fid with
  | none => .next s
  | some (_, i) =>
    match i.launch with
    | some seq =>
      if i.tilesLeft = 0 && !mayChange s (.sectionEnd cluster fid) then .next (holdBack s (.sectionEnd cluster fid))
      else if i.tilesLeft = 0 then
        let s := unhold s (.sectionEnd cluster fid)
        let i' := { i with launch := none, copies := i.copies.map fun p => { p with links := p.links.map fun l => { l with toks := [] }, cells := [] }, stalled := none, argsDue := [] }
        let s := forgetWaiters (putImage s cluster i') fun r => match r with | .region c g _ => c == cluster && g == fid | _ => false
        .next (moveSeq (joinEnd s seq i.clock) seq .completed 0)
      else .next s
    | none => .next s

/-- The endpoint context of a cell that waits for the other side's count. -/
def waitingEndpoint (p : Placed) (cell : Nat) : Option CtxState :=
  p.ctxs.find? fun k =>
    p.cellAt k.col k.row == cell && k.mem && k.kind == 4
      && (if endpointProd k then decide (k.seenCount + k.walkLength true ≤ k.moved) else k.agTakes false || decide (k.seenCount ≤ k.moved))

/-- ENDPOINT_POLL (R368): a waiting endpoint re-reads the other side's count. (DEDUCED, log 66) -/
def execEndpointPoll (cluster server cell : Nat) (s : State) : Out :=
  match cellOwner s cluster server cell with
  | none => .next s
  | some (i, j, p) =>
    if !i.live then .next s
    else match waitingEndpoint p cell with
      | none => .next s
      | some k =>
        match endpointPoll s cluster i j p k with
        | .done s' i' => .next (putImage s' cluster i')
        | .other s' => .next s'

end Sys2Proof.Machine
end

