-- ==== Sys2Proof/Machine/Faults.lean ====
section
/-! DEFINITION. The end of a walk, fault entries and records (R92–R97), REPLAY and DECLINE (R98, R99, R392), TLB
invalidation (R100), and what a fault does to each requester (R101). -/

namespace Sys2Proof.Machine

/-! ### The walk cache and the TLBs (R93) -/

/-- A table pointer in a die's walk cache: level and index bits of the owner. (DEDUCED, log 51) -/
def cachedPointer (d : DieState) (o : BitVec 12) (level index : Nat) : Option Word :=
  (d.wcache.find? fun e => e.1 == o && e.2.1 == level && e.2.2.1 == index).map fun e => e.2.2.2

/-- A walk of `va` by a die: levels above a cached pointer are not read (R93). Beside the end, the pointers it read. (DEDUCED, log 51) -/
def dieWalk (s : State) (die : Nat) (o : BitVec 12) (va : Word) : WalkEnd × Option Word × Option Word :=
  match cachedPointer (getDie s die) o 2 (bits va 54 29) with
  | some p2 => (walk3 s p2 va, none, none)
  | none =>
    match cachedPointer (getDie s die) o 1 (bits va 54 42) with
    | some p1 =>
      let r := walk2 s p1 va
      (r.1, none, r.2)
    | none => walk1 s (getOwner s o).root va

/-- A pointer enters the walk cache of 256; the device chooses which one goes (R93). -/
def cachePointer (s : State) (die : Nat) (o : BitVec 12) (level index i : Nat) (p : Option Word) : State :=
  match p with
  | none => s
  | some w =>
    let d := getDie s die
    let e := (o, level, index, w)
    if d.wcache.length < 256 then setDie s die { d with wcache := d.wcache ++ [e] }
    else setDie s die { d with wcache := d.wcache.eraseIdx (s.choose i 256) ++ [e] }

/-- The cluster a requester belongs to. -/
def Requester.cluster : Requester → Nat
  | .thread t | .fetch t => tagCluster t
  | .command k _ | .probe k _ => coreCluster k
  | .region c _ _ | .serveCell c _ _ | .voyage c | .launch c _ | .sighting c _ | .spill c => c

/-- A serve-mode cell never parks (R94). -/
def Requester.isServe : Requester → Bool
  | .serveCell _ _ _ => true
  | _ => false

/-- A leaf fills the L1 TLB of a cluster (R94). -/
def addL1 (s : State) (e : TlbEntry) (c : Nat) : State :=
  let cl := getCluster s c
  setCluster s c { cl with l1 := tlbAdd cl.l1 e 1024 (s.choose 60 1024) }

/-! ### What the end of a walk does to a requester (R101) -/

/-- A thread that waits for a translation executes again. -/
def wakeFault (s : State) (t : Nat) : State :=
  let th := getThread s t
  if th.park = .fault then setThread s t { th with park := .none } else s

/-- The bytes or elements a parked command has handled (R338). -/
def Command.handled (m : Command) : Nat := if m.op = 0x03 ∨ m.op = 0x04 then m.progress / m.esize else m.progress

/-- The waiter has a translation: its access is made again. -/
def releaseWaiter (s : State) (w : Waiter) : State :=
  match w.who with
  | .thread t | .fetch t => wakeFault s t
  | .command k q | .probe k q =>
    match headIn s k q .parked with
    | some m => setHead s k q { m with phase := .running }
    | none => s
  | .voyage c =>
    match (getCluster s c).voyage with
    | some v => if v.parked.isSome then setVoyage s c (some { v with parked := none }) else s
    | none => s
  | .sighting c i =>
    match (getCluster s c).voyage with
    | some v => setVoyage s c (some (v.park i none))
    | none => s
  | .region c fid _ =>
    match resident s c fid with
    | some (_, i) => if i.stalled = some w.va then putImage s c { i with stalled := none } else s
    | none => s
  | .launch _ _ | .serveCell _ _ _ | .spill _ => s

/-- The crew whose spill area the engine of a cluster failed to write at `va` (R110). -/
def spillCrew (s : State) (c : Nat) (va : Word) : Option Nat :=
  (s.crews.find? fun e => e.2.cluster == c && (e.2.spillVa == va || e.2.spillVa + BitVec.ofNat 64 (0x40 + e.2.spillWr) == va)).map (·.1)

def spillWaiter (s : State) (c : Nat) (va : Word) : State :=
  match spillCrew s c va with
  | some w => spillFailed s w va
  | none => s

/-- A packet's cell is answered with a poison code for its access (R94, R101). -/
def answerCell (s : State) (c : Nat) (fid : BitVec 12) (pkt : Nat) (va : Word) (code : BitVec 4) : State :=
  match resident s c fid with
  | some (_, i) => putImage s c (i.mapPacket pkt fun p => { p with answers := p.answers ++ [(va, code)] })
  | none => s

/-- A stream section's launch ends faulted with reason 0x21 (R101). -/
def regionFault (s : State) (c : Nat) (fid : BitVec 12) : State :=
  match resident s c fid with
  | some (_, i) => sectionFault s i 1
  | none => s

/-- A thread parked on a page takes a precise trap at its parked instruction. -/
def trapParked (s : State) (t : Nat) (cause : BitVec 8) (va : Word) : State :=
  let th := getThread s t
  if th.park = .fault ∧ th.stopped = false then takeTrap (setThread s t { th with park := .none }) t cause va th.pc else s

/-- The voyage's read or accumulation fails (R398). -/
def voyageFails (s : State) (c : Nat) (cause : BitVec 8) (va : Word) : State :=
  match (getCluster s c).voyage with
  | some v => setVoyage s c (some { v with parked := none, failure := some (cause, va) })
  | none => s

/-- The access of a waiter ends in an access fault (cause 0x03), or is declined (0x04) (R101): a launch whose descriptor is being read ends
faulted with 0x24; a declined spill has had its failure. -/
def faultWaiter (cause : BitVec 8) (s : State) (w : Waiter) : State :=
  match w.who with
  | .thread t => trapParked s t cause w.va
  | .fetch t => trapParked s t 0x03 w.va
  | .command k q | .probe k q =>
    match headIn s k q .parked with
    | some m => stopCommand s k q m cause w.va m.handled
    | none => s
  | .region c fid _ => regionFault s c fid
  | .serveCell c fid pkt => answerCell s c fid pkt w.va 1
  | .voyage c | .sighting c _ => voyageFails s c cause w.va
  | .launch _ seq => stopRecord s seq .faulted 0x24
  | .spill c => if cause = 0x04 then s else spillWaiter s c w.va

/-- The walk of a waiter ended in a page fault: a serve-mode cell is answered, a spill fails, a section has a fault pending (R116), the
others stay parked. -/
def pageFaultWaiter (s : State) (w : Waiter) : State :=
  match w.who with
  | .serveCell c fid pkt => answerCell s c fid pkt w.va 2
  | .spill c => spillWaiter s c w.va
  | .region c fid _ =>
    match resident s c fid with
    | some (_, i) => putImage s c { i with stalled := some (i.stalled.getD w.va) }
    | none => s
  | _ => s

/-! ### Fault records (R95–R97) -/

/-- The address-generator counters of a section's cell. -/
def regionCounters (s : State) (c : Nat) (fid : BitVec 12) (mark : Nat) : Nat × Nat :=
  match resident s c fid with
  | some (_, i) =>
    match i.copies.findSome? fun p => p.ctxs.find? fun k => cellMark p k == mark with
    | some k => (k.ag0, k.ag1)
    | none => (0, 0)
  | none => (0, 0)

/-- Words 2 and 3 of a record, and whether they describe a section (R96). -/
def recordSource (s : State) (r : Requester) : Nat × Nat × Bool :=
  match r with
  | .thread t | .fetch t => (t, 0, false)
  | .region c fid mark =>
    let cell := mark / 4 % 128
    let n := regionCounters s c fid mark
    (fid.toNat * 2 ^ 52 + mark / 512 * 2 ^ 48 + cell % 16 * 2 ^ 44 + cell / 16 * 2 ^ 41 + mark % 4 * 2 ^ 39,
      n.1 % 2 ^ 32 * 2 ^ 32 + n.2 % 2 ^ 32, true)
  | _ => (0x7FFFF, 0, false)

/-- The four words of the record of a fault entry (R96). -/
def recordWords (s : State) (die : Nat) (f : FaultEntry) (level : Nat) : List Word :=
  let who := match f.waiters with | w :: _ => w.who | [] => .spill 0
  let src := recordSource s who
  [BitVec.ofNat 64 (bits f.va 54 0),
   BitVec.ofNat 64 (f.owner.toNat * 2 ^ 52 + die * 2 ^ 49 + who.cluster % 32 * 2 ^ 44 + f.kind.toNat * 2 ^ 40
     + f.waiters.length * 2 ^ 27 + 2 ^ 15 + level * 2 ^ 13 + (if src.2.2 then 2 ^ 12 else 0)),
   BitVec.ofNat 64 src.1, BitVec.ofNat 64 src.2.1]

/-- The buffer takes no further record (R97). -/
def bufferFull (d : DieState) : Bool := (d.fbHead - d.fbTail).toNat == 2 ^ d.fbSize.toNat

/-- The record is written, or dropped (R97). -/
def writeRecord (s : State) (die : Nat) (f : FaultEntry) (level : Nat) : State :=
  let d := getDie s die
  if !d.en || bufferFull d then setDie s die { d with dropped := true, dropCnt := d.dropCnt + 1 }
  else
    let slot := d.fbHead.toNat % 2 ^ d.fbSize.toNat
    let bytes := (recordWords s die f level).flatMap fun w => bytesOf 8 w.toNat
    setDie (deviceWrite s (d.fbBase.toNat * 4096 + 32 * slot) bytes) die { d with fbHead := d.fbHead + 1 }

/-! ### The miss queue (R94) -/

/-- A miss that waited proceeds as R94 states: each of its waiters joins or starts a walk, or waits again. -/
def reissue (s : State) (die : Nat) (w : Walk) : State := w.waiters.foldl (fun s x => startWalk s die w.owner x) s

/-- The misses of a die that may proceed do: those that wait for a fault entry only when `freed`. -/
def drainMisses (s : State) (die : Nat) (freed : Bool) : State :=
  let d := getDie s die
  let go := d.missQ.filter fun w => freed || !w.starved
  let s := setDie s die { d with missQ := d.missQ.filter fun w => !(freed || !w.starved) }
  go.foldl (fun s w => reissue s die w) s

/-! ### REPLAY (R98, R392) -/

/-- What the replay's bridge core released happens before what a re-issued access and its agent do next (R392). (DEDUCED, log 50) -/
def replayEdge (s : State) (w : Waiter) : State :=
  let join := fun (c : Clock) => Clock.join c s.inv.repClk
  match w.who with
  | .thread t | .fetch t =>
    let th := getThread s t
    setThread s t { th with clock := join th.clock }
  | .command k q | .probe k q =>
    match headIn s k q .parked with
    | some m => setHead s k q { m with clock := join m.clock }
    | none => s
  | .voyage c | .sighting c _ =>
    match (getCluster s c).voyage with
    | some v => setVoyage s c (some { v with clock := join v.clock })
    | none => s
  | .region c fid _ =>
    match resident s c fid with
    | some (_, i) => putImage s c { i with clock := join i.clock }
    | none => s
  | .launch _ seq =>
    match AMap.find s.records seq with
    | some r => { s with records := AMap.set s.records seq { r with clk := join r.clk } }
    | none => s
  | .serveCell c fid pkt =>
    match resident s c fid with
    | some (_, i) =>
      match i.packet pkt with
      | some p =>
        let th := getThread s p.tag
        let s := if callerWaits s p.tag && th.clock == p.clock then setThread s p.tag { th with clock := join th.clock } else s
        putImage s c (i.mapPacket pkt fun p => { p with clock := join p.clock })
      | none => s
    | none => s
  | .spill c => setCluster s c { getCluster s c with spillClk := join (getCluster s c).spillClk }

/-- One die's part of a replay: fault entries and queued misses of the owner walk again. -/
def replayDie (o : BitVec 12) (s : State) (die : Nat) : State :=
  let d := getDie s die
  let ws := ((d.faults.filter fun f => f.owner == o).flatMap fun f => f.waiters)
    ++ (d.missQ.filter fun w => w.owner == o).flatMap fun w => w.waiters
  let s := setDie s die { d with faults := d.faults.filter fun f => f.owner != o, missQ := d.missQ.filter fun w => w.owner != o }
  let s := ws.foldl (fun s w => startWalk (replayEdge s w) die o w) s
  drainMisses s die true

/-- A replay of an owner starts, on a write that `clk` happens before. -/
def startReplay (s : State) (o : BitVec 12) (clk : Clock) : State :=
  (rangeFrom 8 0).foldl (replayDie o) { s with inv := { s.inv with replay := o, repBusy := true, repClk := clk } }

/-- Some waiter of the running replay has not been re-issued: it still waits for a walker. (DEDUCED, log 50) -/
def replayWaits (s : State) : Bool := s.dies.any fun d => d.2.missQ.any fun w => w.owner == s.inv.replay && !w.starved

/-- A replay ends when its waiters are re-issued, and the next held one starts; `fuel` of them at most (R98). -/
def endReplays : Nat → State → State
  | 0, s => s
  | fuel + 1, s =>
    if !s.inv.repBusy || replayWaits s then s
    else match s.inv.repQ with
      | [] => { s with inv := { s.inv with repBusy := false } }
      | o :: rest => endReplays fuel (startReplay { s with inv := { s.inv with repQ := rest, repClks := s.inv.repClks.drop 1 } } o (s.inv.repClks.headD []))

/-- A write of REPLAY (R98): a replay starts, or is held while one runs; a held owner is merged. It releases what its bridge core has fenced
(R392). While a write is held, offset 0x038 reads the owner of the running replay. (DESIGN CHOICE, log 83) -/
def writeReplay (s : State) (owner : BitVec 12) : State :=
  if s.inv.repBusy then
    if s.inv.repQ.contains owner then
      { s with inv := { s.inv with repClks := (s.inv.repQ.zip s.inv.repClks).map fun e => if e.1 == owner then Clock.join e.2 (fencedClock s) else e.2 } }
    else if s.inv.repQ.length < 4096 then
      { s with inv := { s.inv with repQ := s.inv.repQ ++ [owner], repClks := s.inv.repClks ++ [fencedClock s] } }
    else s
  else endReplays 4097 (startReplay s owner (fencedClock s))

/-- REPLAY (R98). (DEDUCED, log 50) -/
def execReplay (owner : BitVec 12) (s : State) : Out := .next (writeReplay s owner)

/-! ### The end of a walk (R94) -/

/-- A leaf: the TLBs are filled and every waiter goes on. -/
def walkLeaf (s : State) (die : Nat) (w : Walk) (pte : Word) (big : Bool) : State :=
  let e : TlbEntry := { owner := w.owner, vpn := if big then w.page / 2 ^ 13 * 2 ^ 13 else w.page, big := big, pte := pte }
  let s := addL2 s die e
  let s := ((w.waiters.map fun x => x.who.cluster).eraseDups).foldl (fun s c => addL1 s e c) s
  w.waiters.foldl releaseWaiter s

/-- A page fault: serve-mode cells are answered; the others become a fault entry with its record, or wait for one. -/
def walkFault (s : State) (die : Nat) (w : Walk) (level : Nat) : State :=
  let s := w.waiters.foldl pageFaultWaiter s
  match w.waiters.filter fun x => !x.who.isServe with
  | [] => s
  | x :: rest =>
    let d := getDie s die
    if d.faults.length < 4096 then
      let f : FaultEntry := { owner := w.owner, page := w.page, va := x.va, kind := x.kind, waiters := x :: rest }
      writeRecord (setDie s die { d with faults := d.faults ++ [f] }) die f level
    else setDie s die { d with missQ := d.missQ ++ [{ w with va := x.va, kind := x.kind, waiters := x :: rest, starved := true }] }

/-- WALK_COMPLETE (R94): the walk of an owner's page on a die ends. -/
def execWalkComplete (die : BitVec 3) (owner : BitVec 12) (page : BitVec 39) (s : State) : Out :=
  let k := die.toNat
  let d := getDie s k
  match d.walks.find? fun w => w.owner == owner && w.page == page.toNat with
  | none => .next s
  | some w =>
    let r := dieWalk s k owner w.va
    let s := setDie s k { d with walks := d.walks.erase w }
    let s := cachePointer s k owner 1 (bits w.va 54 42) 52 r.2.1
    let s := cachePointer s k owner 2 (bits w.va 54 29) 53 r.2.2
    let s := match r.1 with
      | .leaf pte big => walkLeaf s k w pte big
      | .pageFault level => walkFault s k w level
      | .accessFault => w.waiters.foldl (faultWaiter 0x03) s
      | .poisoned a => w.waiters.foldl (faultWaiter 0x03) (reportEntry s a)
    .next (endReplays 4097 (drainMisses s k false))

/-! ### DECLINE (R99) -/

/-- One die's part of a decline. -/
def declineDie (o : BitVec 12) (page : Nat) (s : State) (die : Nat) : State :=
  let d := getDie s die
  match d.faults.find? fun f => f.owner == o && f.page == page with
  | none => s
  | some f =>
    let s := setDie s die { d with faults := d.faults.erase f }
    drainMisses (f.waiters.foldl (faultWaiter 0x04) s) die true

/-- A write of DPAGE (R99): the fault entry of an owner's page goes on every die, and its waiters end with cause 0x04. -/
def writeDecline (s : State) (owner : BitVec 12) (page : BitVec 39) : State :=
  let s := { s with inv := { s.inv with decline := BitVec.ofNat 64 (owner.toNat * 2 ^ 52 + page.toNat) } }
  endReplays 4097 ((rangeFrom 8 0).foldl (declineDie owner page.toNat) s)

/-- DECLINE (R99). -/
def execDecline (owner : BitVec 12) (page : BitVec 39) (s : State) : Out := .next (writeDecline s owner page)

/-! ### TLB invalidation (R100) -/

/-- Removes the TLB, walk-cache and held entries that two predicates pick. (DEDUCED, log 49) -/
def removeEntries (s : State) (hit : TlbEntry → Bool) (pointer : BitVec 12 → Nat → Nat → Bool)
    (held : BitVec 12 → Nat → Bool) : State :=
  { s with
    clusters := s.clusters.map fun e => (e.1, { e.2 with l1 := e.2.l1.filter fun x => !hit x })
    dies := s.dies.map fun e => (e.1, { e.2 with
      l2 := e.2.l2.filter fun x => !hit x
      wcache := e.2.wcache.filter fun x => !pointer x.1 x.2.1 x.2.2.1 })
    cores := s.cores.map fun e => (e.1, { e.2 with held := e.2.held.map fun q => (q.1, q.2.filter fun x => !held x.1 x.2) }) }

/-- The location keys that a TLB entry maps: the first and how many. -/
def TlbEntry.range (e : TlbEntry) : Nat × Nat :=
  (leafKey (BitVec.ofNat 64 ((if e.big then e.vpn / 2 ^ 13 * 2 ^ 13 else e.vpn) * 2 ^ 16)) e.pte e.big, if e.big then 2 ^ 29 else 2 ^ 16)

/-- The TLB entries that a predicate picks. -/
def pickedEntries (s : State) (hit : TlbEntry → Bool) : List TlbEntry :=
  ((s.clusters.flatMap fun e => e.2.l1.filter hit) ++ s.dies.flatMap fun e => e.2.l2.filter hit).eraseDups

/-- An invalidation starts: the entries go at once, and INVBUSY stays until the accesses issued so far through one of them are
performed. (DEDUCED, log 49) -/
def startInvalidation (s : State) (v : Word) (hit : TlbEntry → Bool) (pointer : BitVec 12 → Nat → Nat → Bool)
    (held : BitVec 12 → Nat → Bool) : State :=
  if s.inv.invBusy then s
  else
    let ranges := (pickedEntries s hit).map TlbEntry.range
    let s := removeEntries s hit pointer held
    { s with
      inv := { s.inv with inv := v, invBusy := true, ranges := ranges, upto := s.nextWrite, uptoCall := s.nextMsg }
      nextWrite := s.nextWrite + 1 }

/-- The entries of either size that cover a page of an owner go; a probe's mark goes with the entry it holds. -/
def invPage (s : State) (owner : BitVec 12) (page : BitVec 39) : State :=
  let p := page.toNat
  let wide := (pickedEntries s fun e => e.hits owner p).any fun e => e.big
  startInvalidation s (BitVec.ofNat 64 (owner.toNat * 2 ^ 50 + p)) (fun e => e.hits owner p)
    (fun o level i => o == owner && (if level = 1 then i == p / 2 ^ 26 else i == p / 2 ^ 13))
    (fun o x => o == owner && (x == p || (wide && x / 2 ^ 13 == p / 2 ^ 13)))

/-- Every entry of an owner goes; the register keeps the PAGE field that was written. -/
def invOwner (s : State) (owner : BitVec 12) (page : BitVec 39) : State :=
  startInvalidation s (BitVec.ofNat 64 (2 ^ 62 + owner.toNat * 2 ^ 50 + page.toNat)) (fun e => e.owner == owner)
    (fun o _ _ => o == owner) (fun o _ => o == owner)

/-- Every entry goes; the register keeps the OWNER and PAGE fields that were written. -/
def invAll (s : State) (owner : BitVec 12) (page : BitVec 39) : State :=
  startInvalidation s (BitVec.ofNat 64 (2 ^ 63 + owner.toNat * 2 ^ 50 + page.toNat)) (fun _ => true) (fun _ _ _ => true) (fun _ _ => true)

/-- TLBINV_PAGE (R100). -/
def execTlbinvPage (owner : BitVec 12) (page : BitVec 39) (s : State) : Out := .next (invPage s owner page)

/-- TLBINV_OWNER (R100), written with PAGE 0. -/
def execTlbinvOwner (owner : BitVec 12) (s : State) : Out := .next (invOwner s owner 0)

/-- TLBINV_ALL (R100), written with OWNER and PAGE 0. -/
def execTlbinvAll (s : State) : Out := .next (invAll s 0 0)

/-- The location was mapped by an entry that the running invalidation removed. -/
def throughRemoved (s : State) (key : Nat) : Bool := s.inv.ranges.any fun r => r.1 ≤ key && key < r.1 + r.2

/-- A load, atomic or store that was issued before the invalidation through a removed entry is not yet performed, or a server
packet that came before it holds such a store. (DEDUCED, log 49) -/
def accessesWait (s : State) : Bool :=
  s.posted.any (fun p => p.num < s.inv.upto && throughRemoved s p.addr)
    || s.writes.any (fun w => !w.arrived && w.num < s.inv.upto && throughRemoved s w.addr)
    || s.threads.any (fun e => match e.2.park with | .memory r => r.after ≤ s.inv.upto && throughRemoved s r.key | _ => false)
    || s.clusters.any fun c => c.2.images.any fun i => i.2.tags.any fun p =>
        p.num < s.inv.uptoCall && (p.stores ++ p.stores2).any fun h => throughRemoved s h.key

/-- INVALIDATION_DONE (R100). -/
def execInvalidationDone (s : State) : Out :=
  if s.inv.invBusy && !accessesWait s then .next { s with inv := { s.inv with invBusy := false } } else .next s

/-- DROPCNT_READ (R95): the count is read and cleared. -/
def execDropcntRead (die : BitVec 3) (s : State) : Out :=
  let d := getDie s die.toNat
  .next { setDie s die.toNat { d with dropCnt := 0 } with readData := zx d.dropCnt, accessOk := true }

end Sys2Proof.Machine
end

