-- ==== Sys2Proof/Machine/Helm.lean ====
section
/-! DEFINITION. The helm: submit windows and queues (R27–R29), launch records and their checks (R31–R33), graphs (R34, R35), the
logbook's registers and snapshots (R40–R42), aborts (R39). -/

namespace Sys2Proof.Machine

/-! ### Queues (R27, R28) -/

def getQueue (s : State) (q : BitVec 8) : QueueState := AMap.getD s.queues q.toNat {}

def setQueue (s : State) (q : BitVec 8) (v : QueueState) : State := { s with queues := AMap.set s.queues q.toNat v }

/-- LIVE (R27): some record of the queue, read or not, is not in a final state. (DEDUCED, log 40) -/
def queueLive (s : State) (q : BitVec 8) : Bool :=
  !(getQueue s q).fifo.isEmpty || s.records.any fun r => r.2.queue == q && !r.2.phase.final

/-- Step 6 of the power-up sequence has ended (R18). -/
def poweredUp (s : State) : Bool := s.board.phase == .running

/-- SUBMIT_RECORD (R28): a 64-byte write to offset 0 is a record; any other, one without a free place, or one before power-up
ends is discarded. -/
def execSubmitRecord (queue : BitVec 8) (off : BitVec 12) (size : Nat) (rec : Words8) (s : State) : Out :=
  let q := getQueue s queue
  if size = 64 ∧ off = 0 ∧ q.fifo.length < 64 ∧ poweredUp s = true then
    .next (setQueue s queue { q with fifo := q.fifo ++ [rec], fifoClk := q.fifoClk ++ [fencedClock s] })
  else .next (setQueue s queue { q with discard := true })

/-- A store to QCFG (R27): EN always; PRIO and OWNER only while the queue is disabled and not live; otherwise the write to them is
discarded and sets CFGERR. LIVE is as in `queueLive` (log 40). -/
def writeQcfg (s : State) (queue : BitVec 8) (v : Word) : State :=
  let q := getQueue s queue
  let prio := v.extractLsb' 58 2
  let owner := v.extractLsb' 32 12
  let en := bitAt v 63
  if !q.en && !queueLive s queue then setQueue s queue { q with en := en, prio := prio, owner := owner }
  else setQueue s queue { q with en := en, cfgErr := true }

/-- QCFG_WRITE (R27). -/
def execQcfgWrite (queue : BitVec 8) (v : Word) (s : State) : Out := .next (writeQcfg s queue v)

/-! ### The checks of a record (R31–R33) -/

/-- An address of R32: top byte 0x00, bit 55 zero, aligned. -/
def addressGood (v : Word) (align : Nat) : Bool := v.toNat % align == 0 && bits v 63 55 == 0

/-- Some reserved field is non-zero (R31, R32). -/
def reservedSet (w : Words8) : Bool :=
  let k := bits w.w0 63 60
  bits w.w0 56 52 != 0 || bits w.w0 11 0 != 0 || bits w.w1 57 32 != 0 || (k != 4 && bits w.w1 31 0 != 0)
    || (match k with
      | 0 | 1 => bits w.w3 15 0 != 0
      | 2 => w.w3 != 0 || w.w4 != 0 || w.w5 != 0 || w.w6 != 0
      | 3 => bits w.w2 51 32 != 0 || w.w4 != 0 || w.w5 != 0 || w.w6 != 0
      | 4 => w.w2 != 0 || w.w3 != 0 || w.w4 != 0 || w.w5 != 0 || w.w6 != 0 || w.w7 != 0
      | _ => bits w.w3 63 32 != 0 || w.w4 != 0 || w.w5 != 0 || w.w6 != 0 || w.w7 != 0)

/-- Every address of the record is well formed (R32). -/
def addressesGood (w : Words8) : Bool :=
  match bits w.w0 63 60 with
  | 0 | 1 => addressGood w.w2 4 && addressGood w.w4 1 && addressGood w.w5 4 && addressGood w.w6 65536 && addressGood w.w7 64
  | 2 => addressGood w.w2 64 && addressGood w.w7 64
  | 3 => addressGood w.w3 64 && addressGood w.w7 64
  | 4 => true
  | _ => addressGood w.w2 64

/-- The length of a GRAPH's array (R32). -/
def graphLength (w : Words8) : Nat := bits w.w3 31 0

/-- Cores per crew, threads per core and crews of a CREW or GANG record (R32). -/
def crewCores (w : Words8) : Nat := bits w.w3 63 57
def crewThreads (w : Words8) : Nat := bits w.w3 56 52
def crewCount (w : Words8) : Nat := bits w.w3 51 32

/-- Shape and counts are within their limits (R32). -/
def shapeInLimits (w : Words8) : Bool :=
  let shape := decide (1 ≤ crewCores w ∧ crewCores w ≤ 96 ∧ 1 ≤ crewThreads w ∧ crewThreads w ≤ 16 ∧ 1 ≤ crewCount w)
  match bits w.w0 63 60 with
  | 0 => shape
  | 1 => shape && decide (crewCount w ≤ 256)
  | 3 => decide (1 ≤ bits w.w2 31 0)
  | _ => true

/-- dep A and dep B of a record at an index of an array, or of a top-level record (R31, R33). -/
def depsGood (w : Words8) (index : Option Nat) : Bool :=
  let a := bits w.w0 51 40
  let b := bits w.w0 39 28
  let ok := fun (d : Nat) => d == 0xFFF || (match index with | some i => decide (d < i) | none => false)
  ok a && ok b && !(bitAt w.w0 57 && a == 0xFFF)

/-- The reason for which a record breaks R33, 0 for none; `enclosing` is the number of GRAPHs it lies in. (DEDUCED, log 41) -/
def recordReason (w : Words8) (index : Option Nat) (enclosing : Nat) : BitVec 8 :=
  if 6 ≤ bits w.w0 63 60 then 0x01
  else if reservedSet w then 0x02
  else if !addressesGood w then 0x03
  else if bits w.w0 63 60 = 5 ∧ (graphLength w % 64 ≠ 0 ∨ graphLength w < 64 ∨ 262080 < graphLength w) then 0x04
  else if !shapeInLimits w then 0x05
  else if !depsGood w index then 0x06
  else if bits w.w0 63 60 = 5 ∧ 4 ≤ enclosing then 0x07
  else 0

/-! ### Reads of the helm and the pilot by the owner's tables (R33, R79) -/

/-- A word of an owner's memory read by walking its tables; none where the read faults or is poisoned. -/
def tableWord (s : State) (o : BitVec 12) (va : Word) : Option Word :=
  if bits va 63 55 ≠ 0 then none
  else match walk s (getOwner s o).root va with
    | .leaf p big =>
      if pteRd p then
        let r := readAt s none o (pilotClock s) va 8 (leafKey va p big) (pteClass p != 1)
        if r.2 then none else some (BitVec.ofNat 64 (ofBytes r.1))
      else none
    | _ => none

/-- Eight words, one record. -/
def tableRecord (s : State) (o : BitVec 12) (va : Word) : Option Words8 :=
  match ((rangeFrom 8 0).map fun i => tableWord s o (va + BitVec.ofNat 64 (8 * i))) with
  | [some a, some b, some c, some d, some e, some f, some g, some h] => some ⟨a, b, c, d, e, f, g, h⟩
  | _ => none

/-- `n` records from an address. -/
def tableRecords (s : State) (o : BitVec 12) : Nat → Word → Option (List Words8)
  | 0, _ => some []
  | n + 1, va =>
    match tableRecord s o va with
    | none => none
    | some r => (tableRecords s o n (va + 64)).map fun l => r :: l

/-! ### Reading a record (R29, R34) -/

/-- A record as the helm takes it. -/
def newRecord (seq : Nat) (q : BitVec 8) (o : BitVec 12) (prio : BitVec 2) (w : Words8) (index : BitVec 12) (parent level : Nat)
    (clk : Clock) : RecordState where
  seqNo := seq
  queue := q
  owner := o
  prio := prio
  words := w
  index := index
  parent := parent
  level := level
  phase := .accepted
  reason := 0
  arrayBase := none
  arrayLen := 0
  refusedAt := none
  nextCrew := 0
  crewsLeft := if bits w.w0 63 60 ≤ 1 then crewCount w else 0
  ending := none
  hintRead := none
  chosen := []
  named := []
  deferredAt := none
  clk := clk
  endClk := []

/-- The first record of an array that fails its checks: its index and reason. (DEDUCED, log 41) -/
def arrayFault (enclosing : Nat) : Nat → List Words8 → Option (Nat × BitVec 8)
  | _, [] => none
  | i, w :: rest =>
    match recordReason w (some i) enclosing with
    | 0 => arrayFault enclosing (i + 1) rest
    | e => some (i, e)

/-- The array of a GRAPH, read and checked: its records, or the reason and index of R34. -/
def readArray (s : State) (o : BitVec 12) (w : Words8) (enclosing : Nat) : Sum (List Words8) (BitVec 8 × BitVec 12) :=
  match tableRecords s o (graphLength w / 64) w.w2 with
  | none => .inr (0x08, 0xFFF)
  | some l =>
    match arrayFault (enclosing + 1) 0 l with
    | none => .inl l
    | some (i, e) => .inr (e, BitVec.ofNat 12 i)

/-- One record of an array takes its sequence number and its accepted entry. -/
def acceptChild (g : RecordState) (s : State) (e : Nat × Words8) : State :=
  let seq := s.helm.nextSeq
  let s := { s with helm := { s.helm with nextSeq := seq + 1 } }
  moveRecord s (newRecord seq g.queue g.owner g.prio e.2 (BitVec.ofNat 12 e.1) g.seqNo (g.level + 1) g.clk) .accepted 0 (BitVec.ofNat 12 e.1)

/-- The records of a GRAPH's array are accepted in index order (R34). -/
def acceptArray (s : State) (g : RecordState) (l : List Words8) : State :=
  ((rangeFrom l.length 0).zip l).foldl (acceptChild g)
    { s with records := AMap.set s.records g.seqNo { g with arrayBase := some s.helm.nextSeq, arrayLen := l.length } }

/-- Why a record read from a queue is rejected; the disabled queue and the owner come first. (DEDUCED, log 41) -/
def readReason (s : State) (q : QueueState) (w : Words8) : BitVec 8 :=
  if !q.en then 0x09
  else if (getOwner s q.owner).phase != .live then 0x0A
  else recordReason w none 0

/-- The helm takes the oldest record of a queue, when it is of the kind that the step names (R29, R33, R34); it reads a GRAPH's array once what
happens before is home (R224). -/
def helmRead (s : State) (queue : BitVec 8) (kind : Nat → Bool) : Out :=
  let q := getQueue s queue
  match q.fifo with
  | [] => .next s
  | w :: rest =>
    if !(poweredUp s && helmRuns s && kind (bits w.w0 63 60)) then .next s
    else
      let seq := s.helm.nextSeq
      let clk := q.fifoClk.headD []
      if bits w.w0 63 60 = 5 ∧ allHome s (Clock.join (pilotClock s) clk) = false then .next s else
      let s := { s with helm := { s.helm with nextSeq := seq + 1, pilotClk := Clock.join s.helm.pilotClk clk } }
      let s := setQueue s queue { q with fifo := rest, fifoClk := q.fifoClk.tail, lastSeq := BitVec.ofNat 48 seq }
      let r := newRecord seq queue q.owner q.prio w 0xFFF seq 0 clk
      match readReason s q w with
      | 0 =>
        if bits w.w0 63 60 = 5 then
          match readArray s q.owner w 0 with
          | .inr (e, i) => .next (moveRecord (reportWalks s q.owner w.w2 (graphLength w)) r .rejected e i)
          | .inl l =>
            let s := moveRecord s r .accepted 0 0xFFF
            .next (settle (acceptArray s r l))
        else .next (settle (moveRecord s r .accepted 0 0xFFF))
      | e => .next (moveRecord s r .rejected e 0xFFF)

/-- CREW (R32): the helm reads a CREW record. -/
def execCrew (queue : BitVec 8) (s : State) : Out := helmRead s queue fun k => k == 0

/-- GANG (R32, R60). -/
def execGang (queue : BitVec 8) (s : State) : Out := helmRead s queue fun k => k == 1

/-- VOYAGE (R32). -/
def execVoyage (queue : BitVec 8) (s : State) : Out := helmRead s queue fun k => k == 2

/-- STREAM (R32). -/
def execStream (queue : BitVec 8) (s : State) : Out := helmRead s queue fun k => k == 3

/-- WAIT (R36). -/
def execWait (queue : BitVec 8) (s : State) : Out := helmRead s queue fun k => k == 4

/-- GRAPH (R34). -/
def execGraph (queue : BitVec 8) (s : State) : Out := helmRead s queue fun k => k == 5

/-- UNKNOWN_KIND (R33): reason 0x01. -/
def execUnknownKind (queue : BitVec 8) (s : State) : Out := helmRead s queue fun k => decide (6 ≤ k)

/-- NESTED_GRAPH_START (R34): the array of a startable nested GRAPH is checked. -/
def execNestedGraphStart (seq : Nat) (s : State) : Out :=
  match AMap.find s.records seq with
  | none => .next s
  | some r =>
    if r.kind = 5 ∧ r.arrayBase.isNone = true ∧ startable s r = true ∧ helmRuns s = true ∧ allHome s (pilotClock s) = true then
      match readArray s r.owner r.words r.level with
      | .inr (e, i) => .next (settle (moveRecord (reportWalks s r.owner r.words.w2 (graphLength r.words)) r .faulted e i))
      | .inl l => .next (settle (acceptArray s r l))
    else .next s

/-! ### The logbook's registers (R40–R42) -/

/-- The snapshot end entry (R42): the sequence number is the next one to be given; of its other fields the spec gives no value, but
that states 7 to 15 are never written and reserved bits are zero (R37). (DEDUCED, log 42) -/
def snapEnd (s : State) : LogEntry where
  w0 := BitVec.ofNat 64 (s.helm.nextSeq * 2 ^ 16 + bits (s.free 30) 15 8 * 256 + s.choose 30 7 * 16 + 2)
  w1 := s.free 31 &&& 0xFFFFFFFFFFFF0000
  w2 := BitVec.ofNat 64 s.board.refclk
  w3 := s.free 32 &&& 0xFFFFFFFFFFFF000F

/-- A snapshot entry of each record still to come, while the logbook has room; then the snapshot end entry (R42). (DEDUCED, log 42) -/
def snapRun : Nat → State → State
  | 0, s => s
  | fuel + 1, s =>
    if !s.helm.snap || !helmRuns s then s
    else match s.helm.snapLeft with
      | [] =>
        let s := logWrite s (snapEnd s)
        { s with helm := { s.helm with snap := false } }
      | seq :: rest =>
        let s := { s with helm := { s.helm with snapLeft := rest } }
        match AMap.find s.records seq with
        | some r => snapRun fuel (if r.phase.final then s else logWrite s (logEntry s r r.phase r.reason r.index 1))
        | none => snapRun fuel s

/-- Inserts a number into a rising list. -/
def insertRising (x : Nat) : List Nat → List Nat
  | [] => [x]
  | y :: rest => if x ≤ y then x :: y :: rest else y :: insertRising x rest

/-- The sequence numbers of the records not in a final state, in order. -/
def liveRecords (s : State) : List Nat :=
  ((s.records.filter fun r => !r.2.phase.final).map (·.1)).foldr insertRising []

/-- A snapshot starts, unless one runs (R42). (DEDUCED, log 42) -/
def startSnap (s : State) : State :=
  if s.helm.snap then s
  else
    let l := liveRecords s
    snapRun (l.length + 1) { s with helm := { s.helm with snap := true, snapLeft := l } }

/-- SNAP (R42). -/
def execSnap (s : State) : Out := .next (startSnap s)

/-- A LOGTAIL value within LOGHEAD − 2^LOGSIZE to LOGHEAD frees slots: waiting entries are written, and reading resumes (R40,
R41). -/
def writeLogtail (s : State) (v : Word) : State :=
  let t : BitVec 32 := v.setWidth 32
  if (s.helm.logHead - t).toNat ≤ 2 ^ s.helm.logSize.toNat then
    let s := { s with helm := { s.helm with logTail := t } }
    let s := logDrain (s.helm.waiting.length + 1) s
    settle (snapRun (s.helm.snapLeft.length + 1) s)
  else s

/-- LOGTAIL_WRITE (R41). -/
def execLogtailWrite (v : Word) (s : State) : Out := .next (writeLogtail s v)

/-! ### Aborts (R39) -/

/-- Records of a GRAPH's array. -/
def childrenOf (s : State) (seq : Nat) : List Nat :=
  (s.records.filter fun r => r.2.index != 0xFFF && r.2.parent == seq && r.1 != seq).map (·.1)

/-- The records that stop with a record: itself and, for a GRAPH, what its array holds; `fuel` is the nesting. (DEDUCED, log 43) -/
def withChildren (s : State) : Nat → Nat → List Nat
  | 0, seq => [seq]
  | fuel + 1, seq => seq :: (childrenOf s seq).flatMap (withChildren s fuel)

/-- The work of a record, and of the records of its array, stops without a save (R39). (DEDUCED, log 43) -/
def abortWork (s : State) (seq : Nat) (reason : BitVec 8) : State :=
  (withChildren s 4 seq).foldl (fun s q => match AMap.find s.records q with
    | some r => if r.ending.isNone then stopRecord s q .aborted reason else s
    | none => s) s

/-- A write of the abort register (R39, R40): every record of a queue that the helm has read, or one record. (DEDUCED, log 43) -/
def writeAbort (s : State) (v : Word) : State :=
  let v := v &&& 0x8000FFFFFFFFFFFF
  let s := { s with helm := { s.helm with abortReg := v } }
  if bitAt v 63 then
    ((s.records.filter fun r => r.2.queue == v.setWidth 8).map (·.1)).foldl (fun s q => abortWork s q 0x31) s
  else abortWork s (bits v 47 0) 0x31

/-- ABORT_QUEUE (R39). -/
def execAbortQueue (queue : BitVec 8) (s : State) : Out := .next (writeAbort s (BitVec.ofNat 64 (2 ^ 63 + queue.toNat)))

/-- ABORT_RECORD (R39). -/
def execAbortRecord (seq : Nat) (s : State) : Out := .next (writeAbort s (BitVec.ofNat 64 (seq % 2 ^ 48)))

/-- The crews of a record. -/
def crewsOf (s : State) (seq : Nat) : List (Nat × Crew) := s.crews.filter fun e => e.2.record == seq

/-- Packets of the given threads are inside a server. -/
def packetsInside (s : State) (tags : List Nat) : Bool :=
  s.clusters.any fun c => c.2.images.any fun i => i.2.tags.any fun p => tags.contains p.tag

/-- Writes of a crew's cores and threads that are not yet performed. -/
def crewWritesLeft (s : State) (w : Crew) (tags : List Nat) : Bool :=
  let agents := tags.map fun t => (getThread s t).agent
  let own := fun (k : Option Nat) => match k with | some k => w.cores.contains k | none => false
  s.posted.any (fun p => w.cores.contains p.core) || s.writes.any fun x => !x.arrived && !x.initial && (own x.core || agents.contains x.agent)

/-- Every access of a crew's stopped work has been performed or discarded (R39). -/
def crewQuiet (s : State) (e : Nat × Crew) : Bool :=
  let tags := crewTags s e.1
  !packetsInside s tags && !crewWritesLeft s e.2 tags

/-- Elastic circuits that end on a core are released (R347). -/
def releaseCircuits (s : State) (k : Nat) : State :=
  let s := { s with cores := s.cores.map fun e => (e.1, { e.2 with halo := e.2.halo.filter fun h => !(h.2.bound && h.2.names k) }) }
  let c := getCore s k
  setCore s k { c with halo := [] }

/-- Threads that end outside `exit`: nothing of theirs stays on its way. -/
def forgetThread (s : State) (t : Nat) : State :=
  freeThread { s with
    messages := s.messages.filter fun m => !(m.sender == t && !m.accepted)
    spawns := s.spawns.filter fun p => p.sender != t } t

/-- No crew of the owner is left on the cluster. -/
def ownerGone (s : State) (c : Nat) (o : BitVec 12) : Bool := !(s.crews.any fun e => e.2.cluster == c && e.2.owner == o)

/-- Pending spawns of an owner whose last crew left a cluster are discarded, spilled ones too (R68). -/
def dropPending (s : State) (c : Nat) (o : BitVec 12) : State :=
  if ownerGone s c o then
    let cl := getCluster s c
    let s := setCluster s c { cl with pendingQ := cl.pendingQ.filter fun p => p.owner != o, waitingQ := cl.waitingQ.filter fun p => p.owner != o }
    let keep := fun (i : SpillItem) => match i with | .spawn p => !(p.cluster == c && p.owner == o) | .message _ => true
    pruneSpills s keep
  else s

/-- A core is idle (R58). -/
def leaveCore (s : State) (k : Nat) : State :=
  let s := releaseCircuits s k
  setCore s k { getCore s k with crew := none }

/-- A crew leaves the cores that are its own: they are idle (R58). -/
def releaseCrew (s : State) (id : Nat) (w : Crew) : State :=
  let tags := crewTags s id
  let s := forgetWaiters s (w.waits tags)
  let s := tags.foldl forgetThread s
  let s := if ownsCores s (id, w) then w.cores.foldl leaveCore s else s
  let s := { s with crews := AMap.erase s.crews id }
  dropPending s w.cluster w.owner

/-- The work of an ending record is stopped: every crew of it is, and no section or voyage of it runs. -/
def workStopped (s : State) (seq : Nat) : Bool :=
  (crewsOf s seq).all (fun e => e.2.phase == .aborting)
    && s.clusters.all fun c => (match c.2.voyage with | some v => v.record != some seq | none => true)
        && c.2.images.all fun i => i.2.launch != some seq

/-- What a stopped crew's threads and commands did happens before the record's final entry (R30). -/
def joinCrew (s : State) (seq : Nat) (e : Nat × Crew) : State :=
  let s := (crewTags s e.1).foldl (fun s t => joinEnd s seq (getThread s t).clock) s
  e.2.cores.foldl (fun s k => (getCore s k).qclk.foldl (fun s q => joinEnd s seq q.2) s) s

/-- A record has reached a final state. -/
def isFinal (s : State) (q : Nat) : Bool := match AMap.find s.records q with | some x => x.phase.final | none => true

/-- A record has neither reached a final state nor been told to stop. -/
def stillGoes (s : State) (q : Nat) : Bool := match AMap.find s.records q with | some x => !x.phase.final && x.ending.isNone | none => false

/-- ABORTED_ENTRY (R39, R106): a record whose work is stopped takes its final entry when every access of that work has been
performed or discarded; the work that a failed dependence ends is stopped first (R73). (DEDUCED, log 39) -/
def execAbortedEntry (seq : Nat) (s : State) : Out :=
  match AMap.find s.records seq with
  | none => .next s
  | some r =>
    match r.ending with
    | none => .next s
    | some (phase, reason) =>
      if !workStopped s seq then .next (stopRecord s seq phase reason)
      else if (childrenOf s seq).any (stillGoes s) then .next (abortWork s seq reason)
      else
        let cs := crewsOf s seq
        if !(childrenOf s seq).all (isFinal s) || !cs.all (crewQuiet s) then .next s
        else if !mayChange s (.record seq) then .next (holdBack s (.record seq))
        else
          let s := cs.foldl (fun s e => releaseCrew (joinCrew s seq e) e.1 e.2) s
          let s := dropRequests s fun n => match n with | .crewPlacement q _ | .spill q _ => q == seq | _ => false
          .next (moveSeq (unhold s (.record seq)) seq phase reason)

end Sys2Proof.Machine
end

