-- ==== Sys2Proof/Machine/Pilot.lean ====
section
/-! DEFINITION. The pilot's placement and the helm's admission: hint blocks (R78, R79), scores and candidates (R77, R80, R81),
reservations and producer reserves (R72, R73), admission of crews, gangs, voyages and sections (R55–R60, R70, R71), scrubbing (R49)
and retirement (R58). -/

namespace Sys2Proof.Machine

/-! ### Sorting -/

/-- Inserts by a measure, after entries of equal measure. -/
def insertBy {α : Type} (f : α → Nat) (x : α) : List α → List α
  | [] => [x]
  | y :: rest => if f x < f y then x :: y :: rest else y :: insertBy f x rest

/-- The list in rising order of a measure; entries of equal measure keep their order. -/
def sortBy {α : Type} (f : α → Nat) (l : List α) : List α := l.foldl (fun acc x => insertBy f x acc) []

/-! ### Clusters and their cores (R55, R59, R122) -/

/-- The idle cores of a cluster, in increasing number. -/
def idleCores (s : State) (c : Nat) : List Nat := (rangeFrom 96 (c * 128)).filter fun k => (getCore s k).crew.isNone

/-- The clusters of the module. -/
def allClusters : List Nat := rangeFrom 256 0

/-- Mesh hops between two clusters (R122). -/
def meshHops (a b : Nat) : Nat :=
  let d := fun (x y : Nat) => if x ≤ y then y - x else x - y
  d (a % 8) (b % 8) + d (a % 32 / 8) (b % 32 / 8) + (if a / 32 = b / 32 then 0 else 16)

/-- The cluster has been held by a different owner since its last scrub (R59). -/
def needsScrub (s : State) (c : Nat) (o : BitVec 12) : Bool :=
  match (getCluster s c).lastOwner with
  | some l => l != o
  | none => false

/-- Held by no owner other than `o`. -/
def freeFor (s : State) (c : Nat) (o : BitVec 12) : Bool :=
  match holder s c with
  | some h => h == o
  | none => true

/-! ### Hint blocks (R78, R79) -/

def hintPolicy (h : Words8) : Nat := bits h.w0 63 62
def hintMask (h : Words8) : Nat := bits h.w0 61 54
def hintPin (h : Words8) : Nat := bits h.w0 53 46
def hintTier (h : Words8) : Nat := bits h.w0 45 44
def hintRanges (h : Words8) : Nat := bits h.w0 43 42

/-- Start, weight and length of the ranges in use. -/
def hintRangeList (h : Words8) : List (Word × Nat × Nat) :=
  [(h.w2, bits h.w3 63 56, bits h.w3 31 0), (h.w4, bits h.w5 63 56, bits h.w5 31 0), (h.w6, bits h.w7 63 56, bits h.w7 31 0)].take (hintRanges h)

/-- The hint allows a die. -/
def dieAllowed (h : Words8) (die : Nat) : Bool := hintMask h == 0 || (hintMask h).testBit die

/-- The block is disregarded (R79). Of the words of a range beyond the number used, the reserved bits are checked and the start is not;
a start whose bits [15:0] are not zero is not named among the reasons, and is taken as it stands. (DESIGN CHOICE, log 84) -/
def hintIsBad (h : Words8) : Bool :=
  bits h.w0 41 0 != 0 || h.w1 != 0 || bits h.w3 55 32 != 0 || bits h.w5 55 32 != 0 || bits h.w7 55 32 != 0 || hintTier h == 3
    || (hintRangeList h).any (fun r => bits r.1 63 55 != 0)
    || (hintPolicy h == 3 && !dieAllowed h (hintPin h / 32))

/-- The hint of a record; zero before it is read. -/
def RecordState.hint (r : RecordState) : Words8 := r.hintRead.getD {}

def putRecord (s : State) (r : RecordState) : State := { s with records := AMap.set s.records r.seqNo r }

/-- The launch has no hint block that is still to be read, or what happens before that read is home (R224). -/
def hintHome (s : State) (r : RecordState) : Bool := r.hintRead.isSome || r.words.w7 == 0 || allHome s (pilotClock s)

/-- The pilot reads the hint block once, when it first places a unit of the launch (R79). -/
def readHint (s : State) (r : RecordState) : State × RecordState :=
  if r.hintRead.isSome then (s, r)
  else
    let got : Option Words8 := if r.words.w7 = 0 then some {} else tableRecord s r.owner r.words.w7
    let bad := match got with | some h => hintIsBad h | none => true
    let r := { r with hintRead := some (if bad then {} else got.getD {}) }
    let s := if bad then { s with helm := { s.helm with hintBad := true } } else s
    let s := if got.isNone then reportWalk s r.owner r.words.w7 else s
    (putRecord s r, r)

/-! ### Scores (R77) -/

/-- Pages of a range whose home slices are on a die. -/
def pagesOn (s : State) (o : BitVec 12) (die : Nat) : Nat → Word → Nat
  | 0, _ => 0
  | n + 1, va =>
    let big := match walk s (getOwner s o).root va with | .leaf _ b => b | _ => false
    (if homeDie va big = die then 1 else 0) + pagesOn s o die n (va + 0x10000)

/-- A(c) (R77): exact before the floor; an empty range has no line anywhere. -/
def affinity (s : State) (o : BitVec 12) (h : Words8) (die : Nat) : Nat :=
  let rs := hintRangeList h
  let total := (rs.map fun r => r.2.1).sum
  let scale := rs.foldl (fun a r => a * (if r.2.2 = 0 then 1 else r.2.2)) 1
  if total = 0 then 0
  else
    let num := (rs.map fun r => if r.2.2 = 0 then 0 else r.2.1 * pagesOn s o die r.2.2 r.1 * (scale / r.2.2)).sum
    255 * num / (scale * total)

/-- The part of the score that does not depend on occupancy. -/
def baseScore (s : State) (o : BitVec 12) (h : Words8) (c : Nat) : Nat :=
  256 * affinity s o h (c / 32) + (if needsScrub s c o then 0 else 128)

/-- A measure that falls as the score rises: σ is +1 for policy pack, −1 otherwise; `used` is U(c). -/
def scoreKey (s : State) (o : BitVec 12) (h : Words8) (pack : Bool) (c used : Nat) : Nat :=
  if pack then 2 ^ 20 - baseScore s o h c - used else 2 ^ 20 - baseScore s o h c + used

/-! ### Reservations (R72, R73) -/

/-- Clusters that hold `u` crews of `C` cores; one for a launch of another kind. -/
def reserveSize (cores u : Nat) : Nat := if cores = 0 then 1 else (u + 96 / cores - 1) / (96 / cores)

/-- The `n` clusters of highest score, ignoring occupancy (R72); a pin, of which R72 says nothing, does not bind the choice.
(DESIGN CHOICE, log 84) -/
def bestClusters (s : State) (r : RecordState) (n : Nat) : List Nat :=
  (sortBy (fun c => scoreKey s r.owner r.hint false c 0) (allClusters.filter fun c => dieAllowed r.hint (c / 32))).take n

/-- Cores of a crew of the launch; 0 for a STREAM or VOYAGE. -/
def RecordState.cores (r : RecordState) : Nat := if r.kind ≤ 1 then crewCores r.words else 0

/-- Pre-empted crews of a record. -/
def savedCrews (s : State) (seq : Nat) : Nat := (s.crews.filter fun e => e.2.record == seq && e.2.phase == .saved).length

/-- Units of a launch that are not placed (R72). -/
def unplaced (r : RecordState) : Nat :=
  if r.phase.final || r.ending.isSome then 0
  else if r.kind ≤ 1 then r.crewsLeft
  else if r.phase == .accepted then 1 else 0

/-- Units of a producer for which a reserve is kept: its pre-empted crews count as unplaced (R73). -/
def unplacedProducer (s : State) (p : RecordState) : Nat :=
  unplaced p + (if p.phase.final || p.ending.isSome then 0 else savedCrews s p.seqNo)

/-- The producer of a consuming record (R73). (DEDUCED, log 52) -/
def producerOf (s : State) (r : RecordState) : Option RecordState := if r.consumes then depOf s r r.depA else none

/-- A cluster is withheld from a unit of the record by a reservation or by its producer's reserve. (DEDUCED, log 52) -/
def withheld (s : State) (r : RecordState) (c : Nat) : Bool :=
  s.reserves.any (fun v => v.record != r.seqNo && v.clusters.contains c && (match AMap.find s.records v.record with
    | some q => decide (r.prio.toNat ≤ q.prio.toNat)
    | none => false))
  || match producerOf s r with
    | some p => 0 < unplacedProducer s p && (bestClusters s p (reserveSize p.cores (unplacedProducer s p))).contains c
    | none => false

/-! ### Candidates (R77, R81) -/

/-- The image of a STREAM launch is being loaded on the cluster. -/
def sectionLoads (s : State) (c seq : Nat) : Bool := (getCluster s c).loads.any fun l => l.record == some seq

/-- Another record has decided for the cluster and waits for its scrub or its first read, or, where the record is a STREAM launch too, for
its image. -/
def chosenByOther (s : State) (r : RecordState) (c : Nat) : Bool :=
  s.records.any fun q => q.1 != r.seqNo && q.2.chosen.contains c && !q.2.phase.final && q.2.ending.isNone
    && (r.kind == 3 || !sectionLoads s c q.1)

/-- Crews leave the cluster for a unit of another record, which takes their place (R74). -/
def clearedForOther (s : State) (r : RecordState) (c : Nat) : Bool :=
  s.preempting.any fun p => p.record != r.seqNo && p.places.contains c

/-- The cluster can take a unit of the record, apart from its cores. -/
def openTo (s : State) (r : RecordState) (c : Nat) : Bool :=
  freeFor s c r.owner && dieAllowed r.hint (c / 32) && !withheld s r c && !(getCluster s c).scrubbing && !chosenByOther s r c
    && !clearedForOther s r c
    && (hintPolicy r.hint != 3 || hintPin r.hint == c)

/-- Crews of the launch already placed on the die of a cluster (policy spread). -/
def placedOnDie (s : State) (r : RecordState) (c : Nat) : Nat :=
  (s.crews.filter fun e => e.2.record == r.seqNo && e.2.cluster / 32 == c / 32).length

/-- Cores assigned on a cluster. -/
def usedCores (s : State) (c : Nat) : Nat := 96 - (idleCores s c).length

/-- The measure of a candidate for a crew (R77). -/
def crewKey (s : State) (r : RecordState) (c : Nat) : Nat :=
  (if hintPolicy r.hint = 2 then placedOnDie s r c * 2 ^ 24 else 0) + scoreKey s r.owner r.hint (hintPolicy r.hint == 1) c (usedCores s c)

/-- Candidates for a crew of the record. -/
def crewCandidates (s : State) (r : RecordState) : List Nat :=
  allClusters.filter fun c => decide (r.cores ≤ (idleCores s c).length) && openTo s r c

/-- The cluster for the next crew of a CREW launch. -/
def crewPlace (s : State) (r : RecordState) : Option Nat := leastBy (crewKey s r) (crewCandidates s r)

/-- Idle cores left when crews of a gang have taken theirs. -/
def gangRoom (s : State) (r : RecordState) (taken : List Nat) (c : Nat) : Nat :=
  (idleCores s c).length - r.cores * (taken.filter fun x => x == c).length

/-- The measure of a candidate for a later crew of a gang (R80). -/
def gangKey (s : State) (r : RecordState) (taken : List Nat) (first c : Nat) : Nat :=
  (if c / 32 = first / 32 then 0 else 2 ^ 40) + meshHops first c * 2 ^ 30
    + scoreKey s r.owner r.hint (hintPolicy r.hint == 1) c (96 - gangRoom s r taken c)

/-- Clusters for `n` more crews of a gang (R80). -/
def gangPlaces (s : State) (r : RecordState) : Nat → List Nat → Option (List Nat)
  | 0, taken => some taken
  | n + 1, taken =>
    let open_ := allClusters.filter fun c => decide (r.cores ≤ gangRoom s r taken c) && openTo s r c
    let best := match taken with
      | [] => leastBy (crewKey s r) open_
      | first :: _ => leastBy (gangKey s r taken first) open_
    match best with
    | some c => gangPlaces s r n (taken ++ [c])
    | none => none

/-- What stands for a crew of a gang whose answer deferred: no cluster. -/
def deferredCluster : Nat := 256

/-- Clusters for the `n` crews of a gang that the host named all fit together (R85). -/
def namedFit (s : State) (r : RecordState) (l : List Nat) : Bool :=
  !(l.contains deferredCluster) && l.all fun c => openTo s r c && decide (r.cores * (l.filter fun x => x == c).length ≤ (idleCores s c).length)

/-- Fabric pages of a cluster that are not free. -/
def usedFabric (s : State) (c : Nat) : Nat :=
  ((rangeFrom 12 0).map fun v => ((rangeFrom 8 0).filter fun p => !(freeMap (getCluster s c) v).testBit p).length).sum

/-- The cluster has a rectangle for a stream image (R81, R201) when every quiescent image and those in `gone` are away. An image that
cannot be read fails where it is loaded. (DEDUCED, log 52) -/
def canHouseWithout (s : State) (c : Nat) (o : BitVec 12) (fid : BitVec 12) (gone : List Nat) : Bool :=
  match readImage s c o (pilotClock s) fid with
  | .inr _ => true
  | .inl r =>
    let cl := getCluster s c
    let stay := if needsScrub s c o then [] else cl.images.filter fun e => e.2.busy cl && !gone.contains e.1
    !(placements { cl with images := stay } r.wide r.high r.twin).isEmpty

/-- The cluster has, or can make, a rectangle for a stream image (R81, R201). (DEDUCED, log 52) -/
def canHouse (s : State) (c : Nat) (o : BitVec 12) (fid : BitVec 12) : Bool := canHouseWithout s c o fid []

/-- The cluster for a STREAM or VOYAGE launch (R81). -/
def sitePlace (s : State) (r : RecordState) : Option Nat :=
  let stream := r.kind = 3
  let ok := fun (c : Nat) => openTo s r c
    && (if stream then canHouse s c r.owner (r.words.w2.extractLsb' 52 12) else !voyageTaken s c)
  leastBy (fun c => scoreKey s r.owner r.hint false c (if stream then usedFabric s c else usedCores s c)) (allClusters.filter ok)

/-! ### The order of admission (R71, R75) -/

/-- The helm considers the next unit of the record. -/
def considered (s : State) (r : RecordState) : Bool :=
  r.ending.isNone && decide (r.kind ≤ 3)
    && (startable s r || (r.kind == 0 && 0 < r.crewsLeft && (r.phase == .admitted || r.phase == .running)))

/-- Crew placement is host-assisted for the record (R43 bit 0). -/
def hostPlaced (s : State) (r : RecordState) : Bool := decide (r.kind ≤ 1) && (getOwner s r.owner).modes.getLsbD 0

/-- A placement of the next unit is possible now. -/
def placeable (s : State) (r : RecordState) : Bool :=
  let r := (readHint s r).2
  considered s r && r.chosen.isEmpty && !hostPlaced s r
    && (match r.kind with
      | 0 => (crewPlace s r).isSome
      | 1 => (gangPlaces s r (crewCount r.words) []).isSome
      | _ => (sitePlace s r).isSome)

/-- Queue priority, then sequence number. -/
def goesBefore (q r : RecordState) : Bool := decide (r.prio.toNat < q.prio.toNat) || (q.prio == r.prio && decide (q.seqNo < r.seqNo))

/-- The crews that resume with a saved crew: all of its gang, or itself (R60). -/
def resumeGroup (s : State) (id : Nat) (w : Crew) : List (Nat × Crew) :=
  if w.gang then s.crews.filter fun e => e.2.record == w.record && e.2.phase == .saved else [(id, w)]

/-- The crews of a group can take their cores again (R75). -/
def groupFits (s : State) (g : List (Nat × Crew)) : Bool :=
  g.all fun e => freeFor s e.2.cluster e.2.owner && e.2.cores.all fun k => (getCore s k).crew.isNone

/-- A saved crew that goes ahead of the record's next unit can resume (R75). -/
def resumeFirst (s : State) (r : RecordState) : Bool :=
  s.crews.any fun e => e.2.phase == .saved && (e.2.record == r.seqNo || decide (r.prio.toNat ≤ e.2.prio.toNat)) && groupFits s (resumeGroup s e.1 e.2)

/-- It is the turn of the record's next unit: nothing that goes before it can be placed. -/
def itsTurn (s : State) (r : RecordState) : Bool :=
  !resumeFirst s r && s.records.all fun q => !(goesBefore q.2 r) || !(placeable s q.2)

/-! ### Admission of a crew (R55–R57) -/

/-- A core as admission leaves it (R57): shared registers, banks, queues and response stream as at reset, the cache invalid. What other
cores' threads wait for at its scratchpad stays (R129). -/
def freshCore (k : CoreState) (crew : Nat) : CoreState := { crew := some crew, clk := k.clk, ptr := k.ptr, waiters := k.waiters }

/-- The launch thread of a crew with a thread index (R56). -/
def launchThread (s : State) (id : Nat) (clk : Clock) (w : Words8) (crewIndex index tag : Nat) : ThreadState :=
  { live := true, crew := id, launch := true, index := index,
    x := [(4, BitVec.ofNat 64 index), (5, BitVec.ofNat 64 crewIndex), (6, w.w4)],
    pc := w.w2, tvec := w.w5, thid := BitVec.ofNat 64 tag, crix := BitVec.ofNat 64 crewIndex,
    agent := s.nextAgent + index, clock := clk }

/-- Launch threads of a crew with their tags: core index × T + slot (R55). -/
def crewThreadList (cores : List Nat) (t : Nat) : List (Nat × Nat) :=
  ((rangeFrom cores.length 0).zip cores).flatMap fun e => (rangeFrom t 0).map fun i => (e.1 * t + i, coreTag e.2 i)

/-- The next crew of a record is admitted on a cluster. -/
def admitCrew (s : State) (r : RecordState) (c : Nat) : State :=
  let cores := (idleCores s c).take r.cores
  let id := s.nextCrew
  let t := crewThreads r.words
  let w : Crew :=
    { record := r.seqNo, index := r.nextCrew, owner := r.owner, prio := r.prio, gang := r.kind == 1, cluster := c, cores := cores, threads := t, spillVa := r.words.w6, spillDecl := bits r.words.w3 31 16, spillCur := bits r.words.w3 31 16, spilled := [], spillWr := 0, spillRd := 0, phase := .running, issued := false, event0A := none, event0B := none, save := none }
  let ts := crewThreadList cores t
  let s1 := cores.foldl (fun s k => setCore s k (freshCore (getCore s k) id)) s
  let s2 := ts.foldl (fun x e => enlist (setThread x e.2 (launchThread s id r.clk r.words r.nextCrew e.1 e.2)) (s.nextAgent + e.1) r.seqNo) s1
  let s3 := { s2 with
    crews := AMap.set s2.crews id w
    nextCrew := id + 1
    nextAgent := s.nextAgent + ts.length
    preempting := s2.preempting.filter fun p => p.record != r.seqNo }
  setCluster s3 c { getCluster s3 c with lastOwner := some r.owner }

/-- A reservation shrinks as the units of its launch are admitted, and ends when none remains (R72). -/
def shrinkReserve (s : State) (r : RecordState) : State :=
  let n := unplaced r
  { s with reserves := (s.reserves.map fun v =>
      if v.record == r.seqNo then { v with clusters := v.clusters.take (reserveSize r.cores n) } else v).filter fun v => !(v.record == r.seqNo && n == 0) }

/-- One crew of the record is admitted on each of the clusters, in order; the first makes the record admitted (R38). -/
def admitCrews (s : State) (r : RecordState) : List Nat → State
  | [] => s
  | c :: rest =>
    let s := admitCrew s r c
    let r := { r with nextCrew := r.nextCrew + 1, crewsLeft := r.crewsLeft - 1, refusedAt := none, chosen := [], named := [], deferredAt := none }
    let s := putRecord s r
    let s := shrinkReserve s r
    if r.phase == .accepted then
      let s := moveRecord s r .admitted 0 r.index
      admitCrews s { r with phase := .admitted, entered := true } rest
    else admitCrews s r rest

/-- Clusters that need a scrub for the owner start it (R49, R59). (DEDUCED, log 78) -/
def startScrubs (s : State) (o : BitVec 12) (cs : List Nat) : State :=
  cs.foldl (fun s c => if needsScrub s c o then setCluster s c { getCluster s c with scrubbing := true } else s) s

/-- The crews go to the clusters decided for them, once those are scrubbed. -/
def settleCrews (s : State) (r : RecordState) (cs : List Nat) : State :=
  if cs.any fun c => needsScrub s c r.owner then putRecord (startScrubs s r.owner cs) { r with chosen := cs }
  else settle (admitCrews s r cs)

/-- The next unit is refused: the count of R72 and R74 starts. -/
def refuse (s : State) (r : RecordState) : State :=
  if r.refusedAt.isSome then putRecord s r else putRecord s { r with refusedAt := some s.board.refclk }

/-- Every cluster decided for the record has ended its scrub. -/
def scrubbed (s : State) (r : RecordState) : Bool := r.chosen.all fun c => !(getCluster s c).scrubbing && !needsScrub s c r.owner

/-! ### Host-assisted crew placement (R85) -/

/-- The free capacity of the module, as a number that changes with it. -/
def capacity (s : State) : Nat := allClusters.foldl (fun a c => a * 97 + (idleCores s c).length) 0

/-- The candidate map of a request (R85). -/
def candidateMap (s : State) (r : RecordState) : Nat := (crewCandidates s r).foldl (fun a c => a + 2 ^ c) 0

/-- The request for one crew. -/
def crewRequest (s : State) (r : RecordState) (crew : Nat) : State :=
  let m := candidateMap s r
  let body := words8Of [0, BitVec.ofNat 64 (r.seqNo * 2 ^ 16), BitVec.ofNat 64 (crew * 2 ^ 44 + crewCores r.words * 2 ^ 37 + crewThreads r.words % 32 * 2 ^ 32),
    BitVec.ofNat 64 m, BitVec.ofNat 64 (m / 2 ^ 64), BitVec.ofNat 64 (m / 2 ^ 128), BitVec.ofNat 64 (m / 2 ^ 192)]
  postRequest s 0 r.owner (.crewPlacement r.seqNo crew) body

/-- Crews of the record that have neither an answer nor a standing request: the next one, or all of a gang. (DEDUCED, log 53) -/
def askCrews (s : State) (r : RecordState) : List Nat :=
  let all := if r.kind = 1 then rangeFrom (crewCount r.words) 0 else [r.nextCrew]
  all.filter fun i => (AMap.find r.named i).isNone && !requested s fun n => n == .crewPlacement r.seqNo i

/-- Requests are posted for the crews that need one, unless the host deferred and no capacity has changed. (DEDUCED, log 53) -/
def askHost (s : State) (r : RecordState) : State :=
  if r.deferredAt = some (capacity s) then s else (askCrews s r).foldl (fun s i => crewRequest s r i) (putRecord s { r with deferredAt := none })

/-- What the host named is acted on when it is complete and the unit's turn has come (R71, R85): admission, or fresh requests. An answer
whose clusters do not take the unit is no refusal in the sense of R72 and R74. (DEDUCED, log 53) (DESIGN CHOICE, log 86) -/
def useNamed (s : State) (r : RecordState) : State :=
  let all := if r.kind = 1 then rangeFrom (crewCount r.words) 0 else [r.nextCrew]
  let cs := all.filterMap fun i => AMap.find r.named i
  if cs.length < all.length then s
  else if !(considered s r && helmRuns s && poweredUp s && itsTurn s r) then s
  else if namedFit s r cs then settleCrews s r cs
  else putRecord s { r with named := [], deferredAt := if r.kind = 1 ∧ !(cs.contains deferredCluster) then none else some (capacity s) }

/-- A unit that the host places: it is refused while no cluster is a candidate, so that R72 and R74 count for it (R85), and only then.
(DESIGN CHOICE, log 86) -/
def hostUnit (s : State) (r : RecordState) (candidate : Bool) : State :=
  let s := if candidate then s else refuse s r
  let r := if candidate || r.refusedAt.isSome then r else { r with refusedAt := some s.board.refclk }
  if r.named.isEmpty then askHost s r
  else
    let s2 := useNamed s r
    if s2 = s then askHost s r else s2

/-! ### CREW_ADMIT and GANG_ADMIT -/

/-- The clusters decided for the crews still have room for them, and no other owner. -/
def chosenHolds (s : State) (r : RecordState) : Bool :=
  r.chosen.all fun c => freeFor s c r.owner && decide (r.cores * (r.chosen.filter fun x => x == c).length ≤ (idleCores s c).length)

/-- Crews, a voyage or a section still leave the clusters decided for the record (R74). -/
def stillLeaving (s : State) (r : RecordState) : Bool :=
  s.preempting.any fun p => p.record == r.seqNo && !(chosenHolds s r)

/-- The crews go to the clusters decided for them: once those that leave are saved, and the clusters are scrubbed. A decision that no
longer holds is given up. -/
def admitChosen (s : State) (r : RecordState) : State :=
  if chosenHolds s r then
    if scrubbed s r then settle (admitCrews s r r.chosen) else startScrubs s r.owner r.chosen
  else if stillLeaving s r then s
  else putRecord s { r with chosen := [] }

/-- The common part of admitting crews: `kind` 0 or 1, and the device's own choice of clusters. -/
def admitUnits (s : State) (seq kind : Nat) (place : State → RecordState → Option (List Nat)) : Out :=
  match AMap.find s.records seq with
  | none => .next s
  | some r0 =>
    if !(r0.kind == kind && considered s r0 && helmRuns s && poweredUp s && hintHome s r0) then .next s
    else
      let (s1, r) := readHint s r0
      if !r.chosen.isEmpty then .next (admitChosen s1 r)
      else if !itsTurn s1 r then .next s1
      else if hostPlaced s1 r then .next (hostUnit s1 r (place s1 r).isSome)
      else match place s1 r with
        | some cs => .next (settleCrews s1 r cs)
        | none => .next (refuse s1 r)

/-- CREW_ADMIT (R55, R71, R77): the next crew of a CREW launch. -/
def execCrewAdmit (seq : Nat) (s : State) : Out := admitUnits s seq 0 fun s r => (crewPlace s r).map fun c => [c]

/-- GANG_ADMIT (R60, R80): all crews of a gang, or none. -/
def execGangAdmit (seq : Nat) (s : State) : Out := admitUnits s seq 1 fun s r => gangPlaces s r (crewCount r.words) []

/-! ### STREAM_ADMIT and VOYAGE_ADMIT (R70, R81, R206) -/

/-- A STREAM or VOYAGE launch is decided for a cluster, and is admitted once that is scrubbed. -/
def chooseSite (s : State) (r : RecordState) (c : Nat) : State :=
  if needsScrub s c r.owner then putRecord (startScrubs s r.owner [c]) { r with chosen := [c] } else putRecord s { r with chosen := [c] }

/-- The site of a launch, decided now or before, when it is scrubbed; or the state in which it still waits. -/
def siteOf (s : State) (seq kind : Nat) : Sum State (State × RecordState × Nat) :=
  match AMap.find s.records seq with
  | none => .inl s
  | some r0 =>
    let reading := kind = 2 ∧ r0.phase = .admitted ∧ r0.chosen ≠ []
    if !(r0.kind == kind && r0.ending.isNone && (considered s r0 || decide reading) && helmRuns s && poweredUp s && hintHome s r0) then .inl s
    else
      let (s1, r) := readHint s r0
      match r.chosen with
      | c :: _ =>
        if !(freeFor s1 c r.owner) then .inl s1
        else if scrubbed s1 r then .inr (s1, r, c)
        else .inl (startScrubs s1 r.owner r.chosen)
      | [] =>
        if !itsTurn s1 r then .inl s1
        else match sitePlace s1 r with
          | none => .inl (refuse s1 r)
          | some c =>
            let s2 := chooseSite s1 r c
            let r2 := { r with chosen := [c] }
            if scrubbed s2 r2 then .inr (s2, r2, c) else .inl s2

/-- The record is admitted on its cluster, which its owner holds from now on. -/
def admitSite (s : State) (r : RecordState) (c : Nat) : State × RecordState :=
  let s := setCluster s c { getCluster s c with lastOwner := some r.owner }
  if r.phase == .accepted then
    let r := { r with refusedAt := none }
    let s := moveRecord s r .admitted 0 r.index
    let r := { r with phase := .admitted, entered := true }
    (shrinkReserve { s with preempting := s.preempting.filter fun p => p.record != r.seqNo } r, r)
  else (s, r)

/-- STREAM_ADMIT (R70, R206): a cluster is chosen for the launch, and its image's load begins there; the launch is admitted when the
image is placed. (DEDUCED, log 54) -/
def execStreamAdmit (seq : Nat) (s : State) : Out :=
  match siteOf s seq 3 with
  | .inl s' => .next s'
  | .inr (s1, r, c) =>
    let cl := getCluster s1 c
    if cl.loads.any fun l => l.record == some seq then .next s1
    else
      let s2 := putRecord s1 { r with chosen := [c], refusedAt := none }
      let l := newLoad s2 (r.words.w2.extractLsb' 52 12) (some seq)
      .next (setCluster s2 c { cl with lastOwner := some r.owner, loads := cl.loads ++ [l] })

/-- The launch's voyage fails before it begins (R38 reason 0x24, or 0x22 for poisoned data). (DEDUCED, log 54) -/
def failSite (s : State) (r : RecordState) (reason : BitVec 8) : State := moveSeq (putRecord s { r with chosen := [] }) r.seqNo .faulted reason

/-- VOYAGE_ADMIT (R70, R150): the launch is placed on a cluster, its descriptor is read and checked, and its voyage begins; while
another voyage is active there it waits. -/
def execVoyageAdmit (seq : Nat) (s : State) : Out :=
  match siteOf s seq 2 with
  | .inl s' => .next s'
  | .inr (s1, r, c) =>
    if voyageTaken s1 c then .next s1 else
    let (s2, r) := admitSite s1 r c
    let va := r.words.w2
    let clk := r.clk
    match engineWords s2 c none r.owner clk .both 8 va [] false with
    | .wait => .next s2
    | .missing m =>
      if alreadyWaits s2 (clusterDie c) (pageOf m) (.launch c seq) then .next s2
      else .next (startWalk s2 (clusterDie c) r.owner { who := .launch c seq, va := m, kind := 9 })
    | .denied _ => if mayChange s2 (.record seq) then .next (failSite (unhold s2 (.record seq)) r 0x24) else .next (holdBack s2 (.record seq))
    | .got bs bad =>
      if !mayChange s2 (.record seq) then .next (holdBack s2 (.record seq)) else
      let s2 := unhold s2 (.record seq)
      if bad then .next (failSite s2 r 0x22)
      else
        let d := words8Of (wordsOf 8 bs)
        match descError d va with
        | 0 =>
          let v := newVoyage s2 va d r.owner (some seq) none none 0 clk
          .next (settle (beginVoyage (enlist (putRecord s2 { r with chosen := [] }) v.agent seq) c v))
        | e =>
          let s3 := ringWrite8 s2 c r.owner s2.nextAgent clk (va + 40) (bytesOf 8 (statusWord 0 0 e false false false false false).toNat)
          .next (failSite { s3 with nextAgent := s3.nextAgent + 1 } r 0x24)

/-! ### Scrub (R49) -/

/-- A location of a cluster's scratchpads, memory cells or chart memory. -/
def inCluster (c k : Nat) : Bool :=
  (padKey (c * 128) 0 ≤ k && k < padKey ((c + 1) * 128) 0) || (cellKey c 0 0 0 ≤ k && k < cellKey (c + 1) 0 0 0)
    || (chartKey c 0 ≤ k && k < chartKey (c + 1) 0) || (controlKey c 0 ≤ k && k < controlKey (c + 1) 0)

/-- The stretches that `inCluster` names. -/
def clusterRanges (c : Nat) : List (Nat × Nat) :=
  [(padKey (c * 128) 0, padKey ((c + 1) * 128) 0), (cellKey c 0 0 0, cellKey (c + 1) 0 0 0), (chartKey c 0, chartKey (c + 1) 0),
    (controlKey c 0, controlKey (c + 1) 0)].map fun r => (r.1, r.2 - r.1)

/-- A scrubbed cluster: SRAM zero, full/empty bits empty, dirty bytes of its cache gone, control state and images cleared, server
arbitration at core 0. Spawns that wait in the network for a pre-empted crew still wait (R75). (DEDUCED, log 78) -/
def scrubCluster (s : State) (c : Nat) : State :=
  let cl := getCluster s c
  let s := { s with
    mem := s.mem.filter fun x => !inCluster c x.1
    full := s.full.filter fun k => !inCluster c k
    poison := s.poison.filter fun k => !inCluster c k
    loose := (clusterRanges c).foldl (fun l r => cutRange l r.1 r.2) s.loose
    wrote := (clusterRanges c).foldl (fun l r => cutWrote l r.1 r.2) s.wrote
    homeRel := s.homeRel.filter fun e => !inCluster c e.1
    fillClk := s.fillClk.filter fun e => !inCluster c e.1
    writes := s.writes.filter fun w => w.arrived || w.initial || w.cluster != c
    cores := s.cores.map fun e => if coreCluster e.1 == c then (e.1, { e.2 with banks := [], icache := [] }) else e }
  setCluster s c
    { lastOwner := none
      servers := cl.servers.map fun e => (e.1, { e.2 with lastCore := 95 })
      l1 := cl.l1
      waitingQ := cl.waitingQ
      spill := cl.spill
      spillClk := cl.spillClk
      spillTried := cl.spillTried }

/-- CLUSTER_SCRUB (R49): the scrub of a cluster ends. (DEDUCED, log 78) -/
def execClusterScrub (cluster : Nat) (s : State) : Out :=
  if (getCluster s cluster).scrubbing then .next (scrubCluster s cluster) else .next s

/-! ### RESERVATION (R72) -/

/-- The next unit has been refused for longer than a time in µs; a time of 0 has passed at the first refusal (R72, R76). -/
def refusedFor (s : State) (r : RecordState) (us : Nat) : Bool :=
  match r.refusedAt with
  | some t => us == 0 || decide (t + us * 100 < s.board.refclk)
  | none => false

/-- RESERVATION (R72). -/
def execReservation (seq : Nat) (s : State) : Out :=
  match AMap.find s.records seq with
  | none => .next s
  | some r =>
    if considered s r && refusedFor s r s.helm.hage.toNat && !(s.reserves.any fun v => v.record == seq) && 0 < unplaced r then
      .next { s with reserves := s.reserves ++ [{ record := seq, clusters := bestClusters s r (reserveSize r.cores (unplaced r)) }] }
    else .next s

/-! ### CREW_RETIRE (R58) -/

/-- The crew's work is done: no thread of it lives, nothing of it waits to be delivered, and no voyage of it goes on. -/
def crewDone (s : State) (id : Nat) (w : Crew) : Bool :=
  w.phase == .running && (crewTags s id).isEmpty && !spillWaits s id && !voyageOfCrew s id

/-- CREW_RETIRE (R58, R68): the cores become idle, and the last crew completes its launch. -/
def execCrewRetire (crew : Nat) (s : State) : Out :=
  match getCrew s crew with
  | none => .next s
  | some w =>
    if crewDone s crew w && !mayChange s (.retire crew) then .next (holdBack s (.retire crew))
    else if crewDone s crew w then
      let s := unhold s (.retire crew)
      let s := w.cores.foldl (fun s k => (getCore s k).qclk.foldl (fun s e => joinEnd s w.record e.2) s) s
      let s := releaseCrew s crew w
      match AMap.find s.records w.record with
      | none => .next s
      | some r =>
        if r.crewsLeft = 0 ∧ (crewsOf s w.record).isEmpty = true then .next (moveSeq s w.record .completed 0) else .next s
    else .next s

end Sys2Proof.Machine
end

