-- ==== Sys2Proof/Machine/Preempt.lean ====
section
/-! DEFINITION. Pre-emption of crews, saves and resumption (R74, R75, R111–R114), tier migration (R83, R84, R86), and the host's
answers (R44, R85, R86, R110, R119, R204). -/

namespace Sys2Proof.Machine

/-! ### The save pool (R112, R113, R116, R168) -/

/-- Units of the pool in use or promised to crews that are being saved. -/
def poolUsed (s : State) : Nat :=
  ((s.crews.filter fun e => e.2.phase == .saved || e.2.phase == .stopping).map fun e => crewUnits e.2.cores.length).sum
    + s.vsaves.length * voyageUnits + (s.frozen.map fun f => frozenUnits f.image).sum
    + ((s.clusters.filter fun c => match c.2.voyage with | some v => v.stopping | none => false).length) * voyageUnits

/-! ### Victims (R74) -/

/-- The crew's launch is the producer that the record consumes from. -/
def producerCrew (s : State) (r : RecordState) (w : Crew) : Bool :=
  match producerOf s r with
  | some p => w.record == p.seqNo
  | none => false

/-- A crew that may be pre-empted to place a unit of the record: of a lower priority, with its whole gang. -/
def victim (s : State) (r : RecordState) (w : Crew) : Bool :=
  w.phase == .running && decide (w.prio.toNat < r.prio.toNat) && !producerCrew s r w

/-- Lowest priority first, then highest sequence number, then highest crew index. -/
def victimKey (w : Crew) : Nat := w.prio.toNat * 2 ^ 80 + (2 ^ 48 - w.record) * 2 ^ 24 + (2 ^ 21 - w.index)

/-- A record of lower priority than the unit's. -/
def lowerRecord (s : State) (r : RecordState) (seq : Nat) : Bool :=
  match AMap.find s.records seq with
  | some q => decide (q.prio.toNat < r.prio.toNat) && (match producerOf s r with | some p => p.seqNo != seq | none => true)
  | none => false

/-- The voyage and the sections of a cluster let a unit of the record in, once the crews in `gone` are away: those of another
owner can be pre-empted. -/
def othersYield (s : State) (r : RecordState) (c : Nat) (gone : List Nat) : Bool :=
  let cl := getCluster s c
  let launch := fun (seq : Nat) => match AMap.find s.records seq with | some q => q.owner == r.owner || lowerRecord s r seq | none => true
  (match cl.voyage with
    | some v => v.owner == r.owner || (match v.crew, v.record with
        | some w, _ => gone.contains w
        | none, some seq => lowerRecord s r seq
        | none, none => false)
    | none => true)
    && cl.images.all (fun i => match i.2.launch with | some seq => launch seq | none => true)
    && cl.loads.all fun l => match l.record with
      | some seq => (match AMap.find s.records seq with | some q => q.owner == r.owner | none => true)
      | none => true

/-- Stream sections of a cluster in the order in which they are pre-empted: lowest priority first, then highest sequence number. -/
def sectionKey (s : State) (e : Nat × Image) : Nat :=
  match e.2.launch with
  | some q => (match AMap.find s.records q with | some r => r.prio.toNat | none => 0) * 2 ^ 60 + (2 ^ 48 - q)
  | none => 0

/-- The section is one of another owner's launch. -/
def otherSection (s : State) (r : RecordState) (e : Nat × Image) : Bool :=
  match e.2.launch with
  | some q => (match AMap.find s.records q with | some x => x.owner != r.owner | none => false)
  | none => false

/-- The sections that must be frozen for a unit of the record (R54, R74): those of another owner, and for a STREAM launch as many of its
own owner's of lower priority as hold the fabric pages it needs; none where that is not enough. (DEDUCED, log 55) -/
def sectionsOut (s : State) (r : RecordState) (c : Nat) : Option (List Nat) :=
  let live := (getCluster s c).images.filter fun e => e.2.launch.isSome
  let low := fun (e : Nat × Image) => match e.2.launch with | some q => lowerRecord s r q | none => false
  let other := live.filter (otherSection s r)
  if !(other.all low) then none
  else if r.kind = 3 then
    let own := sortBy (sectionKey s) (live.filter fun e => !otherSection s r e && low e)
    (rangeFrom (own.length + 1) 0).findSome? fun n =>
      let gone := (other ++ own.take n).map (·.1)
      if canHouseWithout s c r.owner (r.words.w2.extractLsb' 52 12) gone then some gone else none
  else some (other.map (·.1))

/-- The unit fits on a cluster when the crews in `gone` are away: `need` idle cores, fabric pages, and no other owner. -/
def fitsWithout (s : State) (r : RecordState) (c need : Nat) (gone : List Nat) : Bool :=
  let freed := ((s.crews.filter fun e => e.2.cluster == c && gone.contains e.1).map fun e => e.2.cores.length).sum
  decide (need ≤ (idleCores s c).length + freed)
    && s.crews.all (fun e => e.2.cluster != c || !ownsCores s e || gone.contains e.1 || e.2.owner == r.owner)
    && othersYield s r c gone && (sectionsOut s r c).isSome && dieAllowed r.hint (c / 32) && !withheld s r c && !(getCluster s c).scrubbing
    && !chosenByOther s r c && !clearedForOther s r c
    && (hintPolicy r.hint != 3 || hintPin r.hint == c) && (r.kind != 2 || !voyageTaken s c)

/-- Whole gangs are pre-empted: the crews with their mates; none where a mate may not be (R60). (DEDUCED, log 55) -/
def withMates (s : State) (r : RecordState) (ids : List Nat) : Option (List Nat) :=
  let mates := ids.flatMap fun i => match getCrew s i with
    | some w => if w.gang then (s.crews.filter fun e => e.2.record == w.record && e.2.phase != .saved).map (·.1) else [i]
    | none => []
  let all := (ids ++ mates).eraseDups
  if all.all fun i => match getCrew s i with | some w => victim s r w || w.phase == .stopping | none => true then some all else none

/-- The shortest run of victims, in their order, whose absence lets the unit in. -/
def victimsOn (s : State) (r : RecordState) (c need : Nat) (before : List Nat) : List Nat → Option (List Nat)
  | [] => if fitsWithout s r c need before then some before else none
  | i :: rest => if fitsWithout s r c need before then some before else victimsOn s r c need (before ++ [i]) rest

/-- The crews to pre-empt so that units of `need` cores in all fit on a cluster, when those in `gone` go already. -/
def clusterPlan (s : State) (r : RecordState) (c need : Nat) (gone : List Nat) : Option (List Nat) :=
  let vs := sortBy (fun e => victimKey e.2) (s.crews.filter fun e => e.2.cluster == c && victim s r e.2 && !gone.contains e.1)
  match victimsOn s r c need gone (vs.map (·.1)) with
  | none => none
  | some ids => withMates s r ids

/-- Cores of a list of crews. -/
def coresOf (s : State) (ids : List Nat) : Nat := (ids.map fun i => match getCrew s i with | some w => w.cores.length | none => 0).sum

/-- A choice of clusters, one for each unit, and the crews that must go. -/
abbrev Plan := List Nat × List Nat

/-- However the plans go on, the first makes no more cores go than the second: all that the second may still share with another cluster is
gangs, whose crews the first may have to add. -/
def Plan.covers (s : State) (p q : Plan) : Bool :=
  let shared := q.2.filter fun i => !p.2.contains i && (match getCrew s i with | some w => w.gang | none => false)
  decide (coresOf s p.2 + coresOf s shared ≤ coresOf s q.2)

/-- The plans that may turn out the cheapest, the earlier of two equal ones. -/
def keepPlans (s : State) (l : List Plan) : List Plan :=
  l.foldl (fun kept p => if kept.any fun q => q.covers s p then kept else kept.filter (fun q => !p.covers s q) ++ [p]) []

/-- The plans for 0 to `n` units when one cluster more is looked at, which takes some of the units or none. -/
def addCluster (s : State) (r : RecordState) (n : Nat) (table : List (List Plan)) (c : Nat) : List (List Plan) :=
  let most := if r.cores = 0 then 1 else 96 / r.cores
  (rangeFrom (n + 1) 0).map fun j =>
    let more := (rangeFrom (Nat.min j most) 1).flatMap fun k => (table.getD (j - k) []).filterMap fun p =>
      (clusterPlan s r c (r.cores * k) p.2).map fun ids => (p.1 ++ List.replicate k c, ids)
    keepPlans s (table.getD j [] ++ more)

/-- The clusters for `n` units, and the crews to pre-empt, where the fewest cores must go (R74). (DEDUCED, log 55) -/
def cheapestSet (s : State) (r : RecordState) (n : Nat) : Option Plan :=
  leastBy (fun p => coresOf s p.2) ((allClusters.foldl (addCluster s r n) ([([], [])] :: List.replicate n [])).getD n [])

/-- HPREEMPT's wait for a priority, in µs; 0 for never (R76). -/
def preemptWait (s : State) (p : BitVec 2) : Nat :=
  match p.toNat with
  | 0 => 0
  | 1 => s.helm.wait1.toNat
  | 2 => s.helm.wait2.toNat
  | _ => s.helm.wait3.toNat

/-! ### Starting a pre-emption (R111 step 1) -/

/-- A thread as it stops for a save: its wait for a full/empty word is withdrawn, and executes again on resume (R292). -/
def ThreadState.halted (th : ThreadState) : ThreadState :=
  { th with stopped := true, park := match th.park with | .sync _ _ => .none | p => p }

/-- A crew's threads stop at the boundary they stand at, its waiters are withdrawn, and the voyage of its cluster is asked to stop (R111, R167,
R292). -/
def stopForSave (s : State) (id : Nat) : State :=
  match getCrew s id with
  | none => s
  | some w =>
    let s := { s with threads := s.threads.map fun e => if e.2.live && e.2.crew == id then (e.1, e.2.halted) else e }
    askStop (setCrew (dropWaiters s (crewTags s id)) id { w with phase := .stopping }) w.cluster

/-- Sections of a cluster are to be frozen (R115). -/
def closeSections (s : State) (c : Nat) (ids : List Nat) : State :=
  let cl := getCluster s c
  setCluster s c { cl with images := cl.images.map fun e => if ids.contains e.1 then (e.1, { e.2 with closed := true }) else e }

/-- A cluster's voyage of another owner is asked to stop. -/
def stopOtherVoyage (s : State) (o : BitVec 12) (c : Nat) : State :=
  match (getCluster s c).voyage with
  | some v => if v.owner != o then askStop s c else s
  | none => s

/-- Units of the pool that a plan takes. -/
def planUnits (s : State) (r : RecordState) (places gone : List Nat) : Nat :=
  let cs := (places ++ gone.filterMap fun i => (getCrew s i).map fun w => w.cluster).eraseDups
  ((gone.map fun i => match getCrew s i with | some w => if w.phase == .stopping then 0 else crewUnits w.cores.length | none => 0)).sum
    + ((cs.filter fun c => match (getCluster s c).voyage with | some v => !v.stopping | none => false).length) * voyageUnits
    + (places.eraseDups.map fun c =>
        let ids := (sectionsOut s r c).getD []
        (((getCluster s c).images.filter fun e => ids.contains e.1).map fun e => frozenUnits e.2).sum).sum

/-- The record's work is among what a plan needs away: a crew, or a voyage or section of its clusters. -/
def planNeeds (s : State) (places gone : List Nat) (seq : Nat) : Bool :=
  gone.any (fun i => match getCrew s i with | some w => w.record == seq | none => false)
    || places.any fun c =>
      (match (getCluster s c).voyage with | some v => v.record == some seq | none => false)
        || (getCluster s c).images.any fun e => e.2.launch == some seq

/-- A state change of a unit that the plan needs away is held back, and the pre-emption waits with it (R41). -/
def planHeld (s : State) (places gone : List Nat) : Bool :=
  (s.helm.heldBack.filter (heldValid s)).any fun h => match h with
    | .start c | .retire c | .handler c => gone.contains c
    | .voyage c => places.contains c
    | .sectionEnd c _ => places.contains c
    | .record q => planNeeds s places gone q

/-- PREEMPTION (R74): a unit that has waited long enough takes the cluster, or set of clusters, where the fewest cores of crews of
lower priority must go; where the host places it, the host names them once they are free (R85). -/
def execPreemption (seq : Nat) (s : State) : Out :=
  match AMap.find s.records seq with
  | none => .next s
  | some r =>
    let w := preemptWait s r.prio
    if !(considered s r && r.chosen.isEmpty && w != 0 && refusedFor s r w && !s.preempting.any fun p => p.record == seq) then .next s
    else
      match cheapestSet s r (if r.kind = 1 then crewCount r.words else 1) with
      | none => .next s
      | some (places, gone) =>
        if poolUsed s + planUnits s r places gone ≤ s.helm.saveSize.toNat ∧ planHeld s places gone = false then
          let out := places.eraseDups.map fun c => (c, (sectionsOut s r c).getD [])
          let s := gone.foldl stopForSave s
          let s := out.foldl (fun s e => stopOtherVoyage (closeSections s e.1 e.2) r.owner e.1) s
          let s := if hostPlaced s r then s else putRecord s { r with chosen := places }
          .next { s with preempting := s.preempting ++ [{ record := seq, crews := gone, places := places }] }
        else .next s

/-! ### Saves (R111–R113) -/

/-- The thread stands at a boundary: nothing of its instruction is on its way (R111 steps 1 to 3). (DEDUCED, log 55) -/
def threadSettled (th : ThreadState) : Bool :=
  match th.park with
  | .serve => false
  | .memory _ => false
  | .send _ => false
  | .spawn _ => false
  | _ => true

/-- A queue holds no command, or only a `halo` or `bind` that has done its own part stands at its head (R345). -/
def queueSettled (l : List Command) : Bool :=
  match l with
  | [] => true
  | m :: _ => haloSent m || (m.op == 0x11 && m.phase == .running && !m.listed.isEmpty)

/-- A core's engines have completed. -/
def coreSettled (k : CoreState) : Bool :=
  k.tiles.isEmpty && !k.ringBusy && queueSettled k.e0 && queueSettled k.e1 && queueSettled k.e2 && queueSettled k.e3

/-- Messages and spawns the crew sent are delivered or spilled. -/
def trafficSettled (s : State) (id : Nat) (w : Crew) : Bool :=
  !(s.messages.any fun m => m.crew == id) && !(s.spawns.any fun p => p.crew == id)
    && !(s.clusters.any fun c => c.2.waitingQ.any fun p => p.crew == id)
    && !((getCluster s w.cluster).spill.any fun i => i.crew == id)

/-- Steps 1 to 3 of R111 have ended, and the cluster's voyage has stopped. -/
def savable (s : State) (id : Nat) (w : Crew) : Bool :=
  w.phase == .stopping && !(s.helm.heldBack.any fun h => h == .start id || h == .retire id || h == .handler id) && (crewTags s id).all (fun t => threadSettled (getThread s t)) && w.cores.all (fun k => coreSettled (getCore s k))
    && trafficSettled s id w && (getCluster s w.cluster).voyage.isNone

/-- A thread as it is saved: at its parking instruction, which executes again on resume (R111). -/
def ThreadState.saved (th : ThreadState) : ThreadState := { th with park := .none, yielded := false }

/-- A core block with its slot records (R113). (DEDUCED, log 56) -/
def saveCore (s : State) (id k : Nat) : SavedCore where
  core := k
  state := { getCore s k with icache := [] }
  threads := ((rangeFrom 16 0).filter fun i => (getThread s (coreTag k i)).live && (getThread s (coreTag k i)).crew == id).map fun i =>
    (i, (getThread s (coreTag k i)).saved)
  pad := takeRegion s (padKey k 0) 0x30000

/-- The crew is its owner's last on the cluster. -/
def lastOfOwner (s : State) (id : Nat) (w : Crew) : Bool :=
  !(s.crews.any fun e => e.1 != id && e.2.cluster == w.cluster && e.2.owner == w.owner && e.2.phase != .saved)

/-- A core that a saved crew left: other crews' threads still wait at its scratchpad (R129). -/
def leftCore (k : CoreState) : CoreState := { clk := k.clk, ptr := k.ptr, waiters := k.waiters }

/-- What the crew did so far: its threads, and the commands they issued. -/
def crewClock (s : State) (id : Nat) (w : Crew) : Clock :=
  let c := (crewTags s id).foldl (fun c t => Clock.join c (getThread s t).clock) []
  w.cores.foldl (fun c k => (getCore s k).qclk.foldl (fun c e => Clock.join c e.2) c) c

/-- The crew's area in bytes (R113). -/
def crewPieces (s : State) (id : Nat) (w : Crew) (v : Save) : Pieces :=
  let y := (s.vsaves.find? fun y => y.voyage.crew == some id).map fun y => y.voyage
  crewHeader w v.block.isSome y
    ++ (v.cores.mapIdx fun i k => corePieces (0x1000 + i * 0x35000) k (k.threads.map fun e => (e.1, getThread s (coreTag k.core e.1)))).flatten
    ++ (match v.block with | some b => blockPieces (0x1000 + w.cores.length * 0x35000) b v.chart | none => [])

/-- SAVE_COMPLETE (R111 steps 4 to 6): dirty lines go home, the crew's state goes to its save area, its cores become idle. -/
def execSaveComplete (crew : Nat) (s : State) : Out :=
  match getCrew s crew with
  | none => .next s
  | some w =>
    if !savable s crew w then .next s
    else
      let s := flushCluster (w.cores.foldl performCore s) w.cluster
      let tags := crewTags s crew
      let cl := getCluster s w.cluster
      let units := crewUnits w.cores.length
      let v : Save :=
        { cores := w.cores.map (saveCore s crew), block := if lastOfOwner s crew w then some cl else none, chart := takeRegion s (chartKey w.cluster 0) 0x10000, units := units, base := poolBase s units, clock := crewClock s crew w }
      let s := writeArea s v.base units (crewPieces s crew w v)
      let s := forgetWaiters (dropWaiters s tags) (w.waits tags)
      let s := w.cores.foldl (fun s k => setCore s k (leftCore (getCore s k))) s
      let s := { s with threads := s.threads.filter fun e => !tags.contains e.1 }
      let s := setCrew s crew { w with phase := .saved, save := some v }
      .next s

/-! ### Resumption (R75, R114) -/

/-- A voyage runs on the cluster: the ring controller has its bays and chart memory. -/
def voyageRunning (s : State) (c : Nat) : Bool := match (getCluster s c).voyage with | some v => v.active | none => false

/-- Restores one core block. `clk` is what the crew did before (R111). The
bay of a running voyage stays the ring controller's (R145). (DEDUCED, log 56) -/
def restoreCore (id : Nat) (clk : Clock) (s : State) (v : SavedCore) : State :=
  let bay := padKey v.core 0x28000
  let now := takeRegion s bay 0x8000
  let s := putRegion s (padKey v.core 0) 0x30000 v.pad
  let s := if voyageRunning s (coreCluster v.core) then putRegion s bay 0x8000 now else s
  let now := getCore s v.core
  let s := setCore s v.core { v.state with
    crew := some id, clk := now.clk, ptr := now.ptr, icache := [], waiters := now.waiters
    qclk := v.state.qclk.map fun e => (e.1, Clock.join e.2 clk) }
  v.threads.foldl (fun s e =>
    setThread s (coreTag v.core e.1) { e.2 with stopped := false, lastIssue := none, clock := Clock.join e.2.clock clk }) s

/-- The words of a core that others wait for are served after its restore (R292). -/
def serveRestored (s : State) (k : Nat) : State := (((getCore s k).waiters.map fun w => w.word).eraseDups).foldl (fun s key => serveAt s k key) s

/-- Restores the cluster block where it is valid and no crew of the owner is on the cluster (R114). (DEDUCED, log 56) -/
def restoreBlock (s : State) (w : Crew) (v : Save) : State :=
  match v.block with
  | none => s
  | some b =>
    if s.crews.any fun e => e.2.cluster == w.cluster && e.2.owner == w.owner && e.2.phase != .saved then s
    else
      let cl := getCluster s w.cluster
      let s := setCluster s w.cluster { cl with counters := b.counters, barriers := b.barriers, tasks := b.tasks, pendingQ := b.pendingQ }
      if voyageRunning s w.cluster then s else
      putRegion s (chartKey w.cluster 0) 0x10000 (v.chart.readBack s (areaAt s v.base + 0x1000 + v.cores.length * 0x35000 + 0x2000) 0x10000)

/-- One crew is on its cores again. -/
def resumeCrew (s : State) (id : Nat) (w : Crew) : State :=
  match w.save with
  | none => s
  | some v =>
    let s := restoreBlock s w v
    let a := areaAt s v.base + 0x1000
    let cores := v.cores.mapIdx fun i k => { k with pad := k.pad.readBack s (a + i * 0x35000) 0x30000 }
    let s := cores.foldl (restoreCore id v.clock) s
    let s := setCrew s id { w with phase := .running, save := none }
    let s := setCluster s w.cluster { getCluster s w.cluster with lastOwner := some w.owner }
    recountAll (w.cores.foldl serveRestored s) w.cluster

/-- A unit that goes ahead of what was pre-empted on a cluster can be placed, or has its place there: one of a higher priority (R74, R75). -/
def higherPlaceable (s : State) (prio : BitVec 2) (cluster : Nat) : Bool :=
  s.records.any (fun q => decide (prio.toNat < q.2.prio.toNat) && !q.2.phase.final && q.2.ending.isNone
      && (placeable s q.2 || (q.2.chosen.contains cluster && !sectionLoads s cluster q.1)))
    || s.preempting.any fun p => p.places.contains cluster

/-- CREW_RESUME (R75, R114): a saved crew, or every crew of a gang, resumes where it stood, after a scrub if one is due. -/
def execCrewResume (crew : Nat) (s : State) : Out :=
  match getCrew s crew with
  | none => .next s
  | some w =>
    let g := resumeGroup s crew w
    let wholeGang := !w.gang || s.crews.all fun e => e.2.record != w.record || e.2.phase == .saved
    if w.phase != .saved || !wholeGang || !groupFits s g || g.any (fun e => higherPlaceable s w.prio e.2.cluster) || (g.any fun e => (getCluster s e.2.cluster).scrubbing) then .next s
    else if g.any fun e => needsScrub s e.2.cluster w.owner then .next (startScrubs s w.owner (g.map fun e => e.2.cluster))
    else .next (g.foldl (fun s e => resumeCrew s e.1 e.2) s)

/-! ### The stopped voyage resumes (R169) -/

/-- A saved crew of the voyage's owner will restore the cluster block there: the voyage writes its counter after it (R169). -/
def blockDue (s : State) (c : Nat) (o : BitVec 12) : Bool :=
  s.crews.any fun e => e.2.cluster == c && e.2.owner == o && (match e.2.save with | some v => v.block.isSome | none => false)

/-- A stopped voyage may resume (R169): a `vstart` voyage with its crew, a VOYAGE launch when the pilot places it on the cluster again; not
while a crew of the cluster is still to be saved, for which it was stopped. (DEDUCED, log 38) -/
def mayResumeVoyage (s : State) (c : Nat) (v : Voyage) : Bool :=
  (getCluster s c).voyage.isNone && !blockDue s c v.owner && !(s.crews.any fun e => e.2.cluster == c && e.2.phase == .stopping) && (match v.crew, v.record with
    | some w, _ => (match getCrew s w with | some w => w.phase == .running | none => false)
    | none, some seq => (match AMap.find s.records seq with
      | some r => !r.phase.final && r.ending.isNone && openTo s r c && !higherPlaceable s r.prio c
      | none => false)
    | none, none => false)

/-- The stopped voyage stands on its cluster again: chart memory, bays and counter as saved (R169). -/
def restoreVoyage (s : State) (v : VoyageSave) : State :=
  let c := v.cluster
  let a := areaAt s v.base
  let s := ((rangeFrom 96 0).zip v.bays).foldl (fun s e =>
    putRegion s (padKey (c * 128 + e.1) 0x28000) 0x8000 (e.2.readBack s (a + 0x1000 + e.1 * 0x8000) 0x8000)) s
  let s := putRegion s (chartKey c 0) 0x10000 (v.chart.readBack s (a + 0x301000) 0x10000)
  setCounter s c v.voyage.ctr { getCounter s c v.voyage.ctr with value := v.counter }

/-- VOYAGE_RESUME (R169): bays, chart memory and counter are restored and the voyage goes on, after a scrub if one is due. An embark phase
that is to be run whole takes them anew. (DEDUCED, log 38) -/
def execVoyageResume (cluster : Nat) (s : State) : Out :=
  match s.vsaves.find? fun v => v.cluster == cluster && mayResumeVoyage s cluster v.voyage with
  | none => .next s
  | some v =>
    if needsScrub s cluster v.voyage.owner then .next (startScrubs s v.voyage.owner [cluster])
    else if countHeld s cluster v.voyage 0 then .next (holdBack s (.voyage cluster))
    else
      let s := { (if v.voyage.zeroed then restoreVoyage s v else s) with vsaves := s.vsaves.erase v }
      let s := setCluster s cluster { getCluster s cluster with lastOwner := some v.voyage.owner }
      .next (countUp s cluster v.voyage 0)

/-! ### Tier migration (R83, R84, R86) -/

/-- A page of the epoch: owner, first 64 KiB page, size, entry, sampled count. -/
structure EpochPage where
  owner   : BitVec 12
  page    : Nat
  big     : Bool
  pte     : Word
  sampled : Nat
  deriving DecidableEq, Repr

/-- The leaf that maps a page of an owner. -/
def leafOf (s : State) (o : BitVec 12) (page : Nat) : Option (Word × Bool) :=
  match walk s (getOwner s o).root (BitVec.ofNat 64 (page * 2 ^ 16)) with
  | .leaf p big => some (p, big)
  | _ => none

/-- The first 64 KiB page of a leaf. -/
def leafPage (page : Nat) (big : Bool) : Nat := if big then page / 2 ^ 13 * 2 ^ 13 else page

/-- The counts of a page in the epoch: at each home slice, one in 16 of its accesses (R83). (DEDUCED, log 21) -/
def sampledCount (s : State) (o : BitVec 12) (page : Nat) (big : Bool) : Nat :=
  let here := s.counts.filter fun e => e.1 == o && leafPage (e.2.1 / 64) big == page
  ((rangeFrom 64 0).map fun slice => ((here.filter fun e => e.2.1 % 64 == slice).map fun e => e.2.2).sum / 16).sum

/-- The page with its leaf and its count. -/
def epochPage (s : State) (o : BitVec 12) (page : Nat) : Option EpochPage :=
  (leafOf s o page).map fun l => { owner := o, page := leafPage page l.2, big := l.2, pte := l.1, sampled := sampledCount s o (leafPage page l.2) l.2 }

/-- Pages of the tables below one level-2 table of an owner: every mapped page with its first 64 KiB page number. -/
def mappedUnder (s : State) (o : BitVec 12) (i1 : Nat) : List Nat :=
  (rangeFrom 8192 0).flatMap fun i2 =>
    match leafOf s o (i1 * 2 ^ 26 + i2 * 2 ^ 13) with
    | some (_, true) => [i1 * 2 ^ 26 + i2 * 2 ^ 13]
    | _ => (rangeFrom 8192 0).filterMap fun i3 =>
        let p := i1 * 2 ^ 26 + i2 * 2 ^ 13 + i3
        match leafOf s o p with | some (_, false) => some p | _ => none

/-- Every mapped page of an owner, by rising virtual address. -/
def mappedPages (s : State) (o : BitVec 12) : List EpochPage :=
  ((rangeFrom 8192 0).flatMap (mappedUnder s o)).filterMap (epochPage s o)

/-- A running launch's hint protects a page: tier 1 from demotion, tier 2 from promotion; a VOYAGE or STREAM launch's does not (R78). -/
def tierProtected (s : State) (e : EpochPage) (tier : Nat) : Bool :=
  s.records.any fun r => decide (r.2.kind ≤ 1) && r.2.phase == .running && r.2.owner == e.owner && hintTier r.2.hint == tier
    && (hintRangeList r.2.hint).any fun x =>
      decide (bits x.1 54 16 < e.page + (if e.big then 8192 else 1) ∧ e.page < bits x.1 54 16 + x.2.2)

/-- Pages of 64 KiB of a page. -/
def EpochPage.units (e : EpochPage) : Nat := if e.big then 8192 else 1

/-- Moves while the free HBM4 (in pages of 64 KiB) keeps its headroom. (DEDUCED, log 22) -/
def promotions (head : Nat) : Nat → List EpochPage → List EpochPage
  | _, [] => []
  | free, e :: rest => if head + e.units ≤ free then e :: promotions head (free - e.units) rest else []

/-- Demotions until the headroom is restored. (DEDUCED, log 22) -/
def demotions (head : Nat) : Nat → List EpochPage → List EpochPage
  | _, [] => []
  | free, e :: rest => if free < head then e :: demotions head (free + e.units) rest else []

/-- The moves of an epoch (R83), for the given pages; how much HBM4 is free the spec leaves to the memory's users. (DEDUCED, log 22) -/
def epochMoves (s : State) (pages : List EpochPage) : List EpochPage :=
  let free := (s.free 33).toNat
  let head := s.helm.headroom.toNat * 1024
  let able := pages.filter fun e => !ptePin e.pte
  let up := promotions head free (sortBy (fun e => (2 ^ 64 - e.sampled) * 2 ^ 40 + e.page)
    (able.filter fun e => pteTier e.pte && decide (s.helm.promote.toNat ≤ e.sampled) && !tierProtected s e 2))
  let left := free - (up.map EpochPage.units).sum
  let down := if s.board.tier2On then demotions head left (sortBy (fun e => e.sampled * 2 ^ 40 + e.page)
    (able.filter fun e => !pteTier e.pte && !tierProtected s e 1)) else []
  up ++ down

/-- A move in progress. -/
def EpochPage.move (e : EpochPage) : PageMove := { owner := e.owner, page := e.page, toDdr := !pteTier e.pte, frame := pteFrame e.pte }

/-- Requests of up to three pages each (R86). -/
def tierRequests (o : BitVec 12) : Nat → State → List EpochPage → State
  | 0, s, _ => s
  | _, s, [] => s
  | fuel + 1, s, l =>
    let pair := fun (i : Nat) => match l[i]? with
      | some e => [BitVec.ofNat 64 (e.page * 2 ^ 16 + (if pteTier e.pte then 1 else 0)), BitVec.ofNat 64 e.sampled]
      | none => [0, 0]
    tierRequests o fuel (postRequest s 2 o (.tierMigration o) (words8Of ([0] ++ pair 0 ++ pair 1 ++ pair 2))) (l.drop 3)

/-- Owners that are created. -/
def liveOwners (s : State) : List (BitVec 12) :=
  (s.own.owners.filter fun e => e.2.phase == .live).map fun e => BitVec.ofNat 12 e.1

/-- TIER_EPOCH (R83, R86): the counts of the epoch decide the moves of each owner in hardware mode, and the requests of the
others. (DEDUCED, log 21) -/
def execTierEpoch (s : State) : Out :=
  if !poweredUp s || s.board.refclk < s.helm.epochEnd then .next s
  else
    let moves := epochMoves s ((liveOwners s).flatMap (mappedPages s))
    let hard := moves.filter fun e => !(getOwner s e.owner).modes.getLsbD 2
    let soft := (liveOwners s).filter fun o => (getOwner s o).modes.getLsbD 2
    let s1 := soft.foldl (fun x o => tierRequests o moves.length x (moves.filter fun e => e.owner == o)) s
    let us := if s.helm.epoch = 0 then 1 else s.helm.epoch.toNat
    .next { s1 with
      moves := s1.moves ++ hard.map EpochPage.move
      counts := []
      helm := { s1.helm with epochEnd := s.board.refclk + us * 100 } }

/-- The address of the entry that maps a page. -/
def leafAddress (s : State) (o : BitVec 12) (va : Word) (big : Bool) : Option Nat :=
  match tableEntry s (getOwner s o).root.toNat (bits va 54 42) with
  | none => none
  | some p1 =>
    if big then some (entryAddress (pteFrame p1) (bits va 41 29))
    else match tableEntry s (pteFrame p1) (bits va 41 29) with
      | none => none
      | some p2 => some (entryAddress (pteFrame p2) (bits va 28 16))

/-- Every location of `[lo, lo + n)` stands at `hi` upward instead: the contents, their marks and what is on its way; what stood at `hi`
is gone, with its marks. (DEDUCED, log 23) -/
def rekey (s : State) (lo hi n : Nat) : State :=
  let f := fun (k : Nat) => if lo ≤ k ∧ k < lo + n then hi + (k - lo) else k
  let fl := fun (k : Option Nat) => k.map f
  let old := fun (k : Nat) => hi ≤ k && k < hi + n
  let req := fun (p : Park) => match p with
    | .memory r => Park.memory { r with key := if r.control.isSome then r.key else f r.key, flagAt := fl r.flagAt }
    | p => p
  let held := fun (h : HeldStore) => { h with key := f h.key, flagAt := fl h.flagAt }
  let rows := fun (v : Voyage) => { v with entries := v.entries.map fun e => { e with rows := e.rows.map fun r => (f r.1, r.2) } }
  { s with
    mem := memPut (memClear (memClear s.mem hi (hi + n)) lo (lo + n)) ((memSlice s.mem lo (lo + n)).map fun c => (f c.1, c.2))
    lines := (s.lines.filter fun e => !old (e.1 * 64)).map fun e => (f (e.1 * 64) / 64, e.2)
    poison := (s.poison.filter fun k => !old k).map f
    writes := (s.writes.filter fun w => !old w.addr).map fun w =>
      { w with addr := f w.addr, flagAt := fl w.flagAt, passed := w.passed.map f, loose := w.loose.map f, byteRel := w.byteRel.map fun e => (f e.1, e.2) }
    posted := s.posted.map fun p => { p with addr := f p.addr, flagAt := fl p.flagAt }
    homeRel := (s.homeRel.filter fun e => !old e.1).map fun e => (f e.1, e.2)
    loose := cutRange (cutRange s.loose hi n) lo n ++ (meetRange s.loose lo n).map fun r => (f r.1, r.2)
    wrote := cutWrote (cutWrote s.wrote hi n) lo n ++ (meetWrote s.wrote lo n).map fun r => (r.1, f r.2.1, r.2.2)
    inv := { s.inv with ranges := s.inv.ranges.map fun r => (f r.1, r.2) }
    vsaves := s.vsaves.map fun v => { v with voyage := rows v.voyage }
    threads := s.threads.map fun e => (e.1, { e.2 with park := req e.2.park })
    clusters := s.clusters.map fun c => (c.1, { c.2 with
      voyage := c.2.voyage.map rows
      images := c.2.images.map fun i => (i.1, { i.2 with tags := i.2.tags.map fun p =>
      { p with stores := p.stores.map held, stores2 := p.stores2.map held } }) }) }

/-- Every translation of the page names the new tier. (DEDUCED, log 23) -/
def retier (s : State) (o : BitVec 12) (page : Nat) (pte : Word) : State :=
  let f := fun (e : TlbEntry) => if e.hits o page then { e with pte := pte } else e
  { s with
    clusters := s.clusters.map fun c => (c.1, { c.2 with l1 := c.2.l1.map f })
    dies := s.dies.map fun d => (d.1, { d.2 with l2 := d.2.l2.map f }) }

/-- A page move ends: the contents stand in the other tier, and the entry's tier field says so (R84). (DEDUCED, log 23) -/
def movePage (s : State) (m : PageMove) : State :=
  let va : Word := BitVec.ofNat 64 (m.page * 2 ^ 16)
  match leafOf s m.owner m.page with
  | none => s
  | some (p, big) =>
    let p' := p ^^^ BitVec.ofNat 64 (2 ^ 59)
    match leafAddress s m.owner va big with
    | some a =>
      if pteTier p = m.toDdr ∨ ptePin p = true ∨ leafGood s va p' big = false then s
      else
        let base := if big then BitVec.ofNat 64 (m.page / 2 ^ 13 * 2 ^ 29) else va
        let s := rekey s (leafKey base p big) (leafKey base p' big) (if big then 2 ^ 29 else 2 ^ 16)
        retier (putBytes s 0 a (bytesOf 8 p'.toNat)) m.owner m.page p'
    | none => s

/-- PAGE_MOVE_COMPLETE (R84): the oldest move of the owner ends. -/
def execPageMoveComplete (owner : BitVec 12) (page : BitVec 39) (s : State) : Out :=
  match s.moves.find? fun m => m.owner == owner with
  | some m => if m.page = page.toNat then .next (movePage { s with moves := s.moves.erase m } m) else .next s
  | none => .next s

/-! ### Answers of the host (R44) -/

/-- ANSWER_CREW_PLACEMENT (R85): a gang's crew that the host defers names no cluster. (DEDUCED, log 53) -/
def execAnswerCrewPlacement (rec : Words8) (s : State) : Out :=
  match takeAnswer s 0 rec.w0 with
  | none => .next (badAnswer s)
  | some (q, s) =>
    match q.need with
    | .crewPlacement seq crew =>
      match AMap.find s.records seq with
      | none => .next s
      | some r =>
        if bitAt rec.w1 63 && r.kind != 1 then .next (putRecord s { r with deferredAt := some (capacity s) })
        else
          let r := { r with named := AMap.set r.named crew (if bitAt rec.w1 63 then deferredCluster else bits rec.w1 7 0) }
          .next (useNamed (putRecord s r) r)
    | _ => .next s

/-- The load a placement answer concerns is changed. -/
def changeLoad (s : State) (c : Nat) (fid : BitVec 12) (f : ImageLoad → ImageLoad) : State :=
  let cl := getCluster s c
  setCluster s c { cl with loads := cl.loads.map fun l => if l.fid == fid then f l else l }

/-- ANSWER_IMAGE_PLACEMENT (R204). -/
def execAnswerImagePlacement (rec : Words8) (s : State) : Out :=
  match takeAnswer s 1 rec.w0 with
  | none => .next (badAnswer s)
  | some (q, s) =>
    match q.need with
    | .imagePlacement c _ fid =>
      let cl := getCluster s c
      if bitAt rec.w1 62 then
        match AMap.find cl.images (bits rec.w3 6 0) with
        | some i => .next (if i.busy cl then s else dropImage s c i.fid)
        | none => .next s
      else if bitAt rec.w1 63 then .next (changeLoad s c fid fun l => { l with deferred := true })
      else .next (changeLoad s c fid fun l =>
        { l with place := some (bits rec.w1 7 4, bits rec.w1 2 0, bits rec.w2 7 4, bits rec.w2 2 0), deferred := false })
    | _ => .next s

/-- One ordered move of an answer (R86): none where it is discarded. One to the tier that the page has when its turn comes is discarded
there (`movePage`). -/
def orderedMove (s : State) (o : BitVec 12) (w : Word) : Option PageMove :=
  if !bitAt w 63 then none
  else match leafOf s o (bits w 54 16) with
    | none => none
    | some (p, big) =>
      let toDdr := bitAt w 0
      if ptePin p || (toDdr && !s.board.tier2On) then none
      else some { owner := o, page := leafPage (bits w 54 16) big, toDdr := toDdr, frame := pteFrame p }

/-- ANSWER_TIER_MIGRATION (R86). -/
def execAnswerTierMigration (rec : Words8) (s : State) : Out :=
  match takeAnswer s 2 rec.w0 with
  | none => .next (badAnswer s)
  | some (q, s) =>
    match q.need with
    | .tierMigration o => .next { s with moves := s.moves ++ [rec.w1, rec.w2, rec.w3, rec.w4, rec.w5, rec.w6].filterMap (orderedMove s o) }
    | _ => .next s

/-- ANSWER_SPILL (R110): a larger size is taken; another leaves the failure standing. -/
def execAnswerSpill (rec : Words8) (s : State) : Out :=
  match takeAnswer s 4 rec.w0 with
  | none => .next (badAnswer s)
  | some (q, s) =>
    match q.need with
    | .spill seq crew =>
      match s.crews.find? fun e => e.2.record == seq && e.2.index == crew with
      | none => .next s
      | some (id, w) =>
        if w.spillCur < bits rec.w1 31 0 then .next (setCrew s id { w with spillCur := bits rec.w1 31 0 })
        else .next (spillFailed s id (w.spillVa + BitVec.ofNat 64 (0x40 + w.spillWr)))
    | _ => .next s

/-- ANSWER_TWIN_RELOAD (R119). -/
def execAnswerTwinReload (rec : Words8) (s : State) : Out :=
  match takeAnswer s 5 rec.w0 with
  | none => .next (badAnswer s)
  | some (q, s) =>
    match q.need with
    | .twinReload c fid _ =>
      match resident s c fid with
      | some (_, i) => .next (if i.reload = 1 then putImage s c { i with reload := 2 } else s)
      | none => .next s
    | _ => .next s

/-- REQTAIL (R44): like LOGTAIL; requests held while the ring was full are written. -/
def writeReqtail (s : State) (v : Word) : State :=
  let t : BitVec 32 := v.setWidth 32
  if (s.req.reqHead - t).toNat ≤ 2 ^ s.req.reqSize.toNat then ringDrain (s.req.held.length + 1) { s with req := { s.req with reqTail := t } }
  else s

/-- REQTAIL_WRITE (R44). -/
def execReqtailWrite (v : Word) (s : State) : Out := .next (writeReqtail s v)

end Sys2Proof.Machine
end

