-- ==== Sys2Proof/Machine/Bridge.lean ====
section
/-! DEFINITION. What the bridge reaches: accesses through apertures, PCIe and Meridian (R21, R22, R26, R47, R391), owners and
their commands (R43–R48), and the registers of R25 as they are written and read. -/

namespace Sys2Proof.Machine

/-! ### Accesses by agents outside the dies (R26, R216, R391) -/

/-- Where an access through an owner's tables that lies in one line goes, when its leaf carries the bit that lets such an agent in;
none where it fails (R92, R391). -/
def outerReach (s : State) (o : BitVec 12) (va : Word) (n : Nat) (w : Want) (lets : Word → Bool) : Option Reach :=
  if bits va 63 55 ≠ 0 ∨ n = 0 ∨ 64 < va.toNat % 64 + n ∨ (getOwner s o).phase = .absent then none
  else match walk s (getOwner s o).root va with
    | .leaf p big =>
      if w.allowed p && lets p then
        let key := leafKey va p big
        let fl := if pteTT p then frameHeader key else none
        some (if pteClass p == 1 then .home key fl else .cached key fl)
      else none
    | _ => none

/-- An outside agent's access waits for a write of its bytes that happens before it and is on its way (R224). (DEDUCED, log 16) -/
def reachWaits (s : State) (n : Nat) (r : Option Reach) : Bool :=
  match r with
  | some (.home key fl) | some (.cached key fl) => engineWaits s (outsideClock s) key n fl
  | _ => false

/-- The access is one of 1, 2, 4 or 8 bytes, aligned to its size. -/
def scalarAccess (va : Word) (n : Nat) : Bool := (n == 1 || n == 2 || n == 4 || n == 8) && va.toNat % n == 0

/-- The value of a read that fails: all ones (R26). -/
def allOnes (n : Nat) : Word := BitVec.ofNat 64 (2 ^ (8 * n) - 1)

/-- The next write of the outside agent that acts, numbered by the running number of writes. (DESIGN CHOICE, log 81) -/
def outerWriter (s : State) (flagAt : Option Nat) : Writer :=
  { agent := outsideNumber s.outer, core := none, cluster := 0, stamp := s.nextWrite,
    clock := AMap.set (outsideClock s) (outsideNumber s.outer) s.nextWrite, flagAt := flagAt }

/-- What an outside agent's read took its bytes from waits for its next fence (R218). -/
def outerSaw (s : State) (ends : List RelEnd) : State :=
  let a := getOutside s s.outer
  if ends.isEmpty then s else setOutside s s.outer { a with seen := a.seen ++ ends }

/-- A read that reached its page: the bytes, and what they come from (R216). -/
def outerRead (s : State) (o : BitVec 12) (va : Word) (n : Nat) (r : Reach) : List Byte × State :=
  let s := countAccess s o va
  let go := fun (key : Nat) (cached : Bool) =>
    ((readAt s none o (outsideClock s) va n key cached).1, outerSaw s (readEnds s none o (outsideClock s) va n key cached))
  match r with
  | .home key _ => go key false
  | .cached key _ => go key true
  | _ => ([], s)

/-- A write that reached its page is performed at the home, at system scope (R216). -/
def outerWrite (s : State) (o : BitVec 12) (va : Word) (r : Reach) (bs : List Byte) : State :=
  let s := countAccess s o va
  let rel := (getOutside s s.outer).rel
  match r with
  | .home key fl => homeWriteAt s o (outerWriter s fl) va key false bs rel
  | .cached key fl => homeWriteAt s o (outerWriter s fl) va key true bs rel
  | _ => s

/-- An access of at most 8 bytes that reached its page: a read's value, or the write performed at the home. -/
def outerAccess (s : State) (o : BitVec 12) (va : Word) (n : Nat) (r : Reach) (write : Bool) (v : Word) : State :=
  let s := { s with accessOk := true }
  if write then outerWrite s o va r (bytesOf n v.toNat)
  else
    let x := outerRead s o va n r
    { x.2 with readData := BitVec.ofNat 64 (ofBytes x.1) }

/-- A failed access: a read returns all ones, a write is discarded (R26). -/
def outerFails (s : State) (n : Nat) (write : Bool) : State :=
  { s with accessOk := false, readData := if write then s.readData else allOnes n }

/-- The virtual address that an aperture's control register and an offset give (R26). (DEDUCED, log 46) -/
def apertureVa (c : Word) (off : BitVec 36) : Word := BitVec.ofNat 64 (bits c 50 35 * 2 ^ 39 + off.toNat)

/-- A bridge-core access through an aperture (R26, R391). (DEDUCED, log 45) -/
def accessAperture (s : State) (ap : BitVec 8) (off : BitVec 36) (n : Nat) (write : Bool) (v : Word) : State :=
  let c := AMap.getD s.helm.apertures ap.toNat 0
  let o : BitVec 12 := c.extractLsb' 51 12
  let va := apertureVa c off
  let fail := fun (s : State) => outerFails { s with helm := { s.helm with afault := true } } n write
  if !bitAt c 63 || !scalarAccess va n then fail s
  else match outerReach s o va n (if write then .write else .read) pteApt with
    | some r => outerAccess s o va n r write v
    | none => fail (reportWalk s o va)

/-- An aperture access waits (R224). -/
def apertureWaits (s : State) (ap : BitVec 8) (off : BitVec 36) (n : Nat) (write : Bool) : Bool :=
  let c := AMap.getD s.helm.apertures ap.toNat 0
  bitAt c 63 && scalarAccess (apertureVa c off) n
    && reachWaits s n (outerReach s (c.extractLsb' 51 12) (apertureVa c off) n (if write then .write else .read) pteApt)

/-- APERTURE_ACCESS (R391). (DEDUCED, log 46) -/
def execApertureAccess (ap : BitVec 8) (off : BitVec 36) (size : Nat) (write : Bool) (v : Word) (s : State) : Out :=
  .next (accessAperture s ap off size write v)

/-! ### PCIe (R16, R22) -/

/-- A root port that its strap disables (R16). -/
def portDisabled (s : State) (port : BitVec 1) : Bool := (if port = 0 then s.board.straps.pcie0 else s.board.straps.pcie1) == 3

/-- The parts of `n` bytes from an address that lie in one word of 8 bytes each (R223); `fuel` parts at most. -/
def wordParts : Nat → Word → Nat → List (Word × Nat)
  | 0, _, _ => []
  | fuel + 1, va, n =>
    if n = 0 then []
    else
      let k := Nat.min n (8 - va.toNat % 8)
      (va, k) :: wordParts fuel (va + BitVec.ofNat 64 k) (n - k)

/-- A PCIe request waits (R224). -/
def pcieWaits (s : State) (o : BitVec 12) (va : Word) (size : Nat) (write : Bool) : Bool :=
  (wordParts 514 va size).any fun p => reachWaits s p.2 (outerReach s o p.1 p.2 (if write then .write else .read) pteApt)

/-- The size of a PCIe request: a read of at most 4,096 bytes, a write that carries at most 512 (R22). -/
def pcieSize (size : Nat) (write : Bool) (data : List Byte) : Bool :=
  decide (1 ≤ size) && (if write then decide (size ≤ 512) && data.length == size else decide (size ≤ 4096))

/-- A read request's parts, in address order. -/
def pcieRead (o : BitVec 12) : State × List Byte → (Word × Nat) × Reach → State × List Byte
  | (s, acc), ((va, n), r) => let x := outerRead s o va n r; (x.2, acc ++ x.1)

/-- A write request's parts, in address order; beside the state, the bytes still to be written. -/
def pcieWrite (o : BitVec 12) : State × List Byte → (Word × Nat) × Reach → State × List Byte
  | (s, bs), ((va, n), r) => (outerWrite s o va r (bs.take n), bs.drop n)

/-- PCIE_REQUEST (R16, R22): no agent stands behind a disabled port; a request to the other port's range is an Unsupported Request;
one through a window that bridge software set up for the owner acts at system scope, and fails as a whole as an aperture's does
(R92). (DEDUCED, log 46) -/
def execPcieRequest (port : BitVec 1) (toOther : Bool) (owner : BitVec 12) (va : Word) (size : Nat) (write : Bool) (data : List Byte)
    (s : State) : Out :=
  if portDisabled s port || !pcieSize size write data || toOther then .next { s with accessOk := false }
  else
    let parts := wordParts 514 va size
    let reached := parts.map fun p => outerReach s owner p.1 p.2 (if write then .write else .read) pteApt
    if reached.all Option.isSome then
      let go := parts.zip (reached.filterMap id)
      let s := { s with accessOk := true }
      if write then .next (go.foldl (pcieWrite owner) (s, data)).1
      else
        let x := go.foldl (pcieRead owner) (s, [])
        .next { x.1 with readBytes := x.2, readData := BitVec.ofNat 64 (ofBytes (x.2.take 8)) }
    else
      let s := { reportWalks s owner va size with accessOk := false }
      .next (if write then s else { s with readBytes := List.replicate size 0xFF, readData := allOnes (Nat.min size 8) })

/-! ### Owner commands (R43, R45–R48) -/

/-- An owner command ends with a result. -/
def ownResult (s : State) (o : BitVec 12) (r : BitVec 3) : State :=
  { s with own := { s.own with busy := false, result := r, statOwner := o } }

/-- The result of a command that creates an owner with these modes, when it fails (R43, R45); where both reasons hold, that of the
modes. (DESIGN CHOICE, log 83) -/
def createFault (s : State) (o : BitVec 12) (modes : BitVec 6) : Option (BitVec 3) :=
  if !modes.getLsbD 3 then some 2 else if (getOwner s o).phase ≠ .absent then some 3 else none

/-- The result of a command on an owner that must exist, when it fails. -/
def existFault (s : State) (o : BitVec 12) : Option (BitVec 3) :=
  match (getOwner s o).phase with
  | .absent => some 3
  | .retiring => some 4
  | .live => none

/-- An owner with a key pair, the root of OWNARG, and a peer mask (R46, R47). -/
def makeOwner (s : State) (o : BitVec 12) (modes : BitVec 6) (peers : BitVec 8) (key : Nat) : State :=
  setOwner s o { phase := .live, root := s.own.ownArg.extractLsb' 16 26, modes := modes, key := some key, peers := peers, slots := [] }

/-- A fresh key pair is drawn (R46). -/
def drawKey (s : State) : State := { s with board := { s.board with keysDrawn := s.board.keysDrawn + 1 } }

/-- The number by which this module names a key pair of its group: that module `m` drew it as its `n`th; its own pairs are below
2^64. (DEDUCED, log 48) -/
def keyName (s : State) (m n : Nat) : Nat := if m = s.board.straps.slot.toNat then n else 2 ^ 64 * (m + 1) + n

/-- Op 1 (R46). (DEDUCED, log 47) -/
def ownCreate (s : State) (o : BitVec 12) (modes : BitVec 6) : State :=
  if s.own.busy then s
  else match createFault s o modes with
    | some r => ownResult s o r
    | none => ownResult (makeOwner (drawKey s) o modes 0 (s.board.keysDrawn + 1)) o 0

/-- OWNER_CREATE (R46). -/
def execOwnerCreate (owner : BitVec 12) (modes : BitVec 6) (s : State) : Out := .next (ownCreate s owner modes)

/-- Records of an owner that are not in a final state. -/
def ownerRecords (s : State) (o : BitVec 12) : List Nat :=
  (s.records.filter fun r => r.2.owner == o && !r.2.phase.final).map (·.1)

/-- Clusters that hold what an owner's crews left, or hold its crews. -/
def ownerClusters (s : State) (o : BitVec 12) : List Nat :=
  (s.clusters.filter fun c => c.2.lastOwner == some o).map (·.1)

/-- Steps 1 and 2 of R48: records are rejected from now on, and every non-final one is aborted with reason 0x33. -/
def retireStart (s : State) (o : BitVec 12) : State :=
  let w := getOwner s o
  let s := setOwner { s with own := { s.own with busy := true, statOwner := o } } o { w with phase := .retiring }
  (ownerRecords s o).foldl (fun s q => abortWork s q 0x33) s

/-- Requests that concern an owner. -/
def HostNeed.ofOwner (o : BitVec 12) : HostNeed → Bool
  | .tierMigration p => p == o
  | .imagePlacement _ p _ => p == o
  | _ => false

/-- Steps 3 to 6 of R48, each when the one before it has ended. -/
def retireGoesOn (s : State) (o : BitVec 12) : State :=
  if !(ownerRecords s o).isEmpty then s
  else match ownerClusters s o with
    | [] => ownResult (dropRequests (setOwner { s with moves := s.moves.filter fun m => m.owner != o } o {}) (HostNeed.ofOwner o)) o 0
    | cs => cs.foldl (fun s c => setCluster s c { getCluster s c with scrubbing := true }) s

/-- Op 2 (R48): the command, or the next step of a retirement under way. -/
def ownRetire (s : State) (o : BitVec 12) : State :=
  if s.own.busy then
    if (getOwner s o).phase = .retiring ∧ s.own.statOwner = o then retireGoesOn s o else s
  else match existFault s o with
    | some r => ownResult s o r
    | none => retireStart s o

/-- OWNER_RETIRE (R48). -/
def execOwnerRetire (owner : BitVec 12) (s : State) : Out := .next (ownRetire s owner)

/-- Op 3 (R43). (DEDUCED, log 47) -/
def ownSetModes (s : State) (o : BitVec 12) (modes : BitVec 6) : State :=
  if s.own.busy then s
  else if !modes.getLsbD 3 then ownResult s o 2
  else match existFault s o with
    | some r => ownResult s o r
    | none => ownResult (setOwner s o { getOwner s o with modes := modes }) o 0

/-- SET_MODES (R43). -/
def execSetModes (owner : BitVec 12) (modes : BitVec 6) (s : State) : Out := .next (ownSetModes s owner modes)

/-- Op 4 (R36, R45): the slot's count is set, and the records that wait for it move. (DEDUCED, log 47) -/
def ownSetSlot (s : State) (o : BitVec 12) (slot : BitVec 6) (v : BitVec 32) : State :=
  if s.own.busy then s
  else match existFault s o with
    | some r => ownResult s o r
    | none =>
      let w := getOwner s o
      settle (ownResult (setOwner s o { w with slots := AMap.set w.slots slot.toNat v }) o 0)

/-- SET_EVENT_SLOT (R45). -/
def execSetEventSlot (owner : BitVec 12) (slot : BitVec 6) (v32 : BitVec 32) (s : State) : Out := .next (ownSetSlot s owner slot v32)

/-- Some Meridian port that is up leads to a module (R21). -/
def pathTo (s : State) (m : Nat) : Bool :=
  s.board.routes.any fun r => r / 16 == m && (AMap.getD s.board.ports (r % 16) {}).lanes != 0

/-- A key transfer starts, or fails at once where no path joins the modules (R47). (DEDUCED, log 48) -/
def startTransfer (s : State) (t : KeyTransfer) : State :=
  if pathTo s t.peer.toNat then { s with own := { s.own with busy := true, statOwner := t.owner, transfer := some t } }
  else ownResult s t.owner 5

/-- Op 5 (R47). -/
def ownExport (s : State) (o : BitVec 12) (peer : BitVec 3) : State :=
  if s.own.busy then s
  else match existFault s o with
    | some r => ownResult s o r
    | none => startTransfer s { isJoin := false, owner := o, peer := peer, modes := 0, began := s.board.refclk }

/-- EXPORT (R47). -/
def execOwnerExport (owner : BitVec 12) (peer : BitVec 3) (s : State) : Out := .next (ownExport s owner peer)

/-- Op 6 (R47). -/
def ownJoin (s : State) (o : BitVec 12) (modes : BitVec 6) (peer : BitVec 3) : State :=
  if s.own.busy then s
  else match createFault s o modes with
    | some r => ownResult s o r
    | none => startTransfer s { isJoin := true, owner := o, peer := peer, modes := modes, began := s.board.refclk }

/-- JOIN (R47). -/
def execJoin (owner : BitVec 12) (modes : BitVec 6) (peer : BitVec 3) (s : State) : Out := .next (ownJoin s owner modes peer)

/-- A key transfer fails: both commands end with result 5, and nothing else changes (R47). -/
def failTransfer (s : State) (t : KeyTransfer) : State := ownResult { s with own := { s.own with transfer := none } } t.owner 5

/-- KEY_TRANSFER_TIMEOUT (R47): 100 ms without the matching command. -/
def execKeyTransferTimeout (s : State) : Out :=
  match s.own.transfer with
  | some t => if t.began + 10000000 ≤ s.board.refclk then .next (failTransfer s t) else .next s
  | none => .next s

/-- BAD_OP (R45). -/
def execBadOp (op : BitVec 4) (owner : BitVec 12) (s : State) : Out :=
  if s.own.busy ∨ (1 ≤ op.toNat ∧ op.toNat ≤ 6) then .next s else .next (ownResult s owner 1)

/-- A write of OWNCMD (R45). -/
def writeOwncmd (s : State) (v : Word) : State :=
  let o : BitVec 12 := v.extractLsb' 48 12
  let modes : BitVec 6 := v.extractLsb' 42 6
  let peer : BitVec 3 := v.setWidth 3
  match bits v 63 60 with
  | 1 => ownCreate s o modes
  | 2 => if s.own.busy then s else ownRetire s o
  | 3 => ownSetModes s o modes
  | 4 => ownSetSlot s o (v.extractLsb' 36 6) (v.setWidth 32)
  | 5 => ownExport s o peer
  | 6 => ownJoin s o modes peer
  | _ => if s.own.busy then s else ownResult s o 1

/-! ### Meridian (R21, R47) -/

/-- The matching command arrived on the module `src`, and both security controllers agree: an exporter adds the joiner to its mask;
a joiner creates the owner with the exporter's key pair, its mask and the exporter. (DEDUCED, log 48) -/
def finishTransfer (s : State) (t : KeyTransfer) (mask : BitVec 8) (key : Nat) : State :=
  let bit : BitVec 8 := BitVec.ofNat 8 (2 ^ t.peer.toNat)
  let s := { s with own := { s.own with transfer := none } }
  if t.isJoin then ownResult (makeOwner s t.owner t.modes (mask ||| bit) key) t.owner 0
  else
    let w := getOwner s t.owner
    ownResult (setOwner s t.owner { w with peers := w.peers ||| bit }) t.owner 0

/-- An arriving access for an owner that the sender shares, to a home-class page that other modules may reach (R47, R92). -/
def meridianReach (s : State) (src : BitVec 3) (o : BitVec 12) (va : Word) (n : Nat) (w : Want) : Option Reach :=
  let x := getOwner s o
  if x.phase = .absent ∨ !x.peers.getLsbD src.toNat ∨ !scalarAccess va n then none
  else outerReach s o va n w fun p => pteMer p && pteClass p == 1

/-- A get, put or addition of another module's agent at the home (R21). -/
def meridianAt (s : State) (kind : Nat) (o : BitVec 12) (va : Word) (n : Nat) (r : Reach) (v : Word) : State :=
  let s1 := outerAccess s o va n r (kind == 1) v
  if kind = 0 ∨ kind = 1 then s1
  else match r with
    | .home key fl => atomicAdd s1 o (outerWriter s1 fl) va key false n (if kind = 7 then 0 else if n = 8 then 2 else 1) v.toNat
    | _ => s1

/-- A message of the key group's control channel about an owner (R47, R48): the matching command arrived, with the exporter's mask in
[7:0] and the name of its key pair above (the module that drew it, and its number); a member joined, a member left, or a transfer
failed. (DEDUCED, log 48) -/
def controlMessage (s : State) (kind : Nat) (src : BitVec 3) (o : BitVec 12) (v : Word) : State :=
  let w := getOwner s o
  let bit : BitVec 8 := BitVec.ofNat 8 (2 ^ src.toNat)
  match kind with
  | 3 => match s.own.transfer with
    | some t => if t.owner = o ∧ t.peer = src then finishTransfer s t (v.setWidth 8) (keyName s (bits v 10 8) (bits v 63 11)) else s
    | none => s
  | 4 => if w.phase ≠ .absent ∧ w.peers.getLsbD src.toNat = true then setOwner s o { w with peers := w.peers ||| BitVec.ofNat 8 (2 ^ bits v 2 0) } else s
  | 5 => if w.phase ≠ .absent then setOwner s o { w with peers := w.peers &&& ~~~bit } else s
  | _ => match s.own.transfer with
    | some t => if t.owner = o ∧ t.peer = src then failTransfer s t else s
    | none => s

/-- MERIDIAN_ACCESS (R47): kinds 0 get, 1 put, 2 integer addition, 7 f32 addition; 3 to 6 are the control channel's messages. -/
def execMeridianAccess (kind : BitVec 3) (src : BitVec 3) (owner : BitVec 12) (va : Word) (size : Nat) (v : Word) (s : State) : Out :=
  let k := kind.toNat
  if 3 ≤ k ∧ k ≤ 6 then .next (controlMessage s k src owner v)
  else match meridianReach s src owner va size (if k = 0 then .read else if k = 1 then .write else .both) with
    | some r => if (k = 2 ∨ k = 7) ∧ size < 4 then .next { s with accessOk := false } else .next (meridianAt s k owner va size r v)
    | none => .next { reportWalk s owner va with accessOk := false }

/-! ### Security controller registers (R52) -/

/-- A store to 0x100–0x138: eight of the 64 data bytes. -/
def writeMeasureData (s : State) (i : Nat) (v : Word) : State :=
  let keep := s.board.measureData &&& ~~~(BitVec.ofNat 512 ((2 ^ 64 - 1) * 2 ^ (64 * i)))
  { s with board := { s.board with measureData := keep ||| BitVec.ofNat 512 (v.toNat * 2 ^ (64 * i)) } }

/-- MR := SHA-512(MR ‖ d) (R52). -/
def extendMr (b : ModuleState) (n : Nat) (d : BitVec 512) : ModuleState :=
  { b with measure := AMap.set b.measure n (Config.sha512 (bytesOf 64 (AMap.getD b.measure n 0).toNat ++ bytesOf 64 d.toNat)) }

/-- A write of security offset 0x140 extends MR4 to MR7 (R52); one that names MR0 to MR3 is discarded, and so is one that names a number
above 7, of which the spec says nothing. (DESIGN CHOICE, log 83) -/
def writeMeasure (s : State) (v : Word) : State :=
  if 4 ≤ v.toNat ∧ v.toNat ≤ 7 then { s with board := extendMr s.board v.toNat s.board.measureData } else s

/-- MEASUREMENT_EXTEND (R52). -/
def execMeasurementExtend (v : Word) (s : State) : Out := .next (writeMeasure s v)

/-! ### Register writes (R25) -/

/-- A store to a queue's registers (R27). -/
def writeQueueReg (s : State) (off : Nat) (v : Word) : State :=
  let n : BitVec 8 := BitVec.ofNat 8 (off / 0x40)
  let q := getQueue s n
  match off % 0x40 with
  | 0x00 => writeQcfg s n v
  | 0x08 => setQueue s n { q with discard := q.discard && !bitAt v 63, cfgErr := q.cfgErr && !bitAt v 62 }
  | 0x10 => setQueue s n { q with tag := v }
  | _ => s

/-- A store to an aperture's control register: bits [34:0] are reserved (R3, R26). -/
def writeApertureCtl (s : State) (a : Nat) (v : Word) : State :=
  { s with helm := { s.helm with apertures := AMap.set s.helm.apertures a (v &&& 0xFFFFFFF800000000) } }

/-- A store to a helm register (R26, R40, R76, R83, R112). -/
def writeHelmReg (s : State) (off : Nat) (v : Word) : State :=
  let h := s.helm
  match off with
  | 0x000 => if h.isOpen then s else { s with helm := { h with logBase := v.extractLsb' 12 52 } }
  | 0x008 =>
    if h.isOpen || bits v 4 0 < 12 || 20 < bits v 4 0 then s else { s with helm := { h with logSize := v.setWidth 5 } }
  | 0x018 => writeLogtail s v
  | 0x020 => if bitAt v 63 then startSnap s else s
  | 0x028 => { s with helm := { h with afault := h.afault && !bitAt v 2 } }
  | 0x030 => writeAbort s v
  | 0x040 => { s with helm := { h with wait3 := v.extractLsb' 32 16, wait2 := v.extractLsb' 16 16, wait1 := v.extractLsb' 0 16 } }
  | 0x048 => { s with helm := { h with hage := v.setWidth 32 } }
  | 0x050 => { s with helm := { h with hintBad := h.hintBad && !bitAt v 0 } }
  | 0x060 => { s with helm := { h with saveBase := v.extractLsb' 16 48 } }
  | 0x068 => { s with helm := { h with saveSize := v.setWidth 32 } }
  | 0x100 => { s with helm := { h with epoch := v.extractLsb' 32 16, promote := v.extractLsb' 16 16, headroom := v.extractLsb' 0 16 } }
  | _ => if 0x800 ≤ off ∧ off < 0x1000 ∧ off % 8 = 0 then writeApertureCtl s ((off - 0x800) / 8) v else s

/-- A store to an owner register (R45): of OWNARG, bits [41:16] are the root, and the rest is reserved (R3, R89). -/
def writeOwnerReg (s : State) (off : Nat) (v : Word) : State :=
  match off with
  | 0x000 => writeOwncmd s v
  | 0x008 => { s with own := { s.own with ownArg := v &&& 0x3FFFFFF0000 } }
  | _ => s

/-- A store to a host-assisted request register (R44): REQBASE has the bits of LOGBASE, of which [11:0] are reserved (R40). (DEDUCED, log 44) -/
def writeReqReg (s : State) (off : Nat) (v : Word) : State :=
  match off with
  | 0x000 => { s with req := { s.req with reqBase := v &&& 0xFFFFFFFFFFFFF000 } }
  | 0x008 => if bits v 4 0 < 6 || 16 < bits v 4 0 then s else { s with req := { s.req with reqSize := v.setWidth 5 } }
  | 0x018 => writeReqtail s v
  | 0x020 => { s with req := { s.req with badAns := s.req.badAns && !bitAt v 0 } }
  | _ => s

/-- A store to TLBINV (R100): SCOPE 11 is discarded. -/
def writeTlbinv (s : State) (v : Word) : State :=
  let o : BitVec 12 := v.extractLsb' 50 12
  match bits v 63 62 with
  | 0 => invPage s o (v.setWidth 39)
  | 1 => invOwner s o (v.setWidth 39)
  | 2 => invAll s o (v.setWidth 39)
  | _ => s

/-- A FBTAIL value within FBHEAD − 2^FBSIZE to FBHEAD frees records (R95). -/
def writeFbtail (s : State) (die : Nat) (v : Word) : State :=
  let d := getDie s die
  let t : BitVec 32 := v.setWidth 32
  if (d.fbHead - t).toNat ≤ 2 ^ d.fbSize.toNat then setDie s die { d with fbTail := t } else s

/-- A store to a die's fault buffer registers (R95). -/
def writeFaultReg (s : State) (die off : Nat) (v : Word) : State :=
  let d := getDie s die
  match off with
  | 0x000 => if d.en then s else setDie s die { d with fbBase := v.extractLsb' 12 52 }
  | 0x008 => if d.en || bits v 4 0 < 3 || 16 < bits v 4 0 then s else setDie s die { d with fbSize := v.setWidth 5 }
  | 0x018 => writeFbtail s die v
  | 0x020 => setDie s die { d with en := bitAt v 0, dropped := d.dropped && !bitAt v 1 }
  | 0x030 => writeTlbinv s v
  | 0x038 => writeReplay s (v.setWidth 12)
  | 0x040 => writeDecline s (v.extractLsb' 52 12) (v.setWidth 39)
  | _ => s

/-- A store to a security controller register (R52). -/
def writeSecurityReg (s : State) (off : Nat) (v : Word) : State :=
  if off = 0x140 then writeMeasure s v
  else if 0x100 ≤ off ∧ off < 0x140 ∧ off % 8 = 0 then writeMeasureData s ((off - 0x100) / 8) v
  else s

/-- 8 bytes of bridge-private memory as a bridge core reads them: those of a save area are enciphered (R112). -/
def privateWord (s : State) (a : Nat) : Word :=
  if s.ciphered.any fun r => a < r.1 + r.2 && r.1 < a + 8 then BitVec.ofNat 64 (ofBytes (freeBytes s a 8)) else physWord s a

/-- A store of 8 bytes to HBM4 in module form: outside bridge-private memory it is discarded (R25). -/
def writePrivate (s : State) (a : Nat) (v : Word) : State :=
  if inPrivate s a 8 then
    homeWrite { s with ciphered := cutRange s.ciphered a 8 } a (bytesOf 8 v.toNat) (outerWriter s none) (getOutside s s.outer).rel
  else s

/-- A store of 8 bytes by a bridge core (R25); one to an unassigned offset is discarded. (DEDUCED, log 45) -/
def writeRegister (s : State) (a : Nat) (v : Word) : State :=
  if 0x8000000000 ≤ a ∧ a < 0x8000100000 then
    let q : BitVec 8 := BitVec.ofNat 8 ((a - 0x8000000000) / 0x1000)
    setQueue s q { getQueue s q with discard := true }
  else if 0x8000100000 ≤ a ∧ a < 0x8000104000 then writeQueueReg s (a - 0x8000100000) v
  else if 0x8000200000 ≤ a ∧ a < 0x8000201000 then writeHelmReg s (a - 0x8000200000) v
  else if 0x8000300000 ≤ a ∧ a < 0x8000301000 then writeOwnerReg s (a - 0x8000300000) v
  else if 0x8000400000 ≤ a ∧ a < 0x8000401000 then writeReqReg s (a - 0x8000400000) v
  else if 0x8000500000 ≤ a ∧ a < 0x8000510000 then writeFaultReg s ((a - 0x8000500000) / 0x2000) (a % 0x2000) v
  else if 0x8000600000 ≤ a ∧ a < 0x8000601000 then writeSecurityReg s (a - 0x8000600000) v
  else if 0xC000000000 ≤ a ∧ a < 0x10C000000000 then
    accessAperture s (BitVec.ofNat 8 ((a - 0xC000000000) / 2 ^ 36)) (BitVec.ofNat 36 (a - 0xC000000000)) 8 true v
  else if 0x200000000000 ≤ a ∧ a < 0x210000000000 then writePrivate s (a - 0x200000000000) v
  else s

/-- REGISTER_WRITE (R25). -/
def execRegisterWrite (addr : BitVec 48) (v : Word) (s : State) : Out := .next (writeRegister s addr.toNat v)

/-! ### Register reads (R25): what a read of 8 bytes returns, without its effects -/

/-- A bit at a place of a word. -/
def bitNo (b : Bool) (n : Nat) : Nat := if b then 2 ^ n else 0

/-- QCFG, QSTAT, QTAG (R27). -/
def readQueueReg (s : State) (off : Nat) : Word :=
  let n : BitVec 8 := BitVec.ofNat 8 (off / 0x40)
  let q := getQueue s n
  match off % 0x40 with
  | 0x00 => BitVec.ofNat 64 (bitNo q.en 63 + q.prio.toNat * 2 ^ 58 + q.owner.toNat * 2 ^ 32)
  | 0x08 => BitVec.ofNat 64 (bitNo q.discard 63 + bitNo q.cfgErr 62 + bitNo (queueLive s n) 61 + (64 - q.fifo.length) * 2 ^ 48 + q.lastSeq.toNat)
  | 0x10 => q.tag
  | _ => 0

/-- The helm registers (R26, R40, R76, R83, R90, R112). -/
def readHelmReg (s : State) (off : Nat) : Word :=
  let h := s.helm
  match off with
  | 0x000 => BitVec.ofNat 64 (h.logBase.toNat * 4096)
  | 0x008 => zx h.logSize
  | 0x010 => zx h.logHead
  | 0x018 => zx h.logTail
  | 0x020 => BitVec.ofNat 64 (bitNo h.snap 63)
  | 0x028 => BitVec.ofNat 64 (bitNo h.afault 2 + bitNo h.paused 1 + bitNo h.isOpen 0)
  | 0x030 => h.abortReg
  | 0x040 => BitVec.ofNat 64 (h.wait3.toNat * 2 ^ 32 + h.wait2.toNat * 2 ^ 16 + h.wait1.toNat)
  | 0x048 => zx h.hage
  | 0x050 => BitVec.ofNat 64 (bitNo h.hintBad 0)
  | 0x060 => BitVec.ofNat 64 (h.saveBase.toNat * 65536)
  | 0x068 => zx h.saveSize
  | 0x070 => BitVec.ofNat 64 (h.privBase.toNat * 65536)
  | 0x078 => zx h.privSize
  | 0x100 => BitVec.ofNat 64 (h.epoch.toNat * 2 ^ 32 + h.promote.toNat * 2 ^ 16 + h.headroom.toNat)
  | _ => if 0x800 ≤ off ∧ off < 0x1000 ∧ off % 8 = 0 then AMap.getD h.apertures ((off - 0x800) / 8) 0 else 0

/-- OWNARG and OWNSTAT (R45); OWNCMD reads as an unassigned offset. -/
def readOwnerReg (s : State) (off : Nat) : Word :=
  match off with
  | 0x008 => s.own.ownArg
  | 0x010 => BitVec.ofNat 64 (bitNo s.own.busy 63 + s.own.result.toNat * 2 ^ 60 + s.own.statOwner.toNat * 2 ^ 48)
  | _ => 0

/-- The host-assisted request registers (R44). -/
def readReqReg (s : State) (off : Nat) : Word :=
  match off with
  | 0x000 => s.req.reqBase
  | 0x008 => zx s.req.reqSize
  | 0x010 => zx s.req.reqHead
  | 0x018 => zx s.req.reqTail
  | 0x020 => BitVec.ofNat 64 (bitNo s.req.badAns 0)
  | _ => 0

/-- A die's fault buffer registers (R95). -/
def readFaultReg (s : State) (die off : Nat) : Word :=
  let d := getDie s die
  match off with
  | 0x000 => BitVec.ofNat 64 (d.fbBase.toNat * 4096)
  | 0x008 => zx d.fbSize
  | 0x010 => zx d.fbHead
  | 0x018 => zx d.fbTail
  | 0x020 => BitVec.ofNat 64 (bitNo s.inv.invBusy 3 + bitNo s.inv.repBusy 2 + bitNo d.dropped 1 + bitNo d.en 0)
  | 0x028 => zx d.dropCnt
  | 0x030 => s.inv.inv
  | 0x038 => zx s.inv.replay
  | 0x040 => s.inv.decline
  | _ => 0

/-- What a read of 8 bytes at a bridge address outside the apertures returns (R25). (DEDUCED, log 45) -/
def readRegister (s : State) (a : Nat) : Word :=
  if 0x8000100000 ≤ a ∧ a < 0x8000104000 then readQueueReg s (a - 0x8000100000)
  else if 0x8000200000 ≤ a ∧ a < 0x8000201000 then readHelmReg s (a - 0x8000200000)
  else if 0x8000300000 ≤ a ∧ a < 0x8000301000 then readOwnerReg s (a - 0x8000300000)
  else if 0x8000400000 ≤ a ∧ a < 0x8000401000 then readReqReg s (a - 0x8000400000)
  else if 0x8000500000 ≤ a ∧ a < 0x8000510000 then readFaultReg s ((a - 0x8000500000) / 0x2000) (a % 0x2000)
  else if 0x200000000000 ≤ a ∧ a < 0x210000000000 then
    (if inPrivate s (a - 0x200000000000) 8 then privateWord s (a - 0x200000000000) else allOnes 8)
  else 0

/-! ### What outside agents do beside the table's rows (R30, R51, R216) -/

/-- The clocks of the logbook's final entries that bytes of `[a, a + 8)` belong to (R30). -/
def entryClocks (s : State) (a : Nat) : List Clock :=
  (s.helm.logEnds.filter fun e =>
    let at_ := s.helm.logBase.toNat * 4096 + 32 * (e.1 % 2 ^ s.helm.logSize.toNat)
    decide (at_ < a + 8 ∧ a < at_ + 32)).map (·.2)

/-- A bridge core loads 8 bytes (R25): through an aperture (R26), or elsewhere, where of a final logbook entry it reads what the entry
releases (R30). -/
def outsideLoad (s0 : State) (core : BitVec 6) (a : Nat) : State :=
  let s := { s0 with outer := core.toNat, readData := readRegister s0 a, accessOk := true }
  if 0xC000000000 ≤ a ∧ a < 0x10C000000000 then
    accessAperture { s0 with outer := core.toNat } (BitVec.ofNat 8 ((a - 0xC000000000) / 2 ^ 36)) (BitVec.ofNat 36 (a - 0xC000000000)) 8 false 0
  else if 0x200000000000 ≤ a ∧ a < 0x210000000000 then
    outerSaw s ((entryClocks s (a - 0x200000000000)).map fun c => { place := .device, scope := .system, clock := c })
  else s

/-- What an outside agent asks for at a bridge address lies in an aperture and waits (R224). -/
def windowWaits (s : State) (a : Nat) (write : Bool) : Bool :=
  decide (0xC000000000 ≤ a ∧ a < 0x10C000000000)
    && apertureWaits s (BitVec.ofNat 8 ((a - 0xC000000000) / 2 ^ 36)) (BitVec.ofNat 36 (a - 0xC000000000)) 8 write

/-- An outside agent's fence (R30, R218): it acquires, at system scope, what its reads took values from, and its later writes release
what it has seen and done. -/
def outsideFence (s : State) (who : Nat) : State :=
  let s := { s with outer := who }
  let a := getOutside s who
  let clk := acquireFrom (outsideClock s) a.seen .outside .system
  setOutside s who { clock := clk, seen := [], rel := [{ place := .outside, scope := .system, clock := clk }] }

/-- A bridge core acquires what another released in the bridge complex's own memory. (DESIGN CHOICE, log 81) -/
def handOver (s : State) (a b : BitVec 6) : State :=
  let x := getOutside s b.toNat
  setOutside s b.toNat { x with clock := Clock.join x.clock (outsideClock { s with outer := a.toNat }) }

/-- Running firmware asks for a fused minimum: it rises, never above the running image's security version (R51). -/
def raiseMinVersion (s : State) (v : BitVec 32) : State :=
  if s.board.bankRunning.isSome ∧ s.board.fuseMinVer.toNat < v.toNat ∧ v.toNat ≤ s.board.runningVer.toNat then
    { s with board := { s.board with fuseMinVer := v } }
  else s

end Sys2Proof.Machine
end

