-- ==== Sys2Proof/Machine/Board.lean ====
section
/-! DEFINITION. The board and the security controller: power, resets and the power-up sequence (R11, R13–R18, R20), boot
verification and measurement (R50–R53), the management port (R23, R24), Meridian ports (R21), soft errors (R117, R118). -/

namespace Sys2Proof.Machine

/-! ### Boot verification (R50, R51) -/

/-- Bytes of one of the two flash banks (R10). -/
def bankBytes : Nat := 2 ^ 25

/-- A little-endian field of a bank's header (R50). -/
def headerField (s : State) (bank off n : Nat) : Nat := ofBytes (memGetN s.board.flash n (bank * bankBytes + off))

/-- "VX8FWIMG" as a little-endian number (R50). -/
def fwMagic : Nat := 0x474D495746385856

/-- The body of a bank's image. -/
def fwBody (s : State) (bank : Nat) : List Byte := memGetN s.board.flash (headerField s bank 16 8) (bank * bankBytes + 256)

/-- The digest that a bank's header states. (DEDUCED, log 74) -/
def fwDigest (s : State) (bank : Nat) : BitVec 512 := BitVec.ofNat 512 (headerField s bank 64 64)

/-- The six checks of R51 on a bank, in order. (DEDUCED, log 74) -/
def bankGood (s : State) (bank : Nat) : Bool :=
  let key := headerField s bank 128 4
  headerField s bank 0 8 == fwMagic && headerField s bank 8 4 == 1
    && decide (key < 4) && !(s.board.fuseRevoked.getLsbD key)
    && decide (s.board.fuseMinVer.toNat ≤ headerField s bank 12 4)
    && decide (headerField s bank 16 8 ≤ 33554176)
    && Config.sha512 (fwBody s bank) == fwDigest s bank
    && Config.sha512 (bytesOf 64 (Config.molnikarKey key).toNat) == AMap.getD s.board.fuseKeyHash key 0
    && Config.ed25519Verify (Config.molnikarKey key) (memGetN s.board.flash 192 (bank * bankBytes))
        (BitVec.ofNat 512 (headerField s bank 192 64))

/-- The bank that boots: the chosen one (bank 0 when none was), else the other; none where both fail (R51). (DEDUCED, log 74) -/
def bootBank (s : State) : Option Nat :=
  let first := s.board.bankSel.getD 0
  if bankGood s first then some first else if bankGood s (1 - first) then some (1 - first) else none

/-! ### Reports (R24) -/

def report (s : State) (e : EventReport) : State := { s with board := { s.board with events := s.board.events ++ [e] } }

/-! ### Resets (R11, R13, R17) -/

/-- Global memory only: what the SRAM of the compute dies held is gone (R17). (DESIGN CHOICE, log 9) -/
def dropSram (s : State) : State :=
  { s with
    mem := s.mem.filter fun c => globalKey c.1
    poison := s.poison.filter globalKey
    loose := s.loose.filter fun r => globalKey r.1
    wrote := s.wrote.filter fun r => globalKey r.2.1
    full := []
    writes := []
    posted := []
    homeRel := []
    fillClk := []
    fullFences := [] }

/-- Everything that ran on the compute dies, and every translation, is gone. (DEDUCED, log 73) -/
def dropWork (s : State) : State :=
  { s with
    clusters := []
    cores := []
    threads := []
    crews := []
    reserves := []
    preempting := []
    vsaves := []
    frozen := []
    moves := []
    counts := []
    messages := []
    spawns := []
    dies := s.dies.map fun e => (e.1, { e.2 with l2 := [], wcache := [], walks := [], faults := [], missQ := [] })
    inv := { s.inv with invBusy := false, repBusy := false, repQ := [], repClks := [], repClk := [] } }

/-- The board after a cold reset: what the flash, the fuses and the pins hold stays (R17, R52). (DESIGN CHOICE, log 9) -/
def coldBoard (b : ModuleState) : ModuleState where
  phase := .held
  v12Good := b.v12Good
  pwrgd48 := b.pwrgd48
  strapPins := b.strapPins
  bankSel := b.bankSel
  flash := b.flash
  fuseRevoked := b.fuseRevoked
  fuseMinVer := b.fuseMinVer
  fuseKeyHash := b.fuseKeyHash
  enrolledKeys := b.enrolledKeys
  keysDrawn := b.keysDrawn

/-- The logbook's entries are lost: its bytes read as memory that nothing has written (R17). -/
def dropLogbook (s : State) : State :=
  let base := s.helm.logBase.toNat * 4096
  let n := 32 * 2 ^ s.helm.logSize.toNat
  { s with mem := memClear s.mem base (base + n), loose := cutRange s.loose base n, wrote := cutWrote s.wrote base n }

/-- A cold reset (R17): all activity stops, every key slot is zeroised, every SRAM and the logbook are lost. What else HBM4 and DDR-5
held stays under keys that are gone. (DESIGN CHOICE, log 9) -/
def coldReset (s : State) : State :=
  { dropLogbook (dropSram (dropWork s)) with
    board := coldBoard s.board
    queues := []
    helm := {}
    req := {}
    own := {}
    records := []
    work := []
    dies := []
    inv := {}
    nextCrew := 0
    cur := 0
    outer := 0
    outside := []
    readData := 0
    readBytes := []
    accessOk := true }

/-- COLD_RESET (R17): RESET_N is asserted. -/
def execColdReset (s : State) : Out := .next (coldReset s)

/-- V12_AUX_LOSS (R11): a loss of V12_AUX acts as a cold reset. -/
def execV12AuxLoss (s : State) : Out :=
  let s := coldReset s
  .next { s with board := { s.board with v12Good := false } }

/-- A thermal trip (R13, R17): as a cold reset, which also zeroes the measurement registers (R52), but the security controller and the
management port keep running, with the selection in progress and what they report, and V48_MAIN stays off until RESET_N is cycled. A
MODULE_RESET in progress is aborted. (DESIGN CHOICE, log 85) -/
def thermalTrip (s : State) (die : Nat) : State :=
  let b := s.board
  let s := coldReset s
  { s with board := { s.board with
      phase := .tripped
      resetN := b.resetN
      thermtripN := false
      straps := b.straps
      refclk := b.refclk
      runningVer := b.runningVer
      conns := b.conns
      replies := b.replies
      events := b.events ++ [.thermalTrip die]
      mgmtBusy := b.mgmtBusy.filter fun i => match i with | .firmwareSelect _ _ _ _ => true | _ => false
      sensors := b.sensors
      thermalSteps := b.thermalSteps
      coolSince := b.coolSince
      powerLimit := b.powerLimit
      inputPower := b.inputPower
      correctedCnt := b.correctedCnt } }

/-- Every record not in a final state takes an aborted entry with reason 0x30, in sequence order (R17). -/
def abortAll (s : State) : State :=
  (liveRecords s).foldl (fun s q => match AMap.find s.records q with
    | some r => moveRecord s r .aborted 0x30 r.index
    | none => s) s

/-- A warm reset begins (R17): work stops without a save, every owner is retired, and the compute-die SRAM is scrubbed. (DEDUCED, log 73) -/
def warmStart (s : State) : State :=
  let s := dropSram (dropWork (abortAll s))
  { s with
    own := { s.own with busy := false, transfer := none, owners := [] }
    req := { s.req with posted := [], held := [] }
    board := { s.board with phase := .powerUp 5, warmRunning := true, clk := 0, dieClk := [] } }

/-! ### The power-up sequence (R18, R20) -/

/-- Exactly the channels below `n` are populated, each once. -/
def channelsFilled (b : ModuleState) (n : Nat) : Bool :=
  b.dimms.length == n && (rangeFrom n 0).all fun c => b.dimms.any fun d => d.1 == c

/-- The population of the DDR-5 tier is one that R20 allows: channels 0–7 or all 16, one type, one capacity. (DEDUCED, log 11) -/
def ddrLegal (b : ModuleState) : Bool :=
  (channelsFilled b 8 || channelsFilled b 16) && match b.dimms with
    | [] => false
    | (_, kind, gib) :: rest => (gib == 64 || gib == 128 || gib == 256) && rest.all fun d => d.2.1 == kind && d.2.2 == gib

/-- Meridian ports that train, and where they lead (R21). (DEDUCED, log 11) -/
def trainedRoutes (slot : Nat) : List Nat :=
  (rangeFrom 12 0).filterMap fun p =>
    if Config.meridianPeer p < 8 ∧ Config.meridianPeer p ≠ slot then some (Config.meridianPeer p * 16 + p) else none

/-- Step 6: the pilot and the helm run, and the Meridian ports are trained; the first epoch begins (R18, R83). -/
def stepSix (s : State) : State :=
  { s with
    board := { s.board with
      phase := .running
      ports := (rangeFrom 12 0).map fun p => (p, { lanes := 4 })
      routes := trainedRoutes s.board.straps.slot.toNat }
    helm := { s.helm with epochEnd := s.board.refclk + 100 * (if s.helm.epoch = 0 then 1 else s.helm.epoch.toNat) } }

/-- Firmware's choices of R40 and R90, and the logbook opens at sequence number 0. -/
def openLog (s : State) : State :=
  { s with helm := { s.helm with
    privBase := Config.privateBase
    privSize := Config.privateSize
    logBase := Config.logBase
    isOpen := true } }

/-- A part that fails to train keeps the helm from starting: a HBM4 stack or a UCIe link (R18). -/
def keepsOff (fail : Option Nat) : Option Nat := fail.filter fun n => n < 64

/-- The failed part is reported, and the helm does not start (R18). -/
def stayOff (s : State) (part : Nat) : State :=
  report { s with board := { s.board with phase := .notStarted } } (.trainFail part)

/-- The DDR-5 tier that is legal and has no channel that fails is on; any other stays disabled, and the cause is reported (R20). -/
def trainTier (s : State) : State :=
  match s.board.trainFail with
  | some n => if n < 64 then s else report s (.tierDisabled n)
  | none => if ddrLegal s.board then { s with board := { s.board with tier2On := true } } else report s (.tierDisabled 0)

/-- Steps 4 to 6 once V48_MAIN is on (R18): a HBM4 stack or UCIe link that fails to train stops the sequence. -/
def stepsFourToSix (s : State) : State :=
  let s := { s with board := extendMr (extendMr s.board 2 (Config.firmwareConfig 2)) 3 (Config.firmwareConfig 3) }
  match keepsOff s.board.trainFail with
  | some n => stayOff s n
  | none => stepSix (openLog (trainTier s))

/-- Steps 5 and 6 of a warm reset (R17, R18): the UCIe links train again, and one that fails keeps the helm off; HBM4, in
self-refresh, is not trained again, so that a stack that had failed still does. A logbook that no step 6 has opened is opened.
(DEDUCED, log 73) -/
def warmSteps (s0 : State) : State :=
  let s := { s0 with board := { s0.board with retrains := s0.board.retrains.drop 1, warmRunning := false, mgmtBusy := none } }
  match (s.board.trainFail.filter fun n => n < 16) <|> ((s0.board.retrains.headD none).filter fun n => 16 ≤ n ∧ n < 64) with
  | some n => stayOff s n
  | none => stepSix (if s.helm.isOpen then s else openLog (trainTier { s with board := { s.board with trainFail := s.board.trainFail.filter fun n => 64 ≤ n } }))

/-- Step 3: with PWRGD_48 the V48_MAIN regulators are enabled, and the sequence goes on (R18). -/
def stepThree (s : State) : State :=
  if s.board.phase = .powerUp 3 ∧ s.board.pwrgd48 = true then stepsFourToSix { s with board := { s.board with v48On := true } } else s

/-- Steps 1 and 2 after the straps are sampled: MR0, then the firmware is verified and MR1 extended (R16, R51, R52). In recovery boot
the sequence stays at step 2 until the next cold reset. (DEDUCED, log 10) (DESIGN CHOICE, log 85) -/
def stepsOneAndTwo (s : State) : State :=
  let s := { s with board := extendMr s.board 0 Config.bootRomDigest }
  match s.board.straps.boot.toNat with
  | 0 =>
    match bootBank s with
    | some b =>
      let board := extendMr s.board 1 (fwDigest s b)
      stepThree { s with board := { board with phase := .powerUp 3, bankRunning := some b, runningVer := BitVec.ofNat 32 (headerField s b 12 4) } }
    | none => report { s with board := { s.board with phase := .halted 2 } } .bootVerify
  | 1 => { s with board := { s.board with phase := .powerUp 2 } }
  | _ => report { s with board := { s.board with phase := .halted 1 } } .bootStrap

/-- POWER_UP (R16, R18): RESET_N is deasserted with V12_AUX good, which starts the REFCLK_SYS count. (DEDUCED, log 10) (DEDUCED, log 11) -/
def execPowerUp (pins : BitVec 9) (dimms : List (Nat × Bool × Nat)) (retrains : List (Option Nat)) (trainFail : Option Nat) (s : State) : Out :=
  if s.board.phase ≠ .held then .next s
  else
    let st : Straps :=
      { boot := pins.extractLsb' 0 2, slot := pins.extractLsb' 2 3, pcie0 := pins.extractLsb' 5 2, pcie1 := pins.extractLsb' 7 2 }
    .next (stepsOneAndTwo { s with board := { s.board with
      phase := .powerUp 1, resetN := true, v12Good := true, strapPins := st, straps := st, refclk := 0, dimms := dimms,
      trainFail := trainFail, retrains := retrains } })

/-- PWRGD_48 (R18). (DEDUCED, log 10) -/
def execPwrgd48 (s : State) : Out := .next (stepThree { s with board := { s.board with pwrgd48 := true } })

/-- BRIDGE_CORE_RESET (R17): the bridge cores start again, and have acquired nothing; the device goes on. -/
def execBridgeCoreReset (s : State) : Out := .next { s with outside := s.outside.filter fun e => 64 ≤ e.1 }

/-! ### Temperature and power (R13, R14) -/

/-- Clock steps of 105 MHz between 2,100 MHz and 1,050 MHz (R13). -/
def maxSteps : Nat := 10

/-- The clock of a die in MHz; where R13 and R14 both apply, the lower (R14). Die 8 is the bridge die. -/
def dieClockMHz (b : ModuleState) (die : Nat) : Nat :=
  let t := AMap.getD b.thermalSteps die 0
  2100 - 105 * (if die < 8 then Nat.max t b.powerSteps else t)

/-- A die whose sensors all read below 95 °C: after 10 ms of that the clock rises by one step (R13). (DEDUCED, log 69) -/
def coolDie (b : ModuleState) (die : Nat) : ModuleState :=
  let n := AMap.getD b.thermalSteps die 0
  match AMap.find b.coolSince die with
  | none => { b with coolSince := AMap.set b.coolSince die b.refclk }
  | some t =>
    if t + 1000000 ≤ b.refclk ∧ 0 < n then
      { b with thermalSteps := AMap.set b.thermalSteps die (n - 1), coolSince := AMap.set b.coolSince die b.refclk }
    else b

/-- SENSOR_READ (R13): the sensors of a die are read. (DEDUCED, log 69) -/
def execSensorRead (die : Nat) (temps : List Nat) (s : State) : Out :=
  if s.board.phase = .held ∨ 9 ≤ die then .next s
  else
    let at8 := (rangeFrom temps.length 0).zip temps
    let b : ModuleState := { s.board with sensors := at8.foldl (fun m e => AMap.set m (die * 8 + e.1) e.2) s.board.sensors }
    let s := { s with board := b }
    if temps.any (fun t => 110 < t) then .next (if b.phase == PowerPhase.tripped then s else thermalTrip s die)
    else if temps.any (fun t => 100 < t) then
      let n := AMap.getD b.thermalSteps die 0
      .next (report { s with board := { b with thermalSteps := AMap.set b.thermalSteps die (Nat.min (n + 1) maxSteps), coolSince := AMap.erase b.coolSince die } }
        (.thermalStep die))
    else if temps.all (fun t => t < 95) then .next { s with board := coolDie b die }
    else .next { s with board := { b with coolSince := AMap.erase b.coolSince die } }

/-- POWER_WINDOW (R14): the average input power of a window of 1 ms against the limit. (DEDUCED, log 69) -/
def execPowerWindow (watts : Nat) (s : State) : Out :=
  let b := s.board
  let n := if b.powerLimit < watts then Nat.min (b.powerSteps + 1) maxSteps else b.powerSteps - 1
  .next { s with board := { b with inputPower := watts, powerSteps := n } }

/-! ### Meridian ports (R21) -/

/-- MERIDIAN_LANE_FAILURE (R21): from four lanes the port retrains on two; from two it goes down, and is reported. -/
def execMeridianLaneFailure (port4 : BitVec 4) (s : State) : Out :=
  let p := port4.toNat
  let put := fun (n : Nat) => { s with board := { s.board with ports := AMap.set s.board.ports p { lanes := n } } }
  match AMap.find s.board.ports p with
  | none => .next s
  | some v =>
    if v.lanes = 4 then .next (report (put 2) (.laneDropped p))
    else if v.lanes = 2 then .next (report (put 0) (.portDown p))
    else .next s

/-! ### Soft errors (R117, R118) -/

/-- The die that holds a location: 8, the bridge die, for DDR-5. -/
def locationDie (k : Nat) : Nat :=
  if k < 2 ^ 40 then k / 2 ^ 37
  else if k < 2 ^ 43 then 8
  else if k < 2 ^ 44 then coreDie ((k - 2 ^ 43) / 2 ^ 18)
  else if k < 2 ^ 45 then clusterDie ((k - 2 ^ 44) / (16 * 64 * 8192))
  else if k < 2 ^ 46 then clusterDie ((k - 2 ^ 45) / 2 ^ 16)
  else if k < 2 ^ 47 then tagDie (k - 2 ^ 46)
  else coreDie (k - 2 ^ 47)

/-- A launch ends faulted with reason 0x22 (R118). -/
def dataError (s : State) (crew : Nat) : State :=
  match getCrew s crew with
  | some w => stopRecord s w.record .faulted 0x22
  | none => s

/-- Bad data in a save area's header: the save is discarded, and its launch ends faulted with reason 0x22 (R118). -/
def saveHeaderBad (s : State) (k : Nat) : State :=
  let base := fun (v : Save) => s.helm.saveBase.toNat * 65536 + v.base * 65536
  (s.crews.filter fun e => match e.2.save with
    | some v => decide (base v ≤ k ∧ k < base v + 0x1000)
    | none => false).foldl (fun s e => dataError s e.1) s

/-- An uncorrectable error in a register of a thread (2^46 + its tag), or in the shared registers or banks of a core (2^47 + core):
the launch ends faulted; elsewhere the bytes are marked, and the logbook, the fault buffers and save headers are reported.
(DEDUCED, log 70) -/
def uncorrectable (s : State) (k : Nat) : State :=
  if 2 ^ 47 ≤ k then (match (getCore s (k - 2 ^ 47)).crew with | some c => dataError s c | none => s)
  else if 2 ^ 46 ≤ k then (if (getThread s (k - 2 ^ 46)).live then dataError s (getThread s (k - 2 ^ 46)).crew else s)
  else
    let s := markBad s k 1
    if globalKey k && inPrivate s (k / 64 * 64) 64 then saveHeaderBad (report s (.privatePoisoned k)) k else s

/-- A correctable error is corrected and counted (R117). (DEDUCED, log 70) -/
def corrected (s : State) (k : Nat) : State :=
  let d := locationDie k
  report { s with board := { s.board with correctedCnt := AMap.set s.board.correctedCnt d (AMap.getD s.board.correctedCnt d 0 + 1) } } (.corrected d)

/-- PATROL_SCRUB (R117): a word with an error is read. (DEDUCED, log 70) -/
def execPatrolScrub (location : Nat) (bad : Bool) (s : State) : Out := .next (if bad then uncorrectable s location else corrected s location)

/-! ### The management port (R23, R24) -/

/-- The port answers: V12_AUX is present and RESET_N deasserted. -/
def mgmtUp (s : State) : Bool := s.board.phase != .held

/-- Recovery boot (R16, R24). -/
def recovery (s : State) : Bool := s.board.straps.boot == 1

/-- MANAGEMENT_CONNECTION (R24): a client whose key is enrolled, or any in recovery boot; at most four. Whether the key is enrolled is
settled here, for the life of the connection. (DESIGN CHOICE, log 82) -/
def execManagementConnection (conn : Nat) (key : BitVec 256) (s : State) : Out :=
  let known := s.board.enrolledKeys.contains key
  if mgmtUp s && (known || recovery s) && decide (s.board.conns.length < 4) && !(s.board.conns.any fun c => c.conn == conn) then
    .next { s with board := { s.board with conns := s.board.conns ++ [{ conn := conn, enrolled := known }] } }
  else .next s

/-- One more reply on a connection. -/
def alsoReply (s : State) (conn : Nat) (mseq : Word) (status mtype : Nat) (body : List Byte) : State :=
  let r : MgmtReply := { conn := conn, seqNo := mseq, status := BitVec.ofNat 16 status, mtype := BitVec.ofNat 16 mtype, body := body }
  { s with board := { s.board with replies := s.board.replies ++ [r] } }

/-- The reply on a connection, in place of those to earlier requests there. -/
def reply (s : State) (conn : Nat) (mseq : Word) (status mtype : Nat) (body : List Byte) : State :=
  alsoReply { s with board := { s.board with replies := s.board.replies.filter fun q => q.conn != conn } } conn mseq status mtype body

/-- The connection of a request that takes time. -/
def busyConn : Instr → Option Nat
  | .moduleReset c _ _ => some c
  | .firmwareSelect c _ _ _ => some c
  | _ => none

/-- A reset or selection of another connection is in progress (R24). (DEDUCED, log 72) -/
def busyElsewhere (s : State) (conn : Nat) : Bool :=
  match s.board.mgmtBusy with
  | some i => busyConn i != some conn
  | none => false

/-- The reset or selection in progress is another request of this connection (R24). (DEDUCED, log 72) -/
def busyHere (s : State) (conn : Nat) (self : Instr) : Bool :=
  match s.board.mgmtBusy with
  | some i => busyConn i == some conn && i != self
  | none => false

/-- A request of the connection is in progress or waits before this one (R24). -/
def mustWait (s : State) (c : MgmtConn) (self : Instr) : Bool :=
  busyHere s c.conn self || (!c.waiting.isEmpty && s.board.mgmtBusy != some self)

def setConn (s : State) (c : MgmtConn) : State :=
  { s with board := { s.board with conns := s.board.conns.map fun x => if x.conn == c.conn then c else x } }

/-- A request of a type on a connection (R24): one at a time per connection, so that one behind another waits; then permission, then
a reset or selection of another connection in progress, then the length of the body, then what the type does, which gives a status
and a body. Where several statuses apply, that order says which is given. (DESIGN CHOICE, log 85) -/
def request (self : Instr) (s : State) (conn : Nat) (mseq : Word) (mtype : Nat) (open_ lenGood : Bool)
    (act : State → State × Nat × List Byte) : Out :=
  match s.board.conns.find? fun c => c.conn == conn with
  | none => .next s
  | some c =>
    if !mgmtUp s then .next s
    else if mustWait s c self then .next (setConn s { c with waiting := c.waiting ++ [self] })
    else if !c.enrolled && !open_ then .next (reply s conn mseq 3 mtype [])
    else if busyElsewhere s conn then .next (reply s conn mseq 4 mtype [])
    else if !lenGood then .next (reply s conn mseq 2 mtype [])
    else
      let r := act s
      .next (reply r.1 conn mseq r.2.1 mtype r.2.2)

/-- Little-endian words of 8 bytes. -/
def wordBytes (l : List Nat) : List Byte := l.flatMap (bytesOf 8)

/-- TELEMETRY (R24): input power, the rails, all junction temperatures, the clock and the corrected errors of each die.
(DESIGN CHOICE, log 71) -/
def execTelemetry (conn : Nat) (mseq : Word) (len : Nat) (s : State) : Out :=
  request (.telemetry conn mseq len) s conn mseq 1 true (len == 0) fun s =>
    (s, 0, wordBytes ([s.board.inputPower, (Config.railVoltage 0).toNat, (Config.railVoltage 1).toNat]
      ++ (rangeFrom 72 0).map (fun i => AMap.getD s.board.sensors i 0)
      ++ (rangeFrom 9 0).map (dieClockMHz s.board)
      ++ (rangeFrom 9 0).map fun d => AMap.getD s.board.correctedCnt d 0))

/-- SET_POWER_LIMIT (R14, R24). -/
def execSetPowerLimit (conn : Nat) (mseq : Word) (len : Nat) (v32 : BitVec 32) (s : State) : Out :=
  request (.setPowerLimit conn mseq len v32) s conn mseq 2 false (len == 4) fun s =>
    if 2000 ≤ v32.toNat ∧ v32.toNat ≤ 4200 then ({ s with board := { s.board with powerLimit := v32.toNat } }, 0, []) else (s, 5, [])

/-- A module that can take a warm reset: its cold sequence has ended. While that sequence runs it is the wider reset and wins; a module
that is halted, or tripped until RESET_N is cycled, has nothing to restart (R13, R16, R17). (DESIGN CHOICE, log 82) -/
def warmCan (s : State) : Bool := s.board.phase == .running || s.board.phase == .notStarted

/-- Requests for a warm reset that arrived on a connection while one ran are merged into it (R17): they are answered with it. -/
def mergeResets (s : State) (conn : Nat) : State :=
  let same := fun (i : Instr) => match i with | .moduleReset _ _ len => len == 0 | _ => false
  match s.board.conns.find? fun c => c.conn == conn with
  | none => s
  | some c =>
    (c.waiting.filter same).foldl (fun s i => match i with | .moduleReset _ q _ => alsoReply s conn q 0 3 [] | _ => s)
      (setConn s { c with waiting := c.waiting.filter fun i => !same i })

/-- MODULE_RESET (R17): the warm reset begins; taken again on its connection it ends, with steps 5 and 6 in their warm form, and is
answered. Which UCIe link then fails to train, if one does, is the next of `Board.retrains`. (DEDUCED, logs 72, 73) -/
def execModuleReset (conn : Nat) (mseq : Word) (len : Nat) (s : State) : Out :=
  let self : Instr := .moduleReset conn mseq len
  match s.board.conns.find? fun c => c.conn == conn with
  | none => .next s
  | some c =>
    if s.board.warmRunning ∧ s.board.mgmtBusy = some self then .next (mergeResets (reply (warmSteps s) conn mseq 0 3 []) conn)
    else if c.enrolled = true ∧ c.waiting = [] ∧ len = 0 ∧ s.board.mgmtBusy = none ∧ warmCan s = true then
      let s := warmStart s
      .next { s with board := { s.board with mgmtBusy := some self } }
    else request self s conn mseq 3 false (len == 0) fun s => (s, 0, [])

/-- The bank that FIRMWARE_WRITE writes: the one that does not run (R24); where none runs, the one that is not selected for the next
cold reset, bank 1 when none was. (DESIGN CHOICE, log 82) -/
def inactiveBank (s : State) : Nat := 1 - (s.board.bankRunning.getD (s.board.bankSel.getD 0))

/-- FIRMWARE_WRITE (R24). -/
def execFirmwareWrite (conn : Nat) (mseq : Word) (len : Nat) (foff : BitVec 32) (data : List Byte) (s : State) : Out :=
  request (.firmwareWrite conn mseq len foff data) s conn mseq 4 true (len == 4 + data.length && decide (len ≤ 65536)) fun s =>
    if foff.toNat + data.length ≤ bankBytes then
      ({ s with board := { s.board with flash := memSetN s.board.flash (inactiveBank s * bankBytes + foff.toNat) data } }, 0, [])
    else (s, 5, [])

/-- The verification of FIRMWARE_SELECT can begin: nothing stands before it. -/
def selectStarts (s : State) (conn : Nat) (len : Nat) (bank : BitVec 32) : Bool :=
  len == 4 && decide (bank.toNat < 2) && s.board.mgmtBusy == none && mgmtUp s
    && (match s.board.conns.find? fun c => c.conn == conn with | some c => c.waiting.isEmpty | none => false)

/-- FIRMWARE_SELECT (R24): the bank is verified; taken again on its connection, the verification ends and is answered. (DEDUCED, log 72) -/
def execFirmwareSelect (conn : Nat) (mseq : Word) (len : Nat) (bank : BitVec 32) (s : State) : Out :=
  let self : Instr := .firmwareSelect conn mseq len bank
  if selectStarts s conn len bank then .next { s with board := { s.board with mgmtBusy := some self } }
  else request self s conn mseq 5 true (len == 4) fun s =>
    if 2 ≤ bank.toNat then (s, 5, [])
    else
      let s' := if s.board.mgmtBusy = some self then { s with board := { s.board with mgmtBusy := none } } else s
      if bankGood s bank.toNat then ({ s' with board := { s'.board with bankSel := some bank.toNat } }, 0, []) else (s', 3, [])

/-- The first 616 bytes of an attestation report (R53). -/
def attestBody (s : State) (nonce : BitVec 256) : List Byte :=
  bytesOf 16 Config.serialNumber.toNat ++ bytesOf 4 1 ++ bytesOf 4 s.board.runningVer.toNat
    ++ (rangeFrom 8 0).flatMap (fun n => bytesOf 64 (AMap.getD s.board.measure n 0).toNat)
    ++ bytesOf 32 nonce.toNat ++ bytesOf 8 s.board.refclk ++ bytesOf 40 0

/-- ATTEST (R53): the report with its signature, 680 bytes. -/
def execAttest (conn : Nat) (mseq : Word) (len : Nat) (nonce : BitVec 256) (s : State) : Out :=
  request (.attest conn mseq len nonce) s conn mseq 6 true (len == 32) fun s =>
    (s, 0, attestBody s nonce ++ bytesOf 64 (Config.identitySign (attestBody s nonce)).toNat)

/-- The number that a report carries in an EVENTS reply: its kind and what it names. (DESIGN CHOICE, log 71) -/
def EventReport.number : EventReport → Nat
  | .bootStrap => 1 | .bootVerify => 2 | .trainFail n => 3 + n * 256 | .tierDisabled n => 4 + n * 256 | .thermalTrip d => 5 + d * 256
  | .thermalStep d => 6 + d * 256 | .laneDropped p => 7 + p * 256 | .portDown p => 8 + p * 256 | .corrected d => 9 + d * 256
  | .ptePoisoned a => 10 + a * 256 | .privatePoisoned a => 11 + a * 256 | .serverUnused v => 12 + v * 256

/-- EVENTS (R24): the reports since the last read. (DESIGN CHOICE, log 71) -/
def execEvents (conn : Nat) (mseq : Word) (len : Nat) (s : State) : Out :=
  request (.events conn mseq len) s conn mseq 7 true (len == 0) fun s =>
    ({ s with board := { s.board with events := [] } }, 0, wordBytes (s.board.events.map EventReport.number))

/-- ENROLL_CLIENT (R24): only in recovery boot; at most 16 keys. A key that is enrolled already is answered 0 and not added again.
(DESIGN CHOICE, log 82) -/
def execEnrollClient (conn : Nat) (mseq : Word) (len : Nat) (key : BitVec 256) (s : State) : Out :=
  request (.enrollClient conn mseq len key) s conn mseq 8 true (len == 32 || !recovery s) fun s =>
    if !recovery s then (s, 3, [])
    else if 16 ≤ s.board.enrolledKeys.length then (s, 5, [])
    else if s.board.enrolledKeys.contains key then (s, 0, [])
    else ({ s with board := { s.board with enrolledKeys := s.board.enrolledKeys ++ [key] } }, 0, [])

/-- UNKNOWN_TYPE (R24): status 1, or 3 for a client that is not enrolled. -/
def execUnknownType (conn : Nat) (mseq : Word) (mtype : BitVec 16) (s : State) : Out :=
  request (.unknownType conn mseq mtype) s conn mseq mtype.toNat false true fun s => (s, 1, [])

end Sys2Proof.Machine
end

