-- ==== Sys2Proof/Machine/Float.lean ====
section
/-! DEFINITION. Scalar floating point (R284–R289): operands and results as R230 and R289 place them, rounding under
`fstat` RM, sticky flags. -/

namespace Sys2Proof.Machine

/-- The format of a precision bit: 0 for .s, 1 for .d (R284). -/
def fmtOf (p : BitVec 1) : Fmt := if p = 1 then f64 else f32

/-- A floating-point operand: the format's low bits of the register (R230). -/
def fpRead (f : Fmt) (v : Word) : Nat := v.toNat % 2 ^ f.width

/-- x[d] := r with the flags raised, pc := pc + 4. -/
def State.putF (s : State) (d : Reg) (r : Nat) (fl : FFlags) : State :=
  s.setTh (({ s.th with fstat := raiseFlags s.th.fstat fl }.writeX d (BitVec.ofNat 64 r)).advance)

/-- The rounding mode in force (R235). -/
def State.rm (s : State) : RMode := rmOf s.th.fstat

/-- A two-operand form: the result zero-extended (R284). -/
def fp2 (op : Fmt → RMode → Nat → Nat → Nat × FFlags) (d a b : Reg) (p : BitVec 1) (s : State) : Out :=
  let f := fmtOf p
  let r := op f s.rm (fpRead f (s.x a)) (fpRead f (s.x b))
  .next (s.putF d r.1 r.2)

/-- A fused form (R285). -/
def fp3 (negProd negC : Bool) (d a b c : Reg) (p : BitVec 1) (s : State) : Out :=
  let f := fmtOf p
  let r := f.fma s.rm negProd negC (fpRead f (s.x a)) (fpRead f (s.x b)) (fpRead f (s.x c))
  .next (s.putF d r.1 r.2)

/-- A comparison: 1 or 0 in all 64 bits (R288). -/
def fpCmp (op : Fmt → Nat → Nat → Bool × FFlags) (d a b : Reg) (p : BitVec 1) (s : State) : Out :=
  let f := fmtOf p
  let r := op f (fpRead f (s.x a)) (fpRead f (s.x b))
  .next (s.putF d (if r.1 then 1 else 0) r.2)

/-- Sign injection: a's magnitude with the sign `sg` gives from the two sign bits; no flag (R287). -/
def fpSign (sg : Bool → Bool → Bool) (d a b : Reg) (p : BitVec 1) (s : State) : Out :=
  let f := fmtOf p
  let x := fpRead f (s.x a)
  let top := 2 ^ (f.expBits + f.fracBits)
  let neg := sg (x / top = 1) (fpRead f (s.x b) / top = 1)
  .next (s.putF d (x % top + f.signBit neg) {})

/-- Float to integer: saturating to `lo`–`hi`, the result sign-extended from `w` bits when `ext` (R289). -/
def fpToInt (lo hi : Int) (w : Nat) (ext : Bool) (d a : Reg) (p : BitVec 1) (s : State) : Out :=
  let f := fmtOf p
  let r := f.toInt s.rm lo hi (fpRead f (s.x a))
  let v : BitVec w := BitVec.ofInt w r.1
  .next (s.putF d (if ext then (v.signExtend 64).toNat else v.toNat) r.2)

/-- Integer to float (R289). -/
def fpOfInt (v : Word → Int) (d a : Reg) (p : BitVec 1) (s : State) : Out :=
  let r := (fmtOf p).ofInt s.rm .ieee (v (s.x a))
  .next (s.putF d r.1 r.2)

/-- Float to float (R237). -/
def fpConv (src dst : Fmt) (ov : Over) (d a : Reg) (s : State) : Out :=
  let r := src.convert dst s.rm ov (fpRead src (s.x a))
  .next (s.putF d r.1 r.2)

/-! ### Meanings -/

/-- `fadd`: a + b rounded once (R285). -/
def execFadd (d a b : Reg) (p : BitVec 1) (s : State) : Out := fp2 Fmt.add d a b p s

/-- `fsub`: a − b rounded once (R285). -/
def execFsub (d a b : Reg) (p : BitVec 1) (s : State) : Out := fp2 Fmt.sub d a b p s

/-- `fmul`: a × b rounded once (R285). -/
def execFmul (d a b : Reg) (p : BitVec 1) (s : State) : Out := fp2 Fmt.mul d a b p s

/-- `fdiv`: a / b rounded once (R285). -/
def execFdiv (d a b : Reg) (p : BitVec 1) (s : State) : Out := fp2 Fmt.div d a b p s

/-- `fsqrt`: √a rounded once (R285). -/
def execFsqrt (d a : Reg) (p : BitVec 1) (s : State) : Out := 
  let r := (fmtOf p).sqrt s.rm (fpRead (fmtOf p) (s.x a))
  .next (s.putF d r.1 r.2)

/-- `fmadd`: a × b + c rounded once (R285). -/
def execFmadd (d a b c : Reg) (p : BitVec 1) (s : State) : Out := fp3 false false d a b c p s

/-- `fmsub`: a × b − c rounded once (R285). -/
def execFmsub (d a b c : Reg) (p : BitVec 1) (s : State) : Out := fp3 false true d a b c p s

/-- `fnmadd`: −(a × b) − c rounded once (R285). -/
def execFnmadd (d a b c : Reg) (p : BitVec 1) (s : State) : Out := fp3 true true d a b c p s

/-- `fmin`: minimumNumber or maximumNumber (R286). -/
def execFmin (d a b : Reg) (p : BitVec 1) (s : State) : Out := fp2 (fun f _ x y => f.minmax false x y) d a b p s

/-- `fmax`: minimumNumber or maximumNumber (R286). -/
def execFmax (d a b : Reg) (p : BitVec 1) (s : State) : Out := fp2 (fun f _ x y => f.minmax true x y) d a b p s

/-- `fsgnj`: sign sb (R287). -/
def execFsgnj (d a b : Reg) (p : BitVec 1) (s : State) : Out := fpSign (fun _ y => y) d a b p s

/-- `fsgnjn`: sign NOT sb (R287). -/
def execFsgnjn (d a b : Reg) (p : BitVec 1) (s : State) : Out := fpSign (fun _ y => !y) d a b p s

/-- `fsgnjx`: sign sa XOR sb (R287). -/
def execFsgnjx (d a b : Reg) (p : BitVec 1) (s : State) : Out := fpSign (fun x y => x != y) d a b p s

/-- `feq`: a = b (R288). -/
def execFeq (d a b : Reg) (p : BitVec 1) (s : State) : Out := fpCmp Fmt.feq d a b p s

/-- `flt`: a < b (R288). -/
def execFlt (d a b : Reg) (p : BitVec 1) (s : State) : Out := fpCmp Fmt.flt d a b p s

/-- `fle`: a ≤ b (R288). -/
def execFle (d a b : Reg) (p : BitVec 1) (s : State) : Out := fpCmp Fmt.fle d a b p s

/-- `fclass`: one bit of the class mask, no flag (R288). -/
def execFclass (d a : Reg) (p : BitVec 1) (s : State) : Out := 
  .next (s.putF d ((fmtOf p).classify (fpRead (fmtOf p) (s.x a))) {})

/-- `fcvt` to i32 (R289). -/
def execFcvtW (d a : Reg) (p : BitVec 1) (s : State) : Out := fpToInt (-(2 ^ 31)) (2 ^ 31 - 1) 32 true d a p s

/-- `fcvt` to u32 (R289). -/
def execFcvtWu (d a : Reg) (p : BitVec 1) (s : State) : Out := fpToInt 0 (2 ^ 32 - 1) 32 false d a p s

/-- `fcvt` to i64 (R289). -/
def execFcvtL (d a : Reg) (p : BitVec 1) (s : State) : Out := fpToInt (-(2 ^ 63)) (2 ^ 63 - 1) 64 false d a p s

/-- `fcvt` to u64 (R289). -/
def execFcvtLu (d a : Reg) (p : BitVec 1) (s : State) : Out := fpToInt 0 (2 ^ 64 - 1) 64 false d a p s

/-- `fcvt` from i32 (R289). -/
def execFcvtFromW (d a : Reg) (p : BitVec 1) (s : State) : Out := fpOfInt (fun v => (lo32 v).toInt) d a p s

/-- `fcvt` from u32 (R289). -/
def execFcvtFromWu (d a : Reg) (p : BitVec 1) (s : State) : Out := fpOfInt (fun v => ((lo32 v).toNat : Int)) d a p s

/-- `fcvt` from i64 (R289). -/
def execFcvtFromL (d a : Reg) (p : BitVec 1) (s : State) : Out := fpOfInt (fun v => v.toInt) d a p s

/-- `fcvt` from u64 (R289). -/
def execFcvtFromLu (d a : Reg) (p : BitVec 1) (s : State) : Out := fpOfInt (fun v => (v.toNat : Int)) d a p s

/-- `fcvt.d.s` (p = 0) and `fcvt.s.d` (p = 1) (R252, R289). -/
def execFcvtDS (d a : Reg) (p : BitVec 1) (s : State) : Out := 
  if p = 1 then fpConv f64 f32 .ieee d a s else fpConv f32 f64 .ieee d a s

/-- `fcvt.h.s` (R289). -/
def execFcvtHS (d a : Reg) (s : State) : Out := fpConv f32 f16 .ieee d a s

/-- `fcvt.s.h` (R289). -/
def execFcvtSH (d a : Reg) (s : State) : Out := fpConv f16 f32 .ieee d a s

/-- `fcvt.bf.s` (R289). -/
def execFcvtBfS (d a : Reg) (s : State) : Out := fpConv f32 bf16 .ieee d a s

/-- `fcvt.s.bf` (R289). -/
def execFcvtSBf (d a : Reg) (s : State) : Out := fpConv bf16 f32 .ieee d a s

/-- `fcvt.e4.s`: saturating (R289). -/
def execFcvtE4S (d a : Reg) (s : State) : Out := fpConv f32 e4m3 .saturate d a s

/-- `fcvt.s.e4` (R289). -/
def execFcvtSE4 (d a : Reg) (s : State) : Out := fpConv e4m3 f32 .ieee d a s

/-- `fcvt.e5.s`: saturating (R289). -/
def execFcvtE5S (d a : Reg) (s : State) : Out := fpConv f32 e5m2 .saturate d a s

/-- `fcvt.s.e5` (R289). -/
def execFcvtSE5 (d a : Reg) (s : State) : Out := fpConv e5m2 f32 .ieee d a s

end Sys2Proof.Machine
end

