-- ==== Sys2Proof/Machine/Integer.lean ====
section
/-! DEFINITION. Integer register, word and immediate instructions (R272–R277), branches, `call` and `jr`
(R281–R283). -/

namespace Sys2Proof.Machine

/-! ### Shared integer operations -/

/-- Rotation left of a 64-bit word by `n` (R273). -/
def rotL (a : Word) (n : Nat) : Word := a.rotateLeft (n % 64)

/-- Rotation right of a 64-bit word by `n` (R273). -/
def rotR (a : Word) (n : Nat) : Word := a.rotateRight (n % 64)

/-- A 64-bit shift or rotate amount: B[5:0] (R273). -/
def shamt (b : Word) : Nat := bits b 5 0

/-- A 32-bit shift amount: b[4:0] (R274). -/
def shamtW (b : Word) : Nat := bits b 4 0

/-- The high half of a product of two integers: bits [127:64] of its 128-bit two's complement (R273). -/
def highHalf (p : Int) : Word := BitVec.ofInt 64 (p / 2 ^ 64)

/-- Signed quotient in `n` bits (R228). -/
def quotS {n : Nat} (a b : BitVec n) : BitVec n :=
  if b = 0 then BitVec.allOnes n else BitVec.ofInt n (Int.tdiv a.toInt b.toInt)

/-- Signed remainder in `n` bits (R228). -/
def remS {n : Nat} (a b : BitVec n) : BitVec n :=
  if b = 0 then a else BitVec.ofInt n (Int.tmod a.toInt b.toInt)

/-- Unsigned quotient in `n` bits (R228). -/
def quotU {n : Nat} (a b : BitVec n) : BitVec n :=
  if b = 0 then BitVec.allOnes n else BitVec.ofNat n (a.toNat / b.toNat)

/-- Unsigned remainder in `n` bits (R228). -/
def remU {n : Nat} (a b : BitVec n) : BitVec n :=
  if b = 0 then a else BitVec.ofNat n (a.toNat % b.toNat)

/-- Bytes in the opposite order (R273 `bswap`). -/
def byteSwap (a : Word) : Word :=
  a.extractLsb' 0 8 ++ a.extractLsb' 8 8 ++ a.extractLsb' 16 8 ++ a.extractLsb' 24 8
    ++ a.extractLsb' 32 8 ++ a.extractLsb' 40 8 ++ a.extractLsb' 48 8 ++ a.extractLsb' 56 8

/-- The signed smaller of two words (R273). -/
def minS (a b : Word) : Word := if a.toInt ≤ b.toInt then a else b
/-- The signed larger of two words (R273). -/
def maxS (a b : Word) : Word := if a.toInt ≤ b.toInt then b else a
/-- The unsigned smaller of two words (R273). -/
def minU (a b : Word) : Word := if a.toNat ≤ b.toNat then a else b
/-- The unsigned larger of two words (R273). -/
def maxU (a b : Word) : Word := if a.toNat ≤ b.toNat then b else a

/-- x[d] := f x[a] x[b] (R273). -/
def binary (f : Word → Word → Word) (d a b : Reg) (s : State) : Out := .next (s.put d (f (s.x a) (s.x b)))

/-- x[d] := f x[a] (R273). -/
def unary (f : Word → Word) (d a : Reg) (s : State) : Out := .next (s.put d (f (s.x a)))

/-- x[d] := SX(f (low 32 bits of x[a]) (low 32 bits of x[b]), 32) (R274). -/
def binaryW (f : BitVec 32 → BitVec 32 → BitVec 32) (d a b : Reg) (s : State) : Out :=
  .next (s.put d (sx (f (lo32 (s.x a)) (lo32 (s.x b)))))

/-- A branch: pc := pc + SX(offset, 16) × 4 when taken, else pc + 4 (R281). -/
def branch (c : Word → Word → Bool) (a b : Reg) (o : BitVec 16) (s : State) : Out :=
  .next (s.setTh { s.th with pc := if c (s.x a) (s.x b) then s.th.pc + offB o else s.th.pc + 4 })

/-! ### Meanings -/

/-- `add`: A + B (R273). -/
def execAdd (d a b : Reg) (s : State) : Out := binary (fun x y => x + y) d a b s

/-- `sub`: A − B (R273). -/
def execSub (d a b : Reg) (s : State) : Out := binary (fun x y => x - y) d a b s

/-- `and`: A AND B (R273). -/
def execAnd (d a b : Reg) (s : State) : Out := binary (fun x y => x &&& y) d a b s

/-- `or`: A OR B (R273). -/
def execOr (d a b : Reg) (s : State) : Out := binary (fun x y => x ||| y) d a b s

/-- `xor`: A XOR B (R273). -/
def execXor (d a b : Reg) (s : State) : Out := binary (fun x y => x ^^^ y) d a b s

/-- `andn`: A AND NOT B (R273). -/
def execAndn (d a b : Reg) (s : State) : Out := binary (fun x y => x &&& ~~~y) d a b s

/-- `sll`: u(A) × 2^n, n = B[5:0] (R273). -/
def execSll (d a b : Reg) (s : State) : Out := binary (fun x y => x <<< shamt y) d a b s

/-- `srl`: ⌊u(A) / 2^n⌋ (R273). -/
def execSrl (d a b : Reg) (s : State) : Out := binary (fun x y => x >>> shamt y) d a b s

/-- `sra`: ⌊s(A) / 2^n⌋ (R273). -/
def execSra (d a b : Reg) (s : State) : Out := binary (fun x y => x.sshiftRight (shamt y)) d a b s

/-- `rotl`: A rotated left by n (R273). -/
def execRotl (d a b : Reg) (s : State) : Out := binary (fun x y => rotL x (shamt y)) d a b s

/-- `rotr`: A rotated right by n (R273). -/
def execRotr (d a b : Reg) (s : State) : Out := binary (fun x y => rotR x (shamt y)) d a b s

/-- `slt`: 1 if s(A) < s(B) (R273). -/
def execSlt (d a b : Reg) (s : State) : Out := binary (fun x y => wordOfBool (decide (x.toInt < y.toInt))) d a b s

/-- `sltu`: 1 if u(A) < u(B) (R273). -/
def execSltu (d a b : Reg) (s : State) : Out := binary (fun x y => wordOfBool (decide (x.toNat < y.toNat))) d a b s

/-- `min`: the smaller, signed (R273). -/
def execMin (d a b : Reg) (s : State) : Out := binary minS d a b s

/-- `max`: the larger, signed (R273). -/
def execMax (d a b : Reg) (s : State) : Out := binary maxS d a b s

/-- `minu`: the smaller, unsigned (R273). -/
def execMinu (d a b : Reg) (s : State) : Out := binary minU d a b s

/-- `maxu`: the larger, unsigned (R273). -/
def execMaxu (d a b : Reg) (s : State) : Out := binary maxU d a b s

/-- `mul`: Bits(A × B, 63, 0) (R273). -/
def execMul (d a b : Reg) (s : State) : Out := binary (fun x y => x * y) d a b s

/-- `mulh`: bits [127:64] of s(A) × s(B) (R273). -/
def execMulh (d a b : Reg) (s : State) : Out := binary (fun x y => highHalf (x.toInt * y.toInt)) d a b s

/-- `mulhu`: bits [127:64] of u(A) × u(B) (R273). -/
def execMulhu (d a b : Reg) (s : State) : Out := binary (fun x y => highHalf ((x.toNat : Int) * (y.toNat : Int))) d a b s

/-- `mulhsu`: bits [127:64] of s(A) × u(B) (R273). -/
def execMulhsu (d a b : Reg) (s : State) : Out := binary (fun x y => highHalf (x.toInt * (y.toNat : Int))) d a b s

/-- `div`: signed quotient under R228 (R273). -/
def execDiv (d a b : Reg) (s : State) : Out := binary quotS d a b s

/-- `divu`: unsigned quotient under R228 (R273). -/
def execDivu (d a b : Reg) (s : State) : Out := binary quotU d a b s

/-- `rem`: signed remainder under R228 (R273). -/
def execRem (d a b : Reg) (s : State) : Out := binary remS d a b s

/-- `remu`: unsigned remainder under R228 (R273). -/
def execRemu (d a b : Reg) (s : State) : Out := binary remU d a b s

/-- `clz`: leading zero bits of A (R273). -/
def execClz (d a : Reg) (s : State) : Out := unary (fun x => BitVec.ofNat 64 (leadingZeros 64 x.toNat)) d a s

/-- `ctz`: trailing zero bits of A (R273). -/
def execCtz (d a : Reg) (s : State) : Out := unary (fun x => BitVec.ofNat 64 (trailingZeros 64 x.toNat)) d a s

/-- `popc`: number of 1 bits in A (R273). -/
def execPopc (d a : Reg) (s : State) : Out := unary (fun x => BitVec.ofNat 64 (popCount 64 x.toNat)) d a s

/-- `bswap`: byte i moved to byte 7 − i (R273). -/
def execBswap (d a : Reg) (s : State) : Out := unary byteSwap d a s

/-- `add.w` (R274). -/
def execAddW (d a b : Reg) (s : State) : Out := binaryW (fun x y => x + y) d a b s

/-- `sub.w` (R274). -/
def execSubW (d a b : Reg) (s : State) : Out := binaryW (fun x y => x - y) d a b s

/-- `sll.w`: n = b[4:0] (R274). -/
def execSllW (d a b : Reg) (s : State) : Out := binaryW (fun x y => x <<< (y.toNat % 32)) d a b s

/-- `srl.w` (R274). -/
def execSrlW (d a b : Reg) (s : State) : Out := binaryW (fun x y => x >>> (y.toNat % 32)) d a b s

/-- `sra.w` (R274). -/
def execSraW (d a b : Reg) (s : State) : Out := binaryW (fun x y => x.sshiftRight (y.toNat % 32)) d a b s

/-- `mul.w` (R274). -/
def execMulW (d a b : Reg) (s : State) : Out := binaryW (fun x y => x * y) d a b s

/-- `div.w` under R228 (R274). -/
def execDivW (d a b : Reg) (s : State) : Out := binaryW quotS d a b s

/-- `divu.w` under R228 (R274). -/
def execDivuW (d a b : Reg) (s : State) : Out := binaryW quotU d a b s

/-- `rem.w` under R228 (R274). -/
def execRemW (d a b : Reg) (s : State) : Out := binaryW remS d a b s

/-- `remu.w` under R228 (R274). -/
def execRemuW (d a b : Reg) (s : State) : Out := binaryW remU d a b s

/-- `addi`: A + SX(imm16, 16) (R275). -/
def execAddi (d a : Reg) (i : BitVec 16) (s : State) : Out := .next (s.put d (s.x a + immI i))

/-- `andi`: A AND ZX(imm16, 16) (R275). -/
def execAndi (d a : Reg) (i : BitVec 16) (s : State) : Out := .next (s.put d (s.x a &&& immZ i))

/-- `ori`: A OR ZX(imm16, 16) (R275). -/
def execOri (d a : Reg) (i : BitVec 16) (s : State) : Out := .next (s.put d (s.x a ||| immZ i))

/-- `xori`: A XOR ZX(imm16, 16) (R275). -/
def execXori (d a : Reg) (i : BitVec 16) (s : State) : Out := .next (s.put d (s.x a ^^^ immZ i))

/-- `slti`: 1 if s(A) < SX(imm16, 16) (R275). -/
def execSlti (d a : Reg) (i : BitVec 16) (s : State) : Out := .next (s.put d (wordOfBool (decide ((s.x a).toInt < (immI i).toInt))))

/-- `sltiu`: 1 if u(A) < u(SX(imm16, 16)) (R275). -/
def execSltiu (d a : Reg) (i : BitVec 16) (s : State) : Out := .next (s.put d (wordOfBool (decide ((s.x a).toNat < (immI i).toNat))))

/-- `addi.w`: SX(Bits(A + SX(imm16, 16), 31, 0), 32) (R275). -/
def execAddiW (d a : Reg) (i : BitVec 16) (s : State) : Out := .next (s.put d (sx (lo32 (s.x a + immI i))))

/-- `slli` (R276). -/
def execSlli (d a : Reg) (n : BitVec 6) (s : State) : Out := .next (s.put d (s.x a <<< n.toNat))

/-- `srli` (R276). -/
def execSrli (d a : Reg) (n : BitVec 6) (s : State) : Out := .next (s.put d (s.x a >>> n.toNat))

/-- `srai` (R276). -/
def execSrai (d a : Reg) (n : BitVec 6) (s : State) : Out := .next (s.put d ((s.x a).sshiftRight n.toNat))

/-- `rotri` (R276). -/
def execRotri (d a : Reg) (n : BitVec 6) (s : State) : Out := .next (s.put d (rotR (s.x a) n.toNat))

/-- `slli.w` (R276). -/
def execSlliW (d a : Reg) (n : BitVec 5) (s : State) : Out := .next (s.put d (sx (lo32 (s.x a) <<< n.toNat)))

/-- `srli.w` (R276). -/
def execSrliW (d a : Reg) (n : BitVec 5) (s : State) : Out := .next (s.put d (sx (lo32 (s.x a) >>> n.toNat)))

/-- `srai.w` (R276). -/
def execSraiW (d a : Reg) (n : BitVec 5) (s : State) : Out := .next (s.put d (sx ((lo32 (s.x a)).sshiftRight n.toNat)))

/-- `ldhi`: SX(imm21, 21) × 2^16 (R277). -/
def execLdhi (d : Reg) (i : BitVec 21) (s : State) : Out := .next (s.put d (immU i))

/-- `pcadd`: pc + SX(imm21, 21) × 2^16 (R277). -/
def execPcadd (d : Reg) (i : BitVec 21) (s : State) : Out := .next (s.put d (s.th.pc + immU i))

/-- `b.eq` (R281). -/
def execBEq (a b : Reg) (o : BitVec 16) (s : State) : Out := branch (fun x y => x == y) a b o s

/-- `b.ne` (R281). -/
def execBNe (a b : Reg) (o : BitVec 16) (s : State) : Out := branch (fun x y => x != y) a b o s

/-- `b.lt`: signed (R281). -/
def execBLt (a b : Reg) (o : BitVec 16) (s : State) : Out := branch (fun x y => decide (x.toInt < y.toInt)) a b o s

/-- `b.ge`: signed (R281). -/
def execBGe (a b : Reg) (o : BitVec 16) (s : State) : Out := branch (fun x y => decide (y.toInt ≤ x.toInt)) a b o s

/-- `b.ltu`: unsigned (R281). -/
def execBLtu (a b : Reg) (o : BitVec 16) (s : State) : Out := branch (fun x y => decide (x.toNat < y.toNat)) a b o s

/-- `b.geu`: unsigned (R281). -/
def execBGeu (a b : Reg) (o : BitVec 16) (s : State) : Out := branch (fun x y => decide (y.toNat ≤ x.toNat)) a b o s

/-- `call`: the link in x1, pc := pc + SX(offset, 26) × 4 (R282). -/
def execCall (o : BitVec 26) (s : State) : Out := 
  .next (s.setTh { s.th.writeX 1 (s.th.pc + 4) with pc := s.th.pc + offJ o })

/-- `jr`: a misaligned target traps with cause 0x02; the link in x[d] (R282). -/
def execJr (d a : Reg) (i : BitVec 16) (s : State) : Out := 
  let t := s.x a + immI i
  if bits t 1 0 ≠ 0 then s.trap 0x02 t
  else .next (s.setTh { s.th.writeX d (s.th.pc + 4) with pc := t })

end Sys2Proof.Machine
end

