-- ==== Sys2Proof/Machine/Dispatch.lean ====
section
/-! DEFINITION. The dispatch of every instruction and step to its meaning, in the order of spec/opcode_table.json. -/

namespace Sys2Proof.Machine

def exec (i : Instr) (s : State) : Host.Outcome State Fault Refusal :=
  match i with
  | .add d a b => Sys2Proof.Machine.execAdd d a b s
  | .sub d a b => Sys2Proof.Machine.execSub d a b s
  | .and d a b => Sys2Proof.Machine.execAnd d a b s
  | .or d a b => Sys2Proof.Machine.execOr d a b s
  | .xor d a b => Sys2Proof.Machine.execXor d a b s
  | .andn d a b => Sys2Proof.Machine.execAndn d a b s
  | .sll d a b => Sys2Proof.Machine.execSll d a b s
  | .srl d a b => Sys2Proof.Machine.execSrl d a b s
  | .sra d a b => Sys2Proof.Machine.execSra d a b s
  | .rotl d a b => Sys2Proof.Machine.execRotl d a b s
  | .rotr d a b => Sys2Proof.Machine.execRotr d a b s
  | .slt d a b => Sys2Proof.Machine.execSlt d a b s
  | .sltu d a b => Sys2Proof.Machine.execSltu d a b s
  | .min d a b => Sys2Proof.Machine.execMin d a b s
  | .max d a b => Sys2Proof.Machine.execMax d a b s
  | .minu d a b => Sys2Proof.Machine.execMinu d a b s
  | .maxu d a b => Sys2Proof.Machine.execMaxu d a b s
  | .mul d a b => Sys2Proof.Machine.execMul d a b s
  | .mulh d a b => Sys2Proof.Machine.execMulh d a b s
  | .mulhu d a b => Sys2Proof.Machine.execMulhu d a b s
  | .mulhsu d a b => Sys2Proof.Machine.execMulhsu d a b s
  | .div d a b => Sys2Proof.Machine.execDiv d a b s
  | .divu d a b => Sys2Proof.Machine.execDivu d a b s
  | .rem d a b => Sys2Proof.Machine.execRem d a b s
  | .remu d a b => Sys2Proof.Machine.execRemu d a b s
  | .clz d a => Sys2Proof.Machine.execClz d a s
  | .ctz d a => Sys2Proof.Machine.execCtz d a s
  | .popc d a => Sys2Proof.Machine.execPopc d a s
  | .bswap d a => Sys2Proof.Machine.execBswap d a s
  | .addW d a b => Sys2Proof.Machine.execAddW d a b s
  | .subW d a b => Sys2Proof.Machine.execSubW d a b s
  | .sllW d a b => Sys2Proof.Machine.execSllW d a b s
  | .srlW d a b => Sys2Proof.Machine.execSrlW d a b s
  | .sraW d a b => Sys2Proof.Machine.execSraW d a b s
  | .mulW d a b => Sys2Proof.Machine.execMulW d a b s
  | .divW d a b => Sys2Proof.Machine.execDivW d a b s
  | .divuW d a b => Sys2Proof.Machine.execDivuW d a b s
  | .remW d a b => Sys2Proof.Machine.execRemW d a b s
  | .remuW d a b => Sys2Proof.Machine.execRemuW d a b s
  | .fadd d a b p => Sys2Proof.Machine.execFadd d a b p s
  | .fsub d a b p => Sys2Proof.Machine.execFsub d a b p s
  | .fmul d a b p => Sys2Proof.Machine.execFmul d a b p s
  | .fdiv d a b p => Sys2Proof.Machine.execFdiv d a b p s
  | .fsqrt d a p => Sys2Proof.Machine.execFsqrt d a p s
  | .fmadd d a b c p => Sys2Proof.Machine.execFmadd d a b c p s
  | .fmsub d a b c p => Sys2Proof.Machine.execFmsub d a b c p s
  | .fnmadd d a b c p => Sys2Proof.Machine.execFnmadd d a b c p s
  | .fmin d a b p => Sys2Proof.Machine.execFmin d a b p s
  | .fmax d a b p => Sys2Proof.Machine.execFmax d a b p s
  | .fsgnj d a b p => Sys2Proof.Machine.execFsgnj d a b p s
  | .fsgnjn d a b p => Sys2Proof.Machine.execFsgnjn d a b p s
  | .fsgnjx d a b p => Sys2Proof.Machine.execFsgnjx d a b p s
  | .feq d a b p => Sys2Proof.Machine.execFeq d a b p s
  | .flt d a b p => Sys2Proof.Machine.execFlt d a b p s
  | .fle d a b p => Sys2Proof.Machine.execFle d a b p s
  | .fclass d a p => Sys2Proof.Machine.execFclass d a p s
  | .fcvtW d a p => Sys2Proof.Machine.execFcvtW d a p s
  | .fcvtWu d a p => Sys2Proof.Machine.execFcvtWu d a p s
  | .fcvtL d a p => Sys2Proof.Machine.execFcvtL d a p s
  | .fcvtLu d a p => Sys2Proof.Machine.execFcvtLu d a p s
  | .fcvtFromW d a p => Sys2Proof.Machine.execFcvtFromW d a p s
  | .fcvtFromWu d a p => Sys2Proof.Machine.execFcvtFromWu d a p s
  | .fcvtFromL d a p => Sys2Proof.Machine.execFcvtFromL d a p s
  | .fcvtFromLu d a p => Sys2Proof.Machine.execFcvtFromLu d a p s
  | .fcvtDS d a p => Sys2Proof.Machine.execFcvtDS d a p s
  | .fcvtHS d a => Sys2Proof.Machine.execFcvtHS d a s
  | .fcvtSH d a => Sys2Proof.Machine.execFcvtSH d a s
  | .fcvtBfS d a => Sys2Proof.Machine.execFcvtBfS d a s
  | .fcvtSBf d a => Sys2Proof.Machine.execFcvtSBf d a s
  | .fcvtE4S d a => Sys2Proof.Machine.execFcvtE4S d a s
  | .fcvtSE4 d a => Sys2Proof.Machine.execFcvtSE4 d a s
  | .fcvtE5S d a => Sys2Proof.Machine.execFcvtE5S d a s
  | .fcvtSE5 d a => Sys2Proof.Machine.execFcvtSE5 d a s
  | .addi d a imm => Sys2Proof.Machine.execAddi d a imm s
  | .andi d a imm => Sys2Proof.Machine.execAndi d a imm s
  | .ori d a imm => Sys2Proof.Machine.execOri d a imm s
  | .xori d a imm => Sys2Proof.Machine.execXori d a imm s
  | .slti d a imm => Sys2Proof.Machine.execSlti d a imm s
  | .sltiu d a imm => Sys2Proof.Machine.execSltiu d a imm s
  | .addiW d a imm => Sys2Proof.Machine.execAddiW d a imm s
  | .slli d a n => Sys2Proof.Machine.execSlli d a n s
  | .srli d a n => Sys2Proof.Machine.execSrli d a n s
  | .srai d a n => Sys2Proof.Machine.execSrai d a n s
  | .rotri d a n => Sys2Proof.Machine.execRotri d a n s
  | .slliW d a n => Sys2Proof.Machine.execSlliW d a n s
  | .srliW d a n => Sys2Proof.Machine.execSrliW d a n s
  | .sraiW d a n => Sys2Proof.Machine.execSraiW d a n s
  | .ldhi d imm => Sys2Proof.Machine.execLdhi d imm s
  | .pcadd d imm => Sys2Proof.Machine.execPcadd d imm s
  | .ldB d a imm => Sys2Proof.Machine.execLdB d a imm s
  | .ldBu d a imm => Sys2Proof.Machine.execLdBu d a imm s
  | .ldH d a imm => Sys2Proof.Machine.execLdH d a imm s
  | .ldHu d a imm => Sys2Proof.Machine.execLdHu d a imm s
  | .ldW d a imm => Sys2Proof.Machine.execLdW d a imm s
  | .ldWu d a imm => Sys2Proof.Machine.execLdWu d a imm s
  | .ldD d a imm => Sys2Proof.Machine.execLdD d a imm s
  | .stB b a imm => Sys2Proof.Machine.execStB b a imm s
  | .stH b a imm => Sys2Proof.Machine.execStH b a imm s
  | .stW b a imm => Sys2Proof.Machine.execStW b a imm s
  | .stD b a imm => Sys2Proof.Machine.execStD b a imm s
  | .ldsyncTake d a k => Sys2Proof.Machine.execLdsyncTake d a k s
  | .ldsyncKeep d a k => Sys2Proof.Machine.execLdsyncKeep d a k s
  | .stsyncFill b a k => Sys2Proof.Machine.execStsyncFill b a k s
  | .stsyncSet b a k => Sys2Proof.Machine.execStsyncSet b a k s
  | .syncClear a k => Sys2Proof.Machine.execSyncClear a k s
  | .syncTest d a k => Sys2Proof.Machine.execSyncTest d a k s
  | .atmAdd d a b z o c => Sys2Proof.Machine.execAtmAdd d a b z o c s
  | .atmAnd d a b z o c => Sys2Proof.Machine.execAtmAnd d a b z o c s
  | .atmOr d a b z o c => Sys2Proof.Machine.execAtmOr d a b z o c s
  | .atmXor d a b z o c => Sys2Proof.Machine.execAtmXor d a b z o c s
  | .atmMin d a b z o c => Sys2Proof.Machine.execAtmMin d a b z o c s
  | .atmMax d a b z o c => Sys2Proof.Machine.execAtmMax d a b z o c s
  | .atmMinu d a b z o c => Sys2Proof.Machine.execAtmMinu d a b z o c s
  | .atmMaxu d a b z o c => Sys2Proof.Machine.execAtmMaxu d a b z o c s
  | .atmSwap d a b z o c => Sys2Proof.Machine.execAtmSwap d a b z o c s
  | .atmCas d a b z o c => Sys2Proof.Machine.execAtmCas d a b z o c s
  | .atmFaddS d a b o c => Sys2Proof.Machine.execAtmFaddS d a b o c s
  | .fenceAcq c => Sys2Proof.Machine.execFenceAcq c s
  | .fenceRel c => Sys2Proof.Machine.execFenceRel c s
  | .fenceFull c => Sys2Proof.Machine.execFenceFull c s
  | .barrInit a n => Sys2Proof.Machine.execBarrInit a n s
  | .barrArrive d n => Sys2Proof.Machine.execBarrArrive d n s
  | .barrWait a n => Sys2Proof.Machine.execBarrWait a n s
  | .bEq a b o => Sys2Proof.Machine.execBEq a b o s
  | .bNe a b o => Sys2Proof.Machine.execBNe a b o s
  | .bLt a b o => Sys2Proof.Machine.execBLt a b o s
  | .bGe a b o => Sys2Proof.Machine.execBGe a b o s
  | .bLtu a b o => Sys2Proof.Machine.execBLtu a b o s
  | .bGeu a b o => Sys2Proof.Machine.execBGeu a b o s
  | .call o => Sys2Proof.Machine.execCall o s
  | .jr d a imm => Sys2Proof.Machine.execJr d a imm s
  | .send a b n => Sys2Proof.Machine.execSend a b n s
  | .spawn a b k => Sys2Proof.Machine.execSpawn a b k s
  | .mget d n => Sys2Proof.Machine.execMget d n s
  | .mpeek d n => Sys2Proof.Machine.execMpeek d n s
  | .mtest d => Sys2Proof.Machine.execMtest d s
  | .sget d n => Sys2Proof.Machine.execSget d n s
  | .sput a n => Sys2Proof.Machine.execSput a n s
  | .serveImm d a f g n => Sys2Proof.Machine.execServeImm d a f g n s
  | .serveReg d a r n => Sys2Proof.Machine.execServeReg d a r n s
  | .sload a => Sys2Proof.Machine.execSload a s
  | .sevict a => Sys2Proof.Machine.execSevict a s
  | .sinfo d a => Sys2Proof.Machine.execSinfo d a s
  | .tzero z => Sys2Proof.Machine.execTzero z s
  | .tmma d a b z g f => Sys2Proof.Machine.execTmma d a b z g f s
  | .tdrain a b z f => Sys2Proof.Machine.execTdrain a b z f s
  | .tload a z => Sys2Proof.Machine.execTload a z s
  | .tstat d => Sys2Proof.Machine.execTstat d s
  | .vstart a => Sys2Proof.Machine.execVstart a s
  | .vrel d => Sys2Proof.Machine.execVrel d s
  | .vinfo d => Sys2Proof.Machine.execVinfo d s
  | .scmd a b n => Sys2Proof.Machine.execScmd a b n s
  | .rget d => Sys2Proof.Machine.execRget d s
  | .nwait a n => Sys2Proof.Machine.execNwait a n s
  | .nread d n => Sys2Proof.Machine.execNread d n s
  | .nset a n => Sys2Proof.Machine.execNset a n s
  | .trap a => Sys2Proof.Machine.execTrap a s
  | .tret => Sys2Proof.Machine.execTret s
  | .rdsys d b => Sys2Proof.Machine.execRdsys d b s
  | .wrsys a b => Sys2Proof.Machine.execWrsys a b s
  | .exit => Sys2Proof.Machine.execExit s
  | .yield => Sys2Proof.Machine.execYield s
  | .park => Sys2Proof.Machine.execPark s
  | .get core q => Sys2Proof.Machine.execGet core q s
  | .put core q => Sys2Proof.Machine.execPut core q s
  | .getx core q => Sys2Proof.Machine.execGetx core q s
  | .putx core q => Sys2Proof.Machine.execPutx core q s
  | .copy core q => Sys2Proof.Machine.execCopy core q s
  | .fill core q => Sys2Proof.Machine.execFill core q s
  | .redput core q => Sys2Proof.Machine.execRedput core q s
  | .chain core q => Sys2Proof.Machine.execChain core q s
  | .halo core q => Sys2Proof.Machine.execHalo core q s
  | .bind core q => Sys2Proof.Machine.execBind core q s
  | .scan core q => Sys2Proof.Machine.execScan core q s
  | .probe core q => Sys2Proof.Machine.execProbe core q s
  | .commandStart core q => Sys2Proof.Machine.execCommandStart core q s
  | .commandComplete core q => Sys2Proof.Machine.execCommandComplete core q s
  | .faceDelivered core q face => Sys2Proof.Machine.execFaceDelivered core q face s
  | .submitRecord queue off size rec => Sys2Proof.Machine.execSubmitRecord queue off size rec s
  | .qcfgWrite queue v => Sys2Proof.Machine.execQcfgWrite queue v s
  | .crew queue => Sys2Proof.Machine.execCrew queue s
  | .gang queue => Sys2Proof.Machine.execGang queue s
  | .voyage queue => Sys2Proof.Machine.execVoyage queue s
  | .stream queue => Sys2Proof.Machine.execStream queue s
  | .wait queue => Sys2Proof.Machine.execWait queue s
  | .graph queue => Sys2Proof.Machine.execGraph queue s
  | .nestedGraphStart seq => Sys2Proof.Machine.execNestedGraphStart seq s
  | .logtailWrite v => Sys2Proof.Machine.execLogtailWrite v s
  | .snap => Sys2Proof.Machine.execSnap s
  | .abortQueue queue => Sys2Proof.Machine.execAbortQueue queue s
  | .abortRecord seq => Sys2Proof.Machine.execAbortRecord seq s
  | .abortedEntry seq => Sys2Proof.Machine.execAbortedEntry seq s
  | .registerWrite addr v => Sys2Proof.Machine.execRegisterWrite addr v s
  | .apertureAccess ap off size write v => Sys2Proof.Machine.execApertureAccess ap off size write v s
  | .pcieRequest port toOther owner va size write data => Sys2Proof.Machine.execPcieRequest port toOther owner va size write data s
  | .ownerCreate owner modes => Sys2Proof.Machine.execOwnerCreate owner modes s
  | .ownerRetire owner => Sys2Proof.Machine.execOwnerRetire owner s
  | .setModes owner modes => Sys2Proof.Machine.execSetModes owner modes s
  | .setEventSlot owner slot v32 => Sys2Proof.Machine.execSetEventSlot owner slot v32 s
  | .ownerExport owner peer => Sys2Proof.Machine.execOwnerExport owner peer s
  | .join owner modes peer => Sys2Proof.Machine.execJoin owner modes peer s
  | .keyTransferTimeout => Sys2Proof.Machine.execKeyTransferTimeout s
  | .answerCrewPlacement rec => Sys2Proof.Machine.execAnswerCrewPlacement rec s
  | .answerImagePlacement rec => Sys2Proof.Machine.execAnswerImagePlacement rec s
  | .answerTierMigration rec => Sys2Proof.Machine.execAnswerTierMigration rec s
  | .answerSpill rec => Sys2Proof.Machine.execAnswerSpill rec s
  | .answerTwinReload rec => Sys2Proof.Machine.execAnswerTwinReload rec s
  | .tlbinvPage owner page => Sys2Proof.Machine.execTlbinvPage owner page s
  | .tlbinvOwner owner => Sys2Proof.Machine.execTlbinvOwner owner s
  | .tlbinvAll => Sys2Proof.Machine.execTlbinvAll s
  | .invalidationDone => Sys2Proof.Machine.execInvalidationDone s
  | .replay owner => Sys2Proof.Machine.execReplay owner s
  | .decline owner page => Sys2Proof.Machine.execDecline owner page s
  | .dropcntRead die => Sys2Proof.Machine.execDropcntRead die s
  | .measurementExtend v => Sys2Proof.Machine.execMeasurementExtend v s
  | .telemetry conn mseq len => Sys2Proof.Machine.execTelemetry conn mseq len s
  | .setPowerLimit conn mseq len v32 => Sys2Proof.Machine.execSetPowerLimit conn mseq len v32 s
  | .moduleReset conn mseq len => Sys2Proof.Machine.execModuleReset conn mseq len s
  | .firmwareWrite conn mseq len foff data => Sys2Proof.Machine.execFirmwareWrite conn mseq len foff data s
  | .firmwareSelect conn mseq len bank => Sys2Proof.Machine.execFirmwareSelect conn mseq len bank s
  | .attest conn mseq len nonce => Sys2Proof.Machine.execAttest conn mseq len nonce s
  | .events conn mseq len => Sys2Proof.Machine.execEvents conn mseq len s
  | .enrollClient conn mseq len key => Sys2Proof.Machine.execEnrollClient conn mseq len key s
  | .coldReset => Sys2Proof.Machine.execColdReset s
  | .v12AuxLoss => Sys2Proof.Machine.execV12AuxLoss s
  | .powerUp pins dimms retrains trainFail => Sys2Proof.Machine.execPowerUp pins dimms retrains trainFail s
  | .pwrgd48 => Sys2Proof.Machine.execPwrgd48 s
  | .bridgeCoreReset => Sys2Proof.Machine.execBridgeCoreReset s
  | .sensorRead die temps => Sys2Proof.Machine.execSensorRead die temps s
  | .powerWindow watts => Sys2Proof.Machine.execPowerWindow watts s
  | .meridianLaneFailure port4 => Sys2Proof.Machine.execMeridianLaneFailure port4 s
  | .meridianAccess kind src owner va size v => Sys2Proof.Machine.execMeridianAccess kind src owner va size v s
  | .patrolScrub location bad => Sys2Proof.Machine.execPatrolScrub location bad s
  | .crewAdmit seq => Sys2Proof.Machine.execCrewAdmit seq s
  | .gangAdmit seq => Sys2Proof.Machine.execGangAdmit seq s
  | .streamAdmit seq => Sys2Proof.Machine.execStreamAdmit seq s
  | .voyageAdmit seq => Sys2Proof.Machine.execVoyageAdmit seq s
  | .clusterScrub cluster => Sys2Proof.Machine.execClusterScrub cluster s
  | .reservation seq => Sys2Proof.Machine.execReservation seq s
  | .preemption seq => Sys2Proof.Machine.execPreemption seq s
  | .saveComplete crew => Sys2Proof.Machine.execSaveComplete crew s
  | .crewResume crew => Sys2Proof.Machine.execCrewResume crew s
  | .crewRetire crew => Sys2Proof.Machine.execCrewRetire crew s
  | .tierEpoch => Sys2Proof.Machine.execTierEpoch s
  | .pageMoveComplete owner page => Sys2Proof.Machine.execPageMoveComplete owner page s
  | .loadReturn tag => Sys2Proof.Machine.execLoadReturn tag s
  | .homeArrival access => Sys2Proof.Machine.execHomeArrival access s
  | .releaseAck tag => Sys2Proof.Machine.execReleaseAck tag s
  | .walkComplete die owner page => Sys2Proof.Machine.execWalkComplete die owner page s
  | .icacheFill core line => Sys2Proof.Machine.execIcacheFill core line s
  | .sendArrives msg => Sys2Proof.Machine.execSendArrives msg s
  | .messageDelivery msg => Sys2Proof.Machine.execMessageDelivery msg s
  | .spawnArrives msg => Sys2Proof.Machine.execSpawnArrives msg s
  | .pendingTaskStart cluster => Sys2Proof.Machine.execPendingTaskStart cluster s
  | .spill msg => Sys2Proof.Machine.execSpill msg s
  | .spillRetry cluster => Sys2Proof.Machine.execSpillRetry cluster s
  | .spillDeliver crew => Sys2Proof.Machine.execSpillDeliver crew s
  | .waiterResend tag => Sys2Proof.Machine.execWaiterResend tag s
  | .deferredTrap tag => Sys2Proof.Machine.execDeferredTrap tag s
  | .crewEvent crew => Sys2Proof.Machine.execCrewEvent crew s
  | .tileStart core => Sys2Proof.Machine.execTileStart core s
  | .tileComplete core => Sys2Proof.Machine.execTileComplete core s
  | .serveAdmit cluster server => Sys2Proof.Machine.execServeAdmit cluster server s
  | .serveExit cluster fid => Sys2Proof.Machine.execServeExit cluster fid s
  | .cellFire cluster server cell => Sys2Proof.Machine.execCellFire cluster server cell s
  | .serveTimeout cluster fid => Sys2Proof.Machine.execServeTimeout cluster fid s
  | .imageLoad cluster fid => Sys2Proof.Machine.execImageLoad cluster fid s
  | .imageLoadComplete cluster fid => Sys2Proof.Machine.execImageLoadComplete cluster fid s
  | .imageEvict cluster fid => Sys2Proof.Machine.execImageEvict cluster fid s
  | .compaction cluster fid => Sys2Proof.Machine.execCompaction cluster fid s
  | .twinReload cluster fid => Sys2Proof.Machine.execTwinReload cluster fid s
  | .freezeWave cluster fid => Sys2Proof.Machine.execFreezeWave cluster fid s
  | .thaw cluster fid => Sys2Proof.Machine.execThaw cluster fid s
  | .sectionComplete cluster fid => Sys2Proof.Machine.execSectionComplete cluster fid s
  | .endpointPoll cluster server cell => Sys2Proof.Machine.execEndpointPoll cluster server cell s
  | .embark cluster => Sys2Proof.Machine.execEmbark cluster s
  | .embarkComplete cluster => Sys2Proof.Machine.execEmbarkComplete cluster s
  | .sighting cluster station => Sys2Proof.Machine.execSighting cluster station s
  | .accumulationComplete cluster entry => Sys2Proof.Machine.execAccumulationComplete cluster entry s
  | .stationReady cluster station => Sys2Proof.Machine.execStationReady cluster station s
  | .halfStepStart cluster => Sys2Proof.Machine.execHalfStepStart cluster s
  | .reckoning cluster => Sys2Proof.Machine.execReckoning cluster s
  | .reckonTaskStart cluster station => Sys2Proof.Machine.execReckonTaskStart cluster station s
  | .voyageFailure cluster => Sys2Proof.Machine.execVoyageFailure cluster s
  | .voyageStop cluster => Sys2Proof.Machine.execVoyageStop cluster s
  | .voyageResume cluster => Sys2Proof.Machine.execVoyageResume cluster s
  | .illegalInstruction word => Sys2Proof.Machine.execIllegalInstruction word s
  | .unknownKind queue => Sys2Proof.Machine.execUnknownKind queue s
  | .badOp op owner => Sys2Proof.Machine.execBadOp op owner s
  | .unknownType conn mseq mtype => Sys2Proof.Machine.execUnknownType conn mseq mtype s
  | .reqtailWrite v => Sys2Proof.Machine.execReqtailWrite v s
  | .managementConnection conn key => Sys2Proof.Machine.execManagementConnection conn key s

end Sys2Proof.Machine
end

