-- ==== Sys2Proof/Machine/Sched.lean ====
section
/-! DEFINITION. Who moves next: a core's turn of its barrel (R123–R125), the steps that the module can make by itself, and what
comes from outside; the passing of time (R14, R37, R248). -/

namespace Sys2Proof.Machine

/-! ### A core's turn (R123, R124) -/

/-- The thread is not parked, or what it waits for holds now; it then executes its instruction again (R300, R303, R315, R321,
R323, R339, R342). -/
def wakes (s : State) (t : Nat) : Bool :=
  let th := getThread s t
  match th.park with
  | .none => true
  | .message r => (AMap.find th.m r).isSome
  | .anyMessage => th.fullBits != 0 || !th.deferred.isEmpty || eventPending s t
  | .barrier n p => (getBarrier s (tagCluster t) n).complete p
  | .counter n v => decide (v ≤ (getCounter s (tagCluster t) n).value)
  | .response => match oldestResponse s t with | some r => r.element.isSome | none => true
  | .voyage => !voyageTaken s (tagCluster t)
  | .exiting => canExit s t
  | _ => false

/-- A crew event would be taken by the thread before its next instruction (R107). -/
def eventFirst (s : State) (t : Nat) : Bool :=
  let th := getThread s t
  eventPending s t && canTakeEvent th && (match getCrew s th.crew with | some w => w.phase == .running | none => false)

/-- The crew has not issued yet, and its record's running entry has no place to wait (R38, R41). -/
def startHeld (s : State) (t : Nat) : Bool :=
  match getCrew s (getThread s t).crew with
  | some w => !w.issued && !mayChange s (.start (getThread s t).crew)
  | none => true

/-- The thread could issue but for R41: live, neither parked nor stopped, and no trap or event stands before its next
instruction. -/
def couldIssue (s : State) (t : Nat) : Bool :=
  let th := getThread s t
  th.live && !th.stopped && wakes s t && !canTakeDeferred s t && !eventFirst s t

/-- The thread is ready (R123). -/
def ready (s : State) (t : Nat) : Bool := couldIssue s t && !startHeld s t

/-- The first issue of the core's crew has no place for its running entry: it is held back (R41). -/
def holdStart (s : State) (k : Nat) : State :=
  match (getCore s k).crew with
  | some c =>
    match getCrew s c with
    | some w =>
      if !w.issued && !mayChange s (.start c) && (rangeFrom 16 0).any (fun i => couldIssue s (coreTag k i)) then holdBack s (.start c) else s
    | none => s
  | none => s

/-- At least five clocks have passed since the thread's last issue (R123). -/
def spaced (th : ThreadState) (clk : Nat) : Bool :=
  match th.lastIssue with
  | none => true
  | some t => decide (t + 5 ≤ clk)

/-- The rotation of R123 from slot `slot` on, over `n` slots; a thread that yielded is passed over once (R322). -/
def rotate : Nat → State → Nat → Nat → State × Option Nat
  | 0, s, _, _ => (s, none)
  | n + 1, s, k, slot =>
    let t := coreTag k (slot % 16)
    let th := getThread s t
    if ready s t && spaced th (getCore s k).clk then
      if th.yielded then rotate n (setThread s t { th with yielded := false }) k (slot + 1) else (s, some (slot % 16))
    else rotate n s k (slot + 1)

/-- The own scratchpad is what the access of an instruction at an address reaches. -/
def reachesOwn (t : Nat) (va : Word) : Bool :=
  match spaceOf (tagCluster t) (some (tagCore t)) va 1 with
  | .pad k _ => k == tagCore t
  | _ => false

/-- The address that an instruction accesses memory at in its memory stage (R124). -/
def accessAddress (s : State) : Instr → Option Word
  | .ldB _ a i | .ldBu _ a i | .ldH _ a i | .ldHu _ a i | .ldW _ a i | .ldWu _ a i | .ldD _ a i => some (s.x a + immI i)
  | .stB _ a i | .stH _ a i | .stW _ a i | .stD _ a i => some (s.x a + immI i)
  | .ldsyncTake _ a k | .ldsyncKeep _ a k | .stsyncFill _ a k | .stsyncSet _ a k | .syncTest _ a k => some (s.x a + offY k)
  | .syncClear a k => some (s.x a + offY k)
  | .atmAdd _ a _ _ _ _ | .atmAnd _ a _ _ _ _ | .atmOr _ a _ _ _ _ | .atmXor _ a _ _ _ _ | .atmMin _ a _ _ _ _ | .atmMax _ a _ _ _ _
  | .atmMinu _ a _ _ _ _ | .atmMaxu _ a _ _ _ _ | .atmSwap _ a _ _ _ _ | .atmCas _ a _ _ _ _ => some (s.x a)
  | .atmFaddS _ a _ _ _ => some (s.x a)
  | .tdrain _ b _ _ => some (s.x b)
  | _ => none

/-- The chosen thread's access forfeits for a scratchpad bank (R124, R125): whether another unit holds the bank is the device's; a
thread that forfeited three times in a row does so only for the tile engine, and never a fifth time. (DESIGN CHOICE, log 5)
(DEDUCED, log 77) -/
def bankForfeit (s : State) (t : Nat) (i : Instr) : Bool :=
  let th := getThread s t
  let k := getCore s (tagCore t)
  match accessAddress s i with
  | none => false
  | some va => reachesOwn t va && (decide (th.forfeits < 3) || (th.forfeits == 3 && (k.tileBusy || k.ringBusy))) && s.choose 61 2 == 1

/-- The first instruction of a crew makes its record running (R38). -/
def markIssued (s : State) (t : Nat) : State :=
  match getCrew s (getThread s t).crew with
  | none => s
  | some w =>
    if w.issued then s
    else
      let s := setCrew (unhold s (.start (getThread s t).crew)) (getThread s t).crew { w with issued := true }
      match AMap.find s.records w.record with
      | some r => if r.phase = .admitted then moveSeq s w.record .running 0 else s
      | none => s

/-- The instruction that a word stands for, or the trap of a reserved one (R244). -/
def runWord (s : State) (w : IWord) : Out :=
  match decode w with
  | some i => exec i s
  | none => exec (.illegalInstruction w) s

/-- The state in which the chosen thread's instruction executes: it is the issuing thread, and no longer parked. -/
def issuing (s : State) (t clk : Nat) : State :=
  let s := markIssued s t
  let th := getThread s t
  { setThread s t { th with lastIssue := some clk, park := .none } with cur := t }

/-- An instruction that forfeited was no issue: the spacing counts from the last one (R123). One that did not had its access granted, and
the count of forfeits for a bank starts again (R125). (DEDUCED, log 77) -/
def afterIssue (before s : State) (t : Nat) : State :=
  let th := getThread s t
  if !th.live then s
  else if th.bubbles != (getThread before t).bubbles then setThread s t { th with lastIssue := (getThread before t).lastIssue }
  else setThread s t { th with forfeits := 0 }

/-- The chosen thread fetches and issues (R123, R139): a miss parks it for the line, and a fetch outside global memory traps. Neither is an
issue, so the spacing counts from the last one. (DESIGN CHOICE, log 58) -/
def issue (s : State) (t clk : Nat) : Out :=
  match fetch s t with
  | .denied => .next (takeTrap s t 0x03 (getThread s t).pc (getThread s t).pc)
  | .miss => .next (setThread s t { getThread s t with park := .fetch ((getThread s t).pc.toNat / 64) })
  | .word w =>
    let s1 := issuing s t clk
    let bank := match decode w with | some i => bankForfeit s1 t i | none => false
    if bank then .next (setThread s t { getThread s t with forfeits := (getThread s t).forfeits + 1 })
    else match runWord s1 w with
      | .next s' => .next (afterIssue s s' t)
      | r => r

/-- One clock of a core (R123). (DESIGN CHOICE, log 5) -/
def coreTurn (s : State) (k : Nat) : Out :=
  let c := getCore s k
  let r := rotate 16 s k (c.ptr + 1)
  match r.2 with
  | none => .next (setCore (holdStart r.1 k) k { getCore r.1 k with clk := c.clk + 1 })
  | some slot => issue (setCore r.1 k { getCore r.1 k with clk := c.clk + 1, ptr := slot }) (coreTag k slot) c.clk

/-! ### What the module can do by itself -/

/-- The event that reads the oldest record of a queue (R29). -/
def readEvent (q : BitVec 8) (w : Words8) : State → Out :=
  match bits w.w0 63 60 with
  | 0 => execCrew q
  | 1 => execGang q
  | 2 => execVoyage q
  | 3 => execStream q
  | 4 => execWait q
  | 5 => execGraph q
  | _ => execUnknownKind q

/-- The oldest request that waits on a management connection is handled, when none of that connection is in progress (R24). -/
def nextRequest (conn : Nat) (s : State) : Out :=
  match s.board.conns.find? fun c => c.conn == conn with
  | none => .next s
  | some c =>
    match c.waiting with
    | [] => .next s
    | i :: rest =>
      if busyHere s conn i then .next s
      else match exec i (setConn s { c with waiting := [] }) with
        | .next t => .next (setConn t { c with waiting := rest })
        | r => r

/-- The abort of a crew that stays stopped for want of a place (R41). -/
def heldEvent : HeldStep → List (State → Out)
  | .handler c => [fun x => .next (abortLaunch x c)]
  | _ => []

/-- The helm's and the pilot's steps for records and crews. -/
def helmEvents (s : State) : List (State → Out) :=
  (s.queues.flatMap fun q => match q.2.fifo with | w :: _ => [readEvent (BitVec.ofNat 8 q.1) w] | [] => [])
    ++ (s.records.flatMap fun r =>
      (if r.2.ending.isSome then [execAbortedEntry r.1] else [])
        ++ (if r.2.kind == 5 && r.2.arrayBase.isNone && startable s r.2 then [execNestedGraphStart r.1] else [])
        ++ (if considered s r.2 || (r.2.kind == 2 && r.2.phase == .admitted && !r.2.chosen.isEmpty) then
            [match r.2.kind with | 0 => execCrewAdmit r.1 | 1 => execGangAdmit r.1 | 2 => execVoyageAdmit r.1 | _ => execStreamAdmit r.1,
             execReservation r.1, execPreemption r.1]
          else []))
    ++ (s.crews.flatMap fun c => match c.2.phase with
      | .running => [execCrewRetire c.1] ++ (if c.2.eventDue then [execCrewEvent c.1] else []) ++ (if c.2.spilled.isEmpty then [] else [execSpillDeliver c.1])
      | .stopping => [execSaveComplete c.1] ++ (if c.2.spilled.isEmpty then [] else [execSpillDeliver c.1])
      | .saved => [execCrewResume c.1] ++ (if c.2.spilled.isEmpty then [] else [execSpillDeliver c.1])
      | _ => [])
    ++ (if s.own.busy && (getOwner s s.own.statOwner).phase == .retiring then [execOwnerRetire s.own.statOwner] else [])
    ++ (if s.own.transfer.isSome then [execKeyTransferTimeout] else [])
    ++ (if poweredUp s && decide (s.helm.epochEnd ≤ s.board.refclk) then [execTierEpoch] else [])
    ++ (s.moves.map fun m => execPageMoveComplete m.owner (BitVec.ofNat 39 m.page))
    ++ (if s.inv.invBusy then [execInvalidationDone] else [])
    ++ (match s.board.mgmtBusy with | some i => [exec i] | none => [])
    ++ (s.board.conns.filter fun c => !c.waiting.isEmpty).map (fun c => nextRequest c.conn)
    ++ (s.helm.heldBack.flatMap heldEvent)

/-- What threads, messages and walks wait for. -/
def threadEvents (s : State) : List (State → Out) :=
  (s.threads.flatMap fun e =>
      (if canTakeDeferred s e.1 then [execDeferredTrap e.1] else [])
        ++ (match e.2.park with
          | .memory _ => [execLoadReturn e.1]
          | .fetch line => [execIcacheFill (tagCore e.1) line]
          | .release _ _ _ => [execReleaseAck e.1]
          | .sync _ (some _) => [execWaiterResend e.1]
          | _ => []))
    ++ (s.posted.map fun p => execHomeArrival p.num)
    ++ ((s.writes.filter fun w => !w.arrived && !w.initial).map fun w => execHomeArrival w.num)
    ++ (s.messages.flatMap fun m => if m.accepted then [execMessageDelivery m.num, execSpill m.num] else [execSendArrives m.num])
    ++ (s.spawns.map fun p => execSpawnArrives p.num)
    ++ (s.dies.flatMap fun d => d.2.walks.map fun w => execWalkComplete (BitVec.ofNat 3 d.1) w.owner (BitVec.ofNat 39 w.page))

/-- A running stream command's next step, by its OP (R325). -/
def commandEvent (k q : Nat) (m : Command) : List (State → Out) :=
  match m.phase with
  | .queued => [execCommandStart k q]
  | .moved => [execCommandComplete k q]
  | .running => match m.op with
    | 0x01 => [execGet k q]
    | 0x02 => [execPut k q]
    | 0x03 => [execGetx k q]
    | 0x04 => [execPutx k q]
    | 0x05 => [execCopy k q]
    | 0x06 => [execFill k q]
    | 0x07 => [execRedput k q]
    | 0x08 => [execChain k q]
    | 0x10 => [execHalo k q, execCommandComplete k q] ++ (rangeFrom (haloFaces m) 0).map fun f => execFaceDelivered k q f
    | 0x11 => [execBind k q, execCommandComplete k q]
    | 0x18 => [execScan k q]
    | 0x20 => [execProbe k q]
    | _ => []
  | _ => []

/-- Engines of the cores. -/
def coreEvents (s : State) : List (State → Out) :=
  s.cores.flatMap fun e =>
    (if e.2.tiles.isEmpty then [] else [execTileStart e.1])
      ++ (if e.2.tileBusy || e.2.ringBusy then [execTileComplete e.1] else [])
      ++ (if e.2.tileBusy then [latchChunk e.1, drainRow e.1] else [])
      ++ (rangeFrom 4 0).flatMap fun q => match e.2.queue q with | m :: _ => commandEvent e.1 q m | [] => []

/-- A resident image's steps. -/
def imageEvents (c : Nat) (i : Image) : List (State → Out) :=
  [execServeExit c i.fid, execServeTimeout c i.fid, execImageEvict c i.fid, execCompaction c i.fid, execTwinReload c i.fid, execFreezeWave c i.fid,
    execSectionComplete c i.fid]
    ++ i.copies.flatMap fun p => ((p.ctxs.map fun k => p.cellAt k.col k.row).eraseDups).flatMap fun n =>
        [execCellFire c p.server n, execEndpointPoll c p.server n]

/-- The ring controller's steps of a voyage. -/
def voyageEvents (c : Nat) (v : Voyage) : List (State → Out) :=
  (if v.failure.isSome then [execVoyageFailure c] else [])
    ++ (if v.stopping then [execVoyageStop c] else [])
    ++ (match v.phase with
      | .embark => if v.fetched then [execEmbarkComplete c] else [execEmbark c]
      | .halfSteps =>
        execHalfStepStart c :: ((rangeFrom 96 0).flatMap fun st => [execSighting c st, execStationReady c st])
      | .reckoning => execReckoning c :: (rangeFrom 96 0).map fun st => execReckonTaskStart c st
      | .stopped => [])
    ++ ((rangeFrom v.entries.length 0).zip v.entries).flatMap fun e =>
        if e.2.status == .running && entryKind e.2.w0 == 0 then [execAccumulationComplete c e.1] else []

/-- Servers, voyages, spills and scrubs of the clusters. -/
def clusterEvents (s : State) : List (State → Out) :=
  (s.clusters.flatMap fun e =>
      (if e.2.scrubbing then [execClusterScrub e.1] else [])
        ++ (if e.2.pendingQ.isEmpty then [] else [execPendingTaskStart e.1])
        ++ (e.2.waitingQ.flatMap fun p => [execSpawnArrives p.num, execSpill p.num])
        ++ (if e.2.spill.isEmpty then [] else [execSpillRetry e.1])
        ++ (if e.2.images.any fun i => !i.2.entry.isEmpty then (rangeFrom 12 0).map fun v => execServeAdmit e.1 v else [])
        ++ (e.2.images.flatMap fun i => imageEvents e.1 i.2)
        ++ (e.2.loads.flatMap fun l => [execImageLoad e.1 l.fid, execImageLoadComplete e.1 l.fid])
        ++ (e.2.misses.map fun m => execImageLoad e.1 m.fid)
        ++ (match e.2.voyage with | some v => voyageEvents e.1 v | none => []))
    ++ (s.frozen.map fun f => execThaw f.cluster f.image.fid)
    ++ (s.vsaves.map fun v => execVoyageResume v.cluster)

/-- Every step that the module may make by itself now; the meaning of each says when it changes something. (DEDUCED, log 4)
(DESIGN CHOICE, log 8) -/
def events (s : State) : List (State → Out) := helmEvents s ++ threadEvents s ++ coreEvents s ++ clusterEvents s

/-! ### What comes from outside (log 6) -/

/-- The steps of the table that the host, the board, a client of the management port or another module makes. (DESIGN CHOICE, log 6)
(DESIGN CHOICE, log 81) -/
def Instr.outside : Instr → Bool
  | .submitRecord _ _ _ _ | .qcfgWrite _ _ | .logtailWrite _ | .snap | .abortQueue _ | .abortRecord _ | .registerWrite _ _
  | .apertureAccess _ _ _ _ _ | .pcieRequest _ _ _ _ _ _ _ | .ownerCreate _ _ | .ownerRetire _ | .setModes _ _ | .setEventSlot _ _ _
  | .ownerExport _ _ | .join _ _ _ | .answerCrewPlacement _ | .answerImagePlacement _ | .answerTierMigration _ | .answerSpill _
  | .answerTwinReload _ | .tlbinvPage _ _ | .tlbinvOwner _ | .tlbinvAll | .replay _ | .decline _ _ | .dropcntRead _
  | .measurementExtend _ | .telemetry _ _ _ | .setPowerLimit _ _ _ _ | .moduleReset _ _ _ | .firmwareWrite _ _ _ _ _
  | .firmwareSelect _ _ _ _ | .attest _ _ _ _ | .events _ _ _ | .enrollClient _ _ _ _ | .coldReset | .v12AuxLoss
  | .powerUp _ _ _ _ | .pwrgd48 | .bridgeCoreReset | .sensorRead _ _ | .powerWindow _ | .meridianLaneFailure _
  | .meridianAccess _ _ _ _ _ _ | .patrolScrub _ _ | .badOp _ _ | .unknownType _ _ _ | .reqtailWrite _
  | .managementConnection _ _ => true
  | _ => false

/-- What one thing from outside does; a step of the table that is none from outside is passed over. (DESIGN CHOICE, log 81) -/
def outsideAct (o : Outside) (s : State) : Out :=
  match o with
  | .row who i => if Instr.outside i then exec i { s with outer := who } else .next s
  | .load core addr => .next (outsideLoad s core addr.toNat)
  | .fence who => .next (outsideFence s who)
  | .handOver a b => .next (handOver s a b)
  | .raiseMinVersion v => .next (raiseMinVersion s v)

/-- The access of memory that comes next from outside waits for a write that happens before it and is on its way (R224). (DEDUCED, log 16) -/
def inputWaits (s : State) (o : Outside) : Bool :=
  match o with
  | .row who i =>
    let s := { s with outer := who }
    match i with
    | .apertureAccess ap off size write _ => apertureWaits s ap off size write
    | .pcieRequest _ _ owner va size write _ => pcieWaits s owner va size write
    | .meridianAccess kind src owner va size _ => reachWaits s size (meridianReach s src owner va size (if kind = 0 then .read else if kind = 1 then .write else .both))
    | .registerWrite addr _ => windowWaits s addr.toNat true
    | _ => false
  | .load core addr => windowWaits { s with outer := core.toNat } addr.toNat false
  | _ => false

/-- The next thing from outside happens, once it need not wait. (DESIGN CHOICE, log 6) -/
def takeInput (s : State) : Out :=
  match s.inputs with
  | [] => .next s
  | o :: rest => if inputWaits s o then .next s else outsideAct o { s with inputs := rest }

/-! ### The next step -/

/-- The cores that hold a crew, and so take turns. -/
def busyCores (s : State) : List Nat := (s.cores.filter fun e => e.2.crew.isSome).map (·.1)

/-- Everything that can happen next. (DEDUCED, log 4) -/
def candidates (s : State) : List (State → Out) :=
  ((busyCores s).map fun k x => coreTurn x k) ++ events s ++ (if s.inputs.isEmpty then [] else [takeInput])

/-- Who moves: the core whose turn is fixed beforehand, else one of those that can (R221, R224); none where nothing can. (DEDUCED, log 4) -/
def nextAct (s : State) : Option (State → Out) :=
  match s.turn with
  | some k => some fun x => coreTurn x k
  | none => let l := candidates s; pick l (s.choose 62 l.length)

/-- Time passes: the reference clock since RESET_N was deasserted, and the clocks delivered since power-up step 5 (R14, R37, R248);
how much, nothing fixes. (DESIGN CHOICE, log 5) (DESIGN CHOICE, log 12) -/
def passTime (s : State) : State :=
  let n := s.fresh
  let b := s.board
  let on := b.phase == PowerPhase.running
  { s with
    fresh := n + 1
    board := { b with
      refclk := if b.resetN then b.refclk + Config.refTicks n else b.refclk
      clk := if on then b.clk + Config.clkTicks (16 * n) else b.clk
      dieClk := if on then (rangeFrom 8 0).map fun d => (d, AMap.getD b.dieClk d 0 + Config.clkTicks (16 * n + 1 + d)) else b.dieClk } }

/-- One step: the agent that moves does so, and time passes. -/
def oneStep (s : State) : Out :=
  let s0 := { s with turn := none }
  match nextAct s with
  | none => .next (passTime s0)
  | some a =>
    match a s0 with
    | .next s' => .next (passTime s')
    | r => r

/-! ### A word placed where the next fetch is (log 7) -/

/-- The record of the crew that a placed word runs in. -/
def placedRecord (seq : Nat) : RecordState :=
  { newRecord seq 0 1 0 { w3 := BitVec.ofNat 64 (2 ^ 57 + 2 ^ 52 + 2 ^ 32) } 0xFFF seq 0 [] with phase := .running, crewsLeft := 0, nextCrew := 1 }

/-- A crew of one core and one thread on core 0, for owner 1. (DEDUCED, log 7) -/
def placedCrew (seq : Nat) : Crew where
  record := seq
  index := 0
  owner := 1
  prio := 0
  gang := false
  cluster := 0
  cores := [0]
  threads := 1
  spillVa := 0
  spillDecl := 0
  spillCur := 0
  spilled := []
  spillWr := 0
  spillRd := 0
  phase := .running
  issued := true
  event0A := none
  event0B := none
  save := none

/-- The instruction-cache line of a pc that holds one word there. -/
def placedLine (pc : Word) (w : IWord) : ICacheLine where
  line := pc.toNat / 64
  words := (rangeFrom 16 0).map fun i => if i = pc.toNat % 64 / 4 then w else 0

/-- The word stands where thread 0 of core 0 fetches next, and that thread's core takes the next turn: its crew, record and owner
exist, and the module is powered up. A live thread 0 keeps its registers and pc. (DEDUCED, log 7) -/
def placeWord (s : State) (w : IWord) : State :=
  let old := getThread s 0
  let id := if old.live then old.crew else s.nextCrew
  let seq := s.helm.nextSeq
  let th : ThreadState := { old with live := true, crew := id, park := .none, lastIssue := none, yielded := false, stopped := false, deferred := [], agent := if old.live then old.agent else s.nextAgent }
  let c := getCore s 0
  let crew : Crew := match getCrew s id with | some x => { x with issued := true, event0A := none, event0B := none } | none => placedCrew seq
  let known := (getCrew s id).isSome
  let s1 : State := { s with
    board := { s.board with phase := .running }
    threads := AMap.set s.threads 0 th
    cores := AMap.set s.cores 0 { c with crew := some id, ptr := 15, icache := placedLine th.pc w :: c.icache }
    crews := AMap.set s.crews id crew
    nextAgent := s.nextAgent + 1
    work := (th.agent, match getCrew s id with | some x => x.record | none => seq) :: s.work
    turn := some 0 }
  if known then s1
  else
    let s2 : State := { s1 with
      records := AMap.set s1.records seq (placedRecord seq)
      helm := { s1.helm with nextSeq := seq + 1 }
      nextCrew := id + 1
      clusters := AMap.set s1.clusters 0 { getCluster s1 0 with lastOwner := some 1 } }
    if (getOwner s 1).phase == .absent then setOwner s2 1 { phase := .live, modes := 8, key := some (s.board.keysDrawn + 1) } else s2

end Sys2Proof.Machine
end

