-- ==== Sys2Proof/Machine/Step.lean ====
section
/-! DEFINITION. One step of the module, and a word placed where the next step fetches. -/

namespace Sys2Proof.Machine

/-- One step: a core's turn, a step of the module's own, or something from outside (log 4). -/
def step (s : State) : Host.Outcome State Fault Refusal := Sys2Proof.Machine.oneStep s

/-- The state in which the next step fetches the instruction with these bits (log 7). -/
def State.withFetchWord (s : State) (nbits w : Nat) : State := Sys2Proof.Machine.placeWord s (BitVec.ofNat 32 (w % 2 ^ nbits))

end Sys2Proof.Machine
end

