-- ==== Sys2Proof/Safety.lean ====
section
/-! DEFINITION. What a safe run is, and the frames that the statements about single steps are written in. -/

namespace Sys2Proof

open Sys2Proof.Machine

/-- The invariant of every state: the homes' memory is in its canonical form, every record stands once, under its own sequence
number (R37), and that number has been given out. -/
abbrev Safety.Inv (s : State) : Prop :=
  Memory.wf s.mem = true ∧ (∀ e ∈ s.records, e.2.seqNo = e.1 ∧ e.1 < s.helm.nextSeq) ∧ (s.records.map (·.1)).Nodup

/-- A step is safe when it answers a next state: the module stops for no fault and refuses no instruction. -/
def Safety.Safe (s : State) : Prop := ∃ t, step s = .next t

/-- Every byte of every home reads as before. -/
def Safety.SameMem (s t : State) : Prop := ∀ a, t.byteAt a = s.byteAt a

/-- Nothing but the issuing thread's own registers changed: no other thread, no core, cluster or die, no memory, no queue, no
special register of another agent. -/
def Safety.OnlyThread (s t : State) : Prop :=
  t = { s with threads := t.threads } ∧ (∀ k, k ≠ s.cur → getThread t k = getThread s k) ∧ Safety.SameMem s t

/-- The frame of an instruction that writes x[d] only: every other register of the thread, its flags, its trap registers and
its message registers are as before. -/
def Safety.RegFrame (d : Reg) (s t : State) : Prop :=
  Safety.OnlyThread s t ∧ (∀ r, r ≠ d → t.x r = s.x r) ∧ t.th = { s.th with x := t.th.x, pc := t.th.pc }

/-- `i` completes at `s`: x[d] holds `v` (a write to x0 is discarded, R247), the pc is at the next instruction, and nothing
else changed. -/
def Safety.Sets (i : Instr) (s : State) (d : Reg) (v : Word) : Prop :=
  ∃ t, exec i s = .next t ∧ t.x d = (if d = 0 then 0 else v) ∧ t.th.pc = s.th.pc + 4 ∧ Safety.RegFrame d s t

/-- As `Sets`, with the flags `fl` raised in `fstat` and no other bit of it changed (R235). -/
def Safety.SetsF (i : Instr) (s : State) (d : Reg) (v : Nat) (fl : FFlags) : Prop :=
  ∃ t, exec i s = .next t ∧ t.x d = (if d = 0 then 0 else BitVec.ofNat 64 v) ∧ t.th.pc = s.th.pc + 4
    ∧ t.th.fstat = raiseFlags s.th.fstat fl ∧ Safety.OnlyThread s t ∧ (∀ r, r ≠ d → t.x r = s.x r)
    ∧ t.th = { s.th with x := t.th.x, pc := t.th.pc, fstat := t.th.fstat }

/-- `i` completes at `s` and only moves the pc, to `p`. -/
def Safety.Jumps (i : Instr) (s : State) (p : Word) : Prop :=
  ∃ t, exec i s = .next t ∧ t.th.pc = p ∧ Safety.OnlyThread s t ∧ t.th = { s.th with pc := p }

/-- The thread's registers but x[d] are as before: the other general registers, the flags, the trap registers, the message
registers, its name and index. With d = 0: all of them. -/
def Safety.Kept (d : Reg) (s t : State) : Prop :=
  (∀ r, r ≠ d → t.x r = s.x r) ∧ t.th.fstat = s.th.fstat ∧ t.th.tcause = s.th.tcause ∧ t.th.tepc = s.th.tepc
    ∧ t.th.tval = s.th.tval ∧ t.th.tvec = s.th.tvec ∧ t.th.tstat = s.th.tstat ∧ t.th.m = s.th.m ∧ t.th.thid = s.th.thid
    ∧ t.th.crix = s.th.crix

/-- Every other thread is as before. -/
def Safety.OthersKept (s t : State) : Prop := ∀ k, k ≠ s.cur → getThread t k = getThread s k

/-- `i` completes at `s` with `v` in x[d]; its thread goes on and keeps its other registers, and every byte of memory reads as
before. What else it does, the statement says beside it. -/
def Safety.Gets (i : Instr) (s : State) (d : Reg) (v : Word) (t : State) : Prop :=
  exec i s = .next t ∧ t.x d = (if d = 0 then 0 else v) ∧ t.th.pc = s.th.pc + 4 ∧ t.th.park = .none ∧ Safety.Kept d s t
    ∧ Safety.SameMem s t

/-- The state once the stores of the issuing thread's core that nothing holds up are performed (R128, R141). -/
abbrev Safety.stored (s : State) : State := performCore s (tagCore s.cur)

/-- As `stored`, with the dirty bytes of the thread's cluster written back (R141, R217). -/
abbrev Safety.released (s : State) : State := releaseNow s s.cur

/-- No load, atomic or store of any thread is on its way. -/
abbrev Safety.Quiet (s : State) : Prop :=
  s.posted = [] ∧ s.writes = [] ∧ s.threads.all (fun e => match e.2.park with | .memory _ => false | _ => true) = true

/-- No store that is on its way to a scratchpad meets the bay of an active voyage there (R145). -/
abbrev Safety.NoLateBay (s : State) : Prop := ∀ p ∈ s.posted, inActiveBay s p.addr p.bytes.length = false

/-- No write of an access's past is on its way to a home: neither a posted store nor a dirty write that an earlier request of its core holds
back is of `agent`, or happens before the clock (R224). What an engine with this clock does waits for none. -/
abbrev Safety.Unhindered (s : State) (agent : Nat) (clk : Clock) : Prop :=
  (∀ p ∈ s.posted, p.agent ≠ agent ∧ AMap.getD clk p.agent 0 < p.stamp)
    ∧ ∀ w ∈ s.writes, w.initial = true ∨ w.arrived = true ∨ w.heldBack s = false ∨ (w.agent ≠ agent ∧ AMap.getD clk w.agent 0 < w.stamp)

/-- The bytes `bs` stand from `k` upward, and every other byte reads as before. -/
def Safety.Stored (k : Nat) (bs : List Byte) (s t : State) : Prop :=
  ∀ a, t.byteAt a = if k ≤ a ∧ a < k + bs.length then bs.getD (a - k) 0 else s.byteAt a

/-- `i`, issued at `s`, takes the trap `c` with `tval` = `v` and `tepc` = its own address (R103, R106), at the state `u` in which what it
waits for is done: IH is set, the pc is `tvec`, and nothing else changes. -/
def Safety.TrapsFrom (i : Instr) (s u : State) (c : BitVec 8) (v : Word) : Prop :=
  ∃ t, exec i s = .next t ∧ t.th.tcause = c.setWidth 64 ∧ t.th.tval = v ∧ t.th.tepc = u.th.pc ∧ t.th.tstat = u.th.tstat ||| 1
    ∧ t.th.pc = u.th.tvec ∧ t.th.park = .none ∧ Safety.OnlyThread u t
    ∧ t.th = { u.th with tcause := t.th.tcause, tval := t.th.tval, tepc := t.th.tepc, tstat := t.th.tstat, pc := t.th.pc, park := .none }

/-- `i` takes the trap `c` at once. -/
abbrev Safety.Traps (i : Instr) (s : State) (c : BitVec 8) (v : Word) : Prop := Safety.TrapsFrom i s s c v

/-- `i`, issued at `s`, forfeits its slot: what it must wait for is not done at `u`, where all that can be done is, and it issues again at
a later turn (R124, R128). -/
def Safety.Forfeits (i : Instr) (s u : State) : Prop :=
  ∃ t, exec i s = .next t ∧ t.th = { u.th with bubbles := u.th.bubbles + 1 } ∧ Safety.OnlyThread u t

/-! ### What a load may return (R220–R223) -/

/-- The write `w` is in the frontier of byte `x` for a load of thread `t` with the number `n`: it covers the byte, the thread's core did not
issue it after the load, and no write that happens before the load, or that the core issued before it, hides it (R221, R222). -/
def Safety.InFrontier (s : State) (t n x : Nat) (w : WriteRec) : Prop :=
  let k := some (tagCore t)
  let covers := fun (v : WriteRec) => v ∈ s.writes ∧ v.addr ≤ x ∧ x < v.addr + v.bytes.length ∧ ¬(v.core = k ∧ n ≤ v.issued)
  let prior := fun (v : WriteRec) => v.initial = true ∨ v.stamp ≤ AMap.getD (getThread s t).clock v.agent 0 ∨ v.core = k
  let after := fun (v : WriteRec) => v.initial = false ∧ (w.initial = true ∨ (w.num < v.num ∧ w.stamp ≤ AMap.getD v.clock w.agent 0))
  covers w ∧ ∀ v, covers v → prior v → ¬after v ∧ ¬(w.core = k ∧ v.core = k ∧ w.issued < v.issued)

/-- The write holds byte `x` dirty in the cache of the thread's cluster, and its core did not issue it after the load (R140, R212). -/
def Safety.DirtyHere (s : State) (t n x : Nat) (w : WriteRec) : Prop :=
  w ∈ s.writes ∧ w.initial = false ∧ w.arrived = false ∧ w.cluster = tagCluster t ∧ w.addr ≤ x ∧ x < w.addr + w.bytes.length
    ∧ ¬(w.core = some (tagCore t) ∧ n ≤ w.issued)

/-! ### Correct rounding (R229, R235, R236), beside the model's own arithmetic -/

/-- The value of a finite pattern (R229). -/
def Safety.patternValue (f : Fmt) (a : Nat) : ℚ :=
  let frac := a % 2 ^ f.fracBits
  let e := a / 2 ^ f.fracBits % 2 ^ f.expBits
  (if a / 2 ^ (f.expBits + f.fracBits) % 2 = 1 then -1 else 1) * ((if e = 0 then frac else 2 ^ f.fracBits + frac : Nat) : ℚ)
    * (2 : ℚ) ^ (((if e = 0 then 1 else e : Nat) : Int) - f.bias - f.fracBits)

/-- A pattern of the format that encodes a finite value (R229): in e4m3 only 1111.111 does not. -/
def Safety.Finite (f : Fmt) (a : Nat) : Prop :=
  a < 2 ^ f.width ∧ if f.e4m3 then a % 2 ^ (f.expBits + f.fracBits) ≠ 2 ^ (f.expBits + f.fracBits) - 1
    else a / 2 ^ f.fracBits % 2 ^ f.expBits ≠ 2 ^ f.expBits - 1

/-- The finite pattern `r` is the number `x` rounded once under a mode, where no finite value beyond the largest is nearer (R235): toward
an end it is the nearest value on that side, else the nearest of all; of two that are as near RNE takes the even pattern and RMM the one of
the larger magnitude. -/
def Safety.RoundedFinite (f : Fmt) (rm : RMode) (x : ℝ) (r : Nat) : Prop :=
  let v := fun (a : Nat) => (Safety.patternValue f a : ℝ)
  let below := v r ≤ x ∧ ∀ c, Safety.Finite f c → v c ≤ x → v c ≤ v r
  let above := x ≤ v r ∧ ∀ c, Safety.Finite f c → x ≤ v c → v r ≤ v c
  let near := fun (tie : Prop) => ∀ c, Safety.Finite f c → |v r - x| ≤ |v c - x| ∧ (v c ≠ v r → |v c - x| = |v r - x| → tie)
  Safety.Finite f r ∧ match rm with
    | .rdn => below
    | .rup => above
    | .rtz => if 0 < x then below else above
    | .rne => near (r % 2 = 0)
    | .rmm => near (|x| < |v r|)

/-- The number `x`, rounded under a mode with no limit to its exponent, lies beyond the largest finite value (R236, R237): its magnitude reaches
the middle of the step after that value, or passes it, as the mode has it. The last step of e4m3 ends at 480, and its 448 is even. -/
def Safety.Overflows (f : Fmt) (rm : RMode) (x : ℝ) : Prop :=
  let most : ℝ := Safety.patternValue f (f.maxFinite false)
  let step : ℝ := (2 : ℝ) ^ ((2 ^ f.expBits - (if f.e4m3 then 1 else 2) : Nat) - (f.bias : Int) - f.fracBits)
  match rm with
  | .rne => if f.e4m3 then most + step / 2 < |x| else most + step / 2 ≤ |x|
  | .rmm => most + step / 2 ≤ |x|
  | .rtz => most + step ≤ |x|
  | .rdn => if x < 0 then most < |x| else most + step ≤ |x|
  | .rup => if 0 < x then most < |x| else most + step ≤ |x|

/-- The number `x`, rounded under a mode to the format's precision with no limit to its exponent, is below the smallest normal value (R236). -/
def Safety.Tiny (f : Fmt) (rm : RMode) (x : ℝ) : Prop :=
  let least : ℝ := (2 : ℝ) ^ (1 - (f.bias : Int))
  let step : ℝ := (2 : ℝ) ^ (-(f.bias : Int) - f.fracBits)
  match rm with
  | .rne | .rmm => |x| < least - step / 2
  | .rtz => |x| < least
  | .rdn => if x < 0 then |x| ≤ least - step else |x| < least
  | .rup => if 0 < x then |x| ≤ least - step else |x| < least

/-- The pattern `r` is the number `x ≠ 0` rounded once under a mode, with the sign of `x`; beyond the largest finite value it is that value
(R237). -/
def Safety.RoundedSat (f : Fmt) (rm : RMode) (x : ℝ) (r : Nat) : Prop :=
  (r / 2 ^ (f.expBits + f.fracBits) = if x < 0 then 1 else 0) ∧ (Safety.Overflows f rm x → r = f.maxFinite (decide (r / 2 ^ (f.expBits + f.fracBits) = 1)))
    ∧ (¬Safety.Overflows f rm x → Safety.RoundedFinite f rm x r)

/-- The pattern `r` is the number `x ≠ 0` rounded once under a mode in a format with infinities, with the sign of `x`; beyond the largest
finite value it overflows as IEEE 754 says (R236). -/
def Safety.Rounded (f : Fmt) (rm : RMode) (x : ℝ) (r : Nat) : Prop :=
  let top : ℝ := (2 : ℝ) ^ ((2 ^ f.expBits - 1 : Nat) - (f.bias : Int))
  let ulp : ℝ := (2 : ℝ) ^ ((2 ^ f.expBits - 2 : Nat) - (f.bias : Int) - f.fracBits)
  let beyond := match rm with
    | .rne | .rmm => top - ulp / 2 ≤ |x|
    | .rdn => x < ulp - top
    | .rup => top - ulp < x
    | .rtz => False
  (r / 2 ^ (f.expBits + f.fracBits) = if x < 0 then 1 else 0)
    ∧ (beyond → r % 2 ^ (f.expBits + f.fracBits) = (2 ^ f.expBits - 1) * 2 ^ f.fracBits) ∧ (¬beyond → Safety.RoundedFinite f rm x r)

/-- `n` is the number `x` rounded once to an integer under a mode (R235). -/
def Safety.RoundedInt (rm : RMode) (x : ℝ) (n : Int) : Prop :=
  match rm with
  | .rdn => n = ⌊x⌋
  | .rup => n = ⌈x⌉
  | .rtz => n = if 0 < x then ⌊x⌋ else ⌈x⌉
  | .rne => |(n : ℝ) - x| ≤ 1 / 2 ∧ (|(n : ℝ) - x| = 1 / 2 → n % 2 = 0)
  | .rmm => |(n : ℝ) - x| ≤ 1 / 2 ∧ (|(n : ℝ) - x| = 1 / 2 → |x| < |(n : ℝ)|)

end Sys2Proof
end

