-- ==== Sys2Proof/Certificates/Slice0/Obligations.lean ====
section
/-! DEFINITION. The statements about the model, from the numbered rules of spec/. -/

section

open Sys2Proof Sys2Proof.Machine Sys2Proof.Safety

/-! ### Integer instructions (R272–R277) -/

/-- R273: what each integer register form writes to x[d]; n is B[5:0].
R273: the four unary forms count or move bits. -/
def Obligations.IntegerRegisterResults : Prop :=
  (∀ (s : State) (d a b : Reg),
    let A := s.x a
    let B := s.x b
    let n := B.toNat % 64
    Sets (.add d a b) s d (A + B) ∧ Sets (.sub d a b) s d (A - B) ∧ Sets (.and d a b) s d (A &&& B)
    ∧ Sets (.or d a b) s d (A ||| B) ∧ Sets (.xor d a b) s d (A ^^^ B) ∧ Sets (.andn d a b) s d (A &&& ~~~B)
    ∧ Sets (.sll d a b) s d (BitVec.ofNat 64 (A.toNat * 2 ^ n)) ∧ Sets (.srl d a b) s d (BitVec.ofNat 64 (A.toNat / 2 ^ n))
    ∧ Sets (.sra d a b) s d (BitVec.ofInt 64 (A.toInt / 2 ^ n))
    ∧ Sets (.rotl d a b) s d (BitVec.ofNat 64 (A.toNat * 2 ^ n + A.toNat / 2 ^ (64 - n)))
    ∧ Sets (.rotr d a b) s d (BitVec.ofNat 64 (A.toNat / 2 ^ n + A.toNat * 2 ^ (64 - n)))
    ∧ Sets (.slt d a b) s d (if A.toInt < B.toInt then 1 else 0) ∧ Sets (.sltu d a b) s d (if A.toNat < B.toNat then 1 else 0)
    ∧ Sets (.min d a b) s d (BitVec.ofInt 64 (Min.min A.toInt B.toInt)) ∧ Sets (.max d a b) s d (BitVec.ofInt 64 (Max.max A.toInt B.toInt))
    ∧ Sets (.minu d a b) s d (BitVec.ofNat 64 (Min.min A.toNat B.toNat)) ∧ Sets (.maxu d a b) s d (BitVec.ofNat 64 (Max.max A.toNat B.toNat))
    ∧ Sets (.mul d a b) s d (BitVec.ofNat 64 (A.toNat * B.toNat))
    ∧ Sets (.mulh d a b) s d ((BitVec.ofInt 128 (A.toInt * B.toInt)).extractLsb' 64 64)
    ∧ Sets (.mulhu d a b) s d ((BitVec.ofNat 128 (A.toNat * B.toNat)).extractLsb' 64 64)
    ∧ Sets (.mulhsu d a b) s d ((BitVec.ofInt 128 (A.toInt * B.toNat)).extractLsb' 64 64))
  ∧ (∀ (s : State) (d a : Reg),
    let A := s.x a
    (∃ n : Nat, Sets (.clz d a) s d (BitVec.ofNat 64 n) ∧ n ≤ 64 ∧ A.toNat < 2 ^ (64 - n) ∧ (n < 64 → 2 ^ (63 - n) ≤ A.toNat))
    ∧ (∃ n : Nat, Sets (.ctz d a) s d (BitVec.ofNat 64 n) ∧ n ≤ 64 ∧ (∀ k, k < n → A.getLsbD k = false) ∧ (n < 64 → A.getLsbD n = true))
    ∧ (∃ n : Nat, Sets (.popc d a) s d (BitVec.ofNat 64 n) ∧ n = ((List.range 64).filter fun k => A.getLsbD k).length)
    ∧ (∃ v : Word, Sets (.bswap d a) s d v ∧ ∀ i k, i < 8 → k < 8 → v.getLsbD (8 * (7 - i) + k) = A.getLsbD (8 * i + k)))

/-- R228: integer division, in 64 bits and, sign-extended, in 32 bits. -/
def Obligations.IntegerDivision : Prop := ∀ (s : State) (d a b : Reg),
  let A := s.x a
  let B := s.x b
  let a32 := lo32 A
  let b32 := lo32 B
  (B = 0 → Sets (.div d a b) s d (BitVec.allOnes 64) ∧ Sets (.divu d a b) s d (BitVec.allOnes 64)
    ∧ Sets (.rem d a b) s d A ∧ Sets (.remu d a b) s d A)
  ∧ (b32 = 0 → Sets (.divW d a b) s d (BitVec.allOnes 64) ∧ Sets (.divuW d a b) s d (BitVec.allOnes 64)
    ∧ Sets (.remW d a b) s d (a32.signExtend 64) ∧ Sets (.remuW d a b) s d (a32.signExtend 64))
  ∧ (A = BitVec.intMin 64 → B = BitVec.allOnes 64 → Sets (.div d a b) s d (BitVec.intMin 64) ∧ Sets (.rem d a b) s d 0)
  ∧ (a32 = BitVec.intMin 32 → b32 = BitVec.allOnes 32 →
      Sets (.divW d a b) s d ((BitVec.intMin 32).signExtend 64) ∧ Sets (.remW d a b) s d 0)
  ∧ (B ≠ 0 → ¬(A = BitVec.intMin 64 ∧ B = BitVec.allOnes 64) →
      Sets (.div d a b) s d (BitVec.ofInt 64 (A.toInt.tdiv B.toInt))
      ∧ Sets (.rem d a b) s d (BitVec.ofInt 64 (A.toInt - A.toInt.tdiv B.toInt * B.toInt)))
  ∧ (B ≠ 0 → Sets (.divu d a b) s d (BitVec.ofNat 64 (A.toNat / B.toNat))
      ∧ Sets (.remu d a b) s d (BitVec.ofNat 64 (A.toNat - A.toNat / B.toNat * B.toNat)))
  ∧ (b32 ≠ 0 → ¬(a32 = BitVec.intMin 32 ∧ b32 = BitVec.allOnes 32) →
      Sets (.divW d a b) s d ((BitVec.ofInt 32 (a32.toInt.tdiv b32.toInt)).signExtend 64)
      ∧ Sets (.remW d a b) s d ((BitVec.ofInt 32 (a32.toInt - a32.toInt.tdiv b32.toInt * b32.toInt)).signExtend 64))
  ∧ (b32 ≠ 0 → Sets (.divuW d a b) s d ((BitVec.ofNat 32 (a32.toNat / b32.toNat)).signExtend 64)
      ∧ Sets (.remuW d a b) s d ((BitVec.ofNat 32 (a32.toNat - a32.toNat / b32.toNat * b32.toNat)).signExtend 64))

/-- R275, R276, R277: what each immediate form writes to x[d].
R274: the word forms but the divisions write the sign extension of a 32-bit result of the low halves. -/
def Obligations.ImmediateAndWordResults : Prop :=
  (∀ (s : State) (d a : Reg) (i : BitVec 16) (n : BitVec 6) (m : BitVec 5) (u : BitVec 21),
    let A := s.x a
    let imm := i.signExtend 64
    let a32 := A.toNat % 2 ^ 32
    let SX := fun (v : BitVec 32) => v.signExtend 64
    Sets (.addi d a i) s d (A + imm) ∧ Sets (.andi d a i) s d (A &&& i.setWidth 64)
    ∧ Sets (.ori d a i) s d (A ||| i.setWidth 64) ∧ Sets (.xori d a i) s d (A ^^^ i.setWidth 64)
    ∧ Sets (.slti d a i) s d (if A.toInt < i.toInt then 1 else 0) ∧ Sets (.sltiu d a i) s d (if A.toNat < imm.toNat then 1 else 0)
    ∧ Sets (.addiW d a i) s d (SX (BitVec.ofInt 32 (A.toInt + i.toInt)))
    ∧ Sets (.slli d a n) s d (BitVec.ofNat 64 (A.toNat * 2 ^ n.toNat)) ∧ Sets (.srli d a n) s d (BitVec.ofNat 64 (A.toNat / 2 ^ n.toNat))
    ∧ Sets (.srai d a n) s d (BitVec.ofInt 64 (A.toInt / 2 ^ n.toNat))
    ∧ Sets (.rotri d a n) s d (BitVec.ofNat 64 (A.toNat / 2 ^ n.toNat + A.toNat * 2 ^ (64 - n.toNat)))
    ∧ Sets (.slliW d a m) s d (SX (BitVec.ofNat 32 (a32 * 2 ^ m.toNat))) ∧ Sets (.srliW d a m) s d (SX (BitVec.ofNat 32 (a32 / 2 ^ m.toNat)))
    ∧ Sets (.sraiW d a m) s d (SX (BitVec.ofInt 32 ((BitVec.ofNat 32 a32).toInt / 2 ^ m.toNat)))
    ∧ Sets (.ldhi d u) s d (BitVec.ofInt 64 (u.toInt * 2 ^ 16)) ∧ Sets (.pcadd d u) s d (s.th.pc + BitVec.ofInt 64 (u.toInt * 2 ^ 16)))
  ∧ (∀ (s : State) (d a b : Reg),
    let a32 := (s.x a).toNat % 2 ^ 32
    let b32 := (s.x b).toNat % 2 ^ 32
    let n := b32 % 32
    let SX := fun (v : BitVec 32) => v.signExtend 64
    Sets (.addW d a b) s d (SX (BitVec.ofNat 32 (a32 + b32)))
    ∧ Sets (.subW d a b) s d (SX (BitVec.ofInt 32 ((a32 : Int) - b32)))
    ∧ Sets (.mulW d a b) s d (SX (BitVec.ofNat 32 (a32 * b32)))
    ∧ Sets (.sllW d a b) s d (SX (BitVec.ofNat 32 (a32 * 2 ^ n)))
    ∧ Sets (.srlW d a b) s d (SX (BitVec.ofNat 32 (a32 / 2 ^ n)))
    ∧ Sets (.sraW d a b) s d (SX (BitVec.ofInt 32 ((BitVec.ofNat 32 a32).toInt / 2 ^ n))))

/-- R281, R282: where branches and jumps go; the link register; a `jr` to an address that is no multiple of 4 traps, and x[d] and pc do not
change before it; the fields of their words. -/
def Obligations.BranchesAndJumps : Prop := ∀ (s : State) (a b d : Reg) (o i : BitVec 16) (j : BitVec 26),
  let A := s.x a
  let B := s.x b
  let tgt := fun (c : Bool) => if c then s.th.pc + BitVec.ofInt 64 (o.toInt * 4) else s.th.pc + 4
  let t := A + i.signExtend 64
  Jumps (.bEq a b o) s (tgt (decide (A = B))) ∧ Jumps (.bNe a b o) s (tgt (decide (A ≠ B)))
  ∧ Jumps (.bLt a b o) s (tgt (decide (A.toInt < B.toInt))) ∧ Jumps (.bGe a b o) s (tgt (decide (B.toInt ≤ A.toInt)))
  ∧ Jumps (.bLtu a b o) s (tgt (decide (A.toNat < B.toNat))) ∧ Jumps (.bGeu a b o) s (tgt (decide (B.toNat ≤ A.toNat)))
  ∧ (∃ u, exec (.call j) s = .next u ∧ u.x 1 = s.th.pc + 4 ∧ u.th.pc = s.th.pc + BitVec.ofInt 64 (j.toInt * 4) ∧ RegFrame 1 s u)
  ∧ (t.toNat % 4 = 0 →
      ∃ u, exec (.jr d a i) s = .next u ∧ u.x d = (if d = 0 then 0 else s.th.pc + 4) ∧ u.th.pc = t ∧ RegFrame d s u)
  ∧ (t.toNat % 4 ≠ 0 → s.th.ih = false → Traps (.jr d a i) s 0x02 t)
  ∧ encode (.bEq a b o) = some ((0x20 : BitVec 6) ++ a ++ b ++ o) ∧ encode (.bNe a b o) = some ((0x21 : BitVec 6) ++ a ++ b ++ o)
  ∧ encode (.bLt a b o) = some ((0x22 : BitVec 6) ++ a ++ b ++ o) ∧ encode (.bGe a b o) = some ((0x23 : BitVec 6) ++ a ++ b ++ o)
  ∧ encode (.bLtu a b o) = some ((0x24 : BitVec 6) ++ a ++ b ++ o) ∧ encode (.bGeu a b o) = some ((0x25 : BitVec 6) ++ a ++ b ++ o)
  ∧ encode (.call j) = some ((0x26 : BitVec 6) ++ j) ∧ encode (.jr d a i) = some ((0x27 : BitVec 6) ++ d ++ a ++ i)

/-! ### Floating point (R284–R289) -/

/-- R285–R287: the result and the flags of each arithmetic form, in the format its p bit names, under `fstat`'s mode. -/
def Obligations.FloatArithmetic : Prop := ∀ (s : State) (d a b c : Reg) (p : BitVec 1),
  let f := if p = 1 then f64 else f32
  let A := (s.x a).toNat % 2 ^ f.width
  let B := (s.x b).toNat % 2 ^ f.width
  let C := (s.x c).toNat % 2 ^ f.width
  let top := 2 ^ (f.width - 1)
  let rm := rmOf s.th.fstat
  SetsF (.fadd d a b p) s d (f.add rm A B).1 (f.add rm A B).2 ∧ SetsF (.fsub d a b p) s d (f.sub rm A B).1 (f.sub rm A B).2
  ∧ SetsF (.fmul d a b p) s d (f.mul rm A B).1 (f.mul rm A B).2 ∧ SetsF (.fdiv d a b p) s d (f.div rm A B).1 (f.div rm A B).2
  ∧ SetsF (.fsqrt d a p) s d (f.sqrt rm A).1 (f.sqrt rm A).2
  ∧ SetsF (.fmadd d a b c p) s d (f.fma rm false false A B C).1 (f.fma rm false false A B C).2
  ∧ SetsF (.fmsub d a b c p) s d (f.fma rm false true A B C).1 (f.fma rm false true A B C).2
  ∧ SetsF (.fnmadd d a b c p) s d (f.fma rm true true A B C).1 (f.fma rm true true A B C).2
  ∧ SetsF (.fmin d a b p) s d (f.minmax false A B).1 (f.minmax false A B).2
  ∧ SetsF (.fmax d a b p) s d (f.minmax true A B).1 (f.minmax true A B).2
  ∧ SetsF (.fsgnj d a b p) s d (A % top + B / top * top) {}
  ∧ SetsF (.fsgnjn d a b p) s d (A % top + (1 - B / top) * top) {}
  ∧ SetsF (.fsgnjx d a b p) s d (A % top + (A / top + B / top) % 2 * top) {}

/-- R288, R289: compares, classes and conversions: the result and the flags. -/
def Obligations.FloatComparesConversions : Prop := ∀ (s : State) (d a b : Reg) (p : BitVec 1),
  let f := if p = 1 then f64 else f32
  let A := (s.x a).toNat % 2 ^ f.width
  let B := (s.x b).toNat % 2 ^ f.width
  let V := (s.x a).toNat
  let rm := rmOf s.th.fstat
  let one := fun (r : Bool × FFlags) => if r.1 then 1 else 0
  let conv := fun (src dst : Fmt) (ov : Over) => src.convert dst rm ov (V % 2 ^ src.width)
  let int := fun (lo hi : Int) => f.toInt rm lo hi A
  SetsF (.feq d a b p) s d (one (f.feq A B)) (f.feq A B).2 ∧ SetsF (.flt d a b p) s d (one (f.flt A B)) (f.flt A B).2
  ∧ SetsF (.fle d a b p) s d (one (f.fle A B)) (f.fle A B).2 ∧ SetsF (.fclass d a p) s d (f.classify A) {}
  ∧ SetsF (.fcvtW d a p) s d (BitVec.ofInt 64 (int (-2 ^ 31) (2 ^ 31 - 1)).1).toNat (int (-2 ^ 31) (2 ^ 31 - 1)).2
  ∧ SetsF (.fcvtWu d a p) s d (int 0 (2 ^ 32 - 1)).1.toNat (int 0 (2 ^ 32 - 1)).2
  ∧ SetsF (.fcvtL d a p) s d (BitVec.ofInt 64 (int (-2 ^ 63) (2 ^ 63 - 1)).1).toNat (int (-2 ^ 63) (2 ^ 63 - 1)).2
  ∧ SetsF (.fcvtLu d a p) s d (int 0 (2 ^ 64 - 1)).1.toNat (int 0 (2 ^ 64 - 1)).2
  ∧ SetsF (.fcvtFromW d a p) s d (f.ofInt rm .ieee (BitVec.ofNat 32 V).toInt).1 (f.ofInt rm .ieee (BitVec.ofNat 32 V).toInt).2
  ∧ SetsF (.fcvtFromWu d a p) s d (f.ofInt rm .ieee (V % 2 ^ 32 : Nat)).1 (f.ofInt rm .ieee (V % 2 ^ 32 : Nat)).2
  ∧ SetsF (.fcvtFromL d a p) s d (f.ofInt rm .ieee (s.x a).toInt).1 (f.ofInt rm .ieee (s.x a).toInt).2
  ∧ SetsF (.fcvtFromLu d a p) s d (f.ofInt rm .ieee V).1 (f.ofInt rm .ieee V).2
  ∧ SetsF (.fcvtDS d a 0) s d (conv f32 f64 .ieee).1 (conv f32 f64 .ieee).2 ∧ SetsF (.fcvtDS d a 1) s d (conv f64 f32 .ieee).1 (conv f64 f32 .ieee).2
  ∧ SetsF (.fcvtHS d a) s d (conv f32 f16 .ieee).1 (conv f32 f16 .ieee).2 ∧ SetsF (.fcvtSH d a) s d (conv f16 f32 .ieee).1 (conv f16 f32 .ieee).2
  ∧ SetsF (.fcvtBfS d a) s d (conv f32 bf16 .ieee).1 (conv f32 bf16 .ieee).2 ∧ SetsF (.fcvtSBf d a) s d (conv bf16 f32 .ieee).1 (conv bf16 f32 .ieee).2
  ∧ SetsF (.fcvtE4S d a) s d (conv f32 e4m3 .saturate).1 (conv f32 e4m3 .saturate).2
  ∧ SetsF (.fcvtSE4 d a) s d (conv e4m3 f32 .ieee).1 (conv e4m3 f32 .ieee).2
  ∧ SetsF (.fcvtE5S d a) s d (conv f32 e5m2 .saturate).1 (conv f32 e5m2 .saturate).2
  ∧ SetsF (.fcvtSE5 d a) s d (conv e5m2 f32 .ieee).1 (conv e5m2 f32 .ieee).2

/-! ### Loads, stores, full/empty words, atomics, fences, barriers (R278–R300) -/

/-- R278, R128: a load of the thread's own scratchpad completes at once with the bytes that stand there, sign- or zero-extended,
where no tile instruction and no earlier access holds it off.
R278: a store to the thread's own scratchpad stores the low bytes of x[b], and nothing else of memory or of the thread's
registers changes. -/
def Obligations.OwnScratchpadLoadsAndStores : Prop :=
  (∀ (s : State) (d a : Reg) (i : BitVec 16) (off : Nat),
    let ea := s.x a + i.signExtend 64
    let key := padKey (tagCore s.cur) off
    let here := fun n => ea.toNat % n = 0 ∧ spaceOf (tagCluster s.cur) (some (tagCore s.cur)) ea n = .pad (tagCore s.cur) off
      ∧ padBlocked s s.cur false off n = false ∧ poisoned s key n = false
    let m := fun n => ofBytes (s.bytesAt n key)
    let Loads := fun (x : Instr) (v : Word) => ∃ t, Gets x s d v t ∧ OthersKept s t ∧ t = { s with threads := t.threads }
    (here 1 → Loads (.ldB d a i) ((BitVec.ofNat 8 (m 1)).signExtend 64) ∧ Loads (.ldBu d a i) (BitVec.ofNat 64 (m 1)))
    ∧ (here 2 → Loads (.ldH d a i) ((BitVec.ofNat 16 (m 2)).signExtend 64) ∧ Loads (.ldHu d a i) (BitVec.ofNat 64 (m 2)))
    ∧ (here 4 → Loads (.ldW d a i) ((BitVec.ofNat 32 (m 4)).signExtend 64) ∧ Loads (.ldWu d a i) (BitVec.ofNat 64 (m 4)))
    ∧ (here 8 → Loads (.ldD d a i) (BitVec.ofNat 64 (m 8))))
  ∧ (∀ (s : State) (b a : Reg) (i : BitVec 16) (off : Nat),
    let ea := s.x a + i.signExtend 64
    let key := padKey (tagCore s.cur) off
    let here := fun n => ea.toNat % n = 0 ∧ locate s s.cur ea n .write = .pad (tagCore s.cur) off
      ∧ padBlocked s s.cur true off n = false
    let Stores := fun (x : Instr) (n : Nat) => Inv s → here n → ∃ t, exec x s = .next t ∧ Stored key (bytesOf n (s.x b).toNat) s t
      ∧ t.th.pc = s.th.pc + 4 ∧ Kept 0 s t ∧ OthersKept s t ∧ t.cores = s.cores ∧ t.clusters = s.clusters ∧ t.full = s.full
    Stores (.stB b a i) 1 ∧ Stores (.stH b a i) 2 ∧ Stores (.stW b a i) 4 ∧ Stores (.stD b a i) 8)

/-- R128, R278, R121: a load of global memory whose page a TLB holds and lets it read, of another core's scratchpad, of a memory cell or
of an 8-byte word of the control window leaves the core: the thread waits for the value with a request for exactly those bytes, and no
register or byte changes until LOAD_RETURN.
R128, R278: LOAD_RETURN ends the wait of a load that is not poisoned: the value enters the register, and the thread goes on. The value is, of a
home's bytes, what stands there; of a stream page, the topmost dirty byte of the cluster's cache that the core did not issue later, else the
home's (R212); of a reconcile page, byte by byte a write of the byte's frontier, all matching writes being one (R221, R223), else the home's; of the
control window, the counter, barrier, pending entry, task word, VSTATE or chart memory there (R121). The model's own choices in it: log 14 and 16. -/
def Obligations.GlobalLoadsWaitForTheirValue : Prop :=
  (∀ (s : State) (d a : Reg) (i : BitVec 16) (key off : Nat) (cls : BitVec 2) (fl : Option Nat),
    let ea := s.x a + i.signExtend 64
    let sp := fun n => spaceOf (tagCluster s.cur) (some (tagCore s.cur)) ea n
    let Sent := fun (x : Instr) (n : Nat) (sg : Bool) =>
      let Goes := fun (k : Nat) (home stream : Bool) (ctl : Option Nat) => ∃ t r, exec x s = .next t ∧ t.th = { s.th with park := .memory r }
        ∧ r.key = k ∧ r.va = ea ∧ r.size = n ∧ r.signed = sg ∧ r.dest = d ∧ r.op = none ∧ r.sync = none
        ∧ r.atHome = home ∧ r.stream = stream ∧ r.control = ctl ∧ r.after = s.nextWrite ∧ OthersKept s t ∧ SameMem s t
      ea.toNat % n = 0 →
      (sp n = .global → xlate s (tagCluster s.cur) (ownerOf s s.cur) ea .read = .hit key cls fl → Goes key (cls == 1) (cls == 2) none)
      ∧ ((∃ k o, sp n = .pad k o ∧ k ≠ tagCore s.cur ∧ key = padKey k o) ∨ sp n = .cell key → Goes key true false none)
      ∧ (n = 8 → sp n = .control off → controlOf off ≠ .outside → Goes (controlKey (tagCluster s.cur) off) true false (some off))
    Sent (.ldB d a i) 1 true ∧ Sent (.ldBu d a i) 1 false ∧ Sent (.ldH d a i) 2 true ∧ Sent (.ldHu d a i) 2 false
    ∧ Sent (.ldW d a i) 4 true ∧ Sent (.ldWu d a i) 4 false ∧ Sent (.ldD d a i) 8 false)
  ∧ (∀ (s : State) (r : MemReq) (n off : Nat),
    let cl := tagCluster s.cur
    let Returns := fun (v : Nat) => ∃ t, Gets (.loadReturn s.cur) s r.dest
        (if r.signed then (BitVec.ofNat (8 * n) v).signExtend 64 else BitVec.ofNat 64 v) t
      ∧ OthersKept s t ∧ t = { s with threads := t.threads }
    let F := fun (x : Nat) (w : WriteRec) => InFrontier s s.cur r.after x w
    let same := fun (w v : WriteRec) => (w.initial = true ∧ v.initial = true) ∨ w.num = v.num
    let matching := fun (w : WriteRec) => w.initial = true ∨ (w.addr = r.key ∧ w.bytes.length = n)
    let inside := fun (x : Nat) => r.key ≤ x ∧ x < r.key + n
    let Free := fun (m : Option WriteRec) (x : Nat) (w : WriteRec) => F x w ∧ (matching w → ∃ v, m = some v ∧ same w v)
    let Choice := fun (m : Option WriteRec) => (∀ v, m = some v → matching v ∧ ∃ y, inside y ∧ F y v)
      ∧ ∀ x, inside x → (∃ w, F x w) → ∃ w, Free m x w
    s.th.park = .memory r → r.op = none → r.sync = none → r.size = n → (n = 1 ∨ n = 2 ∨ n = 4 ∨ n = 8) → r.ready s s.cur = true → loadBad s s.cur r = false →
    (r.control = none → r.foreign s s.cur = false →
      (r.atHome = true → Returns (ofBytes (s.bytesAt n r.key)))
      ∧ (r.atHome = false → r.stream = true → ∃ bs, bs.length = n ∧ Returns (ofBytes bs) ∧ ∀ j b, bs[j]? = some b →
          ((∀ w, ¬DirtyHere s s.cur r.after (r.key + j) w) → b = s.byteAt (r.key + j))
          ∧ ∀ w pre post, s.writes = pre ++ w :: post → DirtyHere s s.cur r.after (r.key + j) w → (∀ v ∈ post, ¬DirtyHere s s.cur r.after (r.key + j) v) →
              b = w.valueAt s (r.key + j))
      ∧ (r.atHome = false → r.stream = false → (∃ m, Choice m) → ∃ bs m, Choice m ∧ bs.length = n ∧ Returns (ofBytes bs) ∧ ∀ j b, bs[j]? = some b →
          ((∀ w, ¬F (r.key + j) w) → b = s.byteAt (r.key + j))
          ∧ ((∃ w, F (r.key + j) w) → ∃ w, Free m (r.key + j) w ∧ b = w.valueAt s (r.key + j))))
    ∧ (r.control = some off → n = 8 → ∀ V : Word,
        (match controlOf off with
          | .counter k => let C := getCounter s cl k; V = BitVec.ofBool C.drain ++ (0 : BitVec 3) ++ C.pend ++ C.value
          | .barrier k hi => let B := getBarrier s cl k; V = if hi then 0 else B.count ++ B.arrived ++ B.phase
          | .pending o => (getCluster s cl).pendingQ[o / 32]? = none ∧ V = 0
          | .task w => V = getTask s cl w
          | .chart o => if o = 0 ∧ (theVoyage s cl).isSome then some V = (theVoyage s cl).map Voyage.vstate
              else theVoyage s cl = none ∧ V = BitVec.ofNat 64 (ofBytes (s.bytesAt 8 (chartKey cl o)))
          | .directory o => V = directoryWord (getCluster s cl) s.board.refclk o
          | .outside => False) → Returns V.toNat))

/-- R128, R224: a store to another core's scratchpad, a memory cell, a word of the task table, chart memory of a cluster without a voyage, or a page
of home class is on its way: the thread goes on, no byte of memory changes yet, and the store that HOME_ARRIVAL will perform holds exactly the
address and the bytes. R140, R220: one to a page of reconcile or stream class joins the write set, dirty in its cluster's cache, with the initial
writes of the bytes that had no record. R121: one to chart memory under a voyage is discarded.
R224: HOME_ARRIVAL performs the store of its number: its bytes stand at its address, and every other byte reads as before; a store
to the task table writes its word there (R62, R63); one that meets an active bay writes nothing and gives its thread a deferred access
fault (R145). One behind an earlier request of its core waits (R222). A dirty write of a cluster's cache goes home so too, but for the bytes
above which a later write of the cluster has gone. The model's own choices in it: log 16 and 34. -/
def Obligations.RemoteStoresArriveLater : Prop :=
  (∀ (s : State) (b a : Reg) (i : BitVec 16) (key off o : Nat) (cls : BitVec 2) (fl : Option Nat),
    let ea := s.x a + i.signExtend 64
    let at_ := fun n => locate s s.cur ea n .write
    let owned := lineForeign s key (keyOf s (ownerOf s s.cur)) (bits ea 54 6) = false
    let Stores := fun (x : Instr) (n : Nat) =>
      let Goes := fun (t : State) => exec x s = .next t ∧ SameMem s t ∧ t.th.pc = s.th.pc + 4 ∧ Kept 0 s t ∧ OthersKept s t
      let Posts := fun (f : Option Nat) => ∃ t p, Goes t ∧ t.posted = s.posted ++ [p] ∧ p.addr = key ∧ p.flagAt = f
        ∧ p.bytes = bytesOf n (s.x b).toNat ∧ p.core = tagCore s.cur ∧ t.writes = s.writes
      ea.toNat % n = 0 →
      ((∃ k j, at_ n = .pad k j ∧ k ≠ tagCore s.cur ∧ key = padKey k j) ∨ at_ n = .cell key
        ∨ (n = 8 ∧ at_ n = .control off ∧ (∃ w, controlOf off = .task w) ∧ key = controlKey (tagCluster s.cur) off)
        ∨ (n = 8 ∧ at_ n = .control off ∧ controlOf off = .chart o ∧ voyageActive s (tagCluster s.cur) = false ∧ key = chartKey (tagCluster s.cur) o) → Posts none)
      ∧ (at_ n = .global key 1 fl → owned → Posts fl)
      ∧ (at_ n = .global key cls fl → cls ≠ 1 → owned → ∃ t ws w, Goes t ∧ t.posted = s.posted ∧ t.writes = s.writes ++ ws ++ [w]
          ∧ w.addr = key ∧ w.bytes = bytesOf n (s.x b).toNat ∧ w.flagAt = fl ∧ w.core = some (tagCore s.cur) ∧ w.cluster = tagCluster s.cur
          ∧ w.initial = false ∧ w.arrived = false ∧ w.num = s.nextWrite ∧ w.issued = s.nextWrite ∧ w.loose = [] ∧ w.bad = false
          ∧ (∀ v ∈ ws, v.initial = true ∧ v.bytes.length = 1 ∧ v.valueAt s v.addr = s.byteAt v.addr)
          ∧ ∀ x, (∃ v ∈ ws, v.addr = x) ↔ (key ≤ x ∧ x < key + n ∧ ∀ v ∈ s.writes, ¬(v.addr ≤ x ∧ x < v.addr + v.bytes.length)))
      ∧ (n = 8 → at_ n = .control off → controlOf off = .chart o → voyageActive s (tagCluster s.cur) = true →
          ∃ t, Goes t ∧ t.posted = s.posted ∧ t.writes = s.writes)
    Stores (.stB b a i) 1 ∧ Stores (.stH b a i) 2 ∧ Stores (.stW b a i) 4 ∧ Stores (.stD b a i) 8)
  ∧ (∀ (s : State) (p : PostedStore) (n w : Nat) (v : WriteRec),
    let c := (p.addr - 2 ^ 48) / 2 ^ 18
    let found := s.posted.find? (fun q => q.num == n)
    let dirty := s.writes.find? (fun w => w.num == n && !w.initial && !w.arrived)
    Inv s →
    (found = some p → postedFirst s p = true → p.addr < 2 ^ 48 → inActiveBay s p.addr p.bytes.length = false → p.flagAt = none →
      ∃ t, exec (.homeArrival n) s = .next t ∧ Stored p.addr p.bytes s t ∧ t.posted = s.posted.filter (fun q => q.num != p.num)
        ∧ t.threads = s.threads ∧ t.cores = s.cores ∧ t.clusters = s.clusters)
    ∧ (found = some p → postedFirst s p = true → inActiveBay s p.addr p.bytes.length = true →
      ∃ t, exec (.homeArrival n) s = .next t ∧ SameMem s t ∧ t.posted = s.posted.filter (fun q => q.num != p.num)
        ∧ t.cores = s.cores ∧ t.clusters = s.clusters
        ∧ ∀ tag th, s.threads.find? (fun e => e.2.live && e.2.agent == p.agent) = some (tag, th) → getThread s tag = th → th.deferred.length < 8 →
            getThread t tag = { th with deferred := th.deferred ++ [{ cause := 0x03, tval := padAddress p.addr }] })
    ∧ (found = some p → postedFirst s p = true → 2 ^ 48 ≤ p.addr → controlOf (p.addr % 2 ^ 18) = .task w →
      ∃ t, exec (.homeArrival n) s = .next t ∧ getTask t c w = taskMask w (BitVec.ofNat 64 (ofBytes p.bytes))
        ∧ (∀ v, v ≠ w → getTask t c v = getTask s c v) ∧ t.posted = s.posted.filter (fun q => q.num != p.num) ∧ SameMem s t ∧ t.threads = s.threads)
    ∧ (found = none → dirty = some v → mayArrive s v = true → v.flagAt = none → v.loose = [] → v.bad = false →
      ∃ t, exec (.homeArrival n) s = .next t
        ∧ (∀ a, t.byteAt a = if v.addr ≤ a ∧ a < v.addr + v.bytes.length ∧ a ∉ v.passed then v.bytes.getD (a - v.addr) 0 else s.byteAt a)
        ∧ (∀ x ∈ t.writes, x.num = n → x.initial = true ∨ x.arrived = true) ∧ t.posted = s.posted ∧ t.threads = s.threads ∧ t.cores = s.cores ∧ t.clusters = s.clusters)
    ∧ ((found = some p ∧ postedFirst s p = false) ∨ (found = none ∧ dirty = some v ∧ mayArrive s v = false) ∨ (found = none ∧ dirty = none) →
      exec (.homeArrival n) s = .next s))

/-- R279, R278: an effective address that is no multiple of the access's size traps with cause 0x02 and the address, an address of no
space with cause 0x03, for every load and store; nothing is read or written. -/
def Obligations.BadAddressesTrap : Prop := ∀ (s : State) (d a : Reg) (i : BitVec 16),
  let ea := s.x a + i.signExtend 64
  let Checks := fun (x : Instr) (n : Nat) => s.th.ih = false →
    (ea.toNat % n ≠ 0 → Traps x s 0x02 ea)
    ∧ (ea.toNat % n = 0 → spaceOf (tagCluster s.cur) (some (tagCore s.cur)) ea n = .invalid → Traps x s 0x03 ea)
  Checks (.ldB d a i) 1 ∧ Checks (.ldBu d a i) 1 ∧ Checks (.ldH d a i) 2 ∧ Checks (.ldHu d a i) 2 ∧ Checks (.ldW d a i) 4
  ∧ Checks (.ldWu d a i) 4 ∧ Checks (.ldD d a i) 8 ∧ Checks (.stB d a i) 1 ∧ Checks (.stH d a i) 2 ∧ Checks (.stW d a i) 4
  ∧ Checks (.stD d a i) 8

/-- R291: the full/empty group on a scratchpad word that no request waits for: the value each reads or writes, and the word's
full/empty bit after it; on the own scratchpad at once, on another core's when LOAD_RETURN performs it.
R129: a take or keep of an empty word, and a fill of a full one, joins the waiter unit while fewer than 64 requests wait there,
and is refused by a full unit; WAITER_RESEND performs a refused request again: it joins, completes or is refused as before. When a word
becomes full its keep-waiters are served in order up to the first take-waiter, which leaves it empty; when it becomes empty the oldest
fill-waiter is. The model's own choices in it: log 16, 59 and 87. -/
def Obligations.FullEmptyOperations : Prop :=
  (∀ (s : State) (d a : Reg) (k : BitVec 13) (core off : Nat),
    let ea := s.x a + k.signExtend 64 <<< 3
    let key := padKey core off
    let V := BitVec.ofNat 64 (ofBytes (s.bytesAt 8 key))
    let Runs := fun (x : Instr) (t : State) => if core = tagCore s.cur then exec x s = .next t
      else ∃ u, exec x s = .next u ∧ SameMem s u ∧ Kept 0 s u ∧ u.th.pc = s.th.pc ∧ exec (.loadReturn s.cur) u = .next t
    let Goes := fun (x : Instr) (d : Reg) (t : State) => Runs x t ∧ t.th.pc = s.th.pc + 4 ∧ t.th.park = .none ∧ Kept d s t ∧ OthersKept s t
    let Reads := fun (x : Instr) (v : Word) (t : State) => Goes x d t ∧ t.x d = (if d = 0 then 0 else v) ∧ SameMem s t
    Inv s → ea.toNat % 8 = 0 → spaceOf (tagCluster s.cur) (some (tagCore s.cur)) ea 8 = .pad core off →
    (inBay off 8 && voyageActive s (tagCluster s.cur)) = false → (core = tagCore s.cur → padBlocked s s.cur true off 8 = false) →
    (core ≠ tagCore s.cur → Quiet s) → poisoned s key 8 = false → (∀ w ∈ (getCore s core).waiters, w.word ≠ key) → s.th.park = .none →
    (key ∈ s.full →
      (∃ t, Reads (.ldsyncTake d a k) V t ∧ t.full = s.full.filter (fun x => x != key))
      ∧ (∃ t, Reads (.ldsyncKeep d a k) V t ∧ t.full = s.full)
      ∧ (∃ t, Goes (.syncClear a k) 0 t ∧ SameMem s t ∧ t.full = s.full.filter (fun x => x != key))
      ∧ (∃ t, Reads (.syncTest d a k) 1 t ∧ t.full = s.full))
    ∧ (key ∉ s.full →
      (∃ t, Goes (.stsyncFill d a k) 0 t ∧ Stored key (bytesOf 8 (s.x d).toNat) s t ∧ t.full = s.full ++ [key])
      ∧ (∃ t, Goes (.syncClear a k) 0 t ∧ SameMem s t ∧ t.full = s.full)
      ∧ (∃ t, Reads (.syncTest d a k) 0 t ∧ t.full = s.full))
    ∧ (∃ t, Goes (.stsyncSet d a k) 0 t ∧ Stored key (bytesOf 8 (s.x d).toNat) s t ∧ key ∈ t.full ∧ ∀ x, x ≠ key → (x ∈ t.full ↔ x ∈ s.full)))
  ∧ (∀ (s : State) (d a : Reg) (k : BitVec 13) (core off : Nat) (q tk fw : Waiting) (ks rest : List Waiting),
    let ea := s.x a + k.signExtend 64 <<< 3
    let key := padKey core off
    let unit := (getCore s core).waiters
    let Runs := fun (x : Instr) (t : State) => if core = tagCore s.cur then exec x s = .next t
      else ∃ u, exec x s = .next u ∧ SameMem s u ∧ Kept 0 s u ∧ u.th.pc = s.th.pc ∧ exec (.loadReturn s.cur) u = .next t
    let Waits := fun (x : Instr) (kind : SyncKind) => ∃ t w, Runs x t ∧ SameMem s t ∧ t.full = s.full ∧ t.th.pc = s.th.pc ∧ Kept 0 s t
      ∧ OthersKept s t ∧ w.kind = kind ∧ w.word = key ∧ w.tag = s.cur
      ∧ (unit.length < 64 → t.th.park = .sync core none ∧ (getCore t core).waiters = unit ++ [w])
      ∧ (64 ≤ unit.length → t.th.park = .sync core (some w) ∧ (getCore t core).waiters = unit)
    let here := ea.toNat % 8 = 0 ∧ spaceOf (tagCluster s.cur) (some (tagCore s.cur)) ea 8 = .pad core off
      ∧ (inBay off 8 && voyageActive s (tagCluster s.cur)) = false ∧ (core = tagCore s.cur → padBlocked s s.cur true off 8 = false)
      ∧ (core ≠ tagCore s.cur → Quiet s) ∧ poisoned s key 8 = false
    let W := unit.filter fun w => w.word == key
    let Done := fun (t : State) (w : Waiting) (v : Option Word) => (getThread t w.tag).pc = (getThread s w.tag).pc + 4 ∧ (getThread t w.tag).park = .none
      ∧ (∀ r, r ≠ w.dest → (getThread t w.tag).readX r = (getThread s w.tag).readX r)
      ∧ ∀ x, v = some x → (getThread t w.tag).readX w.dest = if w.dest = 0 then 0 else x
    let left := fun (gone : List Waiting) => unit.filter fun w => !gone.contains w
    let Others := fun (t : State) => ∀ j, j ≠ s.cur → (∀ w ∈ W, w.tag ≠ j) → getThread t j = getThread s j
    (s.th.park = .sync core (some q) → q.tag = s.cur → q.word = key → s.th.stopped = false → poisoned s key 8 = false →
      (q.kind ≠ .fill → key ∉ s.full → unit.length < 64 → ∃ t w, exec (.waiterResend s.cur) s = .next t ∧ t.th = { s.th with park := .sync core none } ∧ OthersKept s t
          ∧ (getCore t core).waiters = unit ++ [w] ∧ w.kind = q.kind ∧ w.word = key ∧ w.tag = s.cur ∧ w.dest = q.dest ∧ SameMem s t)
      ∧ (q.kind ≠ .fill → key ∉ s.full → 64 ≤ unit.length → ∃ t w, exec (.waiterResend s.cur) s = .next t ∧ t.th = { s.th with park := .sync core (some w) }
          ∧ OthersKept s t ∧ (getCore t core).waiters = unit ∧ w.kind = q.kind ∧ w.word = key ∧ w.dest = q.dest)
      ∧ (q.kind = .keep → key ∈ s.full → ∃ t, Gets (.waiterResend s.cur) s q.dest (BitVec.ofNat 64 (ofBytes (s.bytesAt 8 key))) t ∧ OthersKept s t ∧ t.full = s.full))
    ∧ (here → s.th.stopped = false → (key ∉ s.full → Waits (.ldsyncTake d a k) .take ∧ Waits (.ldsyncKeep d a k) .keep) ∧ (key ∈ s.full → Waits (.stsyncFill d a k) .fill))
    ∧ (here → Inv s → s.th.park = .none → key ∉ s.full → (∀ w ∈ W, w.kind ≠ .fill ∧ w.suspended s = false ∧ w.tag ≠ s.cur) → (W.map (·.tag)).Nodup →
        (W = ks ++ tk :: rest → (∀ w ∈ ks, w.kind = .keep) → tk.kind = .take →
          ∃ t, Runs (.stsyncFill d a k) t ∧ Stored key (bytesOf 8 (s.x d).toNat) s t ∧ t.th.pc = s.th.pc + 4 ∧ key ∉ t.full
            ∧ (getCore t core).waiters = left (ks ++ [tk]) ∧ (∀ w ∈ ks ++ [tk], Done t w (some (s.x d))) ∧ (∀ w ∈ rest, getThread t w.tag = getThread s w.tag) ∧ Others t)
        ∧ ((∀ w ∈ W, w.kind = .keep) → ∃ t, Runs (.stsyncFill d a k) t ∧ Stored key (bytesOf 8 (s.x d).toNat) s t ∧ t.th.pc = s.th.pc + 4 ∧ key ∈ t.full
            ∧ (getCore t core).waiters = left W ∧ (∀ w ∈ W, Done t w (some (s.x d))) ∧ Others t))
    ∧ (here → Inv s → s.th.park = .none → key ∈ s.full → W = fw :: rest → (∀ w ∈ W, w.kind = .fill ∧ w.suspended s = false ∧ w.tag ≠ s.cur) → (W.map (·.tag)).Nodup →
        ∃ t, Runs (.syncClear a k) t ∧ Stored key (bytesOf 8 fw.value.toNat) s t ∧ t.th.pc = s.th.pc + 4 ∧ key ∈ t.full
          ∧ (getCore t core).waiters = left [fw] ∧ Done t fw none ∧ (∀ w ∈ rest, getThread t w.tag = getThread s w.tag) ∧ Others t))

/-- R293, R295: each atomic on a scratchpad word, a memory-cell word or a word of global memory leaves the core, and when nothing of its core is on
its way LOAD_RETURN performs it there: x[d] gets the old value, sign-extended (f32 zero-extended), and the word its new value; a `cas` that fails
writes nothing. R63: so do `and`, `or`, `swap` and `cas` of 8 bytes on a word of the task table, and no other atomic. The model's own choices in it: log 16. -/
def Obligations.AtomicOperations : Prop := ∀ (s : State) (d a b : Reg) (z : BitVec 1) (o c : BitVec 2) (core off key n w : Nat) (cls : BitVec 2),
  let ea := s.x a
  let cl := tagCluster s.cur
  let at_ := locate s s.cur ea n .both
  let here := (at_ = .pad core off ∧ key = padKey core off ∧ (core = tagCore s.cur → padBlocked s s.cur true off n = false)) ∨ at_ = .cell key
    ∨ (at_ = .global key cls none ∧ lineForeign s key (keyOf s (ownerOf s s.cur)) (bits ea 54 6) = false)
  let M := 2 ^ (8 * n)
  let old := ofBytes (s.bytesAt n key)
  let v := (s.x b).toNat % M
  let sgn := fun (x : Nat) => (BitVec.ofNat (8 * n) x).toInt
  let Ends := fun (x : Instr) (r : Word) (t : State) => ∃ u, exec x s = .next u ∧ u.th.pc = s.th.pc ∧ Kept 0 s u ∧ SameMem s u
    ∧ exec (.loadReturn s.cur) u = .next t ∧ t.x d = (if d = 0 then 0 else r) ∧ t.th.pc = s.th.pc + 4 ∧ t.th.park = .none ∧ Kept d s t
    ∧ OthersKept s t
  let Does := fun (x : Instr) (r : Word) (new : Option Nat) => ∃ t, Ends x r t ∧ (match new with | some w => Stored key (bytesOf n w) s t | none => SameMem s t)
  let R := (BitVec.ofNat (8 * n) old).signExtend 64
  let T := getTask s cl w
  let OnTask := fun (x : Instr) (new : Word) => ∃ t, Ends x T t ∧ SameMem s t ∧ getTask t cl w = new ∧ ∀ j, j ≠ w → getTask t cl j = getTask s cl j
  Inv s → n = (if z = 1 then 8 else 4) → ea.toNat % n = 0 → Quiet s →
  (here → poisoned s key n = false →
    Does (.atmAdd d a b z o c) R (some ((old + v) % M)) ∧ Does (.atmAnd d a b z o c) R (some (Nat.land old v))
    ∧ Does (.atmOr d a b z o c) R (some (Nat.lor old v)) ∧ Does (.atmXor d a b z o c) R (some (Nat.xor old v))
    ∧ Does (.atmMin d a b z o c) R (some (if sgn old ≤ sgn v then old else v)) ∧ Does (.atmMax d a b z o c) R (some (if sgn old ≤ sgn v then v else old))
    ∧ Does (.atmMinu d a b z o c) R (some (Min.min old v)) ∧ Does (.atmMaxu d a b z o c) R (some (Max.max old v))
    ∧ Does (.atmSwap d a b z o c) R (some v)
    ∧ Does (.atmCas d a b z o c) R (if old = (s.x d).toNat % M then some v else none)
    ∧ (z = 0 → Does (.atmFaddS d a b o c) (BitVec.ofNat 64 old) (some (f32.add .rne old v).1)))
  ∧ (at_ = .control off → controlOf off = .task w →
    (n = 8 → OnTask (.atmAnd d a b z o c) (taskMask w (T &&& s.x b)) ∧ OnTask (.atmOr d a b z o c) (taskMask w (T ||| s.x b))
      ∧ OnTask (.atmSwap d a b z o c) (taskMask w (s.x b)) ∧ OnTask (.atmCas d a b z o c) (if T = s.x d then taskMask w (s.x b) else T))
    ∧ (s.th.ih = false → Traps (.atmAdd d a b z o c) s 0x03 ea ∧ Traps (.atmXor d a b z o c) s 0x03 ea ∧ Traps (.atmMin d a b z o c) s 0x03 ea
      ∧ Traps (.atmMax d a b z o c) s 0x03 ea ∧ Traps (.atmMinu d a b z o c) s 0x03 ea ∧ Traps (.atmMaxu d a b z o c) s 0x03 ea
      ∧ (n = 4 → Traps (.atmAnd d a b z o c) s 0x03 ea ∧ Traps (.atmOr d a b z o c) s 0x03 ea ∧ Traps (.atmSwap d a b z o c) s 0x03 ea
        ∧ Traps (.atmCas d a b z o c) s 0x03 ea ∧ Traps (.atmFaddS d a b o c) s 0x03 ea)))

/-- R296, R141: a release or full fence that has nothing to wait for lets its thread go on; one that has waits, and RELEASE_ACK ends
the wait once every such store is home; an acquire fence never waits. No register or byte changes.
R298, R299, R300: `barr.init` sets COUNT and clears ARRIVED; `barr.arrive` gives the phase it arrived in and counts one arrival,
the last of which ends the phase; on a barrier with COUNT 0 it traps; `barr.wait` goes on exactly when the phase is complete. R128, R120: the first
two act once the core's stores that went before are performed and its earlier requests to the control block are; until then they forfeit. The model's own choices in it: log 16 and 18. -/
def Obligations.FencesAndBarriers : Prop :=
  (∀ (s : State) (c : BitVec 2) (upto : Nat) (full : Bool),
    let Goes := fun (x : Instr) => ∃ t, exec x s = .next t ∧ t.th.pc = s.th.pc + 4 ∧ t.th.park = .none ∧ Kept 0 s t ∧ OthersKept s t ∧ SameMem s t
    let Waits := fun (x : Instr) (f : Bool) => ∃ t, exec x s = .next t ∧ t.th = { s.th with park := .release s.nextWrite (scopeOf c) f }
      ∧ OthersKept s t ∧ SameMem s t
    (s.th.park = .none → Goes (.fenceAcq c))
    ∧ (fenceWaits s s.cur s.nextWrite (scopeOf c) = false → Goes (.fenceRel c) ∧ Goes (.fenceFull c))
    ∧ (fenceWaits s s.cur s.nextWrite (scopeOf c) = true → Waits (.fenceRel c) false ∧ Waits (.fenceFull c) true)
    ∧ (s.th.park = .release upto (scopeOf c) full → fenceWaits s s.cur upto (scopeOf c) = false → Goes (.releaseAck s.cur)))
  ∧ (∀ (s : State) (d a : Reg) (n : BitVec 4),
    let cl := tagCluster s.cur
    let B := getBarrier s cl n.toNat
    let p : BitVec 32 := lo32 (s.x a)
    let u := stored s
    let free := coreDone u (tagCore s.cur) = true ∧ controlAhead u s.cur = false
    ((∀ q ∈ s.posted, q.core ≠ tagCore s.cur) → u = s)
    ∧ (free → ∃ t, exec (.barrInit a n) s = .next t ∧ getBarrier t cl n.toNat = { B with count := (s.x a).setWidth 16, arrived := 0 }
        ∧ t.th = { u.th with pc := s.th.pc + 4 } ∧ OthersKept u t ∧ SameMem u t)
    ∧ (free → B.count ≠ 0 → ∃ t, exec (.barrArrive d n) s = .next t ∧ t.x d = (if d = 0 then 0 else B.phase.setWidth 64) ∧ t.th.pc = s.th.pc + 4
        ∧ Kept d u t ∧ OthersKept u t ∧ SameMem u t
        ∧ (getBarrier t cl n.toNat).count = B.count
        ∧ (B.arrived + 1 = B.count → (getBarrier t cl n.toNat).arrived = 0 ∧ (getBarrier t cl n.toNat).phase = B.phase + 1)
        ∧ (B.arrived + 1 ≠ B.count → (getBarrier t cl n.toNat).arrived = B.arrived + 1 ∧ (getBarrier t cl n.toNat).phase = B.phase))
    ∧ (free → B.count = 0 → s.th.ih = false → TrapsFrom (.barrArrive d n) s u 0x03 (0xC300000000000080 + 16 * BitVec.ofNat 64 n.toNat))
    ∧ (¬free → Forfeits (.barrInit a n) s u ∧ Forfeits (.barrArrive d n) s u)
    ∧ ((B.phase - 1 - p).toNat < 2 ^ 31 → ∃ t, exec (.barrWait a n) s = .next t ∧ t.th.pc = s.th.pc + 4 ∧ t.th.park = .none ∧ Kept 0 s t
        ∧ OthersKept s t ∧ SameMem s t ∧ t.clusters = s.clusters)
    ∧ (2 ^ 31 ≤ (B.phase - 1 - p).toNat → ∃ t, exec (.barrWait a n) s = .next t ∧ t.th = { s.th with park := .barrier n.toNat p } ∧ OnlyThread s t))

/-! ### Messages, tasks, core-shared registers (R126, R130–R132, R301–R304, R64–R67, R108–R110) -/

/-- R303: `mget` reads a full message register and empties it, `mpeek` reads it and leaves it full, both wait while it is empty;
`mtest` reads the eight full bits. Each completes so in every state.
R126, R304: what `sput` writes to sN is what a read at the core's clock four or later returns, and a read before that returns what it
would have; `sget` returns the value visible at its clock. Each completes in every state. -/
def Obligations.MessageAndSharedRegisters : Prop :=
  (∀ (s : State) (d : Reg) (n : BitVec 3) (v : Word),
    let full := fun (i : Nat) => if (AMap.find s.th.m i).isSome then 1 else 0
    (AMap.find s.th.m n.toNat = some v →
      (∃ t, exec (.mget d n) s = .next t ∧ t.x d = (if d = 0 then 0 else v) ∧ (∀ r, r ≠ d → t.x r = s.x r) ∧ OnlyThread s t
          ∧ t.th = { s.th with x := t.th.x, pc := s.th.pc + 4, park := .none, m := AMap.erase s.th.m n.toNat, mclk := t.th.mclk, clock := t.th.clock })
      ∧ (∃ t, exec (.mpeek d n) s = .next t ∧ t.x d = (if d = 0 then 0 else v) ∧ (∀ r, r ≠ d → t.x r = s.x r) ∧ OnlyThread s t
          ∧ t.th = { s.th with x := t.th.x, pc := s.th.pc + 4, park := .none }))
    ∧ (AMap.find s.th.m n.toNat = none →
      (∃ t, exec (.mget d n) s = .next t ∧ t.th = { s.th with park := .message n.toNat } ∧ OnlyThread s t)
      ∧ (∃ t, exec (.mpeek d n) s = .next t ∧ t.th = { s.th with park := .message n.toNat } ∧ OnlyThread s t))
    ∧ Sets (.mtest d) s d (BitVec.ofNat 64 (full 0 + 2 * full 1 + 4 * full 2 + 8 * full 3 + 16 * full 4 + 32 * full 5 + 64 * full 6 + 128 * full 7)))
  ∧ (∀ (s : State) (d a : Reg) (n : BitVec 4),
    let k := tagCore s.cur
    let seen := fun (u : State) (c : Nat) => sharedAt (AMap.getD (getCore u k).s n.toNat []) c
    Sets (.sget d n) s d (seen s (getCore s k).clk)
    ∧ ∃ t, exec (.sput a n) s = .next t ∧ t.th = { s.th with pc := s.th.pc + 4 } ∧ OthersKept s t ∧ SameMem s t
        ∧ (∀ c, (getCore s k).clk + 4 ≤ c → seen t c = s.x a)
        ∧ (∀ c, (getCore s k).clk ≤ c → c < (getCore s k).clk + 4 → seen t c = seen s c)
        ∧ t = { s with threads := t.threads, cores := t.cores } ∧ getCore t k = { getCore s k with s := (getCore t k).s }
        ∧ (∀ m, m ≠ n.toNat → AMap.getD (getCore t k).s m [] = AMap.getD (getCore s k).s m []) ∧ (∀ j, j ≠ k → getCore t j = getCore s j))

/-- R301, R131: `send` to a well-formed address, once what its core wrote before is home (R217), puts one message on its way and waits for the answer; SEND_ARRIVES accepts it when
the target is good, and the sender goes on; else the message is gone and the sender takes cause 0x09; a reserved bit traps at once.
R132: MESSAGE_DELIVERY of an accepted message that can fill its register: the register is full with the message's value, and no
other register of any thread changes; one that cannot, on a core with room in its holding buffer, is held there. The model's own choices in it: log 25 and 26. -/
def Obligations.SendsAreAnsweredAndDelivered : Prop :=
  (∀ (s : State) (a b : Reg) (n : BitVec 3) (m : Message) (num : Nat),
    let A := s.x a
    let u := released s
    (A.toNat < 2 ^ 22 → networkFull s (tagCluster s.cur) = false → releaseDone u s.cur = true →
      ∃ t q, exec (.send a b n) s = .next t ∧ t.messages = s.messages ++ [q] ∧ q.num = s.nextMsg ∧ q.target = A.toNat / 8 % 2 ^ 19
        ∧ q.reg = n.toNat ∧ q.value = s.x b ∧ q.accepted = false ∧ q.sender = s.cur ∧ t.th = { u.th with park := .send s.nextMsg }
        ∧ OthersKept u t ∧ SameMem u t)
    ∧ (A.toNat < 2 ^ 22 → networkFull s (tagCluster s.cur) = false → releaseDone u s.cur = false → Forfeits (.send a b n) s u)
    ∧ (2 ^ 22 ≤ A.toNat → s.th.ih = false → Traps (.send a b n) s 0x09 A)
    ∧ (s.messages.find? (fun q => q.num == num && !q.accepted) = some m → s.cur = m.sender → s.th.park = .send num →
        (targetGood s m.target (ownerOf s m.sender) = true →
          ∃ t, exec (.sendArrives num) s = .next t ∧ t.th = { s.th with pc := s.th.pc + 4, park := .none } ∧ OthersKept s t
            ∧ t.messages = s.messages.map (fun q => if q.num == num then { q with accepted := true } else q) ∧ SameMem s t)
        ∧ (targetGood s m.target (ownerOf s m.sender) = false → s.th.ih = false →
          ∃ t, exec (.sendArrives num) s = .next t ∧ t.th.tcause = 9 ∧ t.th.tval = m.addr ∧ t.th.tepc = s.th.pc ∧ t.th.pc = s.th.tvec
            ∧ t.messages = s.messages.filter (fun q => q.num != num) ∧ OthersKept s t ∧ SameMem s t)))
  ∧ (∀ (s : State) (num : Nat) (m : Message),
    s.messages.find? (fun q => q.num == num && q.accepted) = some m →
    (canFill s m = true → ∃ t, exec (.messageDelivery num) s = .next t
      ∧ AMap.find (getThread t m.target).m m.reg = some m.value
      ∧ (∀ j, j ≠ m.reg → AMap.find (getThread t m.target).m j = AMap.find (getThread s m.target).m j)
      ∧ (getThread t m.target).x = (getThread s m.target).x ∧ (getThread t m.target).pc = (getThread s m.target).pc
      ∧ (∀ k, k ≠ m.target → getThread t k = getThread s k) ∧ t.messages = s.messages.filter (fun q => q.num != num) ∧ SameMem s t)
    ∧ (canFill s m = false → m.held = false → earlierMessage s m = false → (getThread s m.target).live = true →
        (heldOn s (tagCore m.target)).length < 16 →
        ∃ t, exec (.messageDelivery num) s = .next t ∧ t.threads = s.threads
          ∧ t.messages = s.messages.filter (fun q => q.num != num) ++ [{ m with held := true }] ∧ SameMem s t))

/-- R302, R64–R67: `spawn`, once what its core wrote before is home, puts one spawn on its way with its data words; SPAWN_ARRIVES starts the task on the free slot that the
entry allows when no pending spawn may start before it, and PENDING_TASK_START does so for a pending one: x4 holds the channel, x7 the spawner, m0 and m1 the words, pc the
entry's address. -/
def Obligations.SpawnsStartTasks : Prop := ∀ (s : State) (a b : Reg) (k : BitVec 2) (p : Spawn) (num core slot cluster : Nat),
  let A := s.x a
  let Starts := fun (q : Spawn) (u t : State) =>
    let th := getThread t (coreTag core slot)
    th.live = true ∧ th.launch = false ∧ th.pc = BitVec.ofNat 64 (bits (getTask u q.cluster (2 * q.channel)) 63 2 * 4)
      ∧ th.readX 4 = BitVec.ofNat 64 q.channel ∧ th.readX 7 = BitVec.ofNat 64 q.sender ∧ th.m = (List.range q.words.length).zip q.words
      ∧ th.park = .none ∧ th.tstat = 0
  let v := released s
  (A.toNat < 2 ^ 22 → A.toNat / 2 ^ 8 % 2 ^ 6 = 0 → networkFull s (tagCluster s.cur) = false → k ≠ 3 → releaseDone v s.cur = true →
    ∃ t q, exec (.spawn a b k) s = .next t ∧ t.spawns = s.spawns ++ [q] ∧ q.num = s.nextMsg ∧ q.cluster = A.toNat / 2 ^ 14 ∧ q.channel = A.toNat % 2 ^ 8
      ∧ q.words = (if k = 0 then [] else if k = 1 then [s.x b] else [s.x b, s.x (b + 1)])
      ∧ q.sender = s.cur ∧ t.th = { v.th with park := .spawn s.nextMsg } ∧ OthersKept v t ∧ SameMem v t)
  ∧ (A.toNat < 2 ^ 22 → A.toNat / 2 ^ 8 % 2 ^ 6 = 0 → networkFull s (tagCluster s.cur) = false → releaseDone v s.cur = false → Forfeits (.spawn a b k) s v)
  ∧ (2 ^ 22 ≤ A.toNat ∨ A.toNat / 2 ^ 8 % 2 ^ 6 ≠ 0 → s.th.ih = false → Traps (.spawn a b k) s 0x09 A)
  ∧ (s.spawns.find? (fun q => q.num == num) = some p → holder s p.cluster = some p.owner →
      let u := resumeSender { s with spawns := s.spawns.filter fun q => q.num != num } p.sender num
      earlierSpawn u { p with answered := true } = false → spawnPlace u { p with answered := true } = some (core, slot) →
      (∀ q ∈ (getCluster s p.cluster).pendingQ, q.channel ≠ p.channel ∧ spawnPlace u q = none) → coreTag core slot ≠ p.sender →
      ∃ t, exec (.spawnArrives num) s = .next t ∧ Starts p s t ∧ t.spawns = s.spawns.filter (fun q => q.num != num)
        ∧ ((getThread s p.sender).park = .spawn num → getThread t p.sender = { getThread s p.sender with pc := (getThread s p.sender).pc + 4, park := .none }))
  ∧ ((pendingOrder s cluster).find? (fun q => (spawnPlace s q).isSome) = some p → spawnPlace s p = some (core, slot) →
      ∃ t, exec (.pendingTaskStart cluster) s = .next t ∧ Starts p s t
        ∧ (getCluster t cluster).pendingQ = (getCluster s cluster).pendingQ.filter (fun q => q.num != p.num)
        ∧ ∀ j, j ≠ coreTag core slot → getThread t j = getThread s j)

/-- R108–R110: SPILL writes an overdue message to its crew's spill area: four words at the write offset, which rises by 32;
SPILL_RETRY hands a message of the engine to its register once it can take it; SPILL_DELIVER does so for the oldest entry of an area
that no program wrote over, and the offsets return to zero with the last. The model's own choices in it: log 24 and 83. -/
def Obligations.SpilledMessages : Prop := ∀ (s : State) (num crew key hkey : Nat) (m : Message) (w : Crew) (cl : Nat) (rest : List SpillItem),
  let c := tagCluster m.sender
  let va := w.spillVa + BitVec.ofNat 64 (0x40 + w.spillWr)
  let filled := fun (t : State) => AMap.find (getThread t m.target).m m.reg = some m.value
  Inv s →
  (s.messages.find? (fun q => q.num == num && q.accepted) = some m → m.issued + 1024 ≤ s.board.clk → getCrew s m.crew = some w →
    (getCluster s c).spill.length < 64 → (∀ j ∈ (getCluster s c).spill, j.sameTarget (.message m) = false) → overtakes s (.message m) = false →
    0x40 + w.spillWr + 32 ≤ w.spillCur * 2 ^ 16 → spillReach s c w.owner w.spillVa = .good hkey → spillReach s c w.owner va = .good key →
    ∃ t w', exec (.spill num) s = .next t ∧ getCrew t m.crew = some w' ∧ w'.spilled = w.spilled ++ [.message m] ∧ w'.spillWr = w.spillWr + 32
      ∧ t.messages = s.messages.filter (fun q => q.num != num) ∧ t.threads = s.threads
      ∧ (w.cluster = c → w.spillVa.toNat % 2 ^ 16 = 0 → 0x40 + w.spillWr + 32 ≤ 2 ^ 16 → w.spillWr % 32 = 0 →
          t.bytesAt 32 key = ([2 ^ 62 + m.reg * 2 ^ 59 + m.addr.toNat % 2 ^ 22, m.value.toNat, 0, 0] : List Nat).flatMap (bytesOf 8)))
  ∧ ((getCluster s cl).spill = [.message m] → (getCluster s cl).spillTried + 1024 ≤ s.board.clk → getCrew s m.crew = some w →
      (∀ i ∈ w.spilled, i.sameTarget (.message m) = false) →
      let u2 := setCluster s cl { getCluster s cl with spillTried := s.board.clk }
      itemLost u2 w.owner (.message m) = false → canFill u2 m = true →
      ∃ t, exec (.spillRetry cl) s = .next t ∧ (getCluster t cl).spill = [] ∧ filled t)
  ∧ (getCrew s crew = some w → w.spilled = .message m :: rest → areaTouched s w (.message m) = false →
      let u3 := setCrew s crew { w with spilled := [] }
      itemLost u3 w.owner (.message m) = false → canFill u3 m = true →
      ∃ t w', exec (.spillDeliver crew) s = .next t ∧ filled t ∧ getCrew t crew = some w' ∧ w'.spilled = rest
        ∧ (rest = [] → w'.spillWr = 0 ∧ w'.spillRd = 0))

/-! ### Server calls, tiles, voyages, commands as threads see them (R305–R317, R324, R338–R343) -/

/-- R305, R182: a `serve` of a resident image whose argument count and result registers fit joins the entry queue of the image's
server with its argument registers, one of an image that is not resident the miss list, once the core's stores before it are performed (R185); the
thread waits. A mismatch traps with
poison code 4 (R184), and a form that would read past x31 is illegal.
R307: `sload` of a function id that is neither resident, loading nor called for asks for its load; `sevict` of a resident image
that is busy makes its eviction due, and of a quiescent one evicts it at once (R201); of any other function id they do nothing. `sinfo` reads three words of the image's directory entry, zeros
when it is not resident. -/
def Obligations.ServerInstructions : Prop :=
  (∀ (s : State) (d a r : Reg) (f : BitVec 10) (g : BitVec 2) (n : BitVec 3) (e : Nat) (i : Image),
    let c := tagCluster s.cur
    let args := (List.range (n.toNat + 1)).map fun j => s.x (BitVec.ofNat 5 (a.toNat + j))
    let u := stored s
    let Waits := fun (t : State) => t.th = { u.th with park := .serve } ∧ OthersKept u t
    let Calls := fun (x : Instr) (fid : BitVec 12) =>
      (a.toNat + n.toNat ≤ 31 →
        (resident s c fid = some (e, i) → callMismatch i (n.toNat + 1) d = false →
            ((imagesOn s c i.server).map fun y => y.entry.length).sum < 64 →
          (coreDone u (tagCore s.cur) = true →
            ∃ t j q, exec x s = .next t ∧ resident t c fid = some (e, j) ∧ j.entry = i.entry ++ [q] ∧ q.tag = s.cur ∧ q.fid = fid ∧ q.dest = d
              ∧ q.nargs = n.toNat + 1 ∧ q.args = args ∧ Waits t
              ∧ ((∀ y ∈ (getCluster s c).images, y.2.evPend = false) → SameMem u t))
          ∧ (coreDone u (tagCore s.cur) = false → Forfeits x s u))
        ∧ (resident s c fid = none → (getCluster s c).misses.length < 64 →
          (coreDone u (tagCore s.cur) = true →
            ∃ t q, exec x s = .next t ∧ (getCluster t c).misses = (getCluster s c).misses ++ [q] ∧ q.tag = s.cur ∧ q.fid = fid ∧ q.dest = d
              ∧ q.nargs = n.toNat + 1 ∧ q.args = args ∧ Waits t ∧ SameMem u t)
          ∧ (coreDone u (tagCore s.cur) = false → Forfeits x s u))
        ∧ (resident s c fid = some (e, i) → callMismatch i (n.toNat + 1) d = true → s.th.ih = false → Traps x s 0x05 0x4000000000000000))
      ∧ (31 < a.toNat + n.toNat → s.th.ih = false → ∃ v, Traps x s 0x01 v)
    Calls (.serveImm d a f g n) (g ++ f) ∧ Calls (.serveReg d a r n) ((s.x r).setWidth 12))
  ∧ (∀ (s : State) (d a : Reg) (e : Nat) (i : Image),
    let c := tagCluster s.cur
    let cl := getCluster s c
    let fid : BitVec 12 := (s.x a).setWidth 12
    let word := fun (n : Nat) => match resident s c fid with | some (_, j) => imageWord cl j n | none => 0
    let Goes := fun (t : State) => t.th = { s.th with pc := s.th.pc + 4 } ∧ OthersKept s t ∧ SameMem s t
    (resident s c fid = none → (∀ l ∈ cl.loads, l.fid ≠ fid) → (∀ m ∈ cl.misses, m.fid ≠ fid) → cl.misses.length < 64 →
      ∃ t l, exec (.sload a) s = .next t ∧ (getCluster t c).loads = cl.loads ++ [l] ∧ l.fid = fid ∧ l.outcome = none ∧ l.record = none ∧ Goes t)
    ∧ ((resident s c fid).isSome = true ∨ (∃ l ∈ cl.loads, l.fid = fid) ∨ (∃ m ∈ cl.misses, m.fid = fid) → ∃ t, exec (.sload a) s = .next t ∧ t.clusters = s.clusters ∧ Goes t)
    ∧ (resident s c fid = some (e, i) → (∀ y ∈ cl.images, y.2.evPend = true → y.2.busy cl = true) →
        ∃ t, exec (.sevict a) s = .next t ∧ t.th = { s.th with pc := s.th.pc + 4 } ∧ OthersKept s t
          ∧ (i.busy cl = true → resident t c fid = some (e, { i with evPend := true }) ∧ SameMem s t)
          ∧ (i.busy cl = false → resident t c fid = none ∧ ∀ x, x < 2 ^ 44 → t.byteAt x = s.byteAt x))
    ∧ (resident s c fid = none → ∃ t, exec (.sevict a) s = .next t ∧ t.clusters = s.clusters ∧ Goes t)
    ∧ (d.toNat ≤ 29 → ∃ t, exec (.sinfo d a) s = .next t ∧ t.x d = (if d = 0 then 0 else word 0) ∧ t.x (d + 1) = word 1 ∧ t.x (d + 2) = word 2
        ∧ (∀ r, r ≠ d → r ≠ d + 1 → r ≠ d + 2 → t.x r = s.x r) ∧ t.th.pc = s.th.pc + 4 ∧ OnlyThread s t)
    ∧ (29 < d.toNat → s.th.ih = false → ∃ v, Traps (.sinfo d a) s 0x01 v))

/-- R308–R312, R134: a tile instruction that passes its checks enters the core's queue of four and retires; the queue takes it with
exactly its bank and operands, a drain with its biases and flag word too; a drain into a bay under a voyage takes the access fault (R145). `tstat` reads
the queue's length, whether the engine and the ring controller are busy, the voyage's banks and the pending banks (R314).
R308, R310, R312: what the checks at issue refuse traps as tile-illegal, cause 0x06, and queues nothing: a bank that the active
voyage reserves, a pair the engine does not take, and an operand that is not wholly in the own scratchpad. -/
def Obligations.TileInstructionsAreChecked : Prop :=
  (∀ (s : State) (d a b : Reg) (z : BitVec 2) (g f : BitVec 3) (ao bo : Nat) (bias flag : Option Nat),
    let k := tagCore s.cur
    let q := (getCore s k).tiles
    let V := s.x d
    let K := V.toNat % 2 ^ 16
    let Q := V.toNat / 2 ^ 16 % 16
    let P := V.toNat / 2 ^ 20 % 16
    let w := fun (j : Nat) => BitVec.ofNat 64 (ofBytes (s.bytesAt 8 (padKey k (bo + 8 * j))))
    let W := (w 0).toNat
    let Enters := fun (x : Instr) (op : TileOp) => ∃ t, exec x s = .next t ∧ (getCore t k).tiles = q ++ [{ op := op, tag := s.cur, number := s.nextWrite, clock := s.th.clock }]
      ∧ t.th = { s.th with pc := s.th.pc + 4 } ∧ OthersKept s t ∧ SameMem s t ∧ (∀ j, j ≠ k → getCore t j = getCore s j)
    let plain := fun (v : Nat) => if v = 0 then 16 * drainBytes f else v
    let ext := 15 * plain (W % 2 ^ 16) + 16 * drainBytes f
    let named := fun (bit : Nat) (o : Option Nat) (va : Word) (n : Nat) =>
      if W / 2 ^ bit % 2 = 1 then ∃ x, o = some x ∧ ownExtent s.cur va n n = some x else o = none
    let good := f ≠ 7 ∧ ownExtent s.cur (s.x b) 32 32 = some bo ∧ padBlocked s s.cur false bo 32 = false
      ∧ W / 2 ^ 16 % 2 ^ 11 = 0 ∧ w 3 = 0 ∧ W % 2 ^ 16 % 16 = 0 ∧ (W % 2 ^ 16 = 0 ∨ 16 * drainBytes f ≤ W % 2 ^ 16)
      ∧ named 31 bias (w 1) 64 ∧ named 27 flag (w 2) 8 ∧ ownExtent s.cur (s.x a) ext 16 = some ao
    let active := voyageActive s (tagCluster s.cur)
    (bankTaken s z = false → q.length < 4 →
      Enters (.tzero z) (.zero z.toNat)
      ∧ (ownExtent s.cur (s.x a) 1024 64 = some ao → Enters (.tload a z) (.load z.toNat ao))
      ∧ (pairGood f g = true → 16 ≤ K → K ≤ 256 → K % 16 = 0 → V.toNat < 2 ^ 24 →
          (if g = 6 then 1 ≤ P ∧ P ≤ 8 ∧ 1 ≤ Q ∧ Q ≤ P else Q = 0 ∧ P = 0) →
          ownExtent s.cur (s.x a) (16 * K * elemBytes f) 64 = some ao →
          ownExtent s.cur (s.x b) (if g = 6 then K / 16 * (64 + 64 * P) else 16 * K * elemBytes g) 64 = some bo →
          Enters (.tmma d a b z g f) (.mma z.toNat f g ao bo K Q P))
      ∧ (good → (active = false ∨ (inBay ao ext = false ∧ ∀ o, flag = some o → inBay o 8 = false)) →
          Enters (.tdrain a b z f) (.drain z.toNat f ao (BitVec.ofNat 32 (W / 2 ^ 32)) bias (decide (W / 2 ^ 30 % 2 = 1)) (decide (W / 2 ^ 29 % 2 = 1))
            (decide (W / 2 ^ 28 % 2 = 1)) flag (plain (W % 2 ^ 16))))
      ∧ (good → active = true → s.th.ih = false → (inBay ao ext = true → Traps (.tdrain a b z f) s 0x03 (s.x a))
          ∧ (∀ o, inBay ao ext = false → flag = some o → inBay o 8 = true → Traps (.tdrain a b z f) s 0x03 (w 2))))
    ∧ (∃ v, Sets (.tstat d) s d v ∧ (q.length ≤ 4 → v.toNat % 8 = q.length ∧ v.getLsbD 3 = (getCore s k).tileBusy ∧ v.getLsbD 7 = (getCore s k).ringBusy
        ∧ ∀ j, j < 4 → v.getLsbD (12 + j) = q.any (fun e => e.op.bank == j) ∧ v.getLsbD (8 + j) = (voyageMask s (tagCluster s.cur)).testBit j)))
  ∧ (∀ (s : State) (d a b : Reg) (z : BitVec 2) (g f : BitVec 3), s.th.ih = false →
    (bankTaken s z = true → (∃ v, Traps (.tzero z) s 0x06 v) ∧ (∃ v, Traps (.tload a z) s 0x06 v) ∧ (∃ v, Traps (.tmma d a b z g f) s 0x06 v)
      ∧ (∃ v, Traps (.tdrain a b z f) s 0x06 v))
    ∧ (pairGood f g = false → ∃ v, Traps (.tmma d a b z g f) s 0x06 v)
    ∧ (ownExtent s.cur (s.x a) 1024 64 = none → ∃ v, Traps (.tload a z) s 0x06 v)
    ∧ (ownExtent s.cur (s.x b) 32 32 = none → ∃ v, Traps (.tdrain a b z f) s 0x06 v))

/-- R315–R317: `vstart` with a good descriptor, once what its core wrote before is home (R217), on a cluster whose ring has no voyage, gives the ring its voyage, before its embark phase,
and goes on; it waits while the ring has one. `vrel` gives 0 or 1 once for a held sighting and 2 otherwise; `vinfo` reads VSTATE, 0 without a
voyage. The model's own choices in it: log 37. -/
def Obligations.VoyageInstructions : Prop := ∀ (s : State) (d a : Reg) (bs : List Byte) (h : HeldSighting),
  let c := tagCluster s.cur
  let va := s.x a
  let u := releaseNow s s.cur
  let given : Word := if h.released then 2 else if h.missed then 1 else 0
  (va.toNat % 64 = 0 → va.toNat < 2 ^ 55 → releaseDone u s.cur = true → voyageTaken u c = false →
      engineWords u c none (ownerOf s s.cur) u.th.clock .both 8 va [] false = .got bs false →
      descError (words8Of (wordsOf 8 bs)) va = 0 →
    ∃ t v, exec (.vstart a) s = .next t ∧ (getCluster t c).voyage = some v ∧ v.descVa = va ∧ v.desc = words8Of (wordsOf 8 bs)
      ∧ v.phase = .embark ∧ v.thread = some s.cur ∧ v.record = none ∧ v.owner = ownerOf s s.cur
      ∧ t.th = { u.th with pc := s.th.pc + 4 } ∧ OthersKept u t ∧ SameMem u t)
  ∧ (va.toNat % 64 = 0 → va.toNat < 2 ^ 55 → releaseDone u s.cur = true → voyageTaken u c = true →
      ∃ t, exec (.vstart a) s = .next t ∧ t.th = { u.th with park := .voyage } ∧ OnlyThread u t)
  ∧ (va.toNat % 64 = 0 → va.toNat < 2 ^ 55 → releaseDone u s.cur = false → Forfeits (.vstart a) s u)
  ∧ (¬ (va.toNat % 64 = 0 ∧ va.toNat < 2 ^ 55) → s.th.ih = false → ∃ v, Traps (.vstart a) s 0x06 v)
  ∧ (s.th.sighting = some h → ∃ t, exec (.vrel d) s = .next t ∧ t.x d = (if d = 0 then 0 else given)
      ∧ t.th.sighting = some { h with released := true } ∧ t.th.pc = s.th.pc + 4 ∧ Kept d s t ∧ OnlyThread s t)
  ∧ (s.th.sighting = none → Sets (.vrel d) s d 2)
  ∧ Sets (.vinfo d) s d (match theVoyage s c with | some v => v.vstate | none => 0)

/-- R324, R341, R343: an `scmd` whose command passes the checks, once what its core wrote before is home (R217), appends it to the tail of its queue, and the counter it names counts
it in PEND, or holds it while the counter drains; one that fails a check traps with cause 0x07 and its high word. -/
def Obligations.CommandsAreIssued : Prop := ∀ (s : State) (a b : Reg) (n : BitVec 2),
  let k := tagCore s.cur
  let m := newCommand s (s.x b) (s.x a)
  let ctr := getCounter s (coreCluster k) m.ctr
  let u := released s
  let room := ((getCore s k).queue n.toNat).length < 8 ∧ (m.rsp = true → (getCore s k).responses.length < 128)
  (commandGood s s.cur m = true → room → releaseDone u s.cur = true →
    ∃ t q, exec (.scmd a b n) s = .next t ∧ (getCore t k).queue n.toNat = (getCore s k).queue n.toNat ++ [q] ∧ q.hi = s.x b ∧ q.lo = s.x a
      ∧ q.tag = s.cur ∧ q.progress = 0 ∧ q.phase = (if !m.nc && ctr.drain then .held else .queued)
      ∧ getCounter t (coreCluster k) m.ctr = (if m.nc || ctr.drain then ctr else { ctr with pend := ctr.pend + 1 })
      ∧ (m.rsp = false → (getCore t k).responses = (getCore s k).responses)
      ∧ (m.rsp = true → ∃ r, (getCore t k).responses = (getCore s k).responses ++ [r] ∧ r.tag = s.cur ∧ r.element = none)
      ∧ t.th = { u.th with pc := s.th.pc + 4 } ∧ OthersKept u t ∧ SameMem u t)
  ∧ (commandGood s s.cur m = true → room → releaseDone u s.cur = false → Forfeits (.scmd a b n) s u)
  ∧ (commandGood s s.cur m = false → s.th.ih = false → Traps (.scmd a b n) s 0x07 (s.x b))

/-- R338, R339, R341–R343: `rget` takes the thread's oldest response, waits for one that is not there yet, and gives 0 when none is
due; `nwait` goes on exactly when VALUE has reached x[a]; `nread` reads the counter's word; `nset` sets VALUE, where no active voyage
counts on it, and DRAIN when commands are pending. The last two act behind the core's earlier stores and requests to the control block (R120, R128). -/
def Obligations.ResponsesAndCounters : Prop := ∀ (s : State) (d a : Reg) (n : BitVec 4) (r : ResponseEntry) (v : Word),
  let k := tagCore s.cur
  let c := tagCluster s.cur
  let C := getCounter s c n.toNat
  let V : BitVec 48 := (s.x a).setWidth 48
  let u := stored s
  let free := coreDone u k = true ∧ controlAhead u s.cur = false
  (oldestResponse s s.cur = none → Sets (.rget d) s d 0)
  ∧ (oldestResponse s s.cur = some r → r.element = some v →
      ∃ t, Gets (.rget d) s d v t ∧ (getCore t k).responses = (getCore s k).responses.filter (fun q => q.num != r.num) ∧ OthersKept s t)
  ∧ (oldestResponse s s.cur = some r → r.element = none →
      ∃ t, exec (.rget d) s = .next t ∧ t.th = { s.th with park := .response } ∧ OnlyThread s t)
  ∧ (V.toNat ≤ C.value.toNat → ∃ t, exec (.nwait a n) s = .next t ∧ t.th.pc = s.th.pc + 4 ∧ t.th.park = .none ∧ Kept 0 s t ∧ OnlyThread s t)
  ∧ (C.value.toNat < V.toNat → ∃ t, exec (.nwait a n) s = .next t ∧ t.th = { s.th with park := .counter n.toNat V } ∧ OnlyThread s t)
  ∧ (free → ∃ t, exec (.nread d n) s = .next t ∧ t.x d = (if d = 0 then 0 else BitVec.ofBool C.drain ++ (0 : BitVec 3) ++ C.pend ++ C.value)
      ∧ (∀ r, r ≠ d → t.x r = s.x r) ∧ OnlyThread u t
      ∧ t.th = { u.th with x := t.th.x, pc := s.th.pc + 4, seen := u.th.seen ++ C.ends s.cur })
  ∧ (free → ∃ t, exec (.nset a n) s = .next t ∧ (voyageCounts s c n.toNat = false → (getCounter t c n.toNat).value = V) ∧ (getCounter t c n.toNat).pend = C.pend
      ∧ (getCounter t c n.toNat).drain = (C.drain || decide (C.pend ≠ 0))
      ∧ (∀ j, j ≠ n.toNat → getCounter t c j = getCounter s c j) ∧ t.th = { u.th with pc := s.th.pc + 4 } ∧ OthersKept u t ∧ SameMem u t)
  ∧ (¬free → Forfeits (.nread d n) s u ∧ Forfeits (.nset a n) s u)

/-! ### System instructions and traps (R103–R107, R248, R318–R323) -/

/-- R248, R320: what `rdsys` reads of each system register, and that a number above 9 is illegal.
R248, R320, R235: what `wrsys` changes of each register that may be written: reserved bits stay zero, `tepc` and `tvec` stay
multiples of 4, the two status bits of `tstat` are cleared by writing 1, a reserved rounding mode leaves RM; the others trap. -/
def Obligations.SystemRegisters : Prop :=
  (∀ (s : State) (d : Reg),
    let th := s.th
    Sets (.rdsys d 0) s d th.thid ∧ Sets (.rdsys d 1) s d th.crix
    ∧ Sets (.rdsys d 2) s d (BitVec.ofNat 64 (AMap.getD s.board.dieClk (tagDie s.cur) 0)) ∧ Sets (.rdsys d 3) s d th.tcause
    ∧ Sets (.rdsys d 4) s d th.tepc ∧ Sets (.rdsys d 5) s d th.tval ∧ Sets (.rdsys d 6) s d th.tvec ∧ Sets (.rdsys d 7) s d th.tstat
    ∧ Sets (.rdsys d 8) s d th.fstat ∧ Sets (.rdsys d 9) s d ((ownerOf s s.cur).setWidth 64)
    ∧ ∀ b : Reg, 9 < b.toNat → th.ih = false → Traps (.rdsys d b) s 0x01 (0x3 ||| (d.setWidth 64 <<< 21) ||| (b.setWidth 64 <<< 11)))
  ∧ (∀ (s : State) (a : Reg),
    let V := s.x a
    let Writes := fun (n : Reg) (th : ThreadState) => ∃ t, exec (.wrsys a n) s = .next t ∧ t.th = { th with pc := s.th.pc + 4 } ∧ OnlyThread s t
    Writes 3 { s.th with tcause := BitVec.ofNat 64 (V.toNat % 256) } ∧ Writes 4 { s.th with tepc := BitVec.ofNat 64 (V.toNat / 4 * 4) }
    ∧ Writes 5 { s.th with tval := V } ∧ Writes 6 { s.th with tvec := BitVec.ofNat 64 (V.toNat / 4 * 4) }
    ∧ Writes 7 { s.th with tstat := s.th.tstat &&& ~~~(V &&& 6) }
    ∧ Writes 8 { s.th with fstat := (V &&& 0x1F0) ||| (if 5 ≤ V.toNat % 8 then s.th.fstat &&& 7 else V &&& 7) }
    ∧ ∀ n : Reg, n.toNat < 3 ∨ 8 < n.toNat → s.th.ih = false → ∃ v, Traps (.wrsys a n) s 0x01 v)

/-- R106, R318, R319, R244: `trap` and an illegal word take their traps as R106 says; `tret` in a handler returns to `tepc` and clears
IH, keeping `tcause`, `tval` and `tepc`, and outside one is illegal; `yield` goes on. -/
def Obligations.TrapsAndReturns : Prop := ∀ (s : State) (a : Reg) (w : IWord),
  (s.th.ih = false → Traps (.trap a) s 0x08 (s.x a) ∧ Traps (.illegalInstruction w) s 0x01 (w.setWidth 64) ∧ Traps .tret s 0x01 0x2)
  ∧ (s.th.ih = true → ∃ t, exec .tret s = .next t ∧ t.th = { s.th with pc := s.th.tepc, tstat := s.th.tstat &&& ~~~1 } ∧ OnlyThread s t)
  ∧ (∃ t, exec .yield s = .next t ∧ t.th = { s.th with pc := s.th.pc + 4, yielded := true } ∧ OnlyThread s t)

/-- R323, R321: `park` goes on at once when a message register is full or a deferred trap or an event waits, and waits otherwise; `exit`
of a thread with nothing left to wait for, once what its core wrote before is home (R217), frees its slot: the thread is gone, and messages for it and its responses are discarded; any
other waits. R106: a precise trap inside a handler ends the launch faulted with reason 0x20, once the logbook has a place for it, and the
crew's threads stop.
R105, R107: DEFERRED_TRAP takes the oldest deferred trap of a thread at its boundary, and CREW_EVENT the crew's pending event at its
event thread, 0x0B before 0x0A; the event is then no longer pending. Each enters the handler as R106 says, `tepc` the instruction the thread stands at. The model's own choices in it: log 39 and 57. -/
def Obligations.ParkExitAndDeferredTraps : Prop :=
  (∀ (s : State) (a : Reg) (crew : Crew) (r : RecordState),
    let k := tagCore s.cur
    let awake := (∃ i, i < 8 ∧ (AMap.find s.th.m i).isSome = true) ∨ s.th.deferred ≠ [] ∨ eventPending s s.cur = true
    let Stopped := fun (t : State) => ∀ j, (getThread s j).live = true → (getThread s j).crew = s.th.crew → (getThread t j).stopped = true
    let u := released s
    (awake → ∃ t, exec .park s = .next t ∧ t.th = { s.th with pc := s.th.pc + 4, park := .none } ∧ OnlyThread s t)
    ∧ (¬ awake → ∃ t, exec .park s = .next t ∧ t.th = { s.th with park := .anyMessage } ∧ OnlyThread s t)
    ∧ (canExit s s.cur = true → releaseDone u s.cur = true → ∃ t, exec .exit s = .next t ∧ AMap.find t.threads s.cur = none
        ∧ (s.th.sighting = none → t.messages = s.messages.filter (fun m => !(m.accepted && m.target == s.cur))
            ∧ (getCore t k).responses = (getCore s k).responses.filter (fun q => q.tag != s.cur)
            ∧ t.threads = AMap.erase u.threads s.cur
            ∧ ((∀ q, SpillItem.message q ∈ allSpilled s → q.target ≠ s.cur) → SameMem u t)))
    ∧ (canExit s s.cur = true → releaseDone u s.cur = false → Forfeits .exit s u)
    ∧ (canExit s s.cur = false → ∃ t, exec .exit s = .next t ∧ t.th = { s.th with park := .exiting } ∧ OthersKept s t ∧ SameMem s t
        ∧ (exitHeld s s.cur = false → OnlyThread s t))
    ∧ (s.th.ih = true → getCrew s s.th.crew = some crew → AMap.find s.records crew.record = some r → r.phase.final = false → r.ending = none →
        (mayChange s (.handler s.th.crew) = true → ∃ t q, exec (.trap a) s = .next t ∧ AMap.find t.records crew.record = some q
          ∧ q.ending = some (.faulted, 0x20) ∧ Stopped t)
        ∧ (mayChange s (.handler s.th.crew) = false → ∃ t, exec (.trap a) s = .next t ∧ t.records = s.records ∧ Stopped t)))
  ∧ (∀ (s : State) (d : Deferred) (rest : List Deferred) (crew t : Nat) (w : Crew) (v : Word),
    let th := s.th
    let u := getThread s t
    let Enters := fun (s' : State) (c : Word) (w' : Crew) => exec (.crewEvent crew) s = .next s'
      ∧ getThread s' t = { u with tcause := c, tval := v, tepc := u.pc, tstat := u.tstat ||| 1, pc := u.tvec, park := .none }
      ∧ getCrew s' crew = some w' ∧ SameMem s s' ∧ (∀ j, j ≠ t → getThread s' j = getThread s j)
    (canTakeDeferred s s.cur = true → th.deferred = d :: rest →
      ∃ t, exec (.deferredTrap s.cur) s = .next t ∧ OnlyThread s t
        ∧ t.th = { th with deferred := rest, tcause := d.cause.setWidth 64, tval := d.tval, tepc := th.pc, tstat := th.tstat ||| 1, pc := th.tvec, park := .none })
    ∧ (getCrew s crew = some w → eventThread s crew = some t → w.phase = .running → canTakeEvent u = true →
        (w.event0B = some v → ∃ s', Enters s' 0x0B { w with event0B := none })
        ∧ (w.event0B = none → w.event0A = some v → ∃ s', Enters s' 0x0A { w with event0A := none })))

/-! ### Stream commands as their engines run them (R325–R348) -/

/-- R325, R330: a turn of `get`, `put`, `copy` or `fill` between the own scratchpad and one of its cluster moves the next words, 256 bytes
at most, and no other byte; the command has moved its data when the last word has moved, and its response value is LEN. `copy` reads its
destination and `fill` its pattern from the own scratchpad in its first turn, and keeps it. The model's own choices in it: log 16, 27 and 28. -/
def Obligations.TransfersMoveBytes : Prop := ∀ (s : State) (core q j off j2 off2 p : Nat) (m : Command),
  let c := coreCluster core
  let n := Nat.min 256 (m.len - m.progress)
  let own := padKey core (m.loc + m.progress)
  let far := padKey (c * 128 + j) (off + m.progress)
  let first := ofBytes (s.bytesAt 8 (padKey core m.loc))
  let d := (windowVa j2 off2).toNat
  let Turn := fun (x : Instr) (kept : List Nat) (tgt : Nat) (bs : List Byte) => ∃ t m', exec x s = .next t ∧ Stored tgt bs s t
    ∧ headIn t core q (if m.progress + n = m.len then .moved else .running) = some m' ∧ m'.progress = m.progress + n ∧ m'.hi = m.hi ∧ m'.lo = m.lo
    ∧ m'.listed = kept ∧ m'.status = m.status ∧ (m.progress + n = m.len → m'.value = m.len) ∧ t.threads = s.threads
  let apart := fun (k a k' b : Nat) => k ≠ k' ∨ a + m.len ≤ b ∨ b + m.len ≤ a
  Inv s → q < 4 → j < 96 → m.lo = windowVa j off → m.rem = false → off + m.len ≤ 0x30000 → m.len % 8 = 0 → m.progress % 8 = 0 →
  m.progress < m.len → voyageActive s c = false → s.poison = [] → Unhindered s m.agent m.clock →
  (runningOp s core q 1 = some m → m.loc + m.len ≤ 0x30000 → apart (c * 128 + j) off core m.loc → Turn (.get core q) m.listed own (s.bytesAt n far))
  ∧ (runningOp s core q 2 = some m → m.loc + m.len ≤ 0x30000 → apart (c * 128 + j) off core m.loc → Turn (.put core q) m.listed far (s.bytesAt n own))
  ∧ (runningOp s core q 5 = some m → (m.listed = [] ∧ first = d) ∨ m.listed = [d] → m.loc + 8 ≤ 0x30000 → j2 < 96 → off2 % 8 = 0 →
      off2 + m.len ≤ 0x30000 → apart j off j2 off2 → Turn (.copy core q) [d] (padKey (c * 128 + j2) (off2 + m.progress)) (s.bytesAt n far))
  ∧ (runningOp s core q 6 = some m → (m.listed = [] ∧ first = p) ∨ m.listed = [p, 0] → m.loc + 8 ≤ 0x30000 →
      Turn (.fill core q) [p, 0] far (List.replicate (n / 8) (bytesOf 8 p)).flatten)

/-- R340: a `get`, `put`, `copy` or `fill` whose read or write faults ends where it stands: its status is 1, its response value counts
what came before, and its thread gets a deferred trap with the address; one whose remaining destination meets an active bay ends so before
it writes (R145), and a `copy` whose destination word is no destination at once. The model's own choices in it: log 27, 28, 32 and 34. -/
def Obligations.FaultingTransfersStop : Prop := ∀ (s : State) (core q : Nat) (m : Command) (va : Word) (bs : List Byte) (bad : Bool),
  let th := getThread s m.tag
  let Stops := fun (x : Instr) => ∃ t m', exec x s = .next t ∧ headIn t core q .moved = some m' ∧ m'.status = 1 ∧ m'.value = m.progress
    ∧ (th.live = true → th.agent = m.agentOf → th.deferred.length < 8 → getThread t m.tag = { th with deferred := th.deferred ++ [{ cause := 3, tval := va }] }) ∧ SameMem s t
  let o := commandOwner s m
  let own := Side.near (ownVa (m.loc + m.progress))
  let far := m.farAt m.progress
  let first := ofBytes (s.bytesAt 8 (padKey core m.loc))
  let d := if m.listed = [] then first else m.listed.headD 0
  let src := m.farAt (copyAt core m d)
  let dst := Side.near (BitVec.ofNat 64 (d + copyAt core m d))
  let Reads := fun (x : Side) => sideRead s core o m.clock x = .got bs bad
  let NoRead := fun (x : Side) => sideRead s core o m.clock x = .denied va
  let NoWrite := fun (x : Side) (n : Nat) => (m.rem = false ∨ m.top ≠ 0) ∧ sideReach s core o x n .write = .denied ∧ x.va = va
  let toOwn := bayStop s core m.len 8 (fun m => some (.near (ownVa (m.loc + m.progress)))) m
  let toFar := bayStop s core m.len 8 (fun m => some (m.farAt m.progress)) m
  let toDst := bayStop s core m.len 8 (fun m => some (.near (BitVec.ofNat 64 (d + copyAt core m d)))) m
  let runs := fun (op : Nat) => runningOp s core q op = some m ∧ (op = 5 ∨ op = 6 → ownWaits s core m = false ∧ (m.listed = [] → poisoned s (padKey core m.loc) 8 = false))
  q < 4 → m.progress < m.len →
  (runs 1 → toOwn = some va ∨ (toOwn = none ∧ (NoRead far ∨ (Reads far ∧ NoWrite own bs.length))) → Stops (.get core q))
  ∧ (runs 2 → toFar = some va ∨ (toFar = none ∧ (NoRead own ∨ (Reads own ∧ NoWrite far bs.length))) → Stops (.put core q))
  ∧ (runs 5 → copyDest d = true → toDst = some va ∨ (toDst = none ∧ (NoRead src ∨ (Reads src ∧ NoWrite dst bs.length))) → Stops (.copy core q))
  ∧ (runs 5 → copyDest d = false → va = BitVec.ofNat 64 d → m.progress = 0 → Stops (.copy core q))
  ∧ (runs 6 → toFar = some va ∨ (toFar = none ∧ NoWrite far 8) → Stops (.fill core q))

/-- R331, R332, R334: a short `getx` reads its list from the own scratchpad and gathers the listed elements, and zeros for the pad index;
`putx` scatters its elements to the listed places; `redput` adds each own element to its far element; no other byte changes. The model's own choices in it: log 16, 27 and 30. -/
def Obligations.IndexedAndReducingTransfers : Prop := ∀ (s : State) (core q j off : Nat) (m : Command) (ixs : List Nat),
  let c := coreCluster core
  let w := m.esize
  let far := fun (x : Nat) => padKey (c * 128 + j) (off + x)
  let own := fun (x : Nat) => padKey core (m.loc + x)
  let ew := if m.xtra % 4 = 2 then 8 else 4
  let word := fun (k : Nat) => ofBytes (s.bytesAt ew k)
  let entry := fun (x : Nat) => ofBytes (s.bytesAt 4 (padKey core (m.ilist + x)))
  let Done := fun (x : Instr) (t : State) (v : Nat) => exec x s = .next t ∧ t.threads = s.threads
    ∧ ∃ m', headIn t core q .moved = some m' ∧ m'.value = v ∧ m'.status = m.status
  Inv s → q < 4 → j < 96 → j ≠ core % 128 → m.lo = windowVa j off → m.rem = false → m.progress = 0 → off % 8 = 0 → m.loc % 8 = 0 →
  voyageActive s c = false → s.poison = [] → Unhindered s m.agent m.clock →
  (m.listed = [] → m.ilist + 8 + 4 * ixs.length ≤ 0x30000 → entry 0 = ixs.length → (∀ k i, ixs[k]? = some i → entry (8 + 4 * k) = i) →
    ixs.length * w ≤ 256 → m.loc + ixs.length * w ≤ 0x30000 → (∀ i ∈ ixs, i ≠ padIndex → off + i * w + w ≤ 0x30000) →
    (runningOp s core q 3 = some m → ∃ t, Done (.getx core q) t ixs.length
        ∧ Stored (own 0) (ixs.flatMap fun i => if i = padIndex then List.replicate w 0 else s.bytesAt w (far (i * w))) s t)
    ∧ (runningOp s core q 4 = some m → (ixs.filter fun i => i ≠ padIndex).Nodup → ∃ t, Done (.putx core q) t ixs.length
        ∧ (∀ n i, ixs[n]? = some i → i ≠ padIndex → t.bytesAt w (far (i * w)) = s.bytesAt w (own (n * w)))
        ∧ ∀ a, (∀ i ∈ ixs, i ≠ padIndex → a < far (i * w) ∨ far (i * w) + w ≤ a) → t.byteAt a = s.byteAt a))
  ∧ (runningOp s core q 7 = some m → 0 < m.len → m.len % 8 = 0 → m.len ≤ 32 * ew → off + m.len ≤ 0x30000 → m.loc + m.len ≤ 0x30000 →
      ∃ t, Done (.redput core q) t m.len
        ∧ Stored (far 0) ((List.range (m.len / ew)).flatMap fun i => bytesOf ew (addElem (m.xtra % 4) (word (far (i * ew))) (word (own (i * ew))))) s t)

/-- R335, R336: `scan` writes N', the indexes of the non-zero elements, the pad indexes and, with VAL, the elements, and counts the
non-zero ones. R333: a `probe` of one element whose page a TLB holds keeps that page held and counts it. The model's own choices in it: log 27, 29, 30 and 87. -/
def Obligations.ScanAndProbe : Prop := ∀ (s : State) (core q : Nat) (m : Command) (ix : Nat) (e : TlbEntry),
  let ty := m.xtra % 16
  let w := scanWidth ty
  let el := fun (i : Nat) => ofBytes (s.bytesAt w (padKey core (m.loc + i * w)))
  let nz := (List.range m.len).filter fun i => !scanZero ty (el i)
  let pads := List.replicate (scanCount (bitAt m.lo 18) nz.length - nz.length) 0xFFFFFFFF
  let n' := nz.length + pads.length
  let out := bits m.lo 17 0
  let vout := bits m.lo 37 20
  let list := bytesOf 8 n' ++ (nz ++ pads).flatMap (fun i => bytesOf 4 i) ++ (if n' % 2 = 1 then bytesOf 4 0 else [])
  let vals := nz.flatMap (fun i => bytesOf w (el i)) ++ pads.flatMap (fun _ => bytesOf w 0)
  let clear := fun (a n b k : Nat) => a + n ≤ b ∨ b + k ≤ a
  let va := m.lo + BitVec.ofNat 64 (ix * m.esize)
  let va2 := va + BitVec.ofNat 64 (m.esize - 1)
  let o := commandOwner s m
  let entry := fun (x : Nat) => ofBytes (s.bytesAt 4 (padKey core (m.ilist + x)))
  (runningOp s core q 0x18 = some m → Inv s → q < 4 → voyageActive s (coreCluster core) = false → s.poison = [] → Unhindered s m.agent m.clock →
    out + list.length ≤ 0x30000 → vout + vals.length ≤ 0x30000 → clear m.loc (m.len * w) out list.length →
    (bitAt m.lo 19 = false ∨ vals.length = 0 → ∃ t m', exec (.scan core q) s = .next t ∧ Stored (padKey core out) list s t
      ∧ headIn t core q .moved = some m' ∧ m'.value = nz.length ∧ m'.status = m.status ∧ t.threads = s.threads)
    ∧ (bitAt m.lo 19 = true → clear m.loc (m.len * w) vout vals.length → clear out list.length vout vals.length → 0 < vals.length →
      ∃ t m', exec (.scan core q) s = .next t ∧ (∀ a, t.byteAt a =
          if padKey core out ≤ a ∧ a < padKey core out + list.length then list.getD (a - padKey core out) 0
          else if padKey core vout ≤ a ∧ a < padKey core vout + vals.length then vals.getD (a - padKey core vout) 0 else s.byteAt a)
        ∧ headIn t core q .moved = some m' ∧ m'.value = nz.length ∧ m'.status = m.status ∧ t.threads = s.threads))
  ∧ (runningOp s core q 0x20 = some m → q < 4 → s.poison = [] → Unhindered s m.agent m.clock →
      m.listed = [1, ix] ∨ (m.listed = [] ∧ m.ilist + 12 ≤ 0x30000 ∧ entry 0 = 1 ∧ entry 8 = ix) → ix ≠ padIndex → m.progress = 0 → m.status = 0 → m.rem = false →
      spaceOf (coreCluster core) (some core) va 1 = .global → spaceOf (coreCluster core) (some core) va2 1 = .global → pageOf va2 = pageOf va →
      (getCluster s (coreCluster core)).l1.find? (fun x => x.hits o (pageOf va)) = some e → e.big = false → pteRd e.pte = true →
      ∃ t m', exec (.probe core q) s = .next t ∧ headIn t core q .moved = some m' ∧ m'.value = 1 ∧ m'.status = 0
        ∧ AMap.getD (getCore t core).held q [] = AMap.getD (getCore s core).held q [] ++ [(o, pageOf va)]
        ∧ t.clusters = s.clusters ∧ SameMem s t ∧ t.threads = s.threads)

/-- R337, R171: a turn of `chain`, whose list is good, stores the next unit, 256 bytes at most, at the destination of one core of the list that
can take it: the core before has forwarded it, and the buffer for the next core holds none that waits; the first core gets what stands at
the source, and every later one the unit as it was read then; when no core can take one the work is done.
R344: a `halo` reads its descriptor; a bad one, or one with a face in an active bay, ends it with status 1. FACE_DELIVERED stores the
rows of a face in the neighbour's scratchpad and raises the INB of the neighbour's group by one.
R347: a `bind` whose partner has not asked for it yet waits with its own side recorded; the second of a pair binds both groups; with
U = 0 it releases its own group, when no face of the group is in flight on the circuit. Both cores are of one gang; a `bind` to a core of no
mate, of a group that is bound or binding, or on a cluster with 16 circuits ends with status 1. The model's own choices in it: log 27, 31 and 87. -/
def Obligations.ChainHaloAndBind : Prop :=
  (∀ (s : State) (core q face : Nat) (m : Command) (es ts us : List Nat),
    let c := coreCluster core
    let g := m.xtra % 16
    let f := faceOf (m.listed.getD (2 + 2 * face) 0) (m.listed.getD (3 + 2 * face) 0)
    let tgt := f.target core
    let row := fun (r : Nat) => padKey tgt (f.ro + r * f.rs)
    let l := readHalo s core m
    let hdr := bits m.lo 17 0
    let word := fun (i : Nat) => ofBytes (s.bytesAt 8 (padKey core (hdr + 8 * i)))
    let N := es.length
    let T := fun (i : Nat) => ts.getD i 0
    let able := (List.range N).filter fun i =>
      decide (T i * 256 < m.len ∧ (i = 0 ∨ T i < T (i - 1)) ∧ (i + 1 = N ∨ T i ≤ T (i + 1)))
    let size := fun (i : Nat) => Nat.min 256 (m.len - 256 * T i)
    let unit := fun (i : Nat) => match us[2 * T i]? with | some v => bytesOf (size i) v | none => s.bytesAt (size i) (padKey core (m.loc + 256 * T i))
    let dest := fun (i : Nat) => let e := es.getD i 0; padKey (c * 128 + e % 128) (e / 2 ^ 18 % 2 ^ 18 + 256 * T i)
    q < 4 →
    (runningOp s core q 0x08 = some m → Inv s → s.poison = [] → Unhindered s m.agent m.clock → m.len % 8 = 0 → es ≠ [] → N ≤ 96 → ts.length = N → (∀ j, us.getD (2 * j + 1) 0 = 0) →
        (if m.listed = [] then word 0 = N ∧ es = (List.range N).map (fun i => word (i + 1)) ∧ ts = List.replicate N 0 ∧ us = []
          else m.listed = N :: (es ++ ts ++ us)) →
        hdr + 8 + 8 * N ≤ 0x30000 → (∀ e ∈ es, chainGood s core m e = true) →
        (able ≠ [] → ∃ i ∈ able, ∃ t m', exec (.chain core q) s = .next t ∧ Stored (dest i) (unit i) s t
          ∧ headIn t core q .running = some m' ∧ m'.progress = m.progress + size i ∧ chainTaken m' N i = T i + 1
          ∧ (∀ j, j < N → j ≠ i → chainTaken m' N j = T j) ∧ m'.status = m.status ∧ t.threads = s.threads)
        ∧ (able = [] → ∃ t m', exec (.chain core q) s = .next t ∧ headIn t core q .moved = some m' ∧ m'.value = N ∧ m'.status = m.status
          ∧ SameMem s t ∧ t.threads = s.threads))
    ∧ (runningOp s core q 0x10 = some m → m.listed = [] → s.poison = [] → ownWaits s core m = false →
        let bay := (List.range (l.headD 0 % 8)).any fun i => (faceInBay s core (faceOf (l.getD (2 + 2 * i) 0) (l.getD (3 + 2 * i) 0))).isSome
        let good := haloGood s core g (commandOwner s m) m l
        (good = true → bay = false → ∃ t, exec (.halo core q) s = .next t ∧ headIn t core q .running = some { m with listed := l }
          ∧ SameMem s t ∧ t.threads = s.threads)
        ∧ ((good && !bay) = false → ∃ t m', exec (.halo core q) s = .next t ∧ headIn t core q .moved = some m' ∧ m'.status = 1 ∧ m'.value = 0
          ∧ SameMem s t))
    ∧ (runningOp s core q 0x10 = some m → Inv s → s.poison = [] → Unhindered s m.agent m.clock → m.listed ≠ [] → face < haloFaces m → m.progress.testBit face = false → tgt ≠ core →
        coreHeld s tgt (commandOwner s m) = true → (getGroup s tgt g).inb < 255 → faceInBay s core f = none →
        f.rb % 8 = 0 → (f.nr ≤ 1 ∨ f.rb ≤ f.rs) → f.ro + (f.nr - 1) * f.rs + f.rb ≤ 2 ^ 18 → f.so + (f.nr - 1) * f.ss + f.rb ≤ 2 ^ 18 →
        ∃ t m', exec (.faceDelivered core q face) s = .next t
          ∧ (∀ r, r < f.nr → t.bytesAt f.rb (row r) = s.bytesAt f.rb (padKey core (f.so + r * f.ss)))
          ∧ (∀ a, (∀ r, r < f.nr → a < row r ∨ row r + f.rb ≤ a) → t.byteAt a = s.byteAt a)
          ∧ (getGroup t tgt g).inb = (getGroup s tgt g).inb + 1 ∧ headIn t core q .running = some m' ∧ m'.progress = m.progress + 2 ^ face
          ∧ t.threads = s.threads))
  ∧ (∀ (s : State) (core q : Nat) (m : Command),
    let g := m.xtra % 16
    let r := getGroup s core g
    let tgt := bindTarget m
    let p := getGroup s tgt g
    let Mine := fun (t : State) => (getGroup t core g).ccl = m.cl ∧ (getGroup t core g).cdie = m.die ∧ (getGroup t core g).ccore = m.len % 128
    let flies := faceFlies s g core r.partner = true ∨ faceFlies s g r.partner core = true
    let Fails := ∃ t m', exec (.bind core q) s = .next t ∧ headIn t core q .moved = some m' ∧ m'.status = 1 ∧ SameMem s t
    runningOp s core q 0x11 = some m → q < 4 →
    (m.hi.getLsbD 12 = false →
      (r.bound = false ∨ (sameGang s core tgt = true ∧ ¬flies) → ∃ t m', exec (.bind core q) s = .next t ∧ (getGroup t core g).bound = false
          ∧ headIn t core q .moved = some m' ∧ m'.status = m.status ∧ t.threads = s.threads ∧ SameMem s t)
      ∧ (r.bound = true → sameGang s core tgt = true → flies → exec (.bind core q) s = .next s)
      ∧ (r.bound = true → sameGang s core tgt = false → Fails))
    ∧ (m.hi.getLsbD 12 = true → m.listed = [] → sameGang s core tgt = true → r.bound = false → r.bpend = false → tgt ≠ core →
        circuits s (coreCluster core) < 16 → circuits s (coreCluster tgt) < 16 →
        (p.bpend && p.names core = false → ∃ t, exec (.bind core q) s = .next t ∧ (getGroup t core g).bpend = true ∧ (getGroup t core g).bound = false ∧ Mine t
          ∧ getGroup t tgt g = p ∧ t.threads = s.threads ∧ SameMem s t)
        ∧ (p.bpend && p.names core = true → ∃ t, exec (.bind core q) s = .next t ∧ (getGroup t core g).bound = true ∧ (getGroup t core g).bpend = false ∧ Mine t
          ∧ (getGroup t tgt g).bound = true ∧ (getGroup t tgt g).bpend = false ∧ t.threads = s.threads ∧ SameMem s t))
    ∧ (m.hi.getLsbD 12 = true → m.listed = [] → sameGang s core tgt = false ∨ r.bound = true ∨ r.bpend = true ∨ 16 ≤ circuits s (coreCluster core)
        ∨ 16 ≤ circuits s (coreCluster tgt) → Fails))

/-- R325: COMMAND_START starts the command at the head of a queue, a `halo` when every earlier one of its group has completed (R345). R338,
R341: COMMAND_COMPLETE writes back what a command whose data have moved holds in the cluster's cache and, when all is home, takes it, or a
`halo` or `bind` whose wait is over, out of its queue, raises its counter by one, and fills its response entry. The model's own choices in it: log 15, 16 and 32. -/
def Obligations.CommandsStartAndComplete : Prop := ∀ (s : State) (core q : Nat) (m : Command) (rest : List Command),
  let k := getCore s core
  let c := coreCluster core
  let C := getCounter s c m.ctr
  let g := m.xtra % 16
  let G := getGroup s core g
  let u := flushAgent s c m.agent
  let Ends := fun (u t : State) (v : Nat) => (getCore t core).queue q = rest ∧ t.threads = s.threads ∧ SameMem u t ∧ t.writes = u.writes
    ∧ (m.nc = true → getCounter t c m.ctr = C)
    ∧ (m.nc = false → C.drain = false → (voyageCounts s c m.ctr = false → (getCounter t c m.ctr).value = C.value + 1) ∧ (getCounter t c m.ctr).pend = C.pend - 1
        ∧ (getCounter t c m.ctr).drain = false)
    ∧ (∀ r ∈ k.responses, some r.num ≠ m.response → r ∈ (getCore t core).responses)
    ∧ ∀ r ∈ k.responses, some r.num = m.response → ∃ r' ∈ (getCore t core).responses, r'.num = r.num ∧ r'.tag = r.tag
        ∧ r'.element = some (BitVec.ofNat 64 (m.op * 2 ^ 56 + m.ctr * 2 ^ 52 + m.status.toNat * 2 ^ 48 + q * 2 ^ 40 + v % 2 ^ 40))
  q < 4 → k.queue q = m :: rest →
  (m.phase = .queued → (m.op = 0x10 → ∀ o ∈ k.e0 ++ k.e1 ++ k.e2 ++ k.e3, o.op = 0x10 → o.xtra % 16 = g → m.agent ≤ o.agent) →
    ∃ t m', exec (.commandStart core q) s = .next t ∧ (getCore t core).queue q = m' :: rest ∧ m'.phase = .running ∧ m'.hi = m.hi ∧ m'.lo = m.lo
      ∧ m'.progress = m.progress ∧ t.threads = s.threads ∧ SameMem s t)
  ∧ (m.phase = .queued → m.op = 0x10 → (∃ o ∈ k.e0 ++ k.e1 ++ k.e2 ++ k.e3, o.op = 0x10 ∧ o.xtra % 16 = g ∧ o.agent < m.agent) → exec (.commandStart core q) s = .next s)
  ∧ (m.phase = .moved → dirtyOf u c m.agent = false → (C.drain = false ∨ m.nc = true) → ∃ t, exec (.commandComplete core q) s = .next t ∧ Ends u t m.value)
  ∧ (m.phase = .moved → dirtyOf u c m.agent = true → exec (.commandComplete core q) s = .next u)
  ∧ (dirtyOf s c m.agent = false → u = s)
  ∧ (m.phase = .running → haloDone s core m = true → (C.drain = false ∨ m.nc = true) → ∃ t, exec (.commandComplete core q) s = .next t ∧ Ends s t (haloExp m)
      ∧ (getGroup t core g).inb = G.inb - haloExp m ∧ (getGroup t core g).wait = false)
  ∧ (m.phase = .running → bindDone s core m = true → (C.drain = false ∨ m.nc = true) → ∃ t, exec (.commandComplete core q) s = .next t ∧ Ends s t 0)

/-! ### The bridge and the helm (R22, R25–R42, R391) -/

/-- R28: a 64-byte write to offset 0 of a submit window with a free place is the queue's newest record; any other write, one without
a free place and one before power-up ends only sets DISCARD. R27: a store to QCFG sets EN; OWNER and PRIO change only while the queue
is disabled with no live record, and a write of them at another time is discarded and sets CFGERR.
R29, R31–R33, R37: the helm reads the oldest record of a queue, gives it the next sequence number and checks it; a record that
breaks a rule is rejected with that rule's reason, a CREW, GANG, VOYAGE or STREAM that breaks none is accepted. One entry goes into the
logbook. A GRAPH, whose array is read at once, is read when what happens before it is at its homes (R224). The model's own choices in it: log 16, 40 and 41. -/
def Obligations.QueuesAndRecords : Prop :=
  (∀ (s : State) (queue : BitVec 8) (off : BitVec 12) (size : Nat) (rec : Words8) (v : Word),
    let q := getQueue s queue
    let prio := v.extractLsb' 58 2
    let owner := v.extractLsb' 32 12
    let good := size = 64 ∧ off = 0 ∧ q.fifo.length < 64 ∧ s.board.phase = .running
    let Only := fun (x : Instr) (q' : QueueState) => ∃ t, exec x s = .next t ∧ getQueue t queue = q' ∧ (∀ p, p ≠ queue → getQueue t p = getQueue s p)
      ∧ t = { s with queues := t.queues }
    (good → Only (.submitRecord queue off size rec) { q with fifo := q.fifo ++ [rec], fifoClk := q.fifoClk ++ [fencedClock s] })
    ∧ (¬good → Only (.submitRecord queue off size rec) { q with discard := true })
    ∧ (q.en = false → queueLive s queue = false → Only (.qcfgWrite queue v) { q with en := v.getLsbD 63, prio := prio, owner := owner })
    ∧ (q.en = true ∨ queueLive s queue = true →
        Only (.qcfgWrite queue v) { q with en := v.getLsbD 63, cfgErr := true }))
  ∧ (∀ (s : State) (queue : BitVec 8) (w : Words8) (rest : List Words8),
    let q := getQueue s queue
    let k := bits w.w0 63 60
    let seq := s.helm.nextSeq
    let e := readReason s q w
    let home := allHome s (Clock.join (pilotClock s) (q.fifoClk.headD []))
    let Reads := fun (x : Instr) (p : RecPhase) => ∃ t r, exec x s = .next t ∧ AMap.find t.records seq = some r ∧ r.phase = p ∧ r.reason = (if p = .rejected then e else 0)
      ∧ r.words = w ∧ r.queue = queue ∧ r.owner = q.owner ∧ r.prio = q.prio ∧ r.parent = seq ∧ r.index = 0xFFF ∧ (∀ j, j ≠ seq → AMap.find t.records j = AMap.find s.records j)
      ∧ t.helm.nextSeq = seq + 1 ∧ (getQueue t queue).fifo = rest ∧ (getQueue t queue).lastSeq = BitVec.ofNat 48 seq ∧ t.helm.logHead = s.helm.logHead + 1
      ∧ t.bytesAt 32 (s.helm.logBase.toNat * 4096 + 32 * (s.helm.logHead.toNat % 2 ^ s.helm.logSize.toNat)) = (logEntry s r r.phase r.reason r.index 0).bytes
    Inv s → q.fifo = w :: rest → s.board.phase = .running → helmRuns s = true → (∀ x ∈ s.records, x.2.phase.final = true) →
    (k = 0 → Reads (.crew queue) (if e = 0 then .accepted else .rejected)) ∧ (k = 1 → Reads (.gang queue) (if e = 0 then .accepted else .rejected))
    ∧ (k = 2 → Reads (.voyage queue) (if e = 0 then .accepted else .rejected)) ∧ (k = 3 → Reads (.stream queue) (if e = 0 then .accepted else .rejected))
    ∧ (k = 4 → e ≠ 0 → Reads (.wait queue) .rejected) ∧ (k = 5 → e ≠ 0 → home = true → Reads (.graph queue) .rejected)
    ∧ (k = 5 → home = false → exec (.graph queue) s = .next s)
    ∧ (6 ≤ k → e ≠ 0 ∧ Reads (.unknownKind queue) .rejected))

/-- R36, R38: an accepted WAIT whose slot has reached its target completes at once, and runs while it has not. R34: the helm reads the
array of a GRAPH, nested ones when they start; an array it cannot read or that breaks a rule ends the GRAPH, else its records are accepted in
index order under the next sequence numbers. The model's own choices in it: log 16 and 41. -/
def Obligations.WaitsAndGraphs : Prop := ∀ (s : State) (queue : BitVec 8) (w : Words8) (rest : List Words8) (seq : Nat) (r : RecordState)
    (l : List Words8) (e : BitVec 8) (i : BitVec 12),
  let q := getQueue s queue
  let new := s.helm.nextSeq
  let u := setQueue { s with helm := { s.helm with nextSeq := new + 1, pilotClk := Clock.join s.helm.pilotClk (q.fifoClk.headD []) } } queue
    { q with fifo := rest, fifoClk := q.fifoClk.tail, lastSeq := BitVec.ofNat 48 new }
  let home := allHome s (Clock.join (pilotClock s) (q.fifoClk.headD [])) = true
  let slot := AMap.getD (getOwner s q.owner).slots (bits w.w1 63 58) 0
  let reached := (slot - w.w1.setWidth 32).toNat < 2 ^ 31
  let Array := fun (t : State) (g first : Nat) => (∃ x, AMap.find t.records g = some x ∧ x.arrayBase = some first ∧ x.arrayLen = l.length)
    ∧ t.helm.nextSeq = first + l.length ∧ ∀ j c, l[j]? = some c → ∃ x, AMap.find t.records (first + j) = some x ∧ x.words = c ∧ x.parent = g ∧ x.index = BitVec.ofNat 12 j
  Inv s → helmRuns s = true →
  (q.fifo = w :: rest → s.board.phase = .running → readReason s q w = 0 → (∀ x ∈ s.records, x.2.phase.final = true) →
    (bits w.w0 63 60 = 4 → s.helm.heldBack = [] → (s.helm.logHead - s.helm.logTail).toNat + 4 ≤ 2 ^ s.helm.logSize.toNat →
      ∃ t x, exec (.wait queue) s = .next t ∧ AMap.find t.records new = some x ∧ x.words = w ∧ x.reason = 0
        ∧ (reached → x.phase = .completed) ∧ (¬reached → x.phase = .running))
    ∧ (bits w.w0 63 60 = 5 → home → readArray u q.owner w 0 = .inr (e, i) → ∃ t x, exec (.graph queue) s = .next t ∧ AMap.find t.records new = some x
        ∧ x.phase = .rejected ∧ x.reason = e ∧ x.words = w)
    ∧ (bits w.w0 63 60 = 5 → home → readArray u q.owner w 0 = .inl l → ∃ t, exec (.graph queue) s = .next t ∧ Array t new (new + 1)))
  ∧ (AMap.find s.records seq = some r → r.kind = 5 → r.arrayBase = none → startable s r = true → allHome s (pilotClock s) = true →
    (readArray s r.owner r.words r.level = .inr (e, i) → ∃ t x, exec (.nestedGraphStart seq) s = .next t ∧ AMap.find t.records seq = some x
      ∧ x.phase = .faulted ∧ x.reason = e)
    ∧ (readArray s r.owner r.words r.level = .inl l → ∃ t, exec (.nestedGraphStart seq) s = .next t ∧ Array t seq new))

/-- R39: an abort of a record, or of its queue, stops its work, threads, voyage and section, and that of the records of its array, and marks
them for state aborted with reason 0x31; ABORTED_ENTRY moves the record to it when its accesses are done. R41: LOGTAIL moves within its window
only, and an entry that waits is written when that frees a slot. R42: a snapshot appends an entry of type 1 for the one record that is not
final, then the end entry, with the next sequence number. The model's own choices in it: log 39, 42 and 43. -/
def Obligations.LogbookAndAborts : Prop := ∀ (s : State) (seq : Nat) (r : RecordState) (v : Word) (p : RecPhase) (e : BitVec 8) (x : LogEntry),
  let room := (s.helm.logHead - s.helm.logTail).toNat
  let size := 2 ^ s.helm.logSize.toNat
  let slot := fun (n : BitVec 32) => s.helm.logBase.toNat * 4096 + 32 * (n.toNat % size)
  let Marked := fun (t : State) (q : Nat) (a : RecordState) =>
    ∃ y, AMap.find t.records q = some y ∧ y.words = a.words ∧ y.ending = some (.aborted, 0x31)
  let Stopped := fun (i : Instr) => ∃ t, exec i s = .next t ∧ Marked t seq r
    ∧ (∀ q a, q ∈ childrenOf s seq → AMap.find s.records q = some a → a.phase.final = false → a.ending = none → Marked t q a)
    ∧ (∀ j w, (getThread s j).live = true → getCrew s (getThread s j).crew = some w → w.record = seq → (getThread t j).stopped = true)
    ∧ (∀ c v, (getCluster t c).voyage = some v → v.record ≠ some seq) ∧ ∀ c, ∀ i ∈ (getCluster t c).images, i.2.launch ≠ some seq
  let tail : BitVec 32 := v.setWidth 32
  Inv s →
  (AMap.find s.records seq = some r → r.phase.final = false → r.ending = none → seq < 2 ^ 48 → Stopped (.abortRecord seq) ∧ Stopped (.abortQueue r.queue))
  ∧ (AMap.find s.records seq = some r → r.ending = some (p, e) → p.final = true → r.phase.final = false → workStopped s seq = true →
      (childrenOf s seq).all (isFinal s) = true → (crewsOf s seq).all (crewQuiet s) = true → mayChange s (.record seq) = true →
      ∃ t y, exec (.abortedEntry seq) s = .next t ∧ AMap.find t.records seq = some y ∧ y.phase = p ∧ y.reason = e ∧ y.words = r.words)
  ∧ ((s.helm.logHead - tail).toNat ≤ size → ∃ t, exec (.logtailWrite v) s = .next t ∧ t.helm.logTail = tail)
  ∧ ((s.helm.logHead - tail).toNat < size → s.helm.waiting = [x] → s.helm.snap = false → (∀ y ∈ s.records, y.2.phase.final = true) →
      ∃ t, exec (.logtailWrite v) s = .next t ∧ t.helm.logTail = tail ∧ t.helm.waiting = [] ∧ t.helm.logHead = s.helm.logHead + 1
        ∧ t.bytesAt 32 (slot s.helm.logHead) = x.bytes)
  ∧ (size < (s.helm.logHead - tail).toNat → exec (.logtailWrite v) s = .next s)
  ∧ (s.helm.snap = false → s.helm.waiting = [] → room + 2 ≤ size → liveRecords s = [seq] → AMap.find s.records seq = some r → r.phase.final = false →
      ∃ t, exec .snap s = .next t ∧ t.helm.snap = false ∧ t.helm.logHead = s.helm.logHead + 2 ∧ t.records = s.records
        ∧ t.bytesAt 32 (slot s.helm.logHead) = (logEntry s r r.phase r.reason r.index 1).bytes
        ∧ ofBytes (t.bytesAt 8 (slot (s.helm.logHead + 1))) % 16 = 2
        ∧ ofBytes (t.bytesAt 8 (slot (s.helm.logHead + 1))) / 2 ^ 16 = s.helm.nextSeq % 2 ^ 48)
  ∧ (s.helm.snap = true → exec .snap s = .next s)

/-! ### What the bridge reaches: accesses, owners, answers (R21, R22, R25, R26, R43–R48, R85, R86, R110, R119, R391) -/

/-- R25: registers that software may write read back what was written, but for their reserved bits, and a write to an unassigned offset
is discarded. R26, R391: an aperture access that its owner's tables allow reads or writes exactly its bytes; one that fails sets AFAULT, reads
all ones and writes nothing. R22, R16: so for a PCIe request of any size through a window of an enabled port, word by word of those it
touches (R223), and a request to the other port, at a disabled port, of a size beyond the limits or with a part that its tables refuse does nothing.
R47: so for a get, put or integer addition of another module. The model's own choices in it: log 44, 45 and 46. -/
def Obligations.BridgeAccesses : Prop := ∀ (s : State) (v : Word) (n : Nat) (ap : BitVec 8) (off : BitVec 36) (o : BitVec 12) (va : Word) (key : Nat)
    (src : BitVec 3) (port : BitVec 1) (keys : List Nat) (data : List Byte),
  let c := AMap.getD s.helm.apertures ap.toNat 0
  let ao : BitVec 12 := c.extractLsb' 51 12
  let ava := apertureVa c off
  let clean := fun (x : BitVec 12) (a : Word) => poisoned s key n = false ∧ lineForeign s key (keyOf s x) (bits a 54 6) = false
  let value := BitVec.ofNat 64 (ofBytes (s.bytesAt n key))
  let Writes := fun (a : Nat) (m : Word) => ∃ t, exec (.registerWrite (BitVec.ofNat 48 a) v) s = .next t ∧ readRegister t a = v &&& m
  let Reads := fun (x : Instr) => ∃ t, exec x s = .next t ∧ t.accessOk = true ∧ t.readData = value ∧ SameMem s t ∧ t.threads = s.threads
  let Puts := fun (x : Instr) (bs : List Byte) => ∃ t, exec x s = .next t ∧ t.accessOk = true ∧ Stored key bs s t ∧ t.threads = s.threads
  let Fails := fun (x : Instr) => ∃ t, exec x s = .next t ∧ t.accessOk = false ∧ SameMem s t ∧ t.threads = s.threads
  let parts := wordParts 514 va n
  let Parts := fun (w : Want) => keys.length = parts.length ∧ ∀ e ∈ parts.zip keys, outerReach s o e.1.1 e.1.2 w pteApt = some (.home e.2 none)
    ∧ poisoned s e.2 e.1.2 = false ∧ lineForeign s e.2 (keyOf s o) (bits e.1.1 54 6) = false
  let Apart := (parts.zip keys).Pairwise fun a b => (a.2 + a.1.2 ≤ b.2 ∨ b.2 + b.1.2 ≤ a.2) ∧ (a.2 / 64 = b.2 / 64 → bits a.1.1 54 6 = bits b.1.1 54 6)
  (Writes 0x8000200040 0xFFFFFFFFFFFF ∧ Writes 0x8000200048 0xFFFFFFFF ∧ Writes 0x8000200060 0xFFFFFFFFFFFF0000 ∧ Writes 0x8000200068 0xFFFFFFFF
    ∧ Writes 0x8000200100 0xFFFFFFFFFFFF ∧ Writes (0x8000200800 + 8 * ap.toNat) 0xFFFFFFF800000000 ∧ Writes 0x8000300008 0x3FFFFFF0000
    ∧ Writes 0x8000400000 0xFFFFFFFFFFFFF000 ∧ Writes (0x8000100010 + 64 * ap.toNat) (BitVec.allOnes 64)
    ∧ exec (.registerWrite 0x8000200038 v) s = .next s ∧ exec (.registerWrite 0x8000700000 v) s = .next s)
  ∧ (bitAt c 63 = true → scalarAccess ava n = true → clean ao ava →
      (outerReach s ao ava n .read pteApt = some (.home key none) → Reads (.apertureAccess ap off n false v))
      ∧ (Inv s → outerReach s ao ava n .write pteApt = some (.home key none) ∨ outerReach s ao ava n .write pteApt = some (.cached key none) →
          Puts (.apertureAccess ap off n true v) (bytesOf n v.toNat)))
  ∧ (∀ wr, bitAt c 63 = false ∨ scalarAccess ava n = false ∨ outerReach s ao ava n (if wr then .write else .read) pteApt = none →
      ∃ t, exec (.apertureAccess ap off n wr v) s = .next t ∧ t.helm.afault = true ∧ t.accessOk = false ∧ SameMem s t
        ∧ (wr = false → t.readData = BitVec.ofNat 64 (2 ^ (8 * n) - 1)))
  ∧ (portDisabled s port = false → pcieSize n false [] = true → Parts .read →
      ∃ t, exec (.pcieRequest port false o va n false data) s = .next t ∧ t.accessOk = true ∧ SameMem s t ∧ t.threads = s.threads
        ∧ t.readBytes = (parts.zip keys).flatMap fun e => s.bytesAt e.1.2 e.2)
  ∧ (portDisabled s port = false → pcieSize n true data = true → Parts .write → Apart → Inv s →
      ∃ t, exec (.pcieRequest port false o va n true data) s = .next t ∧ t.accessOk = true ∧ t.threads = s.threads
        ∧ (∀ e ∈ parts.zip keys, t.bytesAt e.1.2 e.2 = (data.drop (e.1.1 - va).toNat).take e.1.2)
        ∧ ∀ a, (∀ e ∈ parts.zip keys, a < e.2 ∨ e.2 + e.1.2 ≤ a) → t.byteAt a = s.byteAt a)
  ∧ (∀ wr other, other = true ∨ portDisabled s port = true ∨ pcieSize n wr data = false
        ∨ (∃ p ∈ parts, outerReach s o p.1 p.2 (if wr then .write else .read) pteApt = none) → Fails (.pcieRequest port other o va n wr data))
  ∧ (clean o va →
      (meridianReach s src o va n .read = some (.home key none) → Reads (.meridianAccess 0 src o va n v))
      ∧ (Inv s → meridianReach s src o va n .write = some (.home key none) → Puts (.meridianAccess 1 src o va n v) (bytesOf n v.toNat))
      ∧ (Inv s → (n = 4 ∨ n = 8) → meridianReach s src o va n .both = some (.home key none) →
          Puts (.meridianAccess 2 src o va n v) (bytesOf n (ofBytes (s.bytesAt n key) + v.toNat))))
  ∧ (meridianReach s src o va n .read = none → Fails (.meridianAccess 0 src o va n v))

/-- R43, R45–R48: what each command of OWNCMD does when it ends well, with result 0; a failing one answers with its result and changes no
owner; while one is under way no other has effect. Creation draws a key pair; a retiring owner's records are marked aborted, and it is
gone when nothing of it is left. A key transfer needs a path to its peer, fails after 100 ms, and when the matching command arrives gives
the joiner the exporter's key pair, its mask and the exporter. The model's own choices in it: log 47, 48 and 83. -/
def Obligations.OwnerCommands : Prop := ∀ (s : State) (o : BitVec 12) (modes : BitVec 6) (slot : BitVec 6) (v : BitVec 32) (peer : BitVec 3) (op : BitVec 4)
    (r : BitVec 3) (k : KeyTransfer) (msg : Word),
  let w := getOwner s o
  let Ends := fun (t : State) (x : BitVec 3) => t.own.busy = false ∧ t.own.result = x ∧ t.own.statOwner = o
  let Fails := fun (x : Instr) (e : BitVec 3) => ∃ t, exec x s = .next t ∧ Ends t e ∧ t.own.owners = s.own.owners
  let Starts := fun (x : Instr) (j : Bool) => ∃ t y, exec x s = .next t ∧ t.own.busy = true ∧ t.own.transfer = some y ∧ y.isJoin = j ∧ y.owner = o ∧ y.peer = peer
    ∧ y.began = s.board.refclk ∧ t.own.owners = s.own.owners
  (s.own.busy = false → op = 0 ∨ 6 < op.toNat → Fails (.badOp op o) 1)
  ∧ (s.own.busy = false → createFault s o modes = none →
      (∃ t, exec (.ownerCreate o modes) s = .next t ∧ Ends t 0 ∧ t.board.keysDrawn = s.board.keysDrawn + 1 ∧ (∀ q, q ≠ o → getOwner t q = getOwner s q)
        ∧ getOwner t o = { phase := .live, root := s.own.ownArg.extractLsb' 16 26, modes := modes, key := some (s.board.keysDrawn + 1), peers := 0, slots := [] })
      ∧ (pathTo s peer.toNat = true → Starts (.join o modes peer) true) ∧ (pathTo s peer.toNat = false → Fails (.join o modes peer) 5))
  ∧ (s.own.busy = false → createFault s o modes = some r → Fails (.ownerCreate o modes) r ∧ Fails (.join o modes peer) r)
  ∧ (s.own.busy = false → w.phase = .live →
      (modes.getLsbD 3 = true → ∃ t, exec (.setModes o modes) s = .next t ∧ Ends t 0 ∧ getOwner t o = { w with modes := modes } ∧ ∀ q, q ≠ o → getOwner t q = getOwner s q)
      ∧ ((∀ x ∈ s.records, x.2.phase.final = true) → ∃ t, exec (.setEventSlot o slot v) s = .next t ∧ Ends t 0
          ∧ getOwner t o = { w with slots := AMap.set w.slots slot.toNat v } ∧ ∀ q, q ≠ o → getOwner t q = getOwner s q)
      ∧ (∃ t, exec (.ownerRetire o) s = .next t ∧ t.own.busy = true ∧ t.own.statOwner = o ∧ (getOwner t o).phase = .retiring
          ∧ ∀ q x, AMap.find s.records q = some x → x.owner = o → x.phase.final = false → x.ending = none →
              ∃ y, AMap.find t.records q = some y ∧ y.ending = some (.aborted, 0x33))
      ∧ (pathTo s peer.toNat = true → Starts (.ownerExport o peer) false) ∧ (pathTo s peer.toNat = false → Fails (.ownerExport o peer) 5))
  ∧ (s.own.busy = false → modes.getLsbD 3 = false → Fails (.setModes o modes) 2)
  ∧ (s.own.busy = false → existFault s o = some r → Fails (.setEventSlot o slot v) r ∧ Fails (.ownerRetire o) r ∧ Fails (.ownerExport o peer) r)
  ∧ (s.own.busy = true → w.phase = .retiring → s.own.statOwner = o → ownerRecords s o = [] → ownerClusters s o = [] →
      ∃ t, exec (.ownerRetire o) s = .next t ∧ Ends t 0 ∧ getOwner t o = {})
  ∧ (s.own.busy = true → exec (.ownerCreate o modes) s = .next s ∧ exec (.setModes o modes) s = .next s ∧ exec (.setEventSlot o slot v) s = .next s
      ∧ exec (.ownerExport o peer) s = .next s ∧ exec (.join o modes peer) s = .next s ∧ exec (.badOp op o) s = .next s)
  ∧ (s.own.transfer = some k → k.owner = o → k.began + 10000000 ≤ s.board.refclk →
      ∃ t, exec .keyTransferTimeout s = .next t ∧ Ends t 5 ∧ t.own.transfer = none ∧ t.own.owners = s.own.owners)
  ∧ (s.own.transfer = some k → k.owner = o → k.peer = peer →
      ∃ t, exec (.meridianAccess 3 peer o 0 0 msg) s = .next t ∧ Ends t 0 ∧ t.own.transfer = none
        ∧ (∀ q, q ≠ o → getOwner t q = getOwner s q)
        ∧ (k.isJoin = true → (getOwner t o).phase = .live ∧ (getOwner t o).modes = k.modes
            ∧ (getOwner t o).key = some (keyName s (bits msg 10 8) (bits msg 63 11))
            ∧ (getOwner t o).peers = msg.setWidth 8 ||| BitVec.ofNat 8 (2 ^ peer.toNat))
        ∧ (k.isJoin = false → getOwner t o = { w with peers := w.peers ||| BitVec.ofNat 8 (2 ^ peer.toNat) }))

/-- R44: an answer is taken by the posted request whose word 0 it repeats; one that repeats none sets the sticky bit. What each kind of
answer changes: R85 a deferral, R204 an image's place, R86 ordered moves, in the order of their words, R110 a larger spill area, R119 a reload. REQTAIL moves within its
window, and a held request is then written into the ring. The model's own choices in it: log 44, 53 and 86. -/
def Obligations.HostAnswers : Prop := ∀ (s : State) (rec : Words8) (q : HostRequest) (seq crew c id e : Nat) (r : RecordState) (w : Crew) (o fid : BitVec 12)
    (sv : Nat) (i : Image) (l : ImageLoad) (v : Word) (h : HostRequest),
  let fn := bits rec.w0 63 60
  let left := s.req.posted.filter fun x => x.reqId != q.reqId
  let Taken := fun (t : State) => t.req.posted = left ∧ t.req.badAns = s.req.badAns
  let Bad := fun (x : Instr) => ∃ t, exec x s = .next t ∧ t = { s with req := { s.req with badAns := true } }
  let cl := getCluster s c
  let tail : BitVec 32 := v.setWidth 32
  let slot := s.req.reqBase.toNat + 64 * (s.req.reqHead.toNat % 2 ^ s.req.reqSize.toNat)
  ((∀ x ∈ s.req.posted, x.body.w0 ≠ rec.w0) → Bad (.answerCrewPlacement rec) ∧ Bad (.answerImagePlacement rec) ∧ Bad (.answerTierMigration rec)
    ∧ Bad (.answerSpill rec) ∧ Bad (.answerTwinReload rec))
  ∧ (s.req.posted.find? (fun x => x.body.w0 == rec.w0) = some q →
    (fn = 0 → q.need = .crewPlacement seq crew → Inv s → AMap.find s.records seq = some r → bitAt rec.w1 63 = true →
      (r.kind = 0 →
        ∃ t, exec (.answerCrewPlacement rec) s = .next t ∧ Taken t ∧ AMap.find t.records seq = some { r with deferredAt := some (capacity s) })
      ∧ (r.kind = 1 → (∃ j, j < crewCount r.words ∧ j ≠ crew ∧ AMap.find r.named j = none) →
        ∃ t, exec (.answerCrewPlacement rec) s = .next t ∧ Taken t
          ∧ AMap.find t.records seq = some { r with named := AMap.set r.named crew deferredCluster }))
    ∧ (fn = 1 → q.need = .imagePlacement c o fid → bitAt rec.w1 62 = false → bitAt rec.w1 63 = false → cl.loads = [l] → l.fid = fid →
      ∃ t, exec (.answerImagePlacement rec) s = .next t ∧ Taken t ∧ (getCluster t c).loads
        = [{ l with place := some (bits rec.w1 7 4, bits rec.w1 2 0, bits rec.w2 7 4, bits rec.w2 2 0), deferred := false }])
    ∧ (fn = 2 → q.need = .tierMigration o → ∃ t, exec (.answerTierMigration rec) s = .next t ∧ Taken t
        ∧ t.moves = s.moves ++ [rec.w1, rec.w2, rec.w3, rec.w4, rec.w5, rec.w6].filterMap (orderedMove s o))
    ∧ (fn = 4 → q.need = .spill seq crew → s.crews.find? (fun x => x.2.record == seq && x.2.index == crew) = some (id, w) → w.spillCur < bits rec.w1 31 0 →
      ∃ t, exec (.answerSpill rec) s = .next t ∧ Taken t ∧ getCrew t id = some { w with spillCur := bits rec.w1 31 0 })
    ∧ (fn = 5 → q.need = .twinReload c fid sv → resident s c fid = some (e, i) → i.reload = 1 → i.evPend = false →
      ∃ t, exec (.answerTwinReload rec) s = .next t ∧ Taken t ∧ resident t c fid = some (e, { i with reload := 2 })))
  ∧ ((s.req.reqHead - tail).toNat < 2 ^ s.req.reqSize.toNat → Inv s →
      (s.req.held = [] → ∃ t, exec (.reqtailWrite v) s = .next t ∧ t.req.reqTail = tail ∧ t.req.reqHead = s.req.reqHead ∧ SameMem s t)
      ∧ (s.req.held = [h] → ∃ t, exec (.reqtailWrite v) s = .next t ∧ t.req.reqTail = tail ∧ t.req.reqHead = s.req.reqHead + 1 ∧ t.req.held = []
          ∧ t.req.posted = s.req.posted ++ [h] ∧ t.bytesAt 64 slot = words8Bytes h.body))
  ∧ (2 ^ s.req.reqSize.toNat < (s.req.reqHead - tail).toNat → exec (.reqtailWrite v) s = .next s)

/-! ### Translation and faults (R92–R101, R139, R392) -/

/-- R100: a TLB invalidation removes the entries that its scope names from every TLB and no other entry, and INVBUSY is set until every
access that was issued before it through such an entry is performed; a write while one is in progress is discarded. R95: a read of DROPCNT returns the count and
clears it.
R98, R392: REPLAY takes every fault entry of the owner away and walks again for its waiters. R99: DECLINE takes the owner's fault entry for a
page away, and a thread that waited on it traps with cause 0x04 at its parked instruction; a page without an entry changes nothing. The model's own choices in it: log 49, 50 and 83. -/
def Obligations.InvalidationReplayAndDecline : Prop :=
  (∀ (s : State) (o : BitVec 12) (page : BitVec 39) (die : BitVec 3),
    let Removes := fun (x : Instr) (hit : TlbEntry → Bool) => ∃ t, exec x s = .next t ∧ t.inv.invBusy = true
      ∧ (∀ c, (getCluster t c).l1 = (getCluster s c).l1.filter fun e => !hit e) ∧ (∀ d, (getDie t d).l2 = (getDie s d).l2.filter fun e => !hit e)
      ∧ t.threads = s.threads ∧ SameMem s t
    let d := getDie s die.toNat
    (s.inv.invBusy = false → Removes (.tlbinvPage o page) (fun e => e.hits o page.toNat) ∧ Removes (.tlbinvOwner o) (fun e => e.owner == o)
      ∧ Removes .tlbinvAll (fun _ => true))
    ∧ (s.inv.invBusy = true → exec (.tlbinvPage o page) s = .next s ∧ exec (.tlbinvOwner o) s = .next s ∧ exec .tlbinvAll s = .next s)
    ∧ (s.inv.invBusy = true → accessesWait s = false →
        ∃ t, exec .invalidationDone s = .next t ∧ t.inv = { s.inv with invBusy := false } ∧ t = { s with inv := t.inv })
    ∧ (accessesWait s = true → exec .invalidationDone s = .next s)
    ∧ (∃ t, exec (.dropcntRead die) s = .next t ∧ t.readData = d.dropCnt.setWidth 64 ∧ getDie t die.toNat = { d with dropCnt := 0 }
        ∧ (∀ k, k ≠ die.toNat → getDie t k = getDie s k) ∧ t.threads = s.threads ∧ SameMem s t))
  ∧ (∀ (s : State) (o : BitVec 12) (page : BitVec 39) (die t : Nat) (f : FaultEntry) (va : Word) (kind : BitVec 4),
    let th := getThread s t
    (s.inv.repBusy = false → s.inv.repQ = [] → (∀ k, k < 8 → (getDie s k).missQ = []) →
      ∃ u, exec (.replay o) s = .next u ∧ u.inv.replay = o ∧ (∀ k, k < 8 → ∀ g ∈ (getDie u k).faults, g.owner ≠ o)
        ∧ (∀ k, k < 8 → ∀ g ∈ (getDie s k).faults, g.owner = o → ∀ w ∈ g.waiters, ∃ x ∈ (getDie u k).walks ++ (getDie u k).missQ, w ∈ x.waiters)
        ∧ ((∀ e ∈ s.clusters, ∀ i ∈ e.2.images, i.2.evPend = false) → SameMem s u))
    ∧ (s.inv.repBusy = true → s.inv.repQ.length < 4096 → o ∉ s.inv.repQ →
        ∃ u, exec (.replay o) s = .next u ∧ u.inv.repQ = s.inv.repQ ++ [o] ∧ u.inv.repClks = s.inv.repClks ++ [fencedClock s] ∧ u = { s with inv := u.inv })
    ∧ (die < 8 → (∀ k, k < 8 → k ≠ die → ∀ g ∈ (getDie s k).faults, ¬(g.owner = o ∧ g.page = page.toNat)) → (getDie s die).missQ = [] →
        s.inv.repBusy = false → (getDie s die).faults = [f] → f.owner = o → f.page = page.toNat → f.waiters = [{ who := .thread t, va := va, kind := kind }] →
        th.park = .fault → th.ih = false → th.stopped = false →
        ∃ u, exec (.decline o page) s = .next u ∧ (getDie u die).faults = [] ∧ (getThread u t).tcause = 4 ∧ (getThread u t).tval = va
          ∧ (getThread u t).tepc = th.pc ∧ (getThread u t).pc = th.tvec ∧ (getThread u t).park = .none ∧ (∀ j, j ≠ t → getThread u j = getThread s j) ∧ SameMem s u)
    ∧ ((∀ k, k < 8 → (getDie s k).faults = []) → s.inv.repBusy = false → ∃ u, exec (.decline o page) s = .next u ∧ u = { s with inv := u.inv }))

/-- R94–R97, R101: a walk for one thread that ends in a leaf fills the die's L2 TLB and lets the thread execute again; one that ends in a page fault
becomes a fault entry with a record in the buffer, or counts a dropped one; one that ends in an access fault traps the thread with cause 0x03.
R139: an instruction-cache line that arrives lets its threads fetch. The model's own choices in it: log 50 and 51. -/
def Obligations.WalksEnd : Prop := ∀ (s : State) (die : BitVec 3) (o : BitVec 12) (page : BitVec 39) (k : Walk) (t : Nat) (va : Word) (kind : BitVec 4)
    (pte : Word) (big : Bool) (level core line : Nat) (rest : List Nat) (bs b8 : List Byte) (bad : Bool),
  let d := getDie s die.toNat
  let th := getThread s t
  let r := (dieWalk s die.toNat o va).1
  let f : FaultEntry := { owner := o, page := page.toNat, va := va, kind := kind, waiters := [{ who := .thread t, va := va, kind := kind }] }
  let at_ := d.fbBase.toNat * 4096 + 32 * (d.fbHead.toNat % 2 ^ d.fbSize.toNat)
  let x := Instr.walkComplete die o page
  (d.walks.find? (fun w => w.owner == o && w.page == page.toNat) = some k → k.owner = o → k.page = page.toNat → k.va = va → k.waiters = f.waiters →
    d.missQ = [] → s.inv.repBusy = false → th.park = .fault → th.stopped = false →
    (r = .leaf pte big → d.l2.length < 32768 → ∃ u e, exec x s = .next u ∧ e ∈ (getDie u die.toNat).l2 ∧ e.owner = o ∧ e.pte = pte ∧ e.big = big
        ∧ e.hits o page.toNat = true ∧ getThread u t = { th with park := .none } ∧ SameMem s u)
    ∧ (r = .pageFault level → Inv s → d.faults.length < 4096 →
        (d.en = true → bufferFull d = false → ∃ u, exec x s = .next u ∧ f ∈ (getDie u die.toNat).faults ∧ (getDie u die.toNat).fbHead = d.fbHead + 1
          ∧ u.bytesAt 32 at_ = (recordWords s die.toNat f level).flatMap (fun w => bytesOf 8 w.toNat) ∧ u.threads = s.threads)
        ∧ (d.en = false ∨ bufferFull d = true → ∃ u, exec x s = .next u ∧ f ∈ (getDie u die.toNat).faults ∧ (getDie u die.toNat).dropCnt = d.dropCnt + 1
          ∧ (getDie u die.toNat).dropped = true ∧ SameMem s u ∧ u.threads = s.threads))
    ∧ (r = .accessFault → th.ih = false → ∃ u, exec x s = .next u ∧ (getThread u t).tcause = 3 ∧ (getThread u t).tval = va ∧ (getThread u t).tepc = th.pc
        ∧ (getThread u t).pc = th.tvec ∧ (getThread u t).park = .none ∧ SameMem s u))
  ∧ (fetchers s core line = t :: rest → (getCore s core).icache = [] →
      engineRead s (coreCluster core) none (ownerOf s t) th.clock (BitVec.ofNat 64 (line * 64)) 8 .exec = .got b8 bad →
      engineWords s (coreCluster core) none (ownerOf s t) th.clock .exec 8 (BitVec.ofNat 64 (line * 64)) [] false = .got bs false →
      ∃ u, exec (.icacheFill core line) s = .next u ∧ (getCore u core).icache = [{ line := line, words := lineWords 16 bs }]
        ∧ (∀ j ∈ t :: rest, (getThread u j).park = .none) ∧ (∀ j, j ∉ t :: rest → getThread u j = getThread s j) ∧ SameMem s u)

/-! ### The board, resets and the management port (R11, R13–R18, R20–R24, R51–R53, R117, R118) -/

/-- R17, R11: a cold reset, and a loss of V12_AUX, stop all activity, zeroise every owner's key and lose every SRAM and the logbook; the flash and
the fuses stay, the measurement registers are zero (R52), and the module is held in reset. R16, R18, R51: POWER_UP with boot mode 0 verifies a bank and waits for PWRGD_48 in step 3, or halts at
step 2; mode 1 is recovery, another mode halts at step 1; PWRGD_48 lets the sequence go on until the module runs, or until a HBM4 stack or UCIe link
that fails to train keeps the helm off. R17: a reset of the bridge cores leaves the device alone. The model's own choices in it: log 9, 10, 11, 73, 74 and 85. -/
def Obligations.ResetAndPowerUp : Prop := ∀ (s : State) (pins : BitVec 9) (dimms : List (Nat × Bool × Nat)) (rt : List (Option Nat)) (tf : Option Nat),
  let Cold := fun (x : Instr) => ∃ t, exec x s = .next t ∧ t.board.phase = .held ∧ t.threads = [] ∧ t.crews = [] ∧ t.cores = [] ∧ t.clusters = [] ∧ t.dies = []
    ∧ t.records = [] ∧ t.queues = [] ∧ t.helm = {} ∧ t.req = {} ∧ t.own = {} ∧ t.messages = [] ∧ t.posted = [] ∧ t.writes = [] ∧ t.full = []
    ∧ t.mem = memClear (s.mem.filter (fun c => globalKey c.1)) (s.helm.logBase.toNat * 4096) (s.helm.logBase.toNat * 4096 + 32 * 2 ^ s.helm.logSize.toNat)
    ∧ t.poison = s.poison.filter globalKey ∧ t.board.flash = s.board.flash ∧ t.board.fuseRevoked = s.board.fuseRevoked
    ∧ t.board.fuseMinVer = s.board.fuseMinVer ∧ t.board.fuseKeyHash = s.board.fuseKeyHash ∧ t.board.bankSel = s.board.bankSel
    ∧ ∀ n, AMap.getD t.board.measure n 0 = 0
  let mode := pins.toNat % 4
  let Ups := fun (p : PowerPhase) => ∃ t, exec (.powerUp pins dimms rt tf) s = .next t ∧ t.board.phase = p ∧ t.board.resetN = true ∧ t.board.straps.boot = pins.extractLsb' 0 2
    ∧ t.board.straps.slot = pins.extractLsb' 2 3 ∧ t.board.dimms = dimms ∧ t.board.retrains = rt ∧ t.board.pwrgd48 = s.board.pwrgd48 ∧ SameMem s t
  Cold .coldReset ∧ Cold .v12AuxLoss
  ∧ (s.board.phase = .held →
      (mode = 0 → bootBank s = none → Ups (.halted 2))
      ∧ (mode = 0 → (bootBank s).isSome = true → s.board.pwrgd48 = false → Ups (.powerUp 3))
      ∧ (mode = 1 → Ups (.powerUp 2)) ∧ (2 ≤ mode → Ups (.halted 1)))
  ∧ (s.board.phase ≠ .held → exec (.powerUp pins dimms rt tf) s = .next s)
  ∧ (s.board.phase = .powerUp 3 → s.board.trainFail = none →
      ∃ t, exec .pwrgd48 s = .next t ∧ t.board.phase = .running ∧ t.board.pwrgd48 = true ∧ t.board.v48On = true ∧ t.helm.isOpen = true
        ∧ (ddrLegal s.board = true → t.board.tier2On = true) ∧ SameMem s t)
  ∧ (∀ n, s.board.phase = .powerUp 3 → s.board.trainFail = some n → n < 64 →
      ∃ t, exec .pwrgd48 s = .next t ∧ t.board.phase = .notStarted ∧ t.board.v48On = true ∧ t.board.events = s.board.events ++ [.trainFail n] ∧ t.helm = s.helm ∧ SameMem s t)
  ∧ exec .bridgeCoreReset s = .next { s with outside := s.outside.filter fun e => decide (64 ≤ e.1) }

/-- R13, R14: a sensor above 100 °C lowers its die's clock by one step of 105 MHz and reports it, one above 110 °C trips the module, whose management port
goes on; a 1 ms window above the
power limit lowers the compute dies' clocks by one step, one at or below it raises them. R21: a failing Meridian lane leaves two of four, then none.
R117, R118: a correctable error is counted for its die, an uncorrectable one poisons its word or line. The model's own choices in it: log 69, 70 and 85. -/
def Obligations.SensorsAndErrors : Prop := ∀ (s : State) (die temp watts : Nat) (port : BitVec 4) (loc : Nat) (v : MeridianPort),
  let b := s.board
  let steps := AMap.getD b.thermalSteps die 0
  let d := locationDie loc
  (b.phase ≠ .held → die < 9 →
    (100 < temp → temp ≤ 110 → ∃ t, exec (.sensorRead die [temp]) s = .next t ∧ AMap.getD t.board.thermalSteps die 0 = Nat.min (steps + 1) 10
      ∧ t.board.events = b.events ++ [.thermalStep die] ∧ AMap.getD t.board.sensors (die * 8) 0 = temp ∧ t = { s with board := t.board })
    ∧ (110 < temp → b.phase ≠ .tripped → ∃ t, exec (.sensorRead die [temp]) s = .next t ∧ t.board.phase = .tripped ∧ t.board.thermtripN = false ∧ t.threads = []
        ∧ t.own = {} ∧ t.board.events = b.events ++ [.thermalTrip die] ∧ (∀ n, AMap.getD t.board.measure n 0 = 0)
        ∧ AMap.getD t.board.sensors (die * 8) 0 = temp ∧ t.board.conns = b.conns)
    ∧ (95 ≤ temp → temp ≤ 100 → ∃ t, exec (.sensorRead die [temp]) s = .next t ∧ AMap.getD t.board.thermalSteps die 0 = steps
        ∧ AMap.getD t.board.sensors (die * 8) 0 = temp ∧ t = { s with board := t.board }))
  ∧ (∃ t, exec (.powerWindow watts) s = .next t ∧ t.board.inputPower = watts
      ∧ t.board.powerSteps = (if b.powerLimit < watts then Nat.min (b.powerSteps + 1) 10 else b.powerSteps - 1) ∧ t = { s with board := t.board })
  ∧ (AMap.find b.ports port.toNat = some v →
      (v.lanes = 4 → ∃ t, exec (.meridianLaneFailure port) s = .next t ∧ AMap.find t.board.ports port.toNat = some { lanes := 2 }
        ∧ t.board.events = b.events ++ [.laneDropped port.toNat] ∧ t = { s with board := t.board })
      ∧ (v.lanes = 2 → ∃ t, exec (.meridianLaneFailure port) s = .next t ∧ AMap.find t.board.ports port.toNat = some { lanes := 0 }
        ∧ t.board.events = b.events ++ [.portDown port.toNat] ∧ t = { s with board := t.board }))
  ∧ (∃ t, exec (.patrolScrub loc false) s = .next t ∧ AMap.getD t.board.correctedCnt d 0 = AMap.getD b.correctedCnt d 0 + 1 ∧ t = { s with board := t.board })
  ∧ (loc < 2 ^ 46 → inPrivate s (loc / 64 * 64) 64 = false →
      ∃ t, exec (.patrolScrub loc true) s = .next t ∧ (∀ x ∈ poisonExtent loc, x ∈ t.poison) ∧ (∀ x, x ∉ poisonExtent loc → (x ∈ t.poison ↔ x ∈ s.poison))
        ∧ t = { s with poison := t.poison })

/-- R24: a management client connects when its key is enrolled or the module booted for recovery; an unknown type answers status 1, a request of a client that may
not make it status 3; a request behind another of its connection waits, one beside a reset or selection of another connection is answered 4. What each request
of an enrolled client does, and its answer: R13, R14, R17, R52, R53. A UCIe link that fails to train again in a warm reset keeps the helm off (R18). The rights of
a connection are those of the moment it is made, and the bank that FIRMWARE_WRITE writes when none runs is the one not selected: the model's choice (log 82). The model's own choices in it: log 71, 72, 82 and 85. -/
def Obligations.ManagementRequests : Prop := ∀ (s : State) (conn : Nat) (q : Word) (key nonce : BitVec 256) (v : BitVec 32) (data : List Byte) (ty : BitVec 16)
    (m : Word) (c : MgmtConn),
  let b := s.board
  let Answers := fun (t : State) (status mtype : Nat) (body : List Byte) =>
    ({ conn := conn, seqNo := q, status := BitVec.ofNat 16 status, mtype := BitVec.ofNat 16 mtype, body := body } : MgmtReply) ∈ t.board.replies
      ∧ t = { s with board := t.board }
  let Does := fun (x : Instr) (mtype status : Nat) (body : List Byte) (then_ : State → Prop) => ∃ t, exec x s = .next t ∧ Answers t status mtype body ∧ then_ t
  let bank := 1 - (b.bankRunning.getD (b.bankSel.getD 0))
  (mgmtUp s = true → b.enrolledKeys.contains key = true ∨ b.straps.boot = 1 → b.conns.length < 4 → (∀ x ∈ b.conns, x.conn ≠ conn) →
    ∃ t x, exec (.managementConnection conn key) s = .next t ∧ x ∈ t.board.conns ∧ x.conn = conn ∧ x.enrolled = b.enrolledKeys.contains key ∧ t = { s with board := t.board })
  ∧ (4 ≤ m.toNat → m.toNat ≤ 7 → ∃ t, exec (.measurementExtend m) s = .next t ∧ t = { s with board := t.board }
      ∧ AMap.getD t.board.measure m.toNat 0 = Config.sha512 (bytesOf 64 (AMap.getD b.measure m.toNat 0).toNat ++ bytesOf 64 b.measureData.toNat))
  ∧ (b.conns.find? (fun x => x.conn == conn) = some c → mgmtUp s = true →
    (∀ i, b.mgmtBusy = some i → (busyConn i = some conn → exec (.telemetry conn q 0) s = .next (setConn s { c with waiting := c.waiting ++ [.telemetry conn q 0] }))
        ∧ (busyConn i ≠ some conn → c.waiting = [] → c.enrolled = true → Does (.setPowerLimit conn q 4 v) 2 4 [] fun t => t.board.powerLimit = b.powerLimit))
    ∧ (c.enrolled = false → c.waiting = [] → b.mgmtBusy = none → Does (.unknownType conn q ty) ty.toNat 3 [] (fun _ => True)
      ∧ Does (.setPowerLimit conn q 4 v) 2 3 [] (fun t => t.board.powerLimit = b.powerLimit) ∧ Does (.moduleReset conn q 0) 3 3 [] fun t => t.board.phase = b.phase)
    ∧ (c.enrolled = true → c.waiting = [] → b.mgmtBusy = none →
      Does (.unknownType conn q ty) ty.toNat 1 [] (fun _ => True)
      ∧ (∃ body, Does (.telemetry conn q 0) 1 0 body fun _ => body.length = 8 * 93 ∧ body.take 8 = bytesOf 8 b.inputPower)
      ∧ (2000 ≤ v.toNat → v.toNat ≤ 4200 → Does (.setPowerLimit conn q 4 v) 2 0 [] fun t => t.board.powerLimit = v.toNat)
      ∧ (v.toNat < 2000 ∨ 4200 < v.toNat → Does (.setPowerLimit conn q 4 v) 2 5 [] fun t => t.board.powerLimit = b.powerLimit)
      ∧ (v.toNat + data.length ≤ 2 ^ 25 → data.length ≤ 65532 → Does (.firmwareWrite conn q (4 + data.length) v data) 4 0 []
          fun t => t.board.flash = memSetN b.flash (bank * 2 ^ 25 + v.toNat) data)
      ∧ (Does (.attest conn q 32 nonce) 6 0 (attestBody s nonce ++ bytesOf 64 (Config.identitySign (attestBody s nonce)).toNat) fun t => t.board.measure = b.measure)
      ∧ (∃ body, Does (.events conn q 0) 7 0 body fun t => t.board.events = [] ∧ body.length = 8 * b.events.length)
      ∧ (b.straps.boot ≠ 1 → Does (.enrollClient conn q 32 key) 8 3 [] fun t => t.board.enrolledKeys = b.enrolledKeys)
      ∧ (b.straps.boot = 1 → 16 ≤ b.enrolledKeys.length → Does (.enrollClient conn q 32 key) 8 5 [] fun t => t.board.enrolledKeys = b.enrolledKeys)
      ∧ (b.straps.boot = 1 → b.enrolledKeys.contains key = false → b.enrolledKeys.length < 16 →
          Does (.enrollClient conn q 32 key) 8 0 [] fun t => t.board.enrolledKeys = b.enrolledKeys ++ [key])
      ∧ (v.toNat < 2 → ∃ t, exec (.firmwareSelect conn q 4 v) s = .next t ∧ t.board.mgmtBusy = some (.firmwareSelect conn q 4 v) ∧ t = { s with board := t.board })
      ∧ (b.phase = .running → ∃ t, exec (.moduleReset conn q 0) s = .next t ∧ t.board.phase = .powerUp 5 ∧ t.board.warmRunning = true
          ∧ t.board.mgmtBusy = some (.moduleReset conn q 0) ∧ t.threads = [] ∧ t.crews = [] ∧ t.own.owners = [] ∧ t.cores = []))
    ∧ (v.toNat < 2 → c.enrolled = true → b.mgmtBusy = some (.firmwareSelect conn q 4 v) →
          (bankGood s v.toNat = true → Does (.firmwareSelect conn q 4 v) 5 0 [] fun t => t.board.bankSel = some v.toNat ∧ t.board.mgmtBusy = none)
          ∧ (bankGood s v.toNat = false → Does (.firmwareSelect conn q 4 v) 5 3 [] fun t => t.board.bankSel = b.bankSel ∧ t.board.mgmtBusy = none))
    ∧ (b.warmRunning = true → b.mgmtBusy = some (.moduleReset conn q 0) → c.waiting = [] → b.trainFail = none →
        ∃ t, exec (.moduleReset conn q 0) s = .next t ∧ t.board.warmRunning = false ∧ t.board.mgmtBusy = none
          ∧ ({ conn := conn, seqNo := q, status := 0, mtype := 3, body := [] } : MgmtReply) ∈ t.board.replies
          ∧ t.board.retrains = b.retrains.drop 1 ∧ (b.retrains.headD none = none → t.board.phase = .running)
          ∧ (∀ n, b.retrains.headD none = some n → 16 ≤ n → n < 64 → t.board.phase = .notStarted ∧ t.board.events = b.events ++ [.trainFail n])))

/-! ### The pilot: placement, saves, tiers (R49, R55–R60, R70–R86, R111–R114) -/

/-- R55–R57, R60, R70, R71: a unit that can be placed, whose turn it is and whose clusters need no scrub, is admitted: a CREW's next crew or all
crews of a GANG take the first idle cores of their clusters, with one launch thread per slot at the entry address and its arguments in x4 to x6; a
STREAM's image starts to load at its cluster; a VOYAGE with a good descriptor begins there. R72: a unit that fits nowhere is refused. The model's own choices in it: log 52, 53 and 54. -/
def Obligations.UnitsArePlaced : Prop := ∀ (s : State) (seq c : Nat) (r : RecordState) (cs : List Nat) (bs : List Byte),
  let T := crewThreads r.words
  let Crewed := fun (t : State) (id c n : Nat) => ∃ w, getCrew t id = some w ∧ w.record = seq ∧ w.index = n ∧ w.owner = r.owner ∧ w.cluster = c ∧ w.threads = T
    ∧ w.phase = .running ∧ w.spilled = [] ∧ (∀ k ∈ w.cores, (getCore t k).crew = some id)
  let adm := if r.phase = .accepted then RecPhase.admitted else r.phase
  let Goes := fun (t : State) (n : Nat) => ∃ q, AMap.find t.records seq = some q ∧ q.phase = adm ∧ q.nextCrew = r.nextCrew + n ∧ q.crewsLeft = r.crewsLeft - n
    ∧ q.chosen = [] ∧ q.words = r.words
  let u := (admitSite s r c).1
  let cl := getCluster s c
  Inv s → AMap.find s.records seq = some r → considered s r = true → helmRuns s = true → s.board.phase = .running → r.hintRead.isSome = true →
  r.depA = 0xFFF → r.depB = 0xFFF → T ≤ 16 →
  (r.chosen = [] → hostPlaced s r = false → itsTurn s r = true →
    (r.kind = 0 → crewPlace s r = some c → needsScrub s c r.owner = false →
      ∃ t, exec (.crewAdmit seq) s = .next t ∧ Goes t 1 ∧ Crewed t s.nextCrew c r.nextCrew ∧ t.nextCrew = s.nextCrew + 1
        ∧ (∃ w, getCrew t s.nextCrew = some w ∧ w.cores = (idleCores s c).take (crewCores r.words)
          ∧ ∀ e ∈ crewThreadList w.cores T, let th := getThread t e.2
              th.live = true ∧ th.launch = true ∧ th.pc = r.words.w2 ∧ th.tvec = r.words.w5 ∧ th.readX 4 = BitVec.ofNat 64 e.1
              ∧ th.readX 5 = BitVec.ofNat 64 r.nextCrew ∧ th.readX 6 = r.words.w4 ∧ th.thid = BitVec.ofNat 64 e.2 ∧ th.crix = BitVec.ofNat 64 r.nextCrew
              ∧ th.tstat = 0 ∧ th.fstat = 0 ∧ th.m = [] ∧ th.park = .none)
        ∧ (∀ k, coreCluster k ≠ c → getCore t k = getCore s k))
    ∧ (r.kind = 0 → crewPlace s r = none → r.refusedAt = none → ∃ t, exec (.crewAdmit seq) s = .next t ∧ AMap.find t.records seq = some { r with refusedAt := some s.board.refclk }
        ∧ t.threads = s.threads ∧ t.cores = s.cores)
    ∧ (r.kind = 1 → gangPlaces s r (crewCount r.words) [] = some cs → (∀ x ∈ cs, needsScrub s x r.owner = false) → cs ≠ [] →
        ∃ t, exec (.gangAdmit seq) s = .next t ∧ Goes t cs.length ∧ t.nextCrew = s.nextCrew + cs.length
          ∧ ∀ (j : Nat) (x : Nat), cs[j]? = some x → Crewed t (s.nextCrew + j) x (r.nextCrew + j)))
  ∧ (r.kind = 3 → r.chosen = [c] → freeFor s c r.owner = true → scrubbed s r = true → (∀ l ∈ cl.loads, l.record ≠ some seq) →
      ∃ t l, exec (.streamAdmit seq) s = .next t ∧ (getCluster t c).loads = cl.loads ++ [l] ∧ l.fid = r.words.w2.extractLsb' 52 12 ∧ l.record = some seq
        ∧ (getCluster t c).lastOwner = some r.owner ∧ t.threads = s.threads)
  ∧ (r.kind = 2 → r.chosen = [c] → freeFor s c r.owner = true → scrubbed s r = true → voyageTaken s c = false → r.phase = .accepted → mayChange u (.record seq) = true →
      engineWords u c none r.owner r.clk .both 8 r.words.w2 [] false = .got bs false → descError (words8Of (wordsOf 8 bs)) r.words.w2 = 0 →
      ∃ t v q, exec (.voyageAdmit seq) s = .next t ∧ (getCluster t c).voyage = some v ∧ v.descVa = r.words.w2 ∧ v.desc = words8Of (wordsOf 8 bs)
        ∧ v.owner = r.owner ∧ v.record = some seq ∧ v.thread = none ∧ v.phase = .embark ∧ AMap.find t.records seq = some q ∧ q.phase = .admitted ∧ q.chosen = [])

/-- R72, R74: a unit refused for longer than HAGE gets a reservation, and one of higher priority pre-empts the crews of its plan, whose threads stop. R111,
R75, R114: a stopped crew whose accesses are done is saved and leaves its cores; a saved one resumes with its cores and threads as they were. R58: a crew whose
work is done retires, and the last one completes its launch. R49: a scrub leaves a cluster's storage zero and its full/empty bits empty. The model's own choices in it: log 20, 52, 55, 56 and 84. -/
def Obligations.CrewsComeAndGo : Prop := ∀ (s : State) (seq crew c : Nat) (r : RecordState) (w : Crew) (places gone : List Nat) (v : Save) (vc : SavedCore) (slot : Nat)
    (th : ThreadState),
  let n := if r.kind = 1 then crewCount r.words else 1
  (AMap.find s.records seq = some r → considered s r = true → refusedFor s r s.helm.hage.toNat = true → (∀ x ∈ s.reserves, x.record ≠ seq) → 0 < unplaced r →
    ∃ t, exec (.reservation seq) s = .next t ∧ t = { s with reserves := s.reserves ++ [{ record := seq, clusters := bestClusters s r (reserveSize r.cores (unplaced r)) }] })
  ∧ (AMap.find s.records seq = some r → considered s r = true → r.chosen = [] → preemptWait s r.prio ≠ 0 → refusedFor s r (preemptWait s r.prio) = true →
      (∀ x ∈ s.preempting, x.record ≠ seq) → cheapestSet s r n = some (places, gone) →
      poolUsed s + planUnits s r places gone ≤ s.helm.saveSize.toNat → planHeld s places gone = false → crew ∈ gone → getCrew s crew = some w →
      ∃ t, exec (.preemption seq) s = .next t ∧ getCrew t crew = some { w with phase := .stopping } ∧ t.preempting = s.preempting ++ [{ record := seq, crews := gone, places := places }]
        ∧ ∀ j, (getThread s j).live = true → (getThread s j).crew = crew → (getThread t j).stopped = true)
  ∧ (getCrew s crew = some w → savable s crew w = true → ∃ t x, exec (.saveComplete crew) s = .next t ∧ getCrew t crew = some { w with phase := .saved, save := some x }
      ∧ x.cores.map (fun y => y.core) = w.cores ∧ (∀ k ∈ w.cores, (getCore t k).crew = none) ∧ ∀ j ∈ crewTags s crew, (getThread t j).live = false)
  ∧ (getCrew s crew = some w → w.phase = .saved → w.gang = false → w.save = some v → v.cores = [vc] → vc.threads = [(slot, th)] → groupFits s [(crew, w)] = true →
      higherPlaceable s w.prio w.cluster = false → (∀ k ∈ w.cores, (getCore s k).waiters = []) → (getCluster s w.cluster).scrubbing = false → needsScrub s w.cluster w.owner = false →
      ∃ t, exec (.crewResume crew) s = .next t ∧ getCrew t crew = some { w with phase := .running, save := none } ∧ (getCore t vc.core).crew = some crew
        ∧ (getCore t vc.core).s = vc.state.s ∧ (getCore t vc.core).banks = vc.state.banks
        ∧ getThread t (coreTag vc.core slot) = { th with stopped := false, lastIssue := none, clock := Clock.join th.clock v.clock })
  ∧ (Inv s → getCrew s crew = some w → crewDone s crew w = true → mayChange s (.retire crew) = true → w.record = seq → AMap.find s.records seq = some r → r.phase.final = false →
      ∃ t q, exec (.crewRetire crew) s = .next t ∧ getCrew t crew = none ∧ (∀ k ∈ w.cores, (getCore t k).crew = none) ∧ AMap.find t.records seq = some q
        ∧ ((∀ x ∈ s.crews, x.2.record = seq → x.1 = crew) → r.crewsLeft = 0 → q.phase = .completed)
        ∧ ((∃ x ∈ s.crews, x.2.record = seq ∧ x.1 ≠ crew) ∨ 0 < r.crewsLeft → q.phase = r.phase))
  ∧ ((getCluster s c).scrubbing = true → ∃ t, exec (.clusterScrub c) s = .next t ∧ (∀ a, t.byteAt a = if inCluster c a then 0 else s.byteAt a)
      ∧ t.full = s.full.filter (fun a => !inCluster c a) ∧ (getCluster t c).scrubbing = false ∧ (getCluster t c).lastOwner = none ∧ (getCluster t c).images = []
      ∧ t.threads = s.threads)

/-- R83: at the end of an epoch the counts decide the moves of the owners in hardware mode, and counting starts again. R84: a page move that ends leaves the
page's bytes, and which of them are unspecified (R2), in the other tier, its entry's TIER bit changed and its FRAME kept. The model's own choices in it: log 21, 22 and 23. -/
def Obligations.PagesMigrate : Prop := ∀ (s : State) (o : BitVec 12) (page : BitVec 39) (m : PageMove) (p : Word) (big : Bool) (a : Nat),
  let us := if s.helm.epoch = 0 then 1 else s.helm.epoch.toNat
  let plan := epochMoves s ((liveOwners s).flatMap (mappedPages s))
  let p' := p ^^^ BitVec.ofNat 64 (2 ^ 59)
  let va : Word := BitVec.ofNat 64 (page.toNat * 2 ^ 16)
  let base := if big then BitVec.ofNat 64 (page.toNat / 2 ^ 13 * 2 ^ 29) else va
  let n := if big then 2 ^ 29 else 2 ^ 16
  let lo := leafKey base p big
  let hi := leafKey base p' big
  (s.board.phase = .running → s.helm.epochEnd ≤ s.board.refclk → (∀ x ∈ liveOwners s, (getOwner s x).modes.getLsbD 2 = false) →
    ∃ t, exec .tierEpoch s = .next t ∧ t.counts = [] ∧ t.helm = { s.helm with epochEnd := s.board.refclk + us * 100 }
      ∧ t.moves = s.moves ++ (plan.filter fun e => !(getOwner s e.owner).modes.getLsbD 2).map EpochPage.move ∧ SameMem s t ∧ t.threads = s.threads)
  ∧ (s.board.refclk < s.helm.epochEnd → exec .tierEpoch s = .next s)
  ∧ (Inv s → s.moves.find? (fun x => x.owner == o) = some m → m.owner = o → m.page = page.toNat → leafOf s o page.toNat = some (p, big) → leafAddress s o va big = some a →
      pteTier p ≠ m.toDdr → ptePin p = false → leafGood s va p' big = true → lo + n ≤ hi ∨ hi + n ≤ lo →
      ∃ t, exec (.pageMoveComplete o page) s = .next t ∧ t.bytesAt 8 a = bytesOf 8 p'.toNat
        ∧ (∀ j, j < n → ¬(a ≤ hi + j ∧ hi + j < a + 8) → (inStretch s.loose (lo + j) = false → t.byteAt (hi + j) = s.byteAt (lo + j))
          ∧ inStretch t.loose (hi + j) = inStretch s.loose (lo + j))
        ∧ (∀ x, ¬(a ≤ x ∧ x < a + 8) → ¬(lo ≤ x ∧ x < lo + n) → ¬(hi ≤ x ∧ x < hi + n) → t.byteAt x = s.byteAt x) ∧ t.moves = s.moves.erase m)

/-! ### The tile engine and the function servers at work (R115, R119, R134–R137, R177–R207, R232–R241, R309–R314, R362–R371) -/

/-- R134, R136, R309–R313: the head of a tile queue starts when the engine is free, and completes with its whole effect: `tzero` clears its bank, `tload` fills it,
`tmma` leaves in each element its accumulator after all its products (of i8 operands: their exact sum modulo 2^32), `tdrain` stores its 256 converted elements, with
the biases its descriptor names and, in bit 39 of its FLAG word, whether all are zero, and nothing else, where it has read and written nothing before its completion, and
its bank is not reserved for a voyage. A `tmma` behind it that streams already runs on. The model's own choices in it: log 33 and 88. -/
def Obligations.TileInstructionsRun : Prop := ∀ (s : State) (core z src kk q p dst stride : Nat) (fa fb f : BitVec 3) (a b i j : Nat) (scale : BitVec 32)
    (relu acc prop : Bool) (bias flag : Option Nat) (e : TileEntry) (rest : List TileEntry),
  let k := getCore s core
  let rd := fun (off n : Nat) => ofBytes (s.bytesAt n (padKey core off))
  let old := (getBank k z).at i j
  let Done := fun (op : TileOp) (t : State) => k.tiles = { e with op := op } :: rest ∧ exec (.tileComplete core) s = .next t ∧ (getCore t core).tiles = rest
    ∧ (getCore t core).tileBusy = headStreams rest ∧ (∀ c, c ≠ core → getCore t c = getCore s c)
  let bs := bias.map fun o => (List.range 16).map fun c => (c, BitVec.ofNat 32 (rd (o + 4 * c) 4))
  let els := fun (r c : Nat) => (⟨f, scale, bs, relu, acc, prop⟩ : DrainArgs).element ((getBank k z).at r c) ((getBank k z).csAt c) c
    (if acc then rd (dst + r * stride + c * drainBytes f) (drainBytes f) else 0)
  let cell := fun (r c : Nat) => padKey core (dst + r * stride + c * drainBytes f)
  let inCells := fun (x : Nat) => ∃ r c, r < 16 ∧ c < 16 ∧ cell r c ≤ x ∧ x < cell r c + drainBytes f
  let flagByte := fun (x : Nat) => ∃ o, flag = some o ∧ x = padKey core o + 4
  let m : Mma := ⟨fa, fb, a, b, kk, q, p⟩
  let th := getThread s e.tag
  (k.tileBusy = false → k.ringBusy = false → k.tiles = e :: rest → ringWants s core = false → tileWaits s core e = false →
    ∃ t, exec (.tileStart core) s = .next t ∧ getCore t core = { k with tileBusy := true, rows := 0 } ∧ t.threads = s.threads ∧ SameMem s t)
  ∧ (k.ringBusy = true → ∃ t, exec (.tileComplete core) s = .next t ∧ getCore t core = { k with ringBusy := false } ∧ t.threads = s.threads ∧ SameMem s t)
  ∧ (k.tileBusy = true → k.ringBusy = false → e.latched = [] → k.rows = 0 → (voyageMask s (coreCluster core)).testBit z = false → i < 16 → j < 16 →
    (k.tiles = { e with op := .zero z } :: rest → ∃ t, Done (.zero z) t ∧ getBank (getCore t core) z = {} ∧ SameMem s t ∧ t.threads = s.threads)
    ∧ (k.tiles = { e with op := .load z src } :: rest → ∃ t, Done (.load z src) t ∧ (getBank (getCore t core) z).at i j = BitVec.ofNat 32 (rd (src + 4 * (16 * i + j)) 4)
        ∧ (getBank (getCore t core) z).csAt j = 0x3F800000 ∧ SameMem s t ∧ t.threads = s.threads)
    ∧ (k.tiles = { e with op := .mma z fa fb a b kk q p } :: rest → ∃ t, Done (.mma z fa fb a b kk q p) t ∧ SameMem s t
        ∧ (getBank (getCore t core) z).at i j = BitVec.ofNat 32 (m.element rd rd i j old.toNat)
        ∧ (fa = 4 → fb = 4 → (getBank (getCore t core) z).at i j = old + BitVec.ofInt 32 ((List.range kk).map fun x => sx8 (rd (a + kk * i + x) 1) * sx8 (rd (b + kk * j + x) 1)).sum)
        ∧ (m.badDigit rd = false → t.threads = s.threads) ∧ (m.badDigit rd = true → getThread t e.tag = { th with tstat := th.tstat ||| 2 })
        ∧ ∀ y, y ≠ z → getBank (getCore t core) y = getBank k y)
    ∧ (k.tiles = { e with op := .drain z f dst scale bias relu acc prop flag stride } :: rest → Inv s → 16 * drainBytes f ≤ stride →
        ∃ t, Done (.drain z f dst scale bias relu acc prop flag stride) t
          ∧ ((∀ x, cell i j ≤ x → x < cell i j + drainBytes f → ¬flagByte x) → t.bytesAt (drainBytes f) (cell i j) = bytesOf (drainBytes f) (els i j))
          ∧ (∀ x, flagByte x → ((t.byteAt x).getLsbD 7 = true ↔ ∀ r c, r < 16 → c < 16 → drainZero f (els r c) = true)
            ∧ (¬inCells x → t.byteAt x &&& 0x7F = s.byteAt x &&& 0x7F))
          ∧ (∀ x, ¬inCells x → ¬flagByte x → t.byteAt x = s.byteAt x) ∧ (getCore t core).banks = k.banks ∧ t.threads = s.threads))

/-- R182, R183, R187, R305: a server admits the oldest call of its next core; a result set pairs with the oldest packet and returns its values to the caller's
registers, a recorded fault returns poison, and so does a packet that stands 1,048,576 clk. R177: a cell switches to, or fires, the context that its rotation gives. R368: a
waiting endpoint reads the other side's count again. The model's own choices in it: log 62 and 67. -/
def Obligations.ServersServe : Prop := ∀ (s : State) (c v cell e j n : Nat) (i : Image) (q : CallReq) (k : Packet) (rest : List Packet) (y z : Placed) (x : CtxState) (a : Act)
    (tok : Tok) (code : BitVec 4) (va : Word),
  let th := getThread s k.tag
  let cl := getCluster s c
  let Poisons := fun (t : State) (w : Word) => (getThread t k.tag).tcause = 5 ∧ (getThread t k.tag).tval = w ∧ (getThread t k.tag).tepc = th.pc ∧ (getThread t k.tag).pc = th.tvec
    ∧ (getThread t k.tag).park = .none
  let g := fabOf s c i j
  let F := fireCompute g y x a
  let stay := ∀ w ∈ cl.images, w.2.evPend = false
  resident s c i.fid = some (e, i) → stay →
  (nextCall s c v = some (i, q) → admissible s c v i q.args = true → cl.misses = [] → (∀ y ∈ i.copies, ∀ l ∈ y.links, l.slots ≠ 0) →
    ∃ t i' m, exec (.serveAdmit c v) s = .next t ∧ resident t c i.fid = some (e, i') ∧ i'.tags = i.tags ++ [m] ∧ m.tag = q.tag ∧ m.dest = q.dest ∧ m.faults = []
      ∧ i'.entry = i.entry.erase q ∧ i'.copies = i.copies.map (fun p => p.giveArgs q.args m.num) ∧ t.threads = s.threads ∧ SameMem s t)
  ∧ (i.stream = false → i.copies = [y] → i.tags = k :: rest → y.results i.nRes = [some tok] → tok.kind = .data → i.squashed = [] → k.faults = [] → k.stores = [] → k.bd = false →
      callerWaits s k.tag = true → th.clock = k.clock →
      ∃ t i', exec (.serveExit c i.fid) s = .next t ∧ resident t c i.fid = some (e, i') ∧ i'.tags = rest ∧ i'.calls = i.calls + 1
        ∧ (getThread t k.tag).readX k.dest = (if k.dest = 0 then 0 else BitVec.ofNat 64 tok.pay.toNat) ∧ (∀ r, r ≠ k.dest → (getThread t k.tag).readX r = th.readX r)
        ∧ (getThread t k.tag).pc = th.pc + 4 ∧ (getThread t k.tag).park = .none ∧ SameMem s t)
  ∧ (i.stream = false → i.copies = [y] → i.tags = k :: rest → y.results i.nRes = [some tok] → k.faults = [(code, va, [])] → i.squashed = [] → code = 1 ∨ code = 2 ∨ code = 6 →
      callerWaits s k.tag = true → th.ih = false →
      ∃ t i', exec (.serveExit c i.fid) s = .next t ∧ resident t c i.fid = some (e, i') ∧ i'.tags = rest ∧ i'.poisoned = i.poisoned + 1
        ∧ Poisons t (BitVec.ofNat 64 (code.toNat * 2 ^ 60 + bits va 54 0)) ∧ SameMem s t)
  ∧ (i.tags = [k] → k.admitted + 1048576 ≤ s.board.clk → callerWaits s k.tag = true → th.ih = false →
      ∃ t, exec (.serveTimeout c i.fid) s = .next t ∧ resident t c i.fid = none ∧ (getCluster t c).misses = cl.misses ++ i.entry ∧ Poisons t 0x4000000000000000)
  ∧ (cellOwner s c v cell = some (i, j, z) → i.live = true → sectionHeld s i = false → i.argsDue = [] → confirmCell s c i j cell = i → i.copies[j]? = some y →
      (y.cellTurn g cell = .switch n → ∃ t, exec (.cellFire c v cell) s = .next t ∧ resident t c i.fid = some (e, i.setCopy j (y.switched cell n)) ∧ SameMem s t)
      ∧ (y.cellTurn g cell = .fire x a → x.mem = false → F.bd = none → i.launch = none → (∀ l ∈ F.copy.links, l.slots ≠ 0) →
          ∃ t, exec (.cellFire c v cell) s = .next t ∧ resident t c i.fid = some (e, { i.setCopy j (F.copy.fired cell) with squashed := i.squashed ++ F.squash }) ∧ SameMem s t
            ∧ t.threads = s.threads)
      ∧ (∀ i' s' y', y.cellTurn g cell = .fire x a → x.mem = true → fireMem s c i j y x a = .done s' i' → i'.copies[j]? = some y' → (∀ l ∈ y'.links, l.slots ≠ 0) → i'.launch = none → i'.fid = i.fid →
          resident s' c i.fid = some (e, i) → (∀ w ∈ (getCluster s' c).images, w.2.evPend = false) → i'.evPend = false →
          ∃ t, exec (.cellFire c v cell) s = .next t ∧ resident t c i.fid = some (e, i'.setCopy j (y'.fired cell)) ∧ SameMem s' t ∧ t.threads = s'.threads))
  ∧ (∀ i' s', cellOwner s c v cell = some (i, j, z) → i.live = true → waitingEndpoint z cell = some x → endpointPoll s c i j z x = .done s' i' → i'.fid = i.fid →
      resident s' c i.fid = some (e, i) → (∀ w ∈ (getCluster s' c).images, w.2.evPend = false) → i'.evPend = false → ∃ t, exec (.endpointPoll c v cell) s = .next t ∧ resident t c i.fid = some (e, i'))

/-- R181, R199–R207, R371: an image that reads badly fails its waiting calls with its poison code; a good one is loaded, then placed and resident with its configuration. For a load that finds no
place the quiescent image last used goes, and its cells hold unspecified values; or one is moved, where the pilot places the owner's images; a twin is loaded afresh. R115, R205, R207: a section that is to be pre-empted is frozen and read out,
goes on in a free rectangle, and ends its launch when its tiles are spent. The model's own choices in it: log 20, 61, 62 and 68. -/
def Obligations.ImagesComeAndGo : Prop := ∀ (s : State) (c e n tgt v pg seq : Nat) (fid : BitVec 12) (l : ImageLoad) (raw r : Raw) (code : BitVec 4) (m : CallReq) (i : Image) (p : Placed)
    (at_ : List (Nat × Nat)) (f : Frozen) (rec : RecordState),
  let cl := getCluster s c
  let th := getThread s m.tag
  let o := serverOwner s c
  let clk := (cl.misses.filter fun m => m.fid == fid).foldl (fun k m => Clock.join k m.clock) (pilotClock s)
  let here := i.copies.map fun p => (p.server, p.page)
  let fresh : Raw := ⟨fid, l.words⟩
  let fz := fun (p : Placed) (i : Image) => ({ cluster := c, image := { i with closed := false }, cells := cellContents s c i p, base := poolBase s (frozenUnits i) } : Frozen)
  let area := areaAt s (poolBase s (frozenUnits i))
  let inCells := fun (x : Nat) => ∃ p ∈ i.copies, ∃ k ∈ p.memCells i.h0, cellKey c p.server k 0 ≤ x ∧ x < cellKey c p.server k 0 + 8192
  let stay := ∀ w ∈ cl.images, w.2.evPend = false
  (dueLoad s c fid = some l → startedLoads cl < 4 → l.record = none → stay → allHome s clk = true →
    (readImage s c o clk fid = .inl raw → ∃ t l', exec (.imageLoad c fid) s = .next t ∧ l' ∈ (getCluster t c).loads ∧ l'.fid = l.fid ∧ l'.words = raw.ws ∧ l'.outcome = some 0
      ∧ t.threads = s.threads ∧ SameMem s t)
    ∧ (readImage s c o clk fid = .inr code → cl.misses = [m] → m.fid = fid → l.fid = fid → callerWaits s m.tag = true → th.ih = false → code = 4 ∨ code = 5 →
        ∃ t, exec (.imageLoad c fid) s = .next t ∧ (getCluster t c).misses = [] ∧ (getThread t m.tag).tcause = 5 ∧ (getThread t m.tag).tval = BitVec.ofNat 64 (code.toNat * 2 ^ 60)
          ∧ (getThread t m.tag).pc = th.tvec ∧ SameMem s t))
  ∧ (startedLoad s c fid = some l → resident s c fid = none → l.fid = fid → hostPlaces s c = false → l.record = none → cl.misses = [] →
      pick (loadPlaces s c fresh l) (s.choose 20 (loadPlaces s c fresh l).length) = some at_ → freeEntry cl = some n →
      ∃ t i', exec (.imageLoadComplete c fid) s = .next t ∧ resident t c fid = some (n, i') ∧ i'.h0 = fresh.w 0 ∧ i'.copies = fresh.copiesAt at_ ∧ i'.entry = []
        ∧ i'.tags = [] ∧ i'.calls = 0 ∧ i'.gen = nextGen cl fid ∧ (∀ x ∈ (getCluster t c).loads, x.fid ≠ fid) ∧ t.threads = s.threads)
  ∧ (resident s c fid = some (e, i) →
    (i.busy cl = false → starvedLoad s c = some r → hostPlaces s c = false → canCompact s c r = false → firstEvict s c = some i → stay →
      ∃ t, exec (.imageEvict c fid) s = .next t ∧ resident t c fid = none ∧ (∀ g, g ≠ fid → resident t c g = resident s c g)
        ∧ (∀ x, inCells x → inStretch t.loose x = true) ∧ (∀ x, ¬inCells x → t.byteAt x = s.byteAt x) ∧ t.threads = s.threads)
    ∧ (i.busy cl = true ∨ starvedLoad s c = none → exec (.imageEvict c fid) s = .next s)
    ∧ (i.evPend = false → starvedLoad s c = some r → hostPlaces s c = false → i.copies = [p] → moveTargets s c r i = [(0, tgt)] →
        ∃ t i', exec (.compaction c fid) s = .next t ∧ resident t c fid = some (e, i') ∧ i'.copies = [p.moveTo p.server tgt] ∧ i'.gen = i.gen + 1 ∧ t.threads = s.threads)
    ∧ (i.reload = 2 → i.tags = [] → (∀ a ∈ here, (AMap.getD cl.servers a.1 {}).offline = 0) → allHome s (pilotClock s) = true → readImage s c o (pilotClock s) fid = .inl raw → cl.misses = [] →
        ∃ t i', exec (.twinReload c fid) s = .next t ∧ resident t c fid = some (e, i') ∧ i'.copies = raw.copiesAt here ∧ i'.reload = 0 ∧ i'.closed = false
          ∧ i'.gen = i.gen + 1 ∧ i'.calls = 0 ∧ t.threads = s.threads)
    ∧ (i.launch = some seq → i.copies = [p] → i.closed = true → ∃ t, exec (.freezeWave c fid) s = .next t ∧ resident t c fid = none
        ∧ t.frozen = s.frozen ++ [fz p i] ∧ t.threads = s.threads
        ∧ (stay → ∀ x, ¬inCells x → ¬(area ≤ x ∧ x < area + frozenUnits i * 2 ^ 16) → (∀ y ∈ frozenPieces (fz p i), x < area + y.1 ∨ area + y.1 + y.2.length ≤ x) → t.byteAt x = s.byteAt x))
    ∧ (i.launch = some seq → i.evPend = false → i.tilesLeft = 0 → mayChange s (.sectionEnd c fid) = true → Inv s → AMap.find s.records seq = some rec → rec.phase.final = false →
        ∃ t q i', exec (.sectionComplete c fid) s = .next t ∧ AMap.find t.records seq = some q ∧ q.phase = .completed ∧ resident t c fid = some (e, i') ∧ i'.launch = none
          ∧ t.threads = s.threads))
  ∧ (s.frozen.find? (fun x => x.cluster == c && x.image.fid == fid) = some f → f.image.copies = [p] → f.image.launch = some seq → AMap.find s.records seq = some rec →
      pick (freeRects cl f.image.width f.image.height) (s.choose 23 (freeRects cl f.image.width f.image.height).length) = some (v, pg) → freeEntry cl = some n →
      mayThaw s c rec.owner = true → resident s c fid = none →
      ∃ t, exec (.thaw c fid) s = .next t ∧ resident t c fid = some (n, { f.image with copies := [p.moveTo v pg], gen := nextGen cl fid, stalled := none }) ∧ t.frozen = s.frozen.erase f
        ∧ t.threads = s.threads)

/-! ### Voyages on the ring (R144, R151–R169, R387, R398) -/

/-- R144, R152, R164: a voyage zeroes its counter and takes the bays, reads its lists and chart, and begins half-step 0 with what does not embark counted. R155–R161: a station fires
its next sighting on its tile engine, whose bank gets the products of the two resident tiles, or as a task with the slots in m0 and m1 and the entry in m2, or
tries it and lets it wait; the 256 additions of an engine sighting add its products to its target, and the entry is counted. R155: a ready station passes its
tile on, and the next half-step begins when all 96 are ready. The model's own choices in it: log 34, 35, 36 and 37. -/
def Obligations.VoyagesEmbarkAndMeet : Prop := ∀ (s : State) (c st i slot tk ck a b : Nat) (v : Voyage) (e : ChartEntry) (p sb : List VTile) (es : List ChartEntry)
    (tile : VTile) (bs : List Byte),
  let k := c * 128 + st
  let C := getCounter s c v.ctr
  let V := fun (t : State) => (getCluster t c).voyage
  let Quiet := fun (t : State) => SameMem s t ∧ t.threads = s.threads
  let rd := fun (off n : Nat) => ofBytes (s.bytesAt n (padKey k off))
  let at_ := fun (n : Nat) => e.target + BitVec.ofNat 64 (64 * (n / 16) + 4 * (n % 16))
  let add := fun (n : Nat) => addElem (if v.fp = 4 then 1 else 0) (ofBytes (s.bytesAt 4 (tk + 4 * n))) (e.products.getD n 0).toNat
  (movingVoyage s c .embark = some v → C.drain = false →
    (v.zeroed = false → v.fetched = false → v.record = none →
      ∃ t, exec (.embark c) s = .next t ∧ V t = some { v with zeroed := true } ∧ (getCounter t c v.ctr).value = 0 ∧ (getCounter t c v.ctr).drain = decide (C.pend ≠ 0)
        ∧ (∀ x, (∀ y, y < 96 → ¬(padKey (c * 128 + y) 0x28000 ≤ x ∧ x < padKey (c * 128 + y) 0x28000 + 0x8000)) → t.byteAt x = s.byteAt x) ∧ t.threads = s.threads)
    ∧ (v.zeroed = true → v.fetched = false → readVoyage s c v = .ok (p, sb, es) →
      ∃ t, exec (.embark c) s = .next t ∧ V t = some { v with fetched := true, port := p, stbd := sb, entries := es } ∧ es.length = v.nChart ∧ Quiet t)
    ∧ (v.fetched = true → readBodies s c v = .ok ([(tile, bs, false)], []) → v.entries = [] → Inv s → v.tally + v.refusedN < v.total →
      ∃ t v', exec (.embarkComplete c) s = .next t ∧ V t = some v' ∧ v'.phase = .halfSteps ∧ v'.half = 0 ∧ v'.tally = v.tally + v.refusedN ∧ v'.port = [tile] ∧ v'.stbd = []
        ∧ (getCounter t c v.ctr).value = C.value + BitVec.ofNat 48 v.refusedN ∧ Stored (padKey (c * 128 + tile.home) 0x28000) bs s t ∧ t.threads = s.threads))
  ∧ (movingVoyage s c .halfSteps = some v → (loseTiles s c v st).missed = v.missed →
    (nextSight v st = some (i, e) →
      (entryKind e.w0 = 0 → (getCore s k).tileBusy = false → (getCore s k).ringBusy = false → st ∉ v.ready → a < 16 → b < 16 →
        ∃ t e', exec (.sighting c st) s = .next t ∧ V t = some { v with entries := v.entries.set i e' } ∧ e'.status = .running ∧ e'.products.length = 256
          ∧ (getCore t k).ringBusy = true
          ∧ (getBank (getCore t k) (entryBank e.w0)).at a b = BitVec.ofNat 32 ((sightMma v (portSlot v.half) (stbdSlot v.half)).element rd rd a b 0)
          ∧ (v.fp = 4 → v.fs = 4 → (getBank (getCore t k) (entryBank e.w0)).at a b
              = BitVec.ofInt 32 ((List.range v.kk).map fun x => sx8 (rd (portSlot v.half + v.kk * a + x) 1) * sx8 (rd (stbdSlot v.half + v.kk * b + x) 1)).sum)
          ∧ (∀ j, j ≠ k → getCore t j = getCore s j) ∧ Quiet t)
      ∧ (entryKind e.w0 ≠ 0 → v.stopping = false → (∀ q ∈ (getCluster s c).pendingQ, q.channel ≠ entryChannel e.w0) → sightSlot s c v e st = some slot →
        ∃ t h, exec (.sighting c st) s = .next t ∧ (getThread t (coreTag k slot)).live = true ∧ (getThread t (coreTag k slot)).sighting = some h ∧ h.entry = i ∧ h.released = false
          ∧ (getThread t (coreTag k slot)).m = [(0, BitVec.ofNat 64 (0xC2 * 2 ^ 56 + portSlot v.half)), (1, BitVec.ofNat 64 (0xC2 * 2 ^ 56 + stbdSlot v.half)), (2, BitVec.ofNat 64 i)]
          ∧ (getThread t (coreTag k slot)).pc = BitVec.ofNat 64 (bits (getTask s c (2 * entryChannel e.w0)) 63 2 * 4)
          ∧ (∀ j, j ≠ coreTag k slot → getThread t j = getThread s j) ∧ SameMem s t)
      ∧ (entryKind e.w0 ≠ 0 → sightSlot s c v e st = none → ∃ t, exec (.sighting c st) s = .next t ∧ V t = some { v with entries := v.entries.set i { e with tried := true } } ∧ Quiet t)))
  ∧ (movingVoyage s c .halfSteps = some v → st ∉ v.ready → mayPass s c v st = true → v.half % 2 = 0 → v.half < 95 → s.poison = [] → portTile v st = some tile → tile.lost = false → Inv s →
      ∃ t v', exec (.stationReady c st) s = .next t ∧ V t = some v' ∧ v'.ready = v.ready ++ [st] ∧ v'.half = v.half
        ∧ Stored (padKey (c * 128 + (st + 1) % 96) (portSlot (v.half + 1))) (s.bytesAt (bayForm v.fp v.kk v.q) (padKey k (portSlot v.half))) s t)
  ∧ (movingVoyage s c .halfSteps = some v → v.stopping = false → 96 ≤ v.ready.length → v.half < 95 →
      ∃ t, exec (.halfStepStart c) s = .next t ∧ V t = some { v with half := v.half + 1, ready := [] } ∧ Quiet t)
  ∧ ((getCluster s c).voyage = some v → v.entries[i]? = some e → e.status = .running → entryKind e.w0 = 0 → e.again = false → e.waits = none → v.failure = none →
      v.tally + 1 < v.total → Inv s → Unhindered s v.agent v.clock → e.products.length = 256 → tk % 4 = 0 →
      (∀ n, n < 256 → reach s c (some (c * 128 + e.station)) v.owner (at_ n) 4 .both = .home (tk + 4 * n) none ∧ globalKey (tk + 4 * n) = false
        ∧ poisoned s (tk + 4 * n) 4 = false) →
      reach s c none v.owner (v.entryVa i) 8 .both = .home ck none → ck + 8 ≤ tk ∨ tk + 1024 ≤ ck →
      ∃ t v' e', exec (.accumulationComplete c i) s = .next t ∧ V t = some v' ∧ v'.entries[i]? = some e' ∧ e'.status = .counted ∧ v'.counted = v.counted + 1 ∧ v'.tally = v.tally + 1
        ∧ (getCounter t c v.ctr).value = C.value + 1 ∧ (∀ n, n < 256 → t.bytesAt 4 (tk + 4 * n) = bytesOf 4 (add n))
        ∧ t.bytesAt 8 ck = bytesOf 8 (Nat.lor (ofBytes (s.bytesAt 8 ck)) (2 ^ 27))
        ∧ (∀ x, (x < tk ∨ tk + 1024 ≤ x) → (x < ck ∨ ck + 8 ≤ x) → t.byteAt x = s.byteAt x) ∧ t.threads = s.threads)

/-- R163: after half-step 95 the tiles are dropped and counted; with all else counted the voyage ends (R151, R164); else the reckoning list is written, and the missed entries run once more,
one after another at each station, on engines and as tasks (R387). R398: a failed voyage ends with ERROR 5, its launch faulted or its thread with a deferred trap. R167–R169: a stopped voyage is saved and resumes where it
stood. The model's own choices in it: log 20, 35, 36, 38 and 39. -/
def Obligations.VoyagesReckonAndEnd : Prop := ∀ (s : State) (c st i slot seq tag key : Nat) (v v' : Voyage) (e : ChartEntry) (s' : State) (r : RecordState) (cause : BitVec 8) (va : Word)
    (x : VoyageSave),
  let C := getCounter s c v.ctr
  let V := fun (t : State) => (getCluster t c).voyage
  let n := v.port.length + v.stbd.length
  let th := getThread s tag
  (movingVoyage s c .halfSteps = some v → v.stopping = false → 96 ≤ v.ready.length → v.half = 95 →
    (v.dropped = false → v.record = none → v.total ≤ v.tally + n → Inv s → reach s c none v.owner (v.descVa + 40) 8 .write = .home key none → key + 8 ≤ 2 ^ 43 →
      lineForeign s key (keyOf s v.owner) (bits (v.descVa + 40) 54 6) = false →
      ∃ t, exec (.halfStepStart c) s = .next t ∧ V t = none ∧ (getCounter t c v.ctr).value = C.value + BitVec.ofNat 48 n
        ∧ t.bytesAt 8 key = bytesOf 8 (v.statusWith 0 true).toNat ∧ t.threads = s.threads)
    ∧ (v.dropped = false → v.tally + n < v.total → ∃ t w, exec (.halfStepStart c) s = .next t ∧ V t = some w ∧ w.phase = .halfSteps ∧ w.dropped = true ∧ w.tally = v.tally + n
        ∧ (getCounter t c v.ctr).value = C.value + BitVec.ofNat 48 n ∧ SameMem s t ∧ t.threads = s.threads)
    ∧ (v.dropped = true → writeReckon s c v (reckonList s c v) = .ok s' →
        ∃ t w, exec (.halfStepStart c) s = .next t ∧ V t = some w ∧ w.phase = .reckoning ∧ w.reckon = reckonList s c v ∧ w.entries = v.entries ∧ w.tally = v.tally ∧ SameMem s' t
          ∧ t.threads = s'.threads))
  ∧ (movingVoyage s c .reckoning = some v → v.stopping = false → v.reckon = [(i, st)] → v.entries[i]? = some e → e.status = .missed → e.waits = none →
    (entryKind e.w0 = 0 → st < 96 → (getCore s (c * 128 + st)).tileBusy = false → (getCore s (c * 128 + st)).ringBusy = false → fetchPair s c v e st = .ok (s', none) →
      ∃ t w y, exec (.reckoning c) s = .next t ∧ V t = some w ∧ w.reckon = v.reckon ∧ w.entries[i]? = some y ∧ y.status = .running ∧ y.again = true ∧ y.runAt = st ∧ y.station = e.station
        ∧ (getCore t (c * 128 + st)).ringBusy = true ∧ SameMem s' t)
    ∧ (st = 96 → v.tally + 1 < v.total → ∃ t w y, exec (.reckoning c) s = .next t ∧ V t = some w ∧ w.reckon = v.reckon ∧ w.lostTask = true ∧ w.entries[i]? = some y ∧ y.status = .counted
        ∧ (getCounter t c v.ctr).value = C.value + 1 ∧ SameMem s t ∧ t.threads = s.threads)
    ∧ (entryKind e.w0 ≠ 0 → st < 96 → (∀ q ∈ (getCluster s c).pendingQ, q.channel ≠ entryChannel e.w0) → sightSlot s c v e st = some slot → fetchPair s c v e st = .ok (s', none) →
      ∃ t w h, exec (.reckonTaskStart c st) s = .next t ∧ V t = some w ∧ w.reckon = v.reckon ∧ (getThread t (coreTag (c * 128 + st) slot)).live = true
        ∧ (getThread t (coreTag (c * 128 + st) slot)).sighting = some h ∧ h.entry = i ∧ h.reckon = true ∧ h.released = false
        ∧ (getThread t (coreTag (c * 128 + st) slot)).m
          = [(0, BitVec.ofNat 64 (0xC2 * 2 ^ 56 + 0x28000)), (1, BitVec.ofNat 64 (0xC2 * 2 ^ 56 + 0x2C000)), (2, BitVec.ofNat 64 i)] ∧ SameMem s' t))
  ∧ ((getCluster s c).voyage = some v → v.failure = some (cause, va) →
    (v.record = none → v.thread = some tag → th.live = true → th.agent = v.threadAgent → th.deferred.length < 8 → th.sighting = none →
      ∃ t, exec (.voyageFailure c) s = .next t ∧ V t = none ∧ getThread t tag = { th with deferred := th.deferred ++ [{ cause := cause, tval := va }] })
    ∧ (v.record = some seq → mayChange s (.voyage c) = true → Inv s → AMap.find s.records seq = some r → r.phase.final = false →
      ∃ t q, exec (.voyageFailure c) s = .next t ∧ V t = none ∧ AMap.find t.records seq = some q ∧ q.phase = .faulted ∧ q.reason = 0x24))
  ∧ ((getCluster s c).voyage = some v → v.stopping = true → v.failure = none →
    (stoppedVoyage v = some v' → ∃ t y, exec (.voyageStop c) s = .next t ∧ V t = none ∧ t.vsaves = s.vsaves ++ [y] ∧ y.voyage = v' ∧ y.cluster = c ∧ y.counter = C.value
      ∧ t.threads = s.threads)
    ∧ (stoppedVoyage v = none → exec (.voyageStop c) s = .next s))
  ∧ (s.vsaves = [x] → x.cluster = c → mayResumeVoyage s c x.voyage = true → needsScrub s c x.voyage.owner = false → x.voyage.zeroed = true → x.voyage.tally < x.voyage.total →
    ∃ t w, exec (.voyageResume c) s = .next t ∧ V t = some w ∧ w.phase = x.voyage.phase ∧ w.half = x.voyage.half ∧ w.entries = x.voyage.entries ∧ w.reckon = x.voyage.reckon
      ∧ w.tally = x.voyage.tally ∧ (getCounter t c x.voyage.ctr).value = x.counter ∧ t.vsaves = [] ∧ (getCluster t c).lastOwner = some x.voyage.owner ∧ t.threads = s.threads)

/-! ### Encodings, steps, reset (R17, R18, R123, R243–R258) -/

/-- R243–R258: the decoder reads every well-formed instruction back from its word, with every operand at every value, and a word that
decodes has exactly the fields that its instruction's encoding gives: no bit of a word is dropped or read twice. -/
def Obligations.DecodeAndEncodeAgree : Prop := ∀ (i : Instr) (w : IWord),
  (wellFormed i = true → encode i = some w → decode w = some i) ∧ (decode w = some i → wellFormed i = true ∧ encode i = some w)

/-- R244, R250–R258: words that the spec prints or that follow from its formats decode to what they stand for; words of zeros and of ones,
and a reserved function code, decode to nothing. -/
def Obligations.SampleWordsDecode : Prop :=
  decode 0x0694A800 = some (.add 20 20 21) ∧ decode 0x04E84814 = some (.mulhsu 7 8 9) ∧ decode 0x10A5FFFF = some (.addi 5 5 0xFFFF)
  ∧ decode 0x28E70203 = some (.srai 7 7 3) ∧ decode 0x30800001 = some (.pcadd 4 1) ∧ decode 0x5AA40000 = some (.ldD 21 4 0)
  ∧ decode 0x6C940000 = some (.stD 4 20 0) ∧ decode 0x84A0FFFD = some (.bNe 5 0 0xFFFD) ∧ decode 0x9C010000 = some (.jr 0 1 0)
  ∧ decode 0x0C8531CA = some (.fmadd 4 5 6 7 0) ∧ decode 0x74E84858 = some (.atmAdd 7 8 9 1 1 2) ∧ decode 0x78000208 = some (.fenceFull 2)
  ∧ decode 0xA014A802 = some (.send 20 21 2) ∧ decode 0xB0840481 = some (.serveImm 4 4 0x12 0 1) ∧ decode 0xC2D4AA08 = some (.tmma 22 20 21 1 0 0)
  ∧ decode 0xD014A801 = some (.scmd 20 21 1) ∧ decode 0x01201003 = some (.rdsys 9 2) ∧ decode 0x00000002 = some .tret
  ∧ decode 0 = none ∧ decode 0xFFFFFFFF = none ∧ decode 0x0400001F = none

/-- R123, R139: when a core's turn finds a thread to issue and the word at its pc decodes, the step is that instruction's effect in the state where the
thread is the issuing one and no longer parked; a word that does not decode has the effect of an illegal instruction (R244). The model's own choices in it: log 4, 58 and 77. -/
def Obligations.StepRunsTheDecodedInstruction : Prop := ∀ (s : State) (core slot : Nat) (w : IWord),
  let s0 := { s with turn := none }
  let c := getCore s0 core
  let r := rotate 16 s0 core (c.ptr + 1)
  let tag := coreTag core slot
  let s1 := setCore r.1 core { getCore r.1 core with clk := c.clk + 1, ptr := slot }
  let s2 := issuing s1 tag c.clk
  let i := (decode w).getD (.illegalInstruction w)
  s.turn = some core → r.2 = some slot → fetch s1 tag = .word w → (∀ j, decode w = some j → bankForfeit s2 tag j = false) →
  s2.cur = tag ∧ s2.th.park = .none ∧ (∀ t, exec i s2 = .next t → step s = .next (passTime (afterIssue s1 t tag)))

/-- Every instruction and every event of the table answers a next state in every state, and so does every step: ordinary data never stops the module, as no
rule names an instruction or an event that ends it. The model's own choices in it: log 4 and 8. -/
def Obligations.EveryStepAnswersANextState : Prop := (∀ (i : Instr) (s : State), ∃ t, exec i s = .next t) ∧ ∀ s : State, Safe s

/-- R17, R18: before power-up nothing runs and nothing is held: the module is held in reset, and there are no threads, crews, records, owners or queue contents;
the invariant holds there. That unlisted memory reads zero is the model's choice (log 2). -/
def Obligations.ResetHoldsTheInvariant : Prop :=
  Inv State.reset ∧ State.reset.board.phase = .held ∧ State.reset.threads = [] ∧ State.reset.crews = [] ∧ State.reset.records = [] ∧ State.reset.own.owners = []
  ∧ (∀ q, (getQueue State.reset q).fifo = [] ∧ (getQueue State.reset q).en = false) ∧ (∀ m, AMap.getD State.reset.board.measure m 0 = 0) ∧ State.reset.full = []
  ∧ ∀ a, memGet State.reset.mem a = 0

/-- Every step keeps the invariant: the homes' memory stays in its canonical form, each record stands once, under its own sequence number, and the helm never gives a
number twice (R37). -/
def Obligations.StepKeepsTheInvariant : Prop := ∀ (s t : State), Inv s → step s = .next t → Inv t

/-! ### Arithmetic and the fabric (R194, R195, R229, R235–R237, R285–R289, R354–R368, R399) -/

/-- R229, R235–R237, R285, R288, R289: on finite patterns each operation gives the exact real result rounded once under the mode: sums, differences, products, quotients, fused
forms and square roots, conversions from other formats and from integers; e4m3, which has no infinity, takes its largest value instead (R357). An exact zero has the sign
that R285 gives it. NX is set where the value is not exact, OF where it overflows, UF where it is tiny and inexact, NV and DZ not. A conversion to an integer rounds
once and saturates. Compares compare the values. Infinities and NaNs give what R285 lists. The model's own choices in it: log 88. -/
def Obligations.ArithmeticIsRounded : Prop := ∀ (f src : Fmt) (rm : RMode) (a b c d : Nat) (np nc : Bool) (i lo hi : Int),
  let all := [f64, f32, f16, bf16, e5m2, e4m3]
  let v := fun (x : Nat) => (patternValue f x : ℝ)
  let sign := fun (h : Fmt) (x : Nat) => decide (x / 2 ^ (h.expBits + h.fracBits) % 2 = 1)
  let pm := fun (x : Bool) => if x then (-1 : ℝ) else 1
  let flags := fun (h : Fmt) (x : ℝ) (r : Nat × FFlags) => (r.2.nx = false ↔ Finite h r.1 ∧ (patternValue h r.1 : ℝ) = x) ∧ r.2.nv = false ∧ r.2.dz = false
    ∧ (r.2.of = true ↔ Overflows h rm x) ∧ (r.2.uf = true ↔ r.2.nx = true ∧ Tiny h rm x)
  let once := fun (x : ℝ) (zero : Bool) (r : Nat × FFlags) => (x = 0 → r.1 = f.signBit zero) ∧ (x ≠ 0 → if f.e4m3 then RoundedSat f rm x r.1 else Rounded f rm x r.1) ∧ flags f x r
  let zsum := fun (p q : Bool) => (p && q) || (p != q && rm == .rdn)
  let nan := fun (x : Nat) => f.e4m3 = false ∧ x / 2 ^ f.fracBits % 2 ^ f.expBits = 2 ^ f.expBits - 1 ∧ x % 2 ^ f.fracBits ≠ 0
  let sig := fun (x : Nat) => decide (x % 2 ^ f.fracBits < 2 ^ (f.fracBits - 1))
  f ∈ all → src ∈ all →
    (Finite f a → Finite f b → Finite f c →
      once (v a + v b) (zsum (sign f a) (sign f b)) (f.add rm a b)
      ∧ once (v a - v b) (zsum (sign f a) (!sign f b)) (f.sub rm a b)
      ∧ once (v a * v b) (sign f a != sign f b) (f.mul rm a b)
      ∧ (v b ≠ 0 → once (v a / v b) (sign f a != sign f b) (f.div rm a b))
      ∧ once (pm np * (v a * v b) + pm nc * v c) (zsum ((sign f a != sign f b) != np) (sign f c != nc)) (f.fma rm np nc a b c)
      ∧ (0 ≤ v a → once (Real.sqrt (v a)) (sign f a) (f.sqrt rm a))
      ∧ (lo ≤ hi → ∃ n, RoundedInt rm (v a) n ∧ (f.toInt rm lo hi a).1 = max lo (min hi n) ∧ ((f.toInt rm lo hi a).2.nv = true ↔ n < lo ∨ hi < n)
          ∧ ((f.toInt rm lo hi a).2.nx = true ↔ lo ≤ n ∧ n ≤ hi ∧ (n : ℝ) ≠ v a))
      ∧ ((f.flt a b).1 = true ↔ v a < v b) ∧ ((f.fle a b).1 = true ↔ v a ≤ v b) ∧ ((f.feq a b).1 = true ↔ v a = v b))
    ∧ (Finite src d → once (patternValue src d : ℝ) (sign src d) (src.convert f rm .ieee d)
      ∧ ((patternValue src d : ℝ) ≠ 0 → RoundedSat f rm (patternValue src d : ℝ) (src.convert f rm .saturate d).1)
      ∧ flags f (patternValue src d : ℝ) (src.convert f rm .saturate d))
    ∧ once (i : ℝ) false (f.ofInt rm .ieee i)
    ∧ (a < 2 ^ f.width → b < 2 ^ f.width →
      (nan a → ¬nan b → Finite f b → ∀ r ∈ [f.add rm a b, f.add rm b a, f.mul rm a b, f.mul rm b a, f.div rm a b, f.div rm b a, f.fma rm np nc a b b, f.fma rm np nc b b a, f.sqrt rm a],
        r = (f.nan false, { nv := sig a }))
      ∧ (f.e4m3 = false → f.add rm (f.inf false) (f.inf true) = (f.nan false, { nv := true }) ∧ f.mul rm (f.inf np) (f.signBit nc) = (f.nan false, { nv := true })
        ∧ (Finite f a → v a ≠ 0 → f.div rm a (f.signBit np) = (f.inf (sign f a != np), { dz := true })) ∧ f.div rm (f.signBit np) (f.signBit nc) = (f.nan false, { nv := true })
        ∧ f.div rm (f.inf np) (f.inf nc) = (f.nan false, { nv := true }) ∧ (Finite f a → f.add rm (f.inf np) a = (f.inf np, {}) ∧ f.div rm a (f.inf np) = (f.signBit (sign f a != np), {})))
      ∧ (Finite f a → v a < 0 → f.sqrt rm a = (f.nan false, { nv := true })))

/-- R354–R359: what one stage of a compute context makes of its sources. Each lane of an integer operation is the operation of R356 on the lanes at its place, modulo 2^w, or
clamped with SAT to the signed range, or with U to the unsigned one; `hsum`, `slide` and `ext` give what R356 says of the lanes together. A float operation of R357 gives
the exact value rounded once to even; NaNs give the canonical NaN; compares give all ones or zero. `fhsum` adds the lanes in their order, `tcmp` compares under R208 and
`sddot` adds one digit plane with one rounding (R358). Sources are as R355 lists them, and with an empty OWN the other operand passes. -/
def Obligations.FabricLanesCompute : Prop := ∀ (k : CtxState) (n i : Nat) (g : Stage) (pred : Bool) (a b c : BitVec 256) (o : Sources) (prev : BitVec 256),
  let w := g.w
  let F := g.fmt
  let L := fun (v : BitVec 256) (i : Nat) => v.toNat / 2 ^ (w * i) % 2 ^ w
  let B := fun (v : BitVec 256) (i : Nat) => BitVec.ofNat w (L v i)
  let x := B a i
  let y := B b i
  let sh := y.toNat % w
  let R := stageRun k n g pred a b
  let z := B R i
  let num := fun (v : BitVec w) => if g.u then (v.toNat : Int) else v.toInt
  let ones := fun (q : Prop) [Decidable q] => if q then BitVec.allOnes w else 0
  let exact := fun (r : Int) => if g.sat then num z = (if g.u then max 0 (min (2 ^ w - 1) r) else max (-2 ^ (w - 1)) (min (2 ^ (w - 1) - 1) r)) else z = BitVec.ofInt w r
  let v := fun (u : BitVec w) => (patternValue F u.toNat : ℝ)
  let near := fun (u : ℝ) => (u = 0 → z.toNat % 2 ^ (w - 1) = 0) ∧ (u ≠ 0 → if F.e4m3 then RoundedSat F .rne u z.toNat else Rounded F .rne u z.toNat)
  let isNan := fun (u : BitVec w) => (F.unpack u.toNat).isNan = true
  let lane0 := fun (u : Int) => R = BitVec.ofNat 256 (BitVec.ofInt w u).toNat
  let own := match AMap.find k.own n with | some u => u | none => 0
  let digit := fun (i : Nat) => match b.toNat / 4 ^ i % 4 with | 1 => (1 : ℝ) | 3 => -1 | _ => 0
  let act := fun (i : Nat) => a.toNat / 2 ^ (16 * i) % 2 ^ 16
  let t := k.cnt0 + 1
  let q := k.k1.toNat % 16
  let sum := (patternValue f32 (own.toNat % 2 ^ 32) : ℝ) + ((List.range 16).map fun i => (patternValue F (act i) : ℝ) * digit i * (2 : ℝ) ^ (-(t : Int))).sum
  let src := fun (code : Nat) => match code with
    | 0 => prev | 1 => o.a | 2 => o.b | 3 => o.c | 4 => spread w (g.const k.k0) | 5 => spread w (g.const k.k1) | _ => spread w k.cnt0
  (i < 256 / w →
    (g.op < 0x20 → B (spread w (g.const k.k0)) i = BitVec.ofInt w k.k0.toInt) ∧ (g.op = 0x00 → z = x) ∧ (g.op = 0x01 → exact (num x + num y)) ∧ (g.op = 0x02 → exact (num x - num y)) ∧ (g.op = 0x03 → exact (num x * num y))
    ∧ (g.op = 0x04 → z = BitVec.ofInt w (num x * num y / 2 ^ w))
    ∧ (g.op = 0x05 → z = x &&& y) ∧ (g.op = 0x06 → z = x ||| y) ∧ (g.op = 0x07 → z = x ^^^ y) ∧ (g.op = 0x08 → z = x &&& ~~~y)
    ∧ (g.op = 0x09 → z = x <<< sh) ∧ (g.op = 0x0A → z = if g.u then x >>> sh else x.sshiftRight sh) ∧ (g.op = 0x0B → z = x.rotateLeft sh) ∧ (g.op = 0x0C → z = x.rotateRight sh)
    ∧ (g.op = 0x0D → num z = min (num x) (num y)) ∧ (g.op = 0x0E → num z = max (num x) (num y))
    ∧ (g.op = 0x0F → z.toNat = (List.range w).countP fun j => x.getLsbD j) ∧ (g.op = 0x10 → z.toNat = if x = 0 then w else w - 1 - Nat.log2 x.toNat)
    ∧ (g.op = 0x11 → z = ones (x = y)) ∧ (g.op = 0x12 → z = ones (num x < num y)) ∧ (g.op = 0x13 → z = ones (num x ≤ num y)) ∧ (g.op = 0x14 → z = if pred then x else y)
    ∧ (g.op = 0x15 → z = (x * y).rotateLeft (w / 2)) ∧ (g.op = 0x16 → z = x ^^^ (x >>> sh)) ∧ (g.op = 0x1A → exact (0 - num x))
    ∧ (g.op = 0x18 → z = if i = 0 then x else B own (i - 1)) ∧ (g.op = 0x27 → near (x.toInt : ℝ))
    ∧ (Finite F x.toNat →
      (Finite F y.toNat →
        (g.op = 0x20 → near (v x + v y)) ∧ (g.op = 0x21 → near (v x - v y)) ∧ (g.op = 0x22 → near (v x * v y))
        ∧ (g.op = 0x23 → (z = x ∨ z = y) ∧ v z = min (v x) (v y)) ∧ (g.op = 0x24 → (z = x ∨ z = y) ∧ v z = max (v x) (v y))
        ∧ (g.op = 0x25 → (z = BitVec.allOnes w ∧ v x < v y) ∨ (z = 0 ∧ v y ≤ v x)) ∧ (g.op = 0x26 → (z = BitVec.allOnes w ∧ v x = v y) ∨ (z = 0 ∧ v x ≠ v y)))
      ∧ (g.op = 0x28 → ∃ r, RoundedInt .rne (v x) r ∧ z.toInt = max (-2 ^ (w - 1)) (min (2 ^ (w - 1) - 1) r)))
    ∧ (isNan x → ((g.op = 0x20 ∨ g.op = 0x21 ∨ g.op = 0x22) → z.toNat = F.nan false) ∧ ((g.op = 0x25 ∨ g.op = 0x26 ∨ g.op = 0x28) → z = 0)
      ∧ (¬isNan y → (g.op = 0x23 ∨ g.op = 0x24) → z = y)))
  ∧ (g.op = 0x17 → let r := ((List.range (256 / w)).map fun i => num (B a i)).sum
      lane0 (if g.sat then (if g.u then max 0 (min (2 ^ w - 1) r) else max (-2 ^ (w - 1)) (min (2 ^ (w - 1) - 1) r)) else r))
  ∧ (g.op = 0x19 → R = BitVec.ofNat 256 (L a (L b 0 % (256 / w))))
  ∧ (g.op = 0x29 → R = BitVec.ofNat 256 (((List.range (256 / w - 1)).map fun i => L a (i + 1)).foldl (fun r u => (F.add .rne r u).1) (L a 0)))
  ∧ (g.op = 0x2A → let p := a.toNat % 2 ^ 32
      let h := b.toNat % 2 ^ 32
      (Finite f32 p → Finite f32 h → R = if patternValue f32 p < patternValue f32 h then 0 else 1) ∧ ((f32.unpack p).isNan = true → R = BitVec.ofNat 256 (b.toNat / 2 ^ 48 % 2)))
  ∧ (g.op = 0x2B → R.toNat < 2 ^ 32 ∧ (q < t → R.toNat = own.toNat % 2 ^ 32)
      ∧ (t ≤ q → g.lane = 2 → Finite f32 (own.toNat % 2 ^ 32) → (∀ i, i < 16 → Finite F (act i)) → sum ≠ 0 → Rounded f32 .rne sum R.toNat))
  ∧ (g.sa < 7 → g.sb < 7 → stageStep k n g o prev = stageRun k n g o.pred (src g.sa) (src g.sb))
  ∧ (AMap.find k.own n = some c → (g.sa = 7 → g.sb < 7 → stageStep k n g o prev = stageRun k n g o.pred c (src g.sb))
      ∧ (g.sa < 7 → g.sb = 7 → stageStep k n g o prev = stageRun k n g o.pred (src g.sa) c))
  ∧ (AMap.find k.own n = none → g.op ≠ 0x18 → g.op ≠ 0x2B → (g.sa = 7 → g.sb < 7 → stageStep k n g o prev = src g.sb) ∧ (g.sa < 7 → g.sb = 7 → stageStep k n g o prev = src g.sa))

/-- R176, R194, R195, R359–R364: which act a compute context takes, and what a fire consumes, writes and leaves. A configuration token is applied or forwarded; stops pass when every named
input holds one of their level, a reduction gives its sum in place of a stop, and a mix of heads does not fire. A fire writes what ROUTE, EMIT and STEER say; the counters advance at
every fire, and a last one empties OWN. An lcu issues its indices within its window and takes its exit tokens, a merge, a carry and a join take the heads that
their kind names. The model's own choices in it: log 64. -/
def Obligations.FabricContextsFire : Prop := ∀ (j n m lv : Nat) (g : Fab) (p : Placed) (k : CtxState) (l : LinkState) (fr : Fire) (gated : Bool) (head : Nat → Option Tok)
    (r : RunArgs) (t a b x : Tok) (ins : List Nat) (src : Option Nat) (reset : Bool),
  let f := fun (hi lo : Nat) => k.word.toNat / 2 ^ lo % 2 ^ (hi + 1 - lo)
  let bit := fun (i : Nat) => k.word.getLsbD i
  let named := (List.range 4).filter fun m => bit (248 + m)
  let act := computeAct k gated head
  let has := fun (m : Nat) => (head m).isSome
  let H := p.headAt k
  let Q := fun (a : Act) => (fireCompute g p k a).copy
  let last := decide (f 63 48 = 0 ∨ k.cnt0 + 1 = f 63 48)
  let cnt0 := if last then 0 else k.cnt0 + 1
  let cnt1 := if f 47 32 ≠ 0 ∧ (bit 31 = false ∨ (f 63 48 ≠ 0 ∧ last = true)) then (k.cnt1 + 1) % f 47 32 else k.cnt1
  let plain := ∀ m ∈ named, ∀ x, head m = some x → x.kind ≠ .config
  let noStop := ∀ m ∈ named, ∀ x, head m = some x → x.kind ≠ .stop
  let stopAt := fun (m lv : Nat) => ∃ x, head m = some x ∧ x.kind = .stop ∧ x.pay.toNat % 4 = lv
  let dest := fun (hi lo : Nat) => t.pay.toNat / 2 ^ lo % 2 ^ (hi + 1 - lo)
  let good := dest 27 10 = 0 ∧ dest 3 0 < 4 * g.wide ∧ dest 6 4 < 4 * g.high
  let here := dest 3 0 = k.col ∧ dest 6 4 = k.row
  let count := t.pay.toNat / 2 ^ 32 % 2 ^ 32
  let go := (bit 30 = true → bit 250 = true → k.issued ≤ k.ended + f 29 27) ∧ (bit 30 = false → bit 249 = true → k.done < k.issued → ∃ x, head 1 = some x ∧ x.kind ≠ .stop)
  let row := fun (u : Nat) (w : List Nat) (o : Option Nat) => some (Act.join ((if u / 16 = 1 ∨ u / 16 = 2 then [0] else []) ++ (if u / 4 % 4 = 1 ∨ u / 4 % 4 = 2 then w else []))
    o (decide (u / 16 = 2 ∨ u / 4 % 4 = 2)))
  let joins := fun (u : Nat) => joinAct k a b = row u [1] (if u % 4 = 1 then some 0 else if u % 4 = 2 then some 1 else none)
  let op := k.gather (k.aligned H)
  let A := r.opA.getD (op (f 235 232))
  let P := (op (f 223 220)).getLsbD 0
  let rs := stageAll k { a := A, b := op (f 231 228), c := op (f 227 224), pred := P } 1 k.stages A
  let out := k.fireRun gated H r
  let route := fun (j : Nat) => match f (149 + 2 * j) (148 + 2 * j) with
    | 0 => AMap.getD rs 4 0 | 1 => A | 2 => if P then 1 else 0 | _ => if r.flag.getD last then 1 else 0
  let away := bit 147 = true ∧ j < 2 ∧ (j = 1) ≠ (P = true)
  let null := r.null = true ∨ (f 146 145 = 2 ∧ P = false)
  (p.links[n]? = some l → ∃ l', (p.apply fr).links[n]? = some l' ∧ l'.desc = l.desc
    ∧ l'.toks.map Tok.kind = (if l.dport < 4 && l.into fr.ctx l.dport && fr.takes.contains l.dport then l.toks.drop 1 else l.toks).map Tok.kind
        ++ (fr.puts.filter fun w => l.outOf fr.ctx w.1).map fun w => w.2.kind)
  ∧ (n < 4 → bit (248 + n) = true → head n = some t → t.kind = .config → (∀ m < n, bit (248 + m) = true → ∀ x, head m = some x → x.kind ≠ .config) → act = some (.config n))
  ∧ (H n = some t → t.kind = .config →
      (good → here → ∀ y ∈ (Q (.config n)).ctxs, y.col = k.col → y.row = k.row → y.ctx = dest 8 7 → if dest 9 9 = 1 then y.k1 = BitVec.ofNat 32 count else y.k0 = BitVec.ofNat 32 count)
      ∧ (good → ¬here → ∃ k', Q (.config n) = p.apply { takes := [n], puts := if bit 244 then [(0, t)] else [], ctx := k' } ∧ k'.cnt0 = cnt0 ∧ k'.k0 = k.k0 ∧ k'.k1 = k.k1)
      ∧ (¬good → ∃ k', Q (.config n) = p.apply { takes := [n], puts := [], ctx := k' } ∧ k'.cnt0 = cnt0 ∧ k'.k0 = k.k0 ∧ k'.k1 = k.k1))
  ∧ (plain →
    (k.kind ≠ 3 → k.kind ≠ 4 → named ≠ [] →
      ((∀ m ∈ named, stopAt m lv) → act = some (if k.kind = 0 ∧ f 146 145 = 1 ∧ lv = 1 then .fold named else .stops lv named))
      ∧ (n ∈ named → m ∈ named → stopAt n lv → ¬stopAt m lv → act = none))
    ∧ (noStop → (k.kind = 0 → act = if named.all has then some (.run named) else none)
      ∧ (k.kind = 1 → gated = true → act = if has 0 then some (.run [0]) else if has 1 then some (.run [1]) else none)
      ∧ (k.kind = 1 → gated = false → act = let q := [0, 1] ++ (if f 223 220 = 2 ∨ f 223 220 = 3 then [f 223 220] else [])
          if q.all has then some (.run q) else none)
      ∧ (k.kind = 2 → act = if k.inLoop then (if has 1 && has 2 then some (.run [1, 2]) else none) else if has 0 then some (.run [0]) else none))
    ∧ (k.kind = 3 → k.stopDue = true → act = some .lastStop)
    ∧ (k.kind = 3 → k.stopDue = false → (k.left ≠ 0 → (go → act = some (.index false)) ∧ (¬go → act = none))
      ∧ (k.left = 0 → (head 0 = none → act = none) ∧ (head 0 = some t → (t.kind = .stop → act = some (.stops (t.pay.toNat % 4) [0]))
        ∧ (t.kind = .data → count = 0 → act = some .noIndex)
        ∧ (t.kind = .null ∨ (t.kind = .data ∧ count ≠ 0) → (go → act = some (.index true)) ∧ (¬go → act = none)))))
    ∧ (k.kind = 4 → head 0 = some a → head 1 = some b → act = joinAct k a b) ∧ (k.kind = 4 → (head 0 = none ∨ head 1 = none) → act = none))
  ∧ (a.kind = .data → b.kind = .data → joins (if a.pay.toNat % 2 ^ 32 < b.pay.toNat % 2 ^ 32 then f 23 18 else if a.pay.toNat % 2 ^ 32 = b.pay.toNat % 2 ^ 32 then f 17 12 else f 11 6))
  ∧ (a.kind = .stop → a.pay.toNat % 4 = 1 → b.kind = .data → joins (f 11 6)) ∧ (a.kind = .data → b.kind = .stop → b.pay.toNat % 4 = 1 → joins (f 23 18))
  ∧ (a.kind = .stop → b.kind = .stop → joinAct k a b = if a.pay.toNat % 4 = b.pay.toNat % 4 then some (.stops (a.pay.toNat % 4) [0, 1]) else none)
  ∧ (out.1.cnt0 = cnt0 ∧ out.1.cnt1 = cnt1 ∧ out.1.own = (if last then [] else if r.null then k.own else rs)
    ∧ ((j, x) ∈ out.2.1 ↔ j < 4 ∧ bit (244 + j) = true ∧ ¬(k.kind = 3 ∧ j = 2) ∧ r.quiet = false ∧ (f 146 145 = 1 → last = true) ∧ (gated = true → f 146 145 = 2 → P = true)
        ∧ x.pkt = r.pkt ∧ x.itr = (if f 146 145 = 1 then [] else r.itr)
        ∧ (away → gated = false ∧ x.kind = .null ∧ x.pay = 0) ∧ (¬away → null → x.kind = .null ∧ x.pay = 0) ∧ (¬away → ¬null → x.kind = .data ∧ x.pay = route j)))
  ∧ (∃ q : RunArgs, ∃ k' : CtxState, Q (.run ins) = p.apply { takes := ins, puts := (k'.fireRun g.gated H q).2.1, ctx := (k'.fireRun g.gated H q).1 }
      ∧ (k.kind = 0 → k' = k ∧ q.opA = none ∧ q.quiet = false ∧ (q.null = true ↔ ∃ m ∈ ins, ∃ x, H m = some x ∧ x.kind = .null))
      ∧ (k.kind = 1 → g.gated = false → f 223 220 < 4 → H (f 223 220) = some t → t.kind = .data → bit (248 + f 223 220) = true → f (237 + 2 * f 223 220) (236 + 2 * f 223 220) = 0 →
          q.opA = some (k.aligned H (if t.pay.getLsbD 0 then 1 else 0)))
      ∧ (k.kind = 2 → k.inLoop = false → k' = { k with inLoop := true } ∧ q.opA = some (k.aligned H 0) ∧ q.quiet = false)
      ∧ (k.kind = 2 → k.inLoop = true → H 2 = some t → t.kind = .data → q.opA = some (k.aligned H 1) ∧ q.quiet = t.pay.getLsbD 0 ∧ k' = { k with inLoop := !t.pay.getLsbD 0 }))
  ∧ Q (.fold ins) = p.apply { takes := ins, puts := ((List.range 4).filter fun j => bit (244 + j)).map fun j => (j, ⟨.data, AMap.getD k.own 4 0, k.pktOf (ins.filterMap H), []⟩), ctx := { k with own := [], cnt0 := 0, cnt1 := 0 } }
  ∧ (k.kind ≠ 3 → ∃ k', Q (.stops lv ins) = p.apply { takes := ins, puts := ((List.range 4).filter fun j => bit (244 + j)).map fun j => (j, ⟨.stop, BitVec.ofNat 256 lv, 0, []⟩), ctx := k' }
      ∧ k'.cnt0 = cnt0 ∧ k'.cnt1 = cnt1)
  ∧ (∃ q : RunArgs, ∃ k' : CtxState, Q (.join ins src reset) = p.apply { takes := ins, puts := (k.fireRun g.gated H q).2.1, ctx := k' } ∧ k'.cnt0 = (if reset then 0 else cnt0)
      ∧ q.opA = src.map (k.aligned H) ∧ (src = none → q.null = true) ∧ (∀ m x, src = some m → H m = some x → q.null = false))
  ∧ (k.nullIter = false → ∃ q : RunArgs, ∃ k' : CtxState, ∃ ps, Q (.index false) = p.apply { takes := if bit 30 = false ∧ bit 249 = true ∧ k.done < k.issued then [1] else [], puts := (k.fireRun g.gated H q).2.1 ++ ps, ctx := k' }
      ∧ q.opA = some (BitVec.ofNat 256 k.index) ∧ q.null = false ∧ q.quiet = false ∧ q.flag = some (k.left == 1) ∧ k'.index = k.index + 1 ∧ k'.left = k.left - 1
      ∧ k'.issued = k.issued + 1 ∧ k'.cnt0 = cnt0 ∧ (k'.stopDue = true ↔ k.left = 1 ∧ f 26 25 ≠ 0) ∧ (ps ≠ [] ↔ bit 246 = true ∧ bit 250 = false) ∧ ∀ y ∈ ps, y.1 = 2 ∧ y.2.kind = .data ∧ y.2.pay = 1)
  ∧ (H 0 = some t → t.kind = .data → ∃ k', (∃ ts ps, Q (.index true) = p.apply { takes := ts, puts := ps, ctx := k' }) ∧ k'.index = t.pay.toNat % 2 ^ 32 + 1 ∧ k'.left = count - 1
      ∧ k'.issued = k.issued + 1)
  ∧ (k.mem = false → k.kind = 3 → bit 250 = true → k.ended < k.issued → H 2 = some t → t.kind = .data → (p.lcuId k, k.ended) ∉ g.squashed →
      ∃ e k', lcuExit g p k = some e ∧ e.copy = p.apply { takes := [2], puts := if bit 246 then [(2, ⟨.data, 1, t.pkt, []⟩)] else [], ctx := k' } ∧ k'.ended = k.ended + 1
        ∧ (t.pay.getLsbD 0 = false → e.squash = [] ∧ k'.left = k.left)
        ∧ (t.pay.getLsbD 0 = true → (∀ y, y ∈ e.squash ↔ y.1 = p.lcuId k ∧ k.ended < y.2 ∧ y.2 < k.issued) ∧ ((∀ y ∈ k.starts, y ≤ k.ended) → k'.left = 0)))

/-- R366–R368, R399: what a memory context reads, writes and gives. Its generators walk their patterns; an operand store reads one buffer and writes another, which swap at a
stop or a walk's end, and its sides take turns; a null makes no access and gives a null; a read-modify-write leaves what RMWOP says and gives the old value; a FIFO gives its words in
their order and a line buffer its columns; an endpoint moves an element of the ring and publishes its count. A done token follows each access where it is asked for. The model's own choices in it: log 65 and 66. -/
def Obligations.MemoryCellsAccess : Prop := ∀ (s : State) (c j key hk : Nat) (p : Placed) (k : CtxState) (i : Image) (head : Nat → Option Tok) (t d : Tok) (v : BitVec 256)
    (rest : List (BitVec 256)),
  let f := fun (hi lo : Nat) => k.word.toNat / 2 ^ lo % 2 ^ (hi + 1 - lo)
  let bit := fun (i : Nat) => k.word.getLsbD i
  let named := (List.range 4).filter fun m => bit (248 + m)
  let G := fun (one : Bool) (hi lo : Nat) => f (hi + if one then 0 else 112) (lo + if one then 0 else 112)
  let sx := fun (w x : Nat) => (BitVec.ofNat w x).toInt
  let c0 := fun (one : Bool) => G one 37 28 + 1
  let c1 := fun (one : Bool) => G one 27 18 + 1
  let walk := fun (one : Bool) => c0 one * c1 one * (G one 17 8 + 1)
  let off := fun (one : Bool) (n : Nat) => sx 32 (G one 105 74) + 8 * (sx 12 (G one 73 62) * (n % c0 one : Nat) + sx 12 (G one 61 50) * (n / c0 one % c1 one : Nat)
    + sx 12 (G one 49 38) * (n / c0 one / c1 one % (G one 17 8 + 1) : Nat))
  let from_ := fun (x : Tok) => ((x.pay.toNat % 2 ^ 64 : Nat) : Int)
  let sz := match f 231 229 with | 0 => 1 | 1 => 2 | 2 => 4 | 3 => 8 | _ => 32
  let nb := if k.kind = 0 ∧ bit 111 = true then f 241 240 + 1 else 1
  let size := match nb with | 1 => 8192 | 2 => 4096 | _ => 2048
  let place := fun (b : Nat) (a : Int) => cellKey c p.server (memCell p k) ((if k.kind = 0 then b * size else 0) + (a % (size : Nat)).toNat / sz * sz)
  let H := p.headAt k
  let ungated := bit 237 = false ∧ bit 235 = false
  let due := (if 1 ≤ f 119 118 ∧ (k.ag0 + 1) % c0 false = 0 then [1] else []) ++ (if 2 ≤ f 119 118 ∧ (k.ag0 + 1) % (c0 false * c1 false) = 0 then [2] else [])
    ++ (if 3 ≤ f 119 118 ∧ (k.ag0 + 1) % walk false = 0 then [3] else [])
  let Fires := fun (a : Act) (s' : State) (takes : List Nat) (kind : TokKind) (out : List (BitVec 256)) (k' : CtxState) => ∃ i' puts, fireMem s c i j p k a = .done s' i'
    ∧ i'.copies = i.copies.set j (p.apply { takes := takes, puts := puts, ctx := k' })
    ∧ puts.map (fun w => (w.1, w.2.kind, w.2.pay)) = (if bit 244 then out.map fun x => (0, kind, x) else [])
        ++ if bit 236 = true ∧ bit 247 = true then [(3, kind, if kind = .null then 0 else 1)] else []
  let old := fun (a : Int) => ofBytes (s.bytesAt sz (place 0 a))
  let B := fun (x : Nat) => BitVec.ofNat (8 * sz) x
  let new := fun (o : BitVec (8 * sz)) (y : BitVec (8 * sz)) => match f 234 232 with
    | 0 => o + y | 1 => B (addF32 o.toNat y.toNat) | 2 => if o.sle y then o else y | 3 => if o.sle y then y else o | 4 => o &&& y | 5 => o ||| y | 6 => o ^^^ y | _ => y
  let acts := sideActs k head
  let has := fun (m : Nat) => (head m).isSome = true
  let can := fun (one : Bool) => G one 111 111 = 1 ∧ (G one 109 108 = 1 ∨ (G one 109 108 = 2 ∧ (if one then k.base1 else k.base0) = none) → has (if one then 2 else 0)) ∧ (one = true → has 1)
  let ring := fun (one : Bool) => sx 32 (G one 105 74)
  let rows := f 242 240 + 1
  k.mem = true → ungated → s.poison = [] →
    (k.kind = 0 → bit 222 = false →
      (f 221 220 = 1 → H 0 = some t → t.kind = .data → ∃ k', Fires .read s [0] .data [BitVec.ofNat 256 (ofBytes (s.bytesAt sz (place ((k.buf + nb - 1) % nb) (from_ t + off false k.ag0))))] k'
          ∧ k'.ag0 = k.ag0 + 1 ∧ k'.stopsDue = due ∧ k'.lastWrite = false)
      ∧ (f 221 220 = 0 → k.base0 = none → ∃ k', Fires .read s [] .data [BitVec.ofNat 256 (ofBytes (s.bytesAt sz (place ((k.buf + nb - 1) % nb) (off false k.ag0))))] k'
          ∧ k'.ag0 = k.ag0 + 1 ∧ k'.stopsDue = due ∧ k'.lastWrite = false)
      ∧ (f 221 220 = 1 → H 0 = some t → t.kind = .null → Fires .read s [0] .null [0] { k with lastWrite := false }))
    ∧ (k.kind = 0 → bit 110 = false → f 109 108 = 0 → k.base1 = none → H 1 = some d → d.itr = [] → Inv s →
      (d.kind = .data → ∃ s' k', Fires .write s' [1] .data [] k' ∧ Stored (place (k.buf % nb) (off true k.ag1)) (bytesOf sz d.pay.toNat) s s' ∧ k'.ag1 = k.ag1 + 1 ∧ k'.lastWrite = true
        ∧ k'.buf = if nb ≠ 1 ∧ (k.ag1 + 1) % walk true = 0 then (k.buf + 1) % nb else k.buf)
      ∧ (d.kind = .null → Fires .write s [1] .null [] { k with lastWrite := true }))
    ∧ (∃ i', fireMem s c i j p k .swap = .done s i' ∧ i'.copies = i.copies.set j (p.apply { takes := [1], puts := [], ctx := { k with buf := (k.buf + 1) % nb } }))
    ∧ (∃ i', fireMem s c i j p k .dueStop = .done s i' ∧ i'.copies = i.copies.set j (p.apply { takes := [], puts := if bit 244 then [(0, ⟨.stop, BitVec.ofNat 256 (k.stopsDue.headD 0), 0, []⟩)] else [], ctx := { k with stopsDue := k.stopsDue.drop 1 } }))
    ∧ (k.kind = 3 → bit 222 = false → f 221 220 = 1 → H 0 = some t → H 1 = some d → t.kind = .data → d.kind = .data → t.itr = [] → d.itr = [] → Inv s →
      let a := from_ t + off false k.ag0
      ∃ s' k', Fires .write s' [0, 1] .data [BitVec.ofNat 256 (old a)] k' ∧ Stored (place 0 a) (bytesOf sz (new (B (old a)) (B d.pay.toNat)).toNat) s s' ∧ k'.ag0 = k.ag0 + 1)
    ∧ (k.kind = 1 → H 1 = some d → d.itr = [] → (d.kind = .data → Fires .push s [1] .data [] { k with queue := k.queue ++ [BitVec.ofNat 256 (d.pay.toNat % 2 ^ 64)] })
      ∧ (k.queue = v :: rest → v.toNat < 2 ^ 64 → bit 238 = false → Fires .pop s [] .data [v] { k with queue := rest }))
    ∧ (k.kind = 2 → H 1 = some d → d.itr = [] → d.kind = .data → k.queue.length = rows * c0 false → 8 * sz * rows ≤ 256 → ∃ out k', Fires .push s [1] .data [out] k'
        ∧ k'.queue = (BitVec.ofNat 256 (d.pay.toNat % 2 ^ (8 * sz)) :: k.queue).take (rows * c0 false) ∧ out.toNat < 2 ^ (8 * sz * rows)
        ∧ ∀ r, r < rows → out.toNat / 2 ^ (8 * sz * r) % 2 ^ (8 * sz) = (k'.queue.getD (r * c0 false) 0).toNat % 2 ^ (8 * sz))
    ∧ ((∀ m ∈ named, ∀ x, head m = some x → x.kind ≠ .config ∧ x.kind ≠ .stop) →
      (k.kind = 0 → (can true → can false → acts = if k.lastWrite then [.read, .write] else [.write, .read]) ∧ (can true → ¬can false → acts = [.write]) ∧ (¬can true → can false → acts = [.read])
        ∧ (¬can true → ¬can false → acts = []))
      ∧ (k.kind = 4 → bit 243 = true → G true 109 108 ≠ 2 → (∀ x, head 1 = some x → x.kind = .data) → (∀ x, head 2 = some x → x.kind = .data) →
          acts = if bit 111 = true ∧ has 1 ∧ (G true 109 108 = 1 → has 2) ∧ k.moved < k.seenCount + walk true then [.put] else [])
      ∧ (k.kind = 4 → bit 243 = false → G false 109 108 = 0 → acts = if bit 223 = true ∧ k.moved < k.seenCount then [.take] else []))
    ∧ (i.stream = true → i.packet 0 = none → f 221 220 = 0 → k.base0 = none → bit 238 = false →
        cellAccess s c i 0 (cellMark p k) (BitVec.ofInt 64 (off false k.ag0)) sz .read 7 = .ok key false none → sz ≤ 8 → lineForeign s key (keyOf s (serverOwner s c)) (bits (BitVec.ofInt 64 (off false k.ag0)) 54 6) = false →
        ((k.moved + 1) % 2 ^ f 242 240 ≠ 0 → ∃ k', Fires .take s [] .data [BitVec.ofNat 256 (ofBytes (s.bytesAt sz key))] k' ∧ k'.moved = k.moved + 1 ∧ k'.ag0 = k.ag0 + 1 ∧ k'.stopsDue = due)
        ∧ ((k.moved + 1) % 2 ^ f 242 240 = 0 → cellAccess s c i 0 (cellMark p k) (BitVec.ofInt 64 (ring false - 16)) 8 .write 8 = .ok hk false none → Inv s → s.writes = [] →
            lineForeign s hk (keyOf s (serverOwner s c)) (bits (BitVec.ofInt 64 (ring false - 16)) 54 6) = false →
            ∃ s' k', Fires .take s' [] .data [BitVec.ofNat 256 (ofBytes (s.bytesAt sz key))] k' ∧ k'.moved = k.moved + 1 ∧ Stored hk (bytesOf 8 (k.moved + 1)) s s'))
    ∧ (i.stream = true → i.packet 0 = none → f 109 108 = 0 → k.base1 = none → H 1 = some d → d.kind = .data → d.itr = [] → sz ≤ 8 → (k.moved + 1) % 2 ^ f 242 240 ≠ 0 → (k.ag1 + 1) % walk true ≠ 0 →
        cellAccess s c i 0 (cellMark p k) (BitVec.ofInt 64 (off true k.ag1)) sz .write 8 = .ok key false none → Inv s →
        lineForeign s key (keyOf s (serverOwner s c)) (bits (BitVec.ofInt 64 (off true k.ag1)) 54 6) = false →
        ∃ s' k', Fires .put s' [1] .data [] k' ∧ k'.moved = k.moved + 1 ∧ k'.ag1 = k.ag1 + 1 ∧ Stored key (bytesOf sz d.pay.toNat) s s')
end
end

