-- ==== Sys2Proof/Laws/Encoding.lean ====
section
/-! SUPPORT. Lemmas about the decoder's rows and the fields of a word: a word matches at most one row, and a field placed in a
word is read back from it. -/

namespace Sys2Proof

/-- No word has the fixed bits of both rows. -/
def OpRow.apart (r q : OpRow) : Prop := r.pat &&& q.mask ≠ q.pat &&& r.mask

theorem or_and_word (a b m : IWord) : (a ||| b) &&& m = (a &&& m) ||| (b &&& m) := by
  ext i hi
  simp only [BitVec.getElem_and, BitVec.getElem_or]
  cases a[i] <;> cases b[i] <;> cases m[i] <;> rfl

theorem and_and_comm (w m q : IWord) : (w &&& m) &&& q = (w &&& q) &&& m := by
  rw [BitVec.and_assoc, BitVec.and_comm m q, ← BitVec.and_assoc]

/-- Among rows that are apart, the row a word matches is the one found. -/
theorem findRow_of_match (w : IWord) (rows : List OpRow) (h : rows.Pairwise OpRow.apart) (n : Nat) (r : OpRow)
    (hr : rows[n]? = some r) (hw : w &&& r.mask = r.pat) : findRow rows w = some (r.build w) := by
  induction rows generalizing n with
  | nil => simp at hr
  | cons q rest ih =>
    rw [List.pairwise_cons] at h
    cases n with
    | zero =>
      simp only [List.getElem?_cons_zero, Option.some.injEq] at hr
      subst hr
      simp only [findRow, if_pos hw]
    | succ n =>
      simp only [List.getElem?_cons_succ] at hr
      have hne : w &&& q.mask ≠ q.pat := fun hq =>
        h.1 r (List.mem_of_getElem? hr) (by rw [← hq, ← hw]; exact and_and_comm w q.mask r.mask)
      simp only [findRow, if_neg hne]
      exact ih h.2 n hr

/-- A row a word is found in is a row that it matches. -/
theorem match_of_findRow (w : IWord) (rows : List OpRow) (i : Instr) (h : findRow rows w = some i) :
    ∃ r ∈ rows, w &&& r.mask = r.pat ∧ r.build w = i := by
  induction rows with
  | nil => simp [findRow] at h
  | cons q rest ih =>
    simp only [findRow] at h
    split at h
    · exact ⟨q, by simp, ‹_›, by simpa using h⟩
    · obtain ⟨r, hr, h1, h2⟩ := ih h
      exact ⟨r, by simp [hr], h1, h2⟩

theorem apart_iff (r q : OpRow) : r.apart q ↔ decide (r.pat &&& q.mask ≠ q.pat &&& r.mask) = true := by
  simp [OpRow.apart]

set_option maxRecDepth 20000 in
/-- No two rows of the opcode map overlap (R249). -/
theorem opRows_apart : opRows.Pairwise OpRow.apart := by
  have h : opRows.Pairwise (fun r q => decide (r.pat &&& q.mask ≠ q.pat &&& r.mask) = true) := by decide +kernel
  exact h.imp fun {r q} hx => (apart_iff r q).2 hx

/-- A word with a row's fixed bits decodes to what the row reads, when that is well-formed. -/
theorem decode_of_row (n : Nat) (w : IWord) (i : Instr) (r : OpRow) (hr : opRows[n]? = some r) (hw : w &&& r.mask = r.pat)
    (hb : r.build w = i) (hi : wellFormed i = true) : decode w = some i := by
  simp only [decode, findRow_of_match w opRows opRows_apart n r hr hw, hb, hi, if_true]

/-! ### Fields -/

theorem getLsbD_put {n : Nat} (v : BitVec n) (lo i : Nat) :
    (put v lo).getLsbD i = (decide (i < 32) && decide (lo ≤ i) && v.getLsbD (i - lo)) := by
  simp only [put, BitVec.getLsbD_shiftLeft, BitVec.getLsbD_setWidth]
  by_cases h : i < 32
  · have h2 : i - lo < 32 := by omega
    by_cases h' : lo ≤ i
    · simp [h, h', h2, Nat.not_lt.2 h']
    · simp [h, h', Nat.not_le.1 h']
  · simp [h]

/-- A field is read back from where it was placed. -/
theorem field_put {n : Nat} (v : BitVec n) (lo : Nat) (h : lo + n ≤ 32) : (put v lo).extractLsb' lo n = v := by
  apply BitVec.eq_of_getLsbD_eq
  intro i hi
  simp only [BitVec.getLsbD_extractLsb', getLsbD_put, hi, decide_true, Bool.true_and]
  have h1 : lo + i < 32 := by omega
  simp [h1]

/-- A field does not reach into another. -/
theorem field_put_other {n : Nat} (v : BitVec n) (lo lo' n' : Nat) (h : lo' + n' ≤ lo ∨ lo + n ≤ lo') :
    (put v lo).extractLsb' lo' n' = 0 := by
  apply BitVec.eq_of_getLsbD_eq
  intro i hi
  simp only [BitVec.getLsbD_extractLsb', getLsbD_put, hi, decide_true, Bool.true_and]
  by_cases h1 : lo ≤ lo' + i
  · have : n ≤ lo' + i - lo := by omega
    simp [BitVec.getLsbD_of_ge v _ this]
  · simp [h1]

/-- A field has no bit in a mask that leaves its place open. -/
theorem put_and {n : Nat} (v : BitVec n) (lo : Nat) (m : IWord) (h : m.extractLsb' lo n = 0) : put v lo &&& m = 0 := by
  apply BitVec.eq_of_getLsbD_eq
  intro i hi
  simp only [BitVec.getLsbD_and, getLsbD_put]
  by_cases h1 : lo ≤ i
  · by_cases h2 : i - lo < n
    · have := congrArg (fun x => x.getLsbD (i - lo)) h
      simp only [BitVec.getLsbD_extractLsb', h2, decide_true, Bool.true_and] at this
      rw [show lo + (i - lo) = i by omega] at this
      simp [this]
    · simp [BitVec.getLsbD_of_ge v _ (by omega : n ≤ i - lo)]
  · simp [h1]

theorem field_or (a b : IWord) (lo n : Nat) : (a ||| b).extractLsb' lo n = a.extractLsb' lo n ||| b.extractLsb' lo n := by
  apply BitVec.eq_of_getLsbD_eq
  intro i hi
  simp [hi]

end Sys2Proof
end

