-- ==== Sys2Proof/Laws/Maps.lean ====
section
/-! SUPPORT. The laws of the finite maps: a read after a write, of the same key and of another. -/

namespace Sys2Proof.Machine

@[simp] theorem AMap.find_set_self {α : Type} (m : AMap α) (k : Nat) (v : α) : AMap.find (AMap.set m k v) k = some v := by
  induction m with
  | nil => simp [AMap.set, AMap.find]
  | cons e m ih =>
    obtain ⟨j, w⟩ := e
    by_cases h : j = k <;> simp [AMap.set, AMap.find, h, ih]

theorem AMap.find_set_ne {α : Type} (m : AMap α) {j k : Nat} (v : α) (h : j ≠ k) : AMap.find (AMap.set m k v) j = AMap.find m j := by
  induction m with
  | nil => simp [AMap.set, AMap.find, Ne.symm h]
  | cons e m ih =>
    obtain ⟨i, w⟩ := e
    by_cases hk : i = k
    · subst hk; simp [AMap.set, AMap.find, Ne.symm h]
    · by_cases hj : i = j
      · subst hj; simp [AMap.set, AMap.find, hk]
      · simp [AMap.set, AMap.find, hk, hj, ih]

@[simp] theorem AMap.getD_set_self {α : Type} (m : AMap α) (k : Nat) (v d : α) : AMap.getD (AMap.set m k v) k d = v := by
  simp [AMap.getD]

theorem AMap.getD_set_ne {α : Type} (m : AMap α) {j k : Nat} (v d : α) (h : j ≠ k) :
    AMap.getD (AMap.set m k v) j d = AMap.getD m j d := by
  simp [AMap.getD, AMap.find_set_ne m v h]

@[simp] theorem AMap.getD_nil {α : Type} (k : Nat) (d : α) : AMap.getD ([] : AMap α) k d = d := rfl

/-- An erased key is listed nowhere. -/
@[simp] theorem AMap.find_erase {α : Type} (m : AMap α) (k : Nat) : AMap.find (AMap.erase m k) k = none := by
  induction m with
  | nil => rfl
  | cons e rest ih => by_cases hk : e.1 = k <;> simp [AMap.erase, AMap.find, hk, ih]

theorem AMap.find_erase_ne {α : Type} (m : AMap α) {j k : Nat} (h : j ≠ k) : AMap.find (AMap.erase m k) j = AMap.find m j := by
  induction m with
  | nil => rfl
  | cons e m ih =>
    obtain ⟨i, w⟩ := e
    by_cases hk : i = k
    · subst hk; simp [AMap.erase, AMap.find, Ne.symm h, ih]
    · by_cases hj : i = j
      · subst hj; simp [AMap.erase, AMap.find, hk]
      · simp [AMap.erase, AMap.find, hk, hj, ih]

theorem AMap.set_set {α : Type} (m : AMap α) (k : Nat) (v w : α) : AMap.set (AMap.set m k v) k w = AMap.set m k w := by
  induction m with
  | nil => simp [AMap.set]
  | cons e m ih =>
    obtain ⟨j, u⟩ := e
    by_cases h : j = k <;> simp [AMap.set, h, ih]

end Sys2Proof.Machine
end

