-- ==== Sys2Proof/Laws/State.lean ====
section
/-! SUPPORT. What each update of the state leaves as it was: one lemma for each field. -/

namespace Sys2Proof.Machine

/-! ### setThread -/

@[simp] theorem setThread_board (s : State) (t : Nat) (v : ThreadState) : (setThread s t v).board = s.board := rfl
@[simp] theorem setThread_queues (s : State) (t : Nat) (v : ThreadState) : (setThread s t v).queues = s.queues := rfl
@[simp] theorem setThread_helm (s : State) (t : Nat) (v : ThreadState) : (setThread s t v).helm = s.helm := rfl
@[simp] theorem setThread_req (s : State) (t : Nat) (v : ThreadState) : (setThread s t v).req = s.req := rfl
@[simp] theorem setThread_own (s : State) (t : Nat) (v : ThreadState) : (setThread s t v).own = s.own := rfl
@[simp] theorem setThread_records (s : State) (t : Nat) (v : ThreadState) : (setThread s t v).records = s.records := rfl
@[simp] theorem setThread_dies (s : State) (t : Nat) (v : ThreadState) : (setThread s t v).dies = s.dies := rfl
@[simp] theorem setThread_inv (s : State) (t : Nat) (v : ThreadState) : (setThread s t v).inv = s.inv := rfl
@[simp] theorem setThread_clusters (s : State) (t : Nat) (v : ThreadState) : (setThread s t v).clusters = s.clusters := rfl
@[simp] theorem setThread_cores (s : State) (t : Nat) (v : ThreadState) : (setThread s t v).cores = s.cores := rfl
@[simp] theorem setThread_crews (s : State) (t : Nat) (v : ThreadState) : (setThread s t v).crews = s.crews := rfl
@[simp] theorem setThread_nextCrew (s : State) (t : Nat) (v : ThreadState) : (setThread s t v).nextCrew = s.nextCrew := rfl
@[simp] theorem setThread_reserves (s : State) (t : Nat) (v : ThreadState) : (setThread s t v).reserves = s.reserves := rfl
@[simp] theorem setThread_preempting (s : State) (t : Nat) (v : ThreadState) : (setThread s t v).preempting = s.preempting := rfl
@[simp] theorem setThread_vsaves (s : State) (t : Nat) (v : ThreadState) : (setThread s t v).vsaves = s.vsaves := rfl
@[simp] theorem setThread_frozen (s : State) (t : Nat) (v : ThreadState) : (setThread s t v).frozen = s.frozen := rfl
@[simp] theorem setThread_moves (s : State) (t : Nat) (v : ThreadState) : (setThread s t v).moves = s.moves := rfl
@[simp] theorem setThread_counts (s : State) (t : Nat) (v : ThreadState) : (setThread s t v).counts = s.counts := rfl
@[simp] theorem setThread_messages (s : State) (t : Nat) (v : ThreadState) : (setThread s t v).messages = s.messages := rfl
@[simp] theorem setThread_spawns (s : State) (t : Nat) (v : ThreadState) : (setThread s t v).spawns = s.spawns := rfl
@[simp] theorem setThread_mem (s : State) (t : Nat) (v : ThreadState) : (setThread s t v).mem = s.mem := rfl
@[simp] theorem setThread_lines (s : State) (t : Nat) (v : ThreadState) : (setThread s t v).lines = s.lines := rfl
@[simp] theorem setThread_ciphered (s : State) (t : Nat) (v : ThreadState) : (setThread s t v).ciphered = s.ciphered := rfl
@[simp] theorem setThread_loose (s : State) (t : Nat) (v : ThreadState) : (setThread s t v).loose = s.loose := rfl
@[simp] theorem setThread_wrote (s : State) (t : Nat) (v : ThreadState) : (setThread s t v).wrote = s.wrote := rfl
@[simp] theorem setThread_work (s : State) (t : Nat) (v : ThreadState) : (setThread s t v).work = s.work := rfl
@[simp] theorem setThread_full (s : State) (t : Nat) (v : ThreadState) : (setThread s t v).full = s.full := rfl
@[simp] theorem setThread_poison (s : State) (t : Nat) (v : ThreadState) : (setThread s t v).poison = s.poison := rfl
@[simp] theorem setThread_writes (s : State) (t : Nat) (v : ThreadState) : (setThread s t v).writes = s.writes := rfl
@[simp] theorem setThread_posted (s : State) (t : Nat) (v : ThreadState) : (setThread s t v).posted = s.posted := rfl
@[simp] theorem setThread_homeRel (s : State) (t : Nat) (v : ThreadState) : (setThread s t v).homeRel = s.homeRel := rfl
@[simp] theorem setThread_fillClk (s : State) (t : Nat) (v : ThreadState) : (setThread s t v).fillClk = s.fillClk := rfl
@[simp] theorem setThread_fullFences (s : State) (t : Nat) (v : ThreadState) : (setThread s t v).fullFences = s.fullFences := rfl
@[simp] theorem setThread_nextWrite (s : State) (t : Nat) (v : ThreadState) : (setThread s t v).nextWrite = s.nextWrite := rfl
@[simp] theorem setThread_nextAgent (s : State) (t : Nat) (v : ThreadState) : (setThread s t v).nextAgent = s.nextAgent := rfl
@[simp] theorem setThread_nextMsg (s : State) (t : Nat) (v : ThreadState) : (setThread s t v).nextMsg = s.nextMsg := rfl
@[simp] theorem setThread_cur (s : State) (t : Nat) (v : ThreadState) : (setThread s t v).cur = s.cur := rfl
@[simp] theorem setThread_outer (s : State) (t : Nat) (v : ThreadState) : (setThread s t v).outer = s.outer := rfl
@[simp] theorem setThread_outside (s : State) (t : Nat) (v : ThreadState) : (setThread s t v).outside = s.outside := rfl
@[simp] theorem setThread_readData (s : State) (t : Nat) (v : ThreadState) : (setThread s t v).readData = s.readData := rfl
@[simp] theorem setThread_readBytes (s : State) (t : Nat) (v : ThreadState) : (setThread s t v).readBytes = s.readBytes := rfl
@[simp] theorem setThread_accessOk (s : State) (t : Nat) (v : ThreadState) : (setThread s t v).accessOk = s.accessOk := rfl
@[simp] theorem setThread_turn (s : State) (t : Nat) (v : ThreadState) : (setThread s t v).turn = s.turn := rfl
@[simp] theorem setThread_fresh (s : State) (t : Nat) (v : ThreadState) : (setThread s t v).fresh = s.fresh := rfl
@[simp] theorem setThread_inputs (s : State) (t : Nat) (v : ThreadState) : (setThread s t v).inputs = s.inputs := rfl

/-! ### setCore -/

@[simp] theorem setCore_board (s : State) (k : Nat) (v : CoreState) : (setCore s k v).board = s.board := rfl
@[simp] theorem setCore_queues (s : State) (k : Nat) (v : CoreState) : (setCore s k v).queues = s.queues := rfl
@[simp] theorem setCore_helm (s : State) (k : Nat) (v : CoreState) : (setCore s k v).helm = s.helm := rfl
@[simp] theorem setCore_req (s : State) (k : Nat) (v : CoreState) : (setCore s k v).req = s.req := rfl
@[simp] theorem setCore_own (s : State) (k : Nat) (v : CoreState) : (setCore s k v).own = s.own := rfl
@[simp] theorem setCore_records (s : State) (k : Nat) (v : CoreState) : (setCore s k v).records = s.records := rfl
@[simp] theorem setCore_dies (s : State) (k : Nat) (v : CoreState) : (setCore s k v).dies = s.dies := rfl
@[simp] theorem setCore_inv (s : State) (k : Nat) (v : CoreState) : (setCore s k v).inv = s.inv := rfl
@[simp] theorem setCore_clusters (s : State) (k : Nat) (v : CoreState) : (setCore s k v).clusters = s.clusters := rfl
@[simp] theorem setCore_threads (s : State) (k : Nat) (v : CoreState) : (setCore s k v).threads = s.threads := rfl
@[simp] theorem setCore_crews (s : State) (k : Nat) (v : CoreState) : (setCore s k v).crews = s.crews := rfl
@[simp] theorem setCore_nextCrew (s : State) (k : Nat) (v : CoreState) : (setCore s k v).nextCrew = s.nextCrew := rfl
@[simp] theorem setCore_reserves (s : State) (k : Nat) (v : CoreState) : (setCore s k v).reserves = s.reserves := rfl
@[simp] theorem setCore_preempting (s : State) (k : Nat) (v : CoreState) : (setCore s k v).preempting = s.preempting := rfl
@[simp] theorem setCore_vsaves (s : State) (k : Nat) (v : CoreState) : (setCore s k v).vsaves = s.vsaves := rfl
@[simp] theorem setCore_frozen (s : State) (k : Nat) (v : CoreState) : (setCore s k v).frozen = s.frozen := rfl
@[simp] theorem setCore_moves (s : State) (k : Nat) (v : CoreState) : (setCore s k v).moves = s.moves := rfl
@[simp] theorem setCore_counts (s : State) (k : Nat) (v : CoreState) : (setCore s k v).counts = s.counts := rfl
@[simp] theorem setCore_messages (s : State) (k : Nat) (v : CoreState) : (setCore s k v).messages = s.messages := rfl
@[simp] theorem setCore_spawns (s : State) (k : Nat) (v : CoreState) : (setCore s k v).spawns = s.spawns := rfl
@[simp] theorem setCore_mem (s : State) (k : Nat) (v : CoreState) : (setCore s k v).mem = s.mem := rfl
@[simp] theorem setCore_lines (s : State) (k : Nat) (v : CoreState) : (setCore s k v).lines = s.lines := rfl
@[simp] theorem setCore_ciphered (s : State) (k : Nat) (v : CoreState) : (setCore s k v).ciphered = s.ciphered := rfl
@[simp] theorem setCore_loose (s : State) (k : Nat) (v : CoreState) : (setCore s k v).loose = s.loose := rfl
@[simp] theorem setCore_wrote (s : State) (k : Nat) (v : CoreState) : (setCore s k v).wrote = s.wrote := rfl
@[simp] theorem setCore_work (s : State) (k : Nat) (v : CoreState) : (setCore s k v).work = s.work := rfl
@[simp] theorem setCore_full (s : State) (k : Nat) (v : CoreState) : (setCore s k v).full = s.full := rfl
@[simp] theorem setCore_poison (s : State) (k : Nat) (v : CoreState) : (setCore s k v).poison = s.poison := rfl
@[simp] theorem setCore_writes (s : State) (k : Nat) (v : CoreState) : (setCore s k v).writes = s.writes := rfl
@[simp] theorem setCore_posted (s : State) (k : Nat) (v : CoreState) : (setCore s k v).posted = s.posted := rfl
@[simp] theorem setCore_homeRel (s : State) (k : Nat) (v : CoreState) : (setCore s k v).homeRel = s.homeRel := rfl
@[simp] theorem setCore_fillClk (s : State) (k : Nat) (v : CoreState) : (setCore s k v).fillClk = s.fillClk := rfl
@[simp] theorem setCore_fullFences (s : State) (k : Nat) (v : CoreState) : (setCore s k v).fullFences = s.fullFences := rfl
@[simp] theorem setCore_nextWrite (s : State) (k : Nat) (v : CoreState) : (setCore s k v).nextWrite = s.nextWrite := rfl
@[simp] theorem setCore_nextAgent (s : State) (k : Nat) (v : CoreState) : (setCore s k v).nextAgent = s.nextAgent := rfl
@[simp] theorem setCore_nextMsg (s : State) (k : Nat) (v : CoreState) : (setCore s k v).nextMsg = s.nextMsg := rfl
@[simp] theorem setCore_cur (s : State) (k : Nat) (v : CoreState) : (setCore s k v).cur = s.cur := rfl
@[simp] theorem setCore_outer (s : State) (k : Nat) (v : CoreState) : (setCore s k v).outer = s.outer := rfl
@[simp] theorem setCore_outside (s : State) (k : Nat) (v : CoreState) : (setCore s k v).outside = s.outside := rfl
@[simp] theorem setCore_readData (s : State) (k : Nat) (v : CoreState) : (setCore s k v).readData = s.readData := rfl
@[simp] theorem setCore_readBytes (s : State) (k : Nat) (v : CoreState) : (setCore s k v).readBytes = s.readBytes := rfl
@[simp] theorem setCore_accessOk (s : State) (k : Nat) (v : CoreState) : (setCore s k v).accessOk = s.accessOk := rfl
@[simp] theorem setCore_turn (s : State) (k : Nat) (v : CoreState) : (setCore s k v).turn = s.turn := rfl
@[simp] theorem setCore_fresh (s : State) (k : Nat) (v : CoreState) : (setCore s k v).fresh = s.fresh := rfl
@[simp] theorem setCore_inputs (s : State) (k : Nat) (v : CoreState) : (setCore s k v).inputs = s.inputs := rfl

/-! ### setCluster -/

@[simp] theorem setCluster_board (s : State) (c : Nat) (v : ClusterState) : (setCluster s c v).board = s.board := rfl
@[simp] theorem setCluster_queues (s : State) (c : Nat) (v : ClusterState) : (setCluster s c v).queues = s.queues := rfl
@[simp] theorem setCluster_helm (s : State) (c : Nat) (v : ClusterState) : (setCluster s c v).helm = s.helm := rfl
@[simp] theorem setCluster_req (s : State) (c : Nat) (v : ClusterState) : (setCluster s c v).req = s.req := rfl
@[simp] theorem setCluster_own (s : State) (c : Nat) (v : ClusterState) : (setCluster s c v).own = s.own := rfl
@[simp] theorem setCluster_records (s : State) (c : Nat) (v : ClusterState) : (setCluster s c v).records = s.records := rfl
@[simp] theorem setCluster_dies (s : State) (c : Nat) (v : ClusterState) : (setCluster s c v).dies = s.dies := rfl
@[simp] theorem setCluster_inv (s : State) (c : Nat) (v : ClusterState) : (setCluster s c v).inv = s.inv := rfl
@[simp] theorem setCluster_cores (s : State) (c : Nat) (v : ClusterState) : (setCluster s c v).cores = s.cores := rfl
@[simp] theorem setCluster_threads (s : State) (c : Nat) (v : ClusterState) : (setCluster s c v).threads = s.threads := rfl
@[simp] theorem setCluster_crews (s : State) (c : Nat) (v : ClusterState) : (setCluster s c v).crews = s.crews := rfl
@[simp] theorem setCluster_nextCrew (s : State) (c : Nat) (v : ClusterState) : (setCluster s c v).nextCrew = s.nextCrew := rfl
@[simp] theorem setCluster_reserves (s : State) (c : Nat) (v : ClusterState) : (setCluster s c v).reserves = s.reserves := rfl
@[simp] theorem setCluster_preempting (s : State) (c : Nat) (v : ClusterState) : (setCluster s c v).preempting = s.preempting := rfl
@[simp] theorem setCluster_vsaves (s : State) (c : Nat) (v : ClusterState) : (setCluster s c v).vsaves = s.vsaves := rfl
@[simp] theorem setCluster_frozen (s : State) (c : Nat) (v : ClusterState) : (setCluster s c v).frozen = s.frozen := rfl
@[simp] theorem setCluster_moves (s : State) (c : Nat) (v : ClusterState) : (setCluster s c v).moves = s.moves := rfl
@[simp] theorem setCluster_counts (s : State) (c : Nat) (v : ClusterState) : (setCluster s c v).counts = s.counts := rfl
@[simp] theorem setCluster_messages (s : State) (c : Nat) (v : ClusterState) : (setCluster s c v).messages = s.messages := rfl
@[simp] theorem setCluster_spawns (s : State) (c : Nat) (v : ClusterState) : (setCluster s c v).spawns = s.spawns := rfl
@[simp] theorem setCluster_mem (s : State) (c : Nat) (v : ClusterState) : (setCluster s c v).mem = s.mem := rfl
@[simp] theorem setCluster_lines (s : State) (c : Nat) (v : ClusterState) : (setCluster s c v).lines = s.lines := rfl
@[simp] theorem setCluster_ciphered (s : State) (c : Nat) (v : ClusterState) : (setCluster s c v).ciphered = s.ciphered := rfl
@[simp] theorem setCluster_loose (s : State) (c : Nat) (v : ClusterState) : (setCluster s c v).loose = s.loose := rfl
@[simp] theorem setCluster_wrote (s : State) (c : Nat) (v : ClusterState) : (setCluster s c v).wrote = s.wrote := rfl
@[simp] theorem setCluster_work (s : State) (c : Nat) (v : ClusterState) : (setCluster s c v).work = s.work := rfl
@[simp] theorem setCluster_full (s : State) (c : Nat) (v : ClusterState) : (setCluster s c v).full = s.full := rfl
@[simp] theorem setCluster_poison (s : State) (c : Nat) (v : ClusterState) : (setCluster s c v).poison = s.poison := rfl
@[simp] theorem setCluster_writes (s : State) (c : Nat) (v : ClusterState) : (setCluster s c v).writes = s.writes := rfl
@[simp] theorem setCluster_posted (s : State) (c : Nat) (v : ClusterState) : (setCluster s c v).posted = s.posted := rfl
@[simp] theorem setCluster_homeRel (s : State) (c : Nat) (v : ClusterState) : (setCluster s c v).homeRel = s.homeRel := rfl
@[simp] theorem setCluster_fillClk (s : State) (c : Nat) (v : ClusterState) : (setCluster s c v).fillClk = s.fillClk := rfl
@[simp] theorem setCluster_fullFences (s : State) (c : Nat) (v : ClusterState) : (setCluster s c v).fullFences = s.fullFences := rfl
@[simp] theorem setCluster_nextWrite (s : State) (c : Nat) (v : ClusterState) : (setCluster s c v).nextWrite = s.nextWrite := rfl
@[simp] theorem setCluster_nextAgent (s : State) (c : Nat) (v : ClusterState) : (setCluster s c v).nextAgent = s.nextAgent := rfl
@[simp] theorem setCluster_nextMsg (s : State) (c : Nat) (v : ClusterState) : (setCluster s c v).nextMsg = s.nextMsg := rfl
@[simp] theorem setCluster_cur (s : State) (c : Nat) (v : ClusterState) : (setCluster s c v).cur = s.cur := rfl
@[simp] theorem setCluster_outer (s : State) (c : Nat) (v : ClusterState) : (setCluster s c v).outer = s.outer := rfl
@[simp] theorem setCluster_outside (s : State) (c : Nat) (v : ClusterState) : (setCluster s c v).outside = s.outside := rfl
@[simp] theorem setCluster_readData (s : State) (c : Nat) (v : ClusterState) : (setCluster s c v).readData = s.readData := rfl
@[simp] theorem setCluster_readBytes (s : State) (c : Nat) (v : ClusterState) : (setCluster s c v).readBytes = s.readBytes := rfl
@[simp] theorem setCluster_accessOk (s : State) (c : Nat) (v : ClusterState) : (setCluster s c v).accessOk = s.accessOk := rfl
@[simp] theorem setCluster_turn (s : State) (c : Nat) (v : ClusterState) : (setCluster s c v).turn = s.turn := rfl
@[simp] theorem setCluster_fresh (s : State) (c : Nat) (v : ClusterState) : (setCluster s c v).fresh = s.fresh := rfl
@[simp] theorem setCluster_inputs (s : State) (c : Nat) (v : ClusterState) : (setCluster s c v).inputs = s.inputs := rfl

/-! ### setDie -/

@[simp] theorem setDie_board (s : State) (d : Nat) (v : DieState) : (setDie s d v).board = s.board := rfl
@[simp] theorem setDie_queues (s : State) (d : Nat) (v : DieState) : (setDie s d v).queues = s.queues := rfl
@[simp] theorem setDie_helm (s : State) (d : Nat) (v : DieState) : (setDie s d v).helm = s.helm := rfl
@[simp] theorem setDie_req (s : State) (d : Nat) (v : DieState) : (setDie s d v).req = s.req := rfl
@[simp] theorem setDie_own (s : State) (d : Nat) (v : DieState) : (setDie s d v).own = s.own := rfl
@[simp] theorem setDie_records (s : State) (d : Nat) (v : DieState) : (setDie s d v).records = s.records := rfl
@[simp] theorem setDie_inv (s : State) (d : Nat) (v : DieState) : (setDie s d v).inv = s.inv := rfl
@[simp] theorem setDie_clusters (s : State) (d : Nat) (v : DieState) : (setDie s d v).clusters = s.clusters := rfl
@[simp] theorem setDie_cores (s : State) (d : Nat) (v : DieState) : (setDie s d v).cores = s.cores := rfl
@[simp] theorem setDie_threads (s : State) (d : Nat) (v : DieState) : (setDie s d v).threads = s.threads := rfl
@[simp] theorem setDie_crews (s : State) (d : Nat) (v : DieState) : (setDie s d v).crews = s.crews := rfl
@[simp] theorem setDie_nextCrew (s : State) (d : Nat) (v : DieState) : (setDie s d v).nextCrew = s.nextCrew := rfl
@[simp] theorem setDie_reserves (s : State) (d : Nat) (v : DieState) : (setDie s d v).reserves = s.reserves := rfl
@[simp] theorem setDie_preempting (s : State) (d : Nat) (v : DieState) : (setDie s d v).preempting = s.preempting := rfl
@[simp] theorem setDie_vsaves (s : State) (d : Nat) (v : DieState) : (setDie s d v).vsaves = s.vsaves := rfl
@[simp] theorem setDie_frozen (s : State) (d : Nat) (v : DieState) : (setDie s d v).frozen = s.frozen := rfl
@[simp] theorem setDie_moves (s : State) (d : Nat) (v : DieState) : (setDie s d v).moves = s.moves := rfl
@[simp] theorem setDie_counts (s : State) (d : Nat) (v : DieState) : (setDie s d v).counts = s.counts := rfl
@[simp] theorem setDie_messages (s : State) (d : Nat) (v : DieState) : (setDie s d v).messages = s.messages := rfl
@[simp] theorem setDie_spawns (s : State) (d : Nat) (v : DieState) : (setDie s d v).spawns = s.spawns := rfl
@[simp] theorem setDie_mem (s : State) (d : Nat) (v : DieState) : (setDie s d v).mem = s.mem := rfl
@[simp] theorem setDie_lines (s : State) (d : Nat) (v : DieState) : (setDie s d v).lines = s.lines := rfl
@[simp] theorem setDie_ciphered (s : State) (d : Nat) (v : DieState) : (setDie s d v).ciphered = s.ciphered := rfl
@[simp] theorem setDie_loose (s : State) (d : Nat) (v : DieState) : (setDie s d v).loose = s.loose := rfl
@[simp] theorem setDie_wrote (s : State) (d : Nat) (v : DieState) : (setDie s d v).wrote = s.wrote := rfl
@[simp] theorem setDie_work (s : State) (d : Nat) (v : DieState) : (setDie s d v).work = s.work := rfl
@[simp] theorem setDie_full (s : State) (d : Nat) (v : DieState) : (setDie s d v).full = s.full := rfl
@[simp] theorem setDie_poison (s : State) (d : Nat) (v : DieState) : (setDie s d v).poison = s.poison := rfl
@[simp] theorem setDie_writes (s : State) (d : Nat) (v : DieState) : (setDie s d v).writes = s.writes := rfl
@[simp] theorem setDie_posted (s : State) (d : Nat) (v : DieState) : (setDie s d v).posted = s.posted := rfl
@[simp] theorem setDie_homeRel (s : State) (d : Nat) (v : DieState) : (setDie s d v).homeRel = s.homeRel := rfl
@[simp] theorem setDie_fillClk (s : State) (d : Nat) (v : DieState) : (setDie s d v).fillClk = s.fillClk := rfl
@[simp] theorem setDie_fullFences (s : State) (d : Nat) (v : DieState) : (setDie s d v).fullFences = s.fullFences := rfl
@[simp] theorem setDie_nextWrite (s : State) (d : Nat) (v : DieState) : (setDie s d v).nextWrite = s.nextWrite := rfl
@[simp] theorem setDie_nextAgent (s : State) (d : Nat) (v : DieState) : (setDie s d v).nextAgent = s.nextAgent := rfl
@[simp] theorem setDie_nextMsg (s : State) (d : Nat) (v : DieState) : (setDie s d v).nextMsg = s.nextMsg := rfl
@[simp] theorem setDie_cur (s : State) (d : Nat) (v : DieState) : (setDie s d v).cur = s.cur := rfl
@[simp] theorem setDie_outer (s : State) (d : Nat) (v : DieState) : (setDie s d v).outer = s.outer := rfl
@[simp] theorem setDie_outside (s : State) (d : Nat) (v : DieState) : (setDie s d v).outside = s.outside := rfl
@[simp] theorem setDie_readData (s : State) (d : Nat) (v : DieState) : (setDie s d v).readData = s.readData := rfl
@[simp] theorem setDie_readBytes (s : State) (d : Nat) (v : DieState) : (setDie s d v).readBytes = s.readBytes := rfl
@[simp] theorem setDie_accessOk (s : State) (d : Nat) (v : DieState) : (setDie s d v).accessOk = s.accessOk := rfl
@[simp] theorem setDie_turn (s : State) (d : Nat) (v : DieState) : (setDie s d v).turn = s.turn := rfl
@[simp] theorem setDie_fresh (s : State) (d : Nat) (v : DieState) : (setDie s d v).fresh = s.fresh := rfl
@[simp] theorem setDie_inputs (s : State) (d : Nat) (v : DieState) : (setDie s d v).inputs = s.inputs := rfl

/-! ### setCrew -/

@[simp] theorem setCrew_board (s : State) (c : Nat) (v : Crew) : (setCrew s c v).board = s.board := rfl
@[simp] theorem setCrew_queues (s : State) (c : Nat) (v : Crew) : (setCrew s c v).queues = s.queues := rfl
@[simp] theorem setCrew_helm (s : State) (c : Nat) (v : Crew) : (setCrew s c v).helm = s.helm := rfl
@[simp] theorem setCrew_req (s : State) (c : Nat) (v : Crew) : (setCrew s c v).req = s.req := rfl
@[simp] theorem setCrew_own (s : State) (c : Nat) (v : Crew) : (setCrew s c v).own = s.own := rfl
@[simp] theorem setCrew_records (s : State) (c : Nat) (v : Crew) : (setCrew s c v).records = s.records := rfl
@[simp] theorem setCrew_dies (s : State) (c : Nat) (v : Crew) : (setCrew s c v).dies = s.dies := rfl
@[simp] theorem setCrew_inv (s : State) (c : Nat) (v : Crew) : (setCrew s c v).inv = s.inv := rfl
@[simp] theorem setCrew_clusters (s : State) (c : Nat) (v : Crew) : (setCrew s c v).clusters = s.clusters := rfl
@[simp] theorem setCrew_cores (s : State) (c : Nat) (v : Crew) : (setCrew s c v).cores = s.cores := rfl
@[simp] theorem setCrew_threads (s : State) (c : Nat) (v : Crew) : (setCrew s c v).threads = s.threads := rfl
@[simp] theorem setCrew_nextCrew (s : State) (c : Nat) (v : Crew) : (setCrew s c v).nextCrew = s.nextCrew := rfl
@[simp] theorem setCrew_reserves (s : State) (c : Nat) (v : Crew) : (setCrew s c v).reserves = s.reserves := rfl
@[simp] theorem setCrew_preempting (s : State) (c : Nat) (v : Crew) : (setCrew s c v).preempting = s.preempting := rfl
@[simp] theorem setCrew_vsaves (s : State) (c : Nat) (v : Crew) : (setCrew s c v).vsaves = s.vsaves := rfl
@[simp] theorem setCrew_frozen (s : State) (c : Nat) (v : Crew) : (setCrew s c v).frozen = s.frozen := rfl
@[simp] theorem setCrew_moves (s : State) (c : Nat) (v : Crew) : (setCrew s c v).moves = s.moves := rfl
@[simp] theorem setCrew_counts (s : State) (c : Nat) (v : Crew) : (setCrew s c v).counts = s.counts := rfl
@[simp] theorem setCrew_messages (s : State) (c : Nat) (v : Crew) : (setCrew s c v).messages = s.messages := rfl
@[simp] theorem setCrew_spawns (s : State) (c : Nat) (v : Crew) : (setCrew s c v).spawns = s.spawns := rfl
@[simp] theorem setCrew_mem (s : State) (c : Nat) (v : Crew) : (setCrew s c v).mem = s.mem := rfl
@[simp] theorem setCrew_lines (s : State) (c : Nat) (v : Crew) : (setCrew s c v).lines = s.lines := rfl
@[simp] theorem setCrew_ciphered (s : State) (c : Nat) (v : Crew) : (setCrew s c v).ciphered = s.ciphered := rfl
@[simp] theorem setCrew_loose (s : State) (c : Nat) (v : Crew) : (setCrew s c v).loose = s.loose := rfl
@[simp] theorem setCrew_wrote (s : State) (c : Nat) (v : Crew) : (setCrew s c v).wrote = s.wrote := rfl
@[simp] theorem setCrew_work (s : State) (c : Nat) (v : Crew) : (setCrew s c v).work = s.work := rfl
@[simp] theorem setCrew_full (s : State) (c : Nat) (v : Crew) : (setCrew s c v).full = s.full := rfl
@[simp] theorem setCrew_poison (s : State) (c : Nat) (v : Crew) : (setCrew s c v).poison = s.poison := rfl
@[simp] theorem setCrew_writes (s : State) (c : Nat) (v : Crew) : (setCrew s c v).writes = s.writes := rfl
@[simp] theorem setCrew_posted (s : State) (c : Nat) (v : Crew) : (setCrew s c v).posted = s.posted := rfl
@[simp] theorem setCrew_homeRel (s : State) (c : Nat) (v : Crew) : (setCrew s c v).homeRel = s.homeRel := rfl
@[simp] theorem setCrew_fillClk (s : State) (c : Nat) (v : Crew) : (setCrew s c v).fillClk = s.fillClk := rfl
@[simp] theorem setCrew_fullFences (s : State) (c : Nat) (v : Crew) : (setCrew s c v).fullFences = s.fullFences := rfl
@[simp] theorem setCrew_nextWrite (s : State) (c : Nat) (v : Crew) : (setCrew s c v).nextWrite = s.nextWrite := rfl
@[simp] theorem setCrew_nextAgent (s : State) (c : Nat) (v : Crew) : (setCrew s c v).nextAgent = s.nextAgent := rfl
@[simp] theorem setCrew_nextMsg (s : State) (c : Nat) (v : Crew) : (setCrew s c v).nextMsg = s.nextMsg := rfl
@[simp] theorem setCrew_cur (s : State) (c : Nat) (v : Crew) : (setCrew s c v).cur = s.cur := rfl
@[simp] theorem setCrew_outer (s : State) (c : Nat) (v : Crew) : (setCrew s c v).outer = s.outer := rfl
@[simp] theorem setCrew_outside (s : State) (c : Nat) (v : Crew) : (setCrew s c v).outside = s.outside := rfl
@[simp] theorem setCrew_readData (s : State) (c : Nat) (v : Crew) : (setCrew s c v).readData = s.readData := rfl
@[simp] theorem setCrew_readBytes (s : State) (c : Nat) (v : Crew) : (setCrew s c v).readBytes = s.readBytes := rfl
@[simp] theorem setCrew_accessOk (s : State) (c : Nat) (v : Crew) : (setCrew s c v).accessOk = s.accessOk := rfl
@[simp] theorem setCrew_turn (s : State) (c : Nat) (v : Crew) : (setCrew s c v).turn = s.turn := rfl
@[simp] theorem setCrew_fresh (s : State) (c : Nat) (v : Crew) : (setCrew s c v).fresh = s.fresh := rfl
@[simp] theorem setCrew_inputs (s : State) (c : Nat) (v : Crew) : (setCrew s c v).inputs = s.inputs := rfl

/-! ### setCounter -/

@[simp] theorem setCounter_board (s : State) (c n : Nat) (v : Counter) : (setCounter s c n v).board = s.board := rfl
@[simp] theorem setCounter_queues (s : State) (c n : Nat) (v : Counter) : (setCounter s c n v).queues = s.queues := rfl
@[simp] theorem setCounter_helm (s : State) (c n : Nat) (v : Counter) : (setCounter s c n v).helm = s.helm := rfl
@[simp] theorem setCounter_req (s : State) (c n : Nat) (v : Counter) : (setCounter s c n v).req = s.req := rfl
@[simp] theorem setCounter_own (s : State) (c n : Nat) (v : Counter) : (setCounter s c n v).own = s.own := rfl
@[simp] theorem setCounter_records (s : State) (c n : Nat) (v : Counter) : (setCounter s c n v).records = s.records := rfl
@[simp] theorem setCounter_dies (s : State) (c n : Nat) (v : Counter) : (setCounter s c n v).dies = s.dies := rfl
@[simp] theorem setCounter_inv (s : State) (c n : Nat) (v : Counter) : (setCounter s c n v).inv = s.inv := rfl
@[simp] theorem setCounter_cores (s : State) (c n : Nat) (v : Counter) : (setCounter s c n v).cores = s.cores := rfl
@[simp] theorem setCounter_threads (s : State) (c n : Nat) (v : Counter) : (setCounter s c n v).threads = s.threads := rfl
@[simp] theorem setCounter_crews (s : State) (c n : Nat) (v : Counter) : (setCounter s c n v).crews = s.crews := rfl
@[simp] theorem setCounter_nextCrew (s : State) (c n : Nat) (v : Counter) : (setCounter s c n v).nextCrew = s.nextCrew := rfl
@[simp] theorem setCounter_reserves (s : State) (c n : Nat) (v : Counter) : (setCounter s c n v).reserves = s.reserves := rfl
@[simp] theorem setCounter_preempting (s : State) (c n : Nat) (v : Counter) : (setCounter s c n v).preempting = s.preempting := rfl
@[simp] theorem setCounter_vsaves (s : State) (c n : Nat) (v : Counter) : (setCounter s c n v).vsaves = s.vsaves := rfl
@[simp] theorem setCounter_frozen (s : State) (c n : Nat) (v : Counter) : (setCounter s c n v).frozen = s.frozen := rfl
@[simp] theorem setCounter_moves (s : State) (c n : Nat) (v : Counter) : (setCounter s c n v).moves = s.moves := rfl
@[simp] theorem setCounter_counts (s : State) (c n : Nat) (v : Counter) : (setCounter s c n v).counts = s.counts := rfl
@[simp] theorem setCounter_messages (s : State) (c n : Nat) (v : Counter) : (setCounter s c n v).messages = s.messages := rfl
@[simp] theorem setCounter_spawns (s : State) (c n : Nat) (v : Counter) : (setCounter s c n v).spawns = s.spawns := rfl
@[simp] theorem setCounter_mem (s : State) (c n : Nat) (v : Counter) : (setCounter s c n v).mem = s.mem := rfl
@[simp] theorem setCounter_lines (s : State) (c n : Nat) (v : Counter) : (setCounter s c n v).lines = s.lines := rfl
@[simp] theorem setCounter_ciphered (s : State) (c n : Nat) (v : Counter) : (setCounter s c n v).ciphered = s.ciphered := rfl
@[simp] theorem setCounter_loose (s : State) (c n : Nat) (v : Counter) : (setCounter s c n v).loose = s.loose := rfl
@[simp] theorem setCounter_wrote (s : State) (c n : Nat) (v : Counter) : (setCounter s c n v).wrote = s.wrote := rfl
@[simp] theorem setCounter_work (s : State) (c n : Nat) (v : Counter) : (setCounter s c n v).work = s.work := rfl
@[simp] theorem setCounter_full (s : State) (c n : Nat) (v : Counter) : (setCounter s c n v).full = s.full := rfl
@[simp] theorem setCounter_poison (s : State) (c n : Nat) (v : Counter) : (setCounter s c n v).poison = s.poison := rfl
@[simp] theorem setCounter_writes (s : State) (c n : Nat) (v : Counter) : (setCounter s c n v).writes = s.writes := rfl
@[simp] theorem setCounter_posted (s : State) (c n : Nat) (v : Counter) : (setCounter s c n v).posted = s.posted := rfl
@[simp] theorem setCounter_homeRel (s : State) (c n : Nat) (v : Counter) : (setCounter s c n v).homeRel = s.homeRel := rfl
@[simp] theorem setCounter_fillClk (s : State) (c n : Nat) (v : Counter) : (setCounter s c n v).fillClk = s.fillClk := rfl
@[simp] theorem setCounter_fullFences (s : State) (c n : Nat) (v : Counter) : (setCounter s c n v).fullFences = s.fullFences := rfl
@[simp] theorem setCounter_nextWrite (s : State) (c n : Nat) (v : Counter) : (setCounter s c n v).nextWrite = s.nextWrite := rfl
@[simp] theorem setCounter_nextAgent (s : State) (c n : Nat) (v : Counter) : (setCounter s c n v).nextAgent = s.nextAgent := rfl
@[simp] theorem setCounter_nextMsg (s : State) (c n : Nat) (v : Counter) : (setCounter s c n v).nextMsg = s.nextMsg := rfl
@[simp] theorem setCounter_cur (s : State) (c n : Nat) (v : Counter) : (setCounter s c n v).cur = s.cur := rfl
@[simp] theorem setCounter_outer (s : State) (c n : Nat) (v : Counter) : (setCounter s c n v).outer = s.outer := rfl
@[simp] theorem setCounter_outside (s : State) (c n : Nat) (v : Counter) : (setCounter s c n v).outside = s.outside := rfl
@[simp] theorem setCounter_readData (s : State) (c n : Nat) (v : Counter) : (setCounter s c n v).readData = s.readData := rfl
@[simp] theorem setCounter_readBytes (s : State) (c n : Nat) (v : Counter) : (setCounter s c n v).readBytes = s.readBytes := rfl
@[simp] theorem setCounter_accessOk (s : State) (c n : Nat) (v : Counter) : (setCounter s c n v).accessOk = s.accessOk := rfl
@[simp] theorem setCounter_turn (s : State) (c n : Nat) (v : Counter) : (setCounter s c n v).turn = s.turn := rfl
@[simp] theorem setCounter_fresh (s : State) (c n : Nat) (v : Counter) : (setCounter s c n v).fresh = s.fresh := rfl
@[simp] theorem setCounter_inputs (s : State) (c n : Nat) (v : Counter) : (setCounter s c n v).inputs = s.inputs := rfl

/-! ### setTh -/

@[simp] theorem setTh_board (s : State) (v : ThreadState) : (s.setTh v).board = s.board := rfl
@[simp] theorem setTh_queues (s : State) (v : ThreadState) : (s.setTh v).queues = s.queues := rfl
@[simp] theorem setTh_helm (s : State) (v : ThreadState) : (s.setTh v).helm = s.helm := rfl
@[simp] theorem setTh_req (s : State) (v : ThreadState) : (s.setTh v).req = s.req := rfl
@[simp] theorem setTh_own (s : State) (v : ThreadState) : (s.setTh v).own = s.own := rfl
@[simp] theorem setTh_records (s : State) (v : ThreadState) : (s.setTh v).records = s.records := rfl
@[simp] theorem setTh_dies (s : State) (v : ThreadState) : (s.setTh v).dies = s.dies := rfl
@[simp] theorem setTh_inv (s : State) (v : ThreadState) : (s.setTh v).inv = s.inv := rfl
@[simp] theorem setTh_clusters (s : State) (v : ThreadState) : (s.setTh v).clusters = s.clusters := rfl
@[simp] theorem setTh_cores (s : State) (v : ThreadState) : (s.setTh v).cores = s.cores := rfl
@[simp] theorem setTh_crews (s : State) (v : ThreadState) : (s.setTh v).crews = s.crews := rfl
@[simp] theorem setTh_nextCrew (s : State) (v : ThreadState) : (s.setTh v).nextCrew = s.nextCrew := rfl
@[simp] theorem setTh_reserves (s : State) (v : ThreadState) : (s.setTh v).reserves = s.reserves := rfl
@[simp] theorem setTh_preempting (s : State) (v : ThreadState) : (s.setTh v).preempting = s.preempting := rfl
@[simp] theorem setTh_vsaves (s : State) (v : ThreadState) : (s.setTh v).vsaves = s.vsaves := rfl
@[simp] theorem setTh_frozen (s : State) (v : ThreadState) : (s.setTh v).frozen = s.frozen := rfl
@[simp] theorem setTh_moves (s : State) (v : ThreadState) : (s.setTh v).moves = s.moves := rfl
@[simp] theorem setTh_counts (s : State) (v : ThreadState) : (s.setTh v).counts = s.counts := rfl
@[simp] theorem setTh_messages (s : State) (v : ThreadState) : (s.setTh v).messages = s.messages := rfl
@[simp] theorem setTh_spawns (s : State) (v : ThreadState) : (s.setTh v).spawns = s.spawns := rfl
@[simp] theorem setTh_mem (s : State) (v : ThreadState) : (s.setTh v).mem = s.mem := rfl
@[simp] theorem setTh_lines (s : State) (v : ThreadState) : (s.setTh v).lines = s.lines := rfl
@[simp] theorem setTh_ciphered (s : State) (v : ThreadState) : (s.setTh v).ciphered = s.ciphered := rfl
@[simp] theorem setTh_loose (s : State) (v : ThreadState) : (s.setTh v).loose = s.loose := rfl
@[simp] theorem setTh_wrote (s : State) (v : ThreadState) : (s.setTh v).wrote = s.wrote := rfl
@[simp] theorem setTh_work (s : State) (v : ThreadState) : (s.setTh v).work = s.work := rfl
@[simp] theorem setTh_full (s : State) (v : ThreadState) : (s.setTh v).full = s.full := rfl
@[simp] theorem setTh_poison (s : State) (v : ThreadState) : (s.setTh v).poison = s.poison := rfl
@[simp] theorem setTh_writes (s : State) (v : ThreadState) : (s.setTh v).writes = s.writes := rfl
@[simp] theorem setTh_posted (s : State) (v : ThreadState) : (s.setTh v).posted = s.posted := rfl
@[simp] theorem setTh_homeRel (s : State) (v : ThreadState) : (s.setTh v).homeRel = s.homeRel := rfl
@[simp] theorem setTh_fillClk (s : State) (v : ThreadState) : (s.setTh v).fillClk = s.fillClk := rfl
@[simp] theorem setTh_fullFences (s : State) (v : ThreadState) : (s.setTh v).fullFences = s.fullFences := rfl
@[simp] theorem setTh_nextWrite (s : State) (v : ThreadState) : (s.setTh v).nextWrite = s.nextWrite := rfl
@[simp] theorem setTh_nextAgent (s : State) (v : ThreadState) : (s.setTh v).nextAgent = s.nextAgent := rfl
@[simp] theorem setTh_nextMsg (s : State) (v : ThreadState) : (s.setTh v).nextMsg = s.nextMsg := rfl
@[simp] theorem setTh_cur (s : State) (v : ThreadState) : (s.setTh v).cur = s.cur := rfl
@[simp] theorem setTh_outer (s : State) (v : ThreadState) : (s.setTh v).outer = s.outer := rfl
@[simp] theorem setTh_outside (s : State) (v : ThreadState) : (s.setTh v).outside = s.outside := rfl
@[simp] theorem setTh_readData (s : State) (v : ThreadState) : (s.setTh v).readData = s.readData := rfl
@[simp] theorem setTh_readBytes (s : State) (v : ThreadState) : (s.setTh v).readBytes = s.readBytes := rfl
@[simp] theorem setTh_accessOk (s : State) (v : ThreadState) : (s.setTh v).accessOk = s.accessOk := rfl
@[simp] theorem setTh_turn (s : State) (v : ThreadState) : (s.setTh v).turn = s.turn := rfl
@[simp] theorem setTh_fresh (s : State) (v : ThreadState) : (s.setTh v).fresh = s.fresh := rfl
@[simp] theorem setTh_inputs (s : State) (v : ThreadState) : (s.setTh v).inputs = s.inputs := rfl

/-! ### put -/

@[simp] theorem put_board (s : State) (d : Reg) (v : Word) : (s.put d v).board = s.board := rfl
@[simp] theorem put_queues (s : State) (d : Reg) (v : Word) : (s.put d v).queues = s.queues := rfl
@[simp] theorem put_helm (s : State) (d : Reg) (v : Word) : (s.put d v).helm = s.helm := rfl
@[simp] theorem put_req (s : State) (d : Reg) (v : Word) : (s.put d v).req = s.req := rfl
@[simp] theorem put_own (s : State) (d : Reg) (v : Word) : (s.put d v).own = s.own := rfl
@[simp] theorem put_records (s : State) (d : Reg) (v : Word) : (s.put d v).records = s.records := rfl
@[simp] theorem put_dies (s : State) (d : Reg) (v : Word) : (s.put d v).dies = s.dies := rfl
@[simp] theorem put_inv (s : State) (d : Reg) (v : Word) : (s.put d v).inv = s.inv := rfl
@[simp] theorem put_clusters (s : State) (d : Reg) (v : Word) : (s.put d v).clusters = s.clusters := rfl
@[simp] theorem put_cores (s : State) (d : Reg) (v : Word) : (s.put d v).cores = s.cores := rfl
@[simp] theorem put_crews (s : State) (d : Reg) (v : Word) : (s.put d v).crews = s.crews := rfl
@[simp] theorem put_nextCrew (s : State) (d : Reg) (v : Word) : (s.put d v).nextCrew = s.nextCrew := rfl
@[simp] theorem put_reserves (s : State) (d : Reg) (v : Word) : (s.put d v).reserves = s.reserves := rfl
@[simp] theorem put_preempting (s : State) (d : Reg) (v : Word) : (s.put d v).preempting = s.preempting := rfl
@[simp] theorem put_vsaves (s : State) (d : Reg) (v : Word) : (s.put d v).vsaves = s.vsaves := rfl
@[simp] theorem put_frozen (s : State) (d : Reg) (v : Word) : (s.put d v).frozen = s.frozen := rfl
@[simp] theorem put_moves (s : State) (d : Reg) (v : Word) : (s.put d v).moves = s.moves := rfl
@[simp] theorem put_counts (s : State) (d : Reg) (v : Word) : (s.put d v).counts = s.counts := rfl
@[simp] theorem put_messages (s : State) (d : Reg) (v : Word) : (s.put d v).messages = s.messages := rfl
@[simp] theorem put_spawns (s : State) (d : Reg) (v : Word) : (s.put d v).spawns = s.spawns := rfl
@[simp] theorem put_mem (s : State) (d : Reg) (v : Word) : (s.put d v).mem = s.mem := rfl
@[simp] theorem put_lines (s : State) (d : Reg) (v : Word) : (s.put d v).lines = s.lines := rfl
@[simp] theorem put_ciphered (s : State) (d : Reg) (v : Word) : (s.put d v).ciphered = s.ciphered := rfl
@[simp] theorem put_loose (s : State) (d : Reg) (v : Word) : (s.put d v).loose = s.loose := rfl
@[simp] theorem put_wrote (s : State) (d : Reg) (v : Word) : (s.put d v).wrote = s.wrote := rfl
@[simp] theorem put_work (s : State) (d : Reg) (v : Word) : (s.put d v).work = s.work := rfl
@[simp] theorem put_full (s : State) (d : Reg) (v : Word) : (s.put d v).full = s.full := rfl
@[simp] theorem put_poison (s : State) (d : Reg) (v : Word) : (s.put d v).poison = s.poison := rfl
@[simp] theorem put_writes (s : State) (d : Reg) (v : Word) : (s.put d v).writes = s.writes := rfl
@[simp] theorem put_posted (s : State) (d : Reg) (v : Word) : (s.put d v).posted = s.posted := rfl
@[simp] theorem put_homeRel (s : State) (d : Reg) (v : Word) : (s.put d v).homeRel = s.homeRel := rfl
@[simp] theorem put_fillClk (s : State) (d : Reg) (v : Word) : (s.put d v).fillClk = s.fillClk := rfl
@[simp] theorem put_fullFences (s : State) (d : Reg) (v : Word) : (s.put d v).fullFences = s.fullFences := rfl
@[simp] theorem put_nextWrite (s : State) (d : Reg) (v : Word) : (s.put d v).nextWrite = s.nextWrite := rfl
@[simp] theorem put_nextAgent (s : State) (d : Reg) (v : Word) : (s.put d v).nextAgent = s.nextAgent := rfl
@[simp] theorem put_nextMsg (s : State) (d : Reg) (v : Word) : (s.put d v).nextMsg = s.nextMsg := rfl
@[simp] theorem put_cur (s : State) (d : Reg) (v : Word) : (s.put d v).cur = s.cur := rfl
@[simp] theorem put_outer (s : State) (d : Reg) (v : Word) : (s.put d v).outer = s.outer := rfl
@[simp] theorem put_outside (s : State) (d : Reg) (v : Word) : (s.put d v).outside = s.outside := rfl
@[simp] theorem put_readData (s : State) (d : Reg) (v : Word) : (s.put d v).readData = s.readData := rfl
@[simp] theorem put_readBytes (s : State) (d : Reg) (v : Word) : (s.put d v).readBytes = s.readBytes := rfl
@[simp] theorem put_accessOk (s : State) (d : Reg) (v : Word) : (s.put d v).accessOk = s.accessOk := rfl
@[simp] theorem put_turn (s : State) (d : Reg) (v : Word) : (s.put d v).turn = s.turn := rfl
@[simp] theorem put_fresh (s : State) (d : Reg) (v : Word) : (s.put d v).fresh = s.fresh := rfl
@[simp] theorem put_inputs (s : State) (d : Reg) (v : Word) : (s.put d v).inputs = s.inputs := rfl

/-! ### skip -/

@[simp] theorem skip_board (s : State) : (s.skip).board = s.board := rfl
@[simp] theorem skip_queues (s : State) : (s.skip).queues = s.queues := rfl
@[simp] theorem skip_helm (s : State) : (s.skip).helm = s.helm := rfl
@[simp] theorem skip_req (s : State) : (s.skip).req = s.req := rfl
@[simp] theorem skip_own (s : State) : (s.skip).own = s.own := rfl
@[simp] theorem skip_records (s : State) : (s.skip).records = s.records := rfl
@[simp] theorem skip_dies (s : State) : (s.skip).dies = s.dies := rfl
@[simp] theorem skip_inv (s : State) : (s.skip).inv = s.inv := rfl
@[simp] theorem skip_clusters (s : State) : (s.skip).clusters = s.clusters := rfl
@[simp] theorem skip_cores (s : State) : (s.skip).cores = s.cores := rfl
@[simp] theorem skip_crews (s : State) : (s.skip).crews = s.crews := rfl
@[simp] theorem skip_nextCrew (s : State) : (s.skip).nextCrew = s.nextCrew := rfl
@[simp] theorem skip_reserves (s : State) : (s.skip).reserves = s.reserves := rfl
@[simp] theorem skip_preempting (s : State) : (s.skip).preempting = s.preempting := rfl
@[simp] theorem skip_vsaves (s : State) : (s.skip).vsaves = s.vsaves := rfl
@[simp] theorem skip_frozen (s : State) : (s.skip).frozen = s.frozen := rfl
@[simp] theorem skip_moves (s : State) : (s.skip).moves = s.moves := rfl
@[simp] theorem skip_counts (s : State) : (s.skip).counts = s.counts := rfl
@[simp] theorem skip_messages (s : State) : (s.skip).messages = s.messages := rfl
@[simp] theorem skip_spawns (s : State) : (s.skip).spawns = s.spawns := rfl
@[simp] theorem skip_mem (s : State) : (s.skip).mem = s.mem := rfl
@[simp] theorem skip_lines (s : State) : (s.skip).lines = s.lines := rfl
@[simp] theorem skip_ciphered (s : State) : (s.skip).ciphered = s.ciphered := rfl
@[simp] theorem skip_loose (s : State) : (s.skip).loose = s.loose := rfl
@[simp] theorem skip_wrote (s : State) : (s.skip).wrote = s.wrote := rfl
@[simp] theorem skip_work (s : State) : (s.skip).work = s.work := rfl
@[simp] theorem skip_full (s : State) : (s.skip).full = s.full := rfl
@[simp] theorem skip_poison (s : State) : (s.skip).poison = s.poison := rfl
@[simp] theorem skip_writes (s : State) : (s.skip).writes = s.writes := rfl
@[simp] theorem skip_posted (s : State) : (s.skip).posted = s.posted := rfl
@[simp] theorem skip_homeRel (s : State) : (s.skip).homeRel = s.homeRel := rfl
@[simp] theorem skip_fillClk (s : State) : (s.skip).fillClk = s.fillClk := rfl
@[simp] theorem skip_fullFences (s : State) : (s.skip).fullFences = s.fullFences := rfl
@[simp] theorem skip_nextWrite (s : State) : (s.skip).nextWrite = s.nextWrite := rfl
@[simp] theorem skip_nextAgent (s : State) : (s.skip).nextAgent = s.nextAgent := rfl
@[simp] theorem skip_nextMsg (s : State) : (s.skip).nextMsg = s.nextMsg := rfl
@[simp] theorem skip_cur (s : State) : (s.skip).cur = s.cur := rfl
@[simp] theorem skip_outer (s : State) : (s.skip).outer = s.outer := rfl
@[simp] theorem skip_outside (s : State) : (s.skip).outside = s.outside := rfl
@[simp] theorem skip_readData (s : State) : (s.skip).readData = s.readData := rfl
@[simp] theorem skip_readBytes (s : State) : (s.skip).readBytes = s.readBytes := rfl
@[simp] theorem skip_accessOk (s : State) : (s.skip).accessOk = s.accessOk := rfl
@[simp] theorem skip_turn (s : State) : (s.skip).turn = s.turn := rfl
@[simp] theorem skip_fresh (s : State) : (s.skip).fresh = s.fresh := rfl
@[simp] theorem skip_inputs (s : State) : (s.skip).inputs = s.inputs := rfl

/-! ### putF -/

@[simp] theorem putF_board (s : State) (d : Reg) (r : Nat) (fl : FFlags) : (s.putF d r fl).board = s.board := rfl
@[simp] theorem putF_queues (s : State) (d : Reg) (r : Nat) (fl : FFlags) : (s.putF d r fl).queues = s.queues := rfl
@[simp] theorem putF_helm (s : State) (d : Reg) (r : Nat) (fl : FFlags) : (s.putF d r fl).helm = s.helm := rfl
@[simp] theorem putF_req (s : State) (d : Reg) (r : Nat) (fl : FFlags) : (s.putF d r fl).req = s.req := rfl
@[simp] theorem putF_own (s : State) (d : Reg) (r : Nat) (fl : FFlags) : (s.putF d r fl).own = s.own := rfl
@[simp] theorem putF_records (s : State) (d : Reg) (r : Nat) (fl : FFlags) : (s.putF d r fl).records = s.records := rfl
@[simp] theorem putF_dies (s : State) (d : Reg) (r : Nat) (fl : FFlags) : (s.putF d r fl).dies = s.dies := rfl
@[simp] theorem putF_inv (s : State) (d : Reg) (r : Nat) (fl : FFlags) : (s.putF d r fl).inv = s.inv := rfl
@[simp] theorem putF_clusters (s : State) (d : Reg) (r : Nat) (fl : FFlags) : (s.putF d r fl).clusters = s.clusters := rfl
@[simp] theorem putF_cores (s : State) (d : Reg) (r : Nat) (fl : FFlags) : (s.putF d r fl).cores = s.cores := rfl
@[simp] theorem putF_crews (s : State) (d : Reg) (r : Nat) (fl : FFlags) : (s.putF d r fl).crews = s.crews := rfl
@[simp] theorem putF_nextCrew (s : State) (d : Reg) (r : Nat) (fl : FFlags) : (s.putF d r fl).nextCrew = s.nextCrew := rfl
@[simp] theorem putF_reserves (s : State) (d : Reg) (r : Nat) (fl : FFlags) : (s.putF d r fl).reserves = s.reserves := rfl
@[simp] theorem putF_preempting (s : State) (d : Reg) (r : Nat) (fl : FFlags) : (s.putF d r fl).preempting = s.preempting := rfl
@[simp] theorem putF_vsaves (s : State) (d : Reg) (r : Nat) (fl : FFlags) : (s.putF d r fl).vsaves = s.vsaves := rfl
@[simp] theorem putF_frozen (s : State) (d : Reg) (r : Nat) (fl : FFlags) : (s.putF d r fl).frozen = s.frozen := rfl
@[simp] theorem putF_moves (s : State) (d : Reg) (r : Nat) (fl : FFlags) : (s.putF d r fl).moves = s.moves := rfl
@[simp] theorem putF_counts (s : State) (d : Reg) (r : Nat) (fl : FFlags) : (s.putF d r fl).counts = s.counts := rfl
@[simp] theorem putF_messages (s : State) (d : Reg) (r : Nat) (fl : FFlags) : (s.putF d r fl).messages = s.messages := rfl
@[simp] theorem putF_spawns (s : State) (d : Reg) (r : Nat) (fl : FFlags) : (s.putF d r fl).spawns = s.spawns := rfl
@[simp] theorem putF_mem (s : State) (d : Reg) (r : Nat) (fl : FFlags) : (s.putF d r fl).mem = s.mem := rfl
@[simp] theorem putF_lines (s : State) (d : Reg) (r : Nat) (fl : FFlags) : (s.putF d r fl).lines = s.lines := rfl
@[simp] theorem putF_ciphered (s : State) (d : Reg) (r : Nat) (fl : FFlags) : (s.putF d r fl).ciphered = s.ciphered := rfl
@[simp] theorem putF_loose (s : State) (d : Reg) (r : Nat) (fl : FFlags) : (s.putF d r fl).loose = s.loose := rfl
@[simp] theorem putF_wrote (s : State) (d : Reg) (r : Nat) (fl : FFlags) : (s.putF d r fl).wrote = s.wrote := rfl
@[simp] theorem putF_work (s : State) (d : Reg) (r : Nat) (fl : FFlags) : (s.putF d r fl).work = s.work := rfl
@[simp] theorem putF_full (s : State) (d : Reg) (r : Nat) (fl : FFlags) : (s.putF d r fl).full = s.full := rfl
@[simp] theorem putF_poison (s : State) (d : Reg) (r : Nat) (fl : FFlags) : (s.putF d r fl).poison = s.poison := rfl
@[simp] theorem putF_writes (s : State) (d : Reg) (r : Nat) (fl : FFlags) : (s.putF d r fl).writes = s.writes := rfl
@[simp] theorem putF_posted (s : State) (d : Reg) (r : Nat) (fl : FFlags) : (s.putF d r fl).posted = s.posted := rfl
@[simp] theorem putF_homeRel (s : State) (d : Reg) (r : Nat) (fl : FFlags) : (s.putF d r fl).homeRel = s.homeRel := rfl
@[simp] theorem putF_fillClk (s : State) (d : Reg) (r : Nat) (fl : FFlags) : (s.putF d r fl).fillClk = s.fillClk := rfl
@[simp] theorem putF_fullFences (s : State) (d : Reg) (r : Nat) (fl : FFlags) : (s.putF d r fl).fullFences = s.fullFences := rfl
@[simp] theorem putF_nextWrite (s : State) (d : Reg) (r : Nat) (fl : FFlags) : (s.putF d r fl).nextWrite = s.nextWrite := rfl
@[simp] theorem putF_nextAgent (s : State) (d : Reg) (r : Nat) (fl : FFlags) : (s.putF d r fl).nextAgent = s.nextAgent := rfl
@[simp] theorem putF_nextMsg (s : State) (d : Reg) (r : Nat) (fl : FFlags) : (s.putF d r fl).nextMsg = s.nextMsg := rfl
@[simp] theorem putF_cur (s : State) (d : Reg) (r : Nat) (fl : FFlags) : (s.putF d r fl).cur = s.cur := rfl
@[simp] theorem putF_outer (s : State) (d : Reg) (r : Nat) (fl : FFlags) : (s.putF d r fl).outer = s.outer := rfl
@[simp] theorem putF_outside (s : State) (d : Reg) (r : Nat) (fl : FFlags) : (s.putF d r fl).outside = s.outside := rfl
@[simp] theorem putF_readData (s : State) (d : Reg) (r : Nat) (fl : FFlags) : (s.putF d r fl).readData = s.readData := rfl
@[simp] theorem putF_readBytes (s : State) (d : Reg) (r : Nat) (fl : FFlags) : (s.putF d r fl).readBytes = s.readBytes := rfl
@[simp] theorem putF_accessOk (s : State) (d : Reg) (r : Nat) (fl : FFlags) : (s.putF d r fl).accessOk = s.accessOk := rfl
@[simp] theorem putF_turn (s : State) (d : Reg) (r : Nat) (fl : FFlags) : (s.putF d r fl).turn = s.turn := rfl
@[simp] theorem putF_fresh (s : State) (d : Reg) (r : Nat) (fl : FFlags) : (s.putF d r fl).fresh = s.fresh := rfl
@[simp] theorem putF_inputs (s : State) (d : Reg) (r : Nat) (fl : FFlags) : (s.putF d r fl).inputs = s.inputs := rfl

/-! ### advance -/

@[simp] theorem advance_live (th : ThreadState) : (th.advance).live = th.live := rfl
@[simp] theorem advance_crew (th : ThreadState) : (th.advance).crew = th.crew := rfl
@[simp] theorem advance_launch (th : ThreadState) : (th.advance).launch = th.launch := rfl
@[simp] theorem advance_index (th : ThreadState) : (th.advance).index = th.index := rfl
@[simp] theorem advance_x (th : ThreadState) : (th.advance).x = th.x := rfl
@[simp] theorem advance_m (th : ThreadState) : (th.advance).m = th.m := rfl
@[simp] theorem advance_mclk (th : ThreadState) : (th.advance).mclk = th.mclk := rfl
@[simp] theorem advance_tcause (th : ThreadState) : (th.advance).tcause = th.tcause := rfl
@[simp] theorem advance_tepc (th : ThreadState) : (th.advance).tepc = th.tepc := rfl
@[simp] theorem advance_tval (th : ThreadState) : (th.advance).tval = th.tval := rfl
@[simp] theorem advance_tvec (th : ThreadState) : (th.advance).tvec = th.tvec := rfl
@[simp] theorem advance_tstat (th : ThreadState) : (th.advance).tstat = th.tstat := rfl
@[simp] theorem advance_fstat (th : ThreadState) : (th.advance).fstat = th.fstat := rfl
@[simp] theorem advance_thid (th : ThreadState) : (th.advance).thid = th.thid := rfl
@[simp] theorem advance_crix (th : ThreadState) : (th.advance).crix = th.crix := rfl
@[simp] theorem advance_park (th : ThreadState) : (th.advance).park = th.park := rfl
@[simp] theorem advance_lastIssue (th : ThreadState) : (th.advance).lastIssue = th.lastIssue := rfl
@[simp] theorem advance_forfeits (th : ThreadState) : (th.advance).forfeits = th.forfeits := rfl
@[simp] theorem advance_bubbles (th : ThreadState) : (th.advance).bubbles = th.bubbles := rfl
@[simp] theorem advance_yielded (th : ThreadState) : (th.advance).yielded = th.yielded := rfl
@[simp] theorem advance_stopped (th : ThreadState) : (th.advance).stopped = th.stopped := rfl
@[simp] theorem advance_deferred (th : ThreadState) : (th.advance).deferred = th.deferred := rfl
@[simp] theorem advance_sighting (th : ThreadState) : (th.advance).sighting = th.sighting := rfl
@[simp] theorem advance_agent (th : ThreadState) : (th.advance).agent = th.agent := rfl
@[simp] theorem advance_clock (th : ThreadState) : (th.advance).clock = th.clock := rfl
@[simp] theorem advance_fences (th : ThreadState) : (th.advance).fences = th.fences := rfl
@[simp] theorem advance_seen (th : ThreadState) : (th.advance).seen = th.seen := rfl

/-! ### wrote -/

@[simp] theorem wrote_live (th : ThreadState) : (th.wrote).live = th.live := rfl
@[simp] theorem wrote_crew (th : ThreadState) : (th.wrote).crew = th.crew := rfl
@[simp] theorem wrote_launch (th : ThreadState) : (th.wrote).launch = th.launch := rfl
@[simp] theorem wrote_index (th : ThreadState) : (th.wrote).index = th.index := rfl
@[simp] theorem wrote_x (th : ThreadState) : (th.wrote).x = th.x := rfl
@[simp] theorem wrote_pc (th : ThreadState) : (th.wrote).pc = th.pc := rfl
@[simp] theorem wrote_m (th : ThreadState) : (th.wrote).m = th.m := rfl
@[simp] theorem wrote_mclk (th : ThreadState) : (th.wrote).mclk = th.mclk := rfl
@[simp] theorem wrote_tcause (th : ThreadState) : (th.wrote).tcause = th.tcause := rfl
@[simp] theorem wrote_tepc (th : ThreadState) : (th.wrote).tepc = th.tepc := rfl
@[simp] theorem wrote_tval (th : ThreadState) : (th.wrote).tval = th.tval := rfl
@[simp] theorem wrote_tvec (th : ThreadState) : (th.wrote).tvec = th.tvec := rfl
@[simp] theorem wrote_tstat (th : ThreadState) : (th.wrote).tstat = th.tstat := rfl
@[simp] theorem wrote_fstat (th : ThreadState) : (th.wrote).fstat = th.fstat := rfl
@[simp] theorem wrote_thid (th : ThreadState) : (th.wrote).thid = th.thid := rfl
@[simp] theorem wrote_crix (th : ThreadState) : (th.wrote).crix = th.crix := rfl
@[simp] theorem wrote_park (th : ThreadState) : (th.wrote).park = th.park := rfl
@[simp] theorem wrote_lastIssue (th : ThreadState) : (th.wrote).lastIssue = th.lastIssue := rfl
@[simp] theorem wrote_forfeits (th : ThreadState) : (th.wrote).forfeits = th.forfeits := rfl
@[simp] theorem wrote_bubbles (th : ThreadState) : (th.wrote).bubbles = th.bubbles := rfl
@[simp] theorem wrote_yielded (th : ThreadState) : (th.wrote).yielded = th.yielded := rfl
@[simp] theorem wrote_stopped (th : ThreadState) : (th.wrote).stopped = th.stopped := rfl
@[simp] theorem wrote_deferred (th : ThreadState) : (th.wrote).deferred = th.deferred := rfl
@[simp] theorem wrote_sighting (th : ThreadState) : (th.wrote).sighting = th.sighting := rfl
@[simp] theorem wrote_agent (th : ThreadState) : (th.wrote).agent = th.agent := rfl
@[simp] theorem wrote_fences (th : ThreadState) : (th.wrote).fences = th.fences := rfl
@[simp] theorem wrote_seen (th : ThreadState) : (th.wrote).seen = th.seen := rfl

/-! ### leaveTrap -/

@[simp] theorem leaveTrap_live (th : ThreadState) : (th.leaveTrap).live = th.live := rfl
@[simp] theorem leaveTrap_crew (th : ThreadState) : (th.leaveTrap).crew = th.crew := rfl
@[simp] theorem leaveTrap_launch (th : ThreadState) : (th.leaveTrap).launch = th.launch := rfl
@[simp] theorem leaveTrap_index (th : ThreadState) : (th.leaveTrap).index = th.index := rfl
@[simp] theorem leaveTrap_x (th : ThreadState) : (th.leaveTrap).x = th.x := rfl
@[simp] theorem leaveTrap_m (th : ThreadState) : (th.leaveTrap).m = th.m := rfl
@[simp] theorem leaveTrap_mclk (th : ThreadState) : (th.leaveTrap).mclk = th.mclk := rfl
@[simp] theorem leaveTrap_tcause (th : ThreadState) : (th.leaveTrap).tcause = th.tcause := rfl
@[simp] theorem leaveTrap_tepc (th : ThreadState) : (th.leaveTrap).tepc = th.tepc := rfl
@[simp] theorem leaveTrap_tval (th : ThreadState) : (th.leaveTrap).tval = th.tval := rfl
@[simp] theorem leaveTrap_tvec (th : ThreadState) : (th.leaveTrap).tvec = th.tvec := rfl
@[simp] theorem leaveTrap_fstat (th : ThreadState) : (th.leaveTrap).fstat = th.fstat := rfl
@[simp] theorem leaveTrap_thid (th : ThreadState) : (th.leaveTrap).thid = th.thid := rfl
@[simp] theorem leaveTrap_crix (th : ThreadState) : (th.leaveTrap).crix = th.crix := rfl
@[simp] theorem leaveTrap_park (th : ThreadState) : (th.leaveTrap).park = th.park := rfl
@[simp] theorem leaveTrap_lastIssue (th : ThreadState) : (th.leaveTrap).lastIssue = th.lastIssue := rfl
@[simp] theorem leaveTrap_forfeits (th : ThreadState) : (th.leaveTrap).forfeits = th.forfeits := rfl
@[simp] theorem leaveTrap_bubbles (th : ThreadState) : (th.leaveTrap).bubbles = th.bubbles := rfl
@[simp] theorem leaveTrap_yielded (th : ThreadState) : (th.leaveTrap).yielded = th.yielded := rfl
@[simp] theorem leaveTrap_stopped (th : ThreadState) : (th.leaveTrap).stopped = th.stopped := rfl
@[simp] theorem leaveTrap_deferred (th : ThreadState) : (th.leaveTrap).deferred = th.deferred := rfl
@[simp] theorem leaveTrap_sighting (th : ThreadState) : (th.leaveTrap).sighting = th.sighting := rfl
@[simp] theorem leaveTrap_agent (th : ThreadState) : (th.leaveTrap).agent = th.agent := rfl
@[simp] theorem leaveTrap_clock (th : ThreadState) : (th.leaveTrap).clock = th.clock := rfl
@[simp] theorem leaveTrap_fences (th : ThreadState) : (th.leaveTrap).fences = th.fences := rfl
@[simp] theorem leaveTrap_seen (th : ThreadState) : (th.leaveTrap).seen = th.seen := rfl

/-! ### enterTrap -/

@[simp] theorem enterTrap_live (th : ThreadState) (c : BitVec 8) (v epc : Word) : (th.enterTrap c v epc).live = th.live := rfl
@[simp] theorem enterTrap_crew (th : ThreadState) (c : BitVec 8) (v epc : Word) : (th.enterTrap c v epc).crew = th.crew := rfl
@[simp] theorem enterTrap_launch (th : ThreadState) (c : BitVec 8) (v epc : Word) : (th.enterTrap c v epc).launch = th.launch := rfl
@[simp] theorem enterTrap_index (th : ThreadState) (c : BitVec 8) (v epc : Word) : (th.enterTrap c v epc).index = th.index := rfl
@[simp] theorem enterTrap_x (th : ThreadState) (c : BitVec 8) (v epc : Word) : (th.enterTrap c v epc).x = th.x := rfl
@[simp] theorem enterTrap_m (th : ThreadState) (c : BitVec 8) (v epc : Word) : (th.enterTrap c v epc).m = th.m := rfl
@[simp] theorem enterTrap_mclk (th : ThreadState) (c : BitVec 8) (v epc : Word) : (th.enterTrap c v epc).mclk = th.mclk := rfl
@[simp] theorem enterTrap_tvec (th : ThreadState) (c : BitVec 8) (v epc : Word) : (th.enterTrap c v epc).tvec = th.tvec := rfl
@[simp] theorem enterTrap_fstat (th : ThreadState) (c : BitVec 8) (v epc : Word) : (th.enterTrap c v epc).fstat = th.fstat := rfl
@[simp] theorem enterTrap_thid (th : ThreadState) (c : BitVec 8) (v epc : Word) : (th.enterTrap c v epc).thid = th.thid := rfl
@[simp] theorem enterTrap_crix (th : ThreadState) (c : BitVec 8) (v epc : Word) : (th.enterTrap c v epc).crix = th.crix := rfl
@[simp] theorem enterTrap_lastIssue (th : ThreadState) (c : BitVec 8) (v epc : Word) : (th.enterTrap c v epc).lastIssue = th.lastIssue := rfl
@[simp] theorem enterTrap_forfeits (th : ThreadState) (c : BitVec 8) (v epc : Word) : (th.enterTrap c v epc).forfeits = th.forfeits := rfl
@[simp] theorem enterTrap_bubbles (th : ThreadState) (c : BitVec 8) (v epc : Word) : (th.enterTrap c v epc).bubbles = th.bubbles := rfl
@[simp] theorem enterTrap_yielded (th : ThreadState) (c : BitVec 8) (v epc : Word) : (th.enterTrap c v epc).yielded = th.yielded := rfl
@[simp] theorem enterTrap_stopped (th : ThreadState) (c : BitVec 8) (v epc : Word) : (th.enterTrap c v epc).stopped = th.stopped := rfl
@[simp] theorem enterTrap_deferred (th : ThreadState) (c : BitVec 8) (v epc : Word) : (th.enterTrap c v epc).deferred = th.deferred := rfl
@[simp] theorem enterTrap_sighting (th : ThreadState) (c : BitVec 8) (v epc : Word) : (th.enterTrap c v epc).sighting = th.sighting := rfl
@[simp] theorem enterTrap_agent (th : ThreadState) (c : BitVec 8) (v epc : Word) : (th.enterTrap c v epc).agent = th.agent := rfl
@[simp] theorem enterTrap_clock (th : ThreadState) (c : BitVec 8) (v epc : Word) : (th.enterTrap c v epc).clock = th.clock := rfl
@[simp] theorem enterTrap_fences (th : ThreadState) (c : BitVec 8) (v epc : Word) : (th.enterTrap c v epc).fences = th.fences := rfl
@[simp] theorem enterTrap_seen (th : ThreadState) (c : BitVec 8) (v epc : Word) : (th.enterTrap c v epc).seen = th.seen := rfl

/-! ### writeX -/

@[simp] theorem writeX_live (th : ThreadState) (r : Reg) (v : Word) : (th.writeX r v).live = th.live := by unfold ThreadState.writeX; split <;> rfl
@[simp] theorem writeX_crew (th : ThreadState) (r : Reg) (v : Word) : (th.writeX r v).crew = th.crew := by unfold ThreadState.writeX; split <;> rfl
@[simp] theorem writeX_launch (th : ThreadState) (r : Reg) (v : Word) : (th.writeX r v).launch = th.launch := by unfold ThreadState.writeX; split <;> rfl
@[simp] theorem writeX_index (th : ThreadState) (r : Reg) (v : Word) : (th.writeX r v).index = th.index := by unfold ThreadState.writeX; split <;> rfl
@[simp] theorem writeX_pc (th : ThreadState) (r : Reg) (v : Word) : (th.writeX r v).pc = th.pc := by unfold ThreadState.writeX; split <;> rfl
@[simp] theorem writeX_m (th : ThreadState) (r : Reg) (v : Word) : (th.writeX r v).m = th.m := by unfold ThreadState.writeX; split <;> rfl
@[simp] theorem writeX_mclk (th : ThreadState) (r : Reg) (v : Word) : (th.writeX r v).mclk = th.mclk := by unfold ThreadState.writeX; split <;> rfl
@[simp] theorem writeX_tcause (th : ThreadState) (r : Reg) (v : Word) : (th.writeX r v).tcause = th.tcause := by unfold ThreadState.writeX; split <;> rfl
@[simp] theorem writeX_tepc (th : ThreadState) (r : Reg) (v : Word) : (th.writeX r v).tepc = th.tepc := by unfold ThreadState.writeX; split <;> rfl
@[simp] theorem writeX_tval (th : ThreadState) (r : Reg) (v : Word) : (th.writeX r v).tval = th.tval := by unfold ThreadState.writeX; split <;> rfl
@[simp] theorem writeX_tvec (th : ThreadState) (r : Reg) (v : Word) : (th.writeX r v).tvec = th.tvec := by unfold ThreadState.writeX; split <;> rfl
@[simp] theorem writeX_tstat (th : ThreadState) (r : Reg) (v : Word) : (th.writeX r v).tstat = th.tstat := by unfold ThreadState.writeX; split <;> rfl
@[simp] theorem writeX_fstat (th : ThreadState) (r : Reg) (v : Word) : (th.writeX r v).fstat = th.fstat := by unfold ThreadState.writeX; split <;> rfl
@[simp] theorem writeX_thid (th : ThreadState) (r : Reg) (v : Word) : (th.writeX r v).thid = th.thid := by unfold ThreadState.writeX; split <;> rfl
@[simp] theorem writeX_crix (th : ThreadState) (r : Reg) (v : Word) : (th.writeX r v).crix = th.crix := by unfold ThreadState.writeX; split <;> rfl
@[simp] theorem writeX_park (th : ThreadState) (r : Reg) (v : Word) : (th.writeX r v).park = th.park := by unfold ThreadState.writeX; split <;> rfl
@[simp] theorem writeX_lastIssue (th : ThreadState) (r : Reg) (v : Word) : (th.writeX r v).lastIssue = th.lastIssue := by unfold ThreadState.writeX; split <;> rfl
@[simp] theorem writeX_forfeits (th : ThreadState) (r : Reg) (v : Word) : (th.writeX r v).forfeits = th.forfeits := by unfold ThreadState.writeX; split <;> rfl
@[simp] theorem writeX_bubbles (th : ThreadState) (r : Reg) (v : Word) : (th.writeX r v).bubbles = th.bubbles := by unfold ThreadState.writeX; split <;> rfl
@[simp] theorem writeX_yielded (th : ThreadState) (r : Reg) (v : Word) : (th.writeX r v).yielded = th.yielded := by unfold ThreadState.writeX; split <;> rfl
@[simp] theorem writeX_stopped (th : ThreadState) (r : Reg) (v : Word) : (th.writeX r v).stopped = th.stopped := by unfold ThreadState.writeX; split <;> rfl
@[simp] theorem writeX_deferred (th : ThreadState) (r : Reg) (v : Word) : (th.writeX r v).deferred = th.deferred := by unfold ThreadState.writeX; split <;> rfl
@[simp] theorem writeX_sighting (th : ThreadState) (r : Reg) (v : Word) : (th.writeX r v).sighting = th.sighting := by unfold ThreadState.writeX; split <;> rfl
@[simp] theorem writeX_agent (th : ThreadState) (r : Reg) (v : Word) : (th.writeX r v).agent = th.agent := by unfold ThreadState.writeX; split <;> rfl
@[simp] theorem writeX_clock (th : ThreadState) (r : Reg) (v : Word) : (th.writeX r v).clock = th.clock := by unfold ThreadState.writeX; split <;> rfl
@[simp] theorem writeX_fences (th : ThreadState) (r : Reg) (v : Word) : (th.writeX r v).fences = th.fences := by unfold ThreadState.writeX; split <;> rfl
@[simp] theorem writeX_seen (th : ThreadState) (r : Reg) (v : Word) : (th.writeX r v).seen = th.seen := by unfold ThreadState.writeX; split <;> rfl

/-! ### putBytes -/

@[simp] theorem putBytes_board (s : State) (g a : Nat) (bs : List Byte) : (putBytes s g a bs).board = s.board := rfl
@[simp] theorem putBytes_queues (s : State) (g a : Nat) (bs : List Byte) : (putBytes s g a bs).queues = s.queues := rfl
@[simp] theorem putBytes_helm (s : State) (g a : Nat) (bs : List Byte) : (putBytes s g a bs).helm = s.helm := rfl
@[simp] theorem putBytes_req (s : State) (g a : Nat) (bs : List Byte) : (putBytes s g a bs).req = s.req := rfl
@[simp] theorem putBytes_own (s : State) (g a : Nat) (bs : List Byte) : (putBytes s g a bs).own = s.own := rfl
@[simp] theorem putBytes_records (s : State) (g a : Nat) (bs : List Byte) : (putBytes s g a bs).records = s.records := rfl
@[simp] theorem putBytes_dies (s : State) (g a : Nat) (bs : List Byte) : (putBytes s g a bs).dies = s.dies := rfl
@[simp] theorem putBytes_inv (s : State) (g a : Nat) (bs : List Byte) : (putBytes s g a bs).inv = s.inv := rfl
@[simp] theorem putBytes_clusters (s : State) (g a : Nat) (bs : List Byte) : (putBytes s g a bs).clusters = s.clusters := rfl
@[simp] theorem putBytes_cores (s : State) (g a : Nat) (bs : List Byte) : (putBytes s g a bs).cores = s.cores := rfl
@[simp] theorem putBytes_threads (s : State) (g a : Nat) (bs : List Byte) : (putBytes s g a bs).threads = s.threads := rfl
@[simp] theorem putBytes_crews (s : State) (g a : Nat) (bs : List Byte) : (putBytes s g a bs).crews = s.crews := rfl
@[simp] theorem putBytes_nextCrew (s : State) (g a : Nat) (bs : List Byte) : (putBytes s g a bs).nextCrew = s.nextCrew := rfl
@[simp] theorem putBytes_reserves (s : State) (g a : Nat) (bs : List Byte) : (putBytes s g a bs).reserves = s.reserves := rfl
@[simp] theorem putBytes_preempting (s : State) (g a : Nat) (bs : List Byte) : (putBytes s g a bs).preempting = s.preempting := rfl
@[simp] theorem putBytes_vsaves (s : State) (g a : Nat) (bs : List Byte) : (putBytes s g a bs).vsaves = s.vsaves := rfl
@[simp] theorem putBytes_frozen (s : State) (g a : Nat) (bs : List Byte) : (putBytes s g a bs).frozen = s.frozen := rfl
@[simp] theorem putBytes_moves (s : State) (g a : Nat) (bs : List Byte) : (putBytes s g a bs).moves = s.moves := rfl
@[simp] theorem putBytes_counts (s : State) (g a : Nat) (bs : List Byte) : (putBytes s g a bs).counts = s.counts := rfl
@[simp] theorem putBytes_messages (s : State) (g a : Nat) (bs : List Byte) : (putBytes s g a bs).messages = s.messages := rfl
@[simp] theorem putBytes_spawns (s : State) (g a : Nat) (bs : List Byte) : (putBytes s g a bs).spawns = s.spawns := rfl
@[simp] theorem putBytes_lines (s : State) (g a : Nat) (bs : List Byte) : (putBytes s g a bs).lines = s.lines := rfl
@[simp] theorem putBytes_ciphered (s : State) (g a : Nat) (bs : List Byte) : (putBytes s g a bs).ciphered = s.ciphered := rfl
@[simp] theorem putBytes_work (s : State) (g a : Nat) (bs : List Byte) : (putBytes s g a bs).work = s.work := rfl
@[simp] theorem putBytes_full (s : State) (g a : Nat) (bs : List Byte) : (putBytes s g a bs).full = s.full := rfl
@[simp] theorem putBytes_writes (s : State) (g a : Nat) (bs : List Byte) : (putBytes s g a bs).writes = s.writes := rfl
@[simp] theorem putBytes_posted (s : State) (g a : Nat) (bs : List Byte) : (putBytes s g a bs).posted = s.posted := rfl
@[simp] theorem putBytes_homeRel (s : State) (g a : Nat) (bs : List Byte) : (putBytes s g a bs).homeRel = s.homeRel := rfl
@[simp] theorem putBytes_fillClk (s : State) (g a : Nat) (bs : List Byte) : (putBytes s g a bs).fillClk = s.fillClk := rfl
@[simp] theorem putBytes_fullFences (s : State) (g a : Nat) (bs : List Byte) : (putBytes s g a bs).fullFences = s.fullFences := rfl
@[simp] theorem putBytes_nextWrite (s : State) (g a : Nat) (bs : List Byte) : (putBytes s g a bs).nextWrite = s.nextWrite := rfl
@[simp] theorem putBytes_nextAgent (s : State) (g a : Nat) (bs : List Byte) : (putBytes s g a bs).nextAgent = s.nextAgent := rfl
@[simp] theorem putBytes_nextMsg (s : State) (g a : Nat) (bs : List Byte) : (putBytes s g a bs).nextMsg = s.nextMsg := rfl
@[simp] theorem putBytes_cur (s : State) (g a : Nat) (bs : List Byte) : (putBytes s g a bs).cur = s.cur := rfl
@[simp] theorem putBytes_outer (s : State) (g a : Nat) (bs : List Byte) : (putBytes s g a bs).outer = s.outer := rfl
@[simp] theorem putBytes_outside (s : State) (g a : Nat) (bs : List Byte) : (putBytes s g a bs).outside = s.outside := rfl
@[simp] theorem putBytes_readData (s : State) (g a : Nat) (bs : List Byte) : (putBytes s g a bs).readData = s.readData := rfl
@[simp] theorem putBytes_readBytes (s : State) (g a : Nat) (bs : List Byte) : (putBytes s g a bs).readBytes = s.readBytes := rfl
@[simp] theorem putBytes_accessOk (s : State) (g a : Nat) (bs : List Byte) : (putBytes s g a bs).accessOk = s.accessOk := rfl
@[simp] theorem putBytes_turn (s : State) (g a : Nat) (bs : List Byte) : (putBytes s g a bs).turn = s.turn := rfl
@[simp] theorem putBytes_fresh (s : State) (g a : Nat) (bs : List Byte) : (putBytes s g a bs).fresh = s.fresh := rfl
@[simp] theorem putBytes_inputs (s : State) (g a : Nat) (bs : List Byte) : (putBytes s g a bs).inputs = s.inputs := rfl

/-! ### performWrite -/

@[simp] theorem performWrite_board (s : State) (a : Nat) (bs : List Byte) (w : Writer) (rel : List RelEnd) (track : Bool) : (performWrite s a bs w rel track).board = s.board := rfl
@[simp] theorem performWrite_queues (s : State) (a : Nat) (bs : List Byte) (w : Writer) (rel : List RelEnd) (track : Bool) : (performWrite s a bs w rel track).queues = s.queues := rfl
@[simp] theorem performWrite_helm (s : State) (a : Nat) (bs : List Byte) (w : Writer) (rel : List RelEnd) (track : Bool) : (performWrite s a bs w rel track).helm = s.helm := rfl
@[simp] theorem performWrite_req (s : State) (a : Nat) (bs : List Byte) (w : Writer) (rel : List RelEnd) (track : Bool) : (performWrite s a bs w rel track).req = s.req := rfl
@[simp] theorem performWrite_own (s : State) (a : Nat) (bs : List Byte) (w : Writer) (rel : List RelEnd) (track : Bool) : (performWrite s a bs w rel track).own = s.own := rfl
@[simp] theorem performWrite_records (s : State) (a : Nat) (bs : List Byte) (w : Writer) (rel : List RelEnd) (track : Bool) : (performWrite s a bs w rel track).records = s.records := rfl
@[simp] theorem performWrite_dies (s : State) (a : Nat) (bs : List Byte) (w : Writer) (rel : List RelEnd) (track : Bool) : (performWrite s a bs w rel track).dies = s.dies := rfl
@[simp] theorem performWrite_inv (s : State) (a : Nat) (bs : List Byte) (w : Writer) (rel : List RelEnd) (track : Bool) : (performWrite s a bs w rel track).inv = s.inv := rfl
@[simp] theorem performWrite_clusters (s : State) (a : Nat) (bs : List Byte) (w : Writer) (rel : List RelEnd) (track : Bool) : (performWrite s a bs w rel track).clusters = s.clusters := rfl
@[simp] theorem performWrite_cores (s : State) (a : Nat) (bs : List Byte) (w : Writer) (rel : List RelEnd) (track : Bool) : (performWrite s a bs w rel track).cores = s.cores := rfl
@[simp] theorem performWrite_threads (s : State) (a : Nat) (bs : List Byte) (w : Writer) (rel : List RelEnd) (track : Bool) : (performWrite s a bs w rel track).threads = s.threads := rfl
@[simp] theorem performWrite_crews (s : State) (a : Nat) (bs : List Byte) (w : Writer) (rel : List RelEnd) (track : Bool) : (performWrite s a bs w rel track).crews = s.crews := rfl
@[simp] theorem performWrite_nextCrew (s : State) (a : Nat) (bs : List Byte) (w : Writer) (rel : List RelEnd) (track : Bool) : (performWrite s a bs w rel track).nextCrew = s.nextCrew := rfl
@[simp] theorem performWrite_reserves (s : State) (a : Nat) (bs : List Byte) (w : Writer) (rel : List RelEnd) (track : Bool) : (performWrite s a bs w rel track).reserves = s.reserves := rfl
@[simp] theorem performWrite_preempting (s : State) (a : Nat) (bs : List Byte) (w : Writer) (rel : List RelEnd) (track : Bool) : (performWrite s a bs w rel track).preempting = s.preempting := rfl
@[simp] theorem performWrite_vsaves (s : State) (a : Nat) (bs : List Byte) (w : Writer) (rel : List RelEnd) (track : Bool) : (performWrite s a bs w rel track).vsaves = s.vsaves := rfl
@[simp] theorem performWrite_frozen (s : State) (a : Nat) (bs : List Byte) (w : Writer) (rel : List RelEnd) (track : Bool) : (performWrite s a bs w rel track).frozen = s.frozen := rfl
@[simp] theorem performWrite_moves (s : State) (a : Nat) (bs : List Byte) (w : Writer) (rel : List RelEnd) (track : Bool) : (performWrite s a bs w rel track).moves = s.moves := rfl
@[simp] theorem performWrite_counts (s : State) (a : Nat) (bs : List Byte) (w : Writer) (rel : List RelEnd) (track : Bool) : (performWrite s a bs w rel track).counts = s.counts := rfl
@[simp] theorem performWrite_messages (s : State) (a : Nat) (bs : List Byte) (w : Writer) (rel : List RelEnd) (track : Bool) : (performWrite s a bs w rel track).messages = s.messages := rfl
@[simp] theorem performWrite_spawns (s : State) (a : Nat) (bs : List Byte) (w : Writer) (rel : List RelEnd) (track : Bool) : (performWrite s a bs w rel track).spawns = s.spawns := rfl
@[simp] theorem performWrite_lines (s : State) (a : Nat) (bs : List Byte) (w : Writer) (rel : List RelEnd) (track : Bool) : (performWrite s a bs w rel track).lines = s.lines := rfl
@[simp] theorem performWrite_ciphered (s : State) (a : Nat) (bs : List Byte) (w : Writer) (rel : List RelEnd) (track : Bool) : (performWrite s a bs w rel track).ciphered = s.ciphered := rfl
@[simp] theorem performWrite_work (s : State) (a : Nat) (bs : List Byte) (w : Writer) (rel : List RelEnd) (track : Bool) : (performWrite s a bs w rel track).work = s.work := rfl
@[simp] theorem performWrite_full (s : State) (a : Nat) (bs : List Byte) (w : Writer) (rel : List RelEnd) (track : Bool) : (performWrite s a bs w rel track).full = s.full := rfl
@[simp] theorem performWrite_posted (s : State) (a : Nat) (bs : List Byte) (w : Writer) (rel : List RelEnd) (track : Bool) : (performWrite s a bs w rel track).posted = s.posted := rfl
@[simp] theorem performWrite_fullFences (s : State) (a : Nat) (bs : List Byte) (w : Writer) (rel : List RelEnd) (track : Bool) : (performWrite s a bs w rel track).fullFences = s.fullFences := rfl
@[simp] theorem performWrite_nextAgent (s : State) (a : Nat) (bs : List Byte) (w : Writer) (rel : List RelEnd) (track : Bool) : (performWrite s a bs w rel track).nextAgent = s.nextAgent := rfl
@[simp] theorem performWrite_nextMsg (s : State) (a : Nat) (bs : List Byte) (w : Writer) (rel : List RelEnd) (track : Bool) : (performWrite s a bs w rel track).nextMsg = s.nextMsg := rfl
@[simp] theorem performWrite_cur (s : State) (a : Nat) (bs : List Byte) (w : Writer) (rel : List RelEnd) (track : Bool) : (performWrite s a bs w rel track).cur = s.cur := rfl
@[simp] theorem performWrite_outer (s : State) (a : Nat) (bs : List Byte) (w : Writer) (rel : List RelEnd) (track : Bool) : (performWrite s a bs w rel track).outer = s.outer := rfl
@[simp] theorem performWrite_outside (s : State) (a : Nat) (bs : List Byte) (w : Writer) (rel : List RelEnd) (track : Bool) : (performWrite s a bs w rel track).outside = s.outside := rfl
@[simp] theorem performWrite_readData (s : State) (a : Nat) (bs : List Byte) (w : Writer) (rel : List RelEnd) (track : Bool) : (performWrite s a bs w rel track).readData = s.readData := rfl
@[simp] theorem performWrite_readBytes (s : State) (a : Nat) (bs : List Byte) (w : Writer) (rel : List RelEnd) (track : Bool) : (performWrite s a bs w rel track).readBytes = s.readBytes := rfl
@[simp] theorem performWrite_accessOk (s : State) (a : Nat) (bs : List Byte) (w : Writer) (rel : List RelEnd) (track : Bool) : (performWrite s a bs w rel track).accessOk = s.accessOk := rfl
@[simp] theorem performWrite_turn (s : State) (a : Nat) (bs : List Byte) (w : Writer) (rel : List RelEnd) (track : Bool) : (performWrite s a bs w rel track).turn = s.turn := rfl
@[simp] theorem performWrite_fresh (s : State) (a : Nat) (bs : List Byte) (w : Writer) (rel : List RelEnd) (track : Bool) : (performWrite s a bs w rel track).fresh = s.fresh := rfl
@[simp] theorem performWrite_inputs (s : State) (a : Nat) (bs : List Byte) (w : Writer) (rel : List RelEnd) (track : Bool) : (performWrite s a bs w rel track).inputs = s.inputs := rfl

/-! ### What each update writes -/

@[simp] theorem getThread_setThread (s : State) (t : Nat) (v : ThreadState) : getThread (setThread s t v) t = v := by
  simp [getThread, setThread, AMap.getD_set_self]

theorem getThread_setThread_ne (s : State) {j t : Nat} (v : ThreadState) (h : j ≠ t) : getThread (setThread s t v) j = getThread s j :=
  AMap.getD_set_ne _ _ _ h

@[simp] theorem getCore_setCore (s : State) (k : Nat) (v : CoreState) : getCore (setCore s k v) k = v := by
  simp [getCore, setCore, AMap.getD_set_self]

@[simp] theorem getCluster_setCluster (s : State) (c : Nat) (v : ClusterState) : getCluster (setCluster s c v) c = v := by
  simp [getCluster, setCluster, AMap.getD_set_self]

@[simp] theorem getDie_setDie (s : State) (d : Nat) (v : DieState) : getDie (setDie s d v) d = v := by
  simp [getDie, setDie, AMap.getD_set_self]

@[simp] theorem getCrew_setCrew (s : State) (c : Nat) (v : Crew) : getCrew (setCrew s c v) c = some v := by
  simp [getCrew, setCrew, AMap.find_set_self]

@[simp] theorem getCounter_setCounter (s : State) (c n : Nat) (v : Counter) : getCounter (setCounter s c n v) c n = v := by
  simp [getCounter, setCounter, AMap.getD_set_self]

@[simp] theorem setTh_th (s : State) (v : ThreadState) : (s.setTh v).th = v := by
  simp [State.setTh, State.th]

theorem setTh_other (s : State) (v : ThreadState) {k : Nat} (h : k ≠ s.cur) : getThread (s.setTh v) k = getThread s k :=
  getThread_setThread_ne s v h

@[simp] theorem readX_writeX_self (th : ThreadState) (d : Reg) (v : Word) : (th.writeX d v).readX d = if d = 0 then 0 else v := by
  unfold ThreadState.readX ThreadState.writeX
  by_cases h : d = 0
  · rw [if_pos h, if_pos h]
  · rw [if_neg h, if_neg h, if_neg h]; exact AMap.getD_set_self _ _ _ _

theorem readX_writeX_ne (th : ThreadState) {d r : Reg} (v : Word) (h : r ≠ d) : (th.writeX d v).readX r = th.readX r := by
  have h2 : r.toNat ≠ d.toNat := fun e => h (BitVec.eq_of_toNat_eq e)
  unfold ThreadState.readX ThreadState.writeX
  by_cases hd : d = 0
  · rw [if_pos hd]
  · rw [if_neg hd]
    by_cases hr : r = 0
    · rw [if_pos hr, if_pos hr]
    · rw [if_neg hr, if_neg hr]; exact AMap.getD_set_ne _ _ _ h2

@[simp] theorem readX_advance (th : ThreadState) (r : Reg) : th.advance.readX r = th.readX r := rfl

end Sys2Proof.Machine
end

