-- ==== Sys2Proof/Laws/Frames.lean ====
section
/-! SUPPORT. What an instruction that only writes its thread does: the frames of Safety.lean, one lemma for each shared way to
end. -/

namespace Sys2Proof

open Sys2Proof.Machine

/-- A new thread record changes nothing but the thread. -/
theorem Safety.onlyThread_setTh (s : State) (v : ThreadState) : Safety.OnlyThread s (s.setTh v) :=
  ⟨rfl, fun _ h => setTh_other s v h, fun _ => rfl⟩

theorem Safety.put_x (s : State) (d : Reg) (v : Word) : (s.put d v).x d = if d = 0 then 0 else v := by
  simp [State.put, State.x, setTh_th]

theorem Safety.put_x_ne (s : State) {d r : Reg} (v : Word) (h : r ≠ d) : (s.put d v).x r = s.x r := by
  simp [State.put, State.x, setTh_th, readX_writeX_ne _ v h]

/-- Writing x[d] and going on is `RegFrame`. -/
theorem Safety.regFrame_put (s : State) (d : Reg) (v : Word) : Safety.RegFrame d s (s.put d v) := by
  refine ⟨Safety.onlyThread_setTh s _, fun r h => Safety.put_x_ne s v h, ?_⟩
  simp only [State.put, setTh_th]
  unfold ThreadState.advance ThreadState.writeX
  split <;> rfl

/-- An arm that writes x[d] and goes on completes with `v`. -/
theorem Safety.sets_put {i : Instr} {s : State} {d : Reg} {v : Word} (h : exec i s = .next (s.put d v)) : Safety.Sets i s d v :=
  ⟨_, h, Safety.put_x s d v, by simp [State.put, setTh_th, ThreadState.advance], Safety.regFrame_put s d v⟩

theorem Safety.putF_x (s : State) (d : Reg) (r : Nat) (fl : FFlags) : (s.putF d r fl).x d = if d = 0 then 0 else BitVec.ofNat 64 r := by
  simp [State.putF, State.x, setTh_th]

/-- An arm that writes x[d] and raises flags completes so. -/
theorem Safety.setsF_putF {i : Instr} {s : State} {d : Reg} {r : Nat} {fl : FFlags} (h : exec i s = .next (s.putF d r fl)) :
    Safety.SetsF i s d r fl := by
  refine ⟨_, h, Safety.putF_x s d r fl, ?_, ?_, Safety.onlyThread_setTh s _, ?_, ?_⟩
  · simp [State.putF, setTh_th, ThreadState.advance]
  · simp [State.putF, setTh_th]
  · intro k hk
    simp only [State.putF, State.x, setTh_th, readX_advance]
    rw [readX_writeX_ne _ _ hk]; rfl
  · simp only [State.putF, setTh_th]
    unfold ThreadState.advance ThreadState.writeX
    split <;> rfl

/-- An arm that only sets the pc jumps. -/
theorem Safety.jumps_setTh {i : Instr} {s : State} {p : Word} (h : exec i s = .next (s.setTh { s.th with pc := p })) :
    Safety.Jumps i s p :=
  ⟨_, h, by simp, Safety.onlyThread_setTh s _, by simp⟩

/-- A precise trap outside a handler takes the entry of R106. -/
theorem Safety.traps_trap {i : Instr} {s : State} {c : BitVec 8} {v : Word} (hi : s.th.ih = false)
    (h : exec i s = s.trap c v) : Safety.Traps i s c v := by
  have e : s.trap c v = .next (s.setTh (s.th.enterTrap c v s.th.pc)) := by
    have hi' : (getThread s s.cur).ih = false := hi
    simp [State.trap, takeTrap, hi', State.setTh, State.th]
  refine ⟨_, h.trans e, ?_, ?_, ?_, ?_, ?_, ?_, Safety.onlyThread_setTh s _, ?_⟩ <;>
    simp [ThreadState.enterTrap, zx]

end Sys2Proof
end

