-- ==== Sys2Proof/Laws/Memory.lean ====
section
/-! SUPPORT. The laws of memory: a byte reads as it was last written, a write leaves every other byte, and every memory operation
keeps the canonical form. -/

namespace Sys2Proof.Machine

/-! ### The canonical form -/

/-- Every listed address is at least `k`. -/
def Memory.above (k : Nat) (m : List Host.Cell) : Prop := ∀ c ∈ m, k < c.1

theorem Memory.wf_cons {a : Nat} {v : Byte} {m : List Host.Cell} :
    Memory.wf ((a, v) :: m) = true ↔ v ≠ 0 ∧ Memory.above a m ∧ Memory.wf m = true := by
  induction m generalizing a v with
  | nil => simp [Memory.wf, Memory.above]
  | cons c m ih =>
    obtain ⟨b, w⟩ := c
    simp only [Memory.wf, Bool.and_eq_true, decide_eq_true_eq, bne_iff_ne]
    constructor
    · rintro ⟨⟨h1, h2⟩, h3⟩
      refine ⟨h1, ?_, h3⟩
      have h4 := (ih.mp h3).2.1
      intro c hc
      rcases List.mem_cons.mp hc with e | e
      · subst e; exact h2
      · exact lt_trans h2 (h4 c e)
    · rintro ⟨h1, h2, h3⟩
      exact ⟨⟨h1, h2 (b, w) (by simp)⟩, h3⟩

theorem memSet_above {k a : Nat} {b : Byte} {m : List Host.Cell} (hk : k < a) (h : Memory.above k m) : Memory.above k (memSet m a b) := by
  induction m with
  | nil => unfold memSet; split <;> simp [Memory.above, hk]
  | cons c m ih =>
    obtain ⟨j, v⟩ := c
    have hj : k < j := h (j, v) (by simp)
    have hm : Memory.above k m := fun c hc => h c (by simp [hc])
    unfold memSet
    split
    · split
      · exact h
      · intro c hc; rcases List.mem_cons.mp hc with e | e
        · subst e; exact hk
        · exact h c e
    · split
      · split
        · exact hm
        · intro c hc; rcases List.mem_cons.mp hc with e | e
          · subst e; exact hk
          · exact hm c e
      · intro c hc; rcases List.mem_cons.mp hc with e | e
        · subst e; exact hj
        · exact ih hm c e

/-- Writing a byte keeps the canonical form. -/
theorem memSet_wf (m : List Host.Cell) (a : Nat) (b : Byte) (h : Memory.wf m = true) : Memory.wf (memSet m a b) = true := by
  induction m with
  | nil => unfold memSet; split
           · rfl
           · rename_i hb; exact Memory.wf_cons.mpr ⟨hb, fun c hc => absurd hc (by simp), rfl⟩
  | cons c m ih =>
    obtain ⟨k, v⟩ := c
    have ⟨h1, h2, h3⟩ := Memory.wf_cons.mp h
    unfold memSet
    split
    · rename_i hlt
      split
      · exact h
      · rename_i hb
        refine Memory.wf_cons.mpr ⟨hb, ?_, h⟩
        intro c hc; rcases List.mem_cons.mp hc with e | e
        · subst e; exact hlt
        · exact lt_trans hlt (h2 c e)
    · rename_i hlt
      split
      · rename_i hak; subst hak
        split
        · exact h3
        · rename_i hb; exact Memory.wf_cons.mpr ⟨hb, h2, h3⟩
      · rename_i hak
        exact Memory.wf_cons.mpr ⟨h1, memSet_above (by omega) h2, ih h3⟩

theorem memSetN_wf (bs : List Byte) : ∀ (m : List Host.Cell) (a : Nat), Memory.wf m = true → Memory.wf (memSetN m a bs) = true := by
  induction bs with
  | nil => intro m a h; exact h
  | cons b bs ih => intro m a h; exact ih _ _ (memSet_wf m a b h)

theorem filter_wf (p : Host.Cell → Bool) (m : List Host.Cell) (h : Memory.wf m = true) : Memory.wf (m.filter p) = true := by
  induction m with
  | nil => rfl
  | cons c m ih =>
    obtain ⟨k, v⟩ := c
    have ⟨h1, h2, h3⟩ := Memory.wf_cons.mp h
    rw [List.filter_cons]
    split
    · exact Memory.wf_cons.mpr ⟨h1, fun c hc => h2 c (List.mem_filter.mp hc).1, ih h3⟩
    · exact ih h3

theorem memClear_wf (m : List Host.Cell) (lo hi : Nat) (h : Memory.wf m = true) : Memory.wf (memClear m lo hi) = true :=
  filter_wf _ m h

theorem memPut_wf (cs : List Host.Cell) : ∀ (m : List Host.Cell), Memory.wf m = true → Memory.wf (memPut m cs) = true := by
  induction cs with
  | nil => intro m h; exact h
  | cons c cs ih => intro m h; exact ih _ (memSet_wf m c.1 c.2 h)

/-! ### Reading after writing -/

theorem Memory.wf_tail {c : Host.Cell} {m : List Host.Cell} (h : Memory.wf (c :: m) = true) : Memory.wf m = true := by
  cases m with
  | nil => rfl
  | cons e m => obtain ⟨a, v⟩ := c; obtain ⟨b, w⟩ := e; simp [Memory.wf] at h; exact h.2

/-- Every byte of a read after a write, whatever the list. -/
theorem memGet_memSet (m : List Host.Cell) (a : Nat) (b : Byte) (hm : Memory.wf m = true) (x : Nat) :
    memGet (memSet m a b) x = if x = a then b else memGet m x := by
  induction m with
  | nil =>
    unfold memSet
    by_cases hx : x = a
    · subst hx; split
      · rename_i hb; simp [memGet, hb]
      · simp [memGet]
    · have : ¬ a = x := fun e => hx e.symm
      split <;> simp [memGet, this]
  | cons c rest ih =>
    obtain ⟨k, v⟩ := c
    have ih := ih (Memory.wf_tail hm)
    have later : ∀ (m : List Host.Cell) (k : Nat) (v : Byte), Memory.wf ((k, v) :: m) = true → ∀ y, y ≤ k → y ≠ k → memGet m y = 0 := by
      intro m
      induction m with
      | nil => intros; rfl
      | cons e m ihm =>
        obtain ⟨j, w⟩ := e
        intro k v h y hy hne
        have h1 : k < j := by simp [Memory.wf] at h; exact h.1.2
        have h2 := Memory.wf_tail h
        have hj : ¬ j = y := by omega
        simp only [memGet, hj, if_false]
        exact ihm j w h2 y (by omega) (by omega)
    have here : ∀ (m : List Host.Cell) (k : Nat) (v : Byte), Memory.wf ((k, v) :: m) = true → memGet m k = 0 := by
      intro m k v h
      cases m with
      | nil => rfl
      | cons e m =>
        obtain ⟨j, w⟩ := e
        have h1 : k < j := by simp [Memory.wf] at h; exact h.1.2
        have hj : ¬ j = k := by omega
        simp only [memGet, hj, if_false]
        exact later m j w (Memory.wf_tail h) k (by omega) (by omega)
    unfold memSet
    split
    · rename_i hlt
      have h0 := later rest k v hm a (by omega) (by omega)
      split
      · rename_i hb
        by_cases hx : x = a
        · subst hx; have : ¬ k = x := by omega
          simp [memGet, this, h0, hb]
        · simp [hx]
      · by_cases hx : x = a
        · subst hx; simp [memGet]
        · have : ¬ a = x := fun e => hx e.symm
          simp [memGet, hx, this]
    · rename_i hlt
      split
      · rename_i hak
        subst hak
        split
        · rename_i hb
          by_cases hx : x = a
          · subst hx; simp [hb, here rest x v hm]
          · have : ¬ a = x := fun e => hx e.symm
            simp [memGet, hx, this]
        · by_cases hx : x = a
          · subst hx; simp [memGet]
          · have : ¬ a = x := fun e => hx e.symm
            simp [memGet, hx, this]
      · rename_i hak
        by_cases hk : k = x
        · subst hk; have : ¬ k = a := fun e => hak e.symm
          simp [memGet, this]
        · simp [memGet, hk, ih]

/-- The first `n` bytes read after writing `bs` are `bs`'s, and every other byte is as before. -/
theorem memGet_memSetN (bs : List Byte) : ∀ (m : List Host.Cell) (a : Nat), Memory.wf m = true → ∀ x,
    memGet (memSetN m a bs) x = if a ≤ x ∧ x < a + bs.length then bs.getD (x - a) 0 else memGet m x := by
  induction bs with
  | nil => intro m a _ x; have : ¬ (a ≤ x ∧ x < a + ([] : List Byte).length) := by simp
           rw [if_neg this]; rfl
  | cons b bs ih =>
    intro m a h x
    rw [memSetN, ih _ _ (memSet_wf m a b h), memGet_memSet m a b h]
    by_cases h1 : x = a
    · subst h1; simp
    · by_cases h2 : a ≤ x
      · have e : x - a = (x - (a + 1)) + 1 := by omega
        by_cases h3 : x < a + 1 + bs.length
        · have c1 : a + 1 ≤ x ∧ x < a + 1 + bs.length := ⟨by omega, h3⟩
          have c2 : a ≤ x ∧ x < a + (b :: bs).length := ⟨h2, by simp; omega⟩
          rw [if_pos c1, if_pos c2, e]; simp
        · have c1 : ¬ (a + 1 ≤ x ∧ x < a + 1 + bs.length) := by omega
          have c2 : ¬ (a ≤ x ∧ x < a + (b :: bs).length) := by simp; omega
          rw [if_neg c1, if_neg c2, if_neg h1]
      · have c1 : ¬ (a + 1 ≤ x ∧ x < a + 1 + bs.length) := by omega
        have c2 : ¬ (a ≤ x ∧ x < a + (b :: bs).length) := by omega
        rw [if_neg c1, if_neg c2, if_neg h1]

/-! ### The home's operations -/

/-- A location stays in a stretch exactly where the cut leaves it. -/
theorem inStretch_cutRange (l : List (Nat × Nat)) (a n x : Nat) : inStretch (cutRange l a n) x = (inStretch l x && !(a ≤ x && x < a + n)) := by
  induction l with
  | nil => rfl
  | cons r l ih =>
    have one : inStretch (if a < r.1 + r.2 ∧ r.1 < a + n then [(r.1, a - r.1), (a + n, r.1 + r.2 - (a + n))].filter (fun x => x.2 != 0) else [r]) x
        = ((decide (r.1 ≤ x) && decide (x < r.1 + r.2)) && !(decide (a ≤ x) && decide (x < a + n))) := by
      rw [Bool.eq_iff_iff]
      split
      · simp only [inStretch, List.any_eq_true, List.mem_filter, List.mem_cons, List.not_mem_nil, or_false, bne_iff_ne, Bool.and_eq_true, decide_eq_true_eq,
          Bool.not_eq_true', Bool.and_eq_false_imp, decide_eq_false_iff_not]
        constructor
        · rintro ⟨y, ⟨rfl | rfl, h0⟩, h1, h2⟩ <;> simp only at h0 h1 h2 <;> omega
        · rintro ⟨⟨h1, h2⟩, h3⟩
          by_cases h : x < a
          · exact ⟨_, ⟨.inl rfl, by simp only; omega⟩, by simp only; omega, by simp only; omega⟩
          · have := h3 (by omega)
            exact ⟨_, ⟨.inr rfl, by simp only; omega⟩, by simp only; omega, by simp only; omega⟩
      · simp only [inStretch, List.any_cons, List.any_nil, Bool.or_false, Bool.and_eq_true, decide_eq_true_eq, Bool.not_eq_true', Bool.and_eq_false_imp, decide_eq_false_iff_not]
        omega
    have split : inStretch (cutRange (r :: l) a n) x
        = (inStretch (if a < r.1 + r.2 ∧ r.1 < a + n then [(r.1, a - r.1), (a + n, r.1 + r.2 - (a + n))].filter (fun x => x.2 != 0) else [r]) x || inStretch (cutRange l a n) x) := by
      simp [inStretch, cutRange, List.any_append]
    rw [split, one, ih]
    simp only [inStretch, List.any_cons]
    cases decide (r.1 ≤ x) && decide (x < r.1 + r.2) <;> cases (!(decide (a ≤ x) && decide (x < a + n))) <;> simp

theorem putBytes_wf (s : State) (g a : Nat) (bs : List Byte) (h : Memory.wf s.mem = true) : Memory.wf (putBytes s g a bs).mem = true :=
  memSetN_wf bs s.mem a h

theorem deviceWrite_wf (s : State) (a : Nat) (bs : List Byte) (h : Memory.wf s.mem = true) : Memory.wf (deviceWrite s a bs).mem = true :=
  memSetN_wf bs s.mem a h

theorem performWrite_wf (s : State) (a : Nat) (bs : List Byte) (w : Writer) (rel : List RelEnd) (track : Bool) (h : Memory.wf s.mem = true) :
    Memory.wf (performWrite s a bs w rel track).mem = true :=
  memSetN_wf bs s.mem a h

theorem putRegion_wf (s : State) (lo n : Nat) (r : Region) (h : Memory.wf s.mem = true) : Memory.wf (putRegion s lo n r).mem = true :=
  memPut_wf _ _ (memClear_wf _ _ _ h)

/-- What the home holds after bytes are written: those bytes, now specified, and everywhere else what it held. -/
theorem byteAt_putBytes (s : State) (g a : Nat) (bs : List Byte) (h : Memory.wf s.mem = true) (x : Nat) :
    (putBytes s g a bs).byteAt x = if a ≤ x ∧ x < a + bs.length then bs.getD (x - a) 0 else s.byteAt x := by
  show (if inStretch (cutRange s.loose a bs.length) x then Config.freeByte (s.fresh * 2 ^ 50 + x) else memGet (memSetN s.mem a bs) x) = _
  rw [inStretch_cutRange, memGet_memSetN bs s.mem a h]
  by_cases hx : a ≤ x ∧ x < a + bs.length
  · rw [if_pos hx, if_pos hx, if_neg (by simp [hx.1, hx.2])]
  · have : (decide (a ≤ x) && decide (x < a + bs.length)) = false := by simpa using hx
    rw [if_neg hx, if_neg hx, this]
    simp only [Bool.not_false, Bool.and_true]
    rfl

theorem byteAt_performWrite (s : State) (a : Nat) (bs : List Byte) (w : Writer) (rel : List RelEnd) (track : Bool) (h : Memory.wf s.mem = true) (x : Nat) :
    (performWrite s a bs w rel track).byteAt x = if a ≤ x ∧ x < a + bs.length then bs.getD (x - a) 0 else s.byteAt x :=
  byteAt_putBytes s w.agent a bs h x

/-- States whose memories, unspecified stretches and free counters agree read alike. -/
theorem byteAt_congr {s t : State} (hm : t.mem = s.mem) (hl : t.loose = s.loose) (hf : t.fresh = s.fresh) (x : Nat) : t.byteAt x = s.byteAt x := by
  simp only [State.byteAt, hm, hl, hf]

theorem bytesAt_length (s : State) (n : Nat) : ∀ a, (s.bytesAt n a).length = n := by
  induction n with
  | zero => intro a; rfl
  | succ n ih => intro a; simp [State.bytesAt, ih]

end Sys2Proof.Machine
end

