-- ==== Sys2Proof/Laws/PerInstr.lean ====
section
/-! SUPPORT. One lemma per instruction: its word, where it has one, decodes to it again. -/

namespace Sys2Proof

/-- The word of a well-formed instruction decodes to that instruction (R243–R258). -/
def Laws.RoundTrip.Statement (i : Instr) : Prop := ∀ w, wellFormed i = true → encode i = some w → decode w = some i


theorem Laws.RoundTrip.add (d : Reg) (a : Reg) (b : Reg) : Laws.RoundTrip.Statement (.add d a b) := by
  intro w hi hw
  cases Option.some.inj hw
  refine decode_of_row 0 _ _ ⟨0xFC00_07FF, 0x0400_0000, fun w => .add (w.extractLsb' 21 5) (w.extractLsb' 16 5) (w.extractLsb' 11 5)⟩ rfl ?_ ?_ hi
  · simp (disch := decide) only [or_and_word, put_and]
    decide
  · simp (disch := decide) [field_or, field_put, field_put_other]

theorem Laws.RoundTrip.sub (d : Reg) (a : Reg) (b : Reg) : Laws.RoundTrip.Statement (.sub d a b) := by
  intro w hi hw
  cases Option.some.inj hw
  refine decode_of_row 1 _ _ ⟨0xFC00_07FF, 0x0400_0001, fun w => .sub (w.extractLsb' 21 5) (w.extractLsb' 16 5) (w.extractLsb' 11 5)⟩ rfl ?_ ?_ hi
  · simp (disch := decide) only [or_and_word, put_and]
    decide
  · simp (disch := decide) [field_or, field_put, field_put_other]

theorem Laws.RoundTrip.and (d : Reg) (a : Reg) (b : Reg) : Laws.RoundTrip.Statement (.and d a b) := by
  intro w hi hw
  cases Option.some.inj hw
  refine decode_of_row 2 _ _ ⟨0xFC00_07FF, 0x0400_0002, fun w => .and (w.extractLsb' 21 5) (w.extractLsb' 16 5) (w.extractLsb' 11 5)⟩ rfl ?_ ?_ hi
  · simp (disch := decide) only [or_and_word, put_and]
    decide
  · simp (disch := decide) [field_or, field_put, field_put_other]

theorem Laws.RoundTrip.or (d : Reg) (a : Reg) (b : Reg) : Laws.RoundTrip.Statement (.or d a b) := by
  intro w hi hw
  cases Option.some.inj hw
  refine decode_of_row 3 _ _ ⟨0xFC00_07FF, 0x0400_0003, fun w => .or (w.extractLsb' 21 5) (w.extractLsb' 16 5) (w.extractLsb' 11 5)⟩ rfl ?_ ?_ hi
  · simp (disch := decide) only [or_and_word, put_and]
    decide
  · simp (disch := decide) [field_or, field_put, field_put_other]

theorem Laws.RoundTrip.xor (d : Reg) (a : Reg) (b : Reg) : Laws.RoundTrip.Statement (.xor d a b) := by
  intro w hi hw
  cases Option.some.inj hw
  refine decode_of_row 4 _ _ ⟨0xFC00_07FF, 0x0400_0004, fun w => .xor (w.extractLsb' 21 5) (w.extractLsb' 16 5) (w.extractLsb' 11 5)⟩ rfl ?_ ?_ hi
  · simp (disch := decide) only [or_and_word, put_and]
    decide
  · simp (disch := decide) [field_or, field_put, field_put_other]

theorem Laws.RoundTrip.andn (d : Reg) (a : Reg) (b : Reg) : Laws.RoundTrip.Statement (.andn d a b) := by
  intro w hi hw
  cases Option.some.inj hw
  refine decode_of_row 5 _ _ ⟨0xFC00_07FF, 0x0400_0005, fun w => .andn (w.extractLsb' 21 5) (w.extractLsb' 16 5) (w.extractLsb' 11 5)⟩ rfl ?_ ?_ hi
  · simp (disch := decide) only [or_and_word, put_and]
    decide
  · simp (disch := decide) [field_or, field_put, field_put_other]

theorem Laws.RoundTrip.sll (d : Reg) (a : Reg) (b : Reg) : Laws.RoundTrip.Statement (.sll d a b) := by
  intro w hi hw
  cases Option.some.inj hw
  refine decode_of_row 6 _ _ ⟨0xFC00_07FF, 0x0400_0006, fun w => .sll (w.extractLsb' 21 5) (w.extractLsb' 16 5) (w.extractLsb' 11 5)⟩ rfl ?_ ?_ hi
  · simp (disch := decide) only [or_and_word, put_and]
    decide
  · simp (disch := decide) [field_or, field_put, field_put_other]

theorem Laws.RoundTrip.srl (d : Reg) (a : Reg) (b : Reg) : Laws.RoundTrip.Statement (.srl d a b) := by
  intro w hi hw
  cases Option.some.inj hw
  refine decode_of_row 7 _ _ ⟨0xFC00_07FF, 0x0400_0007, fun w => .srl (w.extractLsb' 21 5) (w.extractLsb' 16 5) (w.extractLsb' 11 5)⟩ rfl ?_ ?_ hi
  · simp (disch := decide) only [or_and_word, put_and]
    decide
  · simp (disch := decide) [field_or, field_put, field_put_other]

theorem Laws.RoundTrip.sra (d : Reg) (a : Reg) (b : Reg) : Laws.RoundTrip.Statement (.sra d a b) := by
  intro w hi hw
  cases Option.some.inj hw
  refine decode_of_row 8 _ _ ⟨0xFC00_07FF, 0x0400_0008, fun w => .sra (w.extractLsb' 21 5) (w.extractLsb' 16 5) (w.extractLsb' 11 5)⟩ rfl ?_ ?_ hi
  · simp (disch := decide) only [or_and_word, put_and]
    decide
  · simp (disch := decide) [field_or, field_put, field_put_other]

theorem Laws.RoundTrip.rotl (d : Reg) (a : Reg) (b : Reg) : Laws.RoundTrip.Statement (.rotl d a b) := by
  intro w hi hw
  cases Option.some.inj hw
  refine decode_of_row 9 _ _ ⟨0xFC00_07FF, 0x0400_0009, fun w => .rotl (w.extractLsb' 21 5) (w.extractLsb' 16 5) (w.extractLsb' 11 5)⟩ rfl ?_ ?_ hi
  · simp (disch := decide) only [or_and_word, put_and]
    decide
  · simp (disch := decide) [field_or, field_put, field_put_other]

theorem Laws.RoundTrip.rotr (d : Reg) (a : Reg) (b : Reg) : Laws.RoundTrip.Statement (.rotr d a b) := by
  intro w hi hw
  cases Option.some.inj hw
  refine decode_of_row 10 _ _ ⟨0xFC00_07FF, 0x0400_000A, fun w => .rotr (w.extractLsb' 21 5) (w.extractLsb' 16 5) (w.extractLsb' 11 5)⟩ rfl ?_ ?_ hi
  · simp (disch := decide) only [or_and_word, put_and]
    decide
  · simp (disch := decide) [field_or, field_put, field_put_other]

theorem Laws.RoundTrip.slt (d : Reg) (a : Reg) (b : Reg) : Laws.RoundTrip.Statement (.slt d a b) := by
  intro w hi hw
  cases Option.some.inj hw
  refine decode_of_row 11 _ _ ⟨0xFC00_07FF, 0x0400_000B, fun w => .slt (w.extractLsb' 21 5) (w.extractLsb' 16 5) (w.extractLsb' 11 5)⟩ rfl ?_ ?_ hi
  · simp (disch := decide) only [or_and_word, put_and]
    decide
  · simp (disch := decide) [field_or, field_put, field_put_other]

theorem Laws.RoundTrip.sltu (d : Reg) (a : Reg) (b : Reg) : Laws.RoundTrip.Statement (.sltu d a b) := by
  intro w hi hw
  cases Option.some.inj hw
  refine decode_of_row 12 _ _ ⟨0xFC00_07FF, 0x0400_000C, fun w => .sltu (w.extractLsb' 21 5) (w.extractLsb' 16 5) (w.extractLsb' 11 5)⟩ rfl ?_ ?_ hi
  · simp (disch := decide) only [or_and_word, put_and]
    decide
  · simp (disch := decide) [field_or, field_put, field_put_other]

theorem Laws.RoundTrip.min (d : Reg) (a : Reg) (b : Reg) : Laws.RoundTrip.Statement (.min d a b) := by
  intro w hi hw
  cases Option.some.inj hw
  refine decode_of_row 13 _ _ ⟨0xFC00_07FF, 0x0400_000D, fun w => .min (w.extractLsb' 21 5) (w.extractLsb' 16 5) (w.extractLsb' 11 5)⟩ rfl ?_ ?_ hi
  · simp (disch := decide) only [or_and_word, put_and]
    decide
  · simp (disch := decide) [field_or, field_put, field_put_other]

theorem Laws.RoundTrip.max (d : Reg) (a : Reg) (b : Reg) : Laws.RoundTrip.Statement (.max d a b) := by
  intro w hi hw
  cases Option.some.inj hw
  refine decode_of_row 14 _ _ ⟨0xFC00_07FF, 0x0400_000E, fun w => .max (w.extractLsb' 21 5) (w.extractLsb' 16 5) (w.extractLsb' 11 5)⟩ rfl ?_ ?_ hi
  · simp (disch := decide) only [or_and_word, put_and]
    decide
  · simp (disch := decide) [field_or, field_put, field_put_other]

theorem Laws.RoundTrip.minu (d : Reg) (a : Reg) (b : Reg) : Laws.RoundTrip.Statement (.minu d a b) := by
  intro w hi hw
  cases Option.some.inj hw
  refine decode_of_row 15 _ _ ⟨0xFC00_07FF, 0x0400_000F, fun w => .minu (w.extractLsb' 21 5) (w.extractLsb' 16 5) (w.extractLsb' 11 5)⟩ rfl ?_ ?_ hi
  · simp (disch := decide) only [or_and_word, put_and]
    decide
  · simp (disch := decide) [field_or, field_put, field_put_other]

theorem Laws.RoundTrip.maxu (d : Reg) (a : Reg) (b : Reg) : Laws.RoundTrip.Statement (.maxu d a b) := by
  intro w hi hw
  cases Option.some.inj hw
  refine decode_of_row 16 _ _ ⟨0xFC00_07FF, 0x0400_0010, fun w => .maxu (w.extractLsb' 21 5) (w.extractLsb' 16 5) (w.extractLsb' 11 5)⟩ rfl ?_ ?_ hi
  · simp (disch := decide) only [or_and_word, put_and]
    decide
  · simp (disch := decide) [field_or, field_put, field_put_other]

theorem Laws.RoundTrip.mul (d : Reg) (a : Reg) (b : Reg) : Laws.RoundTrip.Statement (.mul d a b) := by
  intro w hi hw
  cases Option.some.inj hw
  refine decode_of_row 17 _ _ ⟨0xFC00_07FF, 0x0400_0011, fun w => .mul (w.extractLsb' 21 5) (w.extractLsb' 16 5) (w.extractLsb' 11 5)⟩ rfl ?_ ?_ hi
  · simp (disch := decide) only [or_and_word, put_and]
    decide
  · simp (disch := decide) [field_or, field_put, field_put_other]

theorem Laws.RoundTrip.mulh (d : Reg) (a : Reg) (b : Reg) : Laws.RoundTrip.Statement (.mulh d a b) := by
  intro w hi hw
  cases Option.some.inj hw
  refine decode_of_row 18 _ _ ⟨0xFC00_07FF, 0x0400_0012, fun w => .mulh (w.extractLsb' 21 5) (w.extractLsb' 16 5) (w.extractLsb' 11 5)⟩ rfl ?_ ?_ hi
  · simp (disch := decide) only [or_and_word, put_and]
    decide
  · simp (disch := decide) [field_or, field_put, field_put_other]

theorem Laws.RoundTrip.mulhu (d : Reg) (a : Reg) (b : Reg) : Laws.RoundTrip.Statement (.mulhu d a b) := by
  intro w hi hw
  cases Option.some.inj hw
  refine decode_of_row 19 _ _ ⟨0xFC00_07FF, 0x0400_0013, fun w => .mulhu (w.extractLsb' 21 5) (w.extractLsb' 16 5) (w.extractLsb' 11 5)⟩ rfl ?_ ?_ hi
  · simp (disch := decide) only [or_and_word, put_and]
    decide
  · simp (disch := decide) [field_or, field_put, field_put_other]

theorem Laws.RoundTrip.mulhsu (d : Reg) (a : Reg) (b : Reg) : Laws.RoundTrip.Statement (.mulhsu d a b) := by
  intro w hi hw
  cases Option.some.inj hw
  refine decode_of_row 20 _ _ ⟨0xFC00_07FF, 0x0400_0014, fun w => .mulhsu (w.extractLsb' 21 5) (w.extractLsb' 16 5) (w.extractLsb' 11 5)⟩ rfl ?_ ?_ hi
  · simp (disch := decide) only [or_and_word, put_and]
    decide
  · simp (disch := decide) [field_or, field_put, field_put_other]

theorem Laws.RoundTrip.div (d : Reg) (a : Reg) (b : Reg) : Laws.RoundTrip.Statement (.div d a b) := by
  intro w hi hw
  cases Option.some.inj hw
  refine decode_of_row 21 _ _ ⟨0xFC00_07FF, 0x0400_0015, fun w => .div (w.extractLsb' 21 5) (w.extractLsb' 16 5) (w.extractLsb' 11 5)⟩ rfl ?_ ?_ hi
  · simp (disch := decide) only [or_and_word, put_and]
    decide
  · simp (disch := decide) [field_or, field_put, field_put_other]

theorem Laws.RoundTrip.divu (d : Reg) (a : Reg) (b : Reg) : Laws.RoundTrip.Statement (.divu d a b) := by
  intro w hi hw
  cases Option.some.inj hw
  refine decode_of_row 22 _ _ ⟨0xFC00_07FF, 0x0400_0016, fun w => .divu (w.extractLsb' 21 5) (w.extractLsb' 16 5) (w.extractLsb' 11 5)⟩ rfl ?_ ?_ hi
  · simp (disch := decide) only [or_and_word, put_and]
    decide
  · simp (disch := decide) [field_or, field_put, field_put_other]

theorem Laws.RoundTrip.rem (d : Reg) (a : Reg) (b : Reg) : Laws.RoundTrip.Statement (.rem d a b) := by
  intro w hi hw
  cases Option.some.inj hw
  refine decode_of_row 23 _ _ ⟨0xFC00_07FF, 0x0400_0017, fun w => .rem (w.extractLsb' 21 5) (w.extractLsb' 16 5) (w.extractLsb' 11 5)⟩ rfl ?_ ?_ hi
  · simp (disch := decide) only [or_and_word, put_and]
    decide
  · simp (disch := decide) [field_or, field_put, field_put_other]

theorem Laws.RoundTrip.remu (d : Reg) (a : Reg) (b : Reg) : Laws.RoundTrip.Statement (.remu d a b) := by
  intro w hi hw
  cases Option.some.inj hw
  refine decode_of_row 24 _ _ ⟨0xFC00_07FF, 0x0400_0018, fun w => .remu (w.extractLsb' 21 5) (w.extractLsb' 16 5) (w.extractLsb' 11 5)⟩ rfl ?_ ?_ hi
  · simp (disch := decide) only [or_and_word, put_and]
    decide
  · simp (disch := decide) [field_or, field_put, field_put_other]

theorem Laws.RoundTrip.clz (d : Reg) (a : Reg) : Laws.RoundTrip.Statement (.clz d a) := by
  intro w hi hw
  cases Option.some.inj hw
  refine decode_of_row 25 _ _ ⟨0xFC00_FFFF, 0x0400_0019, fun w => .clz (w.extractLsb' 21 5) (w.extractLsb' 16 5)⟩ rfl ?_ ?_ hi
  · simp (disch := decide) only [or_and_word, put_and]
    decide
  · simp (disch := decide) [field_or, field_put, field_put_other]

theorem Laws.RoundTrip.ctz (d : Reg) (a : Reg) : Laws.RoundTrip.Statement (.ctz d a) := by
  intro w hi hw
  cases Option.some.inj hw
  refine decode_of_row 26 _ _ ⟨0xFC00_FFFF, 0x0400_001A, fun w => .ctz (w.extractLsb' 21 5) (w.extractLsb' 16 5)⟩ rfl ?_ ?_ hi
  · simp (disch := decide) only [or_and_word, put_and]
    decide
  · simp (disch := decide) [field_or, field_put, field_put_other]

theorem Laws.RoundTrip.popc (d : Reg) (a : Reg) : Laws.RoundTrip.Statement (.popc d a) := by
  intro w hi hw
  cases Option.some.inj hw
  refine decode_of_row 27 _ _ ⟨0xFC00_FFFF, 0x0400_001B, fun w => .popc (w.extractLsb' 21 5) (w.extractLsb' 16 5)⟩ rfl ?_ ?_ hi
  · simp (disch := decide) only [or_and_word, put_and]
    decide
  · simp (disch := decide) [field_or, field_put, field_put_other]

theorem Laws.RoundTrip.bswap (d : Reg) (a : Reg) : Laws.RoundTrip.Statement (.bswap d a) := by
  intro w hi hw
  cases Option.some.inj hw
  refine decode_of_row 28 _ _ ⟨0xFC00_FFFF, 0x0400_001C, fun w => .bswap (w.extractLsb' 21 5) (w.extractLsb' 16 5)⟩ rfl ?_ ?_ hi
  · simp (disch := decide) only [or_and_word, put_and]
    decide
  · simp (disch := decide) [field_or, field_put, field_put_other]

theorem Laws.RoundTrip.addW (d : Reg) (a : Reg) (b : Reg) : Laws.RoundTrip.Statement (.addW d a b) := by
  intro w hi hw
  cases Option.some.inj hw
  refine decode_of_row 29 _ _ ⟨0xFC00_07FF, 0x0800_0000, fun w => .addW (w.extractLsb' 21 5) (w.extractLsb' 16 5) (w.extractLsb' 11 5)⟩ rfl ?_ ?_ hi
  · simp (disch := decide) only [or_and_word, put_and]
    decide
  · simp (disch := decide) [field_or, field_put, field_put_other]

theorem Laws.RoundTrip.subW (d : Reg) (a : Reg) (b : Reg) : Laws.RoundTrip.Statement (.subW d a b) := by
  intro w hi hw
  cases Option.some.inj hw
  refine decode_of_row 30 _ _ ⟨0xFC00_07FF, 0x0800_0001, fun w => .subW (w.extractLsb' 21 5) (w.extractLsb' 16 5) (w.extractLsb' 11 5)⟩ rfl ?_ ?_ hi
  · simp (disch := decide) only [or_and_word, put_and]
    decide
  · simp (disch := decide) [field_or, field_put, field_put_other]

theorem Laws.RoundTrip.sllW (d : Reg) (a : Reg) (b : Reg) : Laws.RoundTrip.Statement (.sllW d a b) := by
  intro w hi hw
  cases Option.some.inj hw
  refine decode_of_row 31 _ _ ⟨0xFC00_07FF, 0x0800_0006, fun w => .sllW (w.extractLsb' 21 5) (w.extractLsb' 16 5) (w.extractLsb' 11 5)⟩ rfl ?_ ?_ hi
  · simp (disch := decide) only [or_and_word, put_and]
    decide
  · simp (disch := decide) [field_or, field_put, field_put_other]

theorem Laws.RoundTrip.srlW (d : Reg) (a : Reg) (b : Reg) : Laws.RoundTrip.Statement (.srlW d a b) := by
  intro w hi hw
  cases Option.some.inj hw
  refine decode_of_row 32 _ _ ⟨0xFC00_07FF, 0x0800_0007, fun w => .srlW (w.extractLsb' 21 5) (w.extractLsb' 16 5) (w.extractLsb' 11 5)⟩ rfl ?_ ?_ hi
  · simp (disch := decide) only [or_and_word, put_and]
    decide
  · simp (disch := decide) [field_or, field_put, field_put_other]

theorem Laws.RoundTrip.sraW (d : Reg) (a : Reg) (b : Reg) : Laws.RoundTrip.Statement (.sraW d a b) := by
  intro w hi hw
  cases Option.some.inj hw
  refine decode_of_row 33 _ _ ⟨0xFC00_07FF, 0x0800_0008, fun w => .sraW (w.extractLsb' 21 5) (w.extractLsb' 16 5) (w.extractLsb' 11 5)⟩ rfl ?_ ?_ hi
  · simp (disch := decide) only [or_and_word, put_and]
    decide
  · simp (disch := decide) [field_or, field_put, field_put_other]

theorem Laws.RoundTrip.mulW (d : Reg) (a : Reg) (b : Reg) : Laws.RoundTrip.Statement (.mulW d a b) := by
  intro w hi hw
  cases Option.some.inj hw
  refine decode_of_row 34 _ _ ⟨0xFC00_07FF, 0x0800_0011, fun w => .mulW (w.extractLsb' 21 5) (w.extractLsb' 16 5) (w.extractLsb' 11 5)⟩ rfl ?_ ?_ hi
  · simp (disch := decide) only [or_and_word, put_and]
    decide
  · simp (disch := decide) [field_or, field_put, field_put_other]

theorem Laws.RoundTrip.divW (d : Reg) (a : Reg) (b : Reg) : Laws.RoundTrip.Statement (.divW d a b) := by
  intro w hi hw
  cases Option.some.inj hw
  refine decode_of_row 35 _ _ ⟨0xFC00_07FF, 0x0800_0015, fun w => .divW (w.extractLsb' 21 5) (w.extractLsb' 16 5) (w.extractLsb' 11 5)⟩ rfl ?_ ?_ hi
  · simp (disch := decide) only [or_and_word, put_and]
    decide
  · simp (disch := decide) [field_or, field_put, field_put_other]

theorem Laws.RoundTrip.divuW (d : Reg) (a : Reg) (b : Reg) : Laws.RoundTrip.Statement (.divuW d a b) := by
  intro w hi hw
  cases Option.some.inj hw
  refine decode_of_row 36 _ _ ⟨0xFC00_07FF, 0x0800_0016, fun w => .divuW (w.extractLsb' 21 5) (w.extractLsb' 16 5) (w.extractLsb' 11 5)⟩ rfl ?_ ?_ hi
  · simp (disch := decide) only [or_and_word, put_and]
    decide
  · simp (disch := decide) [field_or, field_put, field_put_other]

theorem Laws.RoundTrip.remW (d : Reg) (a : Reg) (b : Reg) : Laws.RoundTrip.Statement (.remW d a b) := by
  intro w hi hw
  cases Option.some.inj hw
  refine decode_of_row 37 _ _ ⟨0xFC00_07FF, 0x0800_0017, fun w => .remW (w.extractLsb' 21 5) (w.extractLsb' 16 5) (w.extractLsb' 11 5)⟩ rfl ?_ ?_ hi
  · simp (disch := decide) only [or_and_word, put_and]
    decide
  · simp (disch := decide) [field_or, field_put, field_put_other]

theorem Laws.RoundTrip.remuW (d : Reg) (a : Reg) (b : Reg) : Laws.RoundTrip.Statement (.remuW d a b) := by
  intro w hi hw
  cases Option.some.inj hw
  refine decode_of_row 38 _ _ ⟨0xFC00_07FF, 0x0800_0018, fun w => .remuW (w.extractLsb' 21 5) (w.extractLsb' 16 5) (w.extractLsb' 11 5)⟩ rfl ?_ ?_ hi
  · simp (disch := decide) only [or_and_word, put_and]
    decide
  · simp (disch := decide) [field_or, field_put, field_put_other]

theorem Laws.RoundTrip.fadd (d : Reg) (a : Reg) (b : Reg) (p : BitVec 1) : Laws.RoundTrip.Statement (.fadd d a b p) := by
  intro w hi hw
  cases Option.some.inj hw
  refine decode_of_row 39 _ _ ⟨0xFC00_07FE, 0x0C00_0000, fun w => .fadd (w.extractLsb' 21 5) (w.extractLsb' 16 5) (w.extractLsb' 11 5) (w.extractLsb' 0 1)⟩ rfl ?_ ?_ hi
  · simp (disch := decide) only [or_and_word, put_and]
    decide
  · simp (disch := decide) [field_or, field_put, field_put_other]

theorem Laws.RoundTrip.fsub (d : Reg) (a : Reg) (b : Reg) (p : BitVec 1) : Laws.RoundTrip.Statement (.fsub d a b p) := by
  intro w hi hw
  cases Option.some.inj hw
  refine decode_of_row 40 _ _ ⟨0xFC00_07FE, 0x0C00_0002, fun w => .fsub (w.extractLsb' 21 5) (w.extractLsb' 16 5) (w.extractLsb' 11 5) (w.extractLsb' 0 1)⟩ rfl ?_ ?_ hi
  · simp (disch := decide) only [or_and_word, put_and]
    decide
  · simp (disch := decide) [field_or, field_put, field_put_other]

theorem Laws.RoundTrip.fmul (d : Reg) (a : Reg) (b : Reg) (p : BitVec 1) : Laws.RoundTrip.Statement (.fmul d a b p) := by
  intro w hi hw
  cases Option.some.inj hw
  refine decode_of_row 41 _ _ ⟨0xFC00_07FE, 0x0C00_0004, fun w => .fmul (w.extractLsb' 21 5) (w.extractLsb' 16 5) (w.extractLsb' 11 5) (w.extractLsb' 0 1)⟩ rfl ?_ ?_ hi
  · simp (disch := decide) only [or_and_word, put_and]
    decide
  · simp (disch := decide) [field_or, field_put, field_put_other]

theorem Laws.RoundTrip.fdiv (d : Reg) (a : Reg) (b : Reg) (p : BitVec 1) : Laws.RoundTrip.Statement (.fdiv d a b p) := by
  intro w hi hw
  cases Option.some.inj hw
  refine decode_of_row 42 _ _ ⟨0xFC00_07FE, 0x0C00_0006, fun w => .fdiv (w.extractLsb' 21 5) (w.extractLsb' 16 5) (w.extractLsb' 11 5) (w.extractLsb' 0 1)⟩ rfl ?_ ?_ hi
  · simp (disch := decide) only [or_and_word, put_and]
    decide
  · simp (disch := decide) [field_or, field_put, field_put_other]

theorem Laws.RoundTrip.fsqrt (d : Reg) (a : Reg) (p : BitVec 1) : Laws.RoundTrip.Statement (.fsqrt d a p) := by
  intro w hi hw
  cases Option.some.inj hw
  refine decode_of_row 43 _ _ ⟨0xFC00_FFFE, 0x0C00_0008, fun w => .fsqrt (w.extractLsb' 21 5) (w.extractLsb' 16 5) (w.extractLsb' 0 1)⟩ rfl ?_ ?_ hi
  · simp (disch := decide) only [or_and_word, put_and]
    decide
  · simp (disch := decide) [field_or, field_put, field_put_other]

theorem Laws.RoundTrip.fmadd (d : Reg) (a : Reg) (b : Reg) (c : Reg) (p : BitVec 1) : Laws.RoundTrip.Statement (.fmadd d a b c p) := by
  intro w hi hw
  cases Option.some.inj hw
  refine decode_of_row 44 _ _ ⟨0xFC00_003E, 0x0C00_000A, fun w => .fmadd (w.extractLsb' 21 5) (w.extractLsb' 16 5) (w.extractLsb' 11 5) (w.extractLsb' 6 5) (w.extractLsb' 0 1)⟩ rfl ?_ ?_ hi
  · simp (disch := decide) only [or_and_word, put_and]
    decide
  · simp (disch := decide) [field_or, field_put, field_put_other]

theorem Laws.RoundTrip.fmsub (d : Reg) (a : Reg) (b : Reg) (c : Reg) (p : BitVec 1) : Laws.RoundTrip.Statement (.fmsub d a b c p) := by
  intro w hi hw
  cases Option.some.inj hw
  refine decode_of_row 45 _ _ ⟨0xFC00_003E, 0x0C00_000C, fun w => .fmsub (w.extractLsb' 21 5) (w.extractLsb' 16 5) (w.extractLsb' 11 5) (w.extractLsb' 6 5) (w.extractLsb' 0 1)⟩ rfl ?_ ?_ hi
  · simp (disch := decide) only [or_and_word, put_and]
    decide
  · simp (disch := decide) [field_or, field_put, field_put_other]

theorem Laws.RoundTrip.fnmadd (d : Reg) (a : Reg) (b : Reg) (c : Reg) (p : BitVec 1) : Laws.RoundTrip.Statement (.fnmadd d a b c p) := by
  intro w hi hw
  cases Option.some.inj hw
  refine decode_of_row 46 _ _ ⟨0xFC00_003E, 0x0C00_000E, fun w => .fnmadd (w.extractLsb' 21 5) (w.extractLsb' 16 5) (w.extractLsb' 11 5) (w.extractLsb' 6 5) (w.extractLsb' 0 1)⟩ rfl ?_ ?_ hi
  · simp (disch := decide) only [or_and_word, put_and]
    decide
  · simp (disch := decide) [field_or, field_put, field_put_other]

theorem Laws.RoundTrip.fmin (d : Reg) (a : Reg) (b : Reg) (p : BitVec 1) : Laws.RoundTrip.Statement (.fmin d a b p) := by
  intro w hi hw
  cases Option.some.inj hw
  refine decode_of_row 47 _ _ ⟨0xFC00_07FE, 0x0C00_0010, fun w => .fmin (w.extractLsb' 21 5) (w.extractLsb' 16 5) (w.extractLsb' 11 5) (w.extractLsb' 0 1)⟩ rfl ?_ ?_ hi
  · simp (disch := decide) only [or_and_word, put_and]
    decide
  · simp (disch := decide) [field_or, field_put, field_put_other]

theorem Laws.RoundTrip.fmax (d : Reg) (a : Reg) (b : Reg) (p : BitVec 1) : Laws.RoundTrip.Statement (.fmax d a b p) := by
  intro w hi hw
  cases Option.some.inj hw
  refine decode_of_row 48 _ _ ⟨0xFC00_07FE, 0x0C00_0012, fun w => .fmax (w.extractLsb' 21 5) (w.extractLsb' 16 5) (w.extractLsb' 11 5) (w.extractLsb' 0 1)⟩ rfl ?_ ?_ hi
  · simp (disch := decide) only [or_and_word, put_and]
    decide
  · simp (disch := decide) [field_or, field_put, field_put_other]

theorem Laws.RoundTrip.fsgnj (d : Reg) (a : Reg) (b : Reg) (p : BitVec 1) : Laws.RoundTrip.Statement (.fsgnj d a b p) := by
  intro w hi hw
  cases Option.some.inj hw
  refine decode_of_row 49 _ _ ⟨0xFC00_07FE, 0x0C00_0014, fun w => .fsgnj (w.extractLsb' 21 5) (w.extractLsb' 16 5) (w.extractLsb' 11 5) (w.extractLsb' 0 1)⟩ rfl ?_ ?_ hi
  · simp (disch := decide) only [or_and_word, put_and]
    decide
  · simp (disch := decide) [field_or, field_put, field_put_other]

theorem Laws.RoundTrip.fsgnjn (d : Reg) (a : Reg) (b : Reg) (p : BitVec 1) : Laws.RoundTrip.Statement (.fsgnjn d a b p) := by
  intro w hi hw
  cases Option.some.inj hw
  refine decode_of_row 50 _ _ ⟨0xFC00_07FE, 0x0C00_0016, fun w => .fsgnjn (w.extractLsb' 21 5) (w.extractLsb' 16 5) (w.extractLsb' 11 5) (w.extractLsb' 0 1)⟩ rfl ?_ ?_ hi
  · simp (disch := decide) only [or_and_word, put_and]
    decide
  · simp (disch := decide) [field_or, field_put, field_put_other]

theorem Laws.RoundTrip.fsgnjx (d : Reg) (a : Reg) (b : Reg) (p : BitVec 1) : Laws.RoundTrip.Statement (.fsgnjx d a b p) := by
  intro w hi hw
  cases Option.some.inj hw
  refine decode_of_row 51 _ _ ⟨0xFC00_07FE, 0x0C00_0018, fun w => .fsgnjx (w.extractLsb' 21 5) (w.extractLsb' 16 5) (w.extractLsb' 11 5) (w.extractLsb' 0 1)⟩ rfl ?_ ?_ hi
  · simp (disch := decide) only [or_and_word, put_and]
    decide
  · simp (disch := decide) [field_or, field_put, field_put_other]

theorem Laws.RoundTrip.feq (d : Reg) (a : Reg) (b : Reg) (p : BitVec 1) : Laws.RoundTrip.Statement (.feq d a b p) := by
  intro w hi hw
  cases Option.some.inj hw
  refine decode_of_row 52 _ _ ⟨0xFC00_07FE, 0x0C00_001A, fun w => .feq (w.extractLsb' 21 5) (w.extractLsb' 16 5) (w.extractLsb' 11 5) (w.extractLsb' 0 1)⟩ rfl ?_ ?_ hi
  · simp (disch := decide) only [or_and_word, put_and]
    decide
  · simp (disch := decide) [field_or, field_put, field_put_other]

theorem Laws.RoundTrip.flt (d : Reg) (a : Reg) (b : Reg) (p : BitVec 1) : Laws.RoundTrip.Statement (.flt d a b p) := by
  intro w hi hw
  cases Option.some.inj hw
  refine decode_of_row 53 _ _ ⟨0xFC00_07FE, 0x0C00_001C, fun w => .flt (w.extractLsb' 21 5) (w.extractLsb' 16 5) (w.extractLsb' 11 5) (w.extractLsb' 0 1)⟩ rfl ?_ ?_ hi
  · simp (disch := decide) only [or_and_word, put_and]
    decide
  · simp (disch := decide) [field_or, field_put, field_put_other]

theorem Laws.RoundTrip.fle (d : Reg) (a : Reg) (b : Reg) (p : BitVec 1) : Laws.RoundTrip.Statement (.fle d a b p) := by
  intro w hi hw
  cases Option.some.inj hw
  refine decode_of_row 54 _ _ ⟨0xFC00_07FE, 0x0C00_001E, fun w => .fle (w.extractLsb' 21 5) (w.extractLsb' 16 5) (w.extractLsb' 11 5) (w.extractLsb' 0 1)⟩ rfl ?_ ?_ hi
  · simp (disch := decide) only [or_and_word, put_and]
    decide
  · simp (disch := decide) [field_or, field_put, field_put_other]

theorem Laws.RoundTrip.fclass (d : Reg) (a : Reg) (p : BitVec 1) : Laws.RoundTrip.Statement (.fclass d a p) := by
  intro w hi hw
  cases Option.some.inj hw
  refine decode_of_row 55 _ _ ⟨0xFC00_FFFE, 0x0C00_0020, fun w => .fclass (w.extractLsb' 21 5) (w.extractLsb' 16 5) (w.extractLsb' 0 1)⟩ rfl ?_ ?_ hi
  · simp (disch := decide) only [or_and_word, put_and]
    decide
  · simp (disch := decide) [field_or, field_put, field_put_other]

theorem Laws.RoundTrip.fcvtW (d : Reg) (a : Reg) (p : BitVec 1) : Laws.RoundTrip.Statement (.fcvtW d a p) := by
  intro w hi hw
  cases Option.some.inj hw
  refine decode_of_row 56 _ _ ⟨0xFC00_FFFE, 0x0C00_0022, fun w => .fcvtW (w.extractLsb' 21 5) (w.extractLsb' 16 5) (w.extractLsb' 0 1)⟩ rfl ?_ ?_ hi
  · simp (disch := decide) only [or_and_word, put_and]
    decide
  · simp (disch := decide) [field_or, field_put, field_put_other]

theorem Laws.RoundTrip.fcvtWu (d : Reg) (a : Reg) (p : BitVec 1) : Laws.RoundTrip.Statement (.fcvtWu d a p) := by
  intro w hi hw
  cases Option.some.inj hw
  refine decode_of_row 57 _ _ ⟨0xFC00_FFFE, 0x0C00_0062, fun w => .fcvtWu (w.extractLsb' 21 5) (w.extractLsb' 16 5) (w.extractLsb' 0 1)⟩ rfl ?_ ?_ hi
  · simp (disch := decide) only [or_and_word, put_and]
    decide
  · simp (disch := decide) [field_or, field_put, field_put_other]

theorem Laws.RoundTrip.fcvtL (d : Reg) (a : Reg) (p : BitVec 1) : Laws.RoundTrip.Statement (.fcvtL d a p) := by
  intro w hi hw
  cases Option.some.inj hw
  refine decode_of_row 58 _ _ ⟨0xFC00_FFFE, 0x0C00_00A2, fun w => .fcvtL (w.extractLsb' 21 5) (w.extractLsb' 16 5) (w.extractLsb' 0 1)⟩ rfl ?_ ?_ hi
  · simp (disch := decide) only [or_and_word, put_and]
    decide
  · simp (disch := decide) [field_or, field_put, field_put_other]

theorem Laws.RoundTrip.fcvtLu (d : Reg) (a : Reg) (p : BitVec 1) : Laws.RoundTrip.Statement (.fcvtLu d a p) := by
  intro w hi hw
  cases Option.some.inj hw
  refine decode_of_row 59 _ _ ⟨0xFC00_FFFE, 0x0C00_00E2, fun w => .fcvtLu (w.extractLsb' 21 5) (w.extractLsb' 16 5) (w.extractLsb' 0 1)⟩ rfl ?_ ?_ hi
  · simp (disch := decide) only [or_and_word, put_and]
    decide
  · simp (disch := decide) [field_or, field_put, field_put_other]

theorem Laws.RoundTrip.fcvtFromW (d : Reg) (a : Reg) (p : BitVec 1) : Laws.RoundTrip.Statement (.fcvtFromW d a p) := by
  intro w hi hw
  cases Option.some.inj hw
  refine decode_of_row 60 _ _ ⟨0xFC00_FFFE, 0x0C00_0122, fun w => .fcvtFromW (w.extractLsb' 21 5) (w.extractLsb' 16 5) (w.extractLsb' 0 1)⟩ rfl ?_ ?_ hi
  · simp (disch := decide) only [or_and_word, put_and]
    decide
  · simp (disch := decide) [field_or, field_put, field_put_other]

theorem Laws.RoundTrip.fcvtFromWu (d : Reg) (a : Reg) (p : BitVec 1) : Laws.RoundTrip.Statement (.fcvtFromWu d a p) := by
  intro w hi hw
  cases Option.some.inj hw
  refine decode_of_row 61 _ _ ⟨0xFC00_FFFE, 0x0C00_0162, fun w => .fcvtFromWu (w.extractLsb' 21 5) (w.extractLsb' 16 5) (w.extractLsb' 0 1)⟩ rfl ?_ ?_ hi
  · simp (disch := decide) only [or_and_word, put_and]
    decide
  · simp (disch := decide) [field_or, field_put, field_put_other]

theorem Laws.RoundTrip.fcvtFromL (d : Reg) (a : Reg) (p : BitVec 1) : Laws.RoundTrip.Statement (.fcvtFromL d a p) := by
  intro w hi hw
  cases Option.some.inj hw
  refine decode_of_row 62 _ _ ⟨0xFC00_FFFE, 0x0C00_01A2, fun w => .fcvtFromL (w.extractLsb' 21 5) (w.extractLsb' 16 5) (w.extractLsb' 0 1)⟩ rfl ?_ ?_ hi
  · simp (disch := decide) only [or_and_word, put_and]
    decide
  · simp (disch := decide) [field_or, field_put, field_put_other]

theorem Laws.RoundTrip.fcvtFromLu (d : Reg) (a : Reg) (p : BitVec 1) : Laws.RoundTrip.Statement (.fcvtFromLu d a p) := by
  intro w hi hw
  cases Option.some.inj hw
  refine decode_of_row 63 _ _ ⟨0xFC00_FFFE, 0x0C00_01E2, fun w => .fcvtFromLu (w.extractLsb' 21 5) (w.extractLsb' 16 5) (w.extractLsb' 0 1)⟩ rfl ?_ ?_ hi
  · simp (disch := decide) only [or_and_word, put_and]
    decide
  · simp (disch := decide) [field_or, field_put, field_put_other]

theorem Laws.RoundTrip.fcvtDS (d : Reg) (a : Reg) (p : BitVec 1) : Laws.RoundTrip.Statement (.fcvtDS d a p) := by
  intro w hi hw
  cases Option.some.inj hw
  refine decode_of_row 64 _ _ ⟨0xFC00_FFFE, 0x0C00_0222, fun w => .fcvtDS (w.extractLsb' 21 5) (w.extractLsb' 16 5) (w.extractLsb' 0 1)⟩ rfl ?_ ?_ hi
  · simp (disch := decide) only [or_and_word, put_and]
    decide
  · simp (disch := decide) [field_or, field_put, field_put_other]

theorem Laws.RoundTrip.fcvtHS (d : Reg) (a : Reg) : Laws.RoundTrip.Statement (.fcvtHS d a) := by
  intro w hi hw
  cases Option.some.inj hw
  refine decode_of_row 65 _ _ ⟨0xFC00_FFFF, 0x0C00_0262, fun w => .fcvtHS (w.extractLsb' 21 5) (w.extractLsb' 16 5)⟩ rfl ?_ ?_ hi
  · simp (disch := decide) only [or_and_word, put_and]
    decide
  · simp (disch := decide) [field_or, field_put, field_put_other]

theorem Laws.RoundTrip.fcvtSH (d : Reg) (a : Reg) : Laws.RoundTrip.Statement (.fcvtSH d a) := by
  intro w hi hw
  cases Option.some.inj hw
  refine decode_of_row 66 _ _ ⟨0xFC00_FFFF, 0x0C00_02A2, fun w => .fcvtSH (w.extractLsb' 21 5) (w.extractLsb' 16 5)⟩ rfl ?_ ?_ hi
  · simp (disch := decide) only [or_and_word, put_and]
    decide
  · simp (disch := decide) [field_or, field_put, field_put_other]

theorem Laws.RoundTrip.fcvtBfS (d : Reg) (a : Reg) : Laws.RoundTrip.Statement (.fcvtBfS d a) := by
  intro w hi hw
  cases Option.some.inj hw
  refine decode_of_row 67 _ _ ⟨0xFC00_FFFF, 0x0C00_02E2, fun w => .fcvtBfS (w.extractLsb' 21 5) (w.extractLsb' 16 5)⟩ rfl ?_ ?_ hi
  · simp (disch := decide) only [or_and_word, put_and]
    decide
  · simp (disch := decide) [field_or, field_put, field_put_other]

theorem Laws.RoundTrip.fcvtSBf (d : Reg) (a : Reg) : Laws.RoundTrip.Statement (.fcvtSBf d a) := by
  intro w hi hw
  cases Option.some.inj hw
  refine decode_of_row 68 _ _ ⟨0xFC00_FFFF, 0x0C00_0322, fun w => .fcvtSBf (w.extractLsb' 21 5) (w.extractLsb' 16 5)⟩ rfl ?_ ?_ hi
  · simp (disch := decide) only [or_and_word, put_and]
    decide
  · simp (disch := decide) [field_or, field_put, field_put_other]

theorem Laws.RoundTrip.fcvtE4S (d : Reg) (a : Reg) : Laws.RoundTrip.Statement (.fcvtE4S d a) := by
  intro w hi hw
  cases Option.some.inj hw
  refine decode_of_row 69 _ _ ⟨0xFC00_FFFF, 0x0C00_0362, fun w => .fcvtE4S (w.extractLsb' 21 5) (w.extractLsb' 16 5)⟩ rfl ?_ ?_ hi
  · simp (disch := decide) only [or_and_word, put_and]
    decide
  · simp (disch := decide) [field_or, field_put, field_put_other]

theorem Laws.RoundTrip.fcvtSE4 (d : Reg) (a : Reg) : Laws.RoundTrip.Statement (.fcvtSE4 d a) := by
  intro w hi hw
  cases Option.some.inj hw
  refine decode_of_row 70 _ _ ⟨0xFC00_FFFF, 0x0C00_03A2, fun w => .fcvtSE4 (w.extractLsb' 21 5) (w.extractLsb' 16 5)⟩ rfl ?_ ?_ hi
  · simp (disch := decide) only [or_and_word, put_and]
    decide
  · simp (disch := decide) [field_or, field_put, field_put_other]

theorem Laws.RoundTrip.fcvtE5S (d : Reg) (a : Reg) : Laws.RoundTrip.Statement (.fcvtE5S d a) := by
  intro w hi hw
  cases Option.some.inj hw
  refine decode_of_row 71 _ _ ⟨0xFC00_FFFF, 0x0C00_03E2, fun w => .fcvtE5S (w.extractLsb' 21 5) (w.extractLsb' 16 5)⟩ rfl ?_ ?_ hi
  · simp (disch := decide) only [or_and_word, put_and]
    decide
  · simp (disch := decide) [field_or, field_put, field_put_other]

theorem Laws.RoundTrip.fcvtSE5 (d : Reg) (a : Reg) : Laws.RoundTrip.Statement (.fcvtSE5 d a) := by
  intro w hi hw
  cases Option.some.inj hw
  refine decode_of_row 72 _ _ ⟨0xFC00_FFFF, 0x0C00_0422, fun w => .fcvtSE5 (w.extractLsb' 21 5) (w.extractLsb' 16 5)⟩ rfl ?_ ?_ hi
  · simp (disch := decide) only [or_and_word, put_and]
    decide
  · simp (disch := decide) [field_or, field_put, field_put_other]

theorem Laws.RoundTrip.addi (d : Reg) (a : Reg) (i : BitVec 16) : Laws.RoundTrip.Statement (.addi d a i) := by
  intro w hi hw
  cases Option.some.inj hw
  refine decode_of_row 73 _ _ ⟨0xFC00_0000, 0x1000_0000, fun w => .addi (w.extractLsb' 21 5) (w.extractLsb' 16 5) (w.extractLsb' 0 16)⟩ rfl ?_ ?_ hi
  · simp (disch := decide) only [or_and_word, put_and]
    decide
  · simp (disch := decide) [field_or, field_put, field_put_other]

theorem Laws.RoundTrip.andi (d : Reg) (a : Reg) (i : BitVec 16) : Laws.RoundTrip.Statement (.andi d a i) := by
  intro w hi hw
  cases Option.some.inj hw
  refine decode_of_row 74 _ _ ⟨0xFC00_0000, 0x1400_0000, fun w => .andi (w.extractLsb' 21 5) (w.extractLsb' 16 5) (w.extractLsb' 0 16)⟩ rfl ?_ ?_ hi
  · simp (disch := decide) only [or_and_word, put_and]
    decide
  · simp (disch := decide) [field_or, field_put, field_put_other]

theorem Laws.RoundTrip.ori (d : Reg) (a : Reg) (i : BitVec 16) : Laws.RoundTrip.Statement (.ori d a i) := by
  intro w hi hw
  cases Option.some.inj hw
  refine decode_of_row 75 _ _ ⟨0xFC00_0000, 0x1800_0000, fun w => .ori (w.extractLsb' 21 5) (w.extractLsb' 16 5) (w.extractLsb' 0 16)⟩ rfl ?_ ?_ hi
  · simp (disch := decide) only [or_and_word, put_and]
    decide
  · simp (disch := decide) [field_or, field_put, field_put_other]

theorem Laws.RoundTrip.xori (d : Reg) (a : Reg) (i : BitVec 16) : Laws.RoundTrip.Statement (.xori d a i) := by
  intro w hi hw
  cases Option.some.inj hw
  refine decode_of_row 76 _ _ ⟨0xFC00_0000, 0x1C00_0000, fun w => .xori (w.extractLsb' 21 5) (w.extractLsb' 16 5) (w.extractLsb' 0 16)⟩ rfl ?_ ?_ hi
  · simp (disch := decide) only [or_and_word, put_and]
    decide
  · simp (disch := decide) [field_or, field_put, field_put_other]

theorem Laws.RoundTrip.slti (d : Reg) (a : Reg) (i : BitVec 16) : Laws.RoundTrip.Statement (.slti d a i) := by
  intro w hi hw
  cases Option.some.inj hw
  refine decode_of_row 77 _ _ ⟨0xFC00_0000, 0x2000_0000, fun w => .slti (w.extractLsb' 21 5) (w.extractLsb' 16 5) (w.extractLsb' 0 16)⟩ rfl ?_ ?_ hi
  · simp (disch := decide) only [or_and_word, put_and]
    decide
  · simp (disch := decide) [field_or, field_put, field_put_other]

theorem Laws.RoundTrip.sltiu (d : Reg) (a : Reg) (i : BitVec 16) : Laws.RoundTrip.Statement (.sltiu d a i) := by
  intro w hi hw
  cases Option.some.inj hw
  refine decode_of_row 78 _ _ ⟨0xFC00_0000, 0x2400_0000, fun w => .sltiu (w.extractLsb' 21 5) (w.extractLsb' 16 5) (w.extractLsb' 0 16)⟩ rfl ?_ ?_ hi
  · simp (disch := decide) only [or_and_word, put_and]
    decide
  · simp (disch := decide) [field_or, field_put, field_put_other]

theorem Laws.RoundTrip.addiW (d : Reg) (a : Reg) (i : BitVec 16) : Laws.RoundTrip.Statement (.addiW d a i) := by
  intro w hi hw
  cases Option.some.inj hw
  refine decode_of_row 79 _ _ ⟨0xFC00_0000, 0x3400_0000, fun w => .addiW (w.extractLsb' 21 5) (w.extractLsb' 16 5) (w.extractLsb' 0 16)⟩ rfl ?_ ?_ hi
  · simp (disch := decide) only [or_and_word, put_and]
    decide
  · simp (disch := decide) [field_or, field_put, field_put_other]

theorem Laws.RoundTrip.slli (d : Reg) (a : Reg) (n : BitVec 6) : Laws.RoundTrip.Statement (.slli d a n) := by
  intro w hi hw
  cases Option.some.inj hw
  refine decode_of_row 80 _ _ ⟨0xFC00_FFC0, 0x2800_0000, fun w => .slli (w.extractLsb' 21 5) (w.extractLsb' 16 5) (w.extractLsb' 0 6)⟩ rfl ?_ ?_ hi
  · simp (disch := decide) only [or_and_word, put_and]
    decide
  · simp (disch := decide) [field_or, field_put, field_put_other]

theorem Laws.RoundTrip.srli (d : Reg) (a : Reg) (n : BitVec 6) : Laws.RoundTrip.Statement (.srli d a n) := by
  intro w hi hw
  cases Option.some.inj hw
  refine decode_of_row 81 _ _ ⟨0xFC00_FFC0, 0x2800_0100, fun w => .srli (w.extractLsb' 21 5) (w.extractLsb' 16 5) (w.extractLsb' 0 6)⟩ rfl ?_ ?_ hi
  · simp (disch := decide) only [or_and_word, put_and]
    decide
  · simp (disch := decide) [field_or, field_put, field_put_other]

theorem Laws.RoundTrip.srai (d : Reg) (a : Reg) (n : BitVec 6) : Laws.RoundTrip.Statement (.srai d a n) := by
  intro w hi hw
  cases Option.some.inj hw
  refine decode_of_row 82 _ _ ⟨0xFC00_FFC0, 0x2800_0200, fun w => .srai (w.extractLsb' 21 5) (w.extractLsb' 16 5) (w.extractLsb' 0 6)⟩ rfl ?_ ?_ hi
  · simp (disch := decide) only [or_and_word, put_and]
    decide
  · simp (disch := decide) [field_or, field_put, field_put_other]

theorem Laws.RoundTrip.rotri (d : Reg) (a : Reg) (n : BitVec 6) : Laws.RoundTrip.Statement (.rotri d a n) := by
  intro w hi hw
  cases Option.some.inj hw
  refine decode_of_row 83 _ _ ⟨0xFC00_FFC0, 0x2800_0300, fun w => .rotri (w.extractLsb' 21 5) (w.extractLsb' 16 5) (w.extractLsb' 0 6)⟩ rfl ?_ ?_ hi
  · simp (disch := decide) only [or_and_word, put_and]
    decide
  · simp (disch := decide) [field_or, field_put, field_put_other]

theorem Laws.RoundTrip.slliW (d : Reg) (a : Reg) (n : Reg) : Laws.RoundTrip.Statement (.slliW d a n) := by
  intro w hi hw
  cases Option.some.inj hw
  refine decode_of_row 84 _ _ ⟨0xFC00_FFE0, 0x3800_0000, fun w => .slliW (w.extractLsb' 21 5) (w.extractLsb' 16 5) (w.extractLsb' 0 5)⟩ rfl ?_ ?_ hi
  · simp (disch := decide) only [or_and_word, put_and]
    decide
  · simp (disch := decide) [field_or, field_put, field_put_other]

theorem Laws.RoundTrip.srliW (d : Reg) (a : Reg) (n : Reg) : Laws.RoundTrip.Statement (.srliW d a n) := by
  intro w hi hw
  cases Option.some.inj hw
  refine decode_of_row 85 _ _ ⟨0xFC00_FFE0, 0x3800_0100, fun w => .srliW (w.extractLsb' 21 5) (w.extractLsb' 16 5) (w.extractLsb' 0 5)⟩ rfl ?_ ?_ hi
  · simp (disch := decide) only [or_and_word, put_and]
    decide
  · simp (disch := decide) [field_or, field_put, field_put_other]

theorem Laws.RoundTrip.sraiW (d : Reg) (a : Reg) (n : Reg) : Laws.RoundTrip.Statement (.sraiW d a n) := by
  intro w hi hw
  cases Option.some.inj hw
  refine decode_of_row 86 _ _ ⟨0xFC00_FFE0, 0x3800_0200, fun w => .sraiW (w.extractLsb' 21 5) (w.extractLsb' 16 5) (w.extractLsb' 0 5)⟩ rfl ?_ ?_ hi
  · simp (disch := decide) only [or_and_word, put_and]
    decide
  · simp (disch := decide) [field_or, field_put, field_put_other]

theorem Laws.RoundTrip.ldhi (d : Reg) (i : BitVec 21) : Laws.RoundTrip.Statement (.ldhi d i) := by
  intro w hi hw
  cases Option.some.inj hw
  refine decode_of_row 87 _ _ ⟨0xFC00_0000, 0x2C00_0000, fun w => .ldhi (w.extractLsb' 21 5) (w.extractLsb' 0 21)⟩ rfl ?_ ?_ hi
  · simp (disch := decide) only [or_and_word, put_and]
    decide
  · simp (disch := decide) [field_or, field_put, field_put_other]

theorem Laws.RoundTrip.pcadd (d : Reg) (i : BitVec 21) : Laws.RoundTrip.Statement (.pcadd d i) := by
  intro w hi hw
  cases Option.some.inj hw
  refine decode_of_row 88 _ _ ⟨0xFC00_0000, 0x3000_0000, fun w => .pcadd (w.extractLsb' 21 5) (w.extractLsb' 0 21)⟩ rfl ?_ ?_ hi
  · simp (disch := decide) only [or_and_word, put_and]
    decide
  · simp (disch := decide) [field_or, field_put, field_put_other]

theorem Laws.RoundTrip.ldB (d : Reg) (a : Reg) (i : BitVec 16) : Laws.RoundTrip.Statement (.ldB d a i) := by
  intro w hi hw
  cases Option.some.inj hw
  refine decode_of_row 89 _ _ ⟨0xFC00_0000, 0x4000_0000, fun w => .ldB (w.extractLsb' 21 5) (w.extractLsb' 16 5) (w.extractLsb' 0 16)⟩ rfl ?_ ?_ hi
  · simp (disch := decide) only [or_and_word, put_and]
    decide
  · simp (disch := decide) [field_or, field_put, field_put_other]

theorem Laws.RoundTrip.ldBu (d : Reg) (a : Reg) (i : BitVec 16) : Laws.RoundTrip.Statement (.ldBu d a i) := by
  intro w hi hw
  cases Option.some.inj hw
  refine decode_of_row 90 _ _ ⟨0xFC00_0000, 0x4400_0000, fun w => .ldBu (w.extractLsb' 21 5) (w.extractLsb' 16 5) (w.extractLsb' 0 16)⟩ rfl ?_ ?_ hi
  · simp (disch := decide) only [or_and_word, put_and]
    decide
  · simp (disch := decide) [field_or, field_put, field_put_other]

theorem Laws.RoundTrip.ldH (d : Reg) (a : Reg) (i : BitVec 16) : Laws.RoundTrip.Statement (.ldH d a i) := by
  intro w hi hw
  cases Option.some.inj hw
  refine decode_of_row 91 _ _ ⟨0xFC00_0000, 0x4800_0000, fun w => .ldH (w.extractLsb' 21 5) (w.extractLsb' 16 5) (w.extractLsb' 0 16)⟩ rfl ?_ ?_ hi
  · simp (disch := decide) only [or_and_word, put_and]
    decide
  · simp (disch := decide) [field_or, field_put, field_put_other]

theorem Laws.RoundTrip.ldHu (d : Reg) (a : Reg) (i : BitVec 16) : Laws.RoundTrip.Statement (.ldHu d a i) := by
  intro w hi hw
  cases Option.some.inj hw
  refine decode_of_row 92 _ _ ⟨0xFC00_0000, 0x4C00_0000, fun w => .ldHu (w.extractLsb' 21 5) (w.extractLsb' 16 5) (w.extractLsb' 0 16)⟩ rfl ?_ ?_ hi
  · simp (disch := decide) only [or_and_word, put_and]
    decide
  · simp (disch := decide) [field_or, field_put, field_put_other]

theorem Laws.RoundTrip.ldW (d : Reg) (a : Reg) (i : BitVec 16) : Laws.RoundTrip.Statement (.ldW d a i) := by
  intro w hi hw
  cases Option.some.inj hw
  refine decode_of_row 93 _ _ ⟨0xFC00_0000, 0x5000_0000, fun w => .ldW (w.extractLsb' 21 5) (w.extractLsb' 16 5) (w.extractLsb' 0 16)⟩ rfl ?_ ?_ hi
  · simp (disch := decide) only [or_and_word, put_and]
    decide
  · simp (disch := decide) [field_or, field_put, field_put_other]

theorem Laws.RoundTrip.ldWu (d : Reg) (a : Reg) (i : BitVec 16) : Laws.RoundTrip.Statement (.ldWu d a i) := by
  intro w hi hw
  cases Option.some.inj hw
  refine decode_of_row 94 _ _ ⟨0xFC00_0000, 0x5400_0000, fun w => .ldWu (w.extractLsb' 21 5) (w.extractLsb' 16 5) (w.extractLsb' 0 16)⟩ rfl ?_ ?_ hi
  · simp (disch := decide) only [or_and_word, put_and]
    decide
  · simp (disch := decide) [field_or, field_put, field_put_other]

theorem Laws.RoundTrip.ldD (d : Reg) (a : Reg) (i : BitVec 16) : Laws.RoundTrip.Statement (.ldD d a i) := by
  intro w hi hw
  cases Option.some.inj hw
  refine decode_of_row 95 _ _ ⟨0xFC00_0000, 0x5800_0000, fun w => .ldD (w.extractLsb' 21 5) (w.extractLsb' 16 5) (w.extractLsb' 0 16)⟩ rfl ?_ ?_ hi
  · simp (disch := decide) only [or_and_word, put_and]
    decide
  · simp (disch := decide) [field_or, field_put, field_put_other]

theorem Laws.RoundTrip.stB (b : Reg) (a : Reg) (i : BitVec 16) : Laws.RoundTrip.Statement (.stB b a i) := by
  intro w hi hw
  cases Option.some.inj hw
  refine decode_of_row 96 _ _ ⟨0xFC00_0000, 0x6000_0000, fun w => .stB (w.extractLsb' 21 5) (w.extractLsb' 16 5) (w.extractLsb' 0 16)⟩ rfl ?_ ?_ hi
  · simp (disch := decide) only [or_and_word, put_and]
    decide
  · simp (disch := decide) [field_or, field_put, field_put_other]

theorem Laws.RoundTrip.stH (b : Reg) (a : Reg) (i : BitVec 16) : Laws.RoundTrip.Statement (.stH b a i) := by
  intro w hi hw
  cases Option.some.inj hw
  refine decode_of_row 97 _ _ ⟨0xFC00_0000, 0x6400_0000, fun w => .stH (w.extractLsb' 21 5) (w.extractLsb' 16 5) (w.extractLsb' 0 16)⟩ rfl ?_ ?_ hi
  · simp (disch := decide) only [or_and_word, put_and]
    decide
  · simp (disch := decide) [field_or, field_put, field_put_other]

theorem Laws.RoundTrip.stW (b : Reg) (a : Reg) (i : BitVec 16) : Laws.RoundTrip.Statement (.stW b a i) := by
  intro w hi hw
  cases Option.some.inj hw
  refine decode_of_row 98 _ _ ⟨0xFC00_0000, 0x6800_0000, fun w => .stW (w.extractLsb' 21 5) (w.extractLsb' 16 5) (w.extractLsb' 0 16)⟩ rfl ?_ ?_ hi
  · simp (disch := decide) only [or_and_word, put_and]
    decide
  · simp (disch := decide) [field_or, field_put, field_put_other]

theorem Laws.RoundTrip.stD (b : Reg) (a : Reg) (i : BitVec 16) : Laws.RoundTrip.Statement (.stD b a i) := by
  intro w hi hw
  cases Option.some.inj hw
  refine decode_of_row 99 _ _ ⟨0xFC00_0000, 0x6C00_0000, fun w => .stD (w.extractLsb' 21 5) (w.extractLsb' 16 5) (w.extractLsb' 0 16)⟩ rfl ?_ ?_ hi
  · simp (disch := decide) only [or_and_word, put_and]
    decide
  · simp (disch := decide) [field_or, field_put, field_put_other]

theorem Laws.RoundTrip.ldsyncTake (d : Reg) (a : Reg) (k : BitVec 13) : Laws.RoundTrip.Statement (.ldsyncTake d a k) := by
  intro w hi hw
  cases Option.some.inj hw
  refine decode_of_row 100 _ _ ⟨0xFC00_E000, 0x7000_0000, fun w => .ldsyncTake (w.extractLsb' 21 5) (w.extractLsb' 16 5) (w.extractLsb' 0 13)⟩ rfl ?_ ?_ hi
  · simp (disch := decide) only [or_and_word, put_and]
    decide
  · simp (disch := decide) [field_or, field_put, field_put_other]

theorem Laws.RoundTrip.ldsyncKeep (d : Reg) (a : Reg) (k : BitVec 13) : Laws.RoundTrip.Statement (.ldsyncKeep d a k) := by
  intro w hi hw
  cases Option.some.inj hw
  refine decode_of_row 101 _ _ ⟨0xFC00_E000, 0x7000_2000, fun w => .ldsyncKeep (w.extractLsb' 21 5) (w.extractLsb' 16 5) (w.extractLsb' 0 13)⟩ rfl ?_ ?_ hi
  · simp (disch := decide) only [or_and_word, put_and]
    decide
  · simp (disch := decide) [field_or, field_put, field_put_other]

theorem Laws.RoundTrip.stsyncFill (b : Reg) (a : Reg) (k : BitVec 13) : Laws.RoundTrip.Statement (.stsyncFill b a k) := by
  intro w hi hw
  cases Option.some.inj hw
  refine decode_of_row 102 _ _ ⟨0xFC00_E000, 0x7000_4000, fun w => .stsyncFill (w.extractLsb' 21 5) (w.extractLsb' 16 5) (w.extractLsb' 0 13)⟩ rfl ?_ ?_ hi
  · simp (disch := decide) only [or_and_word, put_and]
    decide
  · simp (disch := decide) [field_or, field_put, field_put_other]

theorem Laws.RoundTrip.stsyncSet (b : Reg) (a : Reg) (k : BitVec 13) : Laws.RoundTrip.Statement (.stsyncSet b a k) := by
  intro w hi hw
  cases Option.some.inj hw
  refine decode_of_row 103 _ _ ⟨0xFC00_E000, 0x7000_6000, fun w => .stsyncSet (w.extractLsb' 21 5) (w.extractLsb' 16 5) (w.extractLsb' 0 13)⟩ rfl ?_ ?_ hi
  · simp (disch := decide) only [or_and_word, put_and]
    decide
  · simp (disch := decide) [field_or, field_put, field_put_other]

theorem Laws.RoundTrip.syncClear (a : Reg) (k : BitVec 13) : Laws.RoundTrip.Statement (.syncClear a k) := by
  intro w hi hw
  cases Option.some.inj hw
  refine decode_of_row 104 _ _ ⟨0xFFE0_E000, 0x7000_8000, fun w => .syncClear (w.extractLsb' 16 5) (w.extractLsb' 0 13)⟩ rfl ?_ ?_ hi
  · simp (disch := decide) only [or_and_word, put_and]
    decide
  · simp (disch := decide) [field_or, field_put, field_put_other]

theorem Laws.RoundTrip.syncTest (d : Reg) (a : Reg) (k : BitVec 13) : Laws.RoundTrip.Statement (.syncTest d a k) := by
  intro w hi hw
  cases Option.some.inj hw
  refine decode_of_row 105 _ _ ⟨0xFC00_E000, 0x7000_A000, fun w => .syncTest (w.extractLsb' 21 5) (w.extractLsb' 16 5) (w.extractLsb' 0 13)⟩ rfl ?_ ?_ hi
  · simp (disch := decide) only [or_and_word, put_and]
    decide
  · simp (disch := decide) [field_or, field_put, field_put_other]

theorem Laws.RoundTrip.atmAdd (d : Reg) (a : Reg) (b : Reg) (z : BitVec 1) (o : BitVec 2) (c : BitVec 2) : Laws.RoundTrip.Statement (.atmAdd d a b z o c) := by
  intro w hi hw
  cases Option.some.inj hw
  refine decode_of_row 106 _ _ ⟨0xFC00_0783, 0x7400_0000, fun w => .atmAdd (w.extractLsb' 21 5) (w.extractLsb' 16 5) (w.extractLsb' 11 5) (w.extractLsb' 6 1) (w.extractLsb' 4 2) (w.extractLsb' 2 2)⟩ rfl ?_ ?_ hi
  · simp (disch := decide) only [or_and_word, put_and]
    decide
  · simp (disch := decide) [field_or, field_put, field_put_other]

theorem Laws.RoundTrip.atmAnd (d : Reg) (a : Reg) (b : Reg) (z : BitVec 1) (o : BitVec 2) (c : BitVec 2) : Laws.RoundTrip.Statement (.atmAnd d a b z o c) := by
  intro w hi hw
  cases Option.some.inj hw
  refine decode_of_row 107 _ _ ⟨0xFC00_0783, 0x7400_0080, fun w => .atmAnd (w.extractLsb' 21 5) (w.extractLsb' 16 5) (w.extractLsb' 11 5) (w.extractLsb' 6 1) (w.extractLsb' 4 2) (w.extractLsb' 2 2)⟩ rfl ?_ ?_ hi
  · simp (disch := decide) only [or_and_word, put_and]
    decide
  · simp (disch := decide) [field_or, field_put, field_put_other]

theorem Laws.RoundTrip.atmOr (d : Reg) (a : Reg) (b : Reg) (z : BitVec 1) (o : BitVec 2) (c : BitVec 2) : Laws.RoundTrip.Statement (.atmOr d a b z o c) := by
  intro w hi hw
  cases Option.some.inj hw
  refine decode_of_row 108 _ _ ⟨0xFC00_0783, 0x7400_0100, fun w => .atmOr (w.extractLsb' 21 5) (w.extractLsb' 16 5) (w.extractLsb' 11 5) (w.extractLsb' 6 1) (w.extractLsb' 4 2) (w.extractLsb' 2 2)⟩ rfl ?_ ?_ hi
  · simp (disch := decide) only [or_and_word, put_and]
    decide
  · simp (disch := decide) [field_or, field_put, field_put_other]

theorem Laws.RoundTrip.atmXor (d : Reg) (a : Reg) (b : Reg) (z : BitVec 1) (o : BitVec 2) (c : BitVec 2) : Laws.RoundTrip.Statement (.atmXor d a b z o c) := by
  intro w hi hw
  cases Option.some.inj hw
  refine decode_of_row 109 _ _ ⟨0xFC00_0783, 0x7400_0180, fun w => .atmXor (w.extractLsb' 21 5) (w.extractLsb' 16 5) (w.extractLsb' 11 5) (w.extractLsb' 6 1) (w.extractLsb' 4 2) (w.extractLsb' 2 2)⟩ rfl ?_ ?_ hi
  · simp (disch := decide) only [or_and_word, put_and]
    decide
  · simp (disch := decide) [field_or, field_put, field_put_other]

theorem Laws.RoundTrip.atmMin (d : Reg) (a : Reg) (b : Reg) (z : BitVec 1) (o : BitVec 2) (c : BitVec 2) : Laws.RoundTrip.Statement (.atmMin d a b z o c) := by
  intro w hi hw
  cases Option.some.inj hw
  refine decode_of_row 110 _ _ ⟨0xFC00_0783, 0x7400_0200, fun w => .atmMin (w.extractLsb' 21 5) (w.extractLsb' 16 5) (w.extractLsb' 11 5) (w.extractLsb' 6 1) (w.extractLsb' 4 2) (w.extractLsb' 2 2)⟩ rfl ?_ ?_ hi
  · simp (disch := decide) only [or_and_word, put_and]
    decide
  · simp (disch := decide) [field_or, field_put, field_put_other]

theorem Laws.RoundTrip.atmMax (d : Reg) (a : Reg) (b : Reg) (z : BitVec 1) (o : BitVec 2) (c : BitVec 2) : Laws.RoundTrip.Statement (.atmMax d a b z o c) := by
  intro w hi hw
  cases Option.some.inj hw
  refine decode_of_row 111 _ _ ⟨0xFC00_0783, 0x7400_0280, fun w => .atmMax (w.extractLsb' 21 5) (w.extractLsb' 16 5) (w.extractLsb' 11 5) (w.extractLsb' 6 1) (w.extractLsb' 4 2) (w.extractLsb' 2 2)⟩ rfl ?_ ?_ hi
  · simp (disch := decide) only [or_and_word, put_and]
    decide
  · simp (disch := decide) [field_or, field_put, field_put_other]

theorem Laws.RoundTrip.atmMinu (d : Reg) (a : Reg) (b : Reg) (z : BitVec 1) (o : BitVec 2) (c : BitVec 2) : Laws.RoundTrip.Statement (.atmMinu d a b z o c) := by
  intro w hi hw
  cases Option.some.inj hw
  refine decode_of_row 112 _ _ ⟨0xFC00_0783, 0x7400_0300, fun w => .atmMinu (w.extractLsb' 21 5) (w.extractLsb' 16 5) (w.extractLsb' 11 5) (w.extractLsb' 6 1) (w.extractLsb' 4 2) (w.extractLsb' 2 2)⟩ rfl ?_ ?_ hi
  · simp (disch := decide) only [or_and_word, put_and]
    decide
  · simp (disch := decide) [field_or, field_put, field_put_other]

theorem Laws.RoundTrip.atmMaxu (d : Reg) (a : Reg) (b : Reg) (z : BitVec 1) (o : BitVec 2) (c : BitVec 2) : Laws.RoundTrip.Statement (.atmMaxu d a b z o c) := by
  intro w hi hw
  cases Option.some.inj hw
  refine decode_of_row 113 _ _ ⟨0xFC00_0783, 0x7400_0380, fun w => .atmMaxu (w.extractLsb' 21 5) (w.extractLsb' 16 5) (w.extractLsb' 11 5) (w.extractLsb' 6 1) (w.extractLsb' 4 2) (w.extractLsb' 2 2)⟩ rfl ?_ ?_ hi
  · simp (disch := decide) only [or_and_word, put_and]
    decide
  · simp (disch := decide) [field_or, field_put, field_put_other]

theorem Laws.RoundTrip.atmSwap (d : Reg) (a : Reg) (b : Reg) (z : BitVec 1) (o : BitVec 2) (c : BitVec 2) : Laws.RoundTrip.Statement (.atmSwap d a b z o c) := by
  intro w hi hw
  cases Option.some.inj hw
  refine decode_of_row 114 _ _ ⟨0xFC00_0783, 0x7400_0400, fun w => .atmSwap (w.extractLsb' 21 5) (w.extractLsb' 16 5) (w.extractLsb' 11 5) (w.extractLsb' 6 1) (w.extractLsb' 4 2) (w.extractLsb' 2 2)⟩ rfl ?_ ?_ hi
  · simp (disch := decide) only [or_and_word, put_and]
    decide
  · simp (disch := decide) [field_or, field_put, field_put_other]

theorem Laws.RoundTrip.atmCas (d : Reg) (a : Reg) (b : Reg) (z : BitVec 1) (o : BitVec 2) (c : BitVec 2) : Laws.RoundTrip.Statement (.atmCas d a b z o c) := by
  intro w hi hw
  cases Option.some.inj hw
  refine decode_of_row 115 _ _ ⟨0xFC00_0783, 0x7400_0480, fun w => .atmCas (w.extractLsb' 21 5) (w.extractLsb' 16 5) (w.extractLsb' 11 5) (w.extractLsb' 6 1) (w.extractLsb' 4 2) (w.extractLsb' 2 2)⟩ rfl ?_ ?_ hi
  · simp (disch := decide) only [or_and_word, put_and]
    decide
  · simp (disch := decide) [field_or, field_put, field_put_other]

theorem Laws.RoundTrip.atmFaddS (d : Reg) (a : Reg) (b : Reg) (o : BitVec 2) (c : BitVec 2) : Laws.RoundTrip.Statement (.atmFaddS d a b o c) := by
  intro w hi hw
  cases Option.some.inj hw
  refine decode_of_row 116 _ _ ⟨0xFC00_07C3, 0x7400_0500, fun w => .atmFaddS (w.extractLsb' 21 5) (w.extractLsb' 16 5) (w.extractLsb' 11 5) (w.extractLsb' 4 2) (w.extractLsb' 2 2)⟩ rfl ?_ ?_ hi
  · simp (disch := decide) only [or_and_word, put_and]
    decide
  · simp (disch := decide) [field_or, field_put, field_put_other]

theorem Laws.RoundTrip.fenceAcq (c : BitVec 2) : Laws.RoundTrip.Statement (.fenceAcq c) := by
  intro w hi hw
  cases Option.some.inj hw
  refine decode_of_row 117 _ _ ⟨0xFFFF_FFF3, 0x7800_0000, fun w => .fenceAcq (w.extractLsb' 2 2)⟩ rfl ?_ ?_ hi
  · simp (disch := decide) only [or_and_word, put_and]
    decide
  · simp (disch := decide) [field_or, field_put]

theorem Laws.RoundTrip.fenceRel (c : BitVec 2) : Laws.RoundTrip.Statement (.fenceRel c) := by
  intro w hi hw
  cases Option.some.inj hw
  refine decode_of_row 118 _ _ ⟨0xFFFF_FFF3, 0x7800_0100, fun w => .fenceRel (w.extractLsb' 2 2)⟩ rfl ?_ ?_ hi
  · simp (disch := decide) only [or_and_word, put_and]
    decide
  · simp (disch := decide) [field_or, field_put]

theorem Laws.RoundTrip.fenceFull (c : BitVec 2) : Laws.RoundTrip.Statement (.fenceFull c) := by
  intro w hi hw
  cases Option.some.inj hw
  refine decode_of_row 119 _ _ ⟨0xFFFF_FFF3, 0x7800_0200, fun w => .fenceFull (w.extractLsb' 2 2)⟩ rfl ?_ ?_ hi
  · simp (disch := decide) only [or_and_word, put_and]
    decide
  · simp (disch := decide) [field_or, field_put]

theorem Laws.RoundTrip.barrInit (a : Reg) (n : BitVec 4) : Laws.RoundTrip.Statement (.barrInit a n) := by
  intro w hi hw
  cases Option.some.inj hw
  refine decode_of_row 120 _ _ ⟨0xFFE0_FF0F, 0x7800_0300, fun w => .barrInit (w.extractLsb' 16 5) (w.extractLsb' 4 4)⟩ rfl ?_ ?_ hi
  · simp (disch := decide) only [or_and_word, put_and]
    decide
  · simp (disch := decide) [field_or, field_put, field_put_other]

theorem Laws.RoundTrip.barrArrive (d : Reg) (n : BitVec 4) : Laws.RoundTrip.Statement (.barrArrive d n) := by
  intro w hi hw
  cases Option.some.inj hw
  refine decode_of_row 121 _ _ ⟨0xFC1F_FF0F, 0x7800_0400, fun w => .barrArrive (w.extractLsb' 21 5) (w.extractLsb' 4 4)⟩ rfl ?_ ?_ hi
  · simp (disch := decide) only [or_and_word, put_and]
    decide
  · simp (disch := decide) [field_or, field_put, field_put_other]

theorem Laws.RoundTrip.barrWait (a : Reg) (n : BitVec 4) : Laws.RoundTrip.Statement (.barrWait a n) := by
  intro w hi hw
  cases Option.some.inj hw
  refine decode_of_row 122 _ _ ⟨0xFFE0_FF0F, 0x7800_0500, fun w => .barrWait (w.extractLsb' 16 5) (w.extractLsb' 4 4)⟩ rfl ?_ ?_ hi
  · simp (disch := decide) only [or_and_word, put_and]
    decide
  · simp (disch := decide) [field_or, field_put, field_put_other]

theorem Laws.RoundTrip.bEq (a : Reg) (b : Reg) (o : BitVec 16) : Laws.RoundTrip.Statement (.bEq a b o) := by
  intro w hi hw
  cases Option.some.inj hw
  refine decode_of_row 123 _ _ ⟨0xFC00_0000, 0x8000_0000, fun w => .bEq (w.extractLsb' 21 5) (w.extractLsb' 16 5) (w.extractLsb' 0 16)⟩ rfl ?_ ?_ hi
  · simp (disch := decide) only [or_and_word, put_and]
    decide
  · simp (disch := decide) [field_or, field_put, field_put_other]

theorem Laws.RoundTrip.bNe (a : Reg) (b : Reg) (o : BitVec 16) : Laws.RoundTrip.Statement (.bNe a b o) := by
  intro w hi hw
  cases Option.some.inj hw
  refine decode_of_row 124 _ _ ⟨0xFC00_0000, 0x8400_0000, fun w => .bNe (w.extractLsb' 21 5) (w.extractLsb' 16 5) (w.extractLsb' 0 16)⟩ rfl ?_ ?_ hi
  · simp (disch := decide) only [or_and_word, put_and]
    decide
  · simp (disch := decide) [field_or, field_put, field_put_other]

theorem Laws.RoundTrip.bLt (a : Reg) (b : Reg) (o : BitVec 16) : Laws.RoundTrip.Statement (.bLt a b o) := by
  intro w hi hw
  cases Option.some.inj hw
  refine decode_of_row 125 _ _ ⟨0xFC00_0000, 0x8800_0000, fun w => .bLt (w.extractLsb' 21 5) (w.extractLsb' 16 5) (w.extractLsb' 0 16)⟩ rfl ?_ ?_ hi
  · simp (disch := decide) only [or_and_word, put_and]
    decide
  · simp (disch := decide) [field_or, field_put, field_put_other]

theorem Laws.RoundTrip.bGe (a : Reg) (b : Reg) (o : BitVec 16) : Laws.RoundTrip.Statement (.bGe a b o) := by
  intro w hi hw
  cases Option.some.inj hw
  refine decode_of_row 126 _ _ ⟨0xFC00_0000, 0x8C00_0000, fun w => .bGe (w.extractLsb' 21 5) (w.extractLsb' 16 5) (w.extractLsb' 0 16)⟩ rfl ?_ ?_ hi
  · simp (disch := decide) only [or_and_word, put_and]
    decide
  · simp (disch := decide) [field_or, field_put, field_put_other]

theorem Laws.RoundTrip.bLtu (a : Reg) (b : Reg) (o : BitVec 16) : Laws.RoundTrip.Statement (.bLtu a b o) := by
  intro w hi hw
  cases Option.some.inj hw
  refine decode_of_row 127 _ _ ⟨0xFC00_0000, 0x9000_0000, fun w => .bLtu (w.extractLsb' 21 5) (w.extractLsb' 16 5) (w.extractLsb' 0 16)⟩ rfl ?_ ?_ hi
  · simp (disch := decide) only [or_and_word, put_and]
    decide
  · simp (disch := decide) [field_or, field_put, field_put_other]

theorem Laws.RoundTrip.bGeu (a : Reg) (b : Reg) (o : BitVec 16) : Laws.RoundTrip.Statement (.bGeu a b o) := by
  intro w hi hw
  cases Option.some.inj hw
  refine decode_of_row 128 _ _ ⟨0xFC00_0000, 0x9400_0000, fun w => .bGeu (w.extractLsb' 21 5) (w.extractLsb' 16 5) (w.extractLsb' 0 16)⟩ rfl ?_ ?_ hi
  · simp (disch := decide) only [or_and_word, put_and]
    decide
  · simp (disch := decide) [field_or, field_put, field_put_other]

theorem Laws.RoundTrip.call (o : BitVec 26) : Laws.RoundTrip.Statement (.call o) := by
  intro w hi hw
  cases Option.some.inj hw
  refine decode_of_row 129 _ _ ⟨0xFC00_0000, 0x9800_0000, fun w => .call (w.extractLsb' 0 26)⟩ rfl ?_ ?_ hi
  · simp (disch := decide) only [or_and_word, put_and]
    decide
  · simp (disch := decide) [field_or, field_put]

theorem Laws.RoundTrip.jr (d : Reg) (a : Reg) (i : BitVec 16) : Laws.RoundTrip.Statement (.jr d a i) := by
  intro w hi hw
  cases Option.some.inj hw
  refine decode_of_row 130 _ _ ⟨0xFC00_0000, 0x9C00_0000, fun w => .jr (w.extractLsb' 21 5) (w.extractLsb' 16 5) (w.extractLsb' 0 16)⟩ rfl ?_ ?_ hi
  · simp (disch := decide) only [or_and_word, put_and]
    decide
  · simp (disch := decide) [field_or, field_put, field_put_other]

theorem Laws.RoundTrip.send (a : Reg) (b : Reg) (n : BitVec 3) : Laws.RoundTrip.Statement (.send a b n) := by
  intro w hi hw
  cases Option.some.inj hw
  refine decode_of_row 131 _ _ ⟨0xFFE0_07F8, 0xA000_0000, fun w => .send (w.extractLsb' 16 5) (w.extractLsb' 11 5) (w.extractLsb' 0 3)⟩ rfl ?_ ?_ hi
  · simp (disch := decide) only [or_and_word, put_and]
    decide
  · simp (disch := decide) [field_or, field_put, field_put_other]

theorem Laws.RoundTrip.spawn (a : Reg) (b : Reg) (k : BitVec 2) : Laws.RoundTrip.Statement (.spawn a b k) := by
  intro w hi hw
  cases Option.some.inj hw
  refine decode_of_row 132 _ _ ⟨0xFFE0_07FC, 0xA000_0100, fun w => .spawn (w.extractLsb' 16 5) (w.extractLsb' 11 5) (w.extractLsb' 0 2)⟩ rfl ?_ ?_ hi
  · simp (disch := decide) only [or_and_word, put_and]
    decide
  · simp (disch := decide) [field_or, field_put, field_put_other]

theorem Laws.RoundTrip.mget (d : Reg) (n : BitVec 3) : Laws.RoundTrip.Statement (.mget d n) := by
  intro w hi hw
  cases Option.some.inj hw
  refine decode_of_row 133 _ _ ⟨0xFC1F_FFF8, 0xA000_0200, fun w => .mget (w.extractLsb' 21 5) (w.extractLsb' 0 3)⟩ rfl ?_ ?_ hi
  · simp (disch := decide) only [or_and_word, put_and]
    decide
  · simp (disch := decide) [field_or, field_put, field_put_other]

theorem Laws.RoundTrip.mpeek (d : Reg) (n : BitVec 3) : Laws.RoundTrip.Statement (.mpeek d n) := by
  intro w hi hw
  cases Option.some.inj hw
  refine decode_of_row 134 _ _ ⟨0xFC1F_FFF8, 0xA000_0300, fun w => .mpeek (w.extractLsb' 21 5) (w.extractLsb' 0 3)⟩ rfl ?_ ?_ hi
  · simp (disch := decide) only [or_and_word, put_and]
    decide
  · simp (disch := decide) [field_or, field_put, field_put_other]

theorem Laws.RoundTrip.mtest (d : Reg) : Laws.RoundTrip.Statement (.mtest d) := by
  intro w hi hw
  cases Option.some.inj hw
  refine decode_of_row 135 _ _ ⟨0xFC1F_FFFF, 0xA000_0400, fun w => .mtest (w.extractLsb' 21 5)⟩ rfl ?_ ?_ hi
  · simp (disch := decide) only [or_and_word, put_and]
    decide
  · simp (disch := decide) [field_or, field_put]

theorem Laws.RoundTrip.sget (d : Reg) (n : BitVec 4) : Laws.RoundTrip.Statement (.sget d n) := by
  intro w hi hw
  cases Option.some.inj hw
  refine decode_of_row 136 _ _ ⟨0xFC1F_FFF0, 0xA400_0000, fun w => .sget (w.extractLsb' 21 5) (w.extractLsb' 0 4)⟩ rfl ?_ ?_ hi
  · simp (disch := decide) only [or_and_word, put_and]
    decide
  · simp (disch := decide) [field_or, field_put, field_put_other]

theorem Laws.RoundTrip.sput (a : Reg) (n : BitVec 4) : Laws.RoundTrip.Statement (.sput a n) := by
  intro w hi hw
  cases Option.some.inj hw
  refine decode_of_row 137 _ _ ⟨0xFFE0_FFF0, 0xA400_0100, fun w => .sput (w.extractLsb' 16 5) (w.extractLsb' 0 4)⟩ rfl ?_ ?_ hi
  · simp (disch := decide) only [or_and_word, put_and]
    decide
  · simp (disch := decide) [field_or, field_put, field_put_other]

theorem Laws.RoundTrip.serveImm (d : Reg) (a : Reg) (f : BitVec 10) (g : BitVec 2) (n : BitVec 3) : Laws.RoundTrip.Statement (.serveImm d a f g n) := by
  intro w hi hw
  cases Option.some.inj hw
  refine decode_of_row 138 _ _ ⟨0xFC00_0020, 0xB000_0000, fun w => .serveImm (w.extractLsb' 21 5) (w.extractLsb' 16 5) (w.extractLsb' 6 10) (w.extractLsb' 3 2) (w.extractLsb' 0 3)⟩ rfl ?_ ?_ hi
  · simp (disch := decide) only [or_and_word, put_and]
    decide
  · simp (disch := decide) [field_or, field_put, field_put_other]

theorem Laws.RoundTrip.serveReg (d : Reg) (a : Reg) (r : Reg) (n : BitVec 3) : Laws.RoundTrip.Statement (.serveReg d a r n) := by
  intro w hi hw
  cases Option.some.inj hw
  refine decode_of_row 139 _ _ ⟨0xFC00_07F8, 0xB000_0020, fun w => .serveReg (w.extractLsb' 21 5) (w.extractLsb' 16 5) (w.extractLsb' 11 5) (w.extractLsb' 0 3)⟩ rfl ?_ ?_ hi
  · simp (disch := decide) only [or_and_word, put_and]
    decide
  · simp (disch := decide) [field_or, field_put, field_put_other]

theorem Laws.RoundTrip.sload (a : Reg) : Laws.RoundTrip.Statement (.sload a) := by
  intro w hi hw
  cases Option.some.inj hw
  refine decode_of_row 140 _ _ ⟨0xFFE0_FFFF, 0xB400_0000, fun w => .sload (w.extractLsb' 16 5)⟩ rfl ?_ ?_ hi
  · simp (disch := decide) only [or_and_word, put_and]
    decide
  · simp (disch := decide) [field_or, field_put]

theorem Laws.RoundTrip.sevict (a : Reg) : Laws.RoundTrip.Statement (.sevict a) := by
  intro w hi hw
  cases Option.some.inj hw
  refine decode_of_row 141 _ _ ⟨0xFFE0_FFFF, 0xB400_0100, fun w => .sevict (w.extractLsb' 16 5)⟩ rfl ?_ ?_ hi
  · simp (disch := decide) only [or_and_word, put_and]
    decide
  · simp (disch := decide) [field_or, field_put]

theorem Laws.RoundTrip.sinfo (d : Reg) (a : Reg) : Laws.RoundTrip.Statement (.sinfo d a) := by
  intro w hi hw
  cases Option.some.inj hw
  refine decode_of_row 142 _ _ ⟨0xFC00_FFFF, 0xB400_0200, fun w => .sinfo (w.extractLsb' 21 5) (w.extractLsb' 16 5)⟩ rfl ?_ ?_ hi
  · simp (disch := decide) only [or_and_word, put_and]
    decide
  · simp (disch := decide) [field_or, field_put, field_put_other]

theorem Laws.RoundTrip.tzero (z : BitVec 2) : Laws.RoundTrip.Statement (.tzero z) := by
  intro w hi hw
  cases Option.some.inj hw
  refine decode_of_row 143 _ _ ⟨0xFFFF_F9FF, 0xC000_0000, fun w => .tzero (w.extractLsb' 9 2)⟩ rfl ?_ ?_ hi
  · simp (disch := decide) only [or_and_word, put_and]
    decide
  · simp (disch := decide) [field_or, field_put]

theorem Laws.RoundTrip.tmma (d : Reg) (a : Reg) (b : Reg) (z : BitVec 2) (g : BitVec 3) (f : BitVec 3) : Laws.RoundTrip.Statement (.tmma d a b z g f) := by
  intro w hi hw
  cases Option.some.inj hw
  refine decode_of_row 144 _ _ ⟨0xFC00_0038, 0xC000_0008, fun w => .tmma (w.extractLsb' 21 5) (w.extractLsb' 16 5) (w.extractLsb' 11 5) (w.extractLsb' 9 2) (w.extractLsb' 6 3) (w.extractLsb' 0 3)⟩ rfl ?_ ?_ hi
  · simp (disch := decide) only [or_and_word, put_and]
    decide
  · simp (disch := decide) [field_or, field_put, field_put_other]

theorem Laws.RoundTrip.tdrain (a : Reg) (b : Reg) (z : BitVec 2) (f : BitVec 3) : Laws.RoundTrip.Statement (.tdrain a b z f) := by
  intro w hi hw
  cases Option.some.inj hw
  refine decode_of_row 145 _ _ ⟨0xFFE0_01F8, 0xC000_0010, fun w => .tdrain (w.extractLsb' 16 5) (w.extractLsb' 11 5) (w.extractLsb' 9 2) (w.extractLsb' 0 3)⟩ rfl ?_ ?_ hi
  · simp (disch := decide) only [or_and_word, put_and]
    decide
  · simp (disch := decide) [field_or, field_put, field_put_other]

theorem Laws.RoundTrip.tload (a : Reg) (z : BitVec 2) : Laws.RoundTrip.Statement (.tload a z) := by
  intro w hi hw
  cases Option.some.inj hw
  refine decode_of_row 146 _ _ ⟨0xFFE0_F9FF, 0xC000_0018, fun w => .tload (w.extractLsb' 16 5) (w.extractLsb' 9 2)⟩ rfl ?_ ?_ hi
  · simp (disch := decide) only [or_and_word, put_and]
    decide
  · simp (disch := decide) [field_or, field_put, field_put_other]

theorem Laws.RoundTrip.tstat (d : Reg) : Laws.RoundTrip.Statement (.tstat d) := by
  intro w hi hw
  cases Option.some.inj hw
  refine decode_of_row 147 _ _ ⟨0xFC1F_FFFF, 0xC000_0020, fun w => .tstat (w.extractLsb' 21 5)⟩ rfl ?_ ?_ hi
  · simp (disch := decide) only [or_and_word, put_and]
    decide
  · simp (disch := decide) [field_or, field_put]

theorem Laws.RoundTrip.vstart (a : Reg) : Laws.RoundTrip.Statement (.vstart a) := by
  intro w hi hw
  cases Option.some.inj hw
  refine decode_of_row 148 _ _ ⟨0xFFE0_FFFF, 0xC400_0000, fun w => .vstart (w.extractLsb' 16 5)⟩ rfl ?_ ?_ hi
  · simp (disch := decide) only [or_and_word, put_and]
    decide
  · simp (disch := decide) [field_or, field_put]

theorem Laws.RoundTrip.vrel (d : Reg) : Laws.RoundTrip.Statement (.vrel d) := by
  intro w hi hw
  cases Option.some.inj hw
  refine decode_of_row 149 _ _ ⟨0xFC1F_FFFF, 0xC400_0100, fun w => .vrel (w.extractLsb' 21 5)⟩ rfl ?_ ?_ hi
  · simp (disch := decide) only [or_and_word, put_and]
    decide
  · simp (disch := decide) [field_or, field_put]

theorem Laws.RoundTrip.vinfo (d : Reg) : Laws.RoundTrip.Statement (.vinfo d) := by
  intro w hi hw
  cases Option.some.inj hw
  refine decode_of_row 150 _ _ ⟨0xFC1F_FFFF, 0xC400_0200, fun w => .vinfo (w.extractLsb' 21 5)⟩ rfl ?_ ?_ hi
  · simp (disch := decide) only [or_and_word, put_and]
    decide
  · simp (disch := decide) [field_or, field_put]

theorem Laws.RoundTrip.scmd (a : Reg) (b : Reg) (n : BitVec 2) : Laws.RoundTrip.Statement (.scmd a b n) := by
  intro w hi hw
  cases Option.some.inj hw
  refine decode_of_row 151 _ _ ⟨0xFFE0_07FC, 0xD000_0000, fun w => .scmd (w.extractLsb' 16 5) (w.extractLsb' 11 5) (w.extractLsb' 0 2)⟩ rfl ?_ ?_ hi
  · simp (disch := decide) only [or_and_word, put_and]
    decide
  · simp (disch := decide) [field_or, field_put, field_put_other]

theorem Laws.RoundTrip.rget (d : Reg) : Laws.RoundTrip.Statement (.rget d) := by
  intro w hi hw
  cases Option.some.inj hw
  refine decode_of_row 152 _ _ ⟨0xFC1F_FFFF, 0xD400_0000, fun w => .rget (w.extractLsb' 21 5)⟩ rfl ?_ ?_ hi
  · simp (disch := decide) only [or_and_word, put_and]
    decide
  · simp (disch := decide) [field_or, field_put]

theorem Laws.RoundTrip.nwait (a : Reg) (n : BitVec 4) : Laws.RoundTrip.Statement (.nwait a n) := by
  intro w hi hw
  cases Option.some.inj hw
  refine decode_of_row 153 _ _ ⟨0xFFE0_FFF0, 0xD400_0100, fun w => .nwait (w.extractLsb' 16 5) (w.extractLsb' 0 4)⟩ rfl ?_ ?_ hi
  · simp (disch := decide) only [or_and_word, put_and]
    decide
  · simp (disch := decide) [field_or, field_put, field_put_other]

theorem Laws.RoundTrip.nread (d : Reg) (n : BitVec 4) : Laws.RoundTrip.Statement (.nread d n) := by
  intro w hi hw
  cases Option.some.inj hw
  refine decode_of_row 154 _ _ ⟨0xFC1F_FFF0, 0xD400_0200, fun w => .nread (w.extractLsb' 21 5) (w.extractLsb' 0 4)⟩ rfl ?_ ?_ hi
  · simp (disch := decide) only [or_and_word, put_and]
    decide
  · simp (disch := decide) [field_or, field_put, field_put_other]

theorem Laws.RoundTrip.nset (a : Reg) (n : BitVec 4) : Laws.RoundTrip.Statement (.nset a n) := by
  intro w hi hw
  cases Option.some.inj hw
  refine decode_of_row 155 _ _ ⟨0xFFE0_FFF0, 0xD400_0300, fun w => .nset (w.extractLsb' 16 5) (w.extractLsb' 0 4)⟩ rfl ?_ ?_ hi
  · simp (disch := decide) only [or_and_word, put_and]
    decide
  · simp (disch := decide) [field_or, field_put, field_put_other]

theorem Laws.RoundTrip.trap (a : Reg) : Laws.RoundTrip.Statement (.trap a) := by
  intro w hi hw
  cases Option.some.inj hw
  refine decode_of_row 156 _ _ ⟨0xFFE0_FFFF, 0x0000_0001, fun w => .trap (w.extractLsb' 16 5)⟩ rfl ?_ ?_ hi
  · simp (disch := decide) only [or_and_word, put_and]
    decide
  · simp (disch := decide) [field_or, field_put]

theorem Laws.RoundTrip.tret : Laws.RoundTrip.Statement .tret := by
  intro w hi hw
  cases Option.some.inj hw
  exact decode_of_row 157 _ _ ⟨0xFFFF_FFFF, 0x0000_0002, fun _ => .tret⟩ rfl (by decide) rfl hi

theorem Laws.RoundTrip.rdsys (d : Reg) (b : Reg) : Laws.RoundTrip.Statement (.rdsys d b) := by
  intro w hi hw
  cases Option.some.inj hw
  refine decode_of_row 158 _ _ ⟨0xFC1F_07FF, 0x0000_0003, fun w => .rdsys (w.extractLsb' 21 5) (w.extractLsb' 11 5)⟩ rfl ?_ ?_ hi
  · simp (disch := decide) only [or_and_word, put_and]
    decide
  · simp (disch := decide) [field_or, field_put, field_put_other]

theorem Laws.RoundTrip.wrsys (a : Reg) (b : Reg) : Laws.RoundTrip.Statement (.wrsys a b) := by
  intro w hi hw
  cases Option.some.inj hw
  refine decode_of_row 159 _ _ ⟨0xFFE0_07FF, 0x0000_0004, fun w => .wrsys (w.extractLsb' 16 5) (w.extractLsb' 11 5)⟩ rfl ?_ ?_ hi
  · simp (disch := decide) only [or_and_word, put_and]
    decide
  · simp (disch := decide) [field_or, field_put, field_put_other]

theorem Laws.RoundTrip.exit : Laws.RoundTrip.Statement .exit := by
  intro w hi hw
  cases Option.some.inj hw
  exact decode_of_row 160 _ _ ⟨0xFFFF_FFFF, 0x0000_0005, fun _ => .exit⟩ rfl (by decide) rfl hi

theorem Laws.RoundTrip.yield : Laws.RoundTrip.Statement .yield := by
  intro w hi hw
  cases Option.some.inj hw
  exact decode_of_row 161 _ _ ⟨0xFFFF_FFFF, 0x0000_0006, fun _ => .yield⟩ rfl (by decide) rfl hi

theorem Laws.RoundTrip.park : Laws.RoundTrip.Statement .park := by
  intro w hi hw
  cases Option.some.inj hw
  exact decode_of_row 162 _ _ ⟨0xFFFF_FFFF, 0x0000_0007, fun _ => .park⟩ rfl (by decide) rfl hi

theorem Laws.RoundTrip.submitRecord (queue : BitVec 8) (off : BitVec 12) (size : Nat) (rec : Words8) : Laws.RoundTrip.Statement (.submitRecord queue off size rec) := fun _ _ h => nomatch h

theorem Laws.RoundTrip.qcfgWrite (queue : BitVec 8) (v : Word) : Laws.RoundTrip.Statement (.qcfgWrite queue v) := fun _ _ h => nomatch h

theorem Laws.RoundTrip.logtailWrite (v : Word) : Laws.RoundTrip.Statement (.logtailWrite v) := fun _ _ h => nomatch h

theorem Laws.RoundTrip.snap : Laws.RoundTrip.Statement (.snap) := fun _ _ h => nomatch h

theorem Laws.RoundTrip.abortQueue (queue : BitVec 8) : Laws.RoundTrip.Statement (.abortQueue queue) := fun _ _ h => nomatch h

theorem Laws.RoundTrip.abortRecord (seq : Nat) : Laws.RoundTrip.Statement (.abortRecord seq) := fun _ _ h => nomatch h

theorem Laws.RoundTrip.registerWrite (addr : BitVec 48) (v : Word) : Laws.RoundTrip.Statement (.registerWrite addr v) := fun _ _ h => nomatch h

theorem Laws.RoundTrip.apertureAccess (ap : BitVec 8) (off : BitVec 36) (size : Nat) (write : Bool) (v : Word) : Laws.RoundTrip.Statement (.apertureAccess ap off size write v) := fun _ _ h => nomatch h

theorem Laws.RoundTrip.pcieRequest (port : BitVec 1) (toOther : Bool) (owner : BitVec 12) (va : Word) (size : Nat) (write : Bool) (data : List Byte) : Laws.RoundTrip.Statement (.pcieRequest port toOther owner va size write data) := fun _ _ h => nomatch h

theorem Laws.RoundTrip.ownerCreate (owner : BitVec 12) (modes : BitVec 6) : Laws.RoundTrip.Statement (.ownerCreate owner modes) := fun _ _ h => nomatch h

theorem Laws.RoundTrip.ownerRetire (owner : BitVec 12) : Laws.RoundTrip.Statement (.ownerRetire owner) := fun _ _ h => nomatch h

theorem Laws.RoundTrip.setModes (owner : BitVec 12) (modes : BitVec 6) : Laws.RoundTrip.Statement (.setModes owner modes) := fun _ _ h => nomatch h

theorem Laws.RoundTrip.setEventSlot (owner : BitVec 12) (slot : BitVec 6) (v32 : BitVec 32) : Laws.RoundTrip.Statement (.setEventSlot owner slot v32) := fun _ _ h => nomatch h

theorem Laws.RoundTrip.ownerExport (owner : BitVec 12) (peer : BitVec 3) : Laws.RoundTrip.Statement (.ownerExport owner peer) := fun _ _ h => nomatch h

theorem Laws.RoundTrip.join (owner : BitVec 12) (modes : BitVec 6) (peer : BitVec 3) : Laws.RoundTrip.Statement (.join owner modes peer) := fun _ _ h => nomatch h

theorem Laws.RoundTrip.answerCrewPlacement (rec : Words8) : Laws.RoundTrip.Statement (.answerCrewPlacement rec) := fun _ _ h => nomatch h

theorem Laws.RoundTrip.answerImagePlacement (rec : Words8) : Laws.RoundTrip.Statement (.answerImagePlacement rec) := fun _ _ h => nomatch h

theorem Laws.RoundTrip.answerTierMigration (rec : Words8) : Laws.RoundTrip.Statement (.answerTierMigration rec) := fun _ _ h => nomatch h

theorem Laws.RoundTrip.answerSpill (rec : Words8) : Laws.RoundTrip.Statement (.answerSpill rec) := fun _ _ h => nomatch h

theorem Laws.RoundTrip.answerTwinReload (rec : Words8) : Laws.RoundTrip.Statement (.answerTwinReload rec) := fun _ _ h => nomatch h

theorem Laws.RoundTrip.tlbinvPage (owner : BitVec 12) (page : BitVec 39) : Laws.RoundTrip.Statement (.tlbinvPage owner page) := fun _ _ h => nomatch h

theorem Laws.RoundTrip.tlbinvOwner (owner : BitVec 12) : Laws.RoundTrip.Statement (.tlbinvOwner owner) := fun _ _ h => nomatch h

theorem Laws.RoundTrip.tlbinvAll : Laws.RoundTrip.Statement (.tlbinvAll) := fun _ _ h => nomatch h

theorem Laws.RoundTrip.replay (owner : BitVec 12) : Laws.RoundTrip.Statement (.replay owner) := fun _ _ h => nomatch h

theorem Laws.RoundTrip.decline (owner : BitVec 12) (page : BitVec 39) : Laws.RoundTrip.Statement (.decline owner page) := fun _ _ h => nomatch h

theorem Laws.RoundTrip.dropcntRead (die : BitVec 3) : Laws.RoundTrip.Statement (.dropcntRead die) := fun _ _ h => nomatch h

theorem Laws.RoundTrip.measurementExtend (v : Word) : Laws.RoundTrip.Statement (.measurementExtend v) := fun _ _ h => nomatch h

theorem Laws.RoundTrip.telemetry (conn : Nat) (mseq : Word) (len : Nat) : Laws.RoundTrip.Statement (.telemetry conn mseq len) := fun _ _ h => nomatch h

theorem Laws.RoundTrip.setPowerLimit (conn : Nat) (mseq : Word) (len : Nat) (v32 : BitVec 32) : Laws.RoundTrip.Statement (.setPowerLimit conn mseq len v32) := fun _ _ h => nomatch h

theorem Laws.RoundTrip.moduleReset (conn : Nat) (mseq : Word) (len : Nat) : Laws.RoundTrip.Statement (.moduleReset conn mseq len) := fun _ _ h => nomatch h

theorem Laws.RoundTrip.firmwareWrite (conn : Nat) (mseq : Word) (len : Nat) (foff : BitVec 32) (data : List Byte) : Laws.RoundTrip.Statement (.firmwareWrite conn mseq len foff data) := fun _ _ h => nomatch h

theorem Laws.RoundTrip.firmwareSelect (conn : Nat) (mseq : Word) (len : Nat) (bank : BitVec 32) : Laws.RoundTrip.Statement (.firmwareSelect conn mseq len bank) := fun _ _ h => nomatch h

theorem Laws.RoundTrip.attest (conn : Nat) (mseq : Word) (len : Nat) (nonce : BitVec 256) : Laws.RoundTrip.Statement (.attest conn mseq len nonce) := fun _ _ h => nomatch h

theorem Laws.RoundTrip.events (conn : Nat) (mseq : Word) (len : Nat) : Laws.RoundTrip.Statement (.events conn mseq len) := fun _ _ h => nomatch h

theorem Laws.RoundTrip.enrollClient (conn : Nat) (mseq : Word) (len : Nat) (key : BitVec 256) : Laws.RoundTrip.Statement (.enrollClient conn mseq len key) := fun _ _ h => nomatch h

theorem Laws.RoundTrip.coldReset : Laws.RoundTrip.Statement (.coldReset) := fun _ _ h => nomatch h

theorem Laws.RoundTrip.v12AuxLoss : Laws.RoundTrip.Statement (.v12AuxLoss) := fun _ _ h => nomatch h

theorem Laws.RoundTrip.powerUp (pins : BitVec 9) (dimms : List (Nat × Bool × Nat)) (retrains : List (Option Nat)) (trainFail : Option Nat) : Laws.RoundTrip.Statement (.powerUp pins dimms retrains trainFail) := fun _ _ h => nomatch h

theorem Laws.RoundTrip.pwrgd48 : Laws.RoundTrip.Statement (.pwrgd48) := fun _ _ h => nomatch h

theorem Laws.RoundTrip.bridgeCoreReset : Laws.RoundTrip.Statement (.bridgeCoreReset) := fun _ _ h => nomatch h

theorem Laws.RoundTrip.sensorRead (die : Nat) (temps : List Nat) : Laws.RoundTrip.Statement (.sensorRead die temps) := fun _ _ h => nomatch h

theorem Laws.RoundTrip.powerWindow (watts : Nat) : Laws.RoundTrip.Statement (.powerWindow watts) := fun _ _ h => nomatch h

theorem Laws.RoundTrip.meridianLaneFailure (port4 : BitVec 4) : Laws.RoundTrip.Statement (.meridianLaneFailure port4) := fun _ _ h => nomatch h

theorem Laws.RoundTrip.meridianAccess (kind : BitVec 3) (src : BitVec 3) (owner : BitVec 12) (va : Word) (size : Nat) (v : Word) : Laws.RoundTrip.Statement (.meridianAccess kind src owner va size v) := fun _ _ h => nomatch h

theorem Laws.RoundTrip.patrolScrub (location : Nat) (bad : Bool) : Laws.RoundTrip.Statement (.patrolScrub location bad) := fun _ _ h => nomatch h

theorem Laws.RoundTrip.illegalInstruction (word : IWord) : Laws.RoundTrip.Statement (.illegalInstruction word) := fun _ _ h => nomatch h

theorem Laws.RoundTrip.badOp (op : BitVec 4) (owner : BitVec 12) : Laws.RoundTrip.Statement (.badOp op owner) := fun _ _ h => nomatch h

theorem Laws.RoundTrip.unknownType (conn : Nat) (mseq : Word) (mtype : BitVec 16) : Laws.RoundTrip.Statement (.unknownType conn mseq mtype) := fun _ _ h => nomatch h

theorem Laws.RoundTrip.reqtailWrite (v : Word) : Laws.RoundTrip.Statement (.reqtailWrite v) := fun _ _ h => nomatch h

theorem Laws.RoundTrip.managementConnection (conn : Nat) (key : BitVec 256) : Laws.RoundTrip.Statement (.managementConnection conn key) := fun _ _ h => nomatch h

theorem Laws.RoundTrip.get (core : Nat) (q : Nat) : Laws.RoundTrip.Statement (.get core q) := fun _ _ h => nomatch h

theorem Laws.RoundTrip.put (core : Nat) (q : Nat) : Laws.RoundTrip.Statement (.put core q) := fun _ _ h => nomatch h

theorem Laws.RoundTrip.getx (core : Nat) (q : Nat) : Laws.RoundTrip.Statement (.getx core q) := fun _ _ h => nomatch h

theorem Laws.RoundTrip.putx (core : Nat) (q : Nat) : Laws.RoundTrip.Statement (.putx core q) := fun _ _ h => nomatch h

theorem Laws.RoundTrip.copy (core : Nat) (q : Nat) : Laws.RoundTrip.Statement (.copy core q) := fun _ _ h => nomatch h

theorem Laws.RoundTrip.fill (core : Nat) (q : Nat) : Laws.RoundTrip.Statement (.fill core q) := fun _ _ h => nomatch h

theorem Laws.RoundTrip.redput (core : Nat) (q : Nat) : Laws.RoundTrip.Statement (.redput core q) := fun _ _ h => nomatch h

theorem Laws.RoundTrip.chain (core : Nat) (q : Nat) : Laws.RoundTrip.Statement (.chain core q) := fun _ _ h => nomatch h

theorem Laws.RoundTrip.halo (core : Nat) (q : Nat) : Laws.RoundTrip.Statement (.halo core q) := fun _ _ h => nomatch h

theorem Laws.RoundTrip.bind (core : Nat) (q : Nat) : Laws.RoundTrip.Statement (.bind core q) := fun _ _ h => nomatch h

theorem Laws.RoundTrip.scan (core : Nat) (q : Nat) : Laws.RoundTrip.Statement (.scan core q) := fun _ _ h => nomatch h

theorem Laws.RoundTrip.probe (core : Nat) (q : Nat) : Laws.RoundTrip.Statement (.probe core q) := fun _ _ h => nomatch h

theorem Laws.RoundTrip.commandStart (core : Nat) (q : Nat) : Laws.RoundTrip.Statement (.commandStart core q) := fun _ _ h => nomatch h

theorem Laws.RoundTrip.commandComplete (core : Nat) (q : Nat) : Laws.RoundTrip.Statement (.commandComplete core q) := fun _ _ h => nomatch h

theorem Laws.RoundTrip.faceDelivered (core : Nat) (q : Nat) (face : Nat) : Laws.RoundTrip.Statement (.faceDelivered core q face) := fun _ _ h => nomatch h

theorem Laws.RoundTrip.crew (queue : BitVec 8) : Laws.RoundTrip.Statement (.crew queue) := fun _ _ h => nomatch h

theorem Laws.RoundTrip.gang (queue : BitVec 8) : Laws.RoundTrip.Statement (.gang queue) := fun _ _ h => nomatch h

theorem Laws.RoundTrip.voyage (queue : BitVec 8) : Laws.RoundTrip.Statement (.voyage queue) := fun _ _ h => nomatch h

theorem Laws.RoundTrip.stream (queue : BitVec 8) : Laws.RoundTrip.Statement (.stream queue) := fun _ _ h => nomatch h

theorem Laws.RoundTrip.wait (queue : BitVec 8) : Laws.RoundTrip.Statement (.wait queue) := fun _ _ h => nomatch h

theorem Laws.RoundTrip.graph (queue : BitVec 8) : Laws.RoundTrip.Statement (.graph queue) := fun _ _ h => nomatch h

theorem Laws.RoundTrip.nestedGraphStart (seq : Nat) : Laws.RoundTrip.Statement (.nestedGraphStart seq) := fun _ _ h => nomatch h

theorem Laws.RoundTrip.abortedEntry (seq : Nat) : Laws.RoundTrip.Statement (.abortedEntry seq) := fun _ _ h => nomatch h

theorem Laws.RoundTrip.keyTransferTimeout : Laws.RoundTrip.Statement (.keyTransferTimeout) := fun _ _ h => nomatch h

theorem Laws.RoundTrip.invalidationDone : Laws.RoundTrip.Statement (.invalidationDone) := fun _ _ h => nomatch h

theorem Laws.RoundTrip.crewAdmit (seq : Nat) : Laws.RoundTrip.Statement (.crewAdmit seq) := fun _ _ h => nomatch h

theorem Laws.RoundTrip.gangAdmit (seq : Nat) : Laws.RoundTrip.Statement (.gangAdmit seq) := fun _ _ h => nomatch h

theorem Laws.RoundTrip.streamAdmit (seq : Nat) : Laws.RoundTrip.Statement (.streamAdmit seq) := fun _ _ h => nomatch h

theorem Laws.RoundTrip.voyageAdmit (seq : Nat) : Laws.RoundTrip.Statement (.voyageAdmit seq) := fun _ _ h => nomatch h

theorem Laws.RoundTrip.clusterScrub (cluster : Nat) : Laws.RoundTrip.Statement (.clusterScrub cluster) := fun _ _ h => nomatch h

theorem Laws.RoundTrip.reservation (seq : Nat) : Laws.RoundTrip.Statement (.reservation seq) := fun _ _ h => nomatch h

theorem Laws.RoundTrip.preemption (seq : Nat) : Laws.RoundTrip.Statement (.preemption seq) := fun _ _ h => nomatch h

theorem Laws.RoundTrip.saveComplete (crew : Nat) : Laws.RoundTrip.Statement (.saveComplete crew) := fun _ _ h => nomatch h

theorem Laws.RoundTrip.crewResume (crew : Nat) : Laws.RoundTrip.Statement (.crewResume crew) := fun _ _ h => nomatch h

theorem Laws.RoundTrip.crewRetire (crew : Nat) : Laws.RoundTrip.Statement (.crewRetire crew) := fun _ _ h => nomatch h

theorem Laws.RoundTrip.tierEpoch : Laws.RoundTrip.Statement (.tierEpoch) := fun _ _ h => nomatch h

theorem Laws.RoundTrip.pageMoveComplete (owner : BitVec 12) (page : BitVec 39) : Laws.RoundTrip.Statement (.pageMoveComplete owner page) := fun _ _ h => nomatch h

theorem Laws.RoundTrip.loadReturn (tag : Nat) : Laws.RoundTrip.Statement (.loadReturn tag) := fun _ _ h => nomatch h

theorem Laws.RoundTrip.homeArrival (access : Nat) : Laws.RoundTrip.Statement (.homeArrival access) := fun _ _ h => nomatch h

theorem Laws.RoundTrip.releaseAck (tag : Nat) : Laws.RoundTrip.Statement (.releaseAck tag) := fun _ _ h => nomatch h

theorem Laws.RoundTrip.walkComplete (die : BitVec 3) (owner : BitVec 12) (page : BitVec 39) : Laws.RoundTrip.Statement (.walkComplete die owner page) := fun _ _ h => nomatch h

theorem Laws.RoundTrip.icacheFill (core : Nat) (line : Nat) : Laws.RoundTrip.Statement (.icacheFill core line) := fun _ _ h => nomatch h

theorem Laws.RoundTrip.sendArrives (msg : Nat) : Laws.RoundTrip.Statement (.sendArrives msg) := fun _ _ h => nomatch h

theorem Laws.RoundTrip.messageDelivery (msg : Nat) : Laws.RoundTrip.Statement (.messageDelivery msg) := fun _ _ h => nomatch h

theorem Laws.RoundTrip.spawnArrives (msg : Nat) : Laws.RoundTrip.Statement (.spawnArrives msg) := fun _ _ h => nomatch h

theorem Laws.RoundTrip.pendingTaskStart (cluster : Nat) : Laws.RoundTrip.Statement (.pendingTaskStart cluster) := fun _ _ h => nomatch h

theorem Laws.RoundTrip.spill (msg : Nat) : Laws.RoundTrip.Statement (.spill msg) := fun _ _ h => nomatch h

theorem Laws.RoundTrip.spillRetry (cluster : Nat) : Laws.RoundTrip.Statement (.spillRetry cluster) := fun _ _ h => nomatch h

theorem Laws.RoundTrip.spillDeliver (crew : Nat) : Laws.RoundTrip.Statement (.spillDeliver crew) := fun _ _ h => nomatch h

theorem Laws.RoundTrip.waiterResend (tag : Nat) : Laws.RoundTrip.Statement (.waiterResend tag) := fun _ _ h => nomatch h

theorem Laws.RoundTrip.deferredTrap (tag : Nat) : Laws.RoundTrip.Statement (.deferredTrap tag) := fun _ _ h => nomatch h

theorem Laws.RoundTrip.crewEvent (crew : Nat) : Laws.RoundTrip.Statement (.crewEvent crew) := fun _ _ h => nomatch h

theorem Laws.RoundTrip.tileStart (core : Nat) : Laws.RoundTrip.Statement (.tileStart core) := fun _ _ h => nomatch h

theorem Laws.RoundTrip.tileComplete (core : Nat) : Laws.RoundTrip.Statement (.tileComplete core) := fun _ _ h => nomatch h

theorem Laws.RoundTrip.serveAdmit (cluster : Nat) (server : Nat) : Laws.RoundTrip.Statement (.serveAdmit cluster server) := fun _ _ h => nomatch h

theorem Laws.RoundTrip.serveExit (cluster : Nat) (fid : BitVec 12) : Laws.RoundTrip.Statement (.serveExit cluster fid) := fun _ _ h => nomatch h

theorem Laws.RoundTrip.cellFire (cluster : Nat) (server : Nat) (cell : Nat) : Laws.RoundTrip.Statement (.cellFire cluster server cell) := fun _ _ h => nomatch h

theorem Laws.RoundTrip.serveTimeout (cluster : Nat) (fid : BitVec 12) : Laws.RoundTrip.Statement (.serveTimeout cluster fid) := fun _ _ h => nomatch h

theorem Laws.RoundTrip.imageLoad (cluster : Nat) (fid : BitVec 12) : Laws.RoundTrip.Statement (.imageLoad cluster fid) := fun _ _ h => nomatch h

theorem Laws.RoundTrip.imageLoadComplete (cluster : Nat) (fid : BitVec 12) : Laws.RoundTrip.Statement (.imageLoadComplete cluster fid) := fun _ _ h => nomatch h

theorem Laws.RoundTrip.imageEvict (cluster : Nat) (fid : BitVec 12) : Laws.RoundTrip.Statement (.imageEvict cluster fid) := fun _ _ h => nomatch h

theorem Laws.RoundTrip.compaction (cluster : Nat) (fid : BitVec 12) : Laws.RoundTrip.Statement (.compaction cluster fid) := fun _ _ h => nomatch h

theorem Laws.RoundTrip.twinReload (cluster : Nat) (fid : BitVec 12) : Laws.RoundTrip.Statement (.twinReload cluster fid) := fun _ _ h => nomatch h

theorem Laws.RoundTrip.freezeWave (cluster : Nat) (fid : BitVec 12) : Laws.RoundTrip.Statement (.freezeWave cluster fid) := fun _ _ h => nomatch h

theorem Laws.RoundTrip.thaw (cluster : Nat) (fid : BitVec 12) : Laws.RoundTrip.Statement (.thaw cluster fid) := fun _ _ h => nomatch h

theorem Laws.RoundTrip.sectionComplete (cluster : Nat) (fid : BitVec 12) : Laws.RoundTrip.Statement (.sectionComplete cluster fid) := fun _ _ h => nomatch h

theorem Laws.RoundTrip.endpointPoll (cluster : Nat) (server : Nat) (cell : Nat) : Laws.RoundTrip.Statement (.endpointPoll cluster server cell) := fun _ _ h => nomatch h

theorem Laws.RoundTrip.embark (cluster : Nat) : Laws.RoundTrip.Statement (.embark cluster) := fun _ _ h => nomatch h

theorem Laws.RoundTrip.embarkComplete (cluster : Nat) : Laws.RoundTrip.Statement (.embarkComplete cluster) := fun _ _ h => nomatch h

theorem Laws.RoundTrip.sighting (cluster : Nat) (station : Nat) : Laws.RoundTrip.Statement (.sighting cluster station) := fun _ _ h => nomatch h

theorem Laws.RoundTrip.accumulationComplete (cluster : Nat) (entry : Nat) : Laws.RoundTrip.Statement (.accumulationComplete cluster entry) := fun _ _ h => nomatch h

theorem Laws.RoundTrip.stationReady (cluster : Nat) (station : Nat) : Laws.RoundTrip.Statement (.stationReady cluster station) := fun _ _ h => nomatch h

theorem Laws.RoundTrip.halfStepStart (cluster : Nat) : Laws.RoundTrip.Statement (.halfStepStart cluster) := fun _ _ h => nomatch h

theorem Laws.RoundTrip.reckoning (cluster : Nat) : Laws.RoundTrip.Statement (.reckoning cluster) := fun _ _ h => nomatch h

theorem Laws.RoundTrip.reckonTaskStart (cluster : Nat) (station : Nat) : Laws.RoundTrip.Statement (.reckonTaskStart cluster station) := fun _ _ h => nomatch h

theorem Laws.RoundTrip.voyageFailure (cluster : Nat) : Laws.RoundTrip.Statement (.voyageFailure cluster) := fun _ _ h => nomatch h

theorem Laws.RoundTrip.voyageStop (cluster : Nat) : Laws.RoundTrip.Statement (.voyageStop cluster) := fun _ _ h => nomatch h

theorem Laws.RoundTrip.voyageResume (cluster : Nat) : Laws.RoundTrip.Statement (.voyageResume cluster) := fun _ _ h => nomatch h

theorem Laws.RoundTrip.unknownKind (queue : BitVec 8) : Laws.RoundTrip.Statement (.unknownKind queue) := fun _ _ h => nomatch h

end Sys2Proof
end

