-- ==== Sys2Proof/Tests/Slice0.lean ====
section
/-! SUPPORT. Tests: ill-formed terms, words of every instruction, single steps with results from the spec's tables, and states that
meet the hypotheses of the statements. -/

set_option maxRecDepth 100000

namespace Sys2Proof.Tests

open Sys2Proof Sys2Proof.Machine Sys2Proof.Safety

/-! ### Ill-formed terms, one for each check -/

theorem test_ill_formed_words : wellFormed (.spawn 1 0 3) = false ∧ wellFormed (.spawn 1 2 0) = false ∧ wellFormed (.spawn 1 31 2) = false
    ∧ wellFormed (.serveImm 0 25 0 0 7) = false ∧ wellFormed (.serveReg 0 31 1 1) = false ∧ wellFormed (.sinfo 30 0) = false := by decide

theorem test_ill_formed_names : wellFormed (.get 96 0) = false ∧ wellFormed (.get 0 4) = false ∧ wellFormed (.commandStart 32768 0) = false
    ∧ wellFormed (.faceDelivered 0 0 6) = false ∧ wellFormed (.tileStart 127) = false ∧ wellFormed (.loadReturn (96 * 16)) = false
    ∧ wellFormed (.clusterScrub 256) = false ∧ wellFormed (.sighting 0 96) = false ∧ wellFormed (.serveAdmit 0 12) = false
    ∧ wellFormed (.cellFire 0 0 128) = false ∧ wellFormed (.sensorRead 9 []) = false ∧ wellFormed (.meridianLaneFailure 12) = false := by decide

/-- The words of ill-formed instructions decode to nothing (R244, R256, R257, R307). -/
theorem test_ill_formed_decode : decode 0xA0141103 = none ∧ decode 0xA0141100 = none ∧ decode 0xA014F902 = none ∧ decode 0xB0990007 = none
    ∧ decode 0xB01F0821 = none ∧ decode 0xB7C00200 = none := by decide

/-! ### Decoding: one word of each instruction, written out from its encoding -/

/-- Words of the family, their fields placed as spec/opcode_table.json places them. -/
theorem test_decode_integer_1 :
    decode 0x054FA000 = some (.add 10 15 20)
    ∧ decode 0x06BAF801 = some (.sub 21 26 31)
    ∧ decode 0x04055002 = some (.and 0 5 10)
    ∧ decode 0x0570A803 = some (.or 11 16 21)
    ∧ decode 0x06DB0004 = some (.xor 22 27 0)
    ∧ decode 0x04265805 = some (.andn 1 6 11)
    ∧ decode 0x0591B006 = some (.sll 12 17 22)
    ∧ decode 0x06FC0807 = some (.srl 23 28 1)
    ∧ decode 0x04476008 = some (.sra 2 7 12)
    ∧ decode 0x05B2B809 = some (.rotl 13 18 23)
    ∧ decode 0x071D100A = some (.rotr 24 29 2)
    ∧ decode 0x0468680B = some (.slt 3 8 13)
    ∧ decode 0x05D3C00C = some (.sltu 14 19 24)
    ∧ decode 0x073E180D = some (.min 25 30 3)
    ∧ decode 0x0489700E = some (.max 4 9 14)
    ∧ decode 0x05F4C80F = some (.minu 15 20 25)
    ∧ decode 0x075F2010 = some (.maxu 26 31 4)
    ∧ decode 0x04AA7811 = some (.mul 5 10 15)
    ∧ decode 0x0615D012 = some (.mulh 16 21 26)
    ∧ decode 0x07602813 = some (.mulhu 27 0 5)
    ∧ decode 0x04CB8014 = some (.mulhsu 6 11 16)
    ∧ decode 0x0636D815 = some (.div 17 22 27)
    ∧ decode 0x07813016 = some (.divu 28 1 6)
    ∧ decode 0x04EC8817 = some (.rem 7 12 17) := by decide

/-- Words of the family, their fields placed as spec/opcode_table.json places them. -/
theorem test_decode_integer_2 :
    decode 0x0657E018 = some (.remu 18 23 28)
    ∧ decode 0x07A20019 = some (.clz 29 2)
    ∧ decode 0x050D001A = some (.ctz 8 13)
    ∧ decode 0x0678001B = some (.popc 19 24)
    ∧ decode 0x07C3001C = some (.bswap 30 3)
    ∧ decode 0x092E9800 = some (.addW 9 14 19)
    ∧ decode 0x0A99F001 = some (.subW 20 25 30)
    ∧ decode 0x0BE44806 = some (.sllW 31 4 9)
    ∧ decode 0x094FA007 = some (.srlW 10 15 20)
    ∧ decode 0x0ABAF808 = some (.sraW 21 26 31)
    ∧ decode 0x08055011 = some (.mulW 0 5 10)
    ∧ decode 0x0970A815 = some (.divW 11 16 21)
    ∧ decode 0x0ADB0016 = some (.divuW 22 27 0)
    ∧ decode 0x08265817 = some (.remW 1 6 11)
    ∧ decode 0x0991B018 = some (.remuW 12 17 22) := by decide

/-- Words of the family, their fields placed as spec/opcode_table.json places them. -/
theorem test_decode_float_1 :
    decode 0x0EFC0800 = some (.fadd 23 28 1 0)
    ∧ decode 0x0C476003 = some (.fsub 2 7 12 1)
    ∧ decode 0x0DB2B804 = some (.fmul 13 18 23 0)
    ∧ decode 0x0F1D1007 = some (.fdiv 24 29 2 1)
    ∧ decode 0x0C680009 = some (.fsqrt 3 8 1)
    ∧ decode 0x0DD3C74A = some (.fmadd 14 19 24 29 0)
    ∧ decode 0x0F3E1A0D = some (.fmsub 25 30 3 8 1)
    ∧ decode 0x0C8974CE = some (.fnmadd 4 9 14 19 0)
    ∧ decode 0x0DF4C810 = some (.fmin 15 20 25 0)
    ∧ decode 0x0F5F2013 = some (.fmax 26 31 4 1)
    ∧ decode 0x0CAA7814 = some (.fsgnj 5 10 15 0)
    ∧ decode 0x0E15D017 = some (.fsgnjn 16 21 26 1)
    ∧ decode 0x0F602818 = some (.fsgnjx 27 0 5 0)
    ∧ decode 0x0CCB801B = some (.feq 6 11 16 1)
    ∧ decode 0x0E36D81C = some (.flt 17 22 27 0)
    ∧ decode 0x0F81301F = some (.fle 28 1 6 1)
    ∧ decode 0x0CEC0021 = some (.fclass 7 12 1)
    ∧ decode 0x0E570022 = some (.fcvtW 18 23 0)
    ∧ decode 0x0FA20063 = some (.fcvtWu 29 2 1)
    ∧ decode 0x0D0D00A2 = some (.fcvtL 8 13 0)
    ∧ decode 0x0E7800E3 = some (.fcvtLu 19 24 1)
    ∧ decode 0x0FC30122 = some (.fcvtFromW 30 3 0)
    ∧ decode 0x0D2E0163 = some (.fcvtFromWu 9 14 1)
    ∧ decode 0x0E9901A2 = some (.fcvtFromL 20 25 0) := by decide

/-- Words of the family, their fields placed as spec/opcode_table.json places them. -/
theorem test_decode_float_2 :
    decode 0x0FE401E3 = some (.fcvtFromLu 31 4 1)
    ∧ decode 0x0D4F0222 = some (.fcvtDS 10 15 0)
    ∧ decode 0x0EBA0262 = some (.fcvtHS 21 26)
    ∧ decode 0x0C0502A2 = some (.fcvtSH 0 5)
    ∧ decode 0x0D7002E2 = some (.fcvtBfS 11 16)
    ∧ decode 0x0EDB0322 = some (.fcvtSBf 22 27)
    ∧ decode 0x0C260362 = some (.fcvtE4S 1 6)
    ∧ decode 0x0D9103A2 = some (.fcvtSE4 12 17)
    ∧ decode 0x0EFC03E2 = some (.fcvtE5S 23 28)
    ∧ decode 0x0C470422 = some (.fcvtSE5 2 7) := by decide

/-- Words of the family, their fields placed as spec/opcode_table.json places them. -/
theorem test_decode_immediate :
    decode 0x11B2D368 = some (.addi 13 18 54120)
    ∧ decode 0x171DD739 = some (.andi 24 29 55097)
    ∧ decode 0x1868DB0A = some (.ori 3 8 56074)
    ∧ decode 0x1DD3DEDB = some (.xori 14 19 57051)
    ∧ decode 0x233EE2AC = some (.slti 25 30 58028)
    ∧ decode 0x2489E67D = some (.sltiu 4 9 59005)
    ∧ decode 0x35F4EA4E = some (.addiW 15 20 59982)
    ∧ decode 0x2B5F0024 = some (.slli 26 31 36)
    ∧ decode 0x28AA012F = some (.srli 5 10 47)
    ∧ decode 0x2A15023A = some (.srai 16 21 58)
    ∧ decode 0x2B600305 = some (.rotri 27 0 5)
    ∧ decode 0x38CB0010 = some (.slliW 6 11 16)
    ∧ decode 0x3A36011B = some (.srliW 17 22 27)
    ∧ decode 0x3B810206 = some (.sraiW 28 1 6)
    ∧ decode 0x2CF7E313 = some (.ldhi 7 1565459)
    ∧ decode 0x3257E6E4 = some (.pcadd 18 1566436) := by decide

/-- Words of the family, their fields placed as spec/opcode_table.json places them. -/
theorem test_decode_loads_stores :
    decode 0x43A21078 = some (.ldB 29 2 4216)
    ∧ decode 0x450D1449 = some (.ldBu 8 13 5193)
    ∧ decode 0x4A78181A = some (.ldH 19 24 6170)
    ∧ decode 0x4FC31BEB = some (.ldHu 30 3 7147)
    ∧ decode 0x512E1FBC = some (.ldW 9 14 8124)
    ∧ decode 0x5699238D = some (.ldWu 20 25 9101)
    ∧ decode 0x5BE4275E = some (.ldD 31 4 10078)
    ∧ decode 0x614F2B2F = some (.stB 10 15 11055)
    ∧ decode 0x66BA2F00 = some (.stH 21 26 12032)
    ∧ decode 0x680532D1 = some (.stW 0 5 13009)
    ∧ decode 0x6D7036A2 = some (.stD 11 16 13986) := by decide

/-- Words of the family, their fields placed as spec/opcode_table.json places them. -/
theorem test_decode_sync_atomics :
    decode 0x72DB04C0 = some (.ldsyncTake 22 27 1216)
    ∧ decode 0x702624CB = some (.ldsyncKeep 1 6 1227)
    ∧ decode 0x719144D6 = some (.stsyncFill 12 17 1238)
    ∧ decode 0x72FC64E1 = some (.stsyncSet 23 28 1249)
    ∧ decode 0x700284C7 = some (.syncClear 2 1223)
    ∧ decode 0x71B2A4F7 = some (.syncTest 13 18 1271)
    ∧ decode 0x771D1044 = some (.atmAdd 24 29 2 1 0 1)
    ∧ decode 0x746868B0 = some (.atmAnd 3 8 13 0 3 0)
    ∧ decode 0x75D3C16C = some (.atmOr 14 19 24 1 2 3)
    ∧ decode 0x773E1998 = some (.atmXor 25 30 3 0 1 2)
    ∧ decode 0x74897244 = some (.atmMin 4 9 14 1 0 1)
    ∧ decode 0x75F4CAB0 = some (.atmMax 15 20 25 0 3 0)
    ∧ decode 0x775F236C = some (.atmMinu 26 31 4 1 2 3)
    ∧ decode 0x74AA7B98 = some (.atmMaxu 5 10 15 0 1 2)
    ∧ decode 0x7615D444 = some (.atmSwap 16 21 26 1 0 1)
    ∧ decode 0x77602CB0 = some (.atmCas 27 0 5 0 3 0)
    ∧ decode 0x74CB8518 = some (.atmFaddS 6 11 16 1 2)
    ∧ decode 0x78000004 = some (.fenceAcq 1)
    ∧ decode 0x78000100 = some (.fenceRel 0)
    ∧ decode 0x7800020C = some (.fenceFull 3)
    ∧ decode 0x78120370 = some (.barrInit 18 7)
    ∧ decode 0x7BA00420 = some (.barrArrive 29 2)
    ∧ decode 0x780805D0 = some (.barrWait 8 13) := by decide

/-- Words of the family, their fields placed as spec/opcode_table.json places them. -/
theorem test_decode_control :
    decode 0x8278923A = some (.bEq 19 24 37434)
    ∧ decode 0x87C3960B = some (.bNe 30 3 38411)
    ∧ decode 0x892E99DC = some (.bLt 9 14 39388)
    ∧ decode 0x8E999DAD = some (.bGe 20 25 40365)
    ∧ decode 0x93E4A17E = some (.bLtu 31 4 41342)
    ∧ decode 0x954FA54F = some (.bGeu 10 15 42319)
    ∧ decode 0x9A06DD9A = some (.call 34004378)
    ∧ decode 0x9C05ACF1 = some (.jr 0 5 44273) := by decide

/-- Words of the family, their fields placed as spec/opcode_table.json places them. -/
theorem test_decode_messages_calls :
    decode 0xA00B8005 = some (.send 11 16 5)
    ∧ decode 0xA016F102 = some (.spawn 22 30 2)
    ∧ decode 0xA0200206 = some (.mget 1 6)
    ∧ decode 0xA1800301 = some (.mpeek 12 1)
    ∧ decode 0xA2E00400 = some (.mtest 23)
    ∧ decode 0xA4400007 = some (.sget 2 7)
    ∧ decode 0xA40D0102 = some (.sput 13 2)
    ∧ decode 0xB318989F = some (.serveImm 24 24 610 3 7)
    ∧ decode 0xB0796826 = some (.serveReg 3 25 13 6)
    ∧ decode 0xB40E0000 = some (.sload 14)
    ∧ decode 0xB4190100 = some (.sevict 25)
    ∧ decode 0xB7A90200 = some (.sinfo 29 9) := by decide

/-- Words of the family, their fields placed as spec/opcode_table.json places them. -/
theorem test_decode_tiles_voyages :
    decode 0xC0000600 = some (.tzero 3)
    ∧ decode 0xC35F238B = some (.tmma 26 31 4 1 6 3)
    ∧ decode 0xC0055614 = some (.tdrain 5 10 3 4)
    ∧ decode 0xC0100218 = some (.tload 16 1)
    ∧ decode 0xC3600020 = some (.tstat 27)
    ∧ decode 0xC4060000 = some (.vstart 6)
    ∧ decode 0xC6200100 = some (.vrel 17)
    ∧ decode 0xC7800200 = some (.vinfo 28) := by decide

/-- Words of the family, their fields placed as spec/opcode_table.json places them. -/
theorem test_decode_commands :
    decode 0xD0076001 = some (.scmd 7 12 1)
    ∧ decode 0xD6400000 = some (.rget 18)
    ∧ decode 0xD41D0102 = some (.nwait 29 2)
    ∧ decode 0xD500020D = some (.nread 8 13)
    ∧ decode 0xD4130308 = some (.nset 19 8) := by decide

/-- Words of the family, their fields placed as spec/opcode_table.json places them. -/
theorem test_decode_system :
    decode 0x001E0001 = some (.trap 30)
    ∧ decode 0x00000002 = some .tret
    ∧ decode 0x0280C803 = some (.rdsys 20 25)
    ∧ decode 0x001F2004 = some (.wrsys 31 4)
    ∧ decode 0x00000005 = some .exit
    ∧ decode 0x00000006 = some .yield
    ∧ decode 0x00000007 = some .park := by decide
/-! ### States -/

/-- Thread 0 of core 0 runs for owner 1. -/
def start : State := placeWord State.reset 0

/-- `start` with these general registers. -/
def regs (l : List (Reg × Word)) : State := start.setTh { start.th with x := l.map fun p => (p.1.toNat, p.2) }

/-- An own scratchpad address. -/
def own (off : Nat) : Word := BitVec.ofNat 64 (0xC2 * 2 ^ 56 + off)

/-- Owner 1's page 1 of global memory, readable, writable and executable, of class home, is in the cluster's L1 TLB. -/
def mapped (s : State) : State :=
  setCluster s 0 { getCluster s 0 with l1 := [{ owner := 1, vpn := 1, big := false, pte := 0xD1E0000000020000 }] }

/-- As `mapped`, of another class: 0 reconcile, 2 stream. -/
def mappedAs (cls : Nat) (s : State) : State :=
  setCluster s 0 { getCluster s 0 with l1 := [{ owner := 1, vpn := 1, big := false, pte := BitVec.ofNat 64 (0xC1E0000000020000 + cls * 2 ^ 60) }] }

/-- `start` with a word of thread 0's own scratchpad. -/
def word (s : State) (off v : Nat) : State := { s with mem := memSetN s.mem (padKey 0 off) (bytesOf 8 v) }

def xOf (o : Out) (d : Reg) : Option Word := match o with | .next t => some (t.x d) | _ => none
def pcOf (o : Out) : Option Word := match o with | .next t => some t.th.pc | _ => none
def trapOf (o : Out) : Option (Word × Word) := match o with | .next t => some (t.th.tcause, t.th.tval) | _ => none
def after (o : Out) : State := match o with | .next t => t | _ => State.reset

/-! ### Single steps, with results from the tables of the spec -/

/-- The table under R274. -/
theorem test_division_table : xOf (exec (.div 1 2 3) (regs [(2, 7)])) 1 = some 0xFFFFFFFFFFFFFFFF
    ∧ xOf (exec (.rem 1 2 3) (regs [(2, 7)])) 1 = some 7
    ∧ xOf (exec (.div 1 2 3) (regs [(2, 0x8000000000000000), (3, -1)])) 1 = some 0x8000000000000000
    ∧ xOf (exec (.rem 1 2 3) (regs [(2, -7), (3, 2)])) 1 = some (-1)
    ∧ xOf (exec (.divW 1 2 3) (regs [(2, 0x180000000), (3, -1)])) 1 = some 0xFFFFFFFF80000000
    ∧ xOf (exec (.divuW 1 2 3) (regs [(2, 5), (3, 0x100000000)])) 1 = some 0xFFFFFFFFFFFFFFFF := by decide

theorem test_product_table : xOf (exec (.mulhu 1 2 3) (regs [(2, -1), (3, -1)])) 1 = some 0xFFFFFFFFFFFFFFFE
    ∧ xOf (exec (.mulhsu 1 2 3) (regs [(2, -1), (3, -1)])) 1 = some 0xFFFFFFFFFFFFFFFF
    ∧ xOf (exec (.mulh 1 2 3) (regs [(2, -1), (3, -1)])) 1 = some 0
    ∧ xOf (exec (.addW 1 2 3) (regs [(2, 0x7FFFFFFF), (3, 1)])) 1 = some 0xFFFFFFFF80000000
    ∧ xOf (exec (.sra 1 2 3) (regs [(2, -16), (3, 2)])) 1 = some (-4) ∧ xOf (exec (.sra 1 2 3) (regs [(2, -16), (3, 66)])) 1 = some (-4) := by decide

/-- R277's example: pcadd at 0x1_0000_0040. -/
theorem test_pcadd : xOf (exec (.pcadd 4 1) (start.setTh { start.th with pc := 0x100000040 })) 4 = some 0x100010040 := by decide

/-- R272: x0 discards what is written to it. -/
theorem test_x0 : xOf (exec (.addi 0 0 5) start) 0 = some 0 ∧ pcOf (exec (.addi 0 0 5) start) = some 4 := by decide

/-- R282: d = a. -/
theorem test_jr_link_over_target : xOf (exec (.jr 5 5 4) (regs [(5, 0x1000)])) 5 = some 4 ∧ pcOf (exec (.jr 5 5 4) (regs [(5, 0x1000)])) = some 0x1004 := by decide

/-- R281, R244: a branch back by three words; the word of zeros. -/
theorem test_branch_back : pcOf (exec (.bNe 5 0 0xFFFD) (regs [(5, 1)])) = some (-12) := by decide

theorem test_illegal : trapOf (exec (.illegalInstruction 0) start) = some (1, 0) := by decide

/-- R279: misalignment is tested before the space. -/
theorem test_misaligned_before_space : trapOf (exec (.ldW 1 2 2) (regs [(2, 0xFF00000000000000)])) = some (2, 0xFF00000000000002)
    ∧ trapOf (exec (.ldW 1 2 0) (regs [(2, 0xFF00000000000000)])) = some (3, 0xFF00000000000000) := by decide

/-- R278: sign and zero extension, at the last bytes of the scratchpad. -/
theorem test_load_extension : xOf (exec (.ldB 1 2 7) (word (regs [(2, own 0x2FFF8)]) 0x2FFF8 0x80FF000000000000)) 1 = some 0xFFFFFFFFFFFFFF80
    ∧ xOf (exec (.ldBu 1 2 7) (word (regs [(2, own 0x2FFF8)]) 0x2FFF8 0x80FF000000000000)) 1 = some 0x80
    ∧ xOf (exec (.ldH 1 2 6) (word (regs [(2, own 0x2FFF8)]) 0x2FFF8 0x80FF000000000000)) 1 = some 0xFFFFFFFFFFFF80FF := by decide

/-- R300's table: two arrivals end phase 0, a third stands in phase 1. -/
theorem test_barrier_table :
    let s1 := after (exec (.barrInit 13 3) (regs [(13, 2)]))
    let s2 := after (exec (.barrArrive 12 3) s1)
    let s3 := after (exec (.barrArrive 12 3) s2)
    s2.x 12 = 0 ∧ (getBarrier s2 0 3).arrived = 1 ∧ s3.x 12 = 0 ∧ (getBarrier s3 0 3).arrived = 0 ∧ (getBarrier s3 0 3).phase = 1
    ∧ xOf (exec (.barrArrive 12 3) s3) 12 = some 1 := by decide

/-- R291: a fill makes the word full, and a take empties it. -/
theorem test_fill_take :
    let s1 := after (exec (.stsyncFill 3 2 0) (regs [(2, own 64), (3, 9)]))
    s1.full = [padKey 0 64] ∧ xOf (exec (.ldsyncTake 4 2 0) s1) 4 = some 9 ∧ (after (exec (.ldsyncTake 4 2 0) s1)).full = [] := by decide

/-- R293: a `cas` in the own scratchpad, performed by LOAD_RETURN. -/
theorem test_cas :
    let s1 := after (exec (.atmCas 4 2 3 1 0 0) (word (regs [(2, own 8), (3, 7), (4, 5)]) 8 5))
    xOf (exec (.loadReturn 0) s1) 4 = some 5 ∧ memGetN (after (exec (.loadReturn 0) s1)).mem 8 (padKey 0 8) = bytesOf 8 7 := by decide

/-- R126: a write of s2 at clock 0 is seen from clock 4 on. -/
theorem test_shared_delay :
    let s1 := after (exec (.sput 7 2) (regs [(7, 7)]))
    let at_ := fun n => setCore s1 0 { getCore s1 0 with clk := n }
    xOf (exec (.sget 8 2) (at_ 3)) 8 = some 0 ∧ xOf (exec (.sget 8 2) (at_ 4)) 8 = some 7 := by decide

/-- R319, R103: a trap and its return. -/
theorem test_trap_and_return :
    let s1 := after (exec (.trap 5) (regs [(5, 42)]))
    s1.th.tcause = 8 ∧ s1.th.tval = 42 ∧ s1.th.tstat = 1 ∧ pcOf (exec .tret s1) = some 0 := by decide

/-- R235, R286: 1.5 + 0.25, and 1 / 0 sets DZ. -/
theorem test_float : xOf (exec (.fadd 1 2 3 0) (regs [(2, 0x3FC00000), (3, 0x3E800000)])) 1 = some 0x3FE00000
    ∧ (after (exec (.fdiv 1 2 3 0) (regs [(2, 0x3F800000)]))).th.fstat = 0x80 := by decide

/-- R341: nset, then nread. -/
theorem test_counter : xOf (exec (.nread 9 3) (after (exec (.nset 2 3) (regs [(2, 0x123456789ABC)])))) 9 = some 0x123456789ABC := by decide

/-- R95: a read of DROPCNT clears it. -/
theorem test_dropcnt : (after (exec (.dropcntRead 2) (setDie start 2 { dropCnt := 5 }))).readData = 5
    ∧ (getDie (after (exec (.dropcntRead 2) (setDie start 2 { dropCnt := 5 }))) 2).dropCnt = 0 := by decide

/-- R28: one 64-byte write to offset 0 is a record, another sets DISCARD. -/
theorem test_submit : (getQueue (after (exec (.submitRecord 5 0 64 (words8Of [1])) start)) 5).fifo = [words8Of [1]]
    ∧ (getQueue (after (exec (.submitRecord 5 8 64 (words8Of [1])) start)) 5).discard = true := by decide

/-- A step from reset runs the word that withFetchWord places: addi x5, x5, -1 (R275), and what no word is traps. -/
theorem test_step_runs_placed_word : xOf (step (State.reset.withFetchWord 32 0x10A5FFFF)) 5 = some (-1)
    ∧ pcOf (step (State.reset.withFetchWord 32 0x10A5FFFF)) = some 4 ∧ trapOf (step (State.reset.withFetchWord 32 0)) = some (1, 0) := by decide

/-! ### Witnesses: states that meet the hypotheses of the statements, clause by clause -/

theorem test_meets_IntegerDivision :
    (regs [(2, 7)]).x 3 = 0 ∧ lo32 ((regs [(2, 5), (3, 0x100000000)]).x 3) = 0
    ∧ ((regs [(2, BitVec.intMin 64), (3, -1)]).x 2 = BitVec.intMin 64 ∧ (regs [(2, BitVec.intMin 64), (3, -1)]).x 3 = BitVec.allOnes 64)
    ∧ (lo32 ((regs [(2, 0x180000000), (3, -1)]).x 2) = BitVec.intMin 32 ∧ lo32 ((regs [(2, 0x180000000), (3, -1)]).x 3) = BitVec.allOnes 32)
    ∧ ((regs [(2, BitVec.intMin 64), (3, 1)]).x 3 ≠ 0
      ∧ ¬((regs [(2, BitVec.intMin 64), (3, 1)]).x 2 = BitVec.intMin 64 ∧ (regs [(2, BitVec.intMin 64), (3, 1)]).x 3 = BitVec.allOnes 64))
    ∧ (lo32 ((regs [(2, 0x80000000), (3, 1)]).x 3) ≠ 0
      ∧ ¬(lo32 ((regs [(2, 0x80000000), (3, 1)]).x 2) = BitVec.intMin 32 ∧ lo32 ((regs [(2, 0x80000000), (3, 1)]).x 3) = BitVec.allOnes 32)) := by decide

theorem test_meets_BranchesAndJumps : ((regs [(5, -4)]).x 5 + (4 : BitVec 16).signExtend 64).toNat % 4 = 0
    ∧ ((regs [(5, -4)]).x 5 + (1 : BitVec 16).signExtend 64).toNat % 4 ≠ 0 ∧ (regs [(5, -4)]).th.ih = false := by decide

/-- The last 8 bytes of the own scratchpad, at each size. -/
theorem test_meets_OwnScratchpadLoadsAndStores_loads :
    let s := regs [(2, own 0x30000)]
    let here := fun (i : BitVec 16) (off n : Nat) => decide ((s.x 2 + i.signExtend 64).toNat % n = 0)
      && decide (spaceOf (tagCluster s.cur) (some (tagCore s.cur)) (s.x 2 + i.signExtend 64) n = .pad (tagCore s.cur) off)
      && !padBlocked s s.cur false off n
      && !poisoned s (padKey (tagCore s.cur) off) n
    here (-1) 0x2FFFF 1 = true ∧ here (-2) 0x2FFFE 2 = true ∧ here (-4) 0x2FFFC 4 = true ∧ here (-8) 0x2FFF8 8 = true := by decide

/-- Global memory in each class, another core's scratchpad, a memory cell, and a counter. -/
theorem test_meets_GlobalLoadsWaitForTheirValue :
    let key := fun (cls : Nat) => leafKey 0x1FFF8 (BitVec.ofNat 64 (0xC1E0000000020000 + cls * 2 ^ 60)) false
    let s := fun (cls : Nat) => mappedAs cls (regs [(2, 0x1FFF8), (3, windowVa 95 0x2FFF8), (4, 0xC100000000000000), (5, 0xC300000000000000)])
    let ea := fun (r : Reg) => (s 1).x r + (0 : BitVec 16).signExtend 64
    let sp := fun (r : Reg) => spaceOf (tagCluster (s 1).cur) (some (tagCore (s 1).cur)) (ea r) 8
    (∀ r ∈ ([2, 3, 4, 5] : List Reg), (ea r).toNat % 8 = 0) ∧ sp 2 = .global
    ∧ (∀ cls ∈ [0, 1, 2], xlate (s cls) (tagCluster (s cls).cur) (ownerOf (s cls) (s cls).cur) (ea 2) .read = .hit (key cls) (BitVec.ofNat 2 cls) none)
    ∧ sp 3 = .pad 95 0x2FFF8 ∧ 95 ≠ tagCore (s 1).cur ∧ sp 4 = .cell (cellKey 0 0 0 0) ∧ sp 5 = .control 0 ∧ controlOf 0 = .counter 0 := by decide

/-- The thread waits with a request of which `p` holds. -/
def waitsWith (p : MemReq → Bool) (s : State) : Bool := match s.th.park with | .memory r => p r | _ => false

/-- LOAD_RETURN can end the thread's load. -/
def canReturn (s : State) : Bool :=
  waitsWith (fun r => r.op.isNone && r.sync.isNone && r.size == 8 && r.ready s s.cur && !loadBad s s.cur r) s

/-- The loads of the test before wait with a request that LOAD_RETURN can end: of the home class, of the stream class with a dirty write of the thread beneath it,
of a counter. -/
theorem test_meets_GlobalLoadsWaitForTheirValue_return :
    let s := fun (cls : Nat) => after (exec (.ldD 3 2 0) (after (exec (.stD 2 2 0) (mappedAs cls (regs [(2, 0x1FFF8)])))))
    let h := after (exec (.ldD 3 2 0) (mapped (regs [(2, 0x1FFF8)])))
    let c := after (exec (.ldD 3 2 0) (regs [(2, 0xC300000000000000)]))
    (∀ t ∈ [h, s 2, s 0, c], canReturn t = true)
    ∧ (∀ t ∈ [h, s 2, s 0], waitsWith (fun r => r.control.isNone && !r.foreign t t.cur) t = true) ∧ waitsWith (fun r => r.atHome) h = true
    ∧ waitsWith (fun r => !r.atHome && r.stream) (s 2) = true ∧ waitsWith (fun r => !r.atHome && !r.stream) (s 0) = true
    ∧ (s 2).writes.length = 9 ∧ (s 0).writes.length = 9
    ∧ waitsWith (fun r => r.control == some 0) c = true ∧ (BitVec.ofBool (getCounter c 0 0).drain ++ (0 : BitVec 3) ++ (getCounter c 0 0).pend ++ (getCounter c 0 0).value) = 0 := by decide

/-- A reconcile load behind a write of 8 bytes that its thread made: one write covers every byte, matches, and may be returned. -/
theorem test_meets_GlobalLoadsWaitForTheirValue_frontier :
    let w : WriteRec := { mkWrite 1 0x100 (bytesOf 8 7) { agent := 1, core := some 0, cluster := 0, stamp := 1, clock := [(1, 1)], flagAt := none } false [] with issued := 1 }
    let s := { start with writes := [w] }
    (∀ x, 0x100 ≤ x → x < 0x108 → InFrontier s s.cur 2 x w) ∧ w.addr = 0x100 ∧ w.bytes.length = 8
    ∧ ∀ x v, InFrontier s s.cur 2 x v → v = w := by
  refine ⟨fun x h1 h2 => ⟨⟨by simp, h1, show x < 0x108 from h2, by decide⟩, ?_⟩, by decide, by decide, ?_⟩
  · rintro v ⟨hv, -⟩ -
    obtain rfl : v = _ := by simpa using hv
    decide
  · rintro x v ⟨⟨hv, -⟩, -⟩
    simpa using hv

theorem test_meets_OwnScratchpadLoadsAndStores :
    let s := regs [(2, own 0x30000)]
    Inv s
    ∧ locate s s.cur (s.x 2 + (-8 : BitVec 16).signExtend 64) 8 .write = .pad (tagCore s.cur) 0x2FFF8
    ∧ locate s s.cur (s.x 2 + (-1 : BitVec 16).signExtend 64) 1 .write = .pad (tagCore s.cur) 0x2FFFF
    ∧ padBlocked s s.cur true 0x2FFF8 8 = false ∧ padBlocked s s.cur true 0x2FFFF 1 = false := by decide

/-- Windows of another core, of a memory cell, of the task table and of chart memory. -/
def windows : State := regs [(2, windowVa 95 0x2FFF8), (3, 0xC100000000000000), (4, 0xC300000000001FF8), (5, 0xC300000000010008)]

/-- A page of class `cls` under x2. -/
def page (cls : Nat) : State := mappedAs cls (regs [(2, 0x1FFF8)])

def pageKey (cls : Nat) : Nat := leafKey 0x1FFF8 (BitVec.ofNat 64 (0xC1E0000000020000 + cls * 2 ^ 60)) false

/-- A store of a second thread, behind a load of the first. -/
def behindLoad : State := after (exec (.stD 2 2 0) { setThread (after (exec (.ldD 5 2 0) windows)) 1 windows.th with cur := 1 })

/-- A dirty write over the bytes of a posted store of another core. -/
def heldWrite : State :=
  { after (exec (.stD 2 2 0) (page 0)) with
    posted := [{ num := 77, addr := pageKey 0, bytes := bytesOf 8 1, core := 5, agent := 1, stamp := 0, clock := [], rel := [], flagAt := none }] }

/-- Stores through each window and to pages of each class. -/
theorem test_meets_RemoteStoresArriveLater :
    let at_ := fun (s : State) (r : Reg) => locate s s.cur (s.x r + (0 : BitVec 16).signExtend 64) 8 .write
    at_ windows 2 = .pad 95 0x2FFF8 ∧ (95 : Nat) ≠ tagCore windows.cur ∧ at_ windows 3 = .cell (cellKey 0 0 0 0)
    ∧ at_ windows 4 = .control 0x1FF8 ∧ controlOf 0x1FF8 = .task 511 ∧ at_ windows 5 = .control 0x10008 ∧ controlOf 0x10008 = .chart 8
    ∧ voyageActive windows (tagCluster windows.cur) = false
    ∧ (∀ cls ∈ [0, 1, 2], at_ (page cls) 2 = .global (pageKey cls) (BitVec.ofNat 2 cls) none
        ∧ lineForeign (page cls) (pageKey cls) (keyOf (page cls) (ownerOf (page cls) 0)) (bits ((page cls).x 2 + (0 : BitVec 16).signExtend 64) 54 6) = false)
    ∧ windows.posted.find? (fun q => q.num == 9) = none ∧ windows.writes.find? (fun v => v.num == 9 && !v.initial && !v.arrived) = none := by decide

/-- Posted stores that can arrive, and one behind an earlier load of its core. -/
theorem test_meets_RemoteStoresArriveLater_posted :
    let u := after (exec (.stD 2 2 0) windows)
    let v := after (exec (.stD 2 4 0) windows)
    Inv u ∧ Inv v ∧ Inv behindLoad ∧ u.posted.length = 1 ∧ v.posted.length = 1 ∧ behindLoad.posted.length = 1
    ∧ (∀ p ∈ u.posted, u.posted.find? (fun q => q.num == p.num) = some p ∧ postedFirst u p = true ∧ p.flagAt = none ∧ p.addr < 2 ^ 48
      ∧ inActiveBay u p.addr p.bytes.length = false)
    ∧ (∀ p ∈ v.posted, v.posted.find? (fun q => q.num == p.num) = some p ∧ postedFirst v p = true ∧ 2 ^ 48 ≤ p.addr ∧ controlOf (p.addr % 2 ^ 18) = .task 511)
    ∧ (∀ p ∈ behindLoad.posted, behindLoad.posted.find? (fun q => q.num == p.num) = some p ∧ postedFirst behindLoad p = false) := by decide

/-- Dirty writes that can go home, and one behind another core's older store. -/
theorem test_meets_RemoteStoresArriveLater_dirty :
    (∀ s ∈ [after (exec (.stD 2 2 0) (page 0)), after (exec (.stD 2 2 0) (page 2))], Inv s ∧ s.posted = []
      ∧ ∃ w ∈ s.writes, s.writes.find? (fun v => v.num == w.num && !v.initial && !v.arrived) = some w ∧ mayArrive s w = true ∧ w.flagAt = none ∧ w.loose = [] ∧ w.bad = false)
    ∧ Inv heldWrite ∧ ∃ w ∈ heldWrite.writes, heldWrite.posted.find? (fun q => q.num == w.num) = none
        ∧ heldWrite.writes.find? (fun v => v.num == w.num && !v.initial && !v.arrived) = some w ∧ mayArrive heldWrite w = false := by decide

theorem test_meets_BadAddressesTrap :
    let s := regs [(2, 0xFF00000000000001)]
    s.th.ih = false ∧ (s.x 2 + (0 : BitVec 16).signExtend 64).toNat % 2 ≠ 0 ∧ (s.x 2 + (-1 : BitVec 16).signExtend 64).toNat % 8 = 0
    ∧ spaceOf (tagCluster s.cur) (some (tagCore s.cur)) (s.x 2 + (-1 : BitVec 16).signExtend 64) 8 = .invalid := by decide

/-- The last word of the own scratchpad, full. -/
def fullWord : State := { regs [(2, own 0x2FFF8)] with full := [padKey 0 0x2FFF8] }

/-- The same word, empty. -/
def emptyWord : State := regs [(2, own 0x2FFF8)]

def waiting (kind : SyncKind) (word tag : Nat) : Waiting := { kind := kind, word := word, tag := tag, dest := 1, value := 0 }

/-- `s` with these requests in core 0's waiter unit. -/
def units (s : State) (l : List Waiting) : State := setCore s 0 { getCore s 0 with waiters := l }

/-- `s`, the thread waiting with a refused request. -/
def refused (s : State) (kind : SyncKind) : State := s.setTh { s.th with park := .sync 0 (some (waiting kind (padKey 0 0x2FFF8) 0)) }

def onWord (s : State) : List Waiting := (getCore s 0).waiters.filter fun x => x.word == padKey 0 0x2FFF8

/-- A full and an empty word of the own core, and a word of another core. -/
theorem test_meets_FullEmptyOperations :
    let r := regs [(2, windowVa 95 0x2FFF8)]
    (∀ s ∈ [fullWord, emptyWord], Inv s ∧ (s.x 2 + (0 : BitVec 13).signExtend 64 <<< 3).toNat % 8 = 0
      ∧ spaceOf (tagCluster s.cur) (some (tagCore s.cur)) (s.x 2 + (0 : BitVec 13).signExtend 64 <<< 3) 8 = .pad 0 0x2FFF8
      ∧ (inBay 0x2FFF8 8 && voyageActive s (tagCluster s.cur)) = false ∧ padBlocked s s.cur true 0x2FFF8 8 = false
      ∧ poisoned s (padKey 0 0x2FFF8) 8 = false ∧ (getCore s 0).waiters = [] ∧ s.th.park = .none ∧ s.th.stopped = false)
    ∧ padKey 0 0x2FFF8 ∈ fullWord.full ∧ padKey 0 0x2FFF8 ∉ emptyWord.full
    ∧ spaceOf (tagCluster r.cur) (some (tagCore r.cur)) (r.x 2 + (0 : BitVec 13).signExtend 64 <<< 3) 8 = .pad 95 0x2FFF8 ∧ 95 ≠ tagCore r.cur
    ∧ Safety.Quiet r ∧ Safety.Quiet { r with full := [padKey 95 0x2FFF8] } ∧ (getCore r 95).waiters = [] ∧ Inv r := by decide

def fullUnit : State := units emptyWord (List.replicate 64 (waiting .take (padKey 0 0) 16))

/-- Room in the unit, and none; a refused request of each outcome. -/
theorem test_meets_FullEmptyRequestsWait :
    (getCore emptyWord 0).waiters.length < 64 ∧ 64 ≤ (getCore fullUnit 0).waiters.length
    ∧ padBlocked fullUnit fullUnit.cur true 0x2FFF8 8 = false ∧ fullUnit.th.stopped = false
    ∧ (∀ p ∈ [(emptyWord, SyncKind.take), (fullUnit, .take), (fullWord, .keep)],
        (refused p.1 p.2).th.park = .sync 0 (some (waiting p.2 (padKey 0 0x2FFF8) 0)) ∧ (refused p.1 p.2).cur = 0 ∧ (refused p.1 p.2).th.stopped = false
        ∧ poisoned (refused p.1 p.2) (padKey 0 0x2FFF8) 8 = false ∧ p.2 ≠ .fill) := by decide

/-- Words with waiters of each kind. -/
theorem test_meets_FullEmptyRequestsWait_served :
    let key := padKey 0 0x2FFF8
    let takers := units emptyWord [waiting .keep key 1, waiting .take key 2, waiting .keep key 3]
    let keepers := units emptyWord [waiting .keep key 1, waiting .keep key 2]
    let fillers := units fullWord [waiting .fill key 1, waiting .fill key 2]
    (∀ s ∈ [takers, keepers], Inv s ∧ s.th.park = .none ∧ key ∉ s.full ∧ (∀ x ∈ onWord s, x.kind ≠ .fill ∧ x.suspended s = false ∧ x.tag ≠ s.cur)
      ∧ ((onWord s).map (·.tag)).Nodup ∧ padBlocked s s.cur true 0x2FFF8 8 = false)
    ∧ onWord takers = [waiting .keep key 1] ++ waiting .take key 2 :: [waiting .keep key 3] ∧ (∀ x ∈ onWord keepers, x.kind = .keep)
    ∧ Inv fillers ∧ fillers.th.park = .none ∧ key ∈ fillers.full ∧ onWord fillers = waiting .fill key 1 :: [waiting .fill key 2]
    ∧ (∀ x ∈ onWord fillers, x.kind = .fill ∧ x.suspended fillers = false ∧ x.tag ≠ fillers.cur)
    ∧ ((onWord fillers).map (·.tag)).Nodup ∧ padBlocked fillers fillers.cur true 0x2FFF8 8 = false := by decide

/-- The own scratchpad, another core's, a memory cell, a page of home class, and a word of the task table. -/
theorem test_meets_AtomicOperations :
    let s := mapped (regs [(2, own 0x2FFF8), (3, windowVa 95 0x2FFF8), (4, 0xC100000000000000), (5, 0x1FFF8), (6, 0xC300000000001FF8)])
    let key := leafKey 0x1FFF8 0xD1E0000000020000 false
    Inv s ∧ Safety.Quiet s ∧ (∀ r ∈ ([2, 3, 4, 5, 6] : List Reg), (s.x r).toNat % 8 = 0)
    ∧ locate s s.cur (s.x 2) 8 .both = .pad 0 0x2FFF8 ∧ locate s s.cur (s.x 2) 4 .both = .pad 0 0x2FFF8
    ∧ padBlocked s s.cur true 0x2FFF8 8 = false ∧ poisoned s (padKey 0 0x2FFF8) 8 = false
    ∧ locate s s.cur (s.x 3) 8 .both = .pad 95 0x2FFF8 ∧ 95 ≠ tagCore s.cur ∧ poisoned s (padKey 95 0x2FFF8) 8 = false
    ∧ locate s s.cur (s.x 4) 8 .both = .cell (cellKey 0 0 0 0) ∧ poisoned s (cellKey 0 0 0 0) 8 = false
    ∧ locate s s.cur (s.x 5) 8 .both = .global key 1 none ∧ lineForeign s key (keyOf s (ownerOf s s.cur)) (bits (s.x 5) 54 6) = false ∧ poisoned s key 8 = false
    ∧ locate s s.cur (s.x 6) 8 .both = .control 0x1FF8 ∧ controlOf 0x1FF8 = .task 511 ∧ locate s s.cur (s.x 6) 4 .both = .control 0x1FF8 ∧ s.th.ih = false := by decide

/-- Nothing to wait for; then a posted store of the core, for which a release waits until it has arrived. -/
theorem test_meets_FencesAndBarriers_fences :
    let s := regs [(2, windowVa 95 0)]
    let u := after (exec (.stD 2 2 0) s)
    let f := after (exec (.fenceRel 2) u)
    let g := (after (exec (.homeArrival (u.posted.map (·.num)).sum) f))
    s.th.park = .none ∧ fenceWaits s s.cur s.nextWrite (scopeOf 2) = false ∧ fenceWaits u u.cur u.nextWrite (scopeOf 2) = true
    ∧ f.th.park = .release u.nextWrite (scopeOf 2) false ∧ fenceWaits g g.cur u.nextWrite (scopeOf 2) = false ∧ g.th.park = f.th.park := by decide

/-- Barriers with nothing before them; and an arrival behind a store that an earlier load of the core holds up. -/
theorem test_meets_FencesAndBarriers :
    let s := setBarrier start 0 3 { count := 2, arrived := 1, phase := 0xFFFFFFFF }
    let p := setBarrier start 0 3 { count := 2, arrived := 0, phase := 1 }
    let l := after (exec (.ldD 5 2 0) (regs [(2, windowVa 95 0)]))
    let b := after (exec (.stD 2 2 0) { setThread l 1 (regs [(2, windowVa 95 0)]).th with cur := 1 })
    (∀ t ∈ [s, p, start], coreDone (stored t) (tagCore t.cur) = true ∧ controlAhead (stored t) t.cur = false ∧ t.posted = []) ∧ coreDone (stored b) (tagCore b.cur) = false
    ∧ (getBarrier s 0 3).count ≠ 0 ∧ (getBarrier s 0 3).arrived + 1 = (getBarrier s 0 3).count ∧ (getBarrier p 0 3).arrived + 1 ≠ (getBarrier p 0 3).count
    ∧ (getBarrier start 0 3).count = 0 ∧ start.th.ih = false
    ∧ ((getBarrier p 0 3).phase - 1 - lo32 (p.x 0)).toNat < 2 ^ 31 ∧ 2 ^ 31 ≤ ((getBarrier start 0 3).phase - 1 - lo32 (start.x 0)).toNat := by decide

theorem test_meets_MessageAndSharedRegisters :
    let s := start.setTh { start.th with m := [(7, 5)] }
    AMap.find s.th.m 7 = some 5 ∧ AMap.find s.th.m 0 = none := by decide

/-- A good and a bad address; a message on its way to a live thread of the same owner, and one to nobody. -/
theorem test_meets_SendsAreAnsweredAndDelivered :
    let s := regs [(2, 0), (3, 0x400000), (4, 0x3FFFF8)]
    let u := after (exec (.send 2 5 7) s)
    let v := after (exec (.send 4 5 7) s)
    let a := after (exec (.sendArrives u.nextMsg) u)
    let l := after (exec (.ldD 5 2 0) (regs [(2, windowVa 95 0)]))
    let b := after (exec (.stD 2 2 0) { setThread l 1 (regs [(2, windowVa 95 0)]).th with cur := 1 })
    (s.x 2).toNat < 2 ^ 22 ∧ networkFull s (tagCluster s.cur) = false ∧ releaseDone (released s) s.cur = true ∧ 2 ^ 22 ≤ (s.x 3).toNat ∧ s.th.ih = false
    ∧ (b.x 0).toNat < 2 ^ 22 ∧ networkFull b (tagCluster b.cur) = false ∧ releaseDone (released b) b.cur = false
    ∧ (∀ m ∈ u.messages, u.messages.find? (fun q => q.num == m.num && !q.accepted) = some m ∧ u.cur = m.sender ∧ u.th.park = .send m.num
        ∧ targetGood u m.target (ownerOf u m.sender) = true) ∧ u.messages.length = 1
    ∧ (∀ m ∈ v.messages, v.messages.find? (fun q => q.num == m.num && !q.accepted) = some m ∧ v.cur = m.sender ∧ v.th.park = .send m.num
        ∧ targetGood v m.target (ownerOf v m.sender) = false) ∧ v.messages.length = 1 ∧ a.cur = 0 := by decide

def message : Message := { num := 7, sender := 16, addr := 0, target := 0, reg := 7, value := 9, clock := [], accepted := true, held := false, issued := 0, crew := 0 }

theorem test_meets_SendsAreAnsweredAndDelivered_delivery :
    let s := { start with messages := [message] }
    let f := { start.setTh { start.th with m := [(7, 1)] } with messages := [message] }
    s.messages.find? (fun q => q.num == 7 && q.accepted) = some message ∧ canFill s message = true
    ∧ f.messages.find? (fun q => q.num == 7 && q.accepted) = some message ∧ canFill f message = false ∧ message.held = false
    ∧ earlierMessage f message = false ∧ (getThread f message.target).live = true ∧ (heldOn f (tagCore message.target)).length < 16 := by decide

/-- Channel 1 of cluster 0's task table: entry address 0x400, valid, any core. -/
def taskReady (s : State) : State := setCluster s 0 { getCluster s 0 with tasks := [(2, 0x400), (3, 0xA000000000000000)] }

def aSpawn : Spawn := { num := 5, sender := 99, cluster := 0, channel := 1, words := [7], clock := [], answered := false, issued := 0, crew := 0, owner := 1 }

/-- The instruction, an arriving spawn whose sender waits, and a pending one. -/
theorem test_meets_SpawnsStartTasks :
    let s := taskReady (regs [(2, 1)])
    let v := setThread { s with spawns := [aSpawn] } 99 { live := true, park := .spawn 5 }
    let u := resumeSender { v with spawns := v.spawns.filter fun q => q.num != 5 } aSpawn.sender 5
    let w := setCluster s 0 { getCluster s 0 with pendingQ := [aSpawn] }
    (s.x 2).toNat < 2 ^ 22 ∧ (s.x 2).toNat / 2 ^ 8 % 2 ^ 6 = 0 ∧ networkFull s (tagCluster s.cur) = false ∧ (2 : BitVec 2) ≠ 3
    ∧ releaseDone (released s) s.cur = true ∧ (behindLoad.x 0).toNat < 2 ^ 22 ∧ (behindLoad.x 0).toNat / 2 ^ 8 % 2 ^ 6 = 0
    ∧ networkFull behindLoad (tagCluster behindLoad.cur) = false ∧ releaseDone (released behindLoad) behindLoad.cur = false
    ∧ ((regs [(2, 0x100)]).x 2).toNat / 2 ^ 8 % 2 ^ 6 ≠ 0 ∧ s.th.ih = false
    ∧ v.spawns.find? (fun q => q.num == 5) = some aSpawn ∧ holder v aSpawn.cluster = some aSpawn.owner
    ∧ earlierSpawn u { aSpawn with answered := true } = false ∧ spawnPlace u { aSpawn with answered := true } = some (0, 1)
    ∧ (∀ q ∈ (getCluster v aSpawn.cluster).pendingQ, q.channel ≠ aSpawn.channel ∧ spawnPlace u q = none) ∧ coreTag 0 1 ≠ aSpawn.sender
    ∧ (getThread v aSpawn.sender).park = .spawn 5
    ∧ (pendingOrder w 0).find? (fun q => (spawnPlace w q).isSome) = some aSpawn ∧ spawnPlace w aSpawn = some (0, 1) := by decide

def spillCrew : Crew := { placedCrew 0 with spillVa := 0x10000, spillDecl := 1, spillCur := 1, spillWr := 0xFFA0 }

/-- An overdue message: written to its crew's area at the area's last place; in the engine; and the oldest entry of an area. -/
theorem test_meets_SpilledMessages :
    let m := { message with sender := 0 }
    let s0 := setCrew (mapped { start with board := { start.board with clk := 1024 } }) 0 spillCrew
    let s := { s0 with messages := [m] }
    let e := setCluster s0 0 { getCluster s0 0 with spill := [.message m] }
    let e2 := setCluster e 0 { getCluster e 0 with spillTried := e.board.clk }
    let a := setCrew s0 0 { spillCrew with spilled := [.message m] }
    let a3 := setCrew a 0 { spillCrew with spilled := [] }
    Inv s ∧ Inv e ∧ Inv a ∧ spillCrew.cluster = tagCluster m.sender ∧ (∀ j ∈ (getCluster s (tagCluster m.sender)).spill, j.sameTarget (.message m) = false)
    ∧ s.messages.find? (fun q => q.num == 7 && q.accepted) = some m ∧ m.issued + 1024 ≤ s.board.clk ∧ getCrew s m.crew = some spillCrew
    ∧ (getCluster s (tagCluster m.sender)).spill.length < 64 ∧ 0x40 + spillCrew.spillWr + 32 ≤ spillCrew.spillCur * 2 ^ 16
    ∧ (getCluster s (tagCluster m.sender)).spill = [] ∧ overtakes s (.message m) = false
    ∧ spillReach s (tagCluster m.sender) spillCrew.owner spillCrew.spillVa = .good (leafKey 0x10000 0xD1E0000000020000 false)
    ∧ spillReach s (tagCluster m.sender) spillCrew.owner (spillCrew.spillVa + BitVec.ofNat 64 (0x40 + spillCrew.spillWr))
        = .good (leafKey 0x1FFE0 0xD1E0000000020000 false)
    ∧ spillCrew.spillVa.toNat % 2 ^ 16 = 0 ∧ 0x40 + spillCrew.spillWr + 32 ≤ 2 ^ 16 ∧ spillCrew.spillWr % 32 = 0
    ∧ (getCluster e 0).spill = [.message m] ∧ (getCluster e 0).spillTried + 1024 ≤ e.board.clk ∧ getCrew e m.crew = some spillCrew
    ∧ (∀ i ∈ spillCrew.spilled, i.sameTarget (.message m) = false) ∧ itemLost e2 spillCrew.owner (.message m) = false ∧ canFill e2 m = true
    ∧ getCrew a 0 = some { spillCrew with spilled := [.message m] } ∧ areaTouched a { spillCrew with spilled := [.message m] } (.message m) = false
    ∧ itemLost a3 spillCrew.owner (.message m) = false ∧ canFill a3 m = true := by decide

/-- A resident image of function id 3 with two arguments and one result. -/
def image : Image :=
  { fid := 3, h0 := 0, h1 := 0x12, h2 := 0, copies := [], entry := [], tags := [], evPend := false, broken := false, closed := false, reload := 0,
    gen := 0, calls := 0, poisoned := 0, lastUse := 0, loadClk := 0, launch := none, tilesLeft := 0, stalled := none, squashed := [],
    agent := 0, clock := [] }

def served (s : State) : State := setCluster s 0 { getCluster s 0 with images := [(0, image)] }

/-- A resident and an absent image; a call that fits (result in x31) and one with an argument too few; a form past x31. -/
theorem test_meets_ServerInstructions :
    let s := served start
    resident s (tagCluster s.cur) ((0 : BitVec 2) ++ (3 : BitVec 10)) = some (0, image) ∧ callMismatch image ((1 : BitVec 3).toNat + 1) 31 = false
    ∧ callMismatch image ((0 : BitVec 3).toNat + 1) 31 = true ∧ (30 : Reg).toNat + (1 : BitVec 3).toNat ≤ 31
    ∧ 31 < (31 : Reg).toNat + (1 : BitVec 3).toNat ∧ s.th.ih = false
    ∧ ((imagesOn s (tagCluster s.cur) image.server).map fun y => y.entry.length).sum < 64
    ∧ resident s (tagCluster s.cur) ((1 : BitVec 2) ++ (3 : BitVec 10)) = none ∧ (getCluster s (tagCluster s.cur)).misses.length < 64
    ∧ (∀ y ∈ (getCluster s (tagCluster s.cur)).images, y.2.evPend = false) ∧ coreDone (stored s) (tagCore s.cur) = true
    ∧ (let b := served behindLoad; resident b (tagCluster b.cur) ((0 : BitVec 2) ++ (3 : BitVec 10)) = some (0, image)
      ∧ resident b (tagCluster b.cur) ((1 : BitVec 2) ++ (3 : BitVec 10)) = none ∧ (getCluster b (tagCluster b.cur)).misses = []
      ∧ coreDone (stored b) (tagCore b.cur) = false)
    ∧ resident s (tagCluster s.cur) ((s.x 2).setWidth 12) = none
    ∧ (let r := served (regs [(2, 0x1003)]); resident r (tagCluster r.cur) ((r.x 2).setWidth 12) = some (0, image)) := by decide

def aPacket : Packet := { num := 6, tag := 0, dest := 9, faults := [], answers := [], stores := [], stores2 := [], bd := false, admitted := 0, clock := [] }

/-- Images that are quiescent and busy; an absent one. -/
theorem test_meets_ServerInstructions_images :
    let s := served (regs [(2, 0x1003)])
    let cl := getCluster s (tagCluster s.cur)
    resident s (tagCluster s.cur) ((s.x 2).setWidth 12) = some (0, image) ∧ resident s (tagCluster s.cur) ((s.x 3).setWidth 12) = none
    ∧ (∀ l ∈ cl.loads, l.fid ≠ (s.x 3).setWidth 12) ∧ (∀ m ∈ cl.misses, m.fid ≠ (s.x 3).setWidth 12) ∧ cl.misses.length < 64
    ∧ (∀ y ∈ cl.images, y.2.evPend = true → y.2.busy cl = true) ∧ image.busy cl = false
    ∧ (let j := { image with tags := [aPacket] }; let t := setCluster s 0 { cl with images := [(0, j)] }
      resident t 0 ((t.x 2).setWidth 12) = some (0, j) ∧ j.busy (getCluster t 0) = true)
    ∧ (29 : Reg).toNat ≤ 29 ∧ 29 < (30 : Reg).toNat ∧ s.th.ih = false := by decide

/-- A state with the drain descriptor `w0` at offset 0x100 of the own scratchpad. -/
def drained (w0 : Nat) : State := word (regs [(2, own 0x10000), (3, own 0x100), (4, 0x100), (5, 0x220010)]) 0x100 w0

def aVoyage : Voyage :=
  { descVa := 0x10000, desc := { w0 := 0x1E0000000000 }, owner := 1, record := none, thread := some 0, threadAgent := 1, crew := some 0, phase := .halfSteps,
    tally := 0, zeroed := true, fetched := true, half := 0, port := [], stbd := [], entries := [], ready := [], counted := 0, missed := 0,
    skipped := 0, reckoned := 0, reckon := [], reckonAt := 0, lostTask := false, void := false, badTile := false, wasStopped := false,
    stopping := false, parked := none, failure := none, clock := [], agent := 0 }

def sailing (s : State) : State := setCluster s 0 { getCluster s 0 with voyage := some aVoyage }

/-- A store into a bay, on its way when a voyage begins. -/
theorem test_meets_RemoteStoresArriveLater_bay :
    let v := sailing (after (exec (.stD 2 2 0) (regs [(2, windowVa 95 0x28000)])))
    Inv v ∧ v.posted.length = 1 ∧ ∀ p ∈ v.posted, v.posted.find? (fun q => q.num == p.num) = some p ∧ postedFirst v p = true
      ∧ inActiveBay v p.addr p.bytes.length = true ∧ v.threads.find? (fun e => e.2.live && e.2.agent == p.agent) = some (0, getThread v 0)
      ∧ (getThread v 0).deferred.length < 8 := by decide

/-- K = 256 for e4m3 operands, K = 16 with 2 of 2 planes for 4-bit-by-plane operands, a drain with the least stride and with stride 0; a bank that
a voyage reserves, a pair that does not go together, operands outside the own scratchpad. -/
theorem test_meets_TileInstructionsAreChecked :
    let s := drained (0x3F800000 * 2 ^ 32 + 64)
    let s0 := drained (0x3F800000 * 2 ^ 32)
    let W := fun (t : State) (j : Nat) => ofBytes (t.bytesAt 8 (padKey 0 (0x100 + 8 * j)))
    bankTaken s 3 = false ∧ (getCore s (tagCore s.cur)).tiles.length < 4
    ∧ ownExtent s.cur (s.x 2) 1024 64 = some 0x10000
    ∧ pairGood 2 3 = true ∧ (s.x 4).toNat % 2 ^ 16 = 256 ∧ (s.x 4).toNat < 2 ^ 24
    ∧ (s.x 4).toNat / 2 ^ 16 % 16 = 0 ∧ (s.x 4).toNat / 2 ^ 20 % 16 = 0
    ∧ ownExtent s.cur (s.x 2) (16 * 256 * elemBytes 2) 64 = some 0x10000 ∧ ownExtent s.cur (s.x 3) (16 * 256 * elemBytes 3) 64 = some 0x100
    ∧ pairGood 0 6 = true ∧ (s.x 5).toNat % 2 ^ 16 = 16 ∧ (s.x 5).toNat / 2 ^ 16 % 16 = 2 ∧ (s.x 5).toNat / 2 ^ 20 % 16 = 2
    ∧ ownExtent s.cur (s.x 2) (16 * 16 * elemBytes 0) 64 = some 0x10000 ∧ ownExtent s.cur (s.x 3) (16 / 16 * (64 + 64 * 2)) 64 = some 0x100
    ∧ ownExtent s.cur (s.x 3) 32 32 = some 0x100 ∧ padBlocked s s.cur false 0x100 32 = false
    ∧ W s 0 % 2 ^ 16 = 16 * drainBytes 5 ∧ W s 0 / 2 ^ 16 % 2 ^ 11 = 0 ∧ W s 3 = 0 ∧ W s 0 % 2 ^ 16 % 16 = 0 ∧ W s 0 / 2 ^ 31 % 2 = 0 ∧ W s 0 / 2 ^ 27 % 2 = 0
    ∧ voyageActive s (tagCluster s.cur) = false ∧ ownExtent s.cur (s.x 2) (15 * 64 + 16 * drainBytes 5) 16 = some 0x10000
    ∧ W s0 0 % 2 ^ 16 = 0 ∧ W s0 0 / 2 ^ 16 % 2 ^ 11 = 0 ∧ ownExtent s0.cur (s0.x 2) (15 * (16 * drainBytes 5) + 16 * drainBytes 5) 16 = some 0x10000
    ∧ s.th.ih = false ∧ bankTaken (sailing s) 3 = true ∧ pairGood 0 1 = false ∧ ownExtent s.cur (s.x 4) 1024 64 = none
    ∧ ownExtent s.cur (s.x 5) 32 32 = none := by decide

/-- A good voyage descriptor in memory, and a page of it; a voyage already under way; a bad address; a thread with a sighting. -/
theorem test_meets_VoyageInstructions :
    let desc : Word := 0x20000000000000
    let s0 := mapped (regs [(2, 0x10000), (3, 0x10001)])
    let s := { s0 with mem := memSetN s0.mem (leafKey 0x10000 0xD1E0000000020000 false) (bytesOf 8 desc.toNat) }
    let u := released s
    let got := engineWords u 0 none (ownerOf s s.cur) u.th.clock .both 8 (s.x 2) [] false
    let h : HeldSighting := { entry := 0, released := false, missed := true, reckon := false }
    (s.x 2).toNat % 64 = 0 ∧ (s.x 2).toNat < 2 ^ 55 ∧ voyageTaken u (tagCluster s.cur) = false
    ∧ (match got with | .got bs false => descError (words8Of (wordsOf 8 bs)) (s.x 2) == 0 && (words8Of (wordsOf 8 bs)).w0 == desc | _ => false) = true
    ∧ voyageTaken (released (sailing s)) (tagCluster s.cur) = true ∧ releaseDone u s.cur = true ∧ releaseDone (released (sailing s)) s.cur = true
    ∧ (behindLoad.x 0).toNat % 64 = 0 ∧ (behindLoad.x 0).toNat < 2 ^ 55 ∧ releaseDone (released behindLoad) behindLoad.cur = false ∧ (sailing s).th.ih = false ∧ ¬((s.x 3).toNat % 64 = 0 ∧ (s.x 3).toNat < 2 ^ 55)
    ∧ (s.setTh { s.th with sighting := some h }).th.sighting = some h ∧ s.th.sighting = none := by decide

/-- Drains with biases and a flag word, before a voyage and under one, outside the bays and with the destination or the flag word in one. -/
theorem test_meets_TileInstructionsAreChecked_drain :
    let w0 := 0x3F800000 * 2 ^ 32 + 2 ^ 31 + 2 ^ 27 + 64
    let d := fun (dst fl : Nat) => word (word (word (regs [(2, own dst), (3, own 0x100)]) 0x100 w0) 0x108 (0xC2 * 2 ^ 56 + 0x200)) 0x110 (0xC2 * 2 ^ 56 + fl)
    let half := fun (t : State) => setCluster t 0 { getCluster t 0 with voyage := some { aVoyage with desc := { w0 := 0x20000000000 } } }
    let w := fun (t : State) (j : Nat) => BitVec.ofNat 64 (ofBytes (t.bytesAt 8 (padKey 0 (0x100 + 8 * j))))
    let good := fun (t : State) (dst fl : Nat) => ownExtent t.cur (t.x 3) 32 32 = some 0x100 ∧ padBlocked t t.cur false 0x100 32 = false
      ∧ (w t 0).toNat / 2 ^ 16 % 2 ^ 11 = 0 ∧ w t 3 = 0 ∧ (w t 0).toNat % 2 ^ 16 = 64 ∧ (w t 0).toNat / 2 ^ 31 % 2 = 1 ∧ (w t 0).toNat / 2 ^ 27 % 2 = 1
      ∧ ownExtent t.cur (w t 1) 64 64 = some 0x200 ∧ ownExtent t.cur (w t 2) 8 8 = some fl
      ∧ ownExtent t.cur (t.x 2) (15 * 64 + 16 * drainBytes 5) 16 = some dst
    let ext := 15 * 64 + 16 * drainBytes 5
    good (d 0x10000 0x300) 0x10000 0x300 ∧ voyageActive (d 0x10000 0x300) 0 = false ∧ bankTaken (d 0x10000 0x300) 1 = false
    ∧ (∀ p ∈ ([(0x10000, 0x300), (0x28000, 0x300), (0x10000, 0x28000)] : List (Nat × Nat)), good (half (d p.1 p.2)) p.1 p.2 ∧ voyageActive (half (d p.1 p.2)) 0 = true
        ∧ bankTaken (half (d p.1 p.2)) 1 = false ∧ (half (d p.1 p.2)).th.ih = false)
    ∧ inBay 0x10000 ext = false ∧ inBay 0x300 8 = false ∧ inBay 0x28000 ext = true ∧ inBay 0x28000 8 = true := by decide
def hi (op ctr flags loc len xtra : Nat) : Word := BitVec.ofNat 64 (op * 2 ^ 56 + ctr * 2 ^ 52 + flags * 2 ^ 49 + loc * 2 ^ 23 + len * 32 + xtra)

/-- A running command of thread 0, and a state in which it is at the head of queue 0 of core 0. -/
def cmd (h l : Word) : Command := { newCommand start h l with phase := .running }
def headed (s : State) (m : Command) : State := setCore s 0 { getCore s 0 with e0 := [m] }

def group (g : HaloGroup) (s : State) (k : Nat) : State := setCore s k { getCore s k with halo := [(1, g)] }

/-- A `get` of the last 8 bytes with a response, counted in n3 and held while n3 drains; and one whose length is no multiple of 8. -/
theorem test_meets_CommandsAreIssued :
    let s := regs [(2, windowVa 95 0x2FFF8), (3, hi 1 3 4 0x2FFF8 8 0), (4, hi 1 0 2 0x2FFF0 12 0)]
    let d := setCounter s 0 3 { drain := true, pend := 1, value := 0 }
    let k := tagCore s.cur
    let m := newCommand s (s.x 3) (s.x 2)
    commandGood s s.cur m = true ∧ m.rsp = true ∧ m.nc = false ∧ m.ctr = 3 ∧ ((getCore s k).queue 2).length < 8 ∧ (getCore s k).responses.length < 128
    ∧ releaseDone (released s) s.cur = true
    ∧ (let b := behindLoad.setTh { behindLoad.th with x := s.th.x }
      commandGood b b.cur (newCommand b (b.x 3) (b.x 2)) = true ∧ ((getCore b 0).queue 2).length < 8 ∧ (getCore b 0).responses.length < 128 ∧ releaseDone (released b) b.cur = false)
    ∧ commandGood d d.cur m = true ∧ (getCounter d (coreCluster k) m.ctr).drain = true
    ∧ commandGood s s.cur (newCommand s (s.x 4) (s.x 2)) = false ∧ s.th.ih = false := by decide

theorem test_meets_ResponsesAndCounters :
    let s := setCounter (regs [(2, 0xFFFFFFFFFFFF), (3, 0x1000000000001)]) 0 3 { drain := false, pend := 1, value := 0xFFFFFFFFFFFE }
    let e := fun (v : Option Word) => { num := 4, tag := 0, element := v, clock := [] : ResponseEntry }
    let r := fun (v : Option Word) => setCore s 0 { getCore s 0 with responses := [e v] }
    oldestResponse s s.cur = none ∧ oldestResponse (r (some 7)) 0 = some (e (some 7)) ∧ (e (some 7)).element = some 7
    ∧ oldestResponse (r none) 0 = some (e none) ∧ (e none).element = none
    ∧ coreDone (stored s) 0 = true ∧ controlAhead (stored s) s.cur = false ∧ coreDone (stored behindLoad) 0 = false
    ∧ ((s.x 3).setWidth 48 : BitVec 48).toNat ≤ (getCounter s (tagCluster s.cur) 3).value.toNat
    ∧ (getCounter s (tagCluster s.cur) 3).value.toNat < ((s.x 2).setWidth 48 : BitVec 48).toNat := by decide

theorem test_meets_SystemRegisters : 9 < (10 : Reg).toNat ∧ start.th.ih = false ∧ ((2 : Reg).toNat < 3 ∨ 8 < (2 : Reg).toNat)
    ∧ ((9 : Reg).toNat < 3 ∨ 8 < (9 : Reg).toNat) := by decide

theorem test_meets_TrapsAndReturns : start.th.ih = false ∧ (start.setTh { start.th with tstat := 1 }).th.ih = true := by decide

/-- A full message register; nothing to wait for; a thread that may exit, and one whose tile instruction is still queued; a trap in a handler. -/
theorem test_meets_ParkExitAndDeferredTraps :
    let s := start.setTh { start.th with m := [(7, 5)] }
    let q := setCore start 0 { getCore start 0 with tiles := [{ op := .zero 0, tag := 0 }] }
    let h := start.setTh { start.th with tstat := 1 }
    let d := start.setTh { start.th with deferred := [{ cause := 3, tval := 9 }] }
    let w := fun (a b : Option Word) => { placedCrew 0 with event0A := a, event0B := b }
    let e := fun (a b : Option Word) => setCrew start 0 (w a b)
    AMap.find s.th.m 7 = some 5 ∧ (∀ j, j < 8 → AMap.find start.th.m j = none) ∧ start.th.deferred = [] ∧ eventPending start start.cur = false
    ∧ releaseDone (released start) start.cur = true ∧ allSpilled start = []
    ∧ canExit behindLoad behindLoad.cur = true ∧ releaseDone (released behindLoad) behindLoad.cur = false
    ∧ canExit start start.cur = true ∧ start.th.sighting = none ∧ canExit q q.cur = false ∧ exitHeld q q.cur = false
    ∧ h.th.ih = true ∧ h.th.live = true ∧ getCrew h h.th.crew = some (placedCrew 0) ∧ AMap.find h.records (placedCrew 0).record = some (placedRecord 0)
    ∧ (placedRecord 0).phase.final = false ∧ (placedRecord 0).ending = none ∧ mayChange h (.handler h.th.crew) = true
    ∧ mayChange { h with helm := { h.helm with heldBack := [.retire 0] } } (.handler h.th.crew) = false
    ∧ canTakeDeferred d d.cur = true ∧ d.th.deferred = [{ cause := 3, tval := 9 }]
    ∧ getCrew (e (some 1) (some 2)) 0 = some (w (some 1) (some 2)) ∧ eventThread (e (some 1) (some 2)) 0 = some 0
    ∧ (w (some 1) (some 2)).phase = .running ∧ canTakeEvent (getThread (e (some 1) (some 2)) 0) = true
    ∧ getCrew (e (some 1) none) 0 = some (w (some 1) none) ∧ eventThread (e (some 1) none) 0 = some 0 := by decide

/-- The first 256 and the last 8 of 264 bytes, at the ends of two scratchpads; a `copy` to a third core and a `fill`, each in its first turn and a later one. -/
theorem test_meets_TransfersMoveBytes :
    let far := windowVa 95 0x2FEF8
    let dst := (windowVa 94 0).toNat
    let m := fun (op p : Nat) (l : List Nat) => { cmd (hi op 0 0 0x2FEF8 264 0) far with progress := p, listed := l }
    let s := fun (c : Command) => headed start c
    let d := word (s (m 5 0 [])) 0x2FEF8 dst
    let f := word (s (m 6 0 [])) 0x2FEF8 9
    Inv start
    ∧ (∀ op ∈ [1, 2], ∀ p ∈ [0, 256], (m op p []).lo = windowVa 95 0x2FEF8 ∧ (m op p []).rem = false ∧ (m op p []).len = 264 ∧ (m op p []).loc = 0x2FEF8
        ∧ runningOp (s (m op p [])) 0 0 op = some (m op p []) ∧ voyageActive (s (m op p [])) 0 = false ∧ (s (m op p [])).poison = []
        ∧ Unhindered (s (m op p [])) (m op p []).agent (m op p []).clock)
    ∧ 0x2FEF8 + 264 ≤ 0x30000 ∧ (264 : Nat) % 8 = 0
    ∧ Inv d ∧ runningOp d 0 0 5 = some (m 5 0 []) ∧ ofBytes (d.bytesAt 8 (padKey 0 0x2FEF8)) = dst ∧ Unhindered d (m 5 0 []).agent (m 5 0 []).clock
    ∧ runningOp (s (m 5 256 [dst])) 0 0 5 = some (m 5 256 [dst]) ∧ (95 : Nat) ≠ 94
    ∧ Inv f ∧ runningOp f 0 0 6 = some (m 6 0 []) ∧ ofBytes (f.bytesAt 8 (padKey 0 0x2FEF8)) = 9 ∧ Unhindered f (m 6 0 []).agent (m 6 0 []).clock
    ∧ runningOp (s (m 6 256 [9, 0])) 0 0 6 = some (m 6 256 [9, 0]) := by decide

/-- A command of 16 bytes, the first 8 moved, and its state. -/
def half16 (op loc : Nat) (lo : Word) : Command := { cmd (hi op 0 0 loc 16 0) lo with progress := 8 }
def at16 (op loc : Nat) (lo : Word) : State := headed start (half16 op loc lo)

/-- An address that is no cell's, and the last words of a scratchpad under a bay. -/
def badVa : Word := 0xC100000000800000
def bayVa : Word := windowVa 94 0x28000

def reads16 (op loc : Nat) (lo : Word) (x : Side) : Got :=
  sideRead (at16 op loc lo) 0 (commandOwner (at16 op loc lo) (half16 op loc lo)) (half16 op loc lo).clock x
def noWrite16 (op loc : Nat) (lo : Word) (x : Side) : Bool :=
  decide (sideReach (at16 op loc lo) 0 (commandOwner (at16 op loc lo) (half16 op loc lo)) x 8 .write = .denied) && !(half16 op loc lo).rem
def stop16 (s : State) (far : Bool) (m : Command) : Option Word :=
  bayStop s 0 16 8 (fun m => some (if far then m.farAt m.progress else .near (ownVa (m.loc + m.progress)))) m

/-- Transfers whose own side ends the scratchpad or whose far side is denied. -/
theorem test_meets_FaultingTransfersStop :
    (∀ op ∈ [1, 2, 6], runningOp (at16 op 0 badVa) 0 0 op = some (half16 op 0 badVa) ∧ (half16 op 0 badVa).progress < (half16 op 0 badVa).len
      ∧ (getThread (at16 op 0 badVa) (half16 op 0 badVa).tag).live = true ∧ (getThread (at16 op 0 badVa) 0).agent = (half16 op 0 badVa).agentOf
      ∧ (getThread (at16 op 0 badVa) 0).deferred.length < 8 ∧ ownWaits (at16 op 0 badVa) 0 (half16 op 0 badVa) = false
      ∧ poisoned (at16 op 0 badVa) (padKey 0 0) 8 = false ∧ stop16 (at16 op 0 badVa) true (half16 op 0 badVa) = none
      ∧ stop16 (at16 op 0 badVa) false (half16 op 0 badVa) = none)
    ∧ reads16 1 0 badVa ((half16 1 0 badVa).farAt 8) = .denied (badVa + 8)
    ∧ reads16 1 0x2FFF8 (windowVa 95 0) ((half16 1 0x2FFF8 (windowVa 95 0)).farAt 8) = .got (bytesOf 8 0) false
    ∧ noWrite16 1 0x2FFF8 (windowVa 95 0) (.near (ownVa 0x30000)) = true
    ∧ reads16 2 0x2FFF8 (windowVa 95 0) (.near (ownVa 0x30000)) = .denied (ownVa 0x30000)
    ∧ reads16 2 0 badVa (.near (ownVa 8)) = .got (bytesOf 8 0) false
    ∧ noWrite16 2 0 badVa ((half16 2 0 badVa).farAt 8) = true ∧ noWrite16 6 0 badVa ((half16 6 0 badVa).farAt 8) = true := by decide

/-- Transfers into a bay under a voyage. -/
theorem test_meets_FaultingTransfersStop_bay :
    runningOp (sailing (at16 1 0x28000 (windowVa 95 0))) 0 0 1 = some (half16 1 0x28000 (windowVa 95 0))
    ∧ stop16 (sailing (at16 1 0x28000 (windowVa 95 0))) false (half16 1 0x28000 (windowVa 95 0)) = some (ownVa 0x28008)
    ∧ ∀ op ∈ [2, 6], runningOp (sailing (at16 op 0 bayVa)) 0 0 op = some (half16 op 0 bayVa)
      ∧ stop16 (sailing (at16 op 0 bayVa)) true (half16 op 0 bayVa) = some (bayVa + 8) := by decide

/-- A `copy` of 16 bytes with the destination word `d`, in its first turn. -/
def copies (lo : Word) : Command := cmd (hi 5 0 0 0x100 16 0) lo
def copying (lo : Word) (d : Nat) : State := word (headed start (copies lo)) 0x100 d
def padDest : Nat := (windowVa 94 0).toNat
def bayDest : Nat := (windowVa 94 0x28000).toNat
def copyStop (s : State) (lo : Word) (d : Nat) : Option Word :=
  bayStop s 0 16 8 (fun c => some (.near (BitVec.ofNat 64 (d + copyAt 0 c d)))) (copies lo)

/-- Copies whose destination word is none, whose source is denied and whose destination is denied. -/
theorem test_meets_FaultingTransfersStop_copy :
    (∀ p ∈ [(windowVa 95 0, 0x4000000000000001), (badVa, padDest), (windowVa 95 0, badVa.toNat)], runningOp (copying p.1 p.2) 0 0 5 = some (copies p.1)
      ∧ ownWaits (copying p.1 p.2) 0 (copies p.1) = false ∧ poisoned (copying p.1 p.2) (padKey 0 (copies p.1).loc) 8 = false ∧ (copies p.1).listed = []
      ∧ (copies p.1).progress = 0) := by decide

def copyRead (lo : Word) (d : Nat) : Got := sideRead (copying lo d) 0 (commandOwner (copying lo d) (copies lo)) (copies lo).clock ((copies lo).farAt 0)

/-- Their destination words, what they read and write; and a copy whose destination is a bay. -/
theorem test_meets_FaultingTransfersStop_word :
    (∀ p ∈ [(windowVa 95 0, 0x4000000000000001), (badVa, padDest), (windowVa 95 0, badVa.toNat)],
      ofBytes ((copying p.1 p.2).bytesAt 8 (padKey 0 (copies p.1).loc)) = p.2 ∧ copyAt 0 (copies p.1) p.2 = 0)
    ∧ copyDest 0x4000000000000001 = false ∧ copyDest padDest = true ∧ copyDest badVa.toNat = true
    ∧ copyStop (copying badVa padDest) badVa padDest = none ∧ copyStop (copying (windowVa 95 0) badVa.toNat) (windowVa 95 0) badVa.toNat = none
    ∧ copyRead badVa padDest = .denied badVa ∧ (match copyRead (windowVa 95 0) badVa.toNat with | .got bs _ => bs.length == 8 | _ => false) = true
    ∧ sideReach (copying (windowVa 95 0) badVa.toNat) 0 (commandOwner start (copies 0)) (.near badVa) 8 .write = .denied
    ∧ runningOp (sailing (copying (windowVa 95 0) bayDest)) 0 0 5 = some (copies (windowVa 95 0)) ∧ copyDest bayDest = true
    ∧ copyStop (sailing (copying (windowVa 95 0) bayDest)) (windowVa 95 0) bayDest = some bayVa := by decide

/-- `s` with an index list at 0x1000 of its scratchpad. -/
def withList (s : State) (ixs : List Nat) : State :=
  { s with mem := memSetN s.mem (padKey 0 0x1000) (bytesOf 8 ixs.length ++ ixs.flatMap (bytesOf 4)) }

/-- Two listed elements of 8 bytes at the far end and the pad index; 32 sums of 8 bytes. -/
theorem test_meets_IndexedAndReducingTransfers :
    let ixs := [0, padIndex, 1]
    let g := fun (op : Nat) => cmd (BitVec.ofNat 64 (op * 2 ^ 56 + 0x2FFE8 * 2 ^ 23 + 0x200 * 2 ^ 8)) (windowVa 95 0x2FFF0)
    let s := fun (op : Nat) => withList (headed start (g op)) ixs
    let entry := fun (x : Nat) => ofBytes ((s 3).bytesAt 4 (padKey 0 (0x1000 + x)))
    let r := cmd (hi 7 0 0 0x2FF00 256 2) (windowVa 95 0x2FF00)
    (∀ op ∈ [3, 4], Inv (s op) ∧ runningOp (s op) 0 0 op = some (g op) ∧ (g op).esize = 8 ∧ (g op).loc + ixs.length * (g op).esize ≤ 0x30000
        ∧ (g op).lo = windowVa 95 0x2FFF0 ∧ (g op).rem = false ∧ (g op).progress = 0 ∧ (g op).loc % 8 = 0 ∧ (g op).listed = [] ∧ (g op).ilist = 0x1000
        ∧ Unhindered (s op) (g op).agent (g op).clock)
    ∧ entry 0 = 3 ∧ (List.range 3).map (fun k => entry (8 + 4 * k)) = ixs
    ∧ (∀ i ∈ ixs, i ≠ padIndex → 0x2FFF0 + i * 8 + 8 ≤ 0x30000) ∧ ixs.length * 8 ≤ 256 ∧ (ixs.filter fun i => i ≠ padIndex).Nodup
    ∧ voyageActive (s 3) 0 = false ∧ (s 3).poison = [] ∧ (95 : Nat) ≠ 0 % 128
    ∧ runningOp (headed start r) 0 0 7 = some r ∧ r.len = 32 * 8 ∧ r.xtra % 4 = 2 ∧ r.loc + r.len ≤ 0x30000 ∧ r.rem = false ∧ r.progress = 0
    ∧ 0x2FF00 + r.len ≤ 0x30000 ∧ r.lo = windowVa 95 0x2FF00 ∧ Inv (headed start r) ∧ Unhindered (headed start r) r.agent r.clock := by decide

/-- Two elements of 2 bytes, of which one is 0: index list only, with values, and with nothing but zeros; a `probe` of one element. -/
theorem test_meets_ScanAndProbe :
    let m := fun (val : Nat) => cmd (hi 0x18 0 0 0x100 2 0) (BitVec.ofNat 64 (0x2FFF0 + val * 2 ^ 19 + 0x200 * 2 ^ 20))
    let s := fun (val v : Nat) => word (headed start (m val)) 0x100 v
    let nz := fun (val v : Nat) => (List.range 2).filter fun i => !scanZero 0 (ofBytes ((s val v).bytesAt 2 (padKey 0 (0x100 + i * 2))))
    let p := cmd (BitVec.ofNat 64 (0x20 * 2 ^ 56 + 0x200 * 2 ^ 8 + 7)) 0x10000
    let t := withList (mapped (headed start p)) [0x3FF]
    let entry := fun (x : Nat) => ofBytes (t.bytesAt 4 (padKey 0 (0x1000 + x)))
    let e : TlbEntry := { owner := 1, vpn := 1, big := false, pte := 0xD1E0000000020000 }
    (∀ val ∈ [0, 1], runningOp (s val 0x3C000000) 0 0 0x18 = some (m val) ∧ bitAt (m val).lo 19 = decide (val = 1) ∧ nz val 0x3C000000 = [1]
        ∧ nz val 0x80000000 = [] ∧ voyageActive (s val 0x3C000000) 0 = false ∧ (s val 0x3C000000).poison = [] ∧ (m val).len = 2 ∧ (m val).xtra = 0
        ∧ bits (m val).lo 17 0 + 16 = 0x30000 ∧ bits (m val).lo 37 20 = 0x200)
    ∧ Inv (s 1 0x3C000000) ∧ Unhindered (s 1 0x3C000000) (m 1).agent (m 1).clock
    ∧ Unhindered t p.agent p.clock ∧ p.listed = [] ∧ p.ilist = 0x1000 ∧ entry 0 = 1 ∧ entry 8 = 0x3FF ∧ t.poison = []
    ∧ runningOp (mapped (headed start { p with listed := [1, 0x3FF] })) 0 0 0x20 = some { p with listed := [1, 0x3FF] }
    ∧ runningOp t 0 0 0x20 = some p ∧ p.esize = 64 ∧ p.rem = false ∧ p.status = 0 ∧ (0x3FF : Nat) ≠ padIndex
    ∧ spaceOf 0 (some 0) (p.lo + BitVec.ofNat 64 (0x3FF * p.esize)) 1 = .global
    ∧ pageOf (p.lo + BitVec.ofNat 64 (0x3FF * p.esize) + BitVec.ofNat 64 (p.esize - 1)) = pageOf (p.lo + BitVec.ofNat 64 (0x3FF * p.esize))
    ∧ (getCluster t 0).l1.find? (fun x => x.hits (commandOwner t p) 1) = some e ∧ e.big = false ∧ pteRd e.pte = true := by decide
/-- Core 95 of cluster 0 belongs to crew 0 too, and core 95 of cluster 1 to crew 1 of the same gang. -/
def ganged (s : State) : State :=
  setCrew (setCrew (setCore s 95 { getCore s 95 with crew := some 0 }) 0 { placedCrew 0 with gang := true, cores := [0, 95] }) 1
    { placedCrew 0 with gang := true, index := 1, cluster := 1, cores := [223] }

/-- A `halo` descriptor of one face to core 95, one row of 8 bytes from the last word to the last word, one face expected. -/
def haloWords (s : State) : State := word (word (word s 0x100 9) 0x110 (95 + 0x2FFF8 * 2 ^ 16 + 0x2FFF8 * 2 ^ 34)) 0x118 (8 + 2 ^ 18)

def lastOf95 : Nat := 95 + 0x2FFF8 * 2 ^ 18

/-- A `chain` of 8 bytes to core 95 twice, with this working list. -/
def chained (l : List Nat) : Command := { cmd (hi 8 0 0 0x100 8 0) 0x200 with listed := l, progress := 8 }
def chaining (l : List Nat) : State := ganged (headed start (chained l))

/-- The last unit of the last core of a chain, with units to come and with none; a chain's first turn. -/
theorem test_meets_ChainHaloAndBind :
    let c0 := word (word (word (chaining []) 0x200 2) 0x208 lastOf95) 0x210 lastOf95
    let w := fun (i : Nat) => ofBytes (c0.bytesAt 8 (padKey 0 (0x200 + 8 * i)))
    (∀ l ∈ [[2, lastOf95, lastOf95, 1, 0, 77, 0], [2, lastOf95, lastOf95, 1, 1, 77, 0]],
      runningOp (chaining l) 0 0 8 = some (chained l) ∧ Inv (chaining l) ∧ (chaining l).poison = [] ∧ chainGood (chaining l) 0 (chained l) lastOf95 = true
        ∧ Unhindered (chaining l) (chained l).agent (chained l).clock)
    ∧ (chained []).len = 8 ∧ bits (chained []).lo 17 0 = 0x200 ∧ runningOp c0 0 0 8 = some (chained []) ∧ Inv c0 ∧ c0.poison = [] ∧ w 0 = 2 ∧ w 1 = lastOf95 ∧ w 2 = lastOf95
    ∧ chainGood c0 0 (chained []) lastOf95 = true ∧ Unhindered c0 (chained []).agent (chained []).clock := by decide

def haloCmd : Command := cmd (hi 0x10 0 0 0x100 0 1) 0
def haloed : State := haloWords (ganged (headed start haloCmd))
def firstFace (s : State) (m : Command) : Face := faceOf ((readHalo s 0 m).getD 2 0) ((readHalo s 0 m).getD 3 0)

/-- A good halo descriptor, a bad one, and one with a face in a bay. -/
theorem test_meets_ChainHaloAndBind_halo :
    let hb := word (ganged (headed start haloCmd)) 0x100 7
    haloCmd.listed = [] ∧ (∀ s ∈ [haloed, hb, sailing haloed], runningOp s 0 0 0x10 = some haloCmd ∧ ownWaits s 0 haloCmd = false ∧ s.poison = [])
    ∧ (∀ s ∈ [haloed, sailing haloed], haloGood s 0 1 (commandOwner s haloCmd) haloCmd (readHalo s 0 haloCmd) = true)
    ∧ faceInBay haloed 0 (firstFace haloed haloCmd) = none ∧ (faceInBay (sailing haloed) 0 (firstFace haloed haloCmd)).isSome = true
    ∧ haloGood hb 0 1 (commandOwner hb haloCmd) haloCmd (readHalo hb 0 haloCmd) = false := by decide

/-- A face on its way. -/
theorem test_meets_ChainHaloAndBind_face :
    let fo := { haloCmd with listed := readHalo haloed 0 haloCmd }
    let t := haloWords (ganged (headed start fo))
    let f := faceOf (fo.listed.getD 2 0) (fo.listed.getD 3 0)
    Inv t ∧ runningOp t 0 0 0x10 = some fo ∧ t.poison = [] ∧ fo.listed ≠ [] ∧ 0 < haloFaces fo ∧ fo.progress.testBit 0 = false
    ∧ f.target 0 = 95 ∧ f.nr = 1 ∧ f.rb = 8 ∧ f.ro = 0x2FFF8 ∧ f.so = 0x2FFF8 ∧ coreHeld t 95 (commandOwner t fo) = true ∧ (getGroup t 95 1).inb < 255
    ∧ faceInBay t 0 f = none ∧ Unhindered t fo.agent fo.clock := by decide

/-- A `bind` that is first, one that is second, one to a core of no gang, and releases: of a group that is not bound, of one whose partner is of the gang with and
without a face in flight between them, and of one whose partner is not. -/
theorem test_meets_ChainHaloAndBind_bind :
    let bi := fun (u : Nat) => cmd (BitVec.ofNat 64 (0x11 * 2 ^ 56 + 2 ^ 49 + 2 ^ 41 + (95 + 128 * u) * 32 + 1)) 0
    let b := ganged (headed start (bi 1))
    let b2 := group { bpend := true, ccl := 0, cdie := 0, ccore := 0 } b 223
    runningOp (headed start (bi 0)) 0 0 0x11 = some (bi 0) ∧ (bi 0).hi.getLsbD 12 = false
    ∧ runningOp b 0 0 0x11 = some (bi 1) ∧ (bi 1).hi.getLsbD 12 = true ∧ (bi 1).listed = [] ∧ bindTarget (bi 1) = 223 ∧ sameGang b 0 223 = true
    ∧ (getGroup b 0 1).bound = false ∧ (getGroup b 0 1).bpend = false ∧ circuits b 0 < 16 ∧ circuits b 1 < 16
    ∧ ((getGroup b 223 1).bpend && (getGroup b 223 1).names 0) = false
    ∧ runningOp b2 0 0 0x11 = some (bi 1) ∧ sameGang b2 0 223 = true ∧ circuits b2 1 < 16 ∧ ((getGroup b2 223 1).bpend && (getGroup b2 223 1).names 0) = true
    ∧ (getGroup (headed start (bi 0)) 0 1).bound = false
    ∧ (let r : HaloGroup := { bound := true, ccl := 1, cdie := 0, ccore := 95 }
      let fl := { cmd (hi 0x10 0 0 0x100 0 1) 0 with listed := [9, 0, 95 + 128 + 2 ^ 11, 0] }
      let g := group r (ganged (headed start (bi 0))) 0
      let f := setCore g 0 { getCore g 0 with e1 := [fl] }
      let l := group r (headed start (bi 0)) 0
      r.partner = 223 ∧ (∀ s ∈ [g, f, l], runningOp s 0 0 0x11 = some (bi 0) ∧ (getGroup s 0 1).bound = true ∧ (getGroup s 0 1).partner = 223)
      ∧ sameGang g 0 (bindTarget (bi 0)) = true ∧ sameGang f 0 (bindTarget (bi 0)) = true ∧ sameGang l 0 (bindTarget (bi 0)) = false
      ∧ faceFlies g 1 0 223 = false ∧ faceFlies g 1 223 0 = false ∧ faceFlies f 1 0 223 = true)
    ∧ runningOp (headed start (bi 1)) 0 0 0x11 = some (bi 1) ∧ sameGang (headed start (bi 1)) 0 223 = false := by decide

/-- Two halos of one group at the heads of two queues, the second not started; a command whose data have moved, with its counter and response; a
`halo` and a `bind` whose waits are over. -/
theorem test_meets_CommandsStartAndComplete :
    let ho := { cmd (hi 0x10 3 4 0x100 0 1) 0 with listed := [9, 0, 0, 0], progress := 1, response := some 4 }
    let nxt := { ho with phase := .queued, listed := [], progress := 0 }
    let mv := { cmd (hi 1 3 4 0 8 0) 0 with phase := .moved, response := some 4 }
    let bi := { cmd (hi 0x11 0 3 0 (95 + 128) 1) 0 with listed := [1] }
    let r : ResponseEntry := { num := 4, tag := 0, element := none, clock := [] }
    let two := setCore start 0 { getCore start 0 with e0 := [nxt], e1 := [nxt] }
    let s := fun (m : Command) (g : HaloGroup) => setCore (setCounter start 0 3 { drain := false, pend := 1, value := 5 }) 0 { getCore start 0 with e0 := [m, nxt], responses := [r], halo := [(1, g)] }
    (getCore two 0).queue 0 = [nxt] ∧ nxt.phase = .queued ∧ nxt.op = 0x10
    ∧ (∀ o ∈ (getCore two 0).e0 ++ (getCore two 0).e1 ++ (getCore two 0).e2 ++ (getCore two 0).e3, o.op = 0x10 → o.xtra % 16 = nxt.xtra % 16 → nxt.agent ≤ o.agent)
    ∧ (let late := { nxt with agent := nxt.agent + 1 }; let t := setCore start 0 { getCore start 0 with e0 := [late], e1 := [nxt] }
      (getCore t 0).queue 0 = [late] ∧ late.phase = .queued ∧ ∃ o ∈ (getCore t 0).e0 ++ (getCore t 0).e1 ++ (getCore t 0).e2 ++ (getCore t 0).e3,
        o.op = 0x10 ∧ o.xtra % 16 = late.xtra % 16 ∧ o.agent < late.agent)
    ∧ dirtyOf (s mv {}) 0 mv.agent = false ∧ dirtyOf (flushAgent (s mv {}) 0 mv.agent) 0 mv.agent = false
    ∧ (let d := { s mv {} with writes := heldWrite.writes.map (fun w => { w with agent := mv.agent }), posted := heldWrite.posted }
      (getCore d 0).queue 0 = [mv, nxt] ∧ dirtyOf (flushAgent d 0 mv.agent) 0 mv.agent = true)
    ∧ (getCore (s mv {}) 0).queue 0 = [mv, nxt] ∧ mv.phase = .moved ∧ (getCounter (s mv {}) 0 mv.ctr).drain = false ∧ mv.nc = false ∧ mv.response = some 4
    ∧ haloDone (s ho { wait := true, wexp := 1, inb := 1 }) 0 ho = true ∧ ho.phase = .running ∧ (getCounter (s ho {}) 0 ho.ctr).drain = false
    ∧ bindDone (s bi { bound := true }) 0 bi = true ∧ bi.nc = true := by decide

/-- The module runs, owner 1 is live, and no record is. -/
def up : State := { start with records := [], crews := [] }

/-- `up` with a record in the queue 255 of owner 1. -/
def queued (s : State) (w : Words8) : State := setQueue s 255 { en := true, owner := 1, fifo := [w] }

def rec0 (k : Nat) : Word := BitVec.ofNat 64 (k * 2 ^ 60 + 0xFFF * 2 ^ 40 + 0xFFF * 2 ^ 28)

/-- Records of the six kinds that break no rule, and some that break one. -/
def goodRecord (k : Nat) : Words8 :=
  { w0 := rec0 k, w2 := if k = 3 then 1 else if k = 5 then 0x10000 else 0, w3 := if k ≤ 1 then BitVec.ofNat 64 (2 ^ 57 + 2 ^ 52 + 2 ^ 32) else if k = 5 then 128 else 0 }
def badRecord (k : Nat) : Words8 := { w0 := rec0 k, w3 := if k = 4 then 1 else 0, w2 := if k = 3 then 0 else if k = 2 then 32 else 0 }

theorem test_meets_QueuesAndRecords_taken :
    let q := fun (n : Nat) (e : Bool) => setQueue up 255 { en := e, owner := 1, fifo := List.replicate n (goodRecord 0) }
    (getQueue (q 63 true) 255).fifo.length < 64 ∧ (q 63 true).board.phase = .running ∧ ¬ (getQueue (q 64 true) 255).fifo.length < 64
    ∧ ¬ State.reset.board.phase = .running ∧ (getQueue (q 0 false) 255).en = false ∧ queueLive (q 0 false) 255 = false
    ∧ (getQueue (q 0 true) 255).en = true ∧ (getQueue (q 1 false) 255).en = false ∧ queueLive (q 1 false) 255 = true := by decide

/-- Posted is a store that happens before what the helm reads. -/
def unread (s : State) : State :=
  { s with posted := [{ num := 77, addr := 0, bytes := bytesOf 8 1, core := 5, agent := 9, stamp := 0, clock := [], rel := [], flagAt := none }] }

theorem test_meets_QueuesAndRecords :
    (∀ w ∈ [goodRecord 0, badRecord 0, goodRecord 1, badRecord 1, goodRecord 2, badRecord 2, goodRecord 3, badRecord 3, badRecord 4, badRecord 5, goodRecord 6],
      let s := queued up w
      Inv s ∧ (getQueue s 255).fifo = [w] ∧ s.board.phase = .running
        ∧ helmRuns s = true ∧ ∀ x ∈ s.records, x.2.phase.final = true)
    ∧ (∀ k, k < 6 → bits (goodRecord k).w0 63 60 = k ∧ bits (badRecord k).w0 63 60 = k
        ∧ readReason up (getQueue (queued up (goodRecord k)) 255) (goodRecord k) = 0 ∧ readReason up (getQueue (queued up (badRecord k)) 255) (badRecord k) ≠ 0)
    ∧ bits (goodRecord 6).w0 63 60 = 6
    ∧ (∀ k ∈ [4, 5], let s := queued up (badRecord k); allHome s (Clock.join (pilotClock s) ((getQueue s 255).fifoClk.headD [])) = true)
    ∧ (let s := unread (queued up (goodRecord 5)); Inv s ∧ (getQueue s 255).fifo = [goodRecord 5] ∧ s.board.phase = .running ∧ helmRuns s = true
      ∧ allHome s (Clock.join (pilotClock s) ((getQueue s 255).fifoClk.headD [])) = false) := by decide

/-- Owner 1's table maps its page 1 to frame 2, class home, open to every access, of the bridge and of peers. -/
def tables (s : State) : State :=
  setOwner { s with helm := { s.helm with privBase := 0x100, privSize := 3 },
                    mem := memSetN (memSetN (memSetN s.mem 0x1000000 (bytesOf 8 0x8000000001010000)) 0x1010000 (bytesOf 8 0x8000000001020000)) 0x1020008
                      (bytesOf 8 0xD1F0000000020000) } 1
    { getOwner s 1 with phase := .live, root := 0x100, peers := 0xFF }

/-- The page's bytes from its start. -/
def paged (s : State) (ws : List Word) : State :=
  { s with mem := memSetN s.mem (leafKey 0x10000 0xD1F0000000020000 false) (ws.flatMap fun w => bytesOf 8 w.toNat) }

def inl (x : Sum (List Words8) (BitVec 8 × BitVec 12)) : List Word := match x with | .inl l => l.map (·.w1) | .inr _ => []
def inr (x : Sum (List Words8) (BitVec 8 × BitVec 12)) : BitVec 8 × BitVec 12 := match x with | .inl _ => (0, 0) | .inr e => e

theorem test_meets_WaitsAndGraphs :
    let waiting := queued up { goodRecord 4 with w1 := 1 }
    let one := paged (tables up) [rec0 4, 1, 0, 0, 0, 0, 0, 0, rec0 4]
    let g := queued one (goodRecord 5)
    let bad := queued (paged (tables up) [rec0 6]) (goodRecord 5)
    let u := fun (s : State) => setQueue { s with helm := { s.helm with nextSeq := s.helm.nextSeq + 1, pilotClk := Clock.join s.helm.pilotClk ((getQueue s 255).fifoClk.headD []) } } 255
      { getQueue s 255 with fifo := [], fifoClk := (getQueue s 255).fifoClk.tail, lastSeq := BitVec.ofNat 48 s.helm.nextSeq }
    let outer := { newRecord 1 255 1 0 (goodRecord 5) 0xFFF 1 0 [] with phase := .running, arrayBase := some 2, arrayLen := 1 }
    let inner := newRecord 2 255 1 0 (goodRecord 5) 0 1 1 []
    let nest := fun (s : State) => { s with records := [(1, outer), (2, inner)], helm := { s.helm with nextSeq := 3 } }
    Inv g ∧ Inv bad ∧ Inv waiting ∧ helmRuns g = true ∧ helmRuns waiting = true ∧ waiting.helm.heldBack = [] ∧ (getQueue g 255).fifo = [goodRecord 5]
    ∧ readReason g (getQueue g 255) (goodRecord 5) = 0 ∧ (∀ x ∈ g.records, x.2.phase.final = true)
    ∧ readReason up (getQueue waiting 255) { goodRecord 4 with w1 := 1 } = 0 ∧ readReason up (getQueue (queued up (goodRecord 4)) 255) (goodRecord 4) = 0
    ∧ (up.helm.logHead - up.helm.logTail).toNat + 4 ≤ 2 ^ up.helm.logSize.toNat ∧ (0 - (goodRecord 4).w1.setWidth 32 : BitVec 32).toNat < 2 ^ 31
    ∧ ¬ (0 - (1 : Word).setWidth 32 : BitVec 32).toNat < 2 ^ 31
    ∧ inl (readArray (u g) 1 (goodRecord 5) 0) = [1, 0] ∧ inr (readArray (u bad) 1 (goodRecord 5) 0) = (1, 0)
    ∧ allHome g (Clock.join (pilotClock g) ((getQueue g 255).fifoClk.headD [])) = true ∧ allHome bad (Clock.join (pilotClock bad) ((getQueue bad 255).fifoClk.headD [])) = true
    ∧ allHome (nest one) (pilotClock (nest one)) = true ∧ allHome (nest bad) (pilotClock (nest bad)) = true
    ∧ Inv (nest one) ∧ helmRuns (nest one) = true
    ∧ AMap.find (nest one).records 2 = some inner ∧ inner.kind = 5 ∧ inner.arrayBase = none ∧ startable (nest one) inner = true
    ∧ inl (readArray (nest one) 1 inner.words inner.level) = [1, 0] ∧ inr (readArray (nest bad) 1 inner.words inner.level) = (1, 0) := by decide

theorem test_meets_LogbookAndAborts :
    let r := placedRecord 0
    let e := { r with ending := some (.aborted, 0x31) }
    let s := { start with crews := [], records := [(0, e)] }
    let x : LogEntry := { w0 := 2, w1 := 0, w2 := 0, w3 := 0 }
    let l := { up with helm := { up.helm with waiting := [x] } }
    Inv start
    ∧ AMap.find start.records 0 = some r ∧ r.phase.final = false ∧ r.ending = none ∧ childrenOf start 0 = [] ∧ start.records.length = 1
    ∧ AMap.find s.records 0 = some e ∧ e.ending = some (.aborted, 0x31) ∧ RecPhase.aborted.final = true ∧ e.phase.final = false ∧ workStopped s 0 = true
    ∧ childrenOf s 0 = [] ∧ mayChange s (.record 0) = true ∧ crewsOf s 0 = [] ∧ Inv s
    ∧ Inv l ∧ l.helm.waiting = [x] ∧ l.helm.snap = false ∧ (l.helm.logHead - (0 : Word).setWidth 32).toNat < 2 ^ l.helm.logSize.toNat ∧ (∀ y ∈ l.records, y.2.phase.final = true)
    ∧ (start.helm.logHead - ((-4096 : Word).setWidth 32)).toNat ≤ 2 ^ start.helm.logSize.toNat
    ∧ 2 ^ start.helm.logSize.toNat < (start.helm.logHead - ((-4097 : Word).setWidth 32)).toNat
    ∧ start.helm.snap = false ∧ start.helm.waiting = [] ∧ (start.helm.logHead - start.helm.logTail).toNat + 2 ≤ 2 ^ start.helm.logSize.toNat
    ∧ liveRecords start = [0] ∧ ({ start with helm := { start.helm with snap := true } }).helm.snap = true := by decide
/-- The last word of owner 1's page, through aperture 255, PCIe and a peer module; and the same page of class reconcile. -/
theorem test_meets_BridgeAccesses :
    let s := { tables up with helm := { (tables up).helm with apertures := [(255, 0x8008000000000000)] } }
    let r := { s with mem := memSetN s.mem 0x1020008 (bytesOf 8 0xC1F0000000020000) }
    let key := leafKey 0x1FFF8 0xD1F0000000020000 false
    let c := AMap.getD s.helm.apertures (255 : BitVec 8).toNat 0
    let keys := [key - 64, key - 56]
    let parts := wordParts 514 0x1FFB8 16
    let off := { s with board := { s.board with straps := { s.board.straps with pcie1 := 3 } } }
    bitAt c 63 = true ∧ (c.extractLsb' 51 12 : BitVec 12) = 1 ∧ apertureVa c 0x1FFF8 = 0x1FFF8
    ∧ scalarAccess (apertureVa c 0x1FFF8) 8 = true ∧ scalarAccess (apertureVa c 0x1FFF9) 8 = false
    ∧ poisoned s key 8 = false ∧ lineForeign s key (keyOf s 1) (bits (0x1FFF8 : Word) 54 6) = false
    ∧ poisoned r key 8 = false ∧ lineForeign r key (keyOf r 1) (bits (0x1FFF8 : Word) 54 6) = false
    ∧ Inv s
    ∧ Inv r
    ∧ portDisabled s 1 = false ∧ pcieSize 16 false [] = true ∧ pcieSize 16 true (List.replicate 16 7) = true ∧ keys.length = parts.length
    ∧ (parts.zip keys).Pairwise (fun a b => (a.2 + a.1.2 ≤ b.2 ∨ b.2 + b.1.2 ≤ a.2) ∧ (a.2 / 64 = b.2 / 64 → bits a.1.1 54 6 = bits b.1.1 54 6))
    ∧ (∀ e ∈ parts.zip keys, outerReach s 1 e.1.1 e.1.2 .read pteApt = some (.home e.2 none) ∧ outerReach s 1 e.1.1 e.1.2 .write pteApt = some (.home e.2 none)
      ∧ poisoned s e.2 e.1.2 = false ∧ lineForeign s e.2 (keyOf s 1) (bits e.1.1 54 6) = false)
    ∧ portDisabled off 1 = true ∧ pcieSize 513 true (List.replicate 513 7) = false ∧ pcieSize 4097 false [] = false
    ∧ (∃ p ∈ wordParts 514 0x1FFF8 16, outerReach s 1 p.1 p.2 .read pteApt = none)
    ∧ outerReach s 1 0x1FFF8 8 .read pteApt = some (.home key none) ∧ outerReach s 1 0x1FFF8 8 .write pteApt = some (.home key none)
    ∧ outerReach r 1 0x1FFF8 8 .write pteApt = some (.cached key none)
    ∧ bitAt (AMap.getD s.helm.apertures (0 : BitVec 8).toNat 0) 63 = false ∧ apertureVa c 0 = 0 ∧ outerReach s 1 0 8 .write pteApt = none
    ∧ meridianReach s 7 1 0x1FFF8 8 .read = some (.home key none) ∧ meridianReach s 7 1 0x1FFF8 8 .write = some (.home key none)
    ∧ meridianReach s 7 1 0x1FFF8 8 .both = some (.home key none) ∧ meridianReach s 7 2 0x1FFF8 8 .read = none := by decide

theorem test_meets_OwnerCommands :
    let p := { up with board := { up.board with routes := [7 * 16 + 15], ports := [(15, { lanes := 2 })] } }
    let x := fun (ph : OwnerPhase) => setOwner up 5 { phase := ph }
    let t : KeyTransfer := { isJoin := true, owner := 5, peer := 7, modes := 8, began := 0 }
    let b := fun (s : State) => { s with own := { s.own with busy := true, statOwner := 5 } }
    up.own.busy = false ∧ createFault up 2 8 = none ∧ pathTo p 7 = true ∧ createFault p 2 8 = none ∧ pathTo up 7 = false
    ∧ createFault up 1 8 = some 3 ∧ createFault up 2 0 = some 2 ∧ (getOwner p 1).phase = .live ∧ p.own.busy = false
    ∧ (∀ x ∈ up.records, x.2.phase.final = true) ∧ (8 : BitVec 6).getLsbD 3 = true ∧ (0 : BitVec 6).getLsbD 3 = false
    ∧ existFault up 2 = some 3 ∧ existFault (x .retiring) 5 = some 4
    ∧ (b (x .retiring)).own.busy = true ∧ (getOwner (b (x .retiring)) 5).phase = .retiring ∧ ownerRecords (b (x .retiring)) 5 = []
    ∧ ownerClusters (b (x .retiring)) 5 = [] ∧ (b (x .retiring)).own.statOwner = 5 ∧ (b up).own.busy = true
    ∧ (let q := { up with own := { up.own with transfer := some t }, board := { up.board with refclk := 10000000 } }
      q.own.transfer = some t ∧ t.owner = 5 ∧ t.peer = 7 ∧ t.began + 10000000 ≤ q.board.refclk) := by decide

/-- An answer of each function that a posted request waits for, and one that none does; a held request. -/
theorem test_meets_HostAnswers :
    let rec_ := fun (fn : Nat) => { w0 := BitVec.ofNat 64 (fn * 2 ^ 60 + 9), w1 := if fn = 0 then 0x8000000000000000 else 5 : Words8 }
    let q := fun (fn : Nat) (n : HostNeed) => { reqId := 9, need := n, body := rec_ fn : HostRequest }
    let on := fun (s : State) (fn : Nat) (n : HostNeed) => { s with req := { s.req with posted := [q fn n] } }
    let g : RecordState := { placedRecord 0 with words := { w0 := 0x1000000000000000, w3 := 0x0210000200000000 } }
    let gs : State := { start with records := [(0, g)] }
    let l : ImageLoad := { fid := 3, words := [], outcome := none, record := none, place := none, deferred := false, began := 0 }
    let i2 := { image with reload := 1 }
    let ld := setCluster up 0 { getCluster up 0 with loads := [l] }
    let im := setCluster up 0 { getCluster up 0 with images := [(4, i2)] }
    let ring := fun (held : List HostRequest) => { up with req := { up.req with reqHead := 0xFFFFFFFF, reqTail := 0xFFFFFFBF, held := held } }
    (∀ x ∈ up.req.posted, x.body.w0 ≠ (rec_ 0).w0)
    ∧ (on start 0 (.crewPlacement 0 0)).req.posted.find? (fun x => x.body.w0 == (rec_ 0).w0) = some (q 0 (.crewPlacement 0 0))
    ∧ Inv (on start 0 (.crewPlacement 0 0))
    ∧ AMap.find start.records 0 = some (placedRecord 0) ∧ bitAt (rec_ 0).w1 63 = true ∧ (placedRecord 0).kind = 0
    ∧ (on gs 0 (.crewPlacement 0 0)).req.posted.find? (fun x => x.body.w0 == (rec_ 0).w0) = some (q 0 (.crewPlacement 0 0))
    ∧ Inv (on gs 0 (.crewPlacement 0 0))
    ∧ AMap.find gs.records 0 = some g ∧ g.kind = 1 ∧ (1 < crewCount g.words ∧ 1 ≠ 0 ∧ AMap.find g.named 1 = none)
    ∧ (on ld 1 (.imagePlacement 0 1 3)).req.posted.find? (fun x => x.body.w0 == (rec_ 1).w0) = some (q 1 (.imagePlacement 0 1 3))
    ∧ bitAt (rec_ 1).w1 62 = false ∧ bitAt (rec_ 1).w1 63 = false ∧ (getCluster ld 0).loads = [l] ∧ l.fid = 3
    ∧ (on up 2 (.tierMigration 1)).req.posted.find? (fun x => x.body.w0 == (rec_ 2).w0) = some (q 2 (.tierMigration 1))
    ∧ (on start 4 (.spill 0 0)).req.posted.find? (fun x => x.body.w0 == (rec_ 4).w0) = some (q 4 (.spill 0 0))
    ∧ start.crews.find? (fun x => x.2.record == 0 && x.2.index == 0) = some (0, placedCrew 0) ∧ (placedCrew 0).spillCur < bits (rec_ 4).w1 31 0
    ∧ (on im 5 (.twinReload 0 3 2)).req.posted.find? (fun x => x.body.w0 == (rec_ 5).w0) = some (q 5 (.twinReload 0 3 2))
    ∧ resident im 0 3 = some (4, i2) ∧ i2.reload = 1 ∧ i2.evPend = false
    ∧ ((ring []).req.reqHead - ((0xFFFFFFC0 : Word).setWidth 32)).toNat < 2 ^ (ring []).req.reqSize.toNat
    ∧ (ring [q 0 (.tierMigration 1)]).req.held = [q 0 (.tierMigration 1)]
    ∧ (ring []).req.held = [] ∧ Inv (ring []) ∧ Inv (ring [q 0 (.tierMigration 1)])
    ∧ 2 ^ (ring []).req.reqSize.toNat < ((ring []).req.reqHead - ((0xFFFFFFBE : Word).setWidth 32)).toNat := by decide

/-- Thread 0 waits for its page 1 on a fault entry of die 0. -/
def aFault : FaultEntry := { owner := 1, page := 1, va := 0x10008, kind := 0, waiters := [{ who := .thread 0, va := 0x10008, kind := 0 }] }
def faulting (s : State) : State :=
  let t := setDie s 0 { getDie s 0 with faults := [aFault] }
  t.setTh { t.th with park := .fault }

theorem test_meets_InvalidationReplayAndDecline :
    let busy := fun (s : State) => { s with inv := { s.inv with invBusy := true, upto := 99, ranges := [(0, 2 ^ 60)] } }
    let u := after (exec (.stD 2 2 0) (regs [(2, windowVa 95 0)]))
    let s := faulting start
    let r := { s with inv := { s.inv with repBusy := true } }
    start.inv.invBusy = false ∧ (busy start).inv.invBusy = true ∧ accessesWait (busy start) = false ∧ accessesWait (busy u) = true
    ∧ (∀ e ∈ s.clusters, ∀ i ∈ e.2.images, i.2.evPend = false)
    ∧ s.inv.repBusy = false ∧ s.inv.repQ = [] ∧ (∀ k, k < 8 → (getDie s k).missQ = []) ∧ r.inv.repBusy = true ∧ r.inv.repQ.length < 4096
    ∧ (1 : BitVec 12) ∉ r.inv.repQ ∧ (∀ k, k < 8 → k ≠ 0 → ∀ g ∈ (getDie s k).faults, ¬(g.owner = 1 ∧ g.page = (1 : BitVec 39).toNat))
    ∧ (getDie s 0).faults = [aFault] ∧ aFault.owner = 1 ∧ aFault.page = (1 : BitVec 39).toNat ∧ aFault.waiters = [{ who := .thread 0, va := 0x10008, kind := 0 }]
    ∧ (getThread s 0).park = .fault ∧ (getThread s 0).ih = false ∧ (getThread s 0).stopped = false ∧ (∀ k, k < 8 → (getDie start k).faults = []) ∧ start.inv.repBusy = false := by decide

/-- A walk of thread 0 to a page that is mapped, to one that is not, and through a root outside the tables' memory; a line of a page in the TLB. -/
theorem test_meets_WalksEnd :
    let w := fun (page : Nat) => { owner := 1, page := page, va := BitVec.ofNat 64 (page * 2 ^ 16), kind := 0, starved := false, waiters := [{ who := .thread 0, va := BitVec.ofNat 64 (page * 2 ^ 16), kind := 0 }] : Walk }
    let d := fun (s : State) (page : Nat) (en : Bool) (head : BitVec 32) =>
      let t := setDie s 0 { getDie s 0 with walks := [w page], en := en, fbHead := head }
      t.setTh { t.th with park := .fault }
    let f0 := mapped (start.setTh { start.th with park := .fetch 0x7FF, pc := 0x1FFC0 })
    let f := setCore f0 0 { getCore f0 0 with icache := [] }
    let va : Word := BitVec.ofNat 64 (0x7FF * 64)
    (∀ page ∈ [0, 1], (getDie (d (tables start) page true 0) 0).walks.find? (fun x => x.owner == 1 && x.page == page) = some (w page))
    ∧ (getDie (d (tables start) 1 true 0) 0).missQ = [] ∧ (tables start).inv.repBusy = false ∧ (getThread (d (tables start) 1 true 0) 0).park = .fault ∧ (getThread (d (tables start) 1 true 0) 0).stopped = false
    ∧ Inv (tables start)
    ∧ (dieWalk (d (tables start) 1 true 0) 0 1 0x10000).1 = .leaf 0xD1F0000000020000 false ∧ (getDie (tables start) 0).l2.length < 32768
    ∧ (dieWalk (d (tables start) 0 true 0) 0 1 0).1 = .pageFault 3 ∧ (getDie (tables start) 0).faults.length < 4096
    ∧ bufferFull (getDie (d (tables start) 0 true 7) 0) = false ∧ bufferFull (getDie (d (tables start) 0 true 8) 0) = true
    ∧ (dieWalk (d start 1 true 0) 0 1 0x10000).1 = .accessFault ∧ (getThread (d start 1 true 0) 0).ih = false
    ∧ fetchers f 0 0x7FF = [0] ∧ (getCore f 0).icache = []
    ∧ (match engineRead f 0 none (ownerOf f 0) f.th.clock va 8 .exec with | .got bs _ => bs.length == 8 | _ => false) = true
    ∧ (match engineWords f 0 none (ownerOf f 0) f.th.clock .exec 8 va [] false with | .got bs false => bs.length == 64 | _ => false) = true := by decide

/-- Held, with an empty flash, in each boot mode; and after step 3. -/
theorem test_meets_ResetAndPowerUp :
    let three := { State.reset with board := { State.reset.board with phase := .powerUp 3 } }
    State.reset.board.phase = .held ∧ bootBank State.reset = none ∧ (0 : BitVec 9).toNat % 4 = 0 ∧ (1 : BitVec 9).toNat % 4 = 1 ∧ 2 ≤ (0x1FF : BitVec 9).toNat % 4
    ∧ State.reset.board.pwrgd48 = false ∧ start.board.phase ≠ .held ∧ three.board.phase = .powerUp 3 ∧ three.board.trainFail = none
    ∧ ({ three with board := { three.board with trainFail := some 63 } }).board.trainFail = some 63 := by decide

/-- A flash whose two banks hold an image without a body, with this digest. -/
def imageHeader : List Byte := bytesOf 8 fwMagic ++ [1]
def flashed (digest : List Byte) (hash : BitVec 512) : State :=
  { State.reset with board := { State.reset.board with flash := memSetN (memSetN (memSetN (memSetN [] 0 imageHeader) 64 digest) 0x2000000 imageHeader) 0x2000040 digest, fuseKeyHash := [(0, hash)] } }

/-- The digest of an empty body, as its bytes; any will do. -/
def emptyDigest : List Byte := List.replicate 64 0xCF

/-- Both banks of such a flash are good where that is their body's digest and the signature verifies: the two facts about the functions of
Config that the witness takes, since Config gives them no body. -/
theorem test_meets_goodBank (hd : Config.sha512 [] = BitVec.ofNat 512 (ofBytes emptyDigest))
    (hs : Config.ed25519Verify (Config.molnikarKey 0) (imageHeader ++ List.replicate 55 0 ++ emptyDigest ++ List.replicate 64 0) 0 = true) :
    let s := flashed emptyDigest (Config.sha512 (bytesOf 64 (Config.molnikarKey 0).toNat))
    bankGood s 0 = true ∧ bankGood s 1 = true ∧ (bootBank s).isSome = true := by
  have good : ∀ b, b < 2 → bankGood (flashed emptyDigest (Config.sha512 (bytesOf 64 (Config.molnikarKey 0).toNat))) b = true := by
    intro b hb
    have hf : ∀ h : BitVec 512, ∀ b, b < 2 → headerField (flashed emptyDigest h) b 0 8 = fwMagic ∧ headerField (flashed emptyDigest h) b 8 4 = 1
        ∧ headerField (flashed emptyDigest h) b 128 4 = 0 ∧ headerField (flashed emptyDigest h) b 12 4 = 0 ∧ headerField (flashed emptyDigest h) b 16 8 = 0
        ∧ headerField (flashed emptyDigest h) b 64 64 = ofBytes emptyDigest ∧ headerField (flashed emptyDigest h) b 192 64 = 0
        ∧ memGetN (flashed emptyDigest h).board.flash 192 (b * bankBytes) = imageHeader ++ List.replicate 55 0 ++ emptyDigest ++ List.replicate 64 0 := by
      intro h b hb
      exact (by decide : ∀ b, b < 2 → headerField (flashed emptyDigest 0) b 0 8 = fwMagic ∧ headerField (flashed emptyDigest 0) b 8 4 = 1
        ∧ headerField (flashed emptyDigest 0) b 128 4 = 0 ∧ headerField (flashed emptyDigest 0) b 12 4 = 0 ∧ headerField (flashed emptyDigest 0) b 16 8 = 0
        ∧ headerField (flashed emptyDigest 0) b 64 64 = ofBytes emptyDigest ∧ headerField (flashed emptyDigest 0) b 192 64 = 0
        ∧ memGetN (flashed emptyDigest 0).board.flash 192 (b * bankBytes) = imageHeader ++ List.replicate 55 0 ++ emptyDigest ++ List.replicate 64 0) b hb
    obtain ⟨h1, h2, h3, h4, h5, h6, h7, h8⟩ := hf (Config.sha512 (bytesOf 64 (Config.molnikarKey 0).toNat)) b hb
    have h0 : fwBody (flashed emptyDigest (Config.sha512 (bytesOf 64 (Config.molnikarKey 0).toNat))) b = [] := by
      simp only [fwBody, h5]; rfl
    generalize imageHeader ++ List.replicate 55 0 ++ emptyDigest ++ List.replicate 64 0 = signed at hs h8
    simp only [bankGood, h0, fwDigest, h1, h2, h3, h4, h5, h6, h7, h8, hd]
    simp [flashed, State.reset, AMap.getD, AMap.find]
    exact hs
  refine ⟨good 0 (by decide), good 1 (by decide), ?_⟩
  have h := good 0 (by decide)
  have h' : (flashed emptyDigest (Config.sha512 (bytesOf 64 (Config.molnikarKey 0).toNat))).board.bankSel.getD 0 = 0 := rfl
  simp only [bootBank, h', h, if_true, Option.isSome]

theorem test_meets_SensorsAndErrors :
    let p := fun (n : Nat) => { start with board := { start.board with ports := [(15, { lanes := n })] } }
    start.board.phase ≠ .held ∧ start.board.phase ≠ .tripped ∧ (8 : Nat) < 9 ∧ AMap.find (p 4).board.ports (15 : BitVec 4).toNat = some { lanes := 4 }
    ∧ AMap.find (p 2).board.ports (15 : BitVec 4).toNat = some { lanes := 2 } ∧ (2 ^ 46 - 1 : Nat) < 2 ^ 46
    ∧ inPrivate start ((2 ^ 46 - 1) / 64 * 64) 64 = false ∧ inPrivate start 0 64 = false := by decide

theorem test_meets_ManagementRequests :
    let s := fun (e : Bool) (boot : BitVec 2) (busy : Option Instr) (warm : Bool) => { start with board := { start.board with
      conns := [{ conn := 9, enrolled := e }], straps := { boot := boot }, mgmtBusy := busy, warmRunning := warm, enrolledKeys := [7] } }
    let full := { s true 1 none false with board := { (s true 1 none false).board with enrolledKeys := List.replicate 16 7 } }
    let c := fun (e : Bool) => { conn := 9, enrolled := e : MgmtConn }
    let w := fun (lf : Option Nat) => { s true 0 (some (.moduleReset 9 3 0)) true with board := { (s true 0 (some (.moduleReset 9 3 0)) true).board with retrains := [lf] } }
    mgmtUp start = true ∧ (s true 0 none false).board.enrolledKeys.contains 7 = true ∧ (s true 1 none false).board.straps.boot = 1
    ∧ (s true 0 none false).board.conns.length < 4 ∧ (∀ x ∈ (s true 0 none false).board.conns, x.conn ≠ 8) ∧ 4 ≤ (7 : Word).toNat ∧ (7 : Word).toNat ≤ 7
    ∧ (∀ e ∈ [true, false], (s e 0 none false).board.conns.find? (fun x => x.conn == 9) = some (c e) ∧ (c e).waiting = [] ∧ mgmtUp (s e 0 none false) = true
      ∧ (s e 0 none false).board.mgmtBusy = none ∧ (s e 0 none false).board.straps.boot ≠ 1)
    ∧ busyConn (.firmwareSelect 9 3 4 1) = some 9 ∧ busyConn (.moduleReset 8 3 0) ≠ some 9 ∧ (c true).enrolled = true ∧ (c false).enrolled = false
    ∧ full.board.straps.boot = 1 ∧ 16 ≤ full.board.enrolledKeys.length
    ∧ (4200 : BitVec 32).toNat ≤ 4200 ∧ 4200 < (4201 : BitVec 32).toNat ∧ (33554428 : BitVec 32).toNat + ([1, 2, 3, 4] : List Byte).length ≤ 2 ^ 25
    ∧ (s true 1 none false).board.enrolledKeys.contains 8 = false ∧ (s true 1 none false).board.enrolledKeys.length < 16
    ∧ (s true 0 (some (.firmwareSelect 9 3 4 1)) false).board.mgmtBusy = some (.firmwareSelect 9 3 4 1) ∧ (1 : BitVec 32).toNat < 2
    ∧ bankGood (s true 0 (some (.firmwareSelect 9 3 4 1)) false) 1 = false
    ∧ (s true 0 none false).board.phase = .running ∧ (∀ lf ∈ [none, some 63], (w lf).board.warmRunning = true ∧ (w lf).board.mgmtBusy = some (.moduleReset 9 3 0) ∧ (w lf).board.trainFail = none
      ∧ mgmtUp (w lf) = true ∧ (w lf).board.conns.find? (fun x => x.conn == 9) = some (c true) ∧ (w lf).board.retrains.headD none = lf) := by decide
/-- `start` with a record 1 of the given kind that waits for its placement, pinned to a cluster by its hint. -/
def pinned (k : Nat) (cl cores crews : Nat) : RecordState :=
  { newRecord 1 255 1 3 { w0 := rec0 k, w2 := if k = 3 then 0x0030000000000001 else 0x10000, w3 := BitVec.ofNat 64 (cores * 2 ^ 57 + 16 * 2 ^ 52 + crews * 2 ^ 32) } 0xFFF 1 0 [] with
    hintRead := some { w0 := BitVec.ofNat 64 (3 * 2 ^ 62 + cl * 2 ^ 46) } }
def waits (r : RecordState) (s : State) : State := { s with records := s.records ++ [(1, r)], helm := { s.helm with nextSeq := 2 } }

/-- A crew that fits on the pinned cluster 7 and one that does not fit on cluster 0; a gang of two. -/
theorem test_meets_UnitsArePlaced :
    let ok := fun (r : RecordState) (s : State) => Inv s ∧ AMap.find s.records 1 = some r
      ∧ considered s r = true ∧ helmRuns s = true ∧ s.board.phase = .running ∧ r.hintRead.isSome = true ∧ r.depA = 0xFFF ∧ r.depB = 0xFFF ∧ crewThreads r.words ≤ 16
    let crew := pinned 0 7 96 2
    let big := pinned 0 0 96 1
    let gang := pinned 1 7 48 2
    (ok crew (waits crew start) ∧ crew.chosen = [] ∧ 0 < unplaced crew ∧ hostPlaced (waits crew start) crew = false ∧ itsTurn (waits crew start) crew = true ∧ crew.kind = 0
      ∧ crewPlace (waits crew start) crew = some 7 ∧ needsScrub (waits crew start) 7 crew.owner = false)
    ∧ (ok big (waits big start) ∧ itsTurn (waits big start) big = true ∧ crewPlace (waits big start) big = none ∧ big.refusedAt = none)
    ∧ (ok gang (waits gang start) ∧ itsTurn (waits gang start) gang = true ∧ gang.kind = 1 ∧ gangPlaces (waits gang start) gang 2 [] = some [7, 7]
      ∧ crewCount gang.words = 2 ∧ needsScrub (waits gang start) 7 gang.owner = false) := by decide +kernel

/-- A STREAM and a VOYAGE with their clusters decided for, the latter with a good descriptor in memory. -/
theorem test_meets_UnitsArePlaced_sites :
    let st := { pinned 3 0 0 0 with chosen := [0] }
    let vo := { pinned 2 0 0 0 with chosen := [0] }
    let s := waits st start
    let v0 := waits vo (mapped start)
    let v := { v0 with mem := memSetN v0.mem (leafKey 0x10000 0xD1E0000000020000 false) (bytesOf 8 0x20000000000000) }
    let u := (admitSite v vo 0).1
    Inv s ∧ considered s st = true ∧ st.kind = 3 ∧ freeFor s 0 st.owner = true ∧ scrubbed s st = true ∧ (∀ l ∈ (getCluster s 0).loads, l.record ≠ some 1) ∧ st.hintRead.isSome = true
    ∧ considered v vo = true ∧ vo.kind = 2 ∧ freeFor v 0 vo.owner = true ∧ scrubbed v vo = true ∧ voyageTaken v 0 = false ∧ vo.phase = .accepted ∧ mayChange u (.record 1) = true ∧ vo.words.w2 = 0x10000
    ∧ Inv v
    ∧ (match engineWords u 0 none vo.owner vo.clk .both 8 vo.words.w2 [] false with
      | .got bs false => descError (words8Of (wordsOf 8 bs)) vo.words.w2 == 0 | _ => false) = true := by decide +kernel

/-- A record that has waited longer than HAGE and HPREEMPT, beside crew 0 of priority 0; that crew stopped, saved, and done; a cluster that is being scrubbed. -/
theorem test_meets_CrewsComeAndGo :
    let r := { pinned 0 0 96 1 with refusedAt := some 0 }
    let s := waits r { start with board := { start.board with refclk := 10000000 }, helm := { start.helm with saveSize := 1000 } }
    let stop := setCrew (start.setTh { start.th with stopped := true }) 0 { placedCrew 0 with phase := .stopping }
    let vc : SavedCore := { core := 0, state := {}, threads := [(3, { live := true })], pad := {} }
    let v : Save := { cores := [vc], block := none, chart := {}, units := 1, base := 0, clock := [] }
    let w := { placedCrew 0 with phase := .saved, save := some v }
    let sv := setCore (setCrew { start with threads := [] } 0 w) 0 {}
    let done := { start with threads := [] }
    let two := setCrew done 1 { placedCrew 0 with index := 1 }
    AMap.find s.records 1 = some r ∧ considered s r = true ∧ refusedFor s r s.helm.hage.toNat = true ∧ (∀ x ∈ s.reserves, x.record ≠ 1) ∧ 0 < unplaced r
    ∧ r.chosen = [] ∧ preemptWait s r.prio ≠ 0 ∧ refusedFor s r (preemptWait s r.prio) = true ∧ (∀ x ∈ s.preempting, x.record ≠ 1) ∧ r.kind = 0
    ∧ cheapestSet s r 1 = some ([0], [0]) ∧ poolUsed s + planUnits s r [0] [0] ≤ s.helm.saveSize.toNat ∧ planHeld s [0] [0] = false ∧ getCrew s 0 = some (placedCrew 0)
    ∧ getCrew stop 0 = some { placedCrew 0 with phase := .stopping } ∧ savable stop 0 { placedCrew 0 with phase := .stopping } = true
    ∧ getCrew sv 0 = some w ∧ w.phase = .saved ∧ w.gang = false ∧ w.save = some v ∧ v.cores = [vc] ∧ vc.threads = [(3, { live := true })]
    ∧ groupFits sv [(0, w)] = true ∧ higherPlaceable sv w.prio w.cluster = false ∧ (∀ k ∈ w.cores, (getCore sv k).waiters = []) ∧ (getCluster sv w.cluster).scrubbing = false ∧ needsScrub sv w.cluster w.owner = false
    ∧ Inv done
    ∧ getCrew done 0 = some (placedCrew 0) ∧ crewDone done 0 (placedCrew 0) = true ∧ mayChange done (.retire 0) = true ∧ AMap.find done.records 0 = some (placedRecord 0)
    ∧ (placedRecord 0).phase.final = false ∧ (∀ x ∈ done.crews, x.2.record = 0 → x.1 = 0) ∧ (placedRecord 0).crewsLeft = 0
    ∧ crewDone two 0 (placedCrew 0) = true ∧ mayChange two (.retire 0) = true ∧ (∃ x ∈ two.crews, x.2.record = 0 ∧ x.1 ≠ 0)
    ∧ (getCluster (setCluster start 0 { scrubbing := true }) 0).scrubbing = true := by decide +kernel

/-- The end of an epoch, a step before it, and a move of page 1 to the other tier. -/
theorem test_meets_PagesMigrate :
    let m : PageMove := { owner := 1, page := 1, toDdr := true, frame := 2 }
    let t0 := tables up
    let t := { t0 with moves := [m], board := { t0.board with tier2On := true, dimms := (List.range 16).map fun c => (c, true, 256) } }
    let p : Word := 0xD1F0000000020000
    let p' := p ^^^ BitVec.ofNat 64 (2 ^ 59)
    up.board.phase = .running ∧ up.helm.epochEnd ≤ up.board.refclk ∧ (∀ x ∈ liveOwners up, (getOwner up x).modes.getLsbD 2 = false) ∧ liveOwners up = [1]
    ∧ ({ up with helm := { up.helm with epochEnd := 1 } }).board.refclk < 1
    ∧ Inv t
    ∧ t.moves.find? (fun x => x.owner == 1) = some m ∧ m.page = (1 : BitVec 39).toNat ∧ leafOf t 1 1 = some (p, false) ∧ leafAddress t 1 0x10000 false = some 0x1020008
    ∧ pteTier p ≠ m.toDdr ∧ ptePin p = false ∧ leafGood t 0x10000 p' false = true ∧ leafKey 0x10000 p false + 2 ^ 16 ≤ leafKey 0x10000 p' false := by decide
/-! #### Images, tiles and voyages -/

/-- A serve image of function id 3, by its words: one compute context at cell (0, 0) fed by argument 0, whose output 0 is result 0 (R349–R353, R369). -/
def imageWords (w : Nat) : List Word :=
  [BitVec.ofNat 64 (2 ^ 51 + w * 2 ^ 48 + 3 * 2 ^ 36 + 2 ^ 32 + 0x49465856), BitVec.ofNat 64 (2 ^ 35 + 2 ^ 24 + 0x11), 0x78, 0, 0, 0, 0, 0,
   0, 0, 0, 0, 0x8110000000000000, BitVec.ofNat 64 (2 * 2 ^ 28 + 8 * 2 ^ 9), BitVec.ofNat 64 (2 * 2 ^ 28 + 8 * 2 ^ 22)]
def raw : Raw := ⟨3, imageWords 1⟩

/-- The image, placed at a page of a server. -/
def placedImage (ps : List (Nat × Nat)) : Image := { image with h0 := raw.w 0, h1 := raw.w 1, h2 := raw.w 2, copies := ps.map fun a => raw.place a.1 a.2 0 }

def withImage (i : Image) (s : State) : State := setCluster s 0 { getCluster s 0 with images := [(4, i)] }
def waitsFor (s : State) : State := s.setTh { s.th with park := .serve }
def aCall : CallReq := { num := 5, tag := 0, fid := 3, dest := 9, nargs := 1, args := [7], clock := [] }
def aTok : Tok := ⟨.data, 5, 6, []⟩

/-- A drain's descriptors with and without biases and flag word; products with and without a digit code 10. -/
theorem test_meets_TileInstructionsRun :
    let e := fun (op : TileOp) => { op := op, tag := 0 : TileEntry }
    let c := fun (op : TileOp) (busy : Bool) => setCore start 0 { getCore start 0 with tiles := [e op, e (.zero 1)], tileBusy := busy }
    let planes : Mma := ⟨0, 6, 0, 0x1000, 16, 2, 2⟩
    let rd := fun (v : Nat) (off n : Nat) => ofBytes ((word start 0x1040 v).bytesAt n (padKey 0 off))
    (getCore (c (.zero 3) false) 0).tileBusy = false ∧ (getCore (c (.zero 3) false) 0).ringBusy = false ∧ ringWants (c (.zero 3) false) 0 = false
    ∧ tileWaits (c (.zero 3) false) 0 (e (.zero 3)) = false
    ∧ (∀ op ∈ [TileOp.zero 3, .load 3 0x2FC00, .mma 3 4 4 0 0x1000 256 0 0, .mma 3 0 6 0 0x1000 16 2 2, .drain 3 5 0 0x3F800000 none true true false none 64,
        .drain 3 2 0 0x3F800000 none false false true none 16, .drain 3 5 0 0x3F800000 (some 0x1000) false false false (some 0x2000) 64],
      (getCore (c op true) 0).tileBusy = true ∧ (getCore (c op true) 0).ringBusy = false ∧ (getCore (c op true) 0).tiles = [e op, e (.zero 1)]
        ∧ (e op).latched = [] ∧ (getCore (c op true) 0).rows = 0 ∧ (voyageMask (c op true) (coreCluster 0)).testBit 3 = false ∧ Inv (c op true))
    ∧ 16 * drainBytes 5 ≤ 64 ∧ 16 * drainBytes 2 ≤ 16 ∧ planes.badDigit (rd 0) = false ∧ planes.badDigit (rd 0xAAAAAAAAAAAAAAAA) = true
    ∧ (getCore (setCore start 0 { getCore start 0 with ringBusy := true }) 0).ringBusy = true := by decide +kernel

/-- A waiting call, a packet with its result, one with a fault, one that is too old; a cell that may fire and one that may switch. -/
theorem test_meets_ServersServe :
    let i := placedImage [(0, 0)]
    let out := fun (l : LinkState) => if l.dport == 8 then { l with toks := [aTok] } else l
    let y := { raw.place 0 0 0 with links := raw.links.map out }
    let ready := { i with copies := [y], tags := [aPacket] }
    let bad := { ready with tags := [{ aPacket with faults := [(1, 0x10000, [])] }] }
    let called := { i with entry := [aCall] }
    let s := fun (i : Image) => withImage i (waitsFor { start with board := { start.board with clk := 1048576 } })
    let fed := { i with copies := [(raw.place 0 0 0).giveArgs [7] 6] }
    let p := (raw.place 0 0 0).giveArgs [7] 6
    let sw := { p with ctxs := p.ctxs.map fun k => { k with ctx := 1 }, links := p.links.map fun l => { l with desc := l.desc ||| BitVec.ofNat 64 (if l.dport == 0 then 2 ^ 20 else 2 ^ 7) } }
    let switching := { i with copies := [sw] }
    resident (s called) 0 3 = some (4, called) ∧ (nextCall (s called) 0 0).map (·.2) = some aCall ∧ admissible (s called) 0 0 called aCall.args = true ∧ (∀ y ∈ called.copies, ∀ l ∈ y.links, l.slots ≠ 0) ∧ (getCluster (s called) 0).misses = []
    ∧ resident (s ready) 0 3 = some (4, ready) ∧ ready.stream = false ∧ y.results i.nRes = [some aTok] ∧ aTok.kind = .data ∧ ready.squashed = [] ∧ aPacket.faults = [] ∧ aPacket.stores = []
    ∧ aPacket.bd = false ∧ callerWaits (s ready) 0 = true ∧ (getThread (s ready) 0).clock = aPacket.clock
    ∧ resident (s bad) 0 3 = some (4, bad) ∧ callerWaits (s bad) 0 = true ∧ (getThread (s bad) 0).ih = false ∧ aPacket.admitted + 1048576 ≤ (s ready).board.clk
    ∧ (cellOwner (s fed) 0 0 0).map (fun x => (x.1, x.2.1)) = some (fed, 0) ∧ fed.live = true ∧ sectionHeld (s fed) fed = false ∧ fed.argsDue = [] ∧ confirmCell (s fed) 0 fed 0 0 = fed
    ∧ (∀ i ∈ [called, ready, bad, fed, switching], ∀ w ∈ (getCluster (s i) 0).images, w.2.evPend = false) ∧ fed.copies[0]? = some p
    ∧ fed.launch = none
    ∧ (match p.cellTurn (fabOf (s fed) 0 fed 0) 0 with
      | .fire x a => !x.mem && (fireCompute (fabOf (s fed) 0 fed 0) p x a).bd.isNone && (fireCompute (fabOf (s fed) 0 fed 0) p x a).copy.links.all (fun l => l.slots != 0)
      | _ => false) = true
    ∧ confirmCell (s switching) 0 switching 0 0 = switching ∧ (match sw.cellTurn (fabOf (s switching) 0 switching 0) 0 with | .switch 1 => true | _ => false) = true := by decide +kernel

/-- A consumer endpoint at cell (1, 0) of a section's image, whose other side's count stands in the own scratchpad's window. -/
theorem test_meets_ServersServe_endpoint :
    let word : BitVec 256 := BitVec.ofNat 256 (2 ^ 255 + 4 * 2 ^ 252 + 2 ^ 223 + 2 ^ 221)
    let k := raw.context { col := 1, row := 0, ctx := 0, mem := true, rest := 0, word := word }
    let z := { raw.place 0 0 0 with ctxs := [{ k with base0 := some 0x10100 }] }
    let i := { placedImage [(0, 0)] with h0 := raw.w 0 ||| BitVec.ofNat 64 (2 ^ 55), copies := [z], launch := some 0, tilesLeft := 1 }
    let s := mapped (withImage i start)
    (cellOwner s 0 0 1).map (fun x => (x.1, x.2.1)) = some (i, 0) ∧ i.live = true ∧ (waitingEndpoint z 1).map (·.seenCount) = some 0
    ∧ (match waitingEndpoint z 1 with
      | some x => (match endpointPoll s 0 i 0 z x with
        | .done s' i' => i'.fid == i.fid && decide (resident s' 0 i.fid = some (4, i)) && (getCluster s' 0).images.all (fun w => !w.2.evPend) && !i'.evPend
        | .other _ => false)
      | none => false) = true := by decide +kernel

/-- A FIFO at cell (1, 0) with a word at its input. -/
theorem test_meets_ServersServe_memory :
    let word : BitVec 256 := BitVec.ofNat 256 (2 ^ 255 + 2 ^ 252 + 2 ^ 249 + 2 ^ 244)
    let k := raw.context { col := 1, row := 0, ctx := 0, mem := true, rest := 0, word := word }
    let y := { raw.place 0 0 0 with ctxs := [k], links := [{ desc := BitVec.ofNat 64 (2 * 2 ^ 28 + 2 ^ 22 + 2 ^ 13), toks := [aTok] }] }
    let i := { placedImage [(0, 0)] with copies := [y] }
    let s := withImage i start
    (cellOwner s 0 0 1).map (fun x => (x.1, x.2.1)) = some (i, 0) ∧ i.live = true ∧ sectionHeld s i = false ∧ i.argsDue = [] ∧ confirmCell s 0 i 0 1 = i ∧ i.copies[0]? = some y
    ∧ (match y.cellTurn (fabOf s 0 i 0) 1 with
      | .fire x a => x.mem && (match fireMem s 0 i 0 y x a with
        | .done s' i' => decide (i'.copies[0]?.isSome) && (i'.copies.all fun p => p.links.all fun l => l.slots != 0) && i'.launch.isNone && i'.fid == i.fid
          && decide (resident s' 0 i.fid = some (4, i)) && (getCluster s' 0).images.all (fun w => !w.2.evPend) && !i'.evPend
        | .other _ => false)
      | _ => false) = true := by decide +kernel
/-- Cluster 0 with these loads and images, all fabric pages offline but those of the mask on server 11. -/
def fabric (mask : Nat) (loads : List ImageLoad) (images : AMap Image) (s : State) : State :=
  setCluster s 0 { getCluster s 0 with
    servers := (List.range 12).map fun v => (v, { offline := if v = 11 then BitVec.ofNat 8 (255 - mask) else 255 })
    loads := loads, images := images }

def aLoad (outcome : Option (BitVec 4)) (w : Nat) : ImageLoad :=
  { fid := 3, words := if outcome.isSome then imageWords w else [], outcome := outcome, record := none, place := none, deferred := false, began := 0 }

/-- Owner 1's directory of images, with function id 3 at 0x10000, and that image. -/
def directory (s : State) : State :=
  let pte : Word := 0xD1E0000000030000
  let t := setCluster s 0 { getCluster s 0 with l1 := [{ owner := 1, vpn := 1, big := false, pte := 0xD1E0000000020000 }, { owner := 1, vpn := 0x7FFFFFFFFF, big := false, pte := pte }] }
  { t with mem := memSetN (memSetN t.mem (leafKey 0x10000 0xD1E0000000020000 false) ((imageWords 1).flatMap fun w => bytesOf 8 w.toNat)) (leafKey 0x7FFFFFFFFF0030 pte false) (bytesOf 8 0x10000 ++ bytesOf 8 (2 ^ 63)) }

def sameRaw (x : Sum Raw (BitVec 4)) (ws : List Word) : Bool := match x with | .inl r => r.ws == ws | .inr _ => false
def code (x : Sum Raw (BitVec 4)) : Nat := match x with | .inl _ => 0 | .inr e => e.toNat

/-- A load whose image is good, one whose directory is unreadable with a waiting call, and one that is read and has one place to go. -/
theorem test_meets_ImagesComeAndGo :
    let m : CallReq := aCall
    let ask := fabric 255 [aLoad none 1] [] start
    let good := directory ask
    let called := waitsFor (setCluster ask 0 { getCluster ask 0 with misses := [m] })
    let read := fabric 0x80 [aLoad (some 0) 1] [] start
    (dueLoad ask 0 3).map (·.fid) = some 3 ∧ startedLoads (getCluster ask 0) < 4 ∧ (aLoad none 1).record = none ∧ (getCluster good 0).images = [] ∧ (getCluster called 0).images = []
    ∧ allHome good (pilotClock good) = true ∧ allHome called (Clock.join (pilotClock called) m.clock) = true
    ∧ sameRaw (readImage good 0 (serverOwner good 0) (pilotClock good) 3) (imageWords 1) = true
    ∧ code (readImage called 0 (serverOwner called 0) (Clock.join (pilotClock called) m.clock) 3) = 5 ∧ (getCluster called 0).misses = [m] ∧ m.fid = 3
    ∧ callerWaits called m.tag = true ∧ (getThread called m.tag).ih = false
    ∧ startedLoad read 0 3 = some (aLoad (some 0) 1) ∧ resident read 0 3 = none ∧ hostPlaces read 0 = false ∧ (getCluster read 0).misses = []
    ∧ loadPlaces read 0 ⟨3, imageWords 1⟩ (aLoad (some 0) 1) = [[(11, 7)]] ∧ pick [[(11, 7)]] 0 = some [(11, 7)] ∧ freeEntry (getCluster read 0) = some 0
    ∧ read.choose 20 (loadPlaces read 0 ⟨3, imageWords 1⟩ (aLoad (some 0) 1)).length = 0 := by decide +kernel

/-- A quiescent image in the way of a load, a busy and a quiescent one with no load, an image that alone can move for a starved load, and a twin to reload. -/
theorem test_meets_ImagesComeAndGo_resident :
    let i := placedImage [(11, 7)]
    let b := { i with entry := [aCall] }
    let idle := fabric 255 [] [(4, i)] start
    let busy := fabric 255 [] [(4, b)] start
    let o := { i with fid := 9 }
    let inWay := fabric 0x80 [aLoad (some 0) 1] [(4, o)] start
    let q := { placedImage [(11, 0)] with fid := 9 }
    let starved := fabric 0x0B [aLoad (some 0) 2] [(4, q)] start
    let tw := { placedImage [(0, 0), (0, 1)] with reload := 2 }
    let twin := directory (setCluster start 0 { getCluster start 0 with images := [(4, tw)] })
    resident idle 0 3 = some (4, i) ∧ starvedLoad idle 0 = none ∧ resident busy 0 3 = some (4, b) ∧ b.busy (getCluster busy 0) = true
    ∧ resident inWay 0 9 = some (4, o) ∧ o.busy (getCluster inWay 0) = false ∧ (starvedLoad inWay 0).map (·.ws) = some (imageWords 1) ∧ hostPlaces inWay 0 = false
    ∧ (match starvedLoad inWay 0 with | some r => canCompact inWay 0 r | none => true) = false ∧ firstEvict inWay 0 = some o ∧ (∀ w ∈ (getCluster inWay 0).images, w.2.evPend = false)
    ∧ q.evPend = false ∧ allHome twin (pilotClock twin) = true
    ∧ resident starved 0 9 = some (4, q) ∧ (starvedLoad starved 0).map (·.ws) = some (imageWords 2) ∧ hostPlaces starved 0 = false ∧ moveTargets starved 0 ⟨3, imageWords 2⟩ q = [(0, 3)]
    ∧ resident twin 0 3 = some (4, tw) ∧ tw.reload = 2 ∧ tw.tags = [] ∧ (∀ a ∈ tw.copies.map (fun p => (p.server, p.page)), (AMap.getD (getCluster twin 0).servers a.1 {}).offline = 0)
    ∧ sameRaw (readImage twin 0 (serverOwner twin 0) (pilotClock twin) 3) (imageWords 1) = true ∧ (getCluster twin 0).misses = [] := by decide +kernel

/-- A section to freeze, which is also spent, and one that was frozen and has one place to go. -/
theorem test_meets_ImagesComeAndGo_section :
    let i := placedImage [(11, 7)]
    let sec := { i with launch := some 0, closed := true }
    let s := fabric 255 [] [(4, sec)] start
    let f : Frozen := { cluster := 0, image := { i with launch := some 0 }, cells := [], base := 0 }
    let t := { fabric 0x80 [] [] start with frozen := [f] }
    let rects := freeRects (getCluster t 0) f.image.width f.image.height
    resident s 0 3 = some (4, sec) ∧ sec.launch = some 0 ∧ sec.copies = [raw.place 11 7 0] ∧ sec.closed = true ∧ sec.evPend = false ∧ (∀ w ∈ (getCluster s 0).images, w.2.evPend = false) ∧ sec.tilesLeft = 0 ∧ mayChange s (.sectionEnd 0 3) = true
    ∧ Inv s
    ∧ AMap.find s.records 0 = some (placedRecord 0) ∧ (placedRecord 0).phase.final = false
    ∧ t.frozen.find? (fun x => x.cluster == 0 && x.image.fid == 3) = some f ∧ f.image.copies = [raw.place 11 7 0] ∧ f.image.launch = some 0
    ∧ AMap.find t.records 0 = some (placedRecord 0) ∧ pick rects (t.choose 23 rects.length) = some (11, 7)
    ∧ freeEntry (getCluster t 0) = some 0 ∧ mayThaw t 0 (placedRecord 0).owner = true ∧ resident t 0 3 = none := by decide +kernel
/-- A voyage of i8 tiles with K = 16, all four banks, and these counts of tiles and entries; its lists at 0x10000, 0x10008 and 0x10080. -/
def aDesc (port stbd chart : Nat) : Words8 :=
  { w0 := BitVec.ofNat 64 (4 * 2 ^ 61 + 4 * 2 ^ 58 + 2 ^ 53 + 3 * 2 ^ 45 + 15 * 2 ^ 41 + port * 2 ^ 34 + stbd * 2 ^ 27 + chart * 2 ^ 13), w1 := 0x10000, w2 := 0x10008, w3 := 0x10080, w4 := 0x10800 }
def voyage (port stbd chart : Nat) : Voyage := newVoyage start 0x10FC0 (aDesc port stbd chart) 1 none (some 0) (some 0) 1 []
def sails (v : Voyage) (s : State) : State := setCluster s 0 { getCluster s 0 with voyage := some v }

def portT : VTile := { id := 5, home := 3, flag := false, source := 0x10100, planes := 0, lost := false }
def stbdT : VTile := { id := 6, home := 3, flag := false, source := 0x10200, planes := 0, lost := false }

/-- A chart entry of the two tiles, of a kind, with a target in the station's own scratchpad. -/
def anEntry (kind : Nat) : ChartEntry :=
  { w0 := BitVec.ofNat 64 (5 * 2 ^ 52 + 6 * 2 ^ 40 + kind * 2 ^ 38 + 2 ^ 28), target := own 0x100, half := 0, station := 3, status := .pending, tried := false, again := false, products := [] }

/-- The page of the lists, headers and chart, in owner 1's memory. -/
def listed (s : State) : State :=
  let t := mapped s
  let ws := [0x10040, 0x10050, 0, 0, 0, 0, 0, 0, 5 * 2 ^ 52 + 4 * 2 ^ 48 + 2 ^ 40 + 3 * 2 ^ 32, 0x10100, 6 * 2 ^ 52 + 2 ^ 51 + 4 * 2 ^ 48 + 2 ^ 40 + 3 * 2 ^ 32, 0x10200, 0, 0, 0, 0,
    5 * 2 ^ 52 + 6 * 2 ^ 40, 0x10400]
  { t with mem := memSetN t.mem (leafKey 0x10000 0xD1E0000000020000 false) (ws.flatMap fun w => bytesOf 8 w) }

/-- Core 3 of cluster 0 belongs to crew 0 too, and channel 1 has a task. -/
def crewed (s : State) : State := taskReady (setCrew (setCore s 3 { getCore s 3 with crew := some 0 }) 0 { placedCrew 0 with cores := [0, 3] })

/-- The parts of the embark phase: nothing done, lists to read, and one body to fetch beside a refused tile. -/
theorem test_meets_VoyagesEmbarkAndMeet :
    let v0 := voyage 1 1 1
    let v1 := { v0 with zeroed := true }
    let v2 := { voyage 1 1 0 with zeroed := true, fetched := true, port := [portT] }
    let s := fun (v : Voyage) => listed (sails v start)
    (∀ v ∈ [v0, v1, v2], movingVoyage (s v) 0 .embark = some v ∧ (getCounter (s v) 0 v.ctr).drain = false
      ∧ Inv (s v))
    ∧ (match readVoyage (s v1) 0 v1 with | .ok (p, q, es) => p == [portT] && q == [stbdT] && es.map (·.status) == [.pending] | _ => false) = true
    ∧ (match readBodies (s v2) 0 v2 with | .ok ([(t, bs, false)], []) => t == portT && bs.length == 256 | _ => false) = true
    ∧ v2.entries = [] ∧ v2.tally + v2.refusedN < v2.total := by decide +kernel

/-- Half-step 0: an engine sighting, a task sighting that can start, and one that cannot; a station that may pass its tile on; 96 ready stations. -/
theorem test_meets_VoyagesEmbarkAndMeet_halfSteps :
    let v := fun (kind : Nat) => { voyage 1 1 1 with zeroed := true, fetched := true, phase := .halfSteps, port := [portT], stbd := [stbdT], entries := [anEntry kind] }
    let s := fun (k : Nat) => listed (sails (v k) (crewed start))
    let none_ := listed (sails (v 1) start)
    let v9 := { v 0 with entries := [{ anEntry 0 with status := .counted }] }
    let p := listed (sails v9 start)
    let all := { v9 with ready := List.range 96 }
    (∀ k ∈ [0, 1], movingVoyage (s k) 0 .halfSteps = some (v k) ∧ (loseTiles (s k) 0 (v k) 3).missed = (v k).missed ∧ nextSight (v k) 3 = some (0, anEntry k))
    ∧ entryKind (anEntry 0).w0 = 0 ∧ (getCore (s 0) 3).tileBusy = false ∧ (getCore (s 0) 3).ringBusy = false ∧ 3 ∉ (v 0).ready ∧ (v 0).fp = 4 ∧ (v 0).fs = 4
    ∧ entryKind (anEntry 1).w0 ≠ 0 ∧ (v 1).stopping = false ∧ (∀ q ∈ (getCluster (s 1) 0).pendingQ, q.channel ≠ entryChannel (anEntry 1).w0)
    ∧ sightSlot (s 1) 0 (v 1) (anEntry 1) 3 = some 0 ∧ movingVoyage none_ 0 .halfSteps = some (v 1) ∧ (loseTiles none_ 0 (v 1) 3).missed = (v 1).missed
    ∧ sightSlot none_ 0 (v 1) (anEntry 1) 3 = none
    ∧ movingVoyage p 0 .halfSteps = some v9 ∧ 3 ∉ v9.ready ∧ mayPass p 0 v9 3 = true ∧ v9.half % 2 = 0 ∧ v9.half < 95 ∧ p.poison = [] ∧ portTile v9 3 = some portT
    ∧ portT.lost = false ∧ Inv p ∧ (∀ k ∈ [0, 1], (anEntry k).waits = none)
    ∧ movingVoyage (sails all start) 0 .halfSteps = some all ∧ all.stopping = false ∧ 96 ≤ all.ready.length ∧ all.half < 95 := by decide +kernel

/-- A running entry whose products go to the station's own scratchpad, with its chart entry in global memory. -/
theorem test_meets_VoyagesEmbarkAndMeet_accumulation :
    let e := { anEntry 0 with status := .running, products := List.replicate 256 5 }
    let v := { voyage 1 1 1 with zeroed := true, fetched := true, phase := .halfSteps, port := [portT], stbd := [stbdT], entries := [e] }
    let s := listed (sails v start)
    let tk := padKey 3 0x100
    let ck := leafKey 0x10080 0xD1E0000000020000 false
    (getCluster s 0).voyage = some v ∧ v.entries[0]? = some e ∧ e.again = false ∧ e.waits = none ∧ v.failure = none ∧ v.tally + 1 < v.total
    ∧ Inv s ∧ Unhindered s v.agent v.clock ∧ e.products.length = 256 ∧ tk % 4 = 0
    ∧ (∀ n, n < 256 → reach s 0 (some (0 * 128 + e.station)) v.owner (e.target + BitVec.ofNat 64 (64 * (n / 16) + 4 * (n % 16))) 4 .both = .home (tk + 4 * n) none
        ∧ globalKey (tk + 4 * n) = false ∧ poisoned s (tk + 4 * n) 4 = false)
    ∧ reach s 0 none v.owner (v.entryVa 0) 8 .both = .home ck none ∧ ck + 8 ≤ tk := by decide +kernel

/-- The end of half-step 95, with all else counted and with an entry missing; what the reckoning pass runs next: an entry on an engine, one that it gives up
and one as a task. -/
theorem test_meets_VoyagesReckonAndEnd :
    let v := fun (tally : Nat) => { voyage 1 1 1 with zeroed := true, fetched := true, phase := .halfSteps, half := 95, port := [portT], stbd := [stbdT], tally := tally, ready := List.range 96, entries := [{ anEntry 0 with status := .counted }] }
    let s := fun (t : Nat) => listed (sails (v t) start)
    let key := leafKey 0x10FE8 0xD1E0000000020000 false
    let w := fun (kind st : Nat) => { voyage 1 1 1 with zeroed := true, fetched := true, phase := .reckoning, half := 95, port := [portT], stbd := [stbdT], entries := [{ anEntry kind with status := .missed }], reckon := [(0, st)], missed := 1 }
    let r := fun (kind st : Nat) => listed (sails (w kind st) (crewed start))
    let e := fun (kind : Nat) => { anEntry kind with status := .missed }
    (∀ t ∈ [0, 1], movingVoyage (s t) 0 .halfSteps = some (v t) ∧ (v t).stopping = false ∧ 96 ≤ (v t).ready.length ∧ (v t).record = none
      ∧ (∀ y ∈ (v t).entries, y.status ≠ .missed) ∧ Inv (s t))
    ∧ (v 1).total ≤ (v 1).tally + 2 ∧ (v 0).tally + 2 < (v 0).total ∧ (v 0).dropped = false
    ∧ (match writeReckon (listed (sails { v 0 with dropped := true, tally := 2 } start)) 0 { v 0 with dropped := true, tally := 2 } (reckonList (listed (sails { v 0 with dropped := true, tally := 2 } start)) 0 { v 0 with dropped := true, tally := 2 }) with | .ok _ => true | _ => false) = true ∧ reach (s 1) 0 none (v 1).owner ((v 1).descVa + 40) 8 .write = .home key none ∧ key + 8 ≤ 2 ^ 43
    ∧ lineForeign (s 1) key (keyOf (s 1) (v 1).owner) (bits ((v 1).descVa + 40) 54 6) = false
    ∧ (∀ x ∈ [(0, 3), (0, 96), (1, 3)], movingVoyage (r x.1 x.2) 0 .reckoning = some (w x.1 x.2) ∧ (w x.1 x.2).stopping = false ∧ (w x.1 x.2).reckon = [(0, x.2)]
      ∧ (w x.1 x.2).entries[0]? = some (e x.1) ∧ (∀ y ∈ (w x.1 x.2).entries, y.again = false ∧ y.waits = none))
    ∧ (getCore (r 0 3) 3).tileBusy = false ∧ (getCore (r 0 3) 3).ringBusy = false ∧ (w 0 96).tally + 1 < (w 0 96).total
    ∧ (match fetchPair (r 0 3) 0 (w 0 3) (e 0) 3 with | .ok (_, b) => b.isNone | _ => false) = true
    ∧ entryKind (e 1).w0 ≠ 0 ∧ sightSlot (r 1 3) 0 (w 1 3) (e 1) 3 = some 0 ∧ (match fetchPair (r 1 3) 0 (w 1 3) (e 1) 3 with | .ok (_, b) => b.isNone | _ => false) = true := by decide +kernel

/-- A failed voyage of a thread and of a launch; one that is to stop and can, and one that cannot yet; one to resume. -/
theorem test_meets_VoyagesReckonAndEnd_stops :
    let f := { voyage 1 1 1 with failure := some (3, 0x10000), phase := .halfSteps }
    let g := { f with record := some 0, thread := none }
    let st := { voyage 1 1 1 with stopping := true, phase := .halfSteps, ready := List.range 96 }
    let no := { st with ready := [] }
    let x : VoyageSave := { cluster := 0, voyage := { voyage 1 1 1 with zeroed := true }, counter := 7, bays := [], chart := {}, base := 0 }
    let s := { start with vsaves := [x] }
    (getCluster (sails f start) 0).voyage = some f ∧ f.failure = some (3, 0x10000) ∧ f.record = none ∧ f.thread = some 0 ∧ (getThread (sails f start) 0).live = true
    ∧ (getThread (sails f start) 0).agent = f.threadAgent ∧ (getThread (sails f start) 0).deferred.length < 8 ∧ (getThread (sails f start) 0).sighting = none
    ∧ (getCluster (sails g start) 0).voyage = some g ∧ g.record = some 0 ∧ mayChange (sails g start) (.voyage 0) = true
    ∧ Inv (sails g start)
    ∧ AMap.find (sails g start).records 0 = some (placedRecord 0) ∧ (placedRecord 0).phase.final = false
    ∧ (getCluster (sails st start) 0).voyage = some st ∧ st.failure = none ∧ (stoppedVoyage st).map (·.half) = some 1 ∧ stoppedVoyage no = none ∧ no.stopping = true
    ∧ s.vsaves = [x] ∧ mayResumeVoyage s 0 x.voyage = true ∧ needsScrub s 0 x.voyage.owner = false ∧ x.voyage.zeroed = true ∧ x.voyage.tally < x.voyage.total := by decide +kernel

/-! #### Encodings and steps -/

theorem test_meets_DecodeAndEncodeAgree : wellFormed (.fcvtDS 31 31 1) = true ∧ (encode (.fcvtDS 31 31 1)).isSome = true ∧ (decode ((encode (.fcvtDS 31 31 1)).getD 0)).isSome = true := by decide

/-- An `addi` stands where core 0 fetches next. -/
theorem test_meets_StepRunsTheDecodedInstruction :
    let s := placeWord State.reset 0x10A5FFFF
    let s0 := { s with turn := none }
    let r := rotate 16 s0 0 ((getCore s0 0).ptr + 1)
    let s1 := setCore r.1 0 { getCore r.1 0 with clk := (getCore s0 0).clk + 1, ptr := 0 }
    let s2 := issuing s1 (coreTag 0 0) (getCore s0 0).clk
    s.turn = some 0 ∧ r.2 = some 0 ∧ (match fetch s1 (coreTag 0 0) with | .word w => w == 0x10A5FFFF | _ => false) = true
    ∧ decode 0x10A5FFFF = some (.addi 5 5 0xFFFF) ∧ bankForfeit s2 (coreTag 0 0) (.addi 5 5 0xFFFF) = false := by decide +kernel

theorem test_meets_StepKeepsTheInvariant :
    let s := placeWord State.reset 0x10A5FFFF
    Inv s ∧ (match step s with | .next t => t.th.pc == 4 | _ => false) = true := by decide +kernel
/-! #### Arithmetic and the fabric -/

theorem finite_one : Finite f32 0x3F800000 ∧ Finite f32 0xBF800000 ∧ Finite f32 0 ∧ Finite e4m3 0x7E ∧ Finite f64 1 := by
  unfold Safety.Finite; decide

theorem value_one : (patternValue f32 0x3F800000 : ℝ) = 1 ∧ (patternValue f32 0xBF800000 : ℝ) = -1 := by
  have h : patternValue f32 0x3F800000 = 1 ∧ patternValue f32 0xBF800000 = -1 := by norm_num [patternValue, f32, Fmt.bias]
  exact ⟨by rw [h.1]; norm_num, by rw [h.2]; norm_num⟩

/-- One and minus one; a NaN beside them. -/
theorem test_meets_ArithmeticIsRounded :
    (patternValue f32 0x3F800000 : ℝ) ≠ 0 ∧ (0 : ℝ) ≤ (patternValue f32 0x3F800000 : ℝ) ∧ (patternValue f32 0xBF800000 : ℝ) < 0 ∧ (-2 : Int) ≤ 7
    ∧ (0x7FA00000 : Nat) < 2 ^ f32.width ∧ f32.e4m3 = false ∧ 0x7FA00000 / 2 ^ f32.fracBits % 2 ^ f32.expBits = 2 ^ f32.expBits - 1 ∧ 0x7FA00000 % 2 ^ f32.fracBits ≠ 0
    ∧ ¬(0x3F800000 / 2 ^ f32.fracBits % 2 ^ f32.expBits = 2 ^ f32.expBits - 1) ∧ f32 ∈ [f64, f32, f16, bf16, e5m2, e4m3] ∧ e4m3 ∈ [f64, f32, f16, bf16, e5m2, e4m3] := by
  rw [value_one.1, value_one.2]
  refine ⟨by norm_num, by norm_num, by norm_num, by decide, by decide, by decide, by decide, by decide, by decide, by simp, by simp⟩

/-- A stage of each lane width at its last lane; a full and an empty OWN; NaN and finite lanes of f16; a digit plane that is there and one past the last. -/
theorem test_meets_FabricLanesCompute :
    let g := fun (op lane sa sb : Nat) => (⟨op, sa, sb, lane, true, false⟩ : Stage)
    let k := { raw.context { col := 0, row := 0, ctx := 0, mem := false, rest := 0, word := 0 } with own := [(1, 5)], k1 := 1 }
    (∀ op ∈ rangeFrom 0x2C 0, ∀ p ∈ [(0, 3), (1, 7), (2, 15), (3, 31)], (g op p.1 0 0).op = op ∧ p.2 < 256 / (g op p.1 0 0).w ∧ ¬p.2 + 1 < 256 / (g op p.1 0 0).w)
    ∧ ((g 0x20 2 0 0).fmt.unpack 0x7E00).isNan = true ∧ ((g 0x20 2 0 0).fmt.unpack 0x3C00).isNan = false ∧ (f32.unpack 0x7FC00000).isNan = true
    ∧ AMap.find k.own 1 = some 5 ∧ AMap.find k.own 2 = none ∧ k.cnt0 + 1 ≤ k.k1.toNat % 16 ∧ { k with k1 := 0 }.k1.toNat % 16 < k.cnt0 + 1 := by decide

/-- The sum of one digit plane is not zero where one digit is +1 and its operand is 1.0. -/
theorem test_meets_FabricLanesCompute_plane :
    Finite f16 0x3C00 ∧ Finite f16 0 ∧ (patternValue f16 0x3C00 : ℝ) = 1 ∧ (patternValue f16 0 : ℝ) = 0
    ∧ ((1 : BitVec 256).toNat / 4 ^ 0 % 4 = 1) ∧ (0x3C00 : BitVec 256).toNat / 2 ^ (16 * 0) % 2 ^ 16 = 0x3C00 := by
  refine ⟨by unfold Safety.Finite; decide, by unfold Safety.Finite; decide, ?_, ?_, by decide, by decide⟩
  · have h : patternValue f16 0x3C00 = 1 := by norm_num [patternValue, f16, Fmt.bias]
    rw [h]; norm_num
  · have h : patternValue f16 0 = 0 := by norm_num [patternValue, f16, Fmt.bias]
    rw [h]; norm_num

/-- A context at cell (0, 0), or a memory context at cell (1, 0), with this word. -/
def ctxOf (w : Nat) : CtxState := raw.context { col := 0, row := 0, ctx := 0, mem := false, rest := 0, word := BitVec.ofNat 256 w }
def memOf (w : Nat) : CtxState := raw.context { col := 1, row := 0, ctx := 0, mem := true, rest := 0, word := BitVec.ofNat 256 (2 ^ 255 + w) }

/-- A copy with that context alone and these tokens at its inputs 0 to 2. -/
def fedWith (k : CtxState) (ts : List (Option Tok)) : Placed :=
  { raw.place 0 0 0 with ctxs := [k], links := (rangeFrom 3 0).map fun m => { desc := BitVec.ofNat 64 (2 * 2 ^ 28 + m * 2 ^ 22 + k.col * 2 ^ 13), toks := (ts.getD m none).toList } }

def dataTok (v : Nat) : Tok := ⟨.data, BitVec.ofNat 256 v, 0, []⟩
def stopTok (v : Nat) : Tok := ⟨.stop, BitVec.ofNat 256 v, 0, []⟩
def nullTok : Tok := ⟨.null, 0, 0, []⟩
def configTok (v : Nat) : Tok := ⟨.config, BitVec.ofNat 256 v, 0, []⟩

/-- Configuration tokens for this cell, for another and for none; stops at every input and at one alone; data alone at contexts of each kind. -/
theorem test_meets_FabricContextsFire :
    let g := fabOf start 0 { placedImage [(0, 0)] with h0 := raw.w 0 } 0
    let k := ctxOf (3 * 2 ^ 248 + 2 ^ 244)
    let head := fun (ts : List (Option Tok)) => (fedWith k ts).headAt k
    let at_ := fun (kind : Nat) => ctxOf (kind * 2 ^ 252 + 7 * 2 ^ 248 + 5 * 2 ^ 244)
    ((fedWith k [some aTok]).links[0]?).isSome = true ∧ k.kind = 0 ∧ k.word.getLsbD 248 = true ∧ k.word.getLsbD 249 = true ∧ k.word.getLsbD 250 = false
    ∧ (∀ c ∈ [0, 1, 4], head [some (configTok c)] 0 = some (configTok c)) ∧ 4 * g.wide = 4 ∧ 4 * g.high = 4
    ∧ head [some aTok, some (configTok 0)] 1 = some (configTok 0) ∧ head [some aTok, some (configTok 0)] 0 = some aTok ∧ aTok.kind ≠ .config
    ∧ head [some (stopTok 1), some (stopTok 1)] 0 = some (stopTok 1) ∧ head [some (stopTok 1), some (stopTok 1)] 1 = some (stopTok 1) ∧ (stopTok 1).pay.toNat % 4 = 1
    ∧ head [some (stopTok 1), some aTok] 0 = some (stopTok 1) ∧ head [some (stopTok 1), some aTok] 1 = some aTok ∧ aTok.kind = .data
    ∧ (∀ j, j < 5 → (at_ j).kind = j ∧ (at_ j).mem = false)
    ∧ (let c := { at_ 3 with left := 1, issued := 1, starts := [0] }; let e := fedWith c [some (dataTok (2 ^ 32)), none, some (dataTok 1)]
      c.stopDue = false ∧ { c with stopDue := true }.stopDue = true ∧ c.left ≠ 0 ∧ (at_ 3).left = 0 ∧ c.word.getLsbD 250 = true ∧ c.word.getLsbD 30 = false
      ∧ c.ended < c.issued ∧ e.headAt c 2 = some (dataTok 1) ∧ (dataTok 1).pay.getLsbD 0 = true ∧ (dataTok 0).pay.getLsbD 0 = false ∧ (e.lcuId c, c.ended) ∉ g.squashed
      ∧ (∀ y ∈ c.starts, y ≤ c.ended) ∧ c.nullIter = false ∧ e.headAt c 0 = some (dataTok (2 ^ 32)) ∧ (dataTok (2 ^ 32)).pay.toNat / 2 ^ 32 % 2 ^ 32 = 1
      ∧ (dataTok 0).pay.toNat / 2 ^ 32 % 2 ^ 32 = 0 ∧ c.done < c.issued ∧ e.headAt c 1 = none) := by decide +kernel

/-- A merge with a data selector, a carry outside and inside its loop, and a join's heads. -/
theorem test_meets_FabricContextsFire_kinds :
    let mg := ctxOf (1 * 2 ^ 252 + 7 * 2 ^ 248 + 2 * 2 ^ 220)
    let ca := { ctxOf (2 * 2 ^ 252 + 7 * 2 ^ 248) with inLoop := true }
    let ts := [some aTok, some aTok, some (dataTok 1)]
    mg.kind = 1 ∧ mg.word.toNat / 2 ^ 220 % 2 ^ 4 = 2 ∧ (fedWith mg ts).headAt mg 2 = some (dataTok 1) ∧ mg.word.getLsbD (248 + 2) = true ∧ mg.word.toNat / 2 ^ 240 % 2 ^ 2 = 0
    ∧ (placedImage [(0, 0)]).gated = false
    ∧ ca.kind = 2 ∧ ca.inLoop = true ∧ { ca with inLoop := false }.inLoop = false ∧ (fedWith ca ts).headAt ca 2 = some (dataTok 1)
    ∧ (dataTok 5).kind = .data ∧ (stopTok 1).kind = .stop ∧ (stopTok 1).pay.toNat % 4 = 1 := by decide +kernel

/-- Operand stores, a FIFO, a line buffer and a read-modify-write with what their sides need at their inputs. -/
theorem test_meets_MemoryCellsAccess :
    let f := fun (k : CtxState) (hi lo : Nat) => k.word.toNat / 2 ^ lo % 2 ^ (hi + 1 - lo)
    let at_ := fun (k : CtxState) (ts : List (Option Tok)) => (fedWith k ts).headAt k
    let based := memOf (2 ^ 220 + 2 ^ 223 + 2 ^ 111)
    let plain := memOf (2 ^ 223 + 2 ^ 111)
    let fifo := { memOf (2 ^ 252) with queue := [7] }
    let line := { memOf (2 * 2 ^ 252) with queue := [7] }
    let rmw := memOf (3 * 2 ^ 252 + 2 ^ 220)
    (∀ k ∈ [based, plain, fifo, line, rmw], k.mem = true ∧ k.word.getLsbD 237 = false ∧ k.word.getLsbD 235 = false ∧ k.word.getLsbD 222 = false ∧ k.word.getLsbD 110 = false
      ∧ k.word.getLsbD 238 = false ∧ k.base0 = none ∧ k.base1 = none)
    ∧ start.poison = [] ∧ Inv start ∧ based.kind = 0 ∧ plain.kind = 0 ∧ fifo.kind = 1 ∧ line.kind = 2 ∧ rmw.kind = 3
    ∧ f based 221 220 = 1 ∧ f plain 221 220 = 0 ∧ f rmw 221 220 = 1 ∧ f plain 109 108 = 0
    ∧ at_ based [some (dataTok 8)] 0 = some (dataTok 8) ∧ at_ based [some nullTok] 0 = some nullTok ∧ at_ plain [none, some (dataTok 8)] 1 = some (dataTok 8)
    ∧ at_ plain [none, some nullTok] 1 = some nullTok ∧ at_ rmw [some (dataTok 8), some (dataTok 1)] 0 = some (dataTok 8) ∧ at_ rmw [some (dataTok 8), some (dataTok 1)] 1 = some (dataTok 1)
    ∧ at_ fifo [none, some (dataTok 8)] 1 = some (dataTok 8) ∧ at_ line [none, some (dataTok 8)] 1 = some (dataTok 8)
    ∧ fifo.queue = (7 : BitVec 256) :: [] ∧ (7 : BitVec 256).toNat < 2 ^ 64 ∧ line.queue.length = (f line 242 240 + 1) * (f line 149 140 + 1) ∧ 8 * 1 * (f line 242 240 + 1) ≤ 256
    ∧ (dataTok 8).itr = [] := by decide +kernel

/-- What the sides of an operand store and of an endpoint may do: both, one, none. -/
theorem test_meets_MemoryCellsAccess_sides :
    let f := fun (k : CtxState) (hi lo : Nat) => k.word.toNat / 2 ^ lo % 2 ^ (hi + 1 - lo)
    let both := memOf (2 ^ 223 + 2 ^ 111)
    let wr := memOf (2 ^ 111)
    let rd := memOf (2 ^ 223)
    let put := memOf (4 * 2 ^ 252 + 2 ^ 243 + 2 ^ 111)
    let take := { memOf (4 * 2 ^ 252 + 2 ^ 223) with seenCount := 1 }
    (∀ k ∈ [both, wr, rd], k.kind = 0 ∧ f k 109 108 = 0 ∧ f k 221 220 = 0) ∧ f both 111 111 = 1 ∧ f both 223 223 = 1 ∧ f wr 111 111 = 1 ∧ f wr 223 223 = 0
    ∧ f rd 111 111 = 0 ∧ f rd 223 223 = 1 ∧ (memOf 0).kind = 0 ∧ f (memOf 0) 111 111 = 0 ∧ f (memOf 0) 223 223 = 0
    ∧ put.kind = 4 ∧ put.word.getLsbD 243 = true ∧ f put 109 108 ≠ 2 ∧ put.word.getLsbD 111 = true ∧ put.moved < put.seenCount + 1
    ∧ take.kind = 4 ∧ take.word.getLsbD 243 = false ∧ f take 221 220 = 0 ∧ take.word.getLsbD 223 = true ∧ take.moved < take.seenCount
    ∧ aTok.kind ≠ .config ∧ aTok.kind ≠ .stop := by decide +kernel

/-- Endpoints of a section whose ring stands in owner 1's page: a take with and without its count, and a put. -/
theorem test_meets_MemoryCellsAccess_endpoint :
    let f := fun (k : CtxState) (hi lo : Nat) => k.word.toNat / 2 ^ lo % 2 ^ (hi + 1 - lo)
    let take := fun (every : Nat) => memOf (4 * 2 ^ 252 + every * 2 ^ 240 + 2 ^ 223 + 0x10100 * 2 ^ 186)
    let put := memOf (4 * 2 ^ 252 + 2 ^ 243 + 2 ^ 240 + 2 ^ 111 + 0x10100 * 2 ^ 74 + 2 ^ 28)
    let i := { placedImage [(0, 0)] with h0 := raw.w 0 ||| BitVec.ofNat 64 (2 ^ 55), launch := some 0, tilesLeft := 1 }
    let s := mapped (withImage i start)
    let p := fedWith put [none, some (dataTok 8)]
    let key := fun (va : Word) => leafKey va 0xD1E0000000020000 false
    let ok := fun (k : CtxState) (va : Word) (n : Nat) (w : Want) (b : Nat) => match cellAccess s 0 i 0 (cellMark p k) va n w b with
      | .ok x false none => x == key va && !lineForeign s x (keyOf s (serverOwner s 0)) (bits va 54 6)
      | _ => false
    i.stream = true ∧ i.packet 0 = none ∧ Inv s ∧ s.writes = [] ∧ s.poison = []
    ∧ (∀ e ∈ [0, 1], f (take e) 221 220 = 0 ∧ (take e).base0 = none ∧ (take e).word.getLsbD 238 = false ∧ ok (take e) 0x10100 1 .read 7 = true ∧ ok (take e) 0x100F0 8 .write 8 = true)
    ∧ ((take 1).moved + 1) % 2 ^ f (take 1) 242 240 ≠ 0 ∧ ((take 0).moved + 1) % 2 ^ f (take 0) 242 240 = 0
    ∧ f put 109 108 = 0 ∧ put.base1 = none ∧ p.headAt put 1 = some (dataTok 8) ∧ (put.moved + 1) % 2 ^ f put 242 240 ≠ 0 ∧ (put.ag1 + 1) % ((f put 37 28 + 1) * (f put 27 18 + 1) * (f put 17 8 + 1)) ≠ 0
    ∧ ok put 0x10100 1 .write 8 = true := by decide +kernel

end Sys2Proof.Tests
end

section
/-! ## The state at reset (R17, R18)
The model's state before power-up lists nothing, so that the invariant has nothing to break. -/

namespace Sys2Proof

open Sys2Proof.Machine Sys2Proof.Safety

/-- Reset lists no byte and no record. -/
theorem inv_reset : Inv State.reset := ⟨rfl, fun _ h => absurd h List.not_mem_nil, List.nodup_nil⟩

/-- No queue is listed at reset: each stands at its default, empty and disabled. -/
theorem getQueue_reset (q : BitVec 8) : getQueue State.reset q = {} := rfl

/-- Settles O55: every list of the state at reset is empty, and every field read through one has its default value. -/
theorem resetHoldsTheInvariant : Obligations.ResetHoldsTheInvariant := by
  unfold Obligations.ResetHoldsTheInvariant
  refine ⟨inv_reset, rfl, rfl, rfl, rfl, rfl, fun q => ?_, fun m => AMap.getD_nil m 0, rfl, fun a => rfl⟩
  rw [getQueue_reset]
  exact ⟨rfl, rfl⟩

end Sys2Proof
end

section
/-! ## Cold reset and power-up (R11, R16–R18, R51, R52) -/

namespace Sys2Proof.Machine

/-! ### The arms -/

theorem exec_coldReset (s : State) : exec .coldReset s = .next (coldReset s) := by rfl

theorem exec_v12AuxLoss (s : State) :
    exec .v12AuxLoss s = .next { coldReset s with board := { coldBoard s.board with v12Good := false } } := by rfl

theorem exec_bridgeCoreReset (s : State) :
    exec .bridgeCoreReset s = .next { s with outside := s.outside.filter fun e => decide (64 ≤ e.1) } := by rfl

/-- The straps that the nine pins give (R16). -/
def strapsOf (pins : BitVec 9) : Straps :=
  { boot := pins.extractLsb' 0 2, slot := pins.extractLsb' 2 3, pcie0 := pins.extractLsb' 5 2, pcie1 := pins.extractLsb' 7 2 }

/-- The state in which POWER_UP runs steps 1 and 2: RESET_N is deasserted and the pins are sampled (R16, R18). -/
def sampled (s : State) (pins : BitVec 9) (dimms : List (Nat × Bool × Nat)) (rt : List (Option Nat)) (tf : Option Nat) : State :=
  { s with board := { s.board with
      phase := .powerUp 1, resetN := true, v12Good := true, strapPins := strapsOf pins, straps := strapsOf pins, refclk := 0, dimms := dimms,
      trainFail := tf, retrains := rt } }

theorem exec_powerUp_held {s : State} (pins : BitVec 9) (dimms : List (Nat × Bool × Nat)) (rt : List (Option Nat)) (tf : Option Nat)
    (h : s.board.phase = .held) : exec (.powerUp pins dimms rt tf) s = .next (stepsOneAndTwo (sampled s pins dimms rt tf)) :=
  if_neg (not_not_intro h)

theorem exec_powerUp_notHeld {s : State} (pins : BitVec 9) (dimms : List (Nat × Bool × Nat)) (rt : List (Option Nat)) (tf : Option Nat)
    (h : s.board.phase ≠ .held) : exec (.powerUp pins dimms rt tf) s = .next s :=
  if_pos h

/-! ### Steps 1 and 2 -/

/-- The boot mode is the low two pins (R16). -/
theorem strapsOf_boot (pins : BitVec 9) : (strapsOf pins).boot.toNat = pins.toNat % 4 := by
  simp [strapsOf]

/-- The state after MR0 is extended. -/
def measuredRom (s : State) : State := { s with board := extendMr s.board 0 Config.bootRomDigest }

/-- Which bank boots depends on the flash, the fuses and the selection only, which sampling the pins and extending MR0 leave. -/
theorem bootBank_measuredRom_sampled (s : State) (pins : BitVec 9) (dimms : List (Nat × Bool × Nat)) (rt : List (Option Nat)) (tf : Option Nat) :
    bootBank (measuredRom (sampled s pins dimms rt tf)) = bootBank s := by rfl

/-- The state after a bank is verified: MR1 is extended, and step 3 waits for PWRGD_48 (R18, R51, R52). -/
def verified (s : State) (bank : Nat) : State :=
  { measuredRom s with board := { extendMr (measuredRom s).board 1 (fwDigest s bank) with
      phase := .powerUp 3, bankRunning := some bank, runningVer := BitVec.ofNat 32 (headerField s bank 12 4) } }

theorem stepsOneAndTwo_verifies {s : State} {bank : Nat} (hm : s.board.straps.boot.toNat = 0) (hb : bootBank (measuredRom s) = some bank) :
    stepsOneAndTwo s = stepThree (verified s bank) := by
  unfold stepsOneAndTwo
  rw [← measuredRom]
  simp only [show (measuredRom s).board.straps.boot.toNat = 0 from hm, hb]
  rfl

theorem stepsOneAndTwo_noBank {s : State} (hm : s.board.straps.boot.toNat = 0) (hb : bootBank (measuredRom s) = none) :
    stepsOneAndTwo s = report { measuredRom s with board := { (measuredRom s).board with phase := .halted 2 } } .bootVerify := by
  unfold stepsOneAndTwo
  rw [← measuredRom]
  simp only [show (measuredRom s).board.straps.boot.toNat = 0 from hm, hb]

theorem stepsOneAndTwo_recovery {s : State} (hm : s.board.straps.boot.toNat = 1) :
    stepsOneAndTwo s = { measuredRom s with board := { (measuredRom s).board with phase := .powerUp 2 } } := by
  unfold stepsOneAndTwo
  rw [← measuredRom]
  simp only [show (measuredRom s).board.straps.boot.toNat = 1 from hm]

theorem stepsOneAndTwo_badStrap {s : State} (hm : 2 ≤ s.board.straps.boot.toNat) :
    stepsOneAndTwo s = report { measuredRom s with board := { (measuredRom s).board with phase := .halted 1 } } .bootStrap := by
  obtain ⟨m, hm⟩ : ∃ m, s.board.straps.boot.toNat = m + 2 := ⟨_, (Nat.sub_add_cancel hm).symm⟩
  unfold stepsOneAndTwo
  rw [← measuredRom]
  simp only [show (measuredRom s).board.straps.boot.toNat = m + 2 from hm]

/-! ### Step 3 and the steps after it -/

theorem stepThree_waits {s : State} (h : s.board.pwrgd48 = false) : stepThree s = s :=
  if_neg fun hc => by simp [h] at hc

/-- The state in which PWRGD_48 lets step 4 begin: V48_MAIN is good, and its regulators are enabled (R18). -/
def powered (s : State) : State := { s with board := { s.board with pwrgd48 := true, v48On := true } }

/-- PWRGD_48 in step 3 lets the sequence go on (R18). -/
theorem exec_pwrgd48_stepThree {s : State} (hp : s.board.phase = .powerUp 3) : exec .pwrgd48 s = .next (stepsFourToSix (powered s)) := by
  have h : stepThree { s with board := { s.board with pwrgd48 := true } } = stepsFourToSix (powered s) := if_pos ⟨hp, rfl⟩
  rw [← h]
  rfl

/-- The state after MR2 and MR3 are extended (R52). -/
def measuredConfig (s : State) : State :=
  { s with board := extendMr (extendMr s.board 2 (Config.firmwareConfig 2)) 3 (Config.firmwareConfig 3) }

theorem stepsFourToSix_trained {s : State} (h : s.board.trainFail = none) :
    stepsFourToSix s = stepSix (openLog (trainTier (measuredConfig s))) := by
  unfold stepsFourToSix
  rw [← measuredConfig]
  simp only [show (measuredConfig s).board.trainFail = none from h, keepsOff, Option.filter_none]

theorem stepsFourToSix_untrained {s : State} {n : Nat} (h : s.board.trainFail = some n) (hn : n < 64) :
    stepsFourToSix s = stayOff (measuredConfig s) n := by
  unfold stepsFourToSix
  rw [← measuredConfig]
  simp only [show (measuredConfig s).board.trainFail = some n from h, keepsOff, Option.filter_some, hn, decide_true, if_true]

/-- With nothing that fails to train, the DDR-5 tier is on exactly when its population is legal (R20). -/
theorem trainTier_trained {s : State} (h : s.board.trainFail = none) :
    trainTier s = if ddrLegal s.board then { s with board := { s.board with tier2On := true } } else report s (.tierDisabled 0) := by
  unfold trainTier
  simp only [h]

/-- Training the tier changes no more than whether it is on, and the reports (R20). -/
theorem trainTier_changes (s : State) :
    trainTier s = { s with board := { s.board with tier2On := (trainTier s).board.tier2On, events := (trainTier s).board.events } } := by
  unfold trainTier report
  split <;> split <;> rfl

theorem trainTier_tier2On {s : State} (h : s.board.trainFail = none) (hd : ddrLegal s.board = true) : (trainTier s).board.tier2On = true := by
  rw [trainTier_trained h, if_pos hd]

/-- Steps 4 to 6 where every part trains: the module runs and the logbook is open. -/
theorem stepsFourToSix_runs {s : State} (h : s.board.trainFail = none) :
    let t := stepsFourToSix s
    t.board.phase = .running ∧ t.board.pwrgd48 = s.board.pwrgd48 ∧ t.board.v48On = s.board.v48On ∧ t.helm.isOpen = true
      ∧ (ddrLegal s.board = true → t.board.tier2On = true) ∧ Safety.SameMem s t := by
  intro t
  have ht : t = stepSix (openLog (trainTier (measuredConfig s))) := stepsFourToSix_trained h
  rw [ht]
  refine ⟨rfl, ?_, ?_, rfl, fun hd => trainTier_tier2On (s := measuredConfig s) h hd, fun a => ?_⟩ <;> rw [trainTier_changes] <;> rfl

end Sys2Proof.Machine

namespace Sys2Proof

open Sys2Proof.Machine Sys2Proof.Safety

/-- POWER_UP without PWRGD_48 leaves memory and the PWRGD_48 pin, and the board holds the pins and the arguments, in each of its four outcomes. -/
theorem powerUp_outcome {s t : State} {pins : BitVec 9} {dimms : List (Nat × Bool × Nat)} {rt : List (Option Nat)} {tf : Option Nat} {p : PowerPhase}
    (hp : s.board.phase = .held) (ht : stepsOneAndTwo (sampled s pins dimms rt tf) = t)
    (hb : t.board = { (sampled s pins dimms rt tf).board with
      phase := p, measure := t.board.measure, events := t.board.events, bankRunning := t.board.bankRunning, runningVer := t.board.runningVer })
    (hs : t = { s with board := t.board }) :
    ∃ t, exec (.powerUp pins dimms rt tf) s = .next t ∧ t.board.phase = p ∧ t.board.resetN = true ∧ t.board.straps.boot = pins.extractLsb' 0 2
      ∧ t.board.straps.slot = pins.extractLsb' 2 3 ∧ t.board.dimms = dimms ∧ t.board.retrains = rt ∧ t.board.pwrgd48 = s.board.pwrgd48 ∧ SameMem s t := by
  refine ⟨t, (exec_powerUp_held pins dimms rt tf hp).trans (congrArg _ ht), ?_⟩
  refine ⟨?_, ?_, ?_, ?_, ?_, ?_, ?_, fun a => by rw [hs]; rfl⟩ <;> rw [hb] <;> rfl

/-- Settles O40. The board's fields are read off the state that each step of R18 leaves; a cold reset writes every field that it loses. -/
theorem resetAndPowerUp : Obligations.ResetAndPowerUp := by
  unfold Obligations.ResetAndPowerUp
  intro s pins dimms rt tf Cold mode Ups
  have hmode : (sampled s pins dimms rt tf).board.straps.boot.toNat = mode := strapsOf_boot pins
  have hbank := bootBank_measuredRom_sampled s pins dimms rt tf
  have cold : ∀ x g, exec x s = .next { coldReset s with board := { coldBoard s.board with v12Good := g } } → Cold x := fun _ _ hx =>
    ⟨_, hx, rfl, rfl, rfl, rfl, rfl, rfl, rfl, rfl, rfl, rfl, rfl, rfl, rfl, rfl, rfl, rfl, rfl, rfl, rfl, rfl, rfl, rfl, fun _ => rfl⟩
  refine ⟨cold _ _ (exec_coldReset s), cold _ _ (exec_v12AuxLoss s),
    fun hp => ⟨fun hm hb => ?noBank, fun hm hb hg => ?verifies, fun hm => ?recovery, fun hm => ?badStrap⟩,
    exec_powerUp_notHeld pins dimms rt tf, fun hp ht => ?runs, fun n hp ht hn => ?staysOff, exec_bridgeCoreReset s⟩
  case noBank =>
    exact powerUp_outcome hp (stepsOneAndTwo_noBank (hmode.trans hm) (hbank.trans hb)) rfl rfl
  case verifies =>
    obtain ⟨bank, hb⟩ := Option.isSome_iff_exists.mp hb
    exact powerUp_outcome hp ((stepsOneAndTwo_verifies (hmode.trans hm) (hbank.trans hb)).trans (stepThree_waits hg)) rfl rfl
  case recovery =>
    exact powerUp_outcome hp (stepsOneAndTwo_recovery (hmode.trans hm)) rfl rfl
  case badStrap =>
    exact powerUp_outcome hp (stepsOneAndTwo_badStrap (hmode.symm ▸ hm)) rfl rfl
  case runs =>
    exact ⟨_, exec_pwrgd48_stepThree hp, stepsFourToSix_runs (s := powered s) ht⟩
  case staysOff =>
    have hoff := stepsFourToSix_untrained (s := powered s) ht hn
    exact ⟨_, (exec_pwrgd48_stepThree hp).trans (congrArg _ hoff), rfl, rfl, rfl, rfl, fun _ => rfl⟩

end Sys2Proof
end

section
/-! ## Bytes of numbers (R6) -/

namespace Sys2Proof.Machine

theorem rangeFrom_length (n : Nat) : ∀ k, (rangeFrom n k).length = n := by
  induction n with
  | zero => intro k; rfl
  | succ n ih => intro k; simp [rangeFrom, ih]

theorem bytesOf_length (n : Nat) : ∀ v, (bytesOf n v).length = n := by
  induction n with
  | zero => intro v; rfl
  | succ n ih => intro v; simp [bytesOf, ih]

/-- Only the low `n` bytes of a number count. -/
theorem bytesOf_mod (n : Nat) : ∀ v, bytesOf n (v % 2 ^ (8 * n)) = bytesOf n v := by
  induction n with
  | zero => intro v; rfl
  | succ n ih =>
    intro v
    have hpow : 2 ^ (8 * (n + 1)) = 256 * 2 ^ (8 * n) := by rw [Nat.mul_add, Nat.pow_add, Nat.mul_comm]
    have hlow : BitVec.ofNat 8 (v % 2 ^ (8 * (n + 1))) = BitVec.ofNat 8 v := by
      apply BitVec.eq_of_toNat_eq
      rw [BitVec.toNat_ofNat, BitVec.toNat_ofNat, hpow]
      exact Nat.mod_mul_right_mod v 256 _
    rw [bytesOf, bytesOf, hlow, hpow, Nat.mod_mul_right_div_self, ih]

end Sys2Proof.Machine
end

section
/-! ## The management port (R23, R24) -/

namespace Sys2Proof.Machine

/-! ### Replies -/

/-- A reply stands on the board, and nothing but the board changed. -/
def Answered (s t : State) (conn : Nat) (q : Word) (status mtype : Nat) (body : List Byte) : Prop :=
  ({ conn := conn, seqNo := q, status := BitVec.ofNat 16 status, mtype := BitVec.ofNat 16 mtype, body := body } : MgmtReply) ∈ t.board.replies
    ∧ t = { s with board := t.board }

theorem mem_replies_reply (s : State) (conn : Nat) (q : Word) (status mtype : Nat) (body : List Byte) :
    ({ conn := conn, seqNo := q, status := BitVec.ofNat 16 status, mtype := BitVec.ofNat 16 mtype, body := body } : MgmtReply)
      ∈ (reply s conn q status mtype body).board.replies :=
  List.mem_append_right _ (List.mem_singleton.mpr rfl)

/-- A reply answers, beside whatever else a request did to the board. -/
theorem answered_reply {s u : State} (hu : u = { s with board := u.board }) (conn : Nat) (q : Word) (status mtype : Nat) (body : List Byte) :
    Answered s (reply u conn q status mtype body) conn q status mtype body := by
  refine ⟨mem_replies_reply u conn q status mtype body, ?_⟩
  rw [hu]
  rfl

/-! ### What becomes of a request (R24) -/

theorem not_busyHere_of_idle {s : State} (hb : s.board.mgmtBusy = none) (conn : Nat) (self : Instr) : busyHere s conn self = false := by
  simp only [busyHere, hb]

theorem not_busyElsewhere_of_idle {s : State} (hb : s.board.mgmtBusy = none) (conn : Nat) : busyElsewhere s conn = false := by
  simp only [busyElsewhere, hb]

/-- Where nothing is in progress and nothing waits, a request does not wait. -/
theorem not_mustWait_of_idle {s : State} {c : MgmtConn} (hw : c.waiting = []) (hb : s.board.mgmtBusy = none) (self : Instr) :
    mustWait s c self = false := by
  simp only [mustWait, not_busyHere_of_idle hb, hw, List.isEmpty_nil, Bool.not_true, Bool.false_and, Bool.or_false]

/-- A request that is itself the one in progress does not wait. -/
theorem not_mustWait_of_self {s : State} {c : MgmtConn} {self : Instr} (hb : s.board.mgmtBusy = some self) : mustWait s c self = false := by
  simp only [mustWait, busyHere, hb, bne_self_eq_false, Bool.and_false, Bool.or_false]

section
variable {s : State} {conn : Nat} {c : MgmtConn} (hc : s.board.conns.find? (fun x => x.conn == conn) = some c) (hup : mgmtUp s = true)
include hc hup

/-- A request behind another of its connection joins those that wait (R24). -/
theorem request_waits {self : Instr} (hw : mustWait s c self = true) (q : Word) (mtype : Nat) (open_ lenGood : Bool) (act : State → State × Nat × List Byte) :
    request self s conn q mtype open_ lenGood act = .next (setConn s { c with waiting := c.waiting ++ [self] }) := by
  simp only [request, hc, hup, hw, Bool.not_true, Bool.false_eq_true, if_false, if_true]

/-- A client without the right to a request is answered 3 (R24). -/
theorem request_denied {self : Instr} (hw : mustWait s c self = false) (hp : c.enrolled = false) (q : Word) (mtype : Nat) (lenGood : Bool)
    (act : State → State × Nat × List Byte) :
    request self s conn q mtype false lenGood act = .next (reply s conn q 3 mtype []) := by
  simp only [request, hc, hup, hw, hp, Bool.not_true, Bool.not_false, Bool.and_true, Bool.false_eq_true, if_false, if_true]

/-- A request beside a reset or selection of another connection is answered 4 (R24). -/
theorem request_busy {self : Instr} (hw : mustWait s c self = false) (hp : c.enrolled = true) (hb : busyElsewhere s conn = true) (q : Word) (mtype : Nat)
    (open_ lenGood : Bool) (act : State → State × Nat × List Byte) :
    request self s conn q mtype open_ lenGood act = .next (reply s conn q 4 mtype []) := by
  simp only [request, hc, hup, hw, hp, hb, Bool.not_true, Bool.false_and, Bool.false_eq_true, if_false, if_true]

/-- A request that nothing holds up does what its type does, and answers with the status and body that this gives (R24). -/
theorem request_acts {self : Instr} {act : State → State × Nat × List Byte} {u : State} {status : Nat} {body : List Byte} {lenGood : Bool}
    (hw : mustWait s c self = false) (hp : c.enrolled = true) (hb : busyElsewhere s conn = false) (hl : lenGood = true) (ha : act s = (u, status, body))
    (q : Word) (mtype : Nat) (open_ : Bool) :
    request self s conn q mtype open_ lenGood act = .next (reply u conn q status mtype body) := by
  simp only [request, hc, hup, hw, hp, hb, hl, ha, Bool.not_true, Bool.false_and, Bool.false_eq_true, if_false]

/-- As `request_acts`, where nothing is in progress and nothing waits. -/
theorem request_acts_idle {self : Instr} {act : State → State × Nat × List Byte} {u : State} {status : Nat} {body : List Byte} {lenGood : Bool}
    (hp : c.enrolled = true) (hw : c.waiting = []) (hb : s.board.mgmtBusy = none) (hl : lenGood = true) (ha : act s = (u, status, body))
    (q : Word) (mtype : Nat) (open_ : Bool) :
    request self s conn q mtype open_ lenGood act = .next (reply u conn q status mtype body) :=
  request_acts hc hup (not_mustWait_of_idle hw hb self) hp (not_busyElsewhere_of_idle hb conn) hl ha q mtype open_

end

/-- An instruction that ends in a reply, after what else `u` says of the board, answers. -/
theorem exists_answered {s u : State} {x : Instr} {conn : Nat} {q : Word} {status mtype : Nat} {body : List Byte} {P : State → Prop}
    (hx : exec x s = .next (reply u conn q status mtype body)) (hu : u = { s with board := u.board }) (hP : P (reply u conn q status mtype body)) :
    ∃ t, exec x s = .next t ∧ Answered s t conn q status mtype body ∧ P t :=
  ⟨_, hx, answered_reply hu conn q status mtype body, hP⟩

/-! ### Bodies -/

/-- A body of words has eight bytes for each. -/
theorem wordBytes_length (l : List Nat) : (wordBytes l).length = 8 * l.length := by
  induction l with
  | nil => rfl
  | cons x l ih =>
    have h : (wordBytes (x :: l)).length = (bytesOf 8 x).length + (wordBytes l).length := List.length_append
    rw [h, ih, bytesOf_length, List.length_cons]
    omega

/-- The first word of a body. -/
theorem wordBytes_take (x : Nat) (l : List Nat) : (wordBytes (x :: l)).take 8 = bytesOf 8 x :=
  List.take_left' (bytesOf_length 8 x)

/-! ### Requests that take no time -/

/-- The numbers that a TELEMETRY reply carries (R24). -/
def telemetryWords (s : State) : List Nat :=
  [s.board.inputPower, (Config.railVoltage 0).toNat, (Config.railVoltage 1).toNat]
    ++ (rangeFrom 72 0).map (fun i => AMap.getD s.board.sensors i 0)
    ++ (rangeFrom 9 0).map (dieClockMHz s.board)
    ++ (rangeFrom 9 0).map fun d => AMap.getD s.board.correctedCnt d 0

theorem telemetryWords_length (s : State) : (telemetryWords s).length = 93 := by
  simp only [telemetryWords, List.length_append, List.length_map, rangeFrom_length, List.length_cons, List.length_nil]

theorem exec_telemetry (s : State) (conn : Nat) (q : Word) (len : Nat) :
    exec (.telemetry conn q len) s
      = request (.telemetry conn q len) s conn q 1 true (len == 0) fun s => (s, 0, wordBytes (telemetryWords s)) := by rfl

theorem exec_setPowerLimit (s : State) (conn : Nat) (q : Word) (len : Nat) (v : BitVec 32) :
    exec (.setPowerLimit conn q len v) s = request (.setPowerLimit conn q len v) s conn q 2 false (len == 4) fun s =>
      if 2000 ≤ v.toNat ∧ v.toNat ≤ 4200 then ({ s with board := { s.board with powerLimit := v.toNat } }, 0, []) else (s, 5, []) := by rfl

theorem exec_firmwareWrite (s : State) (conn : Nat) (q : Word) (len : Nat) (off : BitVec 32) (data : List Byte) :
    exec (.firmwareWrite conn q len off data) s
      = request (.firmwareWrite conn q len off data) s conn q 4 true (len == 4 + data.length && decide (len ≤ 65536)) fun s =>
        if off.toNat + data.length ≤ bankBytes then
          ({ s with board := { s.board with flash := memSetN s.board.flash (inactiveBank s * bankBytes + off.toNat) data } }, 0, [])
        else (s, 5, []) := by rfl

theorem exec_attest (s : State) (conn : Nat) (q : Word) (len : Nat) (nonce : BitVec 256) :
    exec (.attest conn q len nonce) s = request (.attest conn q len nonce) s conn q 6 true (len == 32) fun s =>
      (s, 0, attestBody s nonce ++ bytesOf 64 (Config.identitySign (attestBody s nonce)).toNat) := by rfl

theorem exec_events (s : State) (conn : Nat) (q : Word) (len : Nat) :
    exec (.events conn q len) s = request (.events conn q len) s conn q 7 true (len == 0) fun s =>
      ({ s with board := { s.board with events := [] } }, 0, wordBytes (s.board.events.map EventReport.number)) := by rfl

theorem exec_unknownType (s : State) (conn : Nat) (q : Word) (ty : BitVec 16) :
    exec (.unknownType conn q ty) s = request (.unknownType conn q ty) s conn q ty.toNat false true fun s => (s, 1, []) := by rfl

/-- What ENROLL_CLIENT does, with its status (R24). -/
def enroll (key : BitVec 256) (s : State) : State × Nat × List Byte :=
  if !recovery s then (s, 3, [])
  else if 16 ≤ s.board.enrolledKeys.length then (s, 5, [])
  else if s.board.enrolledKeys.contains key then (s, 0, [])
  else ({ s with board := { s.board with enrolledKeys := s.board.enrolledKeys ++ [key] } }, 0, [])

theorem exec_enrollClient (s : State) (conn : Nat) (q : Word) (len : Nat) (key : BitVec 256) :
    exec (.enrollClient conn q len key) s
      = request (.enrollClient conn q len key) s conn q 8 true (len == 32 || !recovery s) (enroll key) := by rfl

theorem enroll_notRecovery {s : State} {key : BitVec 256} (hr : s.board.straps.boot ≠ 1) : enroll key s = (s, 3, []) :=
  if_pos (by simp only [recovery, beq_false_of_ne hr, Bool.not_false])

theorem enroll_full {s : State} {key : BitVec 256} (hr : s.board.straps.boot = 1) (hf : 16 ≤ s.board.enrolledKeys.length) : enroll key s = (s, 5, []) := by
  simp [enroll, recovery, hr, hf]

theorem enroll_new {s : State} {key : BitVec 256} (hr : s.board.straps.boot = 1) (hk : s.board.enrolledKeys.contains key = false)
    (hf : s.board.enrolledKeys.length < 16) :
    enroll key s = ({ s with board := { s.board with enrolledKeys := s.board.enrolledKeys ++ [key] } }, 0, []) := by
  simp only [enroll, recovery, hr, hk, Nat.not_le.mpr hf, beq_self_eq_true, Bool.not_true, Bool.false_eq_true, if_false]

/-! ### Connections and measurements -/

/-- A client that may connect does, where a connection is free (R24). -/
theorem exec_managementConnection {s : State} {conn : Nat} {key : BitVec 256} (hup : mgmtUp s = true)
    (hk : s.board.enrolledKeys.contains key = true ∨ s.board.straps.boot = 1) (hn : s.board.conns.length < 4) (hf : ∀ x ∈ s.board.conns, x.conn ≠ conn) :
    exec (.managementConnection conn key) s
      = .next { s with board := { s.board with conns := s.board.conns ++ [{ conn := conn, enrolled := s.board.enrolledKeys.contains key }] } } := by
  have hany : (s.board.conns.any fun x => x.conn == conn) = false :=
    List.any_eq_false.mpr fun x hx => by simpa using hf x hx
  have hright : (s.board.enrolledKeys.contains key || recovery s) = true := by
    simpa [recovery] using hk
  refine if_pos ?_
  simp only [hup, hright, hn, hany, decide_true, Bool.and_self, Bool.not_false]

/-- MR4 to MR7 can be extended (R52). -/
theorem exec_measurementExtend {s : State} {v : Word} (h4 : 4 ≤ v.toNat) (h7 : v.toNat ≤ 7) :
    exec (.measurementExtend v) s = .next { s with board := extendMr s.board v.toNat s.board.measureData } :=
  congrArg Host.Outcome.next (if_pos ⟨h4, h7⟩)

/-! ### FIRMWARE_SELECT -/

/-- The verification begins where nothing stands before it (R24). -/
theorem exec_firmwareSelect_begins {s : State} {conn : Nat} {c : MgmtConn} {q : Word} {v : BitVec 32}
    (hc : s.board.conns.find? (fun x => x.conn == conn) = some c) (hup : mgmtUp s = true) (hw : c.waiting = []) (hb : s.board.mgmtBusy = none) (hv : v.toNat < 2) :
    exec (.firmwareSelect conn q 4 v) s = .next { s with board := { s.board with mgmtBusy := some (.firmwareSelect conn q 4 v) } } := by
  refine if_pos ?_
  simp [selectStarts, hc, hup, hw, hb, hv]

/-- The end of the verification: FIRMWARE_SELECT is in progress no more. -/
def selectEnded (s : State) : State := { s with board := { s.board with mgmtBusy := none } }

/-- What FIRMWARE_SELECT does when it is taken again, with its status (R24, R51). -/
def select (self : Instr) (bank : Nat) (s : State) : State × Nat × List Byte :=
  if 2 ≤ bank then (s, 5, [])
  else
    let s' := if s.board.mgmtBusy = some self then selectEnded s else s
    if bankGood s bank then ({ s' with board := { s'.board with bankSel := some bank } }, 0, []) else (s', 3, [])

theorem select_good {s : State} {self : Instr} {bank : Nat} (hv : bank < 2) (hb : s.board.mgmtBusy = some self) (hg : bankGood s bank = true) :
    select self bank s = ({ selectEnded s with board := { (selectEnded s).board with bankSel := some bank } }, 0, []) := by
  rw [select, if_neg (Nat.not_le.mpr hv), if_pos hb]
  exact if_pos hg

theorem select_bad {s : State} {self : Instr} {bank : Nat} (hv : bank < 2) (hb : s.board.mgmtBusy = some self) (hg : bankGood s bank = false) :
    select self bank s = (selectEnded s, 3, []) := by
  rw [select, if_neg (Nat.not_le.mpr hv), if_pos hb]
  exact if_neg (by rw [hg]; exact Bool.false_ne_true)

/-- FIRMWARE_SELECT in progress, taken again, is a request like others. -/
theorem exec_firmwareSelect_ends {s : State} {conn : Nat} {q : Word} {v : BitVec 32} (hb : s.board.mgmtBusy = some (.firmwareSelect conn q 4 v)) :
    exec (.firmwareSelect conn q 4 v) s = request (.firmwareSelect conn q 4 v) s conn q 5 true true (select (.firmwareSelect conn q 4 v) v.toNat) :=
  if_neg (by simp [selectStarts, hb])

/-- A selection in progress on a connection is not one of another connection. -/
theorem not_busyElsewhere_of_select {s : State} {conn : Nat} {q : Word} {v : BitVec 32} (hb : s.board.mgmtBusy = some (.firmwareSelect conn q 4 v)) :
    busyElsewhere s conn = false := by
  simp only [busyElsewhere, hb, busyConn, bne_self_eq_false]

/-! ### MODULE_RESET (R17) -/

/-- A warm reset begins on a module that runs, where nothing stands before it (R17). -/
theorem exec_moduleReset_begins {s : State} {conn : Nat} {c : MgmtConn} {q : Word}
    (hc : s.board.conns.find? (fun x => x.conn == conn) = some c) (hp : c.enrolled = true) (hw : c.waiting = []) (hb : s.board.mgmtBusy = none)
    (hr : s.board.phase = .running) :
    exec (.moduleReset conn q 0) s
      = .next { warmStart s with board := { (warmStart s).board with mgmtBusy := some (.moduleReset conn q 0) } } := by
  have hcan : warmCan s = true := by simp [warmCan, hr]
  show execModuleReset conn q 0 s = _
  simp only [execModuleReset, hc, hb, reduceCtorEq, and_false, if_false, hp, hw, hcan, and_self, if_true]

/-- Outside of a warm reset, MODULE_RESET of a client without the right to it is a request like others. -/
theorem exec_moduleReset_denied {s : State} {conn : Nat} {c : MgmtConn} {q : Word}
    (hc : s.board.conns.find? (fun x => x.conn == conn) = some c) (hup : mgmtUp s = true) (hp : c.enrolled = false) (hw : c.waiting = [])
    (hb : s.board.mgmtBusy = none) :
    exec (.moduleReset conn q 0) s = .next (reply s conn q 3 3 []) := by
  show execModuleReset conn q 0 s = _
  simp only [execModuleReset, hc, hb, reduceCtorEq, and_false, if_false, hp, Bool.false_eq_true, false_and]
  exact request_denied hc hup (not_mustWait_of_idle hw hb _) hp q 3 _ _

/-- A warm reset with which no other request was merged ends with its answer (R17). -/
theorem exec_moduleReset_ends {s : State} {conn : Nat} {c : MgmtConn} {q : Word}
    (hc : s.board.conns.find? (fun x => x.conn == conn) = some c) (hr : s.board.warmRunning = true) (hb : s.board.mgmtBusy = some (.moduleReset conn q 0)) :
    exec (.moduleReset conn q 0) s = .next (mergeResets (reply (warmSteps s) conn q 0 3 []) conn) := by
  show execModuleReset conn q 0 s = _
  simp only [execModuleReset, hc, hr, hb, and_self, if_true]

/-- With no request to merge, the connection stays as it is. -/
theorem mergeResets_none {s : State} {conn : Nat} {c : MgmtConn} (hc : s.board.conns.find? (fun x => x.conn == conn) = some c) (hw : c.waiting = []) :
    mergeResets s conn = setConn s c := by
  obtain ⟨_, _, _⟩ := c
  subst hw
  simp only [mergeResets, hc, List.filter_nil, List.foldl_nil]

/-- The state in which steps 5 and 6 of a warm reset run: the reset is in progress no more, and the links' next training is taken (R17). -/
def warmEnded (s : State) : State :=
  { s with board := { s.board with retrains := s.board.retrains.drop 1, warmRunning := false, mgmtBusy := none } }

/-- What keeps the helm off in a warm reset: a HBM4 stack that had failed, else the UCIe link that fails now (R18). -/
def warmFails (s : State) : Option Nat :=
  (s.board.trainFail.filter fun n => n < 16) <|> ((s.board.retrains.headD none).filter fun n => 16 ≤ n ∧ n < 64)

/-- The state in which step 6 of a warm reset runs: a logbook that no step 6 had opened is opened. -/
def warmOpened (s : State) : State :=
  if s.helm.isOpen then s
  else openLog (trainTier { s with board := { s.board with trainFail := s.board.trainFail.filter fun n => 64 ≤ n } })

theorem warmFails_none {s : State} (ht : s.board.trainFail = none) (hr : s.board.retrains.headD none = none) : warmFails s = none := by
  unfold warmFails
  rw [ht, hr]
  rfl

theorem warmFails_link {s : State} {n : Nat} (ht : s.board.trainFail = none) (hr : s.board.retrains.headD none = some n) (h16 : 16 ≤ n) (h64 : n < 64) :
    warmFails s = some n := by
  unfold warmFails
  rw [ht, hr, Option.filter_none, Option.filter_some, if_pos (decide_eq_true ⟨h16, h64⟩)]
  rfl

theorem warmSteps_staysOff {s : State} {n : Nat} (h : warmFails s = some n) : warmSteps s = stayOff (warmEnded s) n := by
  unfold warmFails at h
  unfold warmSteps
  rw [← warmEnded]
  simp only [show (warmEnded s).board.trainFail = s.board.trainFail from rfl, h]

theorem warmSteps_goesOn {s : State} (h : warmFails s = none) : warmSteps s = stepSix (warmOpened (warmEnded s)) := by
  unfold warmFails at h
  unfold warmSteps
  rw [← warmEnded]
  simp only [show (warmEnded s).board.trainFail = s.board.trainFail from rfl, h]
  rfl

/-- Two boards agree in what is in progress, in the connections and in the links' next trainings. -/
def SameRequests (b d : ModuleState) : Prop :=
  d.warmRunning = b.warmRunning ∧ d.mgmtBusy = b.mgmtBusy ∧ d.retrains = b.retrains ∧ d.conns = b.conns

theorem sameRequests_trainTier (s : State) : SameRequests s.board (trainTier s).board := by
  rw [trainTier_changes]
  exact ⟨rfl, rfl, rfl, rfl⟩

theorem sameRequests_warmOpened (s : State) : SameRequests s.board (warmOpened s).board := by
  unfold warmOpened
  split
  next => exact ⟨rfl, rfl, rfl, rfl⟩
  next => exact sameRequests_trainTier _

/-- A warm reset ends, whichever parts train. -/
theorem sameRequests_warmSteps (s : State) : SameRequests (warmEnded s).board (warmSteps s).board := by
  cases h : warmFails s with
  | some n => rw [warmSteps_staysOff h]; exact ⟨rfl, rfl, rfl, rfl⟩
  | none => rw [warmSteps_goesOn h]; exact sameRequests_warmOpened (warmEnded s)

end Sys2Proof.Machine

namespace Sys2Proof

open Sys2Proof.Machine Sys2Proof.Safety

/-- Settles O42. Each request is `request` with what its type does; which of its ends is taken follows from the connection and the request in progress. -/
theorem managementRequests : Obligations.ManagementRequests := by
  unfold Obligations.ManagementRequests
  intro s conn q key nonce v data ty m c b Answers Does bank
  refine ⟨fun hup hk hn hf => ⟨_, _, exec_managementConnection hup hk hn hf, List.mem_append_right _ (List.mem_singleton.mpr rfl), rfl, rfl, rfl⟩,
    fun h4 h7 => ⟨_, exec_measurementExtend h4 h7, rfl, AMap.getD_set_self _ _ _ _⟩,
    fun hc hup => ⟨fun i hi => ⟨fun hconn => ?waits, fun hconn hw hp => ?busy⟩, fun hp hw hb => ⟨?unknownDenied, ?powerDenied, ?resetDenied⟩,
      fun hp hw hb => ⟨?unknown, ?telemetry, fun hlo hhi => ?power, fun hout => ?powerOut, fun hfit hlen => ?firmware, ?attest, ?events,
        fun hr => ?enrollDenied, fun hr hfull => ?enrollFull, fun hr hk hn => ?enroll, fun hv => ?selectBegins, fun hr => ?resetBegins⟩,
      fun hv hp hb => ⟨fun hg => ?selectGood, fun hg => ?selectBad⟩, fun hr hb hw ht => ?resetEnds⟩⟩
  case waits =>
    have hcc : c.conn = conn := by simpa using List.find?_some hc
    have hne : i ≠ .telemetry conn q 0 := by
      rintro rfl
      simp [busyConn] at hconn
    have hhere : busyHere s c.conn (.telemetry conn q 0) = true := by
      simp [busyHere, show s.board.mgmtBusy = some i from hi, hconn, hcc, hne]
    rw [exec_telemetry]
    exact request_waits hc hup (by rw [mustWait, hhere, Bool.true_or]) q 1 true _ _
  case busy =>
    have hcc : c.conn = conn := by simpa using List.find?_some hc
    have helse : busyElsewhere s conn = true := by
      simp [busyElsewhere, show s.board.mgmtBusy = some i from hi, hconn]
    have hhere : ∀ self, mustWait s c self = false := fun self => by
      simp [mustWait, busyHere, show s.board.mgmtBusy = some i from hi, hconn, hcc, hw]
    exact exists_answered ((exec_setPowerLimit s conn q 4 v).trans (request_busy hc hup (hhere _) hp helse q 2 false _ _)) rfl rfl
  case unknownDenied =>
    exact exists_answered ((exec_unknownType s conn q ty).trans (request_denied hc hup (not_mustWait_of_idle hw hb _) hp q _ _ _)) rfl trivial
  case powerDenied =>
    exact exists_answered ((exec_setPowerLimit s conn q 4 v).trans (request_denied hc hup (not_mustWait_of_idle hw hb _) hp q 2 _ _)) rfl rfl
  case resetDenied =>
    exact exists_answered (exec_moduleReset_denied hc hup hp hw hb) rfl rfl
  case unknown =>
    exact exists_answered ((exec_unknownType s conn q ty).trans (request_acts_idle hc hup hp hw hb rfl rfl q _ false)) rfl trivial
  case telemetry =>
    refine ⟨_, exists_answered ((exec_telemetry s conn q 0).trans (request_acts_idle hc hup hp hw hb rfl rfl q 1 true)) rfl ⟨?_, ?_⟩⟩
    · rw [wordBytes_length, telemetryWords_length]
    · exact wordBytes_take _ _
  case power =>
    exact exists_answered ((exec_setPowerLimit s conn q 4 v).trans (request_acts_idle hc hup hp hw hb rfl (if_pos ⟨hlo, hhi⟩) q 2 false)) rfl rfl
  case powerOut =>
    have hout : ¬(2000 ≤ v.toNat ∧ v.toNat ≤ 4200) := by omega
    exact exists_answered ((exec_setPowerLimit s conn q 4 v).trans (request_acts_idle hc hup hp hw hb rfl (if_neg hout) q 2 false)) rfl rfl
  case firmware =>
    have hl : (4 + data.length == 4 + data.length && decide (4 + data.length ≤ 65536)) = true := by
      rw [beq_self_eq_true, Bool.true_and]
      exact decide_eq_true (by omega)
    exact exists_answered ((exec_firmwareWrite s conn q _ v data).trans (request_acts_idle hc hup hp hw hb hl (if_pos hfit) q 4 true)) rfl rfl
  case attest =>
    exact exists_answered ((exec_attest s conn q 32 nonce).trans (request_acts_idle hc hup hp hw hb rfl rfl q 6 true)) rfl rfl
  case events =>
    refine ⟨_, exists_answered ((exec_events s conn q 0).trans (request_acts_idle hc hup hp hw hb rfl rfl q 7 true)) rfl ⟨rfl, ?_⟩⟩
    rw [wordBytes_length, List.length_map]
  case enrollDenied =>
    exact exists_answered ((exec_enrollClient s conn q 32 key).trans (request_acts_idle hc hup hp hw hb rfl (enroll_notRecovery hr) q 8 true)) rfl rfl
  case enrollFull =>
    exact exists_answered ((exec_enrollClient s conn q 32 key).trans (request_acts_idle hc hup hp hw hb rfl (enroll_full hr hfull) q 8 true)) rfl rfl
  case enroll =>
    exact exists_answered ((exec_enrollClient s conn q 32 key).trans (request_acts_idle hc hup hp hw hb rfl (enroll_new hr hk hn) q 8 true)) rfl rfl
  case selectBegins =>
    exact ⟨_, exec_firmwareSelect_begins hc hup hw hb hv, rfl, rfl⟩
  case resetBegins =>
    exact ⟨_, exec_moduleReset_begins hc hp hw hb hr, rfl, rfl, rfl, rfl, rfl, rfl, rfl⟩
  case selectGood =>
    exact exists_answered ((exec_firmwareSelect_ends hb).trans (request_acts hc hup (not_mustWait_of_self hb) hp (not_busyElsewhere_of_select hb) rfl
      (select_good hv hb hg) q 5 true)) rfl ⟨rfl, rfl⟩
  case selectBad =>
    exact exists_answered ((exec_firmwareSelect_ends hb).trans (request_acts hc hup (not_mustWait_of_self hb) hp (not_busyElsewhere_of_select hb) rfl
      (select_bad hv hb hg) q 5 true)) rfl ⟨rfl, rfl⟩
  case resetEnds =>
    obtain ⟨hwarm, hbusy, hre, hconns⟩ := sameRequests_warmSteps s
    have hc' : (reply (warmSteps s) conn q 0 3 []).board.conns.find? (fun x => x.conn == conn) = some c :=
      (congrArg (List.find? fun x => x.conn == conn) hconns).trans hc
    refine ⟨_, (exec_moduleReset_ends hc hr hb).trans (congrArg _ (mergeResets_none hc' hw)), hwarm, hbusy, mem_replies_reply _ conn q 0 3 [], hre,
      fun hn => ?_, fun n hn h16 h64 => ?_⟩
    · rw [warmSteps_goesOn (warmFails_none ht hn)]
      rfl
    · rw [warmSteps_staysOff (warmFails_link ht hn h16 h64)]
      exact ⟨rfl, rfl⟩

end Sys2Proof
end

section
/-! ## What outside agents reach: bytes, clean lines, writes at the home (R22, R26, R46, R47, R224) -/

namespace Sys2Proof.Machine

/-! ### Bytes of a state -/

theorem bytesAt_congr {s t : State} (n : Nat) : ∀ k, (∀ a, k ≤ a → a < k + n → t.byteAt a = s.byteAt a) → t.bytesAt n k = s.bytesAt n k := by
  induction n with
  | zero => intro k _; rfl
  | succ n ih =>
    intro k h
    rw [State.bytesAt, State.bytesAt, h k (Nat.le_refl k) (by omega), ih (k + 1) fun a h1 h2 => h a (by omega) (by omega)]

/-- Bytes that read alike one by one read alike. -/
theorem bytesAt_of_byteAt {s : State} (bs : List Byte) : ∀ k, (∀ a, k ≤ a → a < k + bs.length → s.byteAt a = bs.getD (a - k) 0) → s.bytesAt bs.length k = bs := by
  induction bs with
  | nil => intro k _; rfl
  | cons b bs ih =>
    intro k h
    have hrest : s.bytesAt bs.length (k + 1) = bs := ih (k + 1) fun a h1 h2 => by
      rw [h a (by omega) (by rw [List.length_cons]; omega), show a - k = a - (k + 1) + 1 by omega, List.getD_cons_succ]
    rw [List.length_cons, State.bytesAt, h k (Nat.le_refl k) (by rw [List.length_cons]; omega), hrest, Nat.sub_self, List.getD_cons_zero]

/-- The bytes stored at a place are read from there. -/
theorem bytesAt_of_stored {k : Nat} {bs : List Byte} {s t : State} (h : Safety.Stored k bs s t) : t.bytesAt bs.length k = bs :=
  bytesAt_of_byteAt bs k fun a h1 h2 => by rw [h a, if_pos ⟨h1, h2⟩]

/-! ### What an access beside its bytes leaves -/

/-- What homes hold, their marks, keys, owners and threads are as before: all that an access which stores nothing leaves. -/
structure HomesKept (s t : State) : Prop where
  mem : t.mem = s.mem
  loose : t.loose = s.loose
  fresh : t.fresh = s.fresh
  poison : t.poison = s.poison
  lines : t.lines = s.lines
  own : t.own = s.own
  threads : t.threads = s.threads

namespace HomesKept

theorem refl (s : State) : HomesKept s s := ⟨rfl, rfl, rfl, rfl, rfl, rfl, rfl⟩

theorem trans {s t u : State} (h : HomesKept s t) (h' : HomesKept t u) : HomesKept s u :=
  ⟨h'.mem.trans h.mem, h'.loose.trans h.loose, h'.fresh.trans h.fresh, h'.poison.trans h.poison, h'.lines.trans h.lines, h'.own.trans h.own,
    h'.threads.trans h.threads⟩

theorem byteAt {s t : State} (h : HomesKept s t) (a : Nat) : t.byteAt a = s.byteAt a := byteAt_congr h.mem h.loose h.fresh a

theorem sameMem {s t : State} (h : HomesKept s t) : Safety.SameMem s t := h.byteAt

theorem bytesAt {s t : State} (h : HomesKept s t) (n k : Nat) : t.bytesAt n k = s.bytesAt n k := bytesAt_congr n k fun a _ _ => h.byteAt a

theorem poisoned {s t : State} (h : HomesKept s t) (a n : Nat) : Machine.poisoned t a n = Machine.poisoned s a n := by
  rw [Machine.poisoned, h.poison]; rfl

theorem keyOf {s t : State} (h : HomesKept s t) (o : BitVec 12) : Machine.keyOf t o = Machine.keyOf s o := by
  rw [Machine.keyOf, getOwner, h.own]; rfl

theorem lineForeign {s t : State} (h : HomesKept s t) (k keyNo v : Nat) : Machine.lineForeign t k keyNo v = Machine.lineForeign s k keyNo v := by
  rw [Machine.lineForeign, h.lines]; rfl

end HomesKept

theorem homesKept_accessOk (s : State) (ok : Bool) : HomesKept s { s with accessOk := ok } := ⟨rfl, rfl, rfl, rfl, rfl, rfl, rfl⟩

theorem homesKept_readData (s : State) (v : Word) : HomesKept s { s with readData := v } := ⟨rfl, rfl, rfl, rfl, rfl, rfl, rfl⟩

theorem homesKept_countAccess (s : State) (o : BitVec 12) (va : Word) : HomesKept s (countAccess s o va) := by
  dsimp only [countAccess]
  split <;> exact ⟨rfl, rfl, rfl, rfl, rfl, rfl, rfl⟩

theorem countAccess_accessOk (s : State) (o : BitVec 12) (va : Word) : (countAccess s o va).accessOk = s.accessOk := by
  dsimp only [countAccess]
  split <;> rfl

theorem homesKept_outerSaw (s : State) (ends : List RelEnd) : HomesKept s (outerSaw s ends) := by
  unfold outerSaw
  split <;> exact ⟨rfl, rfl, rfl, rfl, rfl, rfl, rfl⟩

theorem outerSaw_accessOk (s : State) (ends : List RelEnd) : (outerSaw s ends).accessOk = s.accessOk := by
  unfold outerSaw
  split <;> rfl

theorem homesKept_reportWalk (s : State) (o : BitVec 12) (va : Word) : HomesKept s (reportWalk s o va) := by
  unfold reportWalk
  split <;> exact ⟨rfl, rfl, rfl, rfl, rfl, rfl, rfl⟩

/-- A walk of each page of a stretch leaves the homes too. -/
theorem homesKept_reportWalks (s : State) (o : BitVec 12) (va : Word) (n : Nat) : HomesKept s (reportWalks s o va n) := by
  unfold reportWalks
  generalize rangeFrom ((bits va 15 0 + n + 65535) / 65536) 0 = pages
  induction pages generalizing s with
  | nil => exact HomesKept.refl s
  | cons i pages ih => exact (homesKept_reportWalk s o _).trans (ih _)

/-! ### Reads at the home -/

/-- The bytes of a page can be read under an owner's key: no mark stands on them, and their line is enciphered under no other key or address. -/
def Clean (s : State) (o : BitVec 12) (va : Word) (key n : Nat) : Prop :=
  poisoned s key n = false ∧ lineForeign s key (keyOf s o) (bits va 54 6) = false

theorem Clean.of_kept {s t : State} {o : BitVec 12} {va : Word} {key n : Nat} (h : Clean s o va key n) (ht : HomesKept s t) : Clean t o va key n := by
  rw [Clean, ht.poisoned, ht.keyOf, ht.lineForeign]
  exact h

theorem readAt_clean {s : State} {o : BitVec 12} {va : Word} {key n : Nat} (h : Clean s o va key n) (c : Option Nat) (clk : Clock) :
    readAt s c o clk va n key false = (s.bytesAt n key, false) := by
  obtain ⟨hp, hl⟩ := h
  simp only [readAt, readBad, hp, hl, Bool.and_false, Bool.false_eq_true, if_false]

/-- A read of clean bytes of a home-class page gives them. -/
theorem outerRead_bytes {s : State} {o : BitVec 12} {va : Word} {key n : Nat} (h : Clean s o va key n) :
    (outerRead s o va n (.home key none)).1 = s.bytesAt n key := by
  have hk := homesKept_countAccess s o va
  show (readAt (countAccess s o va) none o _ va n key false).1 = _
  rw [readAt_clean (h.of_kept hk), hk.bytesAt]

theorem homesKept_outerRead (s : State) (o : BitVec 12) (va : Word) (n key : Nat) : HomesKept s (outerRead s o va n (.home key none)).2 :=
  (homesKept_countAccess s o va).trans (homesKept_outerSaw _ _)

theorem outerRead_accessOk (s : State) (o : BitVec 12) (va : Word) (n key : Nat) : (outerRead s o va n (.home key none)).2.accessOk = s.accessOk :=
  (outerSaw_accessOk _ _).trans (countAccess_accessOk s o va)

/-- A read of clean bytes of a home-class page completes with their value and leaves the homes. -/
theorem outerAccess_read {s : State} {o : BitVec 12} {va : Word} {key n : Nat} (h : Clean s o va key n) (v : Word) :
    let t := outerAccess s o va n (.home key none) false v
    t.accessOk = true ∧ t.readData = BitVec.ofNat 64 (ofBytes (s.bytesAt n key)) ∧ HomesKept s t := by
  have hs : HomesKept s { s with accessOk := true } := homesKept_accessOk s true
  have hr := outerRead_bytes (h.of_kept hs)
  exact ⟨outerRead_accessOk { s with accessOk := true } o va n key, congrArg (fun bs => BitVec.ofNat 64 (ofBytes bs)) (hr.trans (hs.bytesAt n key)),
    (hs.trans (homesKept_outerRead { s with accessOk := true } o va n key)).trans (homesKept_readData _ _)⟩

/-! ### Writes at the home -/

/-- A line that no other key or address enciphers is claimed without a loss: only the record of lines changes. -/
theorem claimLine_clean {s : State} {key keyNo v : Nat} (h : lineForeign s key keyNo v = false) :
    claimLine s key keyNo v = { s with lines := if globalKey key then AMap.set s.lines (key / 64) (keyNo, v) else s.lines } := by
  unfold claimLine
  split
  next => simp only [h, Bool.false_eq_true, if_false]
  next => rfl

/-- The outcome of a write of an outside agent at the home: the bytes stand, and lines that were clean under the same key stay so where the write
does not claim them for another address. -/
structure HomeWritten (s t : State) (key keyNo v : Nat) (bs : List Byte) : Prop where
  stored : Safety.Stored key bs s t
  wf : Memory.wf t.mem = true
  lines : ∀ k w, lineForeign s k keyNo w = false → (k / 64 = key / 64 → w = v) → lineForeign t k keyNo w = false
  own : t.own = s.own
  threads : t.threads = s.threads
  accessOk : t.accessOk = s.accessOk

theorem HomeWritten.keyOf {s t : State} {key keyNo v : Nat} {bs : List Byte} (h : HomeWritten s t key keyNo v bs) (o : BitVec 12) :
    Machine.keyOf t o = Machine.keyOf s o := by
  rw [Machine.keyOf, getOwner, h.own]; rfl

/-- A line under the same key and address, or another line, is as clean as before. -/
theorem lineForeign_claimed {s : State} {key keyNo v k w : Nat} (h : lineForeign s k keyNo w = false) (hv : k / 64 = key / 64 → w = v)
    (hc : lineForeign s key keyNo v = false) : lineForeign (claimLine s key keyNo v) k keyNo w = false := by
  rw [claimLine_clean hc]
  unfold lineForeign at h ⊢
  by_cases hg : globalKey key = true
  · by_cases hk : k / 64 = key / 64
    · simp only [hg, if_true, hk, AMap.find_set_self, hv hk, bne_self_eq_false]
    · simpa only [hg, if_true, AMap.find_set_ne _ _ hk] using h
  · simpa only [if_neg hg] using h

/-- A performed write in a claimed clean line is a write at the home. -/
theorem homeWritten_performWrite {s : State} {key keyNo v : Nat} (hc : lineForeign s key keyNo v = false) (hwf : Memory.wf s.mem = true)
    (bs : List Byte) (w : Writer) (rel : List RelEnd) (track : Bool) :
    HomeWritten s (performWrite (claimLine s key keyNo v) key bs w rel track) key keyNo v bs where
  stored a := by
    rw [byteAt_performWrite _ _ _ _ _ _ (by rw [claimLine_clean hc]; exact hwf), claimLine_clean hc]
    rfl
  wf := performWrite_wf _ _ _ _ _ _ (by rw [claimLine_clean hc]; exact hwf)
  lines k w h hv := lineForeign_claimed h hv hc
  own := by rw [performWrite_own, claimLine_clean hc]
  threads := by rw [performWrite_threads, claimLine_clean hc]
  accessOk := by rw [performWrite_accessOk, claimLine_clean hc]

/-- A write is one from each state that holds the same. -/
theorem HomeWritten.of_kept {s u t : State} {key keyNo v : Nat} {bs : List Byte} (h : HomeWritten u t key keyNo v bs) (hk : HomesKept s u) :
    Safety.Stored key bs s t ∧ t.threads = s.threads :=
  ⟨fun a => by rw [h.stored a, hk.byteAt], h.threads.trans hk.threads⟩

/-- A write of an outside agent in a clean line, of a page of any class. -/
theorem homeWritten_outerWrite {s : State} {o : BitVec 12} {va : Word} {key : Nat} {r : Reach} (hr : r = .home key none ∨ r = .cached key none)
    (hc : lineForeign s key (keyOf s o) (bits va 54 6) = false) (hwf : Memory.wf s.mem = true) (bs : List Byte) :
    HomeWritten s (outerWrite s o va r bs) key (keyOf s o) (bits va 54 6) bs := by
  have hk := homesKept_countAccess s o va
  have hwritten : ∀ w rel track, HomeWritten s
      (performWrite (claimLine (countAccess s o va) key (keyOf (countAccess s o va) o) (bits va 54 6)) key bs w rel track) key (keyOf s o) (bits va 54 6) bs := by
    intro w rel track
    rw [hk.keyOf]
    have h := homeWritten_performWrite (s := countAccess s o va) ((hk.lineForeign _ _ _).trans hc) (by rw [hk.mem]; exact hwf) bs w rel track
    exact ⟨fun a => by rw [h.stored a, hk.byteAt], h.wf, fun k x hx => h.lines k x ((hk.lineForeign _ _ _).trans hx), h.own.trans hk.own,
      h.threads.trans hk.threads, h.accessOk.trans (countAccess_accessOk s o va)⟩
  rcases hr with rfl | rfl
  · exact hwritten _ _ _
  · exact hwritten _ _ _

/-- A write that reached its page completes, with its bytes at the home. -/
theorem outerAccess_write {s : State} {o : BitVec 12} {va : Word} {key n : Nat} {r : Reach} (hr : r = .home key none ∨ r = .cached key none)
    (hc : lineForeign s key (keyOf s o) (bits va 54 6) = false) (hwf : Memory.wf s.mem = true) (v : Word) :
    let t := outerAccess s o va n r true v
    t.accessOk = true ∧ Safety.Stored key (bytesOf n v.toNat) s t ∧ t.threads = s.threads := by
  have hk := homesKept_accessOk s true
  have h := homeWritten_outerWrite (s := { s with accessOk := true }) hr hc hwf (bytesOf n v.toNat)
  exact ⟨h.accessOk, h.of_kept hk⟩

/-- A read-modify-write changes the home as a write does. -/
theorem byteAt_rmwHome (s : State) (a : Nat) (bs : List Byte) (w : Writer) (track : Bool) (own : List RelEnd) (x : Nat) :
    (rmwHome s a bs w track own).byteAt x = (performWrite s a bs w [] track).byteAt x := by rfl

/-- An integer addition of an outside agent in a clean line writes the sum, in as many bytes as its element has (R47, R334). -/
theorem atomicAdd_integer {s : State} {o : BitVec 12} {va : Word} {key n : Nat} (hn : n = 4 ∨ n = 8) (h : Clean s o va key n) (hwf : Memory.wf s.mem = true)
    (w : Writer) (hw : w.flagAt = none) (v : Nat) :
    let t := atomicAdd s o w va key false n (if n = 8 then 2 else 1) v
    t.accessOk = s.accessOk ∧ Safety.Stored key (bytesOf n (ofBytes (s.bytesAt n key) + v)) s t ∧ t.threads = s.threads := by
  obtain ⟨hp, hc⟩ := h
  have hl := claimLine_clean hc
  have hp' : poisoned (claimLine s key (keyOf s o) (bits va 54 6)) key n = false := by rw [hl]; exact hp
  have hb : (claimLine s key (keyOf s o) (bits va 54 6)).bytesAt n key = s.bytesAt n key := by
    rw [hl]; exact bytesAt_congr n key fun _ _ _ => rfl
  have hsum : bytesOf n (addElem (if n = 8 then 2 else 1) (ofBytes (s.bytesAt n key)) v) = bytesOf n (ofBytes (s.bytesAt n key) + v) := by
    rcases hn with rfl | rfl
    · exact bytesOf_mod 4 _
    · exact bytesOf_mod 8 _
  have hflag : ∀ (u : State) (bs : List Byte), rmwWrite u key bs w false [] = rmwHome u key bs w false [] := fun u bs => by
    simp only [rmwWrite, clearTileFlag, mkWrite, hw]
  intro t
  have ht : t = rmwHome (claimLine s key (keyOf s o) (bits va 54 6)) key (bytesOf n (ofBytes (s.bytesAt n key) + v)) w false [] := by
    simp only [t, atomicAdd, Bool.false_eq_true, if_false, hp', hb, hsum, hflag]
  have hwritten := homeWritten_performWrite hc hwf (bytesOf n (ofBytes (s.bytesAt n key) + v)) w [] false
  rw [ht]
  exact ⟨hwritten.accessOk, fun a => (byteAt_rmwHome _ _ _ _ _ _ a).trans (hwritten.stored a), hwritten.threads⟩

end Sys2Proof.Machine
end

section
/-! ## Apertures, PCIe and Meridian accesses (R16, R22, R26, R47, R223, R391) -/

namespace Sys2Proof.Machine

/-! ### Apertures (R26, R391) -/

/-- The state after a failed aperture access: AFAULT is set (R26). -/
def apertureFails (s : State) (n : Nat) (wr : Bool) : State := outerFails { s with helm := { s.helm with afault := true } } n wr

section
variable {s : State} {ap : BitVec 8} {off : BitVec 36} {n : Nat} {wr : Bool} {v c : Word} (hc : AMap.getD s.helm.apertures ap.toNat 0 = c)
include hc

/-- An aperture access of a valid window, size and alignment that its owner's tables allow (R391). -/
theorem exec_apertureAccess_reached {r : Reach} (hv : bitAt c 63 = true) (hs : scalarAccess (apertureVa c off) n = true)
    (hr : outerReach s (c.extractLsb' 51 12) (apertureVa c off) n (if wr then .write else .read) pteApt = some r) :
    exec (.apertureAccess ap off n wr v) s = .next (outerAccess s (c.extractLsb' 51 12) (apertureVa c off) n r wr v) := by
  show Host.Outcome.next (accessAperture s ap off n wr v) = _
  simp only [accessAperture, hc, hv, hs, hr, Bool.not_true, Bool.or_self, Bool.false_eq_true, if_false]

/-- An aperture access fails where its window, size or alignment is bad or its owner's tables refuse it; a walk that it made may be reported (R391). -/
theorem exec_apertureAccess_fails (h : bitAt c 63 = false ∨ scalarAccess (apertureVa c off) n = false
      ∨ outerReach s (c.extractLsb' 51 12) (apertureVa c off) n (if wr then .write else .read) pteApt = none) :
    ∃ u, HomesKept s u ∧ exec (.apertureAccess ap off n wr v) s = .next (apertureFails u n wr) := by
  show ∃ u, HomesKept s u ∧ Host.Outcome.next (accessAperture s ap off n wr v) = _
  by_cases hbad : (!bitAt c 63 || !scalarAccess (apertureVa c off) n) = true
  · refine ⟨s, HomesKept.refl s, ?_⟩
    simp only [accessAperture, hc, hbad, if_true]
    rfl
  · have hr := (h.resolve_left fun e => hbad (by rw [e]; rfl)).resolve_left fun e => hbad (by rw [e, Bool.not_false, Bool.or_true])
    refine ⟨reportWalk s (c.extractLsb' 51 12) (apertureVa c off), homesKept_reportWalk _ _ _, ?_⟩
    simp only [accessAperture, hc, if_neg hbad, hr]
    rfl

end

/-- A failed aperture access sets AFAULT, reads all ones and leaves the homes (R26). -/
theorem apertureFails_outcome {s u : State} (h : HomesKept s u) (n : Nat) (wr : Bool) :
    let t := apertureFails u n wr
    t.helm.afault = true ∧ t.accessOk = false ∧ Safety.SameMem s t ∧ (wr = false → t.readData = BitVec.ofNat 64 (2 ^ (8 * n) - 1)) := by
  refine ⟨rfl, rfl, fun a => h.byteAt a, fun hw => ?_⟩
  subst hw
  rfl

/-! ### PCIe requests (R16, R22) -/

/-- Parts of a request, each with the key of a home-class page that it reached. -/
def homeParts (es : List ((Word × Nat) × Nat)) : List ((Word × Nat) × Reach) := es.map fun e => (e.1, .home e.2 none)

/-- The parts paired with what they reached. -/
theorem zip_reached {parts : List (Word × Nat)} {f : Word × Nat → Option Reach} : ∀ {keys : List Nat}, keys.length = parts.length →
    (∀ e ∈ parts.zip keys, f e.1 = some (.home e.2 none)) →
    (parts.map f).all Option.isSome = true ∧ parts.zip ((parts.map f).filterMap id) = homeParts (parts.zip keys) := by
  induction parts with
  | nil => intro keys _ _; exact ⟨rfl, rfl⟩
  | cons p parts ih =>
    intro keys hlen h
    cases keys with
    | nil => cases hlen
    | cons k keys =>
      have hp : f p = some (.home k none) := h (p, k) List.mem_cons_self
      obtain ⟨hall, hzip⟩ := ih (Nat.succ.inj hlen) fun e he => h e (List.mem_cons_of_mem _ he)
      refine ⟨by rw [List.map_cons, List.all_cons, hp, hall]; rfl, ?_⟩
      rw [List.map_cons, List.filterMap_cons_some (b := Reach.home k none) (by rw [hp]; rfl), List.zip_cons_cons, hzip]
      rfl

/-- The parts of clean bytes are read in order, and the homes are left. -/
theorem foldl_pcieRead {o : BitVec 12} (es : List ((Word × Nat) × Nat)) : ∀ (s : State) (acc : List Byte),
    (∀ e ∈ es, Clean s o e.1.1 e.2 e.1.2) →
    let x := (homeParts es).foldl (pcieRead o) (s, acc)
    HomesKept s x.1 ∧ x.1.accessOk = s.accessOk ∧ x.2 = acc ++ es.flatMap fun e => s.bytesAt e.1.2 e.2 := by
  induction es with
  | nil => intro s acc _; exact ⟨HomesKept.refl s, rfl, (List.append_nil acc).symm⟩
  | cons e es ih =>
    intro s acc h
    obtain ⟨⟨va, n⟩, key⟩ := e
    have hk := homesKept_outerRead s o va n key
    have hb := outerRead_bytes (h ((va, n), key) List.mem_cons_self)
    obtain ⟨hkept, hok, hbytes⟩ := ih (outerRead s o va n (.home key none)).2 (acc ++ (outerRead s o va n (.home key none)).1)
      fun e he => (h e (List.mem_cons_of_mem _ he)).of_kept hk
    refine ⟨hk.trans hkept, hok.trans (outerRead_accessOk s o va n key), ?_⟩
    refine hbytes.trans ?_
    simp only [hb, hk.bytesAt, List.flatMap_cons, List.append_assoc]

/-- A PCIe request that its port, size and tables allow: the parts are accessed in address order (R22). -/
theorem exec_pcieRequest_reached {s : State} {port : BitVec 1} {o : BitVec 12} {va : Word} {n : Nat} {wr : Bool} {data : List Byte} {keys : List Nat}
    (hport : portDisabled s port = false) (hsize : pcieSize n wr data = true) (hlen : keys.length = (wordParts 514 va n).length)
    (h : ∀ e ∈ (wordParts 514 va n).zip keys, outerReach s o e.1.1 e.1.2 (if wr then .write else .read) pteApt = some (.home e.2 none)) :
    exec (.pcieRequest port false o va n wr data) s =
      .next (if wr then ((homeParts ((wordParts 514 va n).zip keys)).foldl (pcieWrite o) ({ s with accessOk := true }, data)).1
        else
          let x := (homeParts ((wordParts 514 va n).zip keys)).foldl (pcieRead o) ({ s with accessOk := true }, [])
          { x.1 with readBytes := x.2, readData := BitVec.ofNat 64 (ofBytes (x.2.take 8)) }) := by
  obtain ⟨hall, hzip⟩ := zip_reached (f := fun p => outerReach s o p.1 p.2 (if wr then .write else .read) pteApt) hlen h
  show execPcieRequest port false o va n wr data s = _
  simp only [execPcieRequest, hport, hsize, hall, hzip, Bool.not_true, Bool.or_self, Bool.false_eq_true, if_false, if_true]
  cases wr <;> rfl

/-- A PCIe request to the other port, at a disabled port, of a bad size, or with a part that is refused, fails as a whole (R16, R22, R92). -/
theorem exec_pcieRequest_fails {s : State} {port : BitVec 1} {other : Bool} {o : BitVec 12} {va : Word} {n : Nat} {wr : Bool} {data : List Byte}
    (h : other = true ∨ portDisabled s port = true ∨ pcieSize n wr data = false
      ∨ ∃ p ∈ wordParts 514 va n, outerReach s o p.1 p.2 (if wr then .write else .read) pteApt = none) :
    ∃ t, exec (.pcieRequest port other o va n wr data) s = .next t ∧ t.accessOk = false ∧ HomesKept s t := by
  show ∃ t, execPcieRequest port other o va n wr data s = .next t ∧ _
  by_cases hbad : (portDisabled s port || !pcieSize n wr data || other) = true
  · exact ⟨_, if_pos hbad, rfl, homesKept_accessOk s false⟩
  · simp only [Bool.or_eq_true, Bool.not_eq_true', not_or, Bool.not_eq_true, Bool.not_eq_false] at hbad
    obtain ⟨⟨hport, hsize⟩, hother⟩ := hbad
    obtain ⟨p, hp, hnone⟩ : ∃ p ∈ wordParts 514 va n, outerReach s o p.1 p.2 (if wr then .write else .read) pteApt = none := by
      simpa [hport, hsize, hother] using h
    have hall : ((wordParts 514 va n).map fun p => outerReach s o p.1 p.2 (if wr then .write else .read) pteApt).all Option.isSome = false :=
      List.all_eq_false.mpr ⟨none, List.mem_map.mpr ⟨p, hp, hnone⟩, Bool.false_ne_true⟩
    simp only [execPcieRequest, hport, hsize, hother, hall, Bool.not_true, Bool.or_self, Bool.false_eq_true, if_false]
    have hk := (homesKept_reportWalks s o va n).trans (homesKept_accessOk _ false)
    refine ⟨_, rfl, ?_, ?_⟩
    · cases wr <;> rfl
    · cases wr
      · exact hk.trans ⟨rfl, rfl, rfl, rfl, rfl, rfl, rfl⟩
      · exact hk

/-- Two parts go to bytes that do not meet, and one line of the home holds one line of addresses. -/
def Apart (a b : (Word × Nat) × Nat) : Prop :=
  (a.2 + a.1.2 ≤ b.2 ∨ b.2 + b.1.2 ≤ a.2) ∧ (a.2 / 64 = b.2 / 64 → bits a.1.1 54 6 = bits b.1.1 54 6)

/-- The parts of a write request to `va` stand at their places, and every other byte is as before. -/
structure PartsWritten (va : Word) (data : List Byte) (es : List ((Word × Nat) × Nat)) (s t : State) : Prop where
  accessOk : t.accessOk = s.accessOk
  threads : t.threads = s.threads
  bytes : ∀ e ∈ es, t.bytesAt e.1.2 e.2 = (data.drop (e.1.1 - va).toNat).take e.1.2
  others : ∀ a, (∀ e ∈ es, a < e.2 ∨ e.2 + e.1.2 ≤ a) → t.byteAt a = s.byteAt a

theorem partsWritten_nil (va : Word) (data : List Byte) (s : State) : PartsWritten va data [] s s :=
  ⟨rfl, rfl, fun _ he => absurd he List.not_mem_nil, fun _ _ => rfl⟩

/-- A part written before others that it does not meet. -/
theorem partsWritten_cons {va p : Word} {data : List Byte} {k key keyNo v : Nat} {es : List ((Word × Nat) × Nat)} {s u t : State}
    (hw : HomeWritten s u key keyNo v ((data.drop (p - va).toNat).take k)) (hlen : ((data.drop (p - va).toNat).take k).length = k)
    (hapart : ∀ e ∈ es, Apart ((p, k), key) e) (h : PartsWritten va data es u t) : PartsWritten va data (((p, k), key) :: es) s t where
  accessOk := h.accessOk.trans hw.accessOk
  threads := h.threads.trans hw.threads
  bytes e he := by
    rcases List.mem_cons.mp he with rfl | he
    · have hkept : t.bytesAt k key = u.bytesAt k key := bytesAt_congr k key fun a h1 h2 => h.others a fun e he => by
        have := (hapart e he).1
        simp only at this
        omega
      have hstored := bytesAt_of_stored hw.stored
      rw [hlen] at hstored
      exact hkept.trans hstored
    · exact h.bytes e he
  others a ha := by
    have hout : a < key ∨ key + k ≤ a := ha ((p, k), key) List.mem_cons_self
    rw [h.others a fun e he => ha e (List.mem_cons_of_mem _ he), hw.stored a, if_neg (by rw [hlen]; omega)]

/-- The words of a write request, from `off` bytes on, are written in address order. -/
theorem partsWritten_foldl {o : BitVec 12} {va : Word} {data : List Byte} (hmax : data.length < 2 ^ 64) (fuel : Nat) : ∀ (off n : Nat) (keys : List Nat) (s : State),
    off + n = data.length → Memory.wf s.mem = true →
    (∀ e ∈ (wordParts fuel (va + BitVec.ofNat 64 off) n).zip keys, lineForeign s e.2 (keyOf s o) (bits e.1.1 54 6) = false) →
    ((wordParts fuel (va + BitVec.ofNat 64 off) n).zip keys).Pairwise Apart →
    PartsWritten va data ((wordParts fuel (va + BitVec.ofNat 64 off) n).zip keys) s
      ((homeParts ((wordParts fuel (va + BitVec.ofNat 64 off) n).zip keys)).foldl (pcieWrite o) (s, data.drop off)).1 := by
  induction fuel with
  | zero => intro off n keys s _ _ _ _; exact partsWritten_nil va data s
  | succ fuel ih =>
    intro off n keys s hoff hwf hclean hapart
    unfold wordParts at hclean hapart ⊢
    by_cases hn : n = 0
    · simp only [if_pos hn]
      exact partsWritten_nil va data s
    · simp only [if_neg hn] at hclean hapart ⊢
      cases keys with
      | nil => exact partsWritten_nil va data s
      | cons key keys =>
        set p := va + BitVec.ofNat 64 off with hp
        set k := Nat.min n (8 - p.toNat % 8)
        have hkn : k ≤ n := Nat.min_le_left _ _
        have hnext : p + BitVec.ofNat 64 k = va + BitVec.ofNat 64 (off + k) := by rw [hp, BitVec.add_assoc, ← BitVec.ofNat_add]
        have hoffset : (p - va).toNat = off := by
          rw [hp, BitVec.add_comm, BitVec.add_sub_cancel, BitVec.toNat_ofNat, Nat.mod_eq_of_lt (by omega)]
        rw [hnext, List.zip_cons_cons] at hclean hapart ⊢
        obtain ⟨hhead, htail⟩ := List.pairwise_cons.mp hapart
        have hw := homeWritten_outerWrite (.inl rfl) (hclean ((p, k), key) List.mem_cons_self) hwf ((data.drop off).take k)
        have hrest := ih (off + k) (n - k) keys (outerWrite s o p (.home key none) ((data.drop off).take k)) (by omega) hw.wf
          (fun e he => by
            rw [hw.keyOf]
            exact hw.lines _ _ (hclean e (List.mem_cons_of_mem _ he)) fun hl => ((hhead e he).2 hl.symm).symm) htail
        rw [← List.drop_drop] at hrest
        rw [← hoffset] at hw
        exact partsWritten_cons hw (by rw [hoffset, List.length_take, List.length_drop]; omega) hhead (by rw [hoffset]; exact hrest)

/-- A write request whose parts are all reached writes all its bytes. -/
theorem partsWritten_request {o : BitVec 12} {va : Word} {data : List Byte} (hmax : data.length < 2 ^ 64) {keys : List Nat} {s : State}
    (hwf : Memory.wf s.mem = true)
    (hclean : ∀ e ∈ (wordParts 514 va data.length).zip keys, lineForeign s e.2 (keyOf s o) (bits e.1.1 54 6) = false)
    (hapart : ((wordParts 514 va data.length).zip keys).Pairwise Apart) :
    PartsWritten va data ((wordParts 514 va data.length).zip keys) s
      ((homeParts ((wordParts 514 va data.length).zip keys)).foldl (pcieWrite o) (s, data)).1 := by
  have h := partsWritten_foldl (o := o) (va := va) hmax 514 0 data.length keys s (Nat.zero_add _) hwf
  rw [show va + BitVec.ofNat 64 0 = va from BitVec.add_zero va] at h
  exact h hclean hapart

/-! ### Accesses of other modules (R47) -/

section
variable {s : State} {src : BitVec 3} {o : BitVec 12} {va : Word} {n : Nat} {v : Word} {r : Reach}

theorem exec_meridianAccess_get (hr : meridianReach s src o va n .read = some r) :
    exec (.meridianAccess 0 src o va n v) s = .next (outerAccess s o va n r false v) := by
  show execMeridianAccess 0 src o va n v s = _
  simp [execMeridianAccess, hr, meridianAt]

theorem exec_meridianAccess_put (hr : meridianReach s src o va n .write = some r) :
    exec (.meridianAccess 1 src o va n v) s = .next (outerAccess s o va n r true v) := by
  show execMeridianAccess 1 src o va n v s = _
  simp [execMeridianAccess, hr, meridianAt]

/-- An addition of another module is made at the home after a read of the element. -/
theorem exec_meridianAccess_add {key : Nat} (hn : n = 4 ∨ n = 8) (hr : meridianReach s src o va n .both = some (.home key none)) :
    exec (.meridianAccess 2 src o va n v) s
      = .next (atomicAdd (outerAccess s o va n (.home key none) false v) o (outerWriter (outerAccess s o va n (.home key none) false v) none) va key false n
        (if n = 8 then 2 else 1) v.toNat) := by
  show execMeridianAccess 2 src o va n v s = _
  have hsize : ¬ n < 4 := by omega
  simp [execMeridianAccess, hr, meridianAt, hsize]

/-- A get that the owner's tables or its peers refuse does nothing. -/
theorem exec_meridianAccess_refused (hr : meridianReach s src o va n .read = none) :
    exec (.meridianAccess 0 src o va n v) s = .next { reportWalk s o va with accessOk := false } := by
  show execMeridianAccess 0 src o va n v s = _
  simp [execMeridianAccess, hr]

end

end Sys2Proof.Machine
end

section
/-! ## Registers that read back what was written (R25–R27, R44, R45, R76, R83, R112) -/

namespace Sys2Proof.Machine

/-! ### Fields of a word -/

/-- Three fields of 16 bits, put together again. -/
theorem ofNat_threeFields (v : Word) :
    BitVec.ofNat 64 ((v.extractLsb' 32 16).toNat * 2 ^ 32 + (v.extractLsb' 16 16).toNat * 2 ^ 16 + (v.extractLsb' 0 16).toNat) = v &&& 0xFFFFFFFFFFFF := by
  have hmask : (v &&& 0xFFFFFFFFFFFF).toNat = v.toNat % 2 ^ 48 := Nat.and_two_pow_sub_one_eq_mod v.toNat 48
  apply BitVec.eq_of_toNat_eq
  rw [hmask]
  simp only [BitVec.toNat_ofNat, BitVec.extractLsb'_toNat, Nat.shiftRight_eq_div_pow]
  omega

/-- The low half of a word. -/
theorem zx_low (v : Word) : zx (v.setWidth 32) = v &&& 0xFFFFFFFF := by
  have hmask : (v &&& 0xFFFFFFFF).toNat = v.toNat % 2 ^ 32 := Nat.and_two_pow_sub_one_eq_mod v.toNat 32
  apply BitVec.eq_of_toNat_eq
  rw [hmask]
  simp only [zx, BitVec.toNat_setWidth]
  omega

/-- A field that starts at bit 16, put back there. -/
theorem ofNat_high (v : Word) : BitVec.ofNat 64 ((v.extractLsb' 16 48).toNat * 65536) = v &&& 0xFFFFFFFFFFFF0000 := by
  have hmask : ∀ i < 64, (0xFFFFFFFFFFFF0000 : Word).getLsbD i = decide (16 ≤ i) := by decide
  have hshift : BitVec.ofNat 64 ((v.extractLsb' 16 48).toNat * 65536) = ((v.extractLsb' 16 48).setWidth 64) <<< 16 := by
    apply BitVec.eq_of_toNat_eq
    simp [Nat.shiftLeft_eq]
  rw [hshift]
  apply BitVec.eq_of_getLsbD_eq
  intro i hi
  rw [BitVec.getLsbD_and, hmask i hi]
  by_cases h : 16 ≤ i
  · have : i - 16 < 48 := by omega
    simp [hi, h, this, Nat.not_lt.mpr h]
  · simp [h, Nat.not_le.mp h]

/-! ### Where a register stands -/

theorem exec_registerWrite (s : State) (a : BitVec 48) (v : Word) : exec (.registerWrite a v) s = .next (writeRegister s a.toNat v) := by rfl

/-- A store by a bridge core writes the register at its address. -/
theorem exec_registerWrite_ofNat (s : State) {a : Nat} (ha : a < 2 ^ 48) (v : Word) :
    exec (.registerWrite (BitVec.ofNat 48 a) v) s = .next (writeRegister s a v) := by
  rw [exec_registerWrite, BitVec.toNat_ofNat, Nat.mod_eq_of_lt ha]

section
variable (s : State) (v : Word) {off : Nat}

theorem writeRegister_queue (h : off < 0x4000) : writeRegister s (0x8000100000 + off) v = writeQueueReg s off v := by
  rw [writeRegister, if_neg (by omega), if_pos (by omega), Nat.add_sub_cancel_left]

theorem readRegister_queue (h : off < 0x4000) : readRegister s (0x8000100000 + off) = readQueueReg s off := by
  rw [readRegister, if_pos (by omega), Nat.add_sub_cancel_left]

theorem writeRegister_helm (h : off < 0x1000) : writeRegister s (0x8000200000 + off) v = writeHelmReg s off v := by
  rw [writeRegister, if_neg (by omega), if_neg (by omega), if_pos (by omega), Nat.add_sub_cancel_left]

theorem readRegister_helm (h : off < 0x1000) : readRegister s (0x8000200000 + off) = readHelmReg s off := by
  rw [readRegister, if_neg (by omega), if_pos (by omega), Nat.add_sub_cancel_left]

theorem writeRegister_owner (h : off < 0x1000) : writeRegister s (0x8000300000 + off) v = writeOwnerReg s off v := by
  rw [writeRegister, if_neg (by omega), if_neg (by omega), if_neg (by omega), if_pos (by omega), Nat.add_sub_cancel_left]

theorem readRegister_owner (h : off < 0x1000) : readRegister s (0x8000300000 + off) = readOwnerReg s off := by
  rw [readRegister, if_neg (by omega), if_neg (by omega), if_pos (by omega), Nat.add_sub_cancel_left]

theorem writeRegister_req (h : off < 0x1000) : writeRegister s (0x8000400000 + off) v = writeReqReg s off v := by
  rw [writeRegister, if_neg (by omega), if_neg (by omega), if_neg (by omega), if_neg (by omega), if_pos (by omega), Nat.add_sub_cancel_left]

theorem readRegister_req (h : off < 0x1000) : readRegister s (0x8000400000 + off) = readReqReg s off := by
  rw [readRegister, if_neg (by omega), if_neg (by omega), if_neg (by omega), if_pos (by omega), Nat.add_sub_cancel_left]

/-- The helm register at `off` reads back what the masked write gave it. -/
theorem helmReg_reads {m : Word} (h : off < 0x1000) (hr : readHelmReg (writeHelmReg s off v) off = v &&& m) :
    ∃ t, exec (.registerWrite (BitVec.ofNat 48 (0x8000200000 + off)) v) s = .next t ∧ readRegister t (0x8000200000 + off) = v &&& m :=
  ⟨_, exec_registerWrite_ofNat s (by omega) v, by rw [writeRegister_helm s v h, readRegister_helm _ h, hr]⟩

end

/-! ### The registers -/

/-- The control register of an aperture reads back what was written, but for [34:0] (R26). -/
theorem readHelmReg_aperture (s : State) (ap : BitVec 8) (v : Word) :
    readHelmReg (writeHelmReg s (0x800 + 8 * ap.toNat) v) (0x800 + 8 * ap.toNat) = v &&& 0xFFFFFFFF800000000 := by
  have hap := ap.isLt
  have hindex : (0x800 + 8 * ap.toNat - 0x800) / 8 = ap.toNat := by omega
  have hin : 0x800 ≤ 0x800 + 8 * ap.toNat ∧ 0x800 + 8 * ap.toNat < 0x1000 ∧ (0x800 + 8 * ap.toNat) % 8 = 0 := by omega
  have hwrite : writeHelmReg s (0x800 + 8 * ap.toNat) v = writeApertureCtl s ap.toNat v := by
    unfold writeHelmReg
    split <;> try omega
    rw [if_pos hin, hindex]
  rw [hwrite]
  unfold readHelmReg
  split <;> try omega
  rw [if_pos hin, hindex]
  exact AMap.getD_set_self _ _ _ _

/-- QTAG reads back what was written (R27). -/
theorem readQueueReg_tag (s : State) (ap : BitVec 8) (v : Word) :
    readQueueReg (writeQueueReg s (0x10 + 64 * ap.toNat) v) (0x10 + 64 * ap.toNat) = v := by
  have hoff : (0x10 + 64 * ap.toNat) % 0x40 = 0x10 := by omega
  have hq : BitVec.ofNat 8 ((0x10 + 64 * ap.toNat) / 0x40) = ap := by
    rw [show (0x10 + 64 * ap.toNat) / 0x40 = ap.toNat by omega, BitVec.ofNat_toNat, BitVec.setWidth_eq]
  simp only [readQueueReg, writeQueueReg, hoff, hq, getQueue, setQueue, AMap.getD_set_self]

end Sys2Proof.Machine

namespace Sys2Proof

open Sys2Proof.Machine Sys2Proof.Safety

/-- Settles O35. A register reads back through its own pair of cases; an access that is reached is a read or a write of clean bytes at the home,
and one that is not leaves the homes. -/
theorem bridgeAccesses : Obligations.BridgeAccesses := by
  unfold Obligations.BridgeAccesses
  intro s v n ap off o va key src port keys data c ao ava clean value Writes Reads Puts Fails parts Parts Apart
  have hap := ap.isLt
  refine ⟨⟨?waits, ?hage, ?saveBase, ?saveSize, ?epoch, ?window, ?ownArg, ?reqBase, ?tag, ?unassignedHelm, ?unassigned⟩,
    fun hv hs hclean => ⟨fun hr => ?apertureReads, fun hi hr => ?aperturePuts⟩, fun wr h => ?apertureFails,
    fun hport hsize hparts => ?pcieReads, fun hport hsize hparts hapart hi => ?pcieWrites, fun wr other h => ?pcieFails,
    fun hclean => ⟨fun hr => ?gets, fun hi hr => ?puts, fun hi hn hr => ?adds⟩, fun hr => ?refused⟩
  case waits => exact helmReg_reads s v (off := 0x040) (by decide) (ofNat_threeFields v)
  case hage => exact helmReg_reads s v (off := 0x048) (by decide) (zx_low v)
  case saveBase => exact helmReg_reads s v (off := 0x060) (by decide) (ofNat_high v)
  case saveSize => exact helmReg_reads s v (off := 0x068) (by decide) (zx_low v)
  case epoch => exact helmReg_reads s v (off := 0x100) (by decide) (ofNat_threeFields v)
  case window =>
    have h := helmReg_reads s v (off := 0x800 + 8 * ap.toNat) (by omega) (readHelmReg_aperture s ap v)
    rwa [← Nat.add_assoc] at h
  case ownArg =>
    exact ⟨_, exec_registerWrite_ofNat s (by decide) v,
      by rw [writeRegister_owner s v (off := 0x008) (by decide), readRegister_owner _ (off := 0x008) (by decide)]; rfl⟩
  case reqBase =>
    exact ⟨_, exec_registerWrite_ofNat s (by decide) v,
      by rw [writeRegister_req s v (off := 0x000) (by decide), readRegister_req _ (off := 0x000) (by decide)]; rfl⟩
  case tag =>
    refine ⟨_, exec_registerWrite_ofNat s (by omega) v, ?_⟩
    rw [show 0x8000100010 + 64 * ap.toNat = 0x8000100000 + (0x10 + 64 * ap.toNat) by omega, writeRegister_queue s v (by omega),
      readRegister_queue _ (by omega), readQueueReg_tag, BitVec.and_allOnes]
  case unassignedHelm =>
    exact (exec_registerWrite_ofNat s (a := 0x8000200038) (by decide) v).trans (congrArg _ (writeRegister_helm s v (off := 0x038) (by decide)))
  case unassigned =>
    exact exec_registerWrite_ofNat s (a := 0x8000700000) (by decide) v
  case apertureReads =>
    obtain ⟨hok, hvalue, hk⟩ := outerAccess_read hclean v
    exact ⟨_, exec_apertureAccess_reached (wr := false) rfl hv hs hr, hok, hvalue, hk.sameMem, hk.threads⟩
  case aperturePuts =>
    obtain ⟨r, hr, hcases⟩ : ∃ r, outerReach s ao ava n .write pteApt = some r ∧ (r = .home key none ∨ r = .cached key none) := by
      rcases hr with hr | hr
      · exact ⟨_, hr, .inl rfl⟩
      · exact ⟨_, hr, .inr rfl⟩
    exact ⟨_, exec_apertureAccess_reached (wr := true) rfl hv hs hr, outerAccess_write hcases hclean.2 hi.1 v⟩
  case apertureFails =>
    obtain ⟨u, hk, hx⟩ := exec_apertureAccess_fails (v := v) rfl h
    exact ⟨_, hx, apertureFails_outcome hk n wr⟩
  case pcieReads =>
    obtain ⟨hlen, hall⟩ := hparts
    have hs := homesKept_accessOk s true
    obtain ⟨hk, hok, hbytes⟩ := foldl_pcieRead (parts.zip keys) { s with accessOk := true } [] fun e he => Clean.of_kept (hall e he).2 hs
    refine ⟨_, exec_pcieRequest_reached (wr := false) hport hsize hlen fun e he => (hall e he).1, hok, (hs.trans hk).sameMem, (hs.trans hk).threads, ?_⟩
    refine hbytes.trans ?_
    simp only [hs.bytesAt, List.nil_append]
  case pcieWrites =>
    obtain ⟨hlen, hall⟩ := hparts
    obtain ⟨-, hmax, rfl⟩ : 1 ≤ n ∧ n ≤ 512 ∧ data.length = n := by simpa [pcieSize] using hsize
    have hw := partsWritten_request (o := o) (s := { s with accessOk := true }) (by omega) hi.1 (fun e he => (hall e he).2.2) hapart
    exact ⟨_, exec_pcieRequest_reached (wr := true) hport hsize hlen fun e he => (hall e he).1, hw.accessOk, hw.threads, hw.bytes, hw.others⟩
  case pcieFails =>
    obtain ⟨t, hx, hok, hk⟩ := exec_pcieRequest_fails h
    exact ⟨t, hx, hok, hk.sameMem, hk.threads⟩
  case gets =>
    obtain ⟨hok, hvalue, hk⟩ := outerAccess_read hclean v
    exact ⟨_, exec_meridianAccess_get hr, hok, hvalue, hk.sameMem, hk.threads⟩
  case puts =>
    exact ⟨_, exec_meridianAccess_put hr, outerAccess_write (.inl rfl) hclean.2 hi.1 v⟩
  case adds =>
    obtain ⟨hok, -, hk⟩ := outerAccess_read hclean v
    have hadd := atomicAdd_integer hn (Clean.of_kept hclean hk) (by rw [hk.mem]; exact hi.1)
      (outerWriter (outerAccess s o va n (.home key none) false v) none) rfl v.toNat
    rw [hk.bytesAt] at hadd
    obtain ⟨hok', hstored, hthreads⟩ := hadd
    exact ⟨_, exec_meridianAccess_add hn hr, hok'.trans hok, fun a => by rw [hstored a, hk.byteAt], hthreads.trans hk.threads⟩
  case refused =>
    have hk := (homesKept_reportWalk s o va).trans (homesKept_accessOk _ false)
    exact ⟨_, exec_meridianAccess_refused hr, rfl, hk.sameMem, hk.threads⟩

end Sys2Proof
end

section
/-! ## Every step keeps the invariant (R37, R224)
For each function `f` that a step calls, a lemma `inv_f` says that `f` keeps the invariant, and its proof follows the branches of `f`. Most
functions leave the homes' memory, the records and the next number as they are (`InvFrom.same`). Those that write the memory go through the laws of
`Memory.wf` (`InvFrom.withMem`), those that write a record write it under its own number (`InvFrom.setRecord`, `InvFrom.updateRecord`), and only the
helm's reading of a record raises the next number (`InvFrom.number`). -/

namespace Sys2Proof.Machine

open Safety

/-- The invariant of the homes' memory, the records and the next sequence number. Every number below `lo` has been given out: a record in hand has
a number below `lo`, so that it may be written back. -/
structure InvAt (lo : Nat) (mem : List Host.Cell) (records : AMap RecordState) (next : Nat) : Prop where
  wf : Memory.wf mem = true
  numbered : ∀ e ∈ records, e.2.seqNo = e.1 ∧ e.1 < next
  nodup : (records.map (·.1)).Nodup
  given : lo ≤ next

/-- The invariant holds, and every sequence number below `lo` has been given out. -/
def InvFrom (lo : Nat) (s : State) : Prop := InvAt lo s.mem s.records s.helm.nextSeq

theorem invFrom_zero {s : State} : InvFrom 0 s ↔ Inv s :=
  ⟨fun h => ⟨h.wf, h.numbered, h.nodup⟩, fun h => ⟨h.1, h.2.1, h.2.2, Nat.zero_le _⟩⟩

/-- Every state that the outcome answers meets `InvFrom`. -/
def NextInv (lo : Nat) (o : Out) : Prop := ∀ t, o = .next t → InvFrom lo t

/-- Every state that the option holds meets `InvFrom`. -/
def SomeInv (lo : Nat) (o : Option State) : Prop := ∀ t, o = some t → InvFrom lo t

section

variable {lo : Nat} {s t u : State} {c : Prop} [Decidable c]

/-- A state with the memory, the records and the next number of one that meets it meets it too. -/
theorem InvFrom.same (h : InvAt lo s.mem s.records s.helm.nextSeq) : InvFrom lo s := h

theorem InvFrom.withMem (h : InvFrom lo s) (hmem : Memory.wf s.mem = true → Memory.wf t.mem = true) (hrecords : t.records = s.records := by rfl)
    (hnext : t.helm.nextSeq = s.helm.nextSeq := by rfl) : InvFrom lo t :=
  ⟨hmem h.wf, by rw [hrecords, hnext]; exact h.numbered, by rw [hrecords]; exact h.nodup, by rw [hnext]; exact h.given⟩

theorem NextInv.next (h : InvFrom lo s) : NextInv lo (.next s) := fun _ ht => Host.Outcome.next.inj ht ▸ h

theorem SomeInv.some (h : InvFrom lo s) : SomeInv lo (some s) := fun _ ht => Option.some.inj ht ▸ h

theorem SomeInv.none : SomeInv lo none := fun _ h => (Option.some_ne_none _ h.symm).elim

theorem SomeInv.getD {o : Option State} (ho : SomeInv lo o) (h : InvFrom lo s) : InvFrom lo (o.getD s) := by
  cases o with
  | none => exact h
  | some t => exact ho t rfl

theorem InvFrom.ite (hs : InvFrom lo s) (ht : InvFrom lo t) : InvFrom lo (if c then s else t) := by
  split
  · exact hs
  · exact ht

theorem NextInv.ite {p q : Out} (hp : NextInv lo p) (hq : NextInv lo q) : NextInv lo (if c then p else q) := by
  split
  · exact hp
  · exact hq

theorem SomeInv.ite {p q : Option State} (hp : SomeInv lo p) (hq : SomeInv lo q) : SomeInv lo (if c then p else q) := by
  split
  · exact hp
  · exact hq

theorem InvFrom.when (ht : InvFrom lo s → InvFrom lo t) (hs : InvFrom lo s) : InvFrom lo (if c then t else s) := .ite (ht hs) hs

theorem InvFrom.unless (ht : InvFrom lo s → InvFrom lo t) (hs : InvFrom lo s) : InvFrom lo (if c then s else t) := .ite hs (ht hs)

theorem InvFrom.iteFrom (ht : InvFrom lo s → InvFrom lo t) (hu : InvFrom lo s → InvFrom lo u) (hs : InvFrom lo s) : InvFrom lo (if c then t else u) :=
  .ite (ht hs) (hu hs)

theorem InvFrom.of_pair {α : Type} {p : State × α} {x : α} (h : InvFrom lo p.1) (hp : p = (t, x)) : InvFrom lo t := by
  subst hp
  exact h

/-- What every step of a fold keeps, the fold keeps. -/
theorem InvFrom.foldl {α : Type} {f : State → α → State} (hf : ∀ s x, InvFrom lo s → InvFrom lo (f s x)) {l : List α} :
    ∀ {s : State}, InvFrom lo s → InvFrom lo (l.foldl f s) := by
  induction l with
  | nil => exact id
  | cons x l ih => exact fun h => ih (hf _ x h)

/-- The state that a piece of a command leaves meets `InvFrom`. -/
def PieceInv (lo : Nat) (p : Piece) : Prop := ∀ s m, p = .go s m → InvFrom lo s

theorem PieceInv.go {m : Command} (h : InvFrom lo s) : PieceInv lo (.go s m) := fun _ _ hp => (Piece.go.inj hp).1 ▸ h

theorem PieceInv.park {va : Word} {kind : BitVec 4} : PieceInv lo (.park va kind) := fun _ _ hp => by simp at hp

theorem PieceInv.stop {cause : BitVec 8} {va : Word} : PieceInv lo (.stop cause va) := fun _ _ hp => by simp at hp

theorem PieceInv.wait : PieceInv lo .wait := fun _ _ hp => by simp at hp

theorem PieceInv.ite {p q : Piece} (hp : PieceInv lo p) (hq : PieceInv lo q) : PieceInv lo (if c then p else q) := by
  split
  · exact hp
  · exact hq

/-- The state in which an access of a memory cell waits meets `InvFrom`. -/
def AccInv (lo : Nat) (a : CellAcc) : Prop := ∀ s, a = .wait s → InvFrom lo s

theorem AccInv.ok {key : Nat} {cached : Bool} {fl : Option Nat} : AccInv lo (.ok key cached fl) := fun _ ha => by simp at ha

theorem AccInv.fault {code : BitVec 4} : AccInv lo (.fault code) := fun _ ha => by simp at ha

theorem AccInv.wait (h : InvFrom lo s) : AccInv lo (.wait s) := fun _ ha => CellAcc.wait.inj ha ▸ h

theorem AccInv.ite {p q : CellAcc} (hp : AccInv lo p) (hq : AccInv lo q) : AccInv lo (if c then p else q) := by
  split
  · exact hp
  · exact hq

/-- The state after a step of a cell. -/
def CellStep.state : CellStep → State
  | .done s _ => s
  | .other s => s

/-- The state after a step of a cell meets `InvFrom`. -/
def CellInv (lo : Nat) (x : CellStep) : Prop := InvFrom lo x.state

theorem CellInv.ite {p q : CellStep} (hp : CellInv lo p) (hq : CellInv lo q) : CellInv lo (if c then p else q) := by
  split
  · exact hp
  · exact hq

theorem CellInv.done {i : Image} (h : InvFrom lo s) : CellInv lo (.done s i) := h

theorem CellInv.other (h : InvFrom lo s) : CellInv lo (.other s) := h

theorem CellInv.of_done {x : CellStep} {i : Image} (h : CellInv lo x) (hx : x = .done s i) : InvFrom lo s := by
  subst hx
  exact h

theorem CellInv.of_other {x : CellStep} (h : CellInv lo x) (hx : x = .other s) : InvFrom lo s := by
  subst hx
  exact h

/-! ### Records in hand -/

theorem InvFrom.mono {hi : Nat} (h : InvFrom hi s) (hle : lo ≤ hi) : InvFrom lo s := ⟨h.wf, h.numbered, h.nodup, hle.trans h.given⟩

theorem AMap.mem_of_find {α : Type} {m : AMap α} {k : Nat} {v : α} (h : AMap.find m k = some v) : (k, v) ∈ m := by
  induction m with
  | nil => exact absurd h (by simp [AMap.find])
  | cons e m ih =>
    rw [AMap.find] at h
    split at h
    · next hk => obtain ⟨j, w⟩ := e; cases h; cases hk; exact List.mem_cons_self
    · exact List.mem_cons_of_mem _ (ih h)

/-- A key is listed after a write where it was listed before, or is the one written. -/
theorem AMap.mem_set {α : Type} {m : AMap α} {k : Nat} {v : α} {e : Nat × α} (h : e ∈ AMap.set m k v) : e = (k, v) ∨ e ∈ m := by
  induction m with
  | nil => exact .inl (by simpa [AMap.set] using h)
  | cons f m ih =>
    rw [AMap.set] at h
    split at h
    · rcases List.mem_cons.mp h with h | h
      · exact .inl h
      · exact .inr (List.mem_cons_of_mem _ h)
    · rcases List.mem_cons.mp h with h | h
      · exact .inr (h ▸ List.mem_cons_self)
      · exact (ih h).imp_right (List.mem_cons_of_mem _)

theorem AMap.nodup_set {α : Type} {m : AMap α} (k : Nat) (v : α) (h : (m.map (·.1)).Nodup) : ((AMap.set m k v).map (·.1)).Nodup := by
  induction m with
  | nil => simp [AMap.set]
  | cons f m ih =>
    rw [List.map_cons, List.nodup_cons] at h
    rw [AMap.set]
    split
    · next hk => rw [List.map_cons, List.nodup_cons]; exact ⟨hk ▸ h.1, h.2⟩
    · next hk =>
      rw [List.map_cons, List.nodup_cons]
      refine ⟨fun hmem => ?_, ih h.2⟩
      obtain ⟨e, he, hfe⟩ := List.mem_map.mp hmem
      rcases AMap.mem_set he with rfl | he
      · exact hk hfe.symm
      · exact h.1 (hfe ▸ List.mem_map_of_mem he)

theorem InvFrom.found {q : Nat} {r : RecordState} (h : InvFrom lo s) (hf : AMap.find s.records q = .some r) : r.seqNo = q ∧ q < s.helm.nextSeq :=
  h.numbered _ (AMap.mem_of_find hf)

/-- The records that are listed have numbers that have been given out. -/
theorem InvFrom.below (h : InvFrom lo s) : ∀ e ∈ s.records, e.2.seqNo < s.helm.nextSeq := fun e he => (h.numbered e he).1 ▸ (h.numbered e he).2

theorem InvFrom.all (h : InvFrom lo s) : InvFrom s.helm.nextSeq s := ⟨h.wf, h.numbered, h.nodup, le_rfl⟩

/-- What an operation keeps for a record in hand with a number that has been given out, it keeps for one that is listed. -/
theorem InvFrom.withFound {q : Nat} {r : RecordState} (h : InvFrom lo s) (hf : AMap.find s.records q = .some r)
    (ht : ∀ {hi}, InvFrom hi s → r.seqNo < hi → InvFrom hi t) : InvFrom lo t :=
  (ht h.all ((h.found hf).1 ▸ (h.found hf).2)).mono h.given

/-- As `withFound`, for a step that answers an outcome. -/
theorem InvFrom.nextFound {q : Nat} {r : RecordState} {o : Out} (h : InvFrom lo s) (hf : AMap.find s.records q = .some r)
    (ht : ∀ {hi}, InvFrom hi s → r.seqNo < hi → NextInv hi o) : NextInv lo o :=
  fun t ho => (ht h.all ((h.found hf).1 ▸ (h.found hf).2) t ho).mono h.given

theorem NextInv.mono {hi : Nat} {o : Out} (h : NextInv hi o) (hle : lo ≤ hi) : NextInv lo o := fun t ho => (h t ho).mono hle

/-- The next sequence number is given out. -/
theorem InvFrom.number (h : InvFrom lo s) (hnext : t.helm.nextSeq = s.helm.nextSeq + 1 := by rfl) (hmem : t.mem = s.mem := by rfl)
    (hrecords : t.records = s.records := by rfl) : InvFrom (s.helm.nextSeq + 1) t := by
  refine ⟨by rw [hmem]; exact h.wf, fun e he => ?_, by rw [hrecords]; exact h.nodup, hnext.ge⟩
  obtain ⟨hnum, hlt⟩ := h.numbered e (hrecords ▸ he)
  exact ⟨hnum, by omega⟩

/-- A record that is written under its own number, one that has been given out. -/
theorem InvFrom.setRecord {q : Nat} {x : RecordState} (h : InvFrom lo s) (hq : q < lo) (hrecords : t.records = AMap.set s.records q x := by rfl)
    (hx : x.seqNo = q := by rfl) (hmem : t.mem = s.mem := by rfl) (hnext : t.helm.nextSeq = s.helm.nextSeq := by rfl) : InvFrom lo t := by
  refine ⟨by rw [hmem]; exact h.wf, fun e he => ?_, by rw [hrecords]; exact AMap.nodup_set _ _ h.nodup, by rw [hnext]; exact h.given⟩
  rw [hnext]
  rcases AMap.mem_set (hrecords ▸ he) with rfl | he
  · exact ⟨hx, hq.trans_le h.given⟩
  · exact h.numbered e he

/-- A listed record that is changed keeps its number. -/
theorem InvFrom.updateRecord {q : Nat} {r x : RecordState} (h : InvFrom lo s) (hf : AMap.find s.records q = .some r)
    (hrecords : t.records = AMap.set s.records q x := by rfl) (hx : x.seqNo = r.seqNo := by rfl)
    (hmem : t.mem = s.mem := by rfl) (hnext : t.helm.nextSeq = s.helm.nextSeq := by rfl) : InvFrom lo t :=
  (h.all.setRecord (h.found hf).2 hrecords (hx.trans (h.found hf).1) hmem hnext).mono h.given

end

section

variable {lo : Nat} {s : State}

/-! ### Homes, caches and writes on their way -/

theorem inv_putRegion {k n r} (h : InvFrom lo s) : InvFrom lo (putRegion s k n r) := h.withMem (putRegion_wf s k n r)
theorem inv_spoil {ranges} (h : InvFrom lo s) : InvFrom lo (spoil s ranges) := .same h
theorem inv_markBad {a n} (h : InvFrom lo s) : InvFrom lo (markBad s a n) := .same h
theorem inv_putBytes {agent a bs} (h : InvFrom lo s) : InvFrom lo (putBytes s agent a bs) := h.withMem (putBytes_wf s agent a bs)
theorem inv_deviceWrite {a bs} (h : InvFrom lo s) : InvFrom lo (deviceWrite s a bs) := .same (inv_putBytes (agent := 0) (a := a) (bs := bs) h)
theorem inv_performWrite {a bs w rel track} (h : InvFrom lo s) : InvFrom lo (performWrite s a bs w rel track) :=
  .same (inv_putBytes (agent := w.agent) (a := a) (bs := bs) h)
theorem inv_rmwHome {a bs w track own} (h : InvFrom lo s) : InvFrom lo (rmwHome s a bs w track own) :=
  .same (inv_performWrite (a := a) (bs := bs) (w := w) (rel := []) (track := track) h)
theorem inv_bringHome {w} (h : InvFrom lo s) : InvFrom lo (bringHome s w) :=
  .same (InvFrom.when (fun h => .same h) (.unless (fun h => .same h) (.ite (inv_putBytes h) (.foldl (fun _ _ h => inv_putBytes h) h))))
theorem inv_headerFirst {w h'} (h : InvFrom lo s) : InvFrom lo (headerFirst s w h') := .foldl (fun _ _ h => inv_bringHome h) h

theorem inv_clearTileFlag {w track} (h : InvFrom lo s) : InvFrom lo (clearTileFlag s w track) := by
  unfold clearTileFlag
  split
  · exact h
  · exact inv_rmwHome (inv_headerFirst h)

theorem inv_homeWrite {a bs w rel} (h : InvFrom lo s) : InvFrom lo (homeWrite s a bs w rel) := inv_clearTileFlag (inv_performWrite h)
theorem inv_trackedHomeWrite {a bs w rel} (h : InvFrom lo s) : InvFrom lo (trackedHomeWrite s a bs w rel) := inv_clearTileFlag (inv_performWrite h)
theorem inv_rmwWrite {a bs w track own} (h : InvFrom lo s) : InvFrom lo (rmwWrite s a bs w track own) := inv_clearTileFlag (inv_rmwHome h)
theorem inv_cacheWrite {a bs w rel bad} (h : InvFrom lo s) : InvFrom lo (cacheWrite s a bs w rel bad) := .same h

theorem inv_arriveWrite {num} (h : InvFrom lo s) : InvFrom lo (arriveWrite s num) := by
  unfold arriveWrite
  split
  · exact h
  · exact inv_clearTileFlag (inv_bringHome h)

theorem inv_enlist {agent record} (h : InvFrom lo s) : InvFrom lo (enlist s agent record) := .same h
theorem inv_spoilWork {record} (h : InvFrom lo s) : InvFrom lo (spoilWork s record) := .same h
theorem inv_claimLine {k keyNo vline} (h : InvFrom lo s) : InvFrom lo (claimLine s k keyNo vline) := .ite (.same (InvFrom.ite (.same h) h)) h

/-! ### Records and the logbook -/

theorem inv_logWrite {e} (h : InvFrom lo s) : InvFrom lo (logWrite s e) := by
  dsimp only [logWrite, InvFrom]
  exact inv_deviceWrite h

theorem inv_logAppend {e} (h : InvFrom lo s) : InvFrom lo (logAppend s e) := .ite (inv_logWrite h) (.same h)

theorem inv_logDrain {fuel} : ∀ {s}, InvFrom lo s → InvFrom lo (logDrain fuel s) := by
  induction fuel with
  | zero => exact id
  | succ fuel ih =>
    intro s h
    rw [logDrain]
    split
    · exact .same h
    · exact .ite (.same h) (ih (inv_logWrite (.same h)))

theorem inv_setOwner {o w} (h : InvFrom lo s) : InvFrom lo (setOwner s o w) := .same h
theorem inv_signalSlot {r} (h : InvFrom lo s) : InvFrom lo (signalSlot s r) := .ite (.same h) h
theorem inv_dropPlacement {seq} (h : InvFrom lo s) : InvFrom lo (dropPlacement s seq) := .same h

theorem inv_joinEnd {seq c} (h : InvFrom lo s) : InvFrom lo (joinEnd s seq c) := by
  unfold joinEnd
  split
  · next hr => exact h.updateRecord hr
  · exact h

theorem inv_joinGraph {r} (h : InvFrom lo s) : InvFrom lo (joinGraph s r) := .ite h (inv_joinEnd h)

theorem inv_moveRecord {r phase reason index} (h : InvFrom lo s) (hr : r.seqNo < lo) : InvFrom lo (moveRecord s r phase reason index) := by
  unfold moveRecord
  exact .when (fun h => inv_signalSlot h) (inv_logAppend (.when (fun h => .same h) (.when (fun h => inv_joinGraph (.same h)) (h.setRecord hr))))

theorem inv_autoStep {r} (h : InvFrom lo s) (hr : r.seqNo < lo) : SomeInv lo (autoStep s r) :=
  .ite .none (.ite (.ite (.some (h.setRecord hr)) (.some (inv_moveRecord h hr)))
    (.ite (.ite (.ite (.some (inv_moveRecord h hr)) .none) (.ite (.some (inv_moveRecord (inv_moveRecord h hr) hr)) .none))
      (.ite (.ite (.some (inv_moveRecord h hr)) (.ite (.some (inv_moveRecord h hr)) (.ite (.some (.ite (inv_moveRecord h hr)
      (inv_moveRecord h hr))) .none))) .none)))

theorem inv_holdBack {h'} (h : InvFrom lo s) : InvFrom lo (holdBack s h') := .ite h (.same h)
theorem inv_unhold {h'} (h : InvFrom lo s) : InvFrom lo (unhold s h') := .ite h (.same h)

theorem inv_recordRuns {seq} (h : InvFrom lo s) : InvFrom lo (recordRuns s seq) := by
  unfold recordRuns
  split
  · next hr => exact .ite (h.withFound hr fun h hr => inv_moveRecord (inv_unhold h) hr) h
  · exact h

theorem inv_firstPermitted {l} (h : InvFrom lo s) (hl : ∀ e ∈ l, e.2.seqNo < lo) : SomeInv lo (firstPermitted s l) := by
  induction l with
  | nil => exact .none
  | cons e l ih =>
    obtain ⟨q, r⟩ := e
    have ih := ih fun e he => hl e (List.mem_cons_of_mem _ he)
    rw [firstPermitted]
    split
    · next hs => exact .ite (.some (inv_unhold (inv_autoStep h (hl _ List.mem_cons_self) _ hs))) ih
    · exact ih

theorem inv_holdDue (h : InvFrom lo s) : InvFrom lo (holdDue s) := .foldl (fun _ _ h => by exact .ite (inv_holdBack h) h) h

theorem inv_settleN {fuel} : ∀ {s}, InvFrom lo s → InvFrom lo (settleN fuel s) := by
  induction fuel with
  | zero => exact id
  | succ fuel ih =>
    intro s h
    rw [settleN]
    split
    · next hs => exact ih ((inv_firstPermitted h.all h.below _ hs).mono h.given)
    · exact .ite h (inv_holdDue h)

theorem inv_settle (h : InvFrom lo s) : InvFrom lo (settle s) := inv_settleN h

theorem inv_moveSeq {seq phase reason} (h : InvFrom lo s) : InvFrom lo (moveSeq s seq phase reason) := by
  unfold moveSeq
  split
  · next hr => exact .ite h (h.withFound hr fun h hr => inv_settle (inv_moveRecord h hr))
  · exact h

/-! ### Shared operations -/

theorem inv_setThread {t v} (h : InvFrom lo s) : InvFrom lo (setThread s t v) := .same h
theorem inv_setCore {k v} (h : InvFrom lo s) : InvFrom lo (setCore s k v) := .same h
theorem inv_setCluster {c v} (h : InvFrom lo s) : InvFrom lo (setCluster s c v) := .same h
theorem inv_setDie {d v} (h : InvFrom lo s) : InvFrom lo (setDie s d v) := .same h
theorem inv_setCrew {c v} (h : InvFrom lo s) : InvFrom lo (setCrew s c v) := .same h
theorem inv_setTh {v} (h : InvFrom lo s) : InvFrom lo (State.setTh s v) := .same h
theorem inv_skip (h : InvFrom lo s) : InvFrom lo (State.skip s) := .same h
theorem inv_setCounter {c n v} (h : InvFrom lo s) : InvFrom lo (setCounter s c n v) := .same h
theorem inv_recount {c n} (h : InvFrom lo s) : InvFrom lo (recount s c n) := .ite (.ite (.same h) (.same h)) (.same h)
theorem inv_recountAll {c} (h : InvFrom lo s) : InvFrom lo (recountAll s c) := .foldl (fun _ _ h => inv_recount h) h
theorem inv_counterDone {c n count clock} (h : InvFrom lo s) : InvFrom lo (counterDone s c n count clock) := .ite (.same h) (.same h)
theorem inv_counterPut {c n v} (h : InvFrom lo s) : InvFrom lo (counterPut s c n v) := .same h
theorem inv_counterSet {c n v} (h : InvFrom lo s) : InvFrom lo (counterSet s c n v) := .same h
theorem inv_dropQueued {k tags} (h : InvFrom lo s) : InvFrom lo (dropQueued s k tags) :=
  .foldl (fun _ _ h => by exact .ite (inv_counterDone h) h) (.same h)
theorem inv_leaveCells {c h0 ps} (h : InvFrom lo s) : InvFrom lo (leaveCells s c h0 ps) := .same h
theorem inv_evictQuiet {c} (h : InvFrom lo s) : InvFrom lo (evictQuiet s c) := .foldl (fun _ _ h => by exact .same h) (.same h)
theorem inv_setServers {c new} (h : InvFrom lo s) : InvFrom lo (setServers s c new) := .ite (inv_evictQuiet (.same h)) (.same h)
theorem inv_setImages {c l} (h : InvFrom lo s) : InvFrom lo (setImages s c l) := inv_setServers h

theorem inv_enlistFor {t agent} (h : InvFrom lo s) : InvFrom lo (enlistFor s t agent) := by
  unfold enlistFor
  split
  · exact .same h
  · exact h

theorem inv_dropCalls {c tags} (h : InvFrom lo s) : InvFrom lo (dropCalls s c tags) := inv_setServers h
theorem inv_dropWaiters {tags} (h : InvFrom lo s) : InvFrom lo (dropWaiters s tags) := .same h
theorem inv_forgetWaiters {p} (h : InvFrom lo s) : InvFrom lo (forgetWaiters s p) := .same h
theorem inv_scrambleBays {c} (h : InvFrom lo s) : InvFrom lo (scrambleBays s c) := .foldl (fun _ _ h => by exact .same h) h
theorem inv_forgetBays {c} (h : InvFrom lo s) : InvFrom lo (forgetBays s c) := inv_putBytes (inv_spoil (inv_scrambleBays h))
theorem inv_voyageOver {c v} (h : InvFrom lo s) : InvFrom lo (voyageOver s c v) := .same h
theorem inv_dropVoyage {c v} (h : InvFrom lo s) : InvFrom lo (dropVoyage s c v) := .ite (inv_forgetBays (.same h)) (.same h)

theorem inv_dropVoyages {p} (h : InvFrom lo s) : InvFrom lo (dropVoyages s p) := by
  unfold dropVoyages
  refine .foldl (fun _ _ h => inv_forgetBays (inv_voyageOver h)) ?_
  dsimp only [InvFrom]
  exact InvFrom.foldl (fun _ _ h => inv_dropVoyage h) h

theorem inv_stopCrew {c} (h : InvFrom lo s) : InvFrom lo (stopCrew s c) := by
  unfold stopCrew
  split
  · exact h
  · exact .when (fun h => inv_recountAll h) (inv_setCrew (inv_dropVoyages (inv_dropCalls (inv_dropWaiters (.foldl
      (fun _ _ h => inv_dropQueued h) (.ite (.same h) (.same h)))))))

theorem inv_stopSection {seq} (h : InvFrom lo s) : InvFrom lo (stopSection s seq) :=
  .same (InvFrom.foldl (fun _ _ h => by exact .foldl (fun _ _ h => by exact .same h) (inv_setServers h)) (inv_forgetWaiters (inv_dropVoyages h)))

theorem inv_stopRecord {seq phase reason} (h : InvFrom lo s) : InvFrom lo (stopRecord s seq phase reason) := by
  unfold stopRecord
  split
  · exact h
  · next hr =>
    obtain ⟨hnum, hlt⟩ := h.found hr
    refine .ite h (InvFrom.mono ?_ h.given)
    refine InvFrom.setRecord (q := seq) ?_ hlt rfl hnum rfl rfl
    exact inv_spoilWork (inv_stopSection (InvFrom.foldl (fun _ _ h => inv_stopCrew h) h.all))

theorem inv_abortLaunch {c} (h : InvFrom lo s) : InvFrom lo (abortLaunch s c) := by
  unfold abortLaunch
  split
  · exact .ite (inv_stopRecord (inv_unhold h)) (inv_holdBack (.same h))
  · exact h

theorem inv_takeTrap {t c v epc} (h : InvFrom lo s) : InvFrom lo (takeTrap s t c v epc) := by
  unfold takeTrap
  dsimp only
  split
  · split
    · exact inv_abortLaunch h
    · exact .same h
  · exact .same h

theorem inv_trap {c v} (h : InvFrom lo s) : NextInv lo (State.trap s c v) := .next (inv_takeTrap h)
theorem inv_parkOn {p} (h : InvFrom lo s) : NextInv lo (State.parkOn s p) := .next (.same h)
theorem inv_forfeit (h : InvFrom lo s) : NextInv lo (State.forfeit s) := .next (.same h)
theorem inv_deferTrap {t agent c v} (h : InvFrom lo s) : InvFrom lo (deferTrap s t agent c v) := .ite (.same h) h

theorem inv_crewEvent {c cause v} (h : InvFrom lo s) : InvFrom lo (crewEvent s c cause v) := by
  unfold crewEvent
  split
  · exact h
  · exact .ite (.same h) (.same h)

/-! ### Operands -/

theorem inv_addL2 {die e} (h : InvFrom lo s) : InvFrom lo (addL2 s die e) := by
  unfold addL2
  dsimp only
  split
  · exact h
  · split
    · exact .same h
    · split
      · exact .same h
      · exact h

theorem inv_fillL1 {cluster o page} (h : InvFrom lo s) : InvFrom lo (fillL1 s cluster o page) := by
  unfold fillL1
  dsimp only
  split
  · exact h
  · split
    · exact .same h
    · exact h

theorem inv_countAccess {o va} (h : InvFrom lo s) : InvFrom lo (countAccess s o va) := .ite (.same h) (.same h)

theorem inv_startWalk {die o w} (h : InvFrom lo s) : InvFrom lo (startWalk s die o w) := by
  unfold startWalk
  dsimp only
  split
  · exact .ite (.same h) (.same h)
  · split
    all_goals exact .ite (.same h) (.same h)

theorem inv_reportEntry {a} (h : InvFrom lo s) : InvFrom lo (reportEntry s a) := .same h

theorem inv_reportWalk {o va} (h : InvFrom lo s) : InvFrom lo (reportWalk s o va) := by
  unfold reportWalk
  split
  · exact .same h
  · exact h

theorem inv_reportWalks {o va n} (h : InvFrom lo s) : InvFrom lo (reportWalks s o va n) := .foldl (fun _ _ h => inv_reportWalk h) h
theorem inv_parkMiss {va kind} (h : InvFrom lo s) : NextInv lo (State.parkMiss s va kind) := .next (inv_startWalk (.same h))

/-! ### Loads and stores -/

theorem inv_poisonEvent {t va} (h : InvFrom lo s) : InvFrom lo (poisonEvent s t va) := inv_crewEvent h
theorem inv_finishLoad {t d v ends} (h : InvFrom lo s) : InvFrom lo (finishLoad s t d v ends) := .same h
theorem inv_loadOwn {d off n signed va} (h : InvFrom lo s) : InvFrom lo (loadOwn s d off n signed va) := .ite (inv_poisonEvent (.same h)) (.same h)
theorem inv_sendRequest {r} (h : InvFrom lo s) : NextInv lo (sendRequest s r) := inv_parkOn (.same h)

theorem inv_load {d a i n signed} (h : InvFrom lo s) : NextInv lo (load d a i n signed s) := by
  unfold load
  dsimp only
  split
  · exact inv_trap h
  · split
    · exact inv_trap h
    · exact inv_parkMiss h
    · exact .ite (.ite (inv_forfeit h) (.next (inv_loadOwn h))) (inv_sendRequest h)
    · exact inv_sendRequest h
    · exact .ite (inv_trap h) (inv_sendRequest h)
    · exact inv_sendRequest (inv_fillL1 (inv_countAccess h))

theorem inv_storeOwn {off bs} (h : InvFrom lo s) : InvFrom lo (storeOwn s off bs) := inv_setTh (inv_homeWrite h)
theorem inv_storePosted {key bs flagAt} (h : InvFrom lo s) : InvFrom lo (storePosted s key bs flagAt) := .same h
theorem inv_storeCached {key bs flagAt} (h : InvFrom lo s) : InvFrom lo (storeCached s key bs flagAt) := .same h
theorem inv_claimFor {t key va} (h : InvFrom lo s) : InvFrom lo (claimFor s t key va) := inv_claimLine h

theorem inv_store {b a i n} (h : InvFrom lo s) : NextInv lo (store b a i n s) := by
  unfold store
  dsimp only
  split
  · exact inv_trap h
  · split
    · exact inv_trap h
    · exact inv_parkMiss h
    · exact .ite (.ite (inv_forfeit h) (.next (inv_storeOwn h))) (.next (.same h))
    · exact .next (.same h)
    · split
      · exact inv_trap h
      · split
        · exact .next (.same h)
        · exact .ite (.next (.same h)) (.next (.same h))
        · exact inv_trap h
    · exact .ite (.next (inv_storePosted (inv_claimFor (inv_fillL1 (inv_countAccess h))))) (.next (inv_storeCached (inv_claimFor (inv_fillL1
        (inv_countAccess h)))))

theorem inv_performTask {p} (h : InvFrom lo s) : InvFrom lo (performTask s p) := by
  unfold performTask
  split
  all_goals exact .same h

theorem inv_refuseStore {p} (h : InvFrom lo s) : InvFrom lo (refuseStore s p) := by
  unfold refuseStore
  split
  · exact inv_deferTrap h
  · exact h

theorem inv_performPosted {p} (h : InvFrom lo s) : InvFrom lo (performPosted s p) :=
  .ite (inv_performTask h) (.ite (inv_refuseStore (.same h)) (inv_homeWrite (.same h)))
theorem inv_flushWrites {cluster p} (h : InvFrom lo s) : InvFrom lo (flushWrites s cluster p) := .foldl (fun _ _ h => inv_arriveWrite h) h
theorem inv_flushLine {cluster a} (h : InvFrom lo s) : InvFrom lo (flushLine s cluster a) := inv_flushWrites h
theorem inv_flushLineFor {cluster k at_ a} (h : InvFrom lo s) : InvFrom lo (flushLineFor s cluster k at_ a) := inv_flushWrites h
theorem inv_flushCluster {cluster} (h : InvFrom lo s) : InvFrom lo (flushCluster s cluster) := inv_flushWrites h
theorem inv_performCore {k} (h : InvFrom lo s) : InvFrom lo (performCore s k) := .foldl (fun _ _ h => by exact .ite (inv_performPosted h) h) h
theorem inv_afterStores {go} (h : InvFrom lo s) (hgo : ∀ s, InvFrom lo s → NextInv lo (go s)) : NextInv lo (s.afterStores go) :=
  .ite (hgo _ (inv_performCore h)) (inv_forfeit (inv_performCore h))
theorem inv_releaseNow {t} (h : InvFrom lo s) : InvFrom lo (releaseNow s t) := inv_flushCluster (inv_performCore h)
theorem inv_afterRelease {go} (h : InvFrom lo s) (hgo : ∀ s, InvFrom lo s → NextInv lo (go s)) : NextInv lo (s.afterRelease go) :=
  .ite (hgo _ (inv_releaseNow h)) (inv_forfeit (inv_releaseNow h))
theorem inv_atControl {go} (h : InvFrom lo s) (hgo : ∀ s, InvFrom lo s → NextInv lo (go s)) : NextInv lo (s.atControl go) :=
  inv_afterStores h fun _ h => .ite (inv_forfeit h) (hgo _ h)

theorem inv_execHomeArrival {access} (h : InvFrom lo s) : NextInv lo (execHomeArrival access s) := by
  unfold execHomeArrival
  split
  · exact .ite (.next (inv_performPosted h)) (.next h)
  · split
    · exact .ite (.next (inv_arriveWrite h)) (.next h)
    · exact .next h

theorem inv_atomic {op n d a b o c} (h : InvFrom lo s) : NextInv lo (atomic op n d a b o c s) := by
  unfold atomic
  dsimp only
  split
  · exact inv_trap h
  · split
    · exact inv_trap h
    · exact inv_parkMiss h
    · exact .ite (inv_forfeit h) (inv_sendRequest h)
    · exact inv_sendRequest h
    · split
      · exact .ite (inv_sendRequest h) (inv_trap h)
      · exact inv_trap h
    · exact inv_sendRequest (inv_claimFor (inv_fillL1 (inv_countAccess h)))

theorem inv_returnLoad {t r} (h : InvFrom lo s) : InvFrom lo (returnLoad s t r) := .ite (inv_poisonEvent (.same h)) (.ite (.same h) (.same h))

theorem inv_returnAtomic {t r op} (h : InvFrom lo s) : InvFrom lo (returnAtomic s t r op) := by
  unfold returnAtomic
  split
  · split
    · exact inv_finishLoad (.unless (fun h => .same h) (.ite (.same h) h))
    · exact .same h
  · exact .ite (inv_poisonEvent (inv_finishLoad (inv_flushLineFor h))) (inv_finishLoad (.when (fun h => inv_setThread (inv_rmwWrite h)) (.when
      (fun h => .same h) (inv_flushLineFor h))))

theorem inv_wakeWaiter {w v clk ends} (h : InvFrom lo s) : InvFrom lo (wakeWaiter s w v clk ends) := .same h
theorem inv_fillWord {t key v} (h : InvFrom lo s) : InvFrom lo (fillWord s t key v) := inv_setThread (.same (inv_homeWrite h))
theorem inv_emptyWord {key} (h : InvFrom lo s) : InvFrom lo (emptyWord s key) := .same h
theorem inv_dropWaiter {k w} (h : InvFrom lo s) : InvFrom lo (dropWaiter s k w) := .same h

theorem inv_serveWord {fuel k key} : ∀ {s}, InvFrom lo s → InvFrom lo (serveWord fuel s k key) := by
  induction fuel with
  | zero => exact id
  | succ fuel ih =>
    intro s h
    rw [serveWord]
    split
    · split
      · exact h
      · next w _ =>
        extract_lets s₁ s₂
        have h₁ : InvFrom lo s₁ := inv_wakeWaiter (inv_dropWaiter h)
        have h₂ : InvFrom lo s₂ := .when (fun h => inv_poisonEvent h) h₁
        split
        · exact ih (inv_emptyWord h₂)
        · exact ih h₂
    · split
      · exact h
      · exact ih (inv_wakeWaiter (inv_fillWord (inv_dropWaiter h)))

theorem inv_serveAt {k key} (h : InvFrom lo s) : InvFrom lo (serveAt s k key) := inv_serveWord h
theorem inv_joinWaiters {k w} (h : InvFrom lo s) : InvFrom lo (joinWaiters s k w) := .ite (.same h) (.ite (.same h) (.same h))
theorem inv_syncRead {t d key va} (h : InvFrom lo s) : InvFrom lo (syncRead s t d key va) := .ite (inv_poisonEvent (.same h)) (.same h)
theorem inv_passed {t} (h : InvFrom lo s) : InvFrom lo (passed s t) := .same h

theorem inv_performSync {t k key op d v va} (h : InvFrom lo s) : InvFrom lo (performSync s t k key op d v va) := by
  unfold performSync
  dsimp only
  split
  · exact .ite (inv_serveAt (inv_emptyWord (inv_syncRead h))) (inv_joinWaiters h)
  · exact .ite (inv_syncRead h) (inv_joinWaiters h)
  · exact .ite (inv_joinWaiters h) (inv_serveAt (inv_passed (inv_fillWord h)))
  · exact inv_serveAt (inv_passed (inv_fillWord h))
  · exact .ite (inv_serveAt (.same h)) (.same h)
  · exact .ite (inv_poisonEvent (.same h)) (.same h)

theorem inv_syncOp {op d v a off} (h : InvFrom lo s) : NextInv lo (syncOp op d v a off s) := by
  unfold syncOp
  dsimp only
  split
  · exact inv_trap h
  · split
    · exact .ite (inv_trap h) (.ite (.ite (inv_forfeit h) (.next (inv_performSync h))) (inv_sendRequest h))
    · exact inv_trap h

theorem inv_execLoadReturn {tag} (h : InvFrom lo s) : NextInv lo (execLoadReturn tag s) := by
  unfold execLoadReturn
  dsimp only
  split
  · split
    · exact .next h
    · split
      · exact .next (inv_takeTrap (.same h))
      · split
        · exact .next (inv_performSync h)
        · exact .next (inv_returnLoad h)
        · exact .next (inv_returnAtomic h)
  · exact .next h

theorem inv_execWaiterResend {tag} (h : InvFrom lo s) : NextInv lo (execWaiterResend tag s) := by
  unfold execWaiterResend
  split
  · exact .next (inv_performSync h)
  · exact .next h

theorem inv_finishFence {t sc full} (h : InvFrom lo s) : InvFrom lo (finishFence s t sc full) := inv_setThread (.ite (.same h) (.same h))

theorem inv_execReleaseAck {tag} (h : InvFrom lo s) : NextInv lo (execReleaseAck tag s) := by
  unfold execReleaseAck
  split
  · exact .ite (.next h) (.next (inv_finishFence h))
  · exact .next h

theorem inv_execBarrInit {a n} (h : InvFrom lo s) : NextInv lo (execBarrInit a n s) := inv_atControl h fun _ h => .next (.same h)
theorem inv_execBarrArrive {d n} (h : InvFrom lo s) : NextInv lo (execBarrArrive d n s) := inv_atControl h fun _ h => .ite (inv_trap h) (.next
  (.same h))

/-! ### Requests to the host -/

theorem inv_ringWrite {r} (h : InvFrom lo s) : InvFrom lo (ringWrite s r) := by
  dsimp only [ringWrite, InvFrom]
  exact inv_deviceWrite h

theorem inv_postRequest {fn owner need body} (h : InvFrom lo s) : InvFrom lo (postRequest s fn owner need body) :=
  .ite (inv_ringWrite (.same h)) (.same h)

theorem inv_ringDrain {fuel} : ∀ {s}, InvFrom lo s → InvFrom lo (ringDrain fuel s) := by
  induction fuel with
  | zero => exact id
  | succ fuel ih =>
    intro s h
    rw [ringDrain]
    split
    · exact h
    · exact .ite h (ih (inv_ringWrite (.same h)))

theorem inv_takeAnswer {fn w0 x} (h : InvFrom lo s) (hx : takeAnswer s fn w0 = some x) : InvFrom lo x.2 := by
  unfold takeAnswer at hx
  split at hx
  · split at hx
    · exact Option.some.inj hx ▸ .same h
    · simp at hx
  · simp at hx

theorem inv_badAnswer (h : InvFrom lo s) : InvFrom lo (badAnswer s) := .same h
theorem inv_dropRequests {p} (h : InvFrom lo s) : InvFrom lo (dropRequests s p) := .same h

/-! ### Messages and tasks -/

theorem inv_execSend {a b n} (h : InvFrom lo s) : NextInv lo (execSend a b n s) :=
  .ite (inv_trap h) (.ite (inv_forfeit h) (inv_afterRelease h fun _ h => inv_parkOn (.same h)))
theorem inv_execSpawn {a b k} (h : InvFrom lo s) : NextInv lo (execSpawn a b k s) :=
  .ite (inv_trap h) (.ite (inv_forfeit h) (inv_afterRelease h fun _ h => inv_parkOn (.same h)))

theorem inv_execMget {d n} (h : InvFrom lo s) : NextInv lo (execMget d n s) := by
  unfold execMget
  dsimp only
  split
  · exact .next (.same h)
  · exact inv_parkOn h

theorem inv_execMpeek {d n} (h : InvFrom lo s) : NextInv lo (execMpeek d n s) := by
  unfold execMpeek
  split
  · exact .next (.same h)
  · exact inv_parkOn h

theorem inv_resumeSender {t num} (h : InvFrom lo s) : InvFrom lo (resumeSender s t num) := .ite (.same h) h
theorem inv_refuseSender {t num v} (h : InvFrom lo s) : InvFrom lo (refuseSender s t num v) := .ite (inv_takeTrap (.same h)) h

theorem inv_execSendArrives {msg} (h : InvFrom lo s) : NextInv lo (execSendArrives msg s) := by
  unfold execSendArrives
  split
  · exact .next h
  · exact .ite (.next (inv_resumeSender (.same h))) (.next (inv_refuseSender (.same h)))

theorem inv_execMessageDelivery {msg} (h : InvFrom lo s) : NextInv lo (execMessageDelivery msg s) := by
  unfold execMessageDelivery
  split
  · exact .next h
  · exact .ite (.next (.same h)) (.ite (.next (.same h)) (.next h))

theorem inv_spillFailed {crew va} (h : InvFrom lo s) : InvFrom lo (spillFailed s crew va) := inv_crewEvent h
theorem inv_areaWord {c o va key home v} (h : InvFrom lo s) : InvFrom lo (areaWord s c o va key home v) :=
  .iteFrom (fun h => inv_homeWrite h) (fun h => inv_trackedHomeWrite h) (inv_claimLine h)

theorem inv_areaWords {crew c o l} : ∀ {s va}, InvFrom lo s → InvFrom lo (areaWords s crew c o va l) := by
  induction l with
  | nil => exact id
  | cons v l ih =>
    intro s va h
    rw [areaWords]
    refine ih ?_
    split
    · exact inv_areaWord h
    · exact inv_spillFailed h

theorem inv_areaHeader {crew w} (h : InvFrom lo s) : InvFrom lo (areaHeader s crew w) := inv_areaWords h

theorem inv_pruneArea {keep crew} (h : InvFrom lo s) : InvFrom lo (pruneArea keep s crew) := by
  unfold pruneArea
  split
  · exact h
  · exact .ite h (inv_areaHeader (.same h))

theorem inv_pruneSpills {keep} (h : InvFrom lo s) : InvFrom lo (pruneSpills s keep) := .foldl (fun _ _ h => inv_pruneArea h) (.same h)
theorem inv_discardFor {t} (h : InvFrom lo s) : InvFrom lo (discardFor s t) := inv_pruneSpills (.same h)
theorem inv_startTask {c k slot ch x7 ms clk} (h : InvFrom lo s) : InvFrom lo (startTask s c k slot ch x7 ms clk) := .same (inv_enlistFor (.same h))
theorem inv_startSpawn {p k slot} (h : InvFrom lo s) : InvFrom lo (startSpawn s p k slot) := inv_startTask h

theorem inv_startPending {c} (h : InvFrom lo s) : SomeInv lo (startPending s c) := by
  unfold startPending
  split
  · exact .none
  · split
    · exact .none
    · exact .some (.same (inv_startSpawn h))

theorem inv_drainPending {fuel c} : ∀ {s}, InvFrom lo s → InvFrom lo (drainPending fuel s c) := by
  induction fuel with
  | zero => exact id
  | succ fuel ih =>
    intro s h
    rw [drainPending]
    split
    · next hs => exact ih (inv_startPending h _ hs)
    · exact h

theorem inv_takeSpawn {p} (h : InvFrom lo s) : SomeInv lo (takeSpawn s p) := by
  unfold takeSpawn
  refine .ite ?_ .none
  split
  · exact .ite (.ite (.some (.same (inv_drainPending h))) .none) (.some (inv_startSpawn (inv_drainPending h)))
  · exact .ite (.some (.same (inv_drainPending h))) .none

theorem inv_execSpawnArrives {msg} (h : InvFrom lo s) : NextInv lo (execSpawnArrives msg s) := by
  unfold execSpawnArrives
  split
  · exact .ite (.next (.ite (.same (inv_resumeSender (.same h)))
      (SomeInv.getD (inv_takeSpawn (inv_resumeSender (.same h))) (.same (inv_resumeSender (.same h)))))) (.next (inv_refuseSender (.same h)))
  · split
    · exact .next h
    · refine .ite (.next h) ?_
      split
      · exact .next h
      · next hs =>
        have ht := inv_takeSpawn h _ hs
        exact .next (.same ht)

theorem inv_execPendingTaskStart {cluster} (h : InvFrom lo s) : NextInv lo (execPendingTaskStart cluster s) :=
  .next (SomeInv.getD (inv_startPending h) h)

theorem inv_spillMiss {c crew o va x} (h : InvFrom lo s) : InvFrom lo (spillMiss s c crew o va x) := by
  unfold spillMiss
  split
  · exact h
  · exact inv_spillFailed h
  · exact .when (fun h => inv_spillFailed h) (.ite h (inv_startWalk h))

theorem inv_spillItem {c i} (h : InvFrom lo s) : InvFrom lo (spillItem s c i).1 := by
  unfold spillItem
  split
  · exact h
  · dsimp only
    split
    · split
      · exact inv_areaHeader (inv_areaWords (.same h))
      · exact inv_spillMiss h
      · exact inv_spillMiss h
    · split
      · split
        · exact h
        · exact inv_postRequest h
      · exact inv_spillFailed h

theorem inv_engineTakes {c i} (h : InvFrom lo s) : InvFrom lo (engineTakes s c i) :=
  .ite (.same h) (.ite (.same (inv_spillItem (i := i) (.same h))) (inv_spillItem (.same h)))

theorem inv_execSpill {msg} (h : InvFrom lo s) : NextInv lo (execSpill msg s) := by
  unfold execSpill
  split
  · exact .ite (.next (inv_engineTakes (.same h))) (.next h)
  · split
    · exact .next h
    · exact .ite (.next (inv_engineTakes (.same h))) (.next h)

theorem inv_deliverItem {i} (h : InvFrom lo s) : SomeInv lo (deliverItem s i) := by
  unfold deliverItem
  split
  · exact .ite (.some (.same h)) (.ite (.some (.same h)) .none)
  · exact inv_takeSpawn h

theorem inv_firstDelivery {o l x} (h : InvFrom lo s) : ∀ {before}, firstDelivery s o before l = some x → InvFrom lo x.2 := by
  induction l with
  | nil => intro before hx; simp [firstDelivery] at hx
  | cons i l ih =>
    intro before hx
    rw [firstDelivery] at hx
    split at hx
    · exact Option.some.inj hx ▸ h
    · split at hx
      · exact ih hx
      · split at hx
        · next hs => exact Option.some.inj hx ▸ inv_deliverItem h _ hs
        · exact ih hx

theorem inv_retryItem {c before i} (h : InvFrom lo s) : InvFrom lo (retryItem s c before i).1 := by
  unfold retryItem
  split
  · exact h
  · split
    · exact h
    · split
      · exact h
      · split
        · exact inv_spillItem h
        · split
          · next hs => exact inv_deliverItem h _ hs
          · exact inv_spillItem h

theorem inv_retryAll {c l} : ∀ {s before}, InvFrom lo s → InvFrom lo (retryAll s c before l) := by
  induction l with
  | nil => exact id
  | cons i l ih => exact fun h => .ite (ih (.same (inv_retryItem (before := _) (i := i) h))) (ih (inv_retryItem h))

theorem inv_execSpillRetry {cluster} (h : InvFrom lo s) : NextInv lo (execSpillRetry cluster s) := .ite (.next h) (.next (inv_retryAll (.same h)))

theorem inv_execSpillDeliver {crew} (h : InvFrom lo s) : NextInv lo (execSpillDeliver crew s) := by
  unfold execSpillDeliver
  split
  · exact .next h
  · next w _ =>
    extract_lets s₀
    have h₀ : InvFrom lo s₀ := inv_setCrew h
    split
    · exact .next h
    · next i s' hs =>
      have h' : InvFrom lo s' := inv_firstDelivery h₀ hs
      extract_lets fate s₁ w'
      have h₁ : InvFrom lo s₁ := .same (InvFrom.ite h₀ h')
      exact .ite (.next (inv_setCrew h₁)) (.next (inv_areaHeader (inv_setCrew h₁)))

/-! ### Tile engine -/

theorem inv_engineWriteAt {o w va key cached bs bad} (h : InvFrom lo s) : InvFrom lo (engineWriteAt s o w va key cached bs bad) :=
  .ite (inv_cacheWrite (inv_claimLine h)) (.when (fun h => .same h) (inv_homeWrite (inv_claimLine h)))
theorem inv_homeWriteAt {o w va key cached bs rel} (h : InvFrom lo s) : InvFrom lo (homeWriteAt s o w va key cached bs rel) :=
  .iteFrom (fun h => inv_trackedHomeWrite h) (fun h => inv_homeWrite h) (inv_claimLine h)
theorem inv_flushAgent {cluster agent} (h : InvFrom lo s) : InvFrom lo (flushAgent s cluster agent) := inv_flushWrites h
theorem inv_atomicAdd {o w va key cached n kind v} (h : InvFrom lo s) : InvFrom lo (atomicAdd s o w va key cached n kind v) :=
  .iteFrom (fun h => inv_markBad (inv_rmwWrite h)) (fun h => inv_rmwWrite h) (.when (fun h => inv_flushLine h) (inv_claimLine h))

/-! ### Tile operations -/

theorem inv_enterTile {op} (h : InvFrom lo s) : NextInv lo (enterTile s op) := .ite (.next (.same h)) (inv_forfeit h)

theorem inv_execTload {a z} (h : InvFrom lo s) : NextInv lo (execTload a z s) := by
  unfold execTload
  split
  · exact .ite (inv_trap h) (inv_enterTile h)
  · exact inv_trap h

theorem inv_execTmma {d a b z g f} (h : InvFrom lo s) : NextInv lo (execTmma d a b z g f s) := by
  unfold execTmma
  dsimp only
  split
  · exact inv_trap h
  · split
    · exact inv_enterTile h
    · exact inv_trap h

theorem inv_execTdrain {a b z f} (h : InvFrom lo s) : NextInv lo (execTdrain a b z f s) := by
  unfold execTdrain
  dsimp only
  split
  · exact inv_trap h
  · split
    · exact inv_trap h
    · split
      · exact inv_forfeit h
      · split
        · exact inv_trap h
        · split
          · exact .ite (inv_trap h) (.ite (inv_trap h) (inv_enterTile h))
          · exact inv_trap h

theorem inv_latchChunks {k j xs} (h : InvFrom lo s) : InvFrom lo (latchChunks s k j xs) := by
  unfold latchChunks
  dsimp only
  split
  · exact .same h
  · exact h

theorem inv_padRows {k w rows} (h : InvFrom lo s) : InvFrom lo (padRows s k w rows) := .foldl (fun _ _ h => inv_homeWrite h) h
theorem inv_setFlag {k w off v} (h : InvFrom lo s) : InvFrom lo (setFlag s k w off v) := inv_homeWrite h

theorem inv_mapVoyage {c f} (h : InvFrom lo s) : InvFrom lo (mapVoyage s c f) := by
  unfold mapVoyage
  extract_lets cl s₁
  have h₁ : InvFrom lo s₁ := by
    unfold s₁
    split
    · exact inv_setCluster h
    · exact h
  exact .same h₁

theorem inv_spoilBank {k z} (h : InvFrom lo s) : InvFrom lo (spoilBank s k z) := by
  unfold spoilBank
  dsimp only
  split
  · refine inv_setCore ?_
    refine inv_mapVoyage ?_
    split
    · exact .same h
    · exact h
  · exact h

theorem inv_runTile {k e} (h : InvFrom lo s) : InvFrom lo (runTile s k e) := by
  unfold runTile
  dsimp only
  split
  · exact .same h
  · exact .same h
  · exact .ite (.same h) (.same h)
  · split
    · exact inv_setFlag (inv_padRows h)
    · exact inv_padRows h

theorem inv_drainRow {core} (h : InvFrom lo s) : NextInv lo (drainRow core s) := by
  unfold drainRow
  dsimp only
  split
  · split
    · exact .ite (.next h) (.next (inv_setCore (inv_padRows h)))
    · exact .next h
  · exact .next h

theorem inv_latchChunk {core} (h : InvFrom lo s) : NextInv lo (latchChunk core s) := by
  unfold latchChunk
  dsimp only
  split
  · exact .next (inv_latchChunks h)
  · exact .next h

theorem inv_execTileStart {core} (h : InvFrom lo s) : NextInv lo (execTileStart core s) := by
  unfold execTileStart
  dsimp only
  split
  · exact .ite (.next h) (.next (.same h))
  · exact .next h

theorem inv_execTileComplete {core} (h : InvFrom lo s) : NextInv lo (execTileComplete core s) := by
  unfold execTileComplete
  dsimp only
  split
  · exact .next (.same h)
  · split
    · exact .ite (.next (inv_setCore (inv_spoilBank (inv_runTile h)))) (.next h)
    · exact .next h

/-! ### Memory cells of an image -/

theorem inv_sectionWord {c va key cached fl bs i q} (h : InvFrom lo s) : InvFrom lo (sectionWord c va key cached fl bs (s, i) q).1 :=
  inv_engineWriteAt h
theorem inv_sectionWrite {c i va key cached fl bs} (h : InvFrom lo s) : InvFrom lo (sectionWrite s c i va key cached fl bs).1 :=
  List.foldlRecOn (motive := fun r : State × Image => InvFrom lo r.1) _ _ h fun _ hr _ _ => inv_sectionWord hr

theorem inv_sectionFault {i code} (h : InvFrom lo s) : InvFrom lo (sectionFault s i code) := by
  unfold sectionFault
  split
  · exact inv_stopRecord h
  · exact h

/-! ### Images -/

theorem inv_writeCells {r : Raw} {c p} (h : InvFrom lo s) : InvFrom lo (r.writeCells s c p) := by
  unfold Raw.writeCells
  extract_lets s₁ cellAt
  have h₁ : InvFrom lo s₁ := .foldl (fun s n h => h.withMem fun hm => memClear_wf _ _ _ hm) h
  exact h₁.withMem fun hm => List.foldlRecOn (motive := fun m => Memory.wf m = true) _ _ hm fun _ hm _ _ => memSetN_wf _ _ _ hm

/-! ### Save areas -/

theorem inv_writeArea {base units ps} (h : InvFrom lo s) : InvFrom lo (writeArea s base units ps) :=
  h.withMem fun hm => List.foldlRecOn (motive := fun m => Memory.wf m = true) _ _ (memClear_wf _ _ _ hm) fun _ hm _ _ => memSetN_wf _ _ _ hm

/-! ### Voyages -/

theorem inv_ringWrite8 {c o agent clk va bs} (h : InvFrom lo s) : InvFrom lo (ringWrite8 s c o agent clk va bs) := by
  unfold ringWrite8
  split
  · exact inv_engineWriteAt h
  · exact inv_arriveWrite (inv_engineWriteAt h)
  · exact h

theorem inv_setVoyage {c v} (h : InvFrom lo s) : InvFrom lo (setVoyage s c v) := .same h
theorem inv_beginVoyage {c v} (h : InvFrom lo s) : InvFrom lo (beginVoyage s c v) := .same h

theorem inv_execVstart {a} (h : InvFrom lo s) : NextInv lo (execVstart a s) := by
  unfold execVstart
  refine .ite (inv_trap h) (inv_afterRelease h fun s h => .ite (inv_parkOn h) ?_)
  split
  · exact inv_forfeit h
  · exact inv_parkMiss h
  · exact inv_trap h
  · extract_lets d s₁
    have h₁ : InvFrom lo s₁ := .when (fun h => inv_poisonEvent h) h
    split
    · exact .next (inv_skip (inv_beginVoyage (inv_enlistFor h₁)))
    · exact inv_trap (inv_ringWrite8 h₁)

theorem inv_chartOr {c v i bit} (h : InvFrom lo s) : InvFrom lo (chartOr s c v i bit) := by
  unfold chartOr
  dsimp only
  split
  · exact inv_rmwWrite h
  · exact inv_rmwWrite (inv_flushLine h)
  · exact h

theorem inv_endVoyage {c v error done} (h : InvFrom lo s) : InvFrom lo (endVoyage s c v error done) :=
  inv_forgetBays (inv_setVoyage (inv_ringWrite8 h))

theorem inv_countUp {c v n} (h : InvFrom lo s) : InvFrom lo (countUp s c v n) := by
  unfold countUp
  extract_lets w done s₁ k s₂
  have h₁ : InvFrom lo s₁ := .ite (inv_endVoyage h) (inv_setVoyage h)
  have h₂ : InvFrom lo s₂ := inv_setCounter h₁
  split
  · split
    · exact inv_moveSeq (inv_joinEnd (inv_unhold h₂))
    · exact h₂
  · exact h₂

theorem inv_countEntry {c v i} (h : InvFrom lo s) : InvFrom lo (countEntry s c v i) := by
  unfold countEntry
  split
  · exact h
  · exact inv_countUp (.when (fun h => inv_chartOr h) (inv_chartOr h))

theorem inv_parkSight {c v i va kind} (h : InvFrom lo s) : InvFrom lo (parkSight s c v i va kind) := inv_startWalk (.same h)
theorem inv_parkVoyage {c v va kind} (h : InvFrom lo s) : InvFrom lo (parkVoyage s c v va kind) := inv_startWalk (.same h)
theorem inv_vFail {c v va} (h : InvFrom lo s) : InvFrom lo (vFail s c v va) := .same h

theorem inv_voyageRuns {v} (h : InvFrom lo s) : InvFrom lo (voyageRuns s v) := by
  unfold voyageRuns
  split
  · exact inv_recordRuns h
  · exact h

theorem inv_execEmbark {cluster} (h : InvFrom lo s) : NextInv lo (execEmbark cluster s) := by
  unfold execEmbark
  split
  · exact .next h
  · split
    · exact .next h
    · split
      · split
        · exact .next h
        · split
          · refine .next ?_
            split
            · exact inv_holdBack h
            · exact h
          · exact .next (inv_scrambleBays (inv_setVoyage (inv_counterPut (inv_voyageRuns h))))
      · split
        · exact .next h
        · split
          · exact .next h
          · exact .next (inv_parkVoyage h)
          · exact .next (.same h)
          · exact .next (.same h)

theorem inv_fillBays {c v slot ts} (h : InvFrom lo s) : InvFrom lo (fillBays s c v slot ts) := .foldl (fun _ _ h => inv_homeWrite h) h

theorem inv_execEmbarkComplete {cluster} (h : InvFrom lo s) : NextInv lo (execEmbarkComplete cluster s) := by
  unfold execEmbarkComplete
  split
  · exact .next h
  · split
    · exact .next h
    · split
      · exact .next h
      · exact .next (inv_parkVoyage h)
      · exact .next (.same h)
      · exact .ite (.next (inv_holdBack h)) (.next (inv_countUp (.foldl (fun _ _ h => inv_chartOr h) (inv_fillBays (inv_fillBays h)))))

theorem inv_engineSight {c v i e st ps ss} (h : InvFrom lo s) : InvFrom lo (engineSight s c v i e st ps ss) := .same h
theorem inv_threadSight {c v i e st slot ps ss} (h : InvFrom lo s) : InvFrom lo (threadSight s c v i e st slot ps ss) :=
  inv_setVoyage (inv_setThread (inv_startTask h))

theorem inv_execSighting {cluster station} (h : InvFrom lo s) : NextInv lo (execSighting cluster station s) := by
  unfold execSighting
  split
  · exact .next h
  · dsimp only
    split
    · exact .next (.same h)
    · split
      · exact .next h
      · split
        · exact .ite (.next h) (.next (.same h))
        · split
          · exact .next (.same h)
          · split
            · exact .next (inv_threadSight h)
            · exact .next (.same h)

theorem inv_addOne {c v r} (h : InvFrom lo s) : InvFrom lo (addOne c v s r) := inv_atomicAdd h

theorem inv_voyagePoison {v va} (h : InvFrom lo s) : InvFrom lo (voyagePoison s v va) := by
  unfold voyagePoison
  split
  · exact inv_stopRecord h
  · exact inv_crewEvent h
  · exact h

theorem inv_poisonThenCount {c bad i} (h : InvFrom lo s) : InvFrom lo (poisonThenCount s c bad i) := by
  unfold poisonThenCount
  split
  · exact inv_countEntry h
  · dsimp only
    split
    · exact inv_countEntry (inv_voyagePoison h)
    · exact inv_voyagePoison h
  · exact h

theorem inv_execAccumulationComplete {cluster entry} (h : InvFrom lo s) : NextInv lo (execAccumulationComplete cluster entry s) := by
  unfold execAccumulationComplete
  split
  · exact .next h
  · split
    · exact .next h
    · split
      · exact .next h
      · split
        · exact .next (inv_holdBack h)
        · split
          · exact .next h
          · exact .next (inv_parkSight h)
          · exact .next (.same h)
          · exact .next (inv_poisonThenCount (inv_setVoyage (.foldl (fun _ _ h => inv_addOne h) h)))

theorem inv_passTile {c v f st slot tgt slot'} (h : InvFrom lo s) : InvFrom lo (passTile s c v f st slot tgt slot') := inv_homeWrite h

theorem inv_execStationReady {cluster station} (h : InvFrom lo s) : NextInv lo (execStationReady cluster station s) := by
  unfold execStationReady
  split
  · exact .next h
  · split
    · exact .next h
    · dsimp only
      split
      · exact .next (.same h)
      · split
        · split
          · exact .next (inv_passTile (.same h))
          · exact .next (.same h)
        · split
          · exact .next (inv_passTile (.same h))
          · exact .next (.same h)

/-- What a walk's two parts answer together. -/
theorem VRead.of_bind_ok {α β : Type} {r : VRead α} {f : α → VRead β} {b : β} (h : r.bind f = .ok b) : ∃ a, r = .ok a ∧ f a = .ok b := by
  cases r with
  | ok a => exact ⟨a, rfl, h⟩
  | denied va => simp [VRead.bind] at h
  | missing va => simp [VRead.bind] at h
  | wait => simp [VRead.bind] at h

theorem inv_writeReckon {c v l t} (h : InvFrom lo s) (ht : writeReckon s c v l = .ok t) : InvFrom lo t := by
  unfold writeReckon at ht
  obtain ⟨ps, -, hps⟩ := VRead.of_bind_ok ht
  exact VRead.ok.inj hps ▸ .foldl (fun _ _ h => inv_ringWrite8 (inv_ringWrite8 h)) h

theorem inv_execHalfStepStart {cluster} (h : InvFrom lo s) : NextInv lo (execHalfStepStart cluster s) := by
  unfold execHalfStepStart
  split
  · exact .next h
  · refine .ite (.next h) (.ite (.next (inv_setVoyage h)) (.ite (.ite (.next (inv_holdBack h)) (.next (inv_countUp h))) ?_))
    extract_lets l
    split
    · exact .next h
    · exact .next (inv_parkVoyage h)
    · exact .next (inv_vFail h)
    · next ht => exact .next (inv_setVoyage (inv_writeReckon h ht))

theorem inv_fetchPair {c v e st x} (h : InvFrom lo s) (hx : fetchPair s c v e st = .ok x) : InvFrom lo x.1 := by
  unfold fetchPair at hx
  split at hx
  · obtain ⟨ba, -, hx⟩ := VRead.of_bind_ok hx
    obtain ⟨bb, -, hx⟩ := VRead.of_bind_ok hx
    exact VRead.ok.inj hx ▸ inv_fillBays (inv_fillBays h)
  · exact VRead.ok.inj hx ▸ h

theorem inv_reckonEntry {c v i st e run} (h : InvFrom lo s) (hrun : ∀ {s v e}, InvFrom lo s → InvFrom lo (run s v e)) :
    NextInv lo (reckonEntry s c v i st e run) := by
  unfold reckonEntry
  split
  · exact .next h
  · exact .next (inv_parkSight h)
  · exact .next (inv_vFail h)
  · next hx =>
    have h' := inv_fetchPair h hx
    extract_lets e'
    split
    · exact .next (hrun h')
    · exact .ite (.next (inv_holdBack h)) (.next (inv_poisonThenCount (inv_setVoyage h')))

theorem inv_execReckoning {cluster} (h : InvFrom lo s) : NextInv lo (execReckoning cluster s) := by
  unfold execReckoning
  split
  · exact .next h
  · extract_lets idle
    refine .ite (.next h) ?_
    split
    · exact .next h
    · exact .ite (.ite (.next (inv_holdBack h)) (.next (inv_countUp h))) (inv_reckonEntry h inv_engineSight)

theorem inv_execReckonTaskStart {cluster station} (h : InvFrom lo s) : NextInv lo (execReckonTaskStart cluster station s) := by
  unfold execReckonTaskStart
  split
  · exact .next h
  · refine .ite (.next h) ?_
    split
    · exact .next h
    · refine .ite (.next h) ?_
      split
      · exact .next h
      · exact inv_reckonEntry h inv_threadSight

theorem inv_missUnreleased {c v t w} (h : InvFrom lo s) (hp : missUnreleased s c v = (t, w)) : InvFrom lo t :=
  (Prod.mk.inj hp).1 ▸ .same h

theorem inv_execVoyageFailure {cluster} (h : InvFrom lo s) : NextInv lo (execVoyageFailure cluster s) := by
  unfold execVoyageFailure
  split
  · exact .next h
  · split
    · exact .next h
    · refine .ite (.next (inv_holdBack h)) ?_
      split
      next t w hp =>
      extract_lets s₁
      have h₁ : InvFrom lo s₁ := inv_voyageOver (inv_endVoyage (inv_missUnreleased h hp))
      split
      · exact .next (inv_moveSeq (inv_unhold h₁))
      · exact .next (inv_deferTrap h₁)
      · exact .next h₁

theorem inv_askStop {c} (h : InvFrom lo s) : InvFrom lo (askStop s c) := by
  unfold askStop
  split
  · exact h
  · refine .ite h ?_
    split
    next hp => exact inv_setVoyage (inv_missUnreleased h hp)

theorem inv_execVoyageStop {cluster} (h : InvFrom lo s) : NextInv lo (execVoyageStop cluster s) := by
  unfold execVoyageStop
  split
  · exact .next h
  · split
    · exact .next h
    · split
      · exact .next h
      · refine .next ?_
        dsimp only [InvFrom]
        exact inv_setVoyage (inv_forgetWaiters (inv_writeArea (inv_flushCluster h)))

/-! ### System instructions -/

theorem inv_execRdsys {d b} (h : InvFrom lo s) : NextInv lo (execRdsys d b s) := by
  unfold execRdsys
  split
  · exact .next (.same h)
  · exact inv_trap h

theorem inv_execWrsys {a b} (h : InvFrom lo s) : NextInv lo (execWrsys a b s) := by
  unfold execWrsys
  split
  · exact .next (.same h)
  · exact inv_trap h

theorem inv_withdraw {t} (h : InvFrom lo s) : InvFrom lo (withdraw s t) := by
  unfold withdraw
  dsimp only
  split
  all_goals exact .same h

theorem inv_execCrewEvent {crew} (h : InvFrom lo s) : NextInv lo (execCrewEvent crew s) := by
  unfold execCrewEvent
  split
  · dsimp only
    split
    · split
      · exact .next (inv_takeTrap (inv_setCrew (inv_withdraw h)))
      · exact .next (inv_takeTrap (inv_setCrew (inv_withdraw h)))
      · exact .next (inv_withdraw h)
    · exact .next h
  · exact .next h

theorem inv_execDeferredTrap {tag} (h : InvFrom lo s) : NextInv lo (execDeferredTrap tag s) := by
  unfold execDeferredTrap
  split
  · dsimp only
    split
    · exact .next (inv_takeTrap (.same h))
    · exact .next h
  · exact .next h

theorem inv_countSaved {q i clk} (h : InvFrom lo s) : InvFrom lo (countSaved s q i clk) := by
  unfold countSaved
  split
  · exact h
  · exact .ite h (.same (InvFrom.when (fun h => inv_chartOr h) (inv_chartOr h)))

theorem inv_countSighting {t} (h : InvFrom lo s) : InvFrom lo (countSighting s t) := by
  unfold countSighting
  split
  · exact h
  · dsimp only
    split
    · exact .ite (inv_countEntry h) h
    · exact .foldl (fun _ _ h => by exact .ite (inv_countSaved h) h) h

theorem inv_freeThread {t} (h : InvFrom lo s) : InvFrom lo (freeThread s t) := by
  dsimp only [freeThread, InvFrom]
  exact inv_setCore (inv_discardFor h)

theorem inv_execExit (h : InvFrom lo s) : NextInv lo (execExit s) := by
  unfold execExit
  refine .ite (inv_afterRelease h fun s h => ?_) (inv_parkOn (.when (fun h => inv_holdBack h) h))
  refine .next (inv_freeThread (inv_countSighting ?_))
  split
  · exact inv_joinEnd h
  · exact h

theorem inv_fetchMiss {t} (h : InvFrom lo s) : InvFrom lo (fetchMiss s t) := by
  unfold fetchMiss
  dsimp only
  split
  · split
    · exact inv_addL2 h
    · exact inv_takeTrap (.same h)
    · exact inv_takeTrap h
  · exact inv_startWalk (.same h)

theorem inv_execIcacheFill {core line} (h : InvFrom lo s) : NextInv lo (execIcacheFill core line s) := by
  unfold execIcacheFill
  split
  · exact .next h
  · dsimp only
    split
    · exact .next h
    · exact .next (.foldl (fun _ _ h => inv_fetchMiss h) h)
    · exact .next (.foldl (fun _ _ h => inv_takeTrap h) h)
    · split
      · exact .next (.when (fun h => inv_poisonEvent h) (.foldl (fun _ _ h => by exact .same h) (.same h)))
      · exact .next h

/-! ### Commands of a core -/

theorem inv_appendCommand {k q m} (h : InvFrom lo s) : InvFrom lo (appendCommand s k q m) := .unless (fun h => .same h) (inv_enlistFor (.same h))
theorem inv_execScmd {a b n} (h : InvFrom lo s) : NextInv lo (execScmd a b n s) :=
  .ite (inv_trap h) (.ite (inv_forfeit h) (inv_afterRelease h fun _ h => .next (inv_skip (inv_appendCommand h))))

theorem inv_execRget {d} (h : InvFrom lo s) : NextInv lo (execRget d s) := by
  unfold execRget
  split
  · exact .next (.same h)
  · split
    · exact inv_parkOn h
    · exact .next (.same h)

theorem inv_execNread {d n} (h : InvFrom lo s) : NextInv lo (execNread d n s) := inv_atControl h fun _ h => .next (inv_setTh h)
theorem inv_execNset {a n} (h : InvFrom lo s) : NextInv lo (execNset a n s) := inv_atControl h fun _ h => .next (inv_skip (inv_counterSet h))
theorem inv_setHead {k q m} (h : InvFrom lo s) : InvFrom lo (setHead s k q m) := .same h

theorem inv_execCommandStart {core q} (h : InvFrom lo s) : NextInv lo (execCommandStart core q s) := by
  unfold execCommandStart
  split
  · exact .next h
  · exact .ite (.next h) (.next (.same h))

theorem inv_parkCommand {k q m va kind} (h : InvFrom lo s) : InvFrom lo (parkCommand s k q m va kind) := inv_startWalk (.same h)
theorem inv_stopCommand {k q m cause va handled} (h : InvFrom lo s) : InvFrom lo (stopCommand s k q m cause va handled) := inv_deferTrap (.same h)
theorem inv_doneCommand {k q m value} (h : InvFrom lo s) : InvFrom lo (doneCommand s k q m value) := .same h

theorem inv_notePoison {m bad va} (h : InvFrom lo s) : InvFrom lo (notePoison s m bad va).1 := by
  unfold notePoison
  split
  · exact inv_poisonEvent h
  · exact h

theorem inv_runTurn {k q total step piece handled value fuel} (hp : ∀ {s m}, InvFrom lo s → PieceInv lo (piece s m)) :
    ∀ {s m}, InvFrom lo s → InvFrom lo (runTurn k q total step piece handled value fuel s m) := by
  induction fuel with
  | zero => exact fun h => inv_setHead h
  | succ fuel ih =>
    intro s m h
    rw [runTurn]
    refine .ite (inv_doneCommand h) ?_
    split
    · next hgo => exact .ite (inv_doneCommand (hp h _ _ hgo)) (ih (hp h _ _ hgo))
    · exact inv_parkCommand h
    · exact inv_stopCommand h
    · exact inv_setHead h

theorem inv_runWrites {k q total step dest piece handled value m} (h : InvFrom lo s) (hp : ∀ {s m}, InvFrom lo s → PieceInv lo (piece s m)) :
    InvFrom lo (runWrites k q total step dest piece handled value s m) := by
  unfold runWrites
  split
  · exact inv_stopCommand h
  · exact inv_runTurn hp h

theorem inv_putAt {k m va key cached fl bs bad} (h : InvFrom lo s) : PieceInv lo (putAt s k m va key cached fl bs bad) :=
  .ite .wait (.go (inv_engineWriteAt h))

theorem inv_sideWrite {k m x bs bad} (h : InvFrom lo s) : PieceInv lo (sideWrite s k m x bs bad) := by
  unfold sideWrite
  extract_lets o
  split
  · exact .ite (.go h) .stop
  · split
    · exact inv_putAt h
    · exact inv_putAt h
    · exact .stop
    · exact .park

theorem inv_moveWord {k m src dst} (h : InvFrom lo s) : PieceInv lo (moveWord s k m src dst) := by
  unfold moveWord
  split
  · exact .park
  · exact .stop
  · exact .wait
  · split
    · next hgo => exact .go (inv_notePoison (inv_sideWrite h _ _ hgo))
    · exact inv_sideWrite h

theorem inv_probePage {k m va} (h : InvFrom lo s) : PieceInv lo (probePage s k m va) := by
  unfold probePage
  extract_lets o
  split
  · split
    · exact .go (inv_fillL1 h)
    · exact .stop
    · exact .park
  · exact .stop
  · exact .go h

theorem inv_probePiece {k m} (h : InvFrom lo s) : PieceInv lo (probePiece s k m) := by
  unfold probePiece
  extract_lets ix
  refine .ite (.go h) ?_
  extract_lets
  split
  · next hgo => exact inv_probePage (inv_probePage h _ _ hgo)
  · exact inv_probePage h

theorem inv_redputPiece {k m} (h : InvFrom lo s) : PieceInv lo (redputPiece s k m) := by
  unfold redputPiece
  extract_lets o kind w own v x next bad v' add
  have hadd : ∀ key cached fl, PieceInv lo (add key cached fl) := fun key cached fl =>
    .ite .wait (.go (inv_notePoison (.when (fun h => inv_markBad h) (inv_atomicAdd h))))
  clear_value x add
  split
  · exact .ite (.go (inv_notePoison h)) .stop
  · split
    · exact hadd _ _ _
    · exact hadd _ _ _
    · exact .stop
    · exact .park

theorem inv_execGet {core q} (h : InvFrom lo s) : NextInv lo (execGet core q s) := by
  unfold execGet
  split
  · exact .next h
  · exact .next (inv_runWrites h inv_moveWord)

theorem inv_execPut {core q} (h : InvFrom lo s) : NextInv lo (execPut core q s) := by
  unfold execPut
  split
  · exact .next h
  · exact .next (inv_runWrites h inv_moveWord)

theorem inv_noteOwn {k m off n} (h : InvFrom lo s) : InvFrom lo (noteOwn s k m off n).1 := inv_notePoison h
theorem inv_putMoved {k m key bs bad} (h : InvFrom lo s) : InvFrom lo (putMoved s k m key bs bad) :=
  .foldl (fun _ _ h => by exact .ite (.same h) h) (inv_engineWriteAt h)

theorem inv_execCopy {core q} (h : InvFrom lo s) : NextInv lo (execCopy core q s) := by
  unfold execCopy
  split
  · exact .next h
  · refine .ite (.next h) ?_
    extract_lets r m d dest
    have hr : InvFrom lo r.1 := by
      unfold r
      split
      · exact inv_noteOwn h
      · exact h
    exact .ite (.next (inv_runWrites hr inv_moveWord)) (.next (inv_stopCommand hr))

theorem inv_execFill {core q} (h : InvFrom lo s) : NextInv lo (execFill core q s) := by
  unfold execFill
  split
  · exact .next h
  · refine .ite (.next h) ?_
    extract_lets bad r p
    have hr : InvFrom lo r.1 := by
      unfold r
      split
      · exact inv_noteOwn h
      · exact h
    exact .next (inv_runWrites hr inv_sideWrite)

theorem inv_startList {k m limit t n} (h : InvFrom lo s) (hx : startList s k m limit = some (t, n)) : InvFrom lo t := by
  unfold startList at hx
  split at hx
  · exact (Prod.mk.inj (Option.some.inj hx)).1 ▸ h
  · split at hx
    · split at hx
      · simp at hx
      · exact (inv_noteOwn h).of_pair (Option.some.inj hx)
    · simp at hx

theorem inv_execGetx {core q} (h : InvFrom lo s) : NextInv lo (execGetx core q s) := by
  unfold execGetx
  split
  · exact .next h
  · refine .ite (.next h) ?_
    split
    · exact .next (inv_stopCommand h)
    · next hs => exact .next (inv_runWrites (inv_startList h hs) fun h => .ite (inv_sideWrite h) (inv_moveWord h))

theorem inv_execPutx {core q} (h : InvFrom lo s) : NextInv lo (execPutx core q s) := by
  unfold execPutx
  split
  · exact .next h
  · refine .ite (.next h) ?_
    split
    · exact .next (inv_stopCommand h)
    · next hs => exact .next (inv_runWrites (inv_startList h hs) fun h => .ite (.go h) (inv_moveWord h))

theorem inv_execProbe {core q} (h : InvFrom lo s) : NextInv lo (execProbe core q s) := by
  unfold execProbe
  split
  · exact .next h
  · refine .ite (.next h) ?_
    split
    · exact .next (inv_stopCommand h)
    · next hs =>
      extract_lets _ t
      have ht : InvFrom lo t := inv_runTurn inv_probePiece (inv_startList h hs)
      split
      · exact .ite (.next (inv_setCore (inv_doneCommand ht))) (.next ht)
      · exact .next ht

theorem inv_execRedput {core q} (h : InvFrom lo s) : NextInv lo (execRedput core q s) := by
  unfold execRedput
  split
  · exact .next h
  · exact .next (inv_runWrites h inv_redputPiece)

theorem inv_execScan {core q} (h : InvFrom lo s) : NextInv lo (execScan core q s) := by
  unfold execScan
  split
  · exact .next h
  · refine .ite (.next h) ?_
    extract_lets ty w n out vout el nz c n' pads list vals overlap list' vals' bad bay stop
    refine .ite (.next (inv_stopCommand h)) (.ite (.next (inv_stopCommand h)) ?_)
    split
    · next hgo =>
      extract_lets r
      have hr : InvFrom lo r.1 := inv_notePoison (inv_sideWrite h _ _ hgo)
      refine .ite ?_ (.next (inv_doneCommand hr))
      split
      · next hgo => exact .next (inv_doneCommand (inv_sideWrite hr _ _ hgo))
      · exact .next (inv_stopCommand hr)
      · exact .next (inv_sideWrite h _ _ hgo)
      · exact .next (inv_sideWrite h _ _ hgo)
    · exact .next (inv_stopCommand h)
    · exact .next h
    · exact .next h

theorem inv_chainStore {k q m count i} (h : InvFrom lo s) : InvFrom lo (chainStore s k q m count i) :=
  inv_setHead (inv_notePoison (inv_putMoved h))

theorem inv_execChain {core q} (h : InvFrom lo s) : NextInv lo (execChain core q s) := by
  unfold execChain
  split
  · exact .next h
  · refine .ite (.next h) ?_
    extract_lets hdr w0 n
    split
    next t m hx =>
    have ht : InvFrom lo t := by
      split at hx
      · exact (inv_noteOwn h).of_pair hx
      · exact h.of_pair hx
    extract_lets count limit ready able
    refine .ite (.next (inv_stopCommand ht)) ?_
    split
    · exact .next (inv_chainStore ht)
    · exact .ite (.next (inv_setHead ht)) (.ite (.next (inv_doneCommand ht)) (.next (inv_stopCommand ht)))

theorem inv_setGroup {k g v} (h : InvFrom lo s) : InvFrom lo (setGroup s k g v) := .same h
theorem inv_noteWait {k m} (h : InvFrom lo s) : InvFrom lo (noteWait s k m) := .ite (.same h) h

theorem inv_execHalo {core q} (h : InvFrom lo s) : NextInv lo (execHalo core q s) := by
  unfold execHalo
  split
  · exact .next h
  · refine .ite (.next h) ?_
    extract_lets l
    split
    next t m hx =>
    have ht : InvFrom lo t := (inv_noteOwn h).of_pair hx
    refine .ite ?_ (.next (inv_stopCommand ht))
    split
    · exact .next (inv_stopCommand ht)
    · exact .next (inv_noteWait (inv_setHead ht))

theorem inv_storeFace {k m f} (h : InvFrom lo s) : InvFrom lo (storeFace s k m f) := .foldl (fun _ _ h => inv_putMoved h) h

theorem inv_execFaceDelivered {core q face} (h : InvFrom lo s) : NextInv lo (execFaceDelivered core q face s) := by
  unfold execFaceDelivered
  split
  · exact .next h
  · split
    · exact .next h
    · dsimp only
      split
      · exact .next h
      · split
        · exact .next (inv_stopCommand h)
        · exact .next (inv_noteWait (inv_setHead (inv_notePoison (inv_setGroup (inv_storeFace h)))))

theorem inv_releaseGroup {core q g m} (h : InvFrom lo s) : InvFrom lo (releaseGroup s core q g m) :=
  .ite (.same h) (.ite (inv_stopCommand h) (.ite h (.same h)))

theorem inv_execBind {core q} (h : InvFrom lo s) : NextInv lo (execBind core q s) := by
  unfold execBind
  split
  · exact .next h
  · exact .ite (.next (inv_releaseGroup h)) (.ite (.next h) (.ite (.next (inv_stopCommand h)) (.ite (.next (.same h)) (.next (.same h)))))

theorem inv_completeCommand {k q m} (h : InvFrom lo s) : InvFrom lo (completeCommand s k q m) := .ite (.same h) (inv_counterDone (.same h))

theorem inv_execCommandComplete {core q} (h : InvFrom lo s) : NextInv lo (execCommandComplete core q s) := by
  unfold execCommandComplete
  split
  · exact .ite (.next (inv_flushAgent h)) (.next (inv_completeCommand (inv_flushAgent h)))
  · split
    · exact .next h
    · exact .ite (.next (inv_completeCommand (.same h))) (.ite (.next (inv_completeCommand h)) (.next h))

/-! ### Servers and images -/

theorem inv_putImage {c i} (h : InvFrom lo s) : InvFrom lo (putImage s c i) := inv_setImages h

theorem inv_dropImage {c fid} (h : InvFrom lo s) : InvFrom lo (dropImage s c fid) := by
  unfold dropImage
  dsimp only
  split
  · exact inv_leaveCells (inv_setImages h)
  · exact inv_setImages h

theorem inv_poisonCall {tag code va} (h : InvFrom lo s) : InvFrom lo (poisonCall s tag code va) := .ite (inv_takeTrap (.same h)) h

/-! ### Memory cells of an image -/

theorem inv_cellAccess {c i pkt cell va n w kind} (h : InvFrom lo s) : AccInv lo (cellAccess s c i pkt cell va n w kind) := by
  unfold cellAccess
  extract_lets o die who
  split
  · exact .fault
  · refine .ite .fault ?_
    split
    · exact .ite (.wait h) .ok
    · exact .ite (.wait h) .ok
    · exact .fault
    · exact .ite .fault (.ite (.wait h) (.wait (inv_startWalk h)))

theorem inv_cellLoad {c i j pkt cell itr va n x} (h : InvFrom lo s) (hx : cellLoad s c i j pkt cell itr va n = .inr x) : CellInv lo x := by
  unfold cellLoad at hx
  split at hx
  · next hw => exact Sum.inr.inj hx ▸ inv_cellAccess h _ hw
  · split at hx
    · exact Sum.inr.inj hx ▸ .other (inv_sectionFault h)
    · simp at hx
  · extract_lets r at hx
    split at hx
    · split at hx
      · exact Sum.inr.inj hx ▸ .other (inv_sectionFault h)
      · simp at hx
    · simp at hx

theorem inv_cellStore {c i j pkt cell itr va bs} (h : InvFrom lo s) : CellInv lo (cellStore s c i j pkt cell itr va bs) := by
  unfold cellStore
  split
  · next hw => exact .other (inv_cellAccess h _ hw)
  · exact .ite (.other (inv_sectionFault h)) (.done h)
  · exact .ite (.done (inv_sectionWrite h)) (.done h)

theorem inv_memRead {c i j p k} (h : InvFrom lo s) : CellInv lo (memRead s c i j p k) := by
  unfold memRead
  extract_lets head at_ ins toks pkt itr null n addr va k' finish key
  refine .ite (.done h) (.ite ?_ (.ite (.ite (.other (inv_sectionFault h)) (.done h)) (.done h)))
  split
  · exact .done h
  · next hx => exact inv_cellLoad h hx

theorem inv_memWrite {c i j p k} (h : InvFrom lo s) : CellInv lo (memWrite s c i j p k) := by
  unfold memWrite
  extract_lets head at_ ins toks pkt itr dead n addr va bs k' f key s'
  refine .ite (.done h) (.ite ?_ (.done (inv_homeWrite h)))
  split
  · next hx => exact .done ((inv_cellStore h).of_done hx)
  · exact inv_cellStore h

theorem inv_memUpdate {c i j p k} (h : InvFrom lo s) : CellInv lo (memUpdate s c i j p k) := by
  unfold memUpdate
  extract_lets head ins toks itr dead n addr va v k' finish update key
  have hupdate : ∀ key cached fl, CellInv lo (update key cached fl) := fun key cached fl =>
    .done (inv_rmwWrite (.when (fun h => inv_flushLine h) h))
  refine .ite (.done h) (.ite ?_ (.ite (.other (inv_sectionFault h)) (hupdate _ _ _)))
  split
  · next hw => exact .other (inv_cellAccess h _ hw)
  · exact .other (inv_sectionFault h)
  · exact .ite (.other (inv_sectionFault h)) (hupdate _ _ _)

theorem inv_memPush {i j p k} (h : InvFrom lo s) : CellInv lo (memPush s i j p k) := .ite (.done h) (.ite (.done h) (.done h))

theorem inv_memPop {i j p k} (h : InvFrom lo s) : CellInv lo (memPop s i j p k) := by
  unfold memPop
  split
  · exact .other h
  · exact .ite (.done h) (.done h)

theorem inv_endpointPublish {c i cell va n} (h : InvFrom lo s) : CellInv lo (endpointPublish s c i cell va n) := by
  unfold endpointPublish
  split
  · next hw => exact .other (inv_cellAccess h _ hw)
  · exact .other (inv_sectionFault h)
  · exact .ite (.other (inv_flushAgent h)) (.done (inv_homeWriteAt (.when (fun h => inv_flushLine h) (inv_flushAgent h))))

theorem inv_endpointPut {c i j p k} (h : InvFrom lo s) : CellInv lo (endpointPut s c i j p k) := by
  unfold endpointPut
  extract_lets head at_ ins toks dead addr bs k' f
  refine .ite (.done h) ?_
  split
  · next hx => exact .other ((inv_cellStore h).of_other hx)
  · next hx =>
    have h' := (inv_cellStore h).of_done hx
    refine .ite ?_ (.done h')
    split
    · next hx => exact .done ((inv_endpointPublish h').of_done hx)
    · split
      · next hx => exact .other ((inv_endpointPublish h).of_other hx)
      · exact .other h

theorem inv_endpointTake {c i j p k} (h : InvFrom lo s) : CellInv lo (endpointTake s c i j p k) := by
  unfold endpointTake
  extract_lets head ins
  refine .ite (.done h) ?_
  split
  · next hx => exact inv_cellLoad h hx
  · refine .ite ?_ (.done h)
    split
    · next hx => exact .done ((inv_endpointPublish h).of_done hx)
    · exact inv_endpointPublish h

theorem inv_endpointPoll {c i j p k} (h : InvFrom lo s) : CellInv lo (endpointPoll s c i j p k) := by
  unfold endpointPoll
  extract_lets prod base based va
  refine .ite (.other h) (.ite (.done h) ?_)
  split
  · next hw => exact .other (inv_cellAccess h _ hw)
  · exact .other (inv_sectionFault h)
  · next key cached _ _ =>
    have h' : InvFrom lo (if cached then flushLine s c key else s) := .when (fun h => inv_flushLine h) h
    exact .ite (.other (inv_sectionFault h')) (.done h')

theorem inv_fireMem {c i j p k a} (h : InvFrom lo s) : CellInv lo (fireMem s c i j p k a) := by
  unfold fireMem
  split
  · exact .done h
  · exact .done h
  · exact .done h
  · exact .done h
  · exact inv_memRead h
  · exact .ite (inv_memUpdate h) (inv_memWrite h)
  · exact inv_memPush h
  · exact inv_memPop h
  · exact inv_endpointTake h
  · exact inv_endpointPut h
  · exact .other h

/-! ### Servers and images -/

theorem inv_serveCall {fid d a n} (h : InvFrom lo s) : NextInv lo (serveCall s fid d a n) := by
  unfold serveCall
  extract_lets c cl nargs args req
  split
  · exact .ite (inv_trap h) (.ite (inv_forfeit h) (inv_afterStores h fun _ h => inv_parkOn (inv_putImage (.same h))))
  · exact .ite (inv_forfeit h) (inv_afterStores h fun _ h => inv_parkOn (inv_setCluster (.same h)))

theorem inv_execSevict {a} (h : InvFrom lo s) : NextInv lo (execSevict a s) := by
  unfold execSevict
  dsimp only
  split
  · exact .next (inv_skip (inv_putImage h))
  · exact .next (.same h)

theorem inv_reportImage {c o fid} (h : InvFrom lo s) : InvFrom lo (reportImage s c o fid) := by
  unfold reportImage
  dsimp only
  split
  · split
    · exact inv_reportWalks (inv_reportWalk h)
    · exact inv_reportWalk (inv_reportWalk h)
  · exact inv_reportWalk h

theorem inv_failCalls {c fid code} (h : InvFrom lo s) : InvFrom lo (failCalls s c fid code) :=
  .foldl (fun _ _ h => inv_poisonCall h) (inv_setServers h)
theorem inv_dropLoad {c fid} (h : InvFrom lo s) : InvFrom lo (dropLoad s c fid) := .same h

theorem inv_failLoad {c l code} (h : InvFrom lo s) : InvFrom lo (failLoad s c l code) := by
  unfold failLoad
  dsimp only
  split
  · exact inv_moveSeq (inv_unhold (inv_failCalls (.same h)))
  · exact inv_failCalls (.same h)

theorem inv_execImageLoad {cluster fid} (h : InvFrom lo s) : NextInv lo (execImageLoad cluster fid s) := by
  unfold execImageLoad
  split
  · exact .next h
  · dsimp only
    split
    · exact .next h
    · split
      · split
        · exact .next (inv_holdBack h)
        · exact .next (inv_failLoad (inv_reportImage h))
      · split
        · split
          · exact .next (.same h)
          · split
            · exact .next (inv_holdBack h)
            · exact .ite (.next (inv_setCluster (inv_dropLoad (inv_moveSeq (inv_unhold h))))) (.next (inv_dropLoad (inv_moveSeq (inv_unhold h))))
        · exact .next (.same h)

theorem inv_enterCall {c m} (h : InvFrom lo s) : InvFrom lo (enterCall s c m) := by
  unfold enterCall
  split
  · exact h
  · exact .ite (inv_poisonCall (inv_setServers h)) (.ite h (inv_putImage (.same h)))

theorem inv_enterCalls {c} (h : InvFrom lo s) : InvFrom lo (enterCalls s c) := .foldl (fun _ _ h => inv_enterCall h) h

theorem inv_install {c r l n i} (h : InvFrom lo s) : InvFrom lo (install s c r l n i) := by
  unfold install
  extract_lets s₁ s₂ cl
  have h₁ : InvFrom lo s₁ := .foldl (fun _ _ h => inv_writeCells h) h
  have h₂ : InvFrom lo s₂ := .same h₁
  exact inv_enterCalls (inv_setCluster h₂)

theorem inv_admitSection {seq} (h : InvFrom lo s) : InvFrom lo (admitSection s seq) := by
  unfold admitSection
  refine inv_moveSeq (inv_dropPlacement (inv_unhold ?_))
  split
  · next hr => exact h.updateRecord hr
  · exact h

theorem inv_replaced {c l} (h : InvFrom lo s) : SomeInv lo (replaced s c l) := by
  unfold replaced
  split
  · exact .some h
  · exact .ite .none (.some (inv_dropImage h))

theorem inv_execImageLoadComplete {cluster fid} (h : InvFrom lo s) : NextInv lo (execImageLoadComplete cluster fid s) := by
  unfold execImageLoadComplete
  split
  · exact .next h
  · extract_lets r
    split
    · exact .next h
    · next s₁ hs =>
      have h₁ : InvFrom lo s₁ := inv_replaced h _ hs
      refine .ite (.ite (.next h) (.next (inv_postRequest h))) ?_
      extract_lets ps
      split
      · extract_lets i
        split
        · exact .next (inv_install h₁)
        · refine .ite (.next h) (.ite (.next (inv_holdBack h)) ?_)
          split
          · exact .next (inv_admitSection (inv_install (inv_enlist h₁)))
          · refine .next (inv_stopRecord (inv_admitSection (inv_install ?_)))
            split
            · exact inv_reportWalks h₁
            · exact h₁
      · exact .ite (.next (inv_setCluster h)) (.next h)

theorem inv_putContents {c i p cs} (h : InvFrom lo s) : InvFrom lo (putContents s c i p cs) := .foldl (fun _ _ h => inv_putRegion h) h

theorem inv_execCompaction {cluster fid} (h : InvFrom lo s) : NextInv lo (execCompaction cluster fid s) := by
  unfold execCompaction
  split
  · split
    · exact .next h
    · dsimp only
      split
      · exact .next h
      · split
        · exact .next h
        · exact .next (inv_setCluster (inv_putContents (inv_leaveCells (inv_putImage h))))
  · exact .next h

theorem inv_execImageEvict {cluster fid} (h : InvFrom lo s) : NextInv lo (execImageEvict cluster fid s) := by
  unfold execImageEvict
  split
  · exact .next h
  · split
    · exact .next h
    · split
      · exact .ite (.next (inv_dropImage h)) (.next h)
      · exact .next h

theorem inv_sectionRuns {i} (h : InvFrom lo s) : InvFrom lo (sectionRuns s i) := by
  unfold sectionRuns
  split
  · exact inv_recordRuns h
  · exact h

theorem inv_fireOnce {c i j p k a} (h : InvFrom lo s) : CellInv lo (fireOnce s c i j p k a) := .ite (inv_fireMem h) (.done h)

theorem inv_takeZero {c i j p l x} (h : InvFrom lo s) (hx : takeZero s c i j p l = some x) : CellInv lo x := by
  unfold takeZero at hx
  split at hx
  · simp at hx
  · split at hx
    · exact Option.some.inj hx ▸ .done h
    · split at hx
      · split at hx
        · split at hx
          · next hf => exact Option.some.inj hx ▸ .done (inv_sectionRuns ((inv_fireOnce h).of_done hf))
          · exact Option.some.inj hx ▸ inv_fireOnce h
        · simp at hx
      · simp at hx

theorem inv_settleLinks {n c j} : ∀ {s i}, InvFrom lo s → CellInv lo (settleLinks n s c i j) := by
  induction n with
  | zero => exact fun h => .done h
  | succ n ih =>
    intro s i h
    rw [settleLinks]
    split
    · exact .done h
    · split
      · exact .done h
      · next hx =>
        obtain ⟨l, -, hl⟩ := List.exists_of_findSome?_eq_some hx
        exact ih ((inv_takeZero h hl).of_done rfl)
      · next hx =>
        obtain ⟨l, -, hl⟩ := List.exists_of_findSome?_eq_some hx
        have h' := (inv_takeZero h hl).of_other rfl
        exact .ite (.done h') (.other h')

theorem inv_settleCopy {c i j} (h : InvFrom lo s) : CellInv lo (settleCopy s c i j) := inv_settleLinks h

theorem inv_settleAll {c i} (h : InvFrom lo s) : InvFrom lo (settleAll s c i).1 := by
  refine List.foldlRecOn (motive := fun r : State × Image => InvFrom lo r.1) _ _ h fun r hr j _ => ?_
  split
  · next hx => exact (inv_settleCopy hr).of_done hx
  · next hx => exact (inv_settleCopy hr).of_other hx

theorem inv_deliverArgs {n c} : ∀ {s i}, InvFrom lo s → CellInv lo (deliverArgs n s c i) := by
  induction n with
  | zero => exact fun h => .done h
  | succ n ih =>
    intro s i h
    rw [deliverArgs]
    split
    · refine .ite ?_ (.done h)
      split
      · next hx => exact ih ((inv_settleCopy h).of_done hx)
      · exact inv_settleCopy h
    · exact .done h

theorem inv_yieldCell {c fid j cell} (h : InvFrom lo s) : InvFrom lo (yieldCell s c fid j cell) := by
  unfold yieldCell
  split
  · exact h
  · split
    · exact h
    · split
      · exact inv_putImage h
      · exact h

theorem inv_execCellFire {cluster server cell} (h : InvFrom lo s) : NextInv lo (execCellFire cluster server cell s) := by
  unfold execCellFire
  split
  · exact .next h
  · refine .ite (.next h) (.ite ?_ ?_)
    · split
      · refine .next ?_
        split
        · exact inv_holdBack h
        · exact h
      · exact .next h
    · split
      · next hx => exact .next ((inv_deliverArgs h).of_other hx)
      · next s₁ i₁ hx =>
        extract_lets i s₂
        have h₂ : InvFrom lo s₂ := .unless (fun h => inv_putImage h) ((inv_deliverArgs h).of_done hx)
        split
        · exact .next h₂
        · split
          · exact .next h₂
          · exact .next (inv_putImage h₂)
          · split
            · next hx => exact .next (inv_yieldCell ((inv_fireOnce h₂).of_other hx))
            · next hx =>
              have h₃ := (inv_fireOnce h₂).of_done hx
              split
              · next hx => exact .next (inv_sectionRuns (inv_putImage ((inv_settleCopy h₃).of_done hx)))
              · next hx => exact .next ((inv_settleCopy h₃).of_other hx)

theorem inv_execServeAdmit {cluster server} (h : InvFrom lo s) : NextInv lo (execServeAdmit cluster server s) := by
  unfold execServeAdmit
  split
  · exact .next h
  · refine .ite ?_ (.next h)
    extract_lets p i'
    have h' : InvFrom lo { s with nextMsg := s.nextMsg + 1 } := .same h
    split
    next hp => exact .next (inv_enterCalls (inv_setCluster (inv_putImage ((inv_settleAll h').of_pair hp))))

theorem inv_commitStore {tag h'} (h : InvFrom lo s) : InvFrom lo (commitStore s tag h') :=
  inv_setThread (.iteFrom (fun h => .same h) (fun h => inv_homeWrite h) (inv_claimLine h))
theorem inv_countMismatch {c v} (h : InvFrom lo s) : InvFrom lo (countMismatch s c v) := .ite (.same h) (.same h)
theorem inv_noteMismatch {c i} (h : InvFrom lo s) : InvFrom lo (noteMismatch s c i) := .foldl (fun _ _ h => inv_countMismatch h) (inv_putImage h)
theorem inv_returnCall {p rs sq} (h : InvFrom lo s) : InvFrom lo (returnCall s p rs sq) :=
  .ite (inv_setThread (.foldl (fun _ _ h => inv_commitStore h) h)) h

theorem inv_execServeExit {cluster fid} (h : InvFrom lo s) : NextInv lo (execServeExit cluster fid s) := by
  unfold execServeExit
  split
  · exact .next h
  · split
    · exact .next (.ite (inv_putImage h) h)
    · dsimp only
      split
      · exact .next h
      · split
        · exact .next h
        · split
          · exact .next (inv_poisonCall (.unless (fun h => inv_noteMismatch h) (inv_putImage h)))
          · exact .ite (.next h) (.next (inv_returnCall (inv_putImage h)))

theorem inv_execServeTimeout {cluster fid} (h : InvFrom lo s) : NextInv lo (execServeTimeout cluster fid s) := by
  unfold execServeTimeout
  split
  · exact .next h
  · exact .ite (.next (.foldl (fun _ _ h => inv_poisonCall h) (inv_setCluster (inv_dropImage h)))) (.next h)

theorem inv_reloadTwin {c n i r} (h : InvFrom lo s) : SomeInv lo (reloadTwin s c n i r) := by
  unfold reloadTwin
  extract_lets here off s₀ ps
  split
  · exact .none
  · exact .some (inv_enterCalls (inv_setCluster (.foldl (fun _ _ h => inv_writeCells h) (inv_dropImage h))))

theorem inv_execTwinReload {cluster fid} (h : InvFrom lo s) : NextInv lo (execTwinReload cluster fid s) := by
  unfold execTwinReload
  split
  · exact .next h
  · refine .ite (.next h) (.ite (.ite (.next h) (.next (inv_postRequest h))) ?_)
    split
    · exact .next (.foldl (fun _ _ h => inv_poisonCall h) (inv_dropImage (inv_reportImage h)))
    · exact .next (SomeInv.getD (inv_reloadTwin h) h)

theorem inv_execFreezeWave {cluster fid} (h : InvFrom lo s) : NextInv lo (execFreezeWave cluster fid s) := by
  unfold execFreezeWave
  split
  · exact .next h
  · split
    · refine .ite (.next (inv_forgetWaiters (inv_dropImage ?_))) (.next h)
      dsimp only [InvFrom]
      exact inv_writeArea h
    · exact .next h

theorem inv_execThaw {cluster fid} (h : InvFrom lo s) : NextInv lo (execThaw cluster fid s) := by
  unfold execThaw
  split
  · exact .next h
  · split
    · split
      · exact .next (.same h)
      · dsimp only
        split
        · exact .ite (.next (inv_putContents (.same h))) (.next h)
        · exact .next h
    · exact .next h

theorem inv_execSectionComplete {cluster fid} (h : InvFrom lo s) : NextInv lo (execSectionComplete cluster fid s) := by
  unfold execSectionComplete
  split
  · exact .next h
  · split
    · exact .ite (.next (inv_holdBack h)) (.ite (.next (inv_moveSeq (inv_joinEnd (inv_forgetWaiters (inv_putImage (inv_unhold h)))))) (.next h))
    · exact .next h

theorem inv_execEndpointPoll {cluster server cell} (h : InvFrom lo s) : NextInv lo (execEndpointPoll cluster server cell s) := by
  unfold execEndpointPoll
  split
  · exact .next h
  · refine .ite (.next h) ?_
    split
    · exact .next h
    · split
      · next hx => exact .next (inv_putImage ((inv_endpointPoll h).of_done hx))
      · next hx => exact .next ((inv_endpointPoll h).of_other hx)

/-! ### Walks, faults and replays -/

theorem inv_cachePointer {die o level index i p} (h : InvFrom lo s) : InvFrom lo (cachePointer s die o level index i p) := by
  unfold cachePointer
  split
  · exact h
  · exact .ite (.same h) (.same h)

theorem inv_wakeFault {t} (h : InvFrom lo s) : InvFrom lo (wakeFault s t) := .ite (.same h) h

theorem inv_releaseWaiter {w} (h : InvFrom lo s) : InvFrom lo (releaseWaiter s w) := by
  unfold releaseWaiter
  split
  · exact inv_wakeFault h
  · exact inv_wakeFault h
  · split
    · exact .same h
    · exact h
  · split
    · exact .same h
    · exact h
  · split
    · exact .ite (.same h) h
    · exact h
  · split
    · exact .same h
    · exact h
  · split
    · exact .ite (inv_putImage h) h
    · exact h
  · exact h
  · exact h
  · exact h

theorem inv_spillWaiter {c va} (h : InvFrom lo s) : InvFrom lo (spillWaiter s c va) := by
  unfold spillWaiter
  split
  · exact inv_spillFailed h
  · exact h

theorem inv_answerCell {c fid pkt va code} (h : InvFrom lo s) : InvFrom lo (answerCell s c fid pkt va code) := by
  unfold answerCell
  split
  · exact inv_putImage h
  · exact h

theorem inv_regionFault {c fid} (h : InvFrom lo s) : InvFrom lo (regionFault s c fid) := by
  unfold regionFault
  split
  · exact inv_sectionFault h
  · exact h

theorem inv_trapParked {t cause va} (h : InvFrom lo s) : InvFrom lo (trapParked s t cause va) := .ite (inv_takeTrap (.same h)) h

theorem inv_voyageFails {c cause va} (h : InvFrom lo s) : InvFrom lo (voyageFails s c cause va) := by
  unfold voyageFails
  split
  · exact .same h
  · exact h

theorem inv_faultWaiter {cause w} (h : InvFrom lo s) : InvFrom lo (faultWaiter cause s w) := by
  unfold faultWaiter
  split
  · exact inv_trapParked h
  · exact inv_trapParked h
  · split
    · exact inv_stopCommand h
    · exact h
  · split
    · exact inv_stopCommand h
    · exact h
  · exact inv_regionFault h
  · exact inv_answerCell h
  · exact inv_voyageFails h
  · exact inv_voyageFails h
  · exact inv_stopRecord h
  · exact .ite h (inv_spillWaiter h)

theorem inv_pageFaultWaiter {w} (h : InvFrom lo s) : InvFrom lo (pageFaultWaiter s w) := by
  unfold pageFaultWaiter
  split
  · exact inv_answerCell h
  · exact inv_spillWaiter h
  · split
    · exact inv_putImage h
    · exact h
  · exact h

theorem inv_writeRecord {die f level} (h : InvFrom lo s) : InvFrom lo (writeRecord s die f level) := .ite (.same h) (inv_setDie (inv_deviceWrite h))
theorem inv_reissue {die w} (h : InvFrom lo s) : InvFrom lo (reissue s die w) := .foldl (fun _ _ h => inv_startWalk h) h
theorem inv_drainMisses {die freed} (h : InvFrom lo s) : InvFrom lo (drainMisses s die freed) := .foldl (fun _ _ h => inv_reissue h) (.same h)

theorem inv_replayEdge {w} (h : InvFrom lo s) : InvFrom lo (replayEdge s w) := by
  unfold replayEdge
  extract_lets join
  split
  · exact inv_setThread h
  · exact inv_setThread h
  · split
    · exact inv_setHead h
    · exact h
  · split
    · exact inv_setHead h
    · exact h
  · split
    · exact inv_setVoyage h
    · exact h
  · split
    · exact inv_setVoyage h
    · exact h
  · split
    · exact inv_putImage h
    · exact h
  · split
    · next hr => exact h.updateRecord hr
    · exact h
  · split
    · split
      · exact inv_putImage (.when (fun h => inv_setThread h) h)
      · exact h
    · exact h
  · exact inv_setCluster h

theorem inv_replayDie {o die} (h : InvFrom lo s) : InvFrom lo (replayDie o s die) :=
  inv_drainMisses (.foldl (fun _ _ h => inv_startWalk (inv_replayEdge h)) (.same h))
theorem inv_startReplay {o clk} (h : InvFrom lo s) : InvFrom lo (startReplay s o clk) := .foldl (fun _ _ h => inv_replayDie h) (.same h)

theorem inv_endReplays {fuel} : ∀ {s}, InvFrom lo s → InvFrom lo (endReplays fuel s) := by
  induction fuel with
  | zero => exact id
  | succ fuel ih =>
    intro s h
    rw [endReplays]
    refine .ite h ?_
    split
    · exact .same h
    · exact ih (inv_startReplay (.same h))

theorem inv_writeReplay {owner} (h : InvFrom lo s) : InvFrom lo (writeReplay s owner) :=
  .ite (.ite (.same h) (.ite (.same h) h)) (inv_endReplays (inv_startReplay h))
theorem inv_walkLeaf {die w pte big} (h : InvFrom lo s) : InvFrom lo (walkLeaf s die w pte big) :=
  .foldl (fun _ _ h => inv_releaseWaiter h) (.foldl (fun _ _ h => by exact .same h) (inv_addL2 h))

theorem inv_walkFault {die w level} (h : InvFrom lo s) : InvFrom lo (walkFault s die w level) := by
  unfold walkFault
  dsimp only
  split
  · exact .foldl (fun _ _ h => inv_pageFaultWaiter h) h
  · exact .iteFrom (fun h => inv_writeRecord (.same h)) (fun h => .same h) (.foldl (fun _ _ h => inv_pageFaultWaiter h) h)

theorem inv_execWalkComplete {die owner page} (h : InvFrom lo s) : NextInv lo (execWalkComplete die owner page s) := by
  unfold execWalkComplete
  dsimp only
  split
  · exact .next h
  · refine .next ?_
    refine inv_endReplays ?_
    refine inv_drainMisses ?_
    split
    · exact inv_walkLeaf (inv_cachePointer (inv_cachePointer (.same h)))
    · exact inv_walkFault (inv_cachePointer (inv_cachePointer (.same h)))
    · exact .foldl (fun _ _ h => inv_faultWaiter h) (inv_cachePointer (inv_cachePointer (.same h)))
    · exact .foldl (fun _ _ h => inv_faultWaiter h) (inv_reportEntry (inv_cachePointer (inv_cachePointer (.same h))))

theorem inv_declineDie {o page die} (h : InvFrom lo s) : InvFrom lo (declineDie o page s die) := by
  unfold declineDie
  dsimp only
  split
  · exact h
  · exact inv_drainMisses (.foldl (fun _ _ h => inv_faultWaiter h) (.same h))

theorem inv_writeDecline {owner page} (h : InvFrom lo s) : InvFrom lo (writeDecline s owner page) :=
  inv_endReplays (.foldl (fun _ _ h => inv_declineDie h) (.same h))
theorem inv_startInvalidation {v hit pointer held} (h : InvFrom lo s) : InvFrom lo (startInvalidation s v hit pointer held) := .ite h (.same h)
theorem inv_invPage {owner page} (h : InvFrom lo s) : InvFrom lo (invPage s owner page) := inv_startInvalidation h
theorem inv_invOwner {owner page} (h : InvFrom lo s) : InvFrom lo (invOwner s owner page) := inv_startInvalidation h
theorem inv_invAll {owner page} (h : InvFrom lo s) : InvFrom lo (invAll s owner page) := inv_startInvalidation h
theorem inv_execInvalidationDone (h : InvFrom lo s) : NextInv lo (execInvalidationDone s) := .ite (.next (.same h)) (.next h)

/-! ### The helm -/

theorem inv_writeQcfg {queue v} (h : InvFrom lo s) : InvFrom lo (writeQcfg s queue v) := .ite (.same h) (.same h)
theorem inv_acceptChild {g e} (h : InvFrom lo s) : InvFrom lo (acceptChild g s e) :=
  (inv_moveRecord h.number (Nat.lt_succ_self _)).mono (h.given.trans (Nat.le_succ _))
theorem inv_acceptArray {g l} (h : InvFrom lo s) (hg : g.seqNo < lo) : InvFrom lo (acceptArray s g l) :=
  .foldl (fun _ _ h => inv_acceptChild h) (h.setRecord hg)

theorem inv_helmRead {queue kind} (h : InvFrom lo s) : NextInv lo (helmRead s queue kind) := by
  unfold helmRead
  extract_lets q seq clk _ s₁
  split
  · exact .next h
  · refine .ite (.next h) (.ite (.next h) (NextInv.mono (hi := seq + 1) ?_ (h.given.trans (Nat.le_succ _))))
    extract_lets s₂ r s₃
    have h₂ : InvFrom (seq + 1) s₂ := h.number
    have hr : r.seqNo < seq + 1 := Nat.lt_succ_self _
    split
    · split
      · split
        · exact .next (inv_moveRecord (inv_reportWalks h₂) hr)
        · exact .next (inv_settle (inv_acceptArray (inv_moveRecord h₂ hr) hr))
      · exact .next (inv_settle (inv_moveRecord h₂ hr))
    · exact .next (inv_moveRecord h₂ hr)

theorem inv_execNestedGraphStart {seq} (h : InvFrom lo s) : NextInv lo (execNestedGraphStart seq s) := by
  unfold execNestedGraphStart
  split
  · exact .next h
  · next hr =>
    refine h.nextFound hr fun h hr => .ite ?_ (.next h)
    split
    · exact .next (inv_settle (inv_moveRecord (inv_reportWalks h) hr))
    · exact .next (inv_settle (inv_acceptArray h hr))

theorem inv_snapRun {fuel} : ∀ {s}, InvFrom lo s → InvFrom lo (snapRun fuel s) := by
  induction fuel with
  | zero => exact id
  | succ fuel ih =>
    intro s h
    rw [snapRun]
    refine .ite h ?_
    split
    · extract_lets s₁
      have h₁ : InvFrom lo s₁ := inv_logWrite h
      dsimp only [InvFrom]
      exact h₁
    · extract_lets _ s₁
      have h₁ : InvFrom lo s₁ := .same h
      split
      · exact ih (.unless (fun h => inv_logWrite h) h₁)
      · exact ih h₁

theorem inv_startSnap (h : InvFrom lo s) : InvFrom lo (startSnap s) := .ite h (inv_snapRun (.same h))
theorem inv_writeLogtail {v} (h : InvFrom lo s) : InvFrom lo (writeLogtail s v) := .ite (inv_settle (inv_snapRun (inv_logDrain (.same h)))) h

theorem inv_abortWork {seq reason} (h : InvFrom lo s) : InvFrom lo (abortWork s seq reason) :=
  .foldl (fun _ _ h => by
    split
    · exact .ite (inv_stopRecord h) h
    · exact h) h

theorem inv_writeAbort {v} (h : InvFrom lo s) : InvFrom lo (writeAbort s v) :=
  .ite (.foldl (fun _ _ h => inv_abortWork h) (.same h)) (inv_abortWork (.same h))
theorem inv_forgetThread {t} (h : InvFrom lo s) : InvFrom lo (forgetThread s t) := inv_freeThread (.same h)
theorem inv_dropPending {c o} (h : InvFrom lo s) : InvFrom lo (dropPending s c o) := .ite (inv_pruneSpills (.same h)) h
theorem inv_releaseCrew {id w} (h : InvFrom lo s) : InvFrom lo (releaseCrew s id w) :=
  inv_dropPending (.same (InvFrom.when (fun h => .foldl (fun _ _ h => by exact .same h) h) (.foldl (fun _ _ h => inv_forgetThread h) (.same h))))
theorem inv_joinCrew {seq e} (h : InvFrom lo s) : InvFrom lo (joinCrew s seq e) :=
  .foldl (fun _ _ h => by exact .foldl (fun _ _ h => inv_joinEnd h) h) (.foldl (fun _ _ h => inv_joinEnd h) h)

theorem inv_execAbortedEntry {seq} (h : InvFrom lo s) : NextInv lo (execAbortedEntry seq s) := by
  unfold execAbortedEntry
  split
  · exact .next h
  · split
    · exact .next h
    · exact .ite (.next (inv_stopRecord h)) (.ite (.next (inv_abortWork h)) (.ite (.next h) (.ite (.next (inv_holdBack h)) (.next (inv_moveSeq
        (inv_unhold (inv_dropRequests (.foldl (fun _ _ h => inv_releaseCrew (inv_joinCrew h)) h))))))))

/-! ### Placing crews and sites -/

theorem inv_putRecord {r} (h : InvFrom lo s) (hr : r.seqNo < lo) : InvFrom lo (putRecord s r) := h.setRecord hr

theorem inv_readHint {r t w} (h : InvFrom lo s) (hr : r.seqNo < lo) (hx : readHint s r = (t, w)) : InvFrom lo t ∧ w.seqNo < lo := by
  unfold readHint at hx
  split at hx
  · obtain ⟨rfl, rfl⟩ := Prod.mk.inj hx
    exact ⟨h, hr⟩
  · obtain ⟨rfl, rfl⟩ := Prod.mk.inj hx
    exact ⟨inv_putRecord (.when (fun h => inv_reportWalk h) (.when (fun h => .same h) h)) hr, hr⟩

theorem inv_admitCrew {r c} (h : InvFrom lo s) : InvFrom lo (admitCrew s r c) :=
  inv_setCluster (.same (InvFrom.foldl (fun _ _ h => by exact .same h) (.foldl (fun _ _ h => by exact .same h) h)))
theorem inv_shrinkReserve {r} (h : InvFrom lo s) : InvFrom lo (shrinkReserve s r) := .same h

theorem inv_admitCrews {cs} : ∀ {s r}, InvFrom lo s → r.seqNo < lo → InvFrom lo (admitCrews s r cs) := by
  induction cs with
  | nil => exact fun h _ => h
  | cons c cs ih =>
    intro s r h hr
    rw [admitCrews]
    exact .ite (ih (inv_moveRecord (inv_shrinkReserve (inv_putRecord (inv_admitCrew h) hr)) hr) hr)
      (ih (inv_shrinkReserve (inv_putRecord (inv_admitCrew h) hr)) hr)

theorem inv_startScrubs {o cs} (h : InvFrom lo s) : InvFrom lo (startScrubs s o cs) := .foldl (fun _ _ h => by exact .ite (.same h) h) h
theorem inv_settleCrews {r cs} (h : InvFrom lo s) (hr : r.seqNo < lo) : InvFrom lo (settleCrews s r cs) :=
  .ite (inv_putRecord (inv_startScrubs h) hr) (inv_settle (inv_admitCrews h hr))
theorem inv_refuse {r} (h : InvFrom lo s) (hr : r.seqNo < lo) : InvFrom lo (refuse s r) := .ite (inv_putRecord h hr) (inv_putRecord h hr)
theorem inv_crewRequest {r crew} (h : InvFrom lo s) : InvFrom lo (crewRequest s r crew) := inv_postRequest h
theorem inv_askHost {r} (h : InvFrom lo s) (hr : r.seqNo < lo) : InvFrom lo (askHost s r) :=
  .ite h (.foldl (fun _ _ h => inv_crewRequest h) (inv_putRecord h hr))
theorem inv_useNamed {r} (h : InvFrom lo s) (hr : r.seqNo < lo) : InvFrom lo (useNamed s r) :=
  .ite h (.ite h (.ite (inv_settleCrews h hr) (inv_putRecord h hr)))

theorem inv_hostUnit {r candidate} (h : InvFrom lo s) (hr : r.seqNo < lo) : InvFrom lo (hostUnit s r candidate) := by
  unfold hostUnit
  extract_lets s₁ r₁ s₂
  have h₁ : InvFrom lo s₁ := .ite h (inv_refuse h hr)
  have hr₁ : r₁.seqNo < lo := by
    unfold r₁
    split
    · exact hr
    · exact hr
  exact .ite (inv_askHost h₁ hr₁) (.ite (inv_askHost h₁ hr₁) (inv_useNamed h₁ hr₁))

theorem inv_admitChosen {r} (h : InvFrom lo s) (hr : r.seqNo < lo) : InvFrom lo (admitChosen s r) :=
  .ite (.ite (inv_settle (inv_admitCrews h hr)) (inv_startScrubs h)) (.ite h (inv_putRecord h hr))

theorem inv_admitUnits {seq kind place} (h : InvFrom lo s) : NextInv lo (admitUnits s seq kind place) := by
  unfold admitUnits
  split
  · exact .next h
  · next hr =>
    refine h.nextFound hr fun h hr => .ite (.next h) ?_
    split
    next hx =>
    obtain ⟨h₁, hr₁⟩ := inv_readHint h hr hx
    refine .ite (.next (inv_admitChosen h₁ hr₁)) (.ite (.next h₁) (.ite (.next (inv_hostUnit h₁ hr₁)) ?_))
    split
    · exact .next (inv_settleCrews h₁ hr₁)
    · exact .next (inv_refuse h₁ hr₁)

theorem inv_execCrewAdmit {seq} (h : InvFrom lo s) : NextInv lo (execCrewAdmit seq s) := inv_admitUnits h
theorem inv_execGangAdmit {seq} (h : InvFrom lo s) : NextInv lo (execGangAdmit seq s) := inv_admitUnits h
theorem inv_chooseSite {r c} (h : InvFrom lo s) (hr : r.seqNo < lo) : InvFrom lo (chooseSite s r c) :=
  .ite (inv_putRecord (inv_startScrubs h) hr) (inv_putRecord h hr)

/-- What a site's state, and the record in hand with it, keep. -/
def SiteInv (lo : Nat) : Sum State (State × RecordState × Nat) → Prop
  | .inl t => InvFrom lo t
  | .inr x => InvFrom lo x.1 ∧ x.2.1.seqNo < lo

theorem inv_siteOf {seq kind} (h : InvFrom lo s) : ∃ hi, lo ≤ hi ∧ SiteInv hi (siteOf s seq kind) := by
  unfold siteOf
  split
  · exact ⟨lo, le_rfl, h⟩
  · next hr =>
    refine ⟨s.helm.nextSeq, h.given, ?_⟩
    obtain ⟨hnum, hlt⟩ := h.found hr
    have hr := hnum ▸ hlt
    have h := h.all
    extract_lets reading
    split
    · exact h
    · split
      next hx =>
      obtain ⟨h₁, hr₁⟩ := inv_readHint h hr hx
      split
      · split
        · exact h₁
        · split
          · exact ⟨h₁, hr₁⟩
          · exact inv_startScrubs h₁
      · split
        · exact h₁
        · split
          · exact inv_refuse h₁ hr₁
          · extract_lets s₂ r₂
            have h₂ : InvFrom s.helm.nextSeq s₂ := inv_chooseSite h₁ hr₁
            split
            · exact ⟨h₂, hr₁⟩
            · exact h₂

theorem inv_admitSite {r c t w} (h : InvFrom lo s) (hr : r.seqNo < lo) (hx : admitSite s r c = (t, w)) : InvFrom lo t ∧ w.seqNo < lo := by
  unfold admitSite at hx
  split at hx
  · obtain ⟨rfl, rfl⟩ := Prod.mk.inj hx
    have h₁ := inv_moveRecord (r := { r with refusedAt := none }) (phase := .admitted) (reason := 0) (index := r.index)
      (inv_setCluster (c := c) (v := { getCluster s c with lastOwner := some r.owner }) h) hr
    exact ⟨inv_shrinkReserve (.same h₁), hr⟩
  · obtain ⟨rfl, rfl⟩ := Prod.mk.inj hx
    exact ⟨inv_setCluster h, hr⟩

theorem inv_execStreamAdmit {seq} (h : InvFrom lo s) : NextInv lo (execStreamAdmit seq s) := by
  obtain ⟨hi, hle, hs⟩ := inv_siteOf (seq := seq) (kind := 3) h
  refine NextInv.mono ?_ hle
  unfold execStreamAdmit
  split
  · next hx =>
    rw [hx] at hs
    exact .next hs
  · next hx =>
    rw [hx] at hs
    obtain ⟨h₁, hr₁⟩ := hs
    exact .ite (.next h₁) (.next (inv_setCluster (inv_putRecord h₁ hr₁)))

theorem inv_failSite {r reason} (h : InvFrom lo s) (hr : r.seqNo < lo) : InvFrom lo (failSite s r reason) := inv_moveSeq (inv_putRecord h hr)

theorem inv_execVoyageAdmit {seq} (h : InvFrom lo s) : NextInv lo (execVoyageAdmit seq s) := by
  obtain ⟨hi, hle, hs⟩ := inv_siteOf (seq := seq) (kind := 2) h
  refine NextInv.mono ?_ hle
  unfold execVoyageAdmit
  split
  · next hx =>
    rw [hx] at hs
    exact .next hs
  · next hx =>
    rw [hx] at hs
    obtain ⟨h₁, hr₁⟩ := hs
    refine .ite (.next h₁) ?_
    split
    next hx =>
    obtain ⟨h₂, hr₂⟩ := inv_admitSite h₁ hr₁ hx
    extract_lets va clk s₃
    split
    · exact .next h₂
    · exact .ite (.next h₂) (.next (inv_startWalk h₂))
    · exact .ite (.next (inv_failSite (inv_unhold h₂) hr₂)) (.next (inv_holdBack h₂))
    · refine .ite (.next (inv_holdBack h₂)) ?_
      have h₃ : InvFrom hi s₃ := inv_unhold h₂
      refine .ite (.next (inv_failSite h₃ hr₂)) ?_
      extract_lets
      split
      · exact .next (inv_settle (inv_beginVoyage (inv_enlist (inv_putRecord h₃ hr₂))))
      · extract_lets s₄
        have h₄ : InvFrom hi s₄ := inv_ringWrite8 h₃
        exact .next (inv_failSite (.same h₄) hr₂)

theorem inv_scrubCluster {c} (h : InvFrom lo s) : InvFrom lo (scrubCluster s c) := h.withMem fun hm => filter_wf _ _ hm
theorem inv_execClusterScrub {cluster} (h : InvFrom lo s) : NextInv lo (execClusterScrub cluster s) := .ite (.next (inv_scrubCluster h)) (.next h)

theorem inv_execReservation {seq} (h : InvFrom lo s) : NextInv lo (execReservation seq s) := by
  unfold execReservation
  split
  · exact .next h
  · exact .ite (.next (.same h)) (.next h)

theorem inv_execCrewRetire {crew} (h : InvFrom lo s) : NextInv lo (execCrewRetire crew s) := by
  unfold execCrewRetire
  split
  · exact .next h
  · split
    · exact .next (inv_holdBack h)
    · split
      · dsimp only
        split
        · exact .next (inv_releaseCrew (.foldl (fun _ _ h => by exact .foldl (fun _ _ h => inv_joinEnd h) h) (inv_unhold h)))
        · exact .ite (.next (inv_moveSeq (inv_releaseCrew (.foldl (fun _ _ h => by exact .foldl (fun _ _ h => inv_joinEnd h) h)
            (inv_unhold h))))) (.next (inv_releaseCrew (.foldl (fun _ _ h => by exact .foldl (fun _ _ h => inv_joinEnd h) h) (inv_unhold h))))
      · exact .next h

/-! ### Pre-emption and saved crews -/

theorem inv_stopForSave {id} (h : InvFrom lo s) : InvFrom lo (stopForSave s id) := by
  unfold stopForSave
  split
  · exact h
  · exact inv_askStop (.same h)

theorem inv_closeSections {c ids} (h : InvFrom lo s) : InvFrom lo (closeSections s c ids) := .same h

theorem inv_stopOtherVoyage {o c} (h : InvFrom lo s) : InvFrom lo (stopOtherVoyage s o c) := by
  unfold stopOtherVoyage
  split
  · exact .ite (inv_askStop h) h
  · exact h

theorem inv_execPreemption {seq} (h : InvFrom lo s) : NextInv lo (execPreemption seq s) := by
  unfold execPreemption
  split
  · exact .next h
  · next hr =>
    refine h.nextFound hr fun h hr => ?_
    extract_lets
    split
    · exact .next h
    · split
      · exact .next h
      · refine .ite (.next ?_) (.next h)
        dsimp only [InvFrom]
        exact InvFrom.unless (fun h => inv_putRecord h hr)
          (.foldl (fun _ _ h => inv_stopOtherVoyage (inv_closeSections h)) (.foldl (fun _ _ h => inv_stopForSave h) h))

theorem inv_execSaveComplete {crew} (h : InvFrom lo s) : NextInv lo (execSaveComplete crew s) := by
  unfold execSaveComplete
  split
  · exact .next h
  · exact .ite (.next h) (.next (inv_setCrew (.same (InvFrom.foldl (fun _ _ h => by exact .same h) (inv_forgetWaiters (inv_dropWaiters
      (inv_writeArea (inv_flushCluster (.foldl (fun _ _ h => inv_performCore h) h)))))))))

theorem inv_restoreCore {id clk v} (h : InvFrom lo s) : InvFrom lo (restoreCore id clk s v) :=
  .foldl (fun _ _ h => by exact .same h) (inv_setCore (.when (fun h => inv_putRegion h) (inv_putRegion h)))
theorem inv_serveRestored {k} (h : InvFrom lo s) : InvFrom lo (serveRestored s k) := .foldl (fun _ _ h => inv_serveAt h) h

theorem inv_restoreBlock {w v} (h : InvFrom lo s) : InvFrom lo (restoreBlock s w v) := by
  unfold restoreBlock
  split
  · exact h
  · exact .ite h (.ite (.same h) (inv_putRegion (.same h)))

theorem inv_resumeCrew {id w} (h : InvFrom lo s) : InvFrom lo (resumeCrew s id w) := by
  unfold resumeCrew
  split
  · exact h
  · exact inv_recountAll (.foldl (fun _ _ h => inv_serveRestored h) (inv_setCluster (inv_setCrew (.foldl (fun _ _ h => inv_restoreCore h)
      (inv_restoreBlock h)))))

theorem inv_execCrewResume {crew} (h : InvFrom lo s) : NextInv lo (execCrewResume crew s) := by
  unfold execCrewResume
  split
  · exact .next h
  · exact .ite (.next h) (.ite (.next (inv_startScrubs h)) (.next (.foldl (fun _ _ h => inv_resumeCrew h) h)))

theorem inv_restoreVoyage {v} (h : InvFrom lo s) : InvFrom lo (restoreVoyage s v) :=
  inv_setCounter (inv_putRegion (.foldl (fun _ _ h => inv_putRegion h) h))

theorem inv_execVoyageResume {cluster} (h : InvFrom lo s) : NextInv lo (execVoyageResume cluster s) := by
  unfold execVoyageResume
  split
  · exact .next h
  · exact .ite (.next (inv_startScrubs h)) (.ite (.next (inv_holdBack h)) (.next (inv_countUp (inv_setCluster (.same (InvFrom.ite
      (inv_restoreVoyage h) h))))))

theorem inv_tierRequests {o fuel} : ∀ {s l}, InvFrom lo s → InvFrom lo (tierRequests o fuel s l) := by
  induction fuel with
  | zero => exact fun h => h
  | succ fuel ih =>
    intro s l h
    cases l with
    | nil => exact h
    | cons e l => exact ih (inv_postRequest h)

theorem inv_execTierEpoch (h : InvFrom lo s) : NextInv lo (execTierEpoch s) :=
  .ite (.next h) (.next (.same (InvFrom.foldl (fun _ _ h => inv_tierRequests h) h)))
theorem inv_rekey {first dest n} (h : InvFrom lo s) : InvFrom lo (rekey s first dest n) :=
  h.withMem fun hm => memPut_wf _ _ (memClear_wf _ _ _ (memClear_wf _ _ _ hm))
theorem inv_retier {o page pte} (h : InvFrom lo s) : InvFrom lo (retier s o page pte) := .same h

theorem inv_movePage {m} (h : InvFrom lo s) : InvFrom lo (movePage s m) := by
  unfold movePage
  dsimp only
  split
  · exact h
  · split
    · exact .ite h (inv_retier (inv_putBytes (inv_rekey h)))
    · exact h

theorem inv_execPageMoveComplete {owner page} (h : InvFrom lo s) : NextInv lo (execPageMoveComplete owner page s) := by
  unfold execPageMoveComplete
  split
  · exact .ite (.next (inv_movePage (.same h))) (.next h)
  · exact .next h

theorem inv_execAnswerCrewPlacement {rec} (h : InvFrom lo s) : NextInv lo (execAnswerCrewPlacement rec s) := by
  unfold execAnswerCrewPlacement
  split
  · exact .next (inv_badAnswer h)
  · next hx =>
    have h₁ := inv_takeAnswer h hx
    split
    · split
      · exact .next h₁
      · next hr => exact h₁.nextFound hr fun h hr => .ite (.next (inv_putRecord h hr)) (.next (inv_useNamed (inv_putRecord h hr) hr))
    · exact .next h₁

theorem inv_changeLoad {c fid f} (h : InvFrom lo s) : InvFrom lo (changeLoad s c fid f) := .same h

theorem inv_execAnswerImagePlacement {rec} (h : InvFrom lo s) : NextInv lo (execAnswerImagePlacement rec s) := by
  unfold execAnswerImagePlacement
  split
  · exact .next (inv_badAnswer h)
  · next hx =>
    have h₁ := inv_takeAnswer h hx
    split
    · refine .ite ?_ (.ite (.next (inv_changeLoad h₁)) (.next (inv_changeLoad h₁)))
      split
      · exact .next (.ite h₁ (inv_dropImage h₁))
      · exact .next h₁
    · exact .next h₁

theorem inv_execAnswerTierMigration {rec} (h : InvFrom lo s) : NextInv lo (execAnswerTierMigration rec s) := by
  unfold execAnswerTierMigration
  split
  · exact .next (inv_badAnswer h)
  · next hx =>
    have h₁ := inv_takeAnswer h hx
    split
    · exact .next (.same h₁)
    · exact .next h₁

theorem inv_execAnswerSpill {rec} (h : InvFrom lo s) : NextInv lo (execAnswerSpill rec s) := by
  unfold execAnswerSpill
  split
  · exact .next (inv_badAnswer h)
  · next hx =>
    have h₁ := inv_takeAnswer h hx
    split
    · split
      · exact .next h₁
      · exact .ite (.next (inv_setCrew h₁)) (.next (inv_spillFailed h₁))
    · exact .next h₁

theorem inv_execAnswerTwinReload {rec} (h : InvFrom lo s) : NextInv lo (execAnswerTwinReload rec s) := by
  unfold execAnswerTwinReload
  split
  · exact .next (inv_badAnswer h)
  · next hx =>
    have h₁ := inv_takeAnswer h hx
    split
    · split
      · exact .next (.ite (inv_putImage h₁) h₁)
      · exact .next h₁
    · exact .next h₁

theorem inv_writeReqtail {v} (h : InvFrom lo s) : InvFrom lo (writeReqtail s v) := .ite (inv_ringDrain (.same h)) h

/-! ### Bridge registers and owners -/

theorem inv_outerSaw {ends} (h : InvFrom lo s) : InvFrom lo (outerSaw s ends) := .ite h (.same h)

theorem inv_outerRead {o va n r} (h : InvFrom lo s) : InvFrom lo (outerRead s o va n r).2 := by
  unfold outerRead
  extract_lets s₁ go
  have h₁ : InvFrom lo s₁ := inv_countAccess h
  split
  · exact inv_outerSaw h₁
  · exact inv_outerSaw h₁
  · exact h₁

theorem inv_outerWrite {o va r bs} (h : InvFrom lo s) : InvFrom lo (outerWrite s o va r bs) := by
  unfold outerWrite
  dsimp only
  split
  · exact inv_homeWriteAt (inv_countAccess h)
  · exact inv_homeWriteAt (inv_countAccess h)
  · exact inv_countAccess h

theorem inv_outerAccess {o va n r write v} (h : InvFrom lo s) : InvFrom lo (outerAccess s o va n r write v) := by
  unfold outerAccess
  extract_lets s₁ x
  have h₁ : InvFrom lo s₁ := .same h
  have hx : InvFrom lo x.2 := inv_outerRead h₁
  exact .ite (inv_outerWrite h₁) (.same hx)

theorem inv_outerFails {n write} (h : InvFrom lo s) : InvFrom lo (outerFails s n write) := .same h

theorem inv_accessAperture {ap off n write v} (h : InvFrom lo s) : InvFrom lo (accessAperture s ap off n write v) := by
  unfold accessAperture
  extract_lets c o va fail
  have hfail : ∀ {s}, InvFrom lo s → InvFrom lo (fail s) := fun h => inv_outerFails (.same h)
  refine .ite (hfail h) ?_
  split
  · exact inv_outerAccess h
  · exact hfail (inv_reportWalk h)

theorem inv_pcieRead {o x p} (h : InvFrom lo x.1) : InvFrom lo (pcieRead o x p).1 := inv_outerRead h
theorem inv_pcieWrite {o x p} (h : InvFrom lo x.1) : InvFrom lo (pcieWrite o x p).1 := inv_outerWrite h

theorem inv_execPcieRequest {port toOther owner va size write data} (h : InvFrom lo s) :
    NextInv lo (execPcieRequest port toOther owner va size write data s) := by
  unfold execPcieRequest
  refine .ite (.next (.same h)) ?_
  extract_lets parts reached go s₁ x _ s₂ s₃
  have h₁ : InvFrom lo s₁ := .same h
  have hx : InvFrom lo x.1 := List.foldlRecOn (motive := fun r : State × List Byte => InvFrom lo r.1) _ _ h₁ fun _ hr _ _ => inv_pcieRead hr
  have h₂ : InvFrom lo s₂ := inv_reportWalks h
  have h₃ : InvFrom lo s₃ := .same h₂
  refine .ite (.ite (.next ?_) (.next (.same hx))) (.next (.ite h₃ (.same h₃)))
  exact List.foldlRecOn (motive := fun r : State × List Byte => InvFrom lo r.1) _ _ h₁ fun _ hr _ _ => inv_pcieWrite hr

theorem inv_ownResult {o r} (h : InvFrom lo s) : InvFrom lo (ownResult s o r) := .same h

theorem inv_ownCreate {o modes} (h : InvFrom lo s) : InvFrom lo (ownCreate s o modes) := by
  unfold ownCreate
  split
  · exact h
  · split
    all_goals exact .same h

theorem inv_retireStart {o} (h : InvFrom lo s) : InvFrom lo (retireStart s o) := .foldl (fun _ _ h => inv_abortWork h) (.same h)

theorem inv_retireGoesOn {o} (h : InvFrom lo s) : InvFrom lo (retireGoesOn s o) := by
  refine .ite h ?_
  split
  · exact inv_ownResult (inv_dropRequests (inv_setOwner (.same h)))
  · exact .foldl (fun _ _ h => inv_setCluster h) h

theorem inv_ownRetire {o} (h : InvFrom lo s) : InvFrom lo (ownRetire s o) := by
  unfold ownRetire
  split
  · exact .ite (inv_retireGoesOn h) h
  · split
    · exact .same h
    · exact inv_retireStart h

theorem inv_execOwnerRetire {owner} (h : InvFrom lo s) : NextInv lo (execOwnerRetire owner s) := .next (inv_ownRetire h)

theorem inv_ownSetModes {o modes} (h : InvFrom lo s) : InvFrom lo (ownSetModes s o modes) := by
  unfold ownSetModes
  split
  · exact h
  · split
    · exact .same h
    · split
      all_goals exact .same h

theorem inv_ownSetSlot {o slot v} (h : InvFrom lo s) : InvFrom lo (ownSetSlot s o slot v) := by
  unfold ownSetSlot
  split
  · exact h
  · split
    · exact .same h
    · exact inv_settle (.same h)

theorem inv_startTransfer {t} (h : InvFrom lo s) : InvFrom lo (startTransfer s t) := .ite (.same h) (.same h)

theorem inv_ownExport {o peer} (h : InvFrom lo s) : InvFrom lo (ownExport s o peer) := by
  unfold ownExport
  split
  · exact h
  · split
    · exact .same h
    · exact inv_startTransfer h

theorem inv_ownJoin {o modes peer} (h : InvFrom lo s) : InvFrom lo (ownJoin s o modes peer) := by
  unfold ownJoin
  split
  · exact h
  · split
    · exact .same h
    · exact inv_startTransfer h

theorem inv_execKeyTransferTimeout (h : InvFrom lo s) : NextInv lo (execKeyTransferTimeout s) := by
  unfold execKeyTransferTimeout
  split
  · exact .ite (.next (.same h)) (.next h)
  · exact .next h

theorem inv_writeOwncmd {v} (h : InvFrom lo s) : InvFrom lo (writeOwncmd s v) := by
  unfold writeOwncmd
  dsimp only
  split
  · exact inv_ownCreate h
  · exact .ite h (inv_ownRetire h)
  · exact inv_ownSetModes h
  · exact inv_ownSetSlot h
  · exact inv_ownExport h
  · exact inv_ownJoin h
  · exact .ite h (.same h)

theorem inv_finishTransfer {t mask key} (h : InvFrom lo s) : InvFrom lo (finishTransfer s t mask key) := .ite (.same h) (.same h)

theorem inv_meridianAt {kind o va n r v} (h : InvFrom lo s) : InvFrom lo (meridianAt s kind o va n r v) := by
  unfold meridianAt
  dsimp only
  split
  · exact inv_outerAccess h
  · split
    · exact inv_atomicAdd (inv_outerAccess h)
    · exact inv_outerAccess h

theorem inv_controlMessage {kind src o v} (h : InvFrom lo s) : InvFrom lo (controlMessage s kind src o v) := by
  unfold controlMessage
  dsimp only
  split
  · split
    · exact .ite (inv_finishTransfer h) h
    · exact h
  · exact .ite (.same h) h
  · exact .ite (.same h) h
  · split
    · exact .ite (.same h) h
    · exact h

theorem inv_execMeridianAccess {kind src owner va size v} (h : InvFrom lo s) : NextInv lo (execMeridianAccess kind src owner va size v s) := by
  unfold execMeridianAccess
  dsimp only
  split
  · exact .next (inv_controlMessage h)
  · split
    · exact .ite (.next (.same h)) (.next (inv_meridianAt h))
    · exact .next (.same (inv_reportWalk h))

theorem inv_writeMeasure {v} (h : InvFrom lo s) : InvFrom lo (writeMeasure s v) := .ite (.same h) h

theorem inv_writeQueueReg {off v} (h : InvFrom lo s) : InvFrom lo (writeQueueReg s off v) := by
  unfold writeQueueReg
  dsimp only
  split
  · exact inv_writeQcfg h
  · exact .same h
  · exact .same h
  · exact h

theorem inv_writeHelmReg {off v} (h : InvFrom lo s) : InvFrom lo (writeHelmReg s off v) := by
  unfold writeHelmReg
  dsimp only
  split
  · exact .ite h (.same h)
  · exact .ite h (.same h)
  · exact inv_writeLogtail h
  · exact .ite (inv_startSnap h) h
  · exact .same h
  · exact inv_writeAbort h
  · exact .same h
  · exact .same h
  · exact .same h
  · exact .same h
  · exact .same h
  · exact .same h
  · exact .ite (.same h) h

theorem inv_writeOwnerReg {off v} (h : InvFrom lo s) : InvFrom lo (writeOwnerReg s off v) := by
  unfold writeOwnerReg
  split
  · exact inv_writeOwncmd h
  · exact .same h
  · exact h

theorem inv_writeReqReg {off v} (h : InvFrom lo s) : InvFrom lo (writeReqReg s off v) := by
  unfold writeReqReg
  split
  · exact .same h
  · exact .ite h (.same h)
  · exact inv_writeReqtail h
  · exact .same h
  · exact h

theorem inv_writeTlbinv {v} (h : InvFrom lo s) : InvFrom lo (writeTlbinv s v) := by
  unfold writeTlbinv
  dsimp only
  split
  · exact inv_invPage h
  · exact inv_invOwner h
  · exact inv_invAll h
  · exact h

theorem inv_writeFbtail {die v} (h : InvFrom lo s) : InvFrom lo (writeFbtail s die v) := .ite (.same h) h

theorem inv_writeFaultReg {die off v} (h : InvFrom lo s) : InvFrom lo (writeFaultReg s die off v) := by
  unfold writeFaultReg
  dsimp only
  split
  · exact .ite h (.same h)
  · exact .ite h (.same h)
  · exact inv_writeFbtail h
  · exact .same h
  · exact inv_writeTlbinv h
  · exact inv_writeReplay h
  · exact inv_writeDecline h
  · exact h

theorem inv_writeSecurityReg {off v} (h : InvFrom lo s) : InvFrom lo (writeSecurityReg s off v) := .ite (inv_writeMeasure h) (.ite (.same h) h)
theorem inv_writePrivate {a v} (h : InvFrom lo s) : InvFrom lo (writePrivate s a v) := .ite (inv_homeWrite (.same h)) h
theorem inv_writeRegister {a v} (h : InvFrom lo s) : InvFrom lo (writeRegister s a v) :=
  .ite (.same h) (.ite (inv_writeQueueReg h) (.ite (inv_writeHelmReg h) (.ite (inv_writeOwnerReg h) (.ite (inv_writeReqReg h) (.ite
    (inv_writeFaultReg h) (.ite (inv_writeSecurityReg h) (.ite (inv_accessAperture h) (.ite (inv_writePrivate h) h))))))))
theorem inv_outsideLoad {core a} (h : InvFrom lo s) : InvFrom lo (outsideLoad s core a) :=
  .ite (inv_accessAperture (.same h)) (.ite (inv_outerSaw (.same h)) (.same h))
theorem inv_raiseMinVersion {v} (h : InvFrom lo s) : InvFrom lo (raiseMinVersion s v) := .ite (.same h) h

/-! ### The board -/

theorem inv_dropSram (h : InvFrom lo s) : InvFrom lo (dropSram s) := h.withMem fun hm => filter_wf _ _ hm
theorem inv_dropWork (h : InvFrom lo s) : InvFrom lo (dropWork s) := .same h
theorem inv_dropLogbook (h : InvFrom lo s) : InvFrom lo (dropLogbook s) := h.withMem fun hm => memClear_wf _ _ _ hm
theorem inv_coldReset (h : InvFrom 0 s) : InvFrom 0 (coldReset s) :=
  ⟨(inv_dropLogbook (inv_dropSram (inv_dropWork h))).wf, fun _ he => absurd he (List.not_mem_nil), List.nodup_nil, Nat.zero_le _⟩
theorem inv_thermalTrip {die} (h : InvFrom 0 s) : InvFrom 0 (thermalTrip s die) := .same (inv_coldReset h)

theorem inv_abortAll (h : InvFrom lo s) : InvFrom lo (abortAll s) := .foldl (fun _ _ h => by
    split
    · next hr => exact h.withFound hr fun h hr => inv_moveRecord h hr
    · exact h) h

theorem inv_warmStart (h : InvFrom lo s) : InvFrom lo (warmStart s) := .same (inv_dropSram (inv_dropWork (inv_abortAll h)))
theorem inv_stepSix (h : InvFrom lo s) : InvFrom lo (stepSix s) := .same h
theorem inv_openLog (h : InvFrom lo s) : InvFrom lo (openLog s) := .same h

theorem inv_trainTier (h : InvFrom lo s) : InvFrom lo (trainTier s) := by
  unfold trainTier
  split
  · exact .ite h (.same h)
  · exact .ite (.same h) (.same h)

theorem inv_stepsFourToSix (h : InvFrom lo s) : InvFrom lo (stepsFourToSix s) := by
  unfold stepsFourToSix
  dsimp only
  split
  · exact .same h
  · exact inv_stepSix (inv_openLog (inv_trainTier (.same h)))

theorem inv_warmSteps (h : InvFrom lo s) : InvFrom lo (warmSteps s) := by
  unfold warmSteps
  dsimp only
  split
  · exact .same h
  · exact inv_stepSix (.ite (.same h) (inv_openLog (inv_trainTier (.same h))))

theorem inv_stepThree (h : InvFrom lo s) : InvFrom lo (stepThree s) := .ite (inv_stepsFourToSix (.same h)) h

theorem inv_stepsOneAndTwo (h : InvFrom lo s) : InvFrom lo (stepsOneAndTwo s) := by
  unfold stepsOneAndTwo
  dsimp only
  split
  · split
    · exact inv_stepThree (.same h)
    · exact .same h
  · exact .same h
  · exact .same h

theorem inv_execMeridianLaneFailure {port4} (h : InvFrom lo s) : NextInv lo (execMeridianLaneFailure port4 s) := by
  unfold execMeridianLaneFailure
  dsimp only
  split
  · exact .next h
  · exact .ite (.next (.same h)) (.ite (.next (.same h)) (.next h))

theorem inv_dataError {crew} (h : InvFrom lo s) : InvFrom lo (dataError s crew) := by
  unfold dataError
  split
  · exact inv_stopRecord h
  · exact h

theorem inv_saveHeaderBad {k} (h : InvFrom lo s) : InvFrom lo (saveHeaderBad s k) := .foldl (fun _ _ h => inv_dataError h) h

theorem inv_uncorrectable {k} (h : InvFrom lo s) : InvFrom lo (uncorrectable s k) := by
  unfold uncorrectable
  split
  · split
    · exact inv_dataError h
    · exact h
  · exact .ite (.ite (inv_dataError h) h) (.ite (inv_saveHeaderBad (.same h)) (.same h))

theorem inv_reply {conn mseq status mtype body} (h : InvFrom lo s) : InvFrom lo (reply s conn mseq status mtype body) := .same h
theorem inv_setConn {c} (h : InvFrom lo s) : InvFrom lo (setConn s c) := .same h

theorem inv_request {self conn mseq mtype open_ lenGood act} (h : InvFrom lo s) (hact : ∀ {s}, InvFrom lo s → InvFrom lo (act s).1) :
    NextInv lo (request self s conn mseq mtype open_ lenGood act) := by
  unfold request
  split
  · exact .next h
  · exact .ite (.next h) (.ite (.next (inv_setConn h)) (.ite (.next (inv_reply h)) (.ite (.next (inv_reply h))
      (.ite (.next (inv_reply h)) (.next (inv_reply (hact h)))))))

theorem inv_execTelemetry {conn mseq len} (h : InvFrom lo s) : NextInv lo (execTelemetry conn mseq len s) := inv_request h id

theorem inv_execSetPowerLimit {conn mseq len v32} (h : InvFrom lo s) : NextInv lo (execSetPowerLimit conn mseq len v32 s) := by
  refine inv_request h fun h => ?_
  split
  · exact .same h
  · exact h

theorem inv_mergeResets {conn} (h : InvFrom lo s) : InvFrom lo (mergeResets s conn) := by
  unfold mergeResets
  dsimp only
  split
  · exact h
  · exact .foldl (fun _ _ h => by
    split
    · exact .same h
    · exact h) (.same h)

theorem inv_execModuleReset {conn mseq len} (h : InvFrom lo s) : NextInv lo (execModuleReset conn mseq len s) := by
  unfold execModuleReset
  extract_lets self
  split
  · exact .next h
  · exact .ite (.next (inv_mergeResets (inv_reply (inv_warmSteps h)))) (.ite (.next (.same (inv_warmStart h))) (inv_request h id))

theorem inv_execFirmwareWrite {conn mseq len foff data} (h : InvFrom lo s) : NextInv lo (execFirmwareWrite conn mseq len foff data s) := by
  refine inv_request h fun h => ?_
  split
  · exact .same h
  · exact h

theorem inv_execFirmwareSelect {conn mseq len bank} (h : InvFrom lo s) : NextInv lo (execFirmwareSelect conn mseq len bank s) := by
  refine .ite (.next (.same h)) (inv_request h fun {s} h => ?_)
  split
  · exact h
  · extract_lets _ s₁
    have h₁ : InvFrom lo s₁ := .ite (.same h) h
    split
    · exact .same h₁
    · exact h₁

theorem inv_execAttest {conn mseq len nonce} (h : InvFrom lo s) : NextInv lo (execAttest conn mseq len nonce s) := inv_request h id
theorem inv_execEvents {conn mseq len} (h : InvFrom lo s) : NextInv lo (execEvents conn mseq len s) := inv_request h fun h => .same h

theorem inv_execEnrollClient {conn mseq len key} (h : InvFrom lo s) : NextInv lo (execEnrollClient conn mseq len key s) := by
  refine inv_request h fun h => ?_
  split
  · exact h
  · split
    · exact h
    · split
      · exact h
      · exact .same h

theorem inv_execUnknownType {conn mseq mtype} (h : InvFrom lo s) : NextInv lo (execUnknownType conn mseq mtype s) := inv_request h id

/-! ### Scalar floating point -/

theorem inv_fp2 {op d a b p} (h : InvFrom lo s) : NextInv lo (fp2 op d a b p s) := .next (.same h)
theorem inv_fp3 {negProd negC d a b c p} (h : InvFrom lo s) : NextInv lo (fp3 negProd negC d a b c p s) := .next (.same h)
theorem inv_fpCmp {op d a b p} (h : InvFrom lo s) : NextInv lo (fpCmp op d a b p s) := .next (.same h)
theorem inv_fpSign {sg d a b p} (h : InvFrom lo s) : NextInv lo (fpSign sg d a b p s) := .next (.same h)
theorem inv_fpToInt {a₀ a₁ w ext d a p} (h : InvFrom lo s) : NextInv lo (fpToInt a₀ a₁ w ext d a p s) := .next (.same h)
theorem inv_fpOfInt {v d a p} (h : InvFrom lo s) : NextInv lo (fpOfInt v d a p s) := .next (.same h)
theorem inv_fpConv {src dst ov d a} (h : InvFrom lo s) : NextInv lo (fpConv src dst ov d a s) := .next (.same h)

/-! ### Scalar integer -/

theorem inv_binary {f d a b} (h : InvFrom lo s) : NextInv lo (binary f d a b s) := .next (.same h)
theorem inv_unary {f d a} (h : InvFrom lo s) : NextInv lo (unary f d a s) := .next (.same h)
theorem inv_binaryW {f d a b} (h : InvFrom lo s) : NextInv lo (binaryW f d a b s) := .next (.same h)
theorem inv_branch {c a b o} (h : InvFrom lo s) : NextInv lo (branch c a b o s) := .next (.same h)

/-! ### Every instruction -/

theorem inv_exec {i} (h : InvFrom 0 s) : NextInv 0 (exec i s) := by
  cases i <;> dsimp only [exec]
  case add | sub | and | or | xor | andn | sll | srl | sra | rotl | rotr | slt | sltu | min | max | minu | maxu | mul | mulh | mulhu |
    mulhsu | div | divu | rem | remu => exact inv_binary h
  case clz | ctz | popc | bswap => exact inv_unary h
  case addW | subW | sllW | srlW | sraW | mulW | divW | divuW | remW | remuW => exact inv_binaryW h
  case fadd | fsub | fmul | fdiv | fmin | fmax => exact inv_fp2 h
  case fsqrt | fclass | addi | andi | ori | xori | slti | sltiu | addiW | slli | srli | srai | rotri | slliW | srliW | sraiW | ldhi |
    pcadd | fenceAcq | call | mtest | sget | sput | tstat | vrel | vinfo | yield | dropcntRead | bridgeCoreReset | powerWindow =>
    exact .next (.same h)
  case fmadd | fmsub | fnmadd => exact inv_fp3 h
  case fsgnj | fsgnjn | fsgnjx => exact inv_fpSign h
  case feq | flt | fle => exact inv_fpCmp h
  case fcvtW | fcvtWu | fcvtL | fcvtLu => exact inv_fpToInt h
  case fcvtFromW | fcvtFromWu | fcvtFromL | fcvtFromLu => exact inv_fpOfInt h
  case fcvtDS => exact .ite (inv_fpConv h) (inv_fpConv h)
  case fcvtHS | fcvtSH | fcvtBfS | fcvtSBf | fcvtE4S | fcvtSE4 | fcvtE5S | fcvtSE5 => exact inv_fpConv h
  case ldB | ldBu | ldH | ldHu | ldW | ldWu | ldD => exact inv_load h
  case stB | stH | stW | stD => exact inv_store h
  case ldsyncTake | ldsyncKeep | stsyncFill | stsyncSet | syncClear | syncTest => exact inv_syncOp h
  case atmAdd | atmAnd | atmOr | atmXor | atmMin | atmMax | atmMinu | atmMaxu | atmSwap | atmCas | atmFaddS => exact inv_atomic h
  case fenceRel | fenceFull => exact .ite (inv_parkOn h) (.next (inv_finishFence h))
  case barrInit => exact inv_execBarrInit h
  case barrArrive => exact inv_execBarrArrive h
  case barrWait | nwait | park => exact .ite (.next (.same h)) (inv_parkOn h)
  case bEq | bNe | bLt | bGe | bLtu | bGeu => exact inv_branch h
  case jr | sinfo => exact .ite (inv_trap h) (.next (.same h))
  case send => exact inv_execSend h
  case spawn => exact inv_execSpawn h
  case mget => exact inv_execMget h
  case mpeek => exact inv_execMpeek h
  case serveImm | serveReg => exact .ite (inv_trap h) (inv_serveCall h)
  case sload => exact .ite (.next (.same h)) (.ite (inv_forfeit h) (.next (.same h)))
  case sevict => exact inv_execSevict h
  case tzero => exact .ite (inv_trap h) (inv_enterTile h)
  case tmma => exact inv_execTmma h
  case tdrain => exact inv_execTdrain h
  case tload => exact inv_execTload h
  case vstart => exact inv_execVstart h
  case scmd => exact inv_execScmd h
  case rget => exact inv_execRget h
  case nread => exact inv_execNread h
  case nset => exact inv_execNset h
  case trap | illegalInstruction => exact inv_trap h
  case tret => exact .ite (.next (.same h)) (inv_trap h)
  case rdsys => exact inv_execRdsys h
  case wrsys => exact inv_execWrsys h
  case exit => exact inv_execExit h
  case get => exact inv_execGet h
  case put => exact inv_execPut h
  case getx => exact inv_execGetx h
  case putx => exact inv_execPutx h
  case copy => exact inv_execCopy h
  case fill => exact inv_execFill h
  case redput => exact inv_execRedput h
  case chain => exact inv_execChain h
  case halo => exact inv_execHalo h
  case bind => exact inv_execBind h
  case scan => exact inv_execScan h
  case probe => exact inv_execProbe h
  case commandStart => exact inv_execCommandStart h
  case commandComplete => exact inv_execCommandComplete h
  case faceDelivered => exact inv_execFaceDelivered h
  case submitRecord => exact .ite (.next (.same h)) (.next (.same h))
  case qcfgWrite => exact .next (inv_writeQcfg h)
  case crew | gang | voyage | stream | wait | graph | unknownKind => exact inv_helmRead h
  case nestedGraphStart => exact inv_execNestedGraphStart h
  case logtailWrite => exact .next (inv_writeLogtail h)
  case snap => exact .next (inv_startSnap h)
  case abortQueue | abortRecord => exact .next (inv_writeAbort h)
  case abortedEntry => exact inv_execAbortedEntry h
  case registerWrite => exact .next (inv_writeRegister h)
  case apertureAccess => exact .next (inv_accessAperture h)
  case pcieRequest => exact inv_execPcieRequest h
  case ownerCreate => exact .next (inv_ownCreate h)
  case ownerRetire => exact inv_execOwnerRetire h
  case setModes => exact .next (inv_ownSetModes h)
  case setEventSlot => exact .next (inv_ownSetSlot h)
  case ownerExport => exact .next (inv_ownExport h)
  case join => exact .next (inv_ownJoin h)
  case keyTransferTimeout => exact inv_execKeyTransferTimeout h
  case answerCrewPlacement => exact inv_execAnswerCrewPlacement h
  case answerImagePlacement => exact inv_execAnswerImagePlacement h
  case answerTierMigration => exact inv_execAnswerTierMigration h
  case answerSpill => exact inv_execAnswerSpill h
  case answerTwinReload => exact inv_execAnswerTwinReload h
  case tlbinvPage => exact .next (inv_invPage h)
  case tlbinvOwner => exact .next (inv_invOwner h)
  case tlbinvAll => exact .next (inv_invAll h)
  case invalidationDone => exact inv_execInvalidationDone h
  case replay => exact .next (inv_writeReplay h)
  case decline => exact .next (inv_writeDecline h)
  case measurementExtend => exact .next (inv_writeMeasure h)
  case telemetry => exact inv_execTelemetry h
  case setPowerLimit => exact inv_execSetPowerLimit h
  case moduleReset => exact inv_execModuleReset h
  case firmwareWrite => exact inv_execFirmwareWrite h
  case firmwareSelect => exact inv_execFirmwareSelect h
  case attest => exact inv_execAttest h
  case events => exact inv_execEvents h
  case enrollClient => exact inv_execEnrollClient h
  case coldReset => exact .next (inv_coldReset h)
  case v12AuxLoss => exact .next (.same (inv_coldReset h))
  case powerUp => exact .ite (.next h) (.next (inv_stepsOneAndTwo (.same h)))
  case pwrgd48 => exact .next (inv_stepThree (.same h))
  case sensorRead =>
    exact .ite (.next h) (.ite (.next (.ite (.same h) (inv_thermalTrip (.same h)))) (.ite (.next (.same h)) (.ite (.next (.same h)) (.next
      (.same h)))))
  case meridianLaneFailure => exact inv_execMeridianLaneFailure h
  case meridianAccess => exact inv_execMeridianAccess h
  case patrolScrub => exact .next (.ite (inv_uncorrectable h) (.same h))
  case crewAdmit => exact inv_execCrewAdmit h
  case gangAdmit => exact inv_execGangAdmit h
  case streamAdmit => exact inv_execStreamAdmit h
  case voyageAdmit => exact inv_execVoyageAdmit h
  case clusterScrub => exact inv_execClusterScrub h
  case reservation => exact inv_execReservation h
  case preemption => exact inv_execPreemption h
  case saveComplete => exact inv_execSaveComplete h
  case crewResume => exact inv_execCrewResume h
  case crewRetire => exact inv_execCrewRetire h
  case tierEpoch => exact inv_execTierEpoch h
  case pageMoveComplete => exact inv_execPageMoveComplete h
  case loadReturn => exact inv_execLoadReturn h
  case homeArrival => exact inv_execHomeArrival h
  case releaseAck => exact inv_execReleaseAck h
  case walkComplete => exact inv_execWalkComplete h
  case icacheFill => exact inv_execIcacheFill h
  case sendArrives => exact inv_execSendArrives h
  case messageDelivery => exact inv_execMessageDelivery h
  case spawnArrives => exact inv_execSpawnArrives h
  case pendingTaskStart => exact inv_execPendingTaskStart h
  case spill => exact inv_execSpill h
  case spillRetry => exact inv_execSpillRetry h
  case spillDeliver => exact inv_execSpillDeliver h
  case waiterResend => exact inv_execWaiterResend h
  case deferredTrap => exact inv_execDeferredTrap h
  case crewEvent => exact inv_execCrewEvent h
  case tileStart => exact inv_execTileStart h
  case tileComplete => exact inv_execTileComplete h
  case serveAdmit => exact inv_execServeAdmit h
  case serveExit => exact inv_execServeExit h
  case cellFire => exact inv_execCellFire h
  case serveTimeout => exact inv_execServeTimeout h
  case imageLoad => exact inv_execImageLoad h
  case imageLoadComplete => exact inv_execImageLoadComplete h
  case imageEvict => exact inv_execImageEvict h
  case compaction => exact inv_execCompaction h
  case twinReload => exact inv_execTwinReload h
  case freezeWave => exact inv_execFreezeWave h
  case thaw => exact inv_execThaw h
  case sectionComplete => exact inv_execSectionComplete h
  case endpointPoll => exact inv_execEndpointPoll h
  case embark => exact inv_execEmbark h
  case embarkComplete => exact inv_execEmbarkComplete h
  case sighting => exact inv_execSighting h
  case accumulationComplete => exact inv_execAccumulationComplete h
  case stationReady => exact inv_execStationReady h
  case halfStepStart => exact inv_execHalfStepStart h
  case reckoning => exact inv_execReckoning h
  case reckonTaskStart => exact inv_execReckonTaskStart h
  case voyageFailure => exact inv_execVoyageFailure h
  case voyageStop => exact inv_execVoyageStop h
  case voyageResume => exact inv_execVoyageResume h
  case badOp => exact .ite (.next h) (.next (.same h))
  case unknownType => exact inv_execUnknownType h
  case reqtailWrite => exact .next (inv_writeReqtail h)
  case managementConnection => exact .ite (.next (.same h)) (.next h)

/-! ### The order of steps -/

theorem inv_holdStart {k} (h : InvFrom lo s) : InvFrom lo (holdStart s k) := by
  unfold holdStart
  split
  · split
    · exact .ite (inv_holdBack h) h
    · exact h
  · exact h

theorem inv_rotate {n k} : ∀ {s slot}, InvFrom lo s → InvFrom lo (rotate n s k slot).1 := by
  induction n with
  | zero => exact fun h => h
  | succ n ih =>
    intro s slot h
    rw [rotate]
    split
    · split
      · exact ih (inv_setThread h)
      · exact h
    · exact ih h

theorem inv_markIssued {t} (h : InvFrom lo s) : InvFrom lo (markIssued s t) := by
  unfold markIssued
  split
  · exact h
  · split
    · exact h
    · dsimp only
      split
      · exact .when (fun h => inv_moveSeq h) (inv_setCrew (inv_unhold h))
      · exact inv_setCrew (inv_unhold h)

theorem inv_runWord {w} (h : InvFrom 0 s) : NextInv 0 (runWord s w) := by
  unfold runWord
  split
  all_goals exact inv_exec h

theorem inv_issuing {t clk} (h : InvFrom lo s) : InvFrom lo (issuing s t clk) := by
  dsimp only [issuing, InvFrom]
  exact inv_setThread (inv_markIssued h)

theorem inv_afterIssue {before t} (h : InvFrom lo s) : InvFrom lo (afterIssue before s t) := .ite h (.ite (inv_setThread h) (inv_setThread h))

theorem inv_issue {t clk} (h : InvFrom 0 s) : NextInv 0 (issue s t clk) := by
  unfold issue
  split
  · exact .next (inv_takeTrap h)
  · exact .next (inv_setThread h)
  · refine .ite (.next (inv_setThread h)) ?_
    have h₁ : ∀ w, NextInv 0 (runWord (issuing s t clk) w) := fun _ => inv_runWord (inv_issuing h)
    split
    · next hx => exact .next (inv_afterIssue (h₁ _ _ hx))
    · exact h₁ _

theorem inv_coreTurn {k} (h : InvFrom 0 s) : NextInv 0 (coreTurn s k) := by
  unfold coreTurn
  extract_lets c r
  have hr : InvFrom 0 r.1 := inv_rotate h
  split
  · exact .next (inv_setCore (inv_holdStart hr))
  · exact inv_issue (inv_setCore hr)

/-- Each of the steps keeps the invariant, in every state. -/
def AllKeep (l : List (State → Out)) : Prop := ∀ a ∈ l, ∀ s, InvFrom 0 s → NextInv 0 (a s)

theorem AllKeep.nil : AllKeep [] := fun _ ha => absurd ha List.not_mem_nil
theorem AllKeep.cons {a : State → Out} {l : List (State → Out)} (ha : ∀ {s}, InvFrom 0 s → NextInv 0 (a s)) (hl : AllKeep l) : AllKeep (a :: l) :=
  List.forall_mem_cons.mpr ⟨fun _ h => ha h, hl⟩
theorem AllKeep.one {a : State → Out} (ha : ∀ {s}, InvFrom 0 s → NextInv 0 (a s)) : AllKeep [a] := .cons ha .nil
theorem AllKeep.append {l m : List (State → Out)} (hl : AllKeep l) (hm : AllKeep m) : AllKeep (l ++ m) := List.forall_mem_append.mpr ⟨hl, hm⟩

theorem AllKeep.ite {c : Prop} [Decidable c] {l m : List (State → Out)} (hl : AllKeep l) (hm : AllKeep m) : AllKeep (if c then l else m) := by
  split
  · exact hl
  · exact hm

theorem AllKeep.flatMap {α : Type} {f : α → List (State → Out)} {l : List α} (hf : ∀ x, AllKeep (f x)) : AllKeep (l.flatMap f) := by
  intro a ha
  obtain ⟨x, -, hx⟩ := List.mem_flatMap.mp ha
  exact hf x a hx

theorem AllKeep.map {α : Type} {f : α → State → Out} {l : List α} (hf : ∀ x {s}, InvFrom 0 s → NextInv 0 (f x s)) : AllKeep (l.map f) := by
  intro a ha
  obtain ⟨x, -, rfl⟩ := List.mem_map.mp ha
  exact fun _ h => hf x h

theorem inv_readEvent {q w} (h : InvFrom lo s) : NextInv lo (readEvent q w s) := by
  unfold readEvent
  generalize bits w.w0 63 60 = kind
  rcases kind with _ | _ | _ | _ | _ | _ | kind
  all_goals exact inv_helmRead h

theorem inv_nextRequest {conn} (h : InvFrom 0 s) : NextInv 0 (nextRequest conn s) := by
  unfold nextRequest
  split
  · exact .next h
  · next c _ =>
    split
    · exact .next h
    · next i rest _ =>
      refine .ite (.next h) ?_
      have h₁ : NextInv 0 (exec i (setConn s { c with waiting := [] })) := inv_exec (inv_setConn h)
      split
      · next hx => exact .next (inv_setConn (h₁ _ hx))
      · exact h₁

theorem heldEvent_keeps (x : HeldStep) : AllKeep (heldEvent x) := by
  unfold heldEvent
  split
  · exact .one fun h => .next (inv_abortLaunch h)
  · exact .nil

theorem admitEvent_keeps (kind seq : Nat) :
    ∀ {s}, InvFrom 0 s → NextInv 0 ((match kind with
      | 0 => execCrewAdmit seq
      | 1 => execGangAdmit seq
      | 2 => execVoyageAdmit seq
      | _ => execStreamAdmit seq) s) := by
  intro s h
  split
  · exact inv_execCrewAdmit h
  · exact inv_execGangAdmit h
  · exact inv_execVoyageAdmit h
  · exact inv_execStreamAdmit h

theorem helmEvents_keep (s : State) : AllKeep (helmEvents s) := by
  unfold helmEvents
  have hspill : ∀ c (p : Prop) [Decidable p], AllKeep (if p then [] else [execSpillDeliver c]) := fun _ _ _ => .ite .nil (.one inv_execSpillDeliver)
  refine .append (.append (.append (.append (.append (.append (.append (.append (.append (.append ?_ ?_) ?_) ?_) ?_) ?_) ?_) ?_) ?_) ?_) ?_
  · refine .flatMap fun q => ?_
    split
    · exact .one inv_readEvent
    · exact .nil
  · exact .flatMap fun r => .append (.append (.ite (.one inv_execAbortedEntry) .nil) (.ite (.one inv_execNestedGraphStart) .nil))
      (.ite (.cons (admitEvent_keeps _ _) (.cons inv_execReservation (.one inv_execPreemption))) .nil)
  · refine .flatMap fun c => ?_
    split
    · exact .append (.append (.one inv_execCrewRetire) (.ite (.one inv_execCrewEvent) .nil)) (hspill _ _)
    · exact .append (.one inv_execSaveComplete) (hspill _ _)
    · exact .append (.one inv_execCrewResume) (hspill _ _)
    · exact .nil
  · exact .ite (.one inv_execOwnerRetire) .nil
  · exact .ite (.one inv_execKeyTransferTimeout) .nil
  · exact .ite (.one inv_execTierEpoch) .nil
  · exact .map fun _ _ h => inv_execPageMoveComplete h
  · exact .ite (.one inv_execInvalidationDone) .nil
  · split
    · exact .one inv_exec
    · exact .nil
  · exact .map fun _ _ h => inv_nextRequest h
  · exact .flatMap heldEvent_keeps

theorem threadEvents_keep (s : State) : AllKeep (threadEvents s) := by
  unfold threadEvents
  refine .append (.append (.append (.append (.append ?_ ?_) ?_) ?_) ?_) ?_
  · refine .flatMap fun e => .append (.ite (.one inv_execDeferredTrap) .nil) ?_
    split
    · exact .one inv_execLoadReturn
    · exact .one inv_execIcacheFill
    · exact .one inv_execReleaseAck
    · exact .one inv_execWaiterResend
    · exact .nil
  · exact .map fun _ _ h => inv_execHomeArrival h
  · exact .map fun _ _ h => inv_execHomeArrival h
  · exact .flatMap fun m => .ite (.cons inv_execMessageDelivery (.one inv_execSpill)) (.one inv_execSendArrives)
  · exact .map fun _ _ h => inv_execSpawnArrives h
  · exact .flatMap fun d => .map fun _ _ h => inv_execWalkComplete h

theorem commandEvent_keeps (k q : Nat) (m : Command) : AllKeep (commandEvent k q m) := by
  unfold commandEvent
  split
  · exact .one inv_execCommandStart
  · exact .one inv_execCommandComplete
  · split
    · exact .one inv_execGet
    · exact .one inv_execPut
    · exact .one inv_execGetx
    · exact .one inv_execPutx
    · exact .one inv_execCopy
    · exact .one inv_execFill
    · exact .one inv_execRedput
    · exact .one inv_execChain
    · exact .append (.cons inv_execHalo (.one inv_execCommandComplete)) (.map fun _ _ h => inv_execFaceDelivered h)
    · exact .cons inv_execBind (.one inv_execCommandComplete)
    · exact .one inv_execScan
    · exact .one inv_execProbe
    · exact .nil
  · exact .nil

theorem coreEvents_keep (s : State) : AllKeep (coreEvents s) := by
  refine .flatMap fun e => .append (.append (.append (.ite .nil (.one inv_execTileStart)) (.ite (.one inv_execTileComplete) .nil))
    (.ite (.cons inv_latchChunk (.one inv_drainRow)) .nil)) (.flatMap fun q => ?_)
  split
  · exact commandEvent_keeps _ _ _
  · exact .nil

theorem imageEvents_keep (c : Nat) (i : Image) : AllKeep (imageEvents c i) :=
  .append (.cons inv_execServeExit (.cons inv_execServeTimeout (.cons inv_execImageEvict (.cons inv_execCompaction (.cons inv_execTwinReload
    (.cons inv_execFreezeWave (.one inv_execSectionComplete)))))))
    (.flatMap fun _ => .flatMap fun _ => .cons inv_execCellFire (.one inv_execEndpointPoll))

theorem voyageEvents_keep (c : Nat) (v : Voyage) : AllKeep (voyageEvents c v) := by
  unfold voyageEvents
  refine .append (.append (.append (.ite (.one inv_execVoyageFailure) .nil) (.ite (.one inv_execVoyageStop) .nil)) ?_)
    (.flatMap fun _ => .ite (.one inv_execAccumulationComplete) .nil)
  split
  · exact .ite (.one inv_execEmbarkComplete) (.one inv_execEmbark)
  · exact .cons inv_execHalfStepStart (.flatMap fun _ => .cons inv_execSighting (.one inv_execStationReady))
  · exact .cons inv_execReckoning (.map fun _ _ h => inv_execReckonTaskStart h)
  · exact .nil

theorem clusterEvents_keep (s : State) : AllKeep (clusterEvents s) := by
  refine .append (.append (.flatMap fun e => ?_) (.map fun _ _ h => inv_execThaw h)) (.map fun _ _ h => inv_execVoyageResume h)
  refine .append (.append (.append (.append (.append (.append (.append (.append ?_ ?_) ?_) ?_) ?_) ?_) ?_) ?_) ?_
  · exact .ite (.one inv_execClusterScrub) .nil
  · exact .ite .nil (.one inv_execPendingTaskStart)
  · exact .flatMap fun _ => .cons inv_execSpawnArrives (.one inv_execSpill)
  · exact .ite .nil (.one inv_execSpillRetry)
  · exact .ite (.map fun _ _ h => inv_execServeAdmit h) .nil
  · exact .flatMap fun _ => imageEvents_keep _ _
  · exact .flatMap fun _ => .cons inv_execImageLoad (.one inv_execImageLoadComplete)
  · exact .map fun _ _ h => inv_execImageLoad h
  · split
    · exact voyageEvents_keep _ _
    · exact .nil

theorem events_keep (s : State) : AllKeep (events s) :=
  .append (.append (.append (helmEvents_keep s) (threadEvents_keep s)) (coreEvents_keep s)) (clusterEvents_keep s)

theorem inv_outsideAct {o} (h : InvFrom 0 s) : NextInv 0 (outsideAct o s) := by
  unfold outsideAct
  split
  · exact .ite (inv_exec (.same h)) (.next h)
  · exact .next (inv_outsideLoad h)
  · exact .next (.same h)
  · exact .next (.same h)
  · exact .next (inv_raiseMinVersion h)

theorem inv_takeInput (h : InvFrom 0 s) : NextInv 0 (takeInput s) := by
  unfold takeInput
  split
  · exact .next h
  · exact .ite (.next h) (inv_outsideAct (.same h))

theorem candidates_keep (s : State) : AllKeep (candidates s) :=
  .append (.append (.map fun _ _ h => inv_coreTurn h) (events_keep s)) (.ite .nil (.one inv_takeInput))

theorem mem_of_pick {α : Type} {l : List α} {i : Nat} {a : α} (h : pick l i = some a) : a ∈ l := by
  unfold pick at h
  split at h
  · simp at h
  · exact List.mem_singleton.mpr (Option.some.inj h).symm
  · exact List.mem_of_getElem? h

/-! ### Fabric -/

theorem inv_nextAct {a} (ha : nextAct s = some a) (t : State) (h : InvFrom 0 t) : NextInv 0 (a t) := by
  unfold nextAct at ha
  split at ha
  · exact Option.some.inj ha ▸ inv_coreTurn h
  · exact candidates_keep s a (mem_of_pick ha) t h

/-! ### The order of steps -/

theorem inv_passTime (h : InvFrom lo s) : InvFrom lo (passTime s) := .same h

theorem inv_oneStep (h : InvFrom 0 s) : NextInv 0 (oneStep s) := by
  unfold oneStep
  extract_lets s₀
  have h₀ : InvFrom 0 s₀ := .same h
  split
  · exact .next (inv_passTime h₀)
  · next ha =>
    have h₁ := inv_nextAct ha s₀ h₀
    split
    · next hx => exact .next (inv_passTime (h₁ _ hx))
    · exact h₁

/-! ### A step -/

theorem inv_step (h : InvFrom 0 s) : NextInv 0 (step s) := inv_oneStep h

end

end Sys2Proof.Machine

namespace Sys2Proof

open Sys2Proof.Machine Sys2Proof.Safety

/-- Settles O56: every function that the step calls keeps the homes' memory in its form and every record under its number, and only the helm's own
reading of a record raises the next number. -/
theorem stepKeepsTheInvariant : Obligations.StepKeepsTheInvariant := by
  unfold Obligations.StepKeepsTheInvariant
  exact fun s t hs ht => invFrom_zero.mp (inv_step (invFrom_zero.mpr hs) t ht)

end Sys2Proof
end

section
/-! ## The helm's records and the logbook (R27–R38) -/

namespace Sys2Proof.Machine

open Safety

/-! ### Queues -/

@[simp] theorem getQueue_setQueue (s : State) (q : BitVec 8) (v : QueueState) : getQueue (setQueue s q v) q = v := AMap.getD_set_self _ _ _ _

theorem getQueue_setQueue_ne (s : State) {p q : BitVec 8} (v : QueueState) (h : p ≠ q) : getQueue (setQueue s q v) p = getQueue s p :=
  AMap.getD_set_ne _ _ _ fun he => h (BitVec.eq_of_toNat_eq he)

theorem poweredUp_iff {s : State} : poweredUp s = true ↔ s.board.phase = .running := beq_iff_eq

/-- A step that only changes one queue. -/
theorem exists_onlyQueue {x : Instr} {s : State} {queue : BitVec 8} {q : QueueState} (h : exec x s = .next (setQueue s queue q)) :
    ∃ t, exec x s = .next t ∧ getQueue t queue = q ∧ (∀ p, p ≠ queue → getQueue t p = getQueue s p) ∧ t = { s with queues := t.queues } :=
  ⟨_, h, getQueue_setQueue s queue q, fun _ hp => getQueue_setQueue_ne s q hp, rfl⟩

theorem exec_submitRecord_takes {s : State} {queue : BitVec 8} {off : BitVec 12} {size : Nat} {rec : Words8} (hsize : size = 64) (hoff : off = 0)
    (hroom : (getQueue s queue).fifo.length < 64) (hup : s.board.phase = .running) :
    exec (.submitRecord queue off size rec) s
      = .next (setQueue s queue { getQueue s queue with fifo := (getQueue s queue).fifo ++ [rec], fifoClk := (getQueue s queue).fifoClk ++ [fencedClock s] }) :=
  if_pos ⟨hsize, hoff, hroom, poweredUp_iff.mpr hup⟩

theorem exec_submitRecord_discards {s : State} {queue : BitVec 8} {off : BitVec 12} {size : Nat} {rec : Words8}
    (h : ¬(size = 64 ∧ off = 0 ∧ (getQueue s queue).fifo.length < 64 ∧ s.board.phase = .running)) :
    exec (.submitRecord queue off size rec) s = .next (setQueue s queue { getQueue s queue with discard := true }) :=
  if_neg fun hg => h ⟨hg.1, hg.2.1, hg.2.2.1, poweredUp_iff.mp hg.2.2.2⟩

theorem exec_qcfgWrite_changes {s : State} {queue : BitVec 8} {v : Word} (hen : (getQueue s queue).en = false) (hlive : queueLive s queue = false) :
    exec (.qcfgWrite queue v) s
      = .next (setQueue s queue { getQueue s queue with en := v.getLsbD 63, prio := v.extractLsb' 58 2, owner := v.extractLsb' 32 12 }) :=
  congrArg Host.Outcome.next (if_pos (by simp [hen, hlive]))

theorem exec_qcfgWrite_keeps {s : State} {queue : BitVec 8} {v : Word} (h : (getQueue s queue).en = true ∨ queueLive s queue = true) :
    exec (.qcfgWrite queue v) s = .next (setQueue s queue { getQueue s queue with en := v.getLsbD 63, cfgErr := true }) :=
  congrArg Host.Outcome.next (if_neg (by rcases h with h | h <;> simp [h]))

/-! ### The logbook -/

theorem LogEntry.bytes_length (e : LogEntry) : e.bytes.length = 32 := by simp [LogEntry.bytes, bytesOf_length]

/-- The address of the logbook's slot for an entry number (R40). -/
def logSlot (s : State) (n : BitVec 32) : Nat := s.helm.logBase.toNat * 4096 + 32 * (n.toNat % 2 ^ s.helm.logSize.toNat)

/-- An entry changes the logbook's own registers and its slot alone (R37, R40). -/
theorem logWrite_eq (s : State) (e : LogEntry) :
    logWrite s e = { deviceWrite s (logSlot s s.helm.logHead) e.bytes with helm := (logWrite s e).helm } := rfl

@[simp] theorem logWrite_records (s : State) (e : LogEntry) : (logWrite s e).records = s.records := by
  dsimp only [logWrite, deviceWrite, putBytes]

@[simp] theorem logWrite_queues (s : State) (e : LogEntry) : (logWrite s e).queues = s.queues := by
  dsimp only [logWrite, deviceWrite, putBytes]

@[simp] theorem logWrite_nextSeq (s : State) (e : LogEntry) : (logWrite s e).helm.nextSeq = s.helm.nextSeq := by
  dsimp only [logWrite]

@[simp] theorem logWrite_logHead (s : State) (e : LogEntry) : (logWrite s e).helm.logHead = s.helm.logHead + 1 := by
  dsimp only [logWrite]

theorem byteAt_logWrite {s : State} (hwf : Memory.wf s.mem = true) (e : LogEntry) (x : Nat) :
    (logWrite s e).byteAt x = if logSlot s s.helm.logHead ≤ x ∧ x < logSlot s s.helm.logHead + 32 then e.bytes.getD (x - logSlot s s.helm.logHead) 0
      else s.byteAt x := by
  have hput := byteAt_putBytes s 0 (logSlot s s.helm.logHead) e.bytes hwf x
  rw [LogEntry.bytes_length] at hput
  rw [← hput, logWrite_eq]
  dsimp only [deviceWrite, State.byteAt]

theorem bytesAt_logWrite {s : State} (hwf : Memory.wf s.mem = true) (e : LogEntry) :
    (logWrite s e).bytesAt 32 (logSlot s s.helm.logHead) = e.bytes := by
  have h := bytesAt_of_byteAt (s := logWrite s e) e.bytes (logSlot s s.helm.logHead) fun a ha hb => by
    rw [LogEntry.bytes_length] at hb
    rw [byteAt_logWrite hwf, if_pos ⟨ha, hb⟩]
  rwa [LogEntry.bytes_length] at h

theorem helmRuns_iff {s : State} : helmRuns s = true ↔ s.helm.waiting = [] ∧ logFull s.helm = false := by
  simp [helmRuns, List.isEmpty_iff]

/-- While the helm runs, an entry is written at once (R41). -/
theorem logAppend_of_runs {s : State} (h : helmRuns s = true) (e : LogEntry) : logAppend s e = logWrite s e := if_pos h

/-! ### The state changes that the helm makes by itself -/

theorem firstPermitted_none {s : State} {l : List (Nat × RecordState)} (h : ∀ e ∈ l, autoStep s e.2 = none) : firstPermitted s l = none := by
  induction l with
  | nil => rfl
  | cons e l ih =>
    obtain ⟨q, r⟩ := e
    rw [firstPermitted, h _ List.mem_cons_self]
    exact ih fun e he => h e (List.mem_cons_of_mem _ he)

theorem holdDue_none {s : State} (h : ∀ e ∈ s.records, autoStep s e.2 = none) : holdDue s = s := by
  unfold holdDue
  refine List.foldlRecOn (motive := fun t => t = s) _ _ rfl fun t ht e he => ?_
  rw [ht, h e he]
  rfl

/-- Where no transition is due, the helm makes none. -/
theorem settleN_none {s : State} (h : ∀ e ∈ s.records, autoStep s e.2 = none) (fuel : Nat) : settleN fuel s = s := by
  cases fuel with
  | zero => rfl
  | succ fuel =>
    rw [settleN, firstPermitted_none h, holdDue_none h]
    exact ite_self s

theorem settle_none {s : State} (h : ∀ e ∈ s.records, autoStep s e.2 = none) : settle s = s := settleN_none h _

theorem autoStep_of_final {s : State} {r : RecordState} (h : r.phase.final = true) : autoStep s r = none := if_pos (by rw [h]; rfl)

/-- A record that names no dependence meets none that failed. -/
theorem depFailed_none (s : State) (r : RecordState) : depFailed s r 0xFFF = false := rfl

/-- A launch that names no dependence moves only with its work. -/
theorem autoStep_of_launch {s : State} {r : RecordState} (hkind : r.kind ≤ 3) (ha : r.depA = 0xFFF) (hb : r.depB = 0xFFF) : autoStep s r = none := by
  unfold autoStep
  rw [ha, hb, depFailed_none, if_neg (show r.kind ≠ 4 by omega), if_neg (show r.kind ≠ 5 by omega)]
  simp

/-! ### A record's state change -/

/-- The record as a state change leaves it. -/
def RecordState.moved (r : RecordState) (phase : RecPhase) (reason : BitVec 8) : RecordState :=
  { r with phase := phase, reason := reason, ending := none, entered := r.entered || phase == .admitted }

/-- The state in which the entry of a record's state change is appended. -/
def moving (s : State) (r : RecordState) (phase : RecPhase) (reason : BitVec 8) : State :=
  let s := { s with records := AMap.set s.records r.seqNo (r.moved phase reason) }
  let s := if phase.final then joinGraph (dropPlacement s r.seqNo) r else s
  if phase == .aborted || r.ending.isSome then spoilWork s r.seqNo else s

/-- A record but for what its work releases. -/
def RecordState.forgetEnd (r : RecordState) : RecordState := { r with endClk := [] }

section

variable {s : State} {r : RecordState} {phase : RecPhase} {reason : BitVec 8} {index : BitVec 12}

/-- A field of the state on which the records, their placement and the marks of unspecified bytes have no bearing keeps its value. -/
theorem moving_kept {α : Type} (f : State → α) (hrecords : ∀ s l, f { s with records := l } = f s) (hdrop : ∀ s q, f (dropPlacement s q) = f s)
    (hspoil : ∀ s q, f (spoilWork s q) = f s) : f (moving s r phase reason) = f s := by
  have hjoin : ∀ s, f (joinGraph s r) = f s := fun s => by
    unfold joinGraph joinEnd
    split
    · rfl
    · split
      · exact hrecords _ _
      · rfl
  unfold moving
  extract_lets s₁ s₂
  have h₂ : f s₂ = f s := by
    unfold s₂
    split
    · rw [hjoin, hdrop, hrecords]
    · exact hrecords _ _
  split
  · rw [hspoil, h₂]
  · exact h₂

@[simp] theorem moving_helm : (moving s r phase reason).helm = s.helm := moving_kept State.helm (fun _ _ => rfl) (fun _ _ => rfl) fun _ _ => rfl

@[simp] theorem moving_mem : (moving s r phase reason).mem = s.mem := moving_kept State.mem (fun _ _ => rfl) (fun _ _ => rfl) fun _ _ => rfl

@[simp] theorem moving_board : (moving s r phase reason).board = s.board := moving_kept State.board (fun _ _ => rfl) (fun _ _ => rfl) fun _ _ => rfl

@[simp] theorem moving_queues : (moving s r phase reason).queues = s.queues := moving_kept State.queues (fun _ _ => rfl) (fun _ _ => rfl) fun _ _ => rfl

@[simp] theorem moving_own : (moving s r phase reason).own = s.own := moving_kept State.own (fun _ _ => rfl) (fun _ _ => rfl) fun _ _ => rfl

/-- A state change of a top-level record changes that record alone. -/
theorem moving_records_top (hidx : r.index = 0xFFF) : (moving s r phase reason).records = AMap.set s.records r.seqNo (r.moved phase reason) := by
  unfold moving joinGraph
  rw [hidx]
  extract_lets s₁ s₂
  have h₂ : s₂.records = AMap.set s.records r.seqNo (r.moved phase reason) := by
    unfold s₂
    split
    · rfl
    · rfl
  split
  · exact h₂
  · exact h₂

/-- A state change moves the record, writes its entry, and signals a final state other than rejected (R36, R37). -/
theorem moveRecord_eq : moveRecord s r phase reason index
    = if phase.final && phase != .rejected then signalSlot (logAppend (moving s r phase reason) (logEntry s r phase reason index 0)) r
      else logAppend (moving s r phase reason) (logEntry s r phase reason index 0) := by
  have hentry : logEntry (moving s r phase reason) r phase reason index 0 = logEntry s r phase reason index 0 := by
    unfold logEntry
    rw [moving_board]
  rw [← hentry]
  rfl

/-- A field that neither the logbook nor the owners change is that of the state in which the entry is appended. -/
theorem moveRecord_kept {α : Type} (f : State → α) (hlog : ∀ s e, f (logAppend s e) = f s) (hown : ∀ s o, f { s with own := o } = f s) :
    f (moveRecord s r phase reason index) = f (moving s r phase reason) := by
  have hsignal : ∀ s, f (signalSlot s r) = f s := fun s => by
    unfold signalSlot setOwner
    split
    · exact hown _ _
    · rfl
  rw [moveRecord_eq]
  split
  · rw [hsignal, hlog]
  · exact hlog _ _

theorem logAppend_kept {α : Type} (f : State → α) (hhelm : ∀ s h, f { s with helm := h } = f s) (hwrite : ∀ s e, f (logWrite s e) = f s) (s : State)
    (e : LogEntry) : f (logAppend s e) = f s := by
  unfold logAppend
  split
  · exact hwrite _ _
  · exact hhelm _ _

@[simp] theorem logAppend_records (s : State) (e : LogEntry) : (logAppend s e).records = s.records :=
  logAppend_kept State.records (fun _ _ => rfl) logWrite_records s e

@[simp] theorem logAppend_queues (s : State) (e : LogEntry) : (logAppend s e).queues = s.queues :=
  logAppend_kept State.queues (fun _ _ => rfl) logWrite_queues s e

@[simp] theorem logAppend_nextSeq (s : State) (e : LogEntry) : (logAppend s e).helm.nextSeq = s.helm.nextSeq := by
  unfold logAppend
  split
  · exact logWrite_nextSeq s e
  · rfl

@[simp] theorem moveRecord_records : (moveRecord s r phase reason index).records = (moving s r phase reason).records :=
  moveRecord_kept State.records logAppend_records fun _ _ => rfl

@[simp] theorem moveRecord_queues : (moveRecord s r phase reason index).queues = s.queues :=
  (moveRecord_kept State.queues logAppend_queues fun _ _ => rfl).trans moving_queues

@[simp] theorem moveRecord_nextSeq : (moveRecord s r phase reason index).helm.nextSeq = s.helm.nextSeq := by
  rw [moveRecord_kept (fun s => s.helm.nextSeq) logAppend_nextSeq fun _ _ => rfl, moving_helm]

/-- The logbook's own state after a state change that signals nothing. -/
theorem moveRecord_of_runs (hruns : helmRuns s = true) (hphase : phase = .rejected ∨ phase.final = false) :
    moveRecord s r phase reason index = logWrite (moving s r phase reason) (logEntry s r phase reason index 0) := by
  have hsignal : (phase.final && phase != .rejected) = false := by
    rcases hphase with rfl | h
    · rfl
    · rw [h]; rfl
  rw [moveRecord_eq, hsignal, logAppend_of_runs]
  · rfl
  · unfold helmRuns
    rw [moving_helm]
    exact hruns

end

/-! ### Reading a record (R29, R33) -/

/-- The state in which the helm has taken the oldest record of a queue. -/
def helmTook (s : State) (queue : BitVec 8) (rest : List Words8) : State :=
  let q := getQueue s queue
  setQueue { s with helm := { s.helm with nextSeq := s.helm.nextSeq + 1, pilotClk := Clock.join s.helm.pilotClk (q.fifoClk.headD []) } } queue
    { q with fifo := rest, fifoClk := q.fifoClk.tail, lastSeq := BitVec.ofNat 48 s.helm.nextSeq }

/-- The record that the helm has taken, under the next sequence number. -/
def takenRecord (s : State) (queue : BitVec 8) (w : Words8) : RecordState :=
  newRecord s.helm.nextSeq queue (getQueue s queue).owner (getQueue s queue).prio w 0xFFF s.helm.nextSeq 0 ((getQueue s queue).fifoClk.headD [])

/-- What happens before the oldest record of a queue is at its homes (R224). -/
def readHome (s : State) (queue : BitVec 8) : Bool := allHome s (Clock.join (pilotClock s) ((getQueue s queue).fifoClk.headD []))

section

variable {s : State} {queue : BitVec 8} {w : Words8} {rest : List Words8} {kind : Nat → Bool}

theorem helmRead_waits (hq : (getQueue s queue).fifo = w :: rest) (hk : bits w.w0 63 60 = 5) (hhome : readHome s queue = false) :
    helmRead s queue kind = .next s := by
  unfold helmRead
  extract_lets
  split
  · rfl
  · next h =>
    obtain ⟨rfl, rfl⟩ := List.cons.inj (hq.symm.trans h)
    split
    · rfl
    · exact if_pos ⟨hk, hhome⟩

variable (hq : (getQueue s queue).fifo = w :: rest) (hup : s.board.phase = .running) (hruns : helmRuns s = true) (hkind : kind (bits w.w0 63 60) = true)
  (hhome : bits w.w0 63 60 = 5 → readHome s queue = true)

include hq hup hruns hkind hhome

/-- The helm takes the record: what it does with it, its reason and its kind decide. -/
theorem helmRead_takes : helmRead s queue kind = if readReason s (getQueue s queue) w = 0 then
      if bits w.w0 63 60 = 5 then
        (readArray (helmTook s queue rest) (getQueue s queue).owner w 0).elim
          (fun l => .next (settle (acceptArray (moveRecord (helmTook s queue rest) (takenRecord s queue w) .accepted 0 0xFFF) (takenRecord s queue w) l)))
          fun x => .next (moveRecord (reportWalks (helmTook s queue rest) (getQueue s queue).owner w.w2 (graphLength w)) (takenRecord s queue w) .rejected x.1 x.2)
      else .next (settle (moveRecord (helmTook s queue rest) (takenRecord s queue w) .accepted 0 0xFFF))
    else .next (moveRecord (helmTook s queue rest) (takenRecord s queue w) .rejected (readReason s (getQueue s queue) w) 0xFFF) := by
  have hgo : (!(poweredUp s && helmRuns s && kind (bits w.w0 63 60))) = false := by rw [poweredUp_iff.mpr hup, hruns, hkind]; rfl
  have hready : ¬(bits w.w0 63 60 = 5 ∧ readHome s queue = false) := fun h => by simp [hhome h.1] at h
  have hsame : readReason (helmTook s queue rest) (getQueue s queue) w = readReason s (getQueue s queue) w := rfl
  unfold helmRead
  extract_lets q seq clk
  split
  · next h => cases hq.symm.trans h
  · next h =>
    obtain ⟨rfl, rfl⟩ := List.cons.inj (hq.symm.trans h)
    rw [hgo, if_neg Bool.false_ne_true]
    refine (if_neg hready).trans ?_
    extract_lets s₂ r
    split
    · next he =>
      refine Eq.trans ?_ (if_pos (hsame.symm.trans he)).symm
      split
      · split
        · next hx =>
          have hx : readArray (helmTook s queue rest) (getQueue s queue).owner w 0 = _ := hx
          rw [hx]
          rfl
        · next hx =>
          have hx : readArray (helmTook s queue rest) (getQueue s queue).owner w 0 = _ := hx
          rw [hx]
          rfl
      · rfl
    · next he => exact (if_neg fun h => he (hsame.trans h)).symm

theorem helmRead_rejects (he : readReason s (getQueue s queue) w ≠ 0) :
    helmRead s queue kind = .next (moveRecord (helmTook s queue rest) (takenRecord s queue w) .rejected (readReason s (getQueue s queue) w) 0xFFF) := by
  rw [helmRead_takes hq hup hruns hkind hhome, if_neg he]

theorem helmRead_accepts (he : readReason s (getQueue s queue) w = 0) (hk : bits w.w0 63 60 ≠ 5) :
    helmRead s queue kind = .next (settle (moveRecord (helmTook s queue rest) (takenRecord s queue w) .accepted 0 0xFFF)) := by
  rw [helmRead_takes hq hup hruns hkind hhome, if_pos he, if_neg hk]

end

/-! ### What the helm's reading leaves -/

section

variable {s : State} {queue : BitVec 8} {w : Words8} {rest : List Words8}

@[simp] theorem helmTook_records : (helmTook s queue rest).records = s.records := rfl

@[simp] theorem helmTook_nextSeq : (helmTook s queue rest).helm.nextSeq = s.helm.nextSeq + 1 := rfl

theorem getQueue_helmTook : getQueue (helmTook s queue rest) queue
    = { getQueue s queue with fifo := rest, fifoClk := (getQueue s queue).fifoClk.tail, lastSeq := BitVec.ofNat 48 s.helm.nextSeq } :=
  getQueue_setQueue _ _ _

/-- A record that breaks no rule names no dependence outside an array (R31, R33). -/
theorem deps_of_recordReason {enclosing : Nat} (h : recordReason w none enclosing = 0) : bits w.w0 51 40 = 0xFFF ∧ bits w.w0 39 28 = 0xFFF := by
  have hd : depsGood w none = true := by
    by_contra hd
    simp only [recordReason] at h
    split_ifs at h <;> simp_all
  simp only [depsGood, Bool.or_false, Bool.and_eq_true, beq_iff_eq] at hd
  exact hd.1

/-- A record of an unknown kind has the reason 0x01, where its queue and owner give none before (R33). -/
theorem readReason_ne_of_unknown {q : QueueState} (h : 6 ≤ bits w.w0 63 60) : readReason s q w ≠ 0 := by
  unfold readReason recordReason
  rw [if_pos h]
  split
  · decide
  · split
    · decide
    · decide

theorem recordReason_of_readReason {q : QueueState} (h : readReason s q w = 0) : recordReason w none 0 = 0 := by
  unfold readReason at h
  split at h
  · exact absurd h (by decide)
  · split at h
    · exact absurd h (by decide)
    · exact h

/-- The entry of a state change is that of the record after it: what it names of the record, the change keeps. -/
theorem logEntry_bytes_moved {u : State} (hboard : u.board = s.board) {r : RecordState} {phase : RecPhase} {reason : BitVec 8} {index : BitVec 12} :
    (logEntry s (r.moved phase reason) phase reason index 0).bytes = (logEntry u r phase reason index 0).bytes := by
  simp only [LogEntry.bytes, logEntry, RecordState.moved, RecordState.softTag, RecordState.kind, hboard]

/-- What the helm's taking of a record leaves: the record under its number with its state and reason, its entry in the logbook, and the rest. -/
structure TakenAs (s t : State) (queue : BitVec 8) (w : Words8) (rest : List Words8) (phase : RecPhase) (reason : BitVec 8) : Prop where
  record : AMap.find t.records s.helm.nextSeq = some ((takenRecord s queue w).moved phase reason)
  others : ∀ j, j ≠ s.helm.nextSeq → AMap.find t.records j = AMap.find s.records j
  nextSeq : t.helm.nextSeq = s.helm.nextSeq + 1
  queued : getQueue t queue = getQueue (helmTook s queue rest) queue
  logHead : t.helm.logHead = s.helm.logHead + 1
  entry : t.bytesAt 32 (logSlot s s.helm.logHead) = (logEntry s ((takenRecord s queue w).moved phase reason) phase reason 0xFFF 0).bytes

theorem takenAs_moveRecord (hi : Inv s) (hruns : helmRuns s = true) {phase : RecPhase} (hphase : phase = .rejected ∨ phase.final = false)
    (reason : BitVec 8) :
    TakenAs s (moveRecord (helmTook s queue rest) (takenRecord s queue w) phase reason 0xFFF) queue w rest phase reason := by
  have hrecords : (moveRecord (helmTook s queue rest) (takenRecord s queue w) phase reason 0xFFF).records
      = AMap.set s.records s.helm.nextSeq ((takenRecord s queue w).moved phase reason) :=
    moveRecord_records.trans (moving_records_top rfl)
  have hlog := moveRecord_of_runs (s := helmTook s queue rest) (r := takenRecord s queue w) (reason := reason) (index := 0xFFF) hruns hphase
  have hwf : Memory.wf (moving (helmTook s queue rest) (takenRecord s queue w) phase reason).mem = true := by
    rw [moving_mem]
    exact hi.1
  have hslot : logSlot (moving (helmTook s queue rest) (takenRecord s queue w) phase reason)
      (moving (helmTook s queue rest) (takenRecord s queue w) phase reason).helm.logHead = logSlot s s.helm.logHead := by
    unfold logSlot
    rw [moving_helm]
    rfl
  exact {
    record := by rw [hrecords, AMap.find_set_self]
    others := fun j hj => by rw [hrecords, AMap.find_set_ne _ _ hj]
    nextSeq := by rw [moveRecord_nextSeq, helmTook_nextSeq]
    queued := by unfold getQueue; rw [moveRecord_queues]
    logHead := by rw [hlog, logWrite_logHead, moving_helm]; rfl
    entry := by
      rw [hlog, logEntry_bytes_moved (s := s) rfl]
      exact hslot ▸ bytesAt_logWrite hwf _ }

/-- Where every record is final, the helm moves none but the one it takes, if that is a launch. -/
theorem settle_taken (hfinal : ∀ x ∈ s.records, x.2.phase.final = true) (hk : bits w.w0 63 60 ≤ 3)
    (he : readReason s (getQueue s queue) w = 0) :
    settle (moveRecord (helmTook s queue rest) (takenRecord s queue w) .accepted 0 0xFFF)
      = moveRecord (helmTook s queue rest) (takenRecord s queue w) .accepted 0 0xFFF := by
  obtain ⟨ha, hb⟩ := deps_of_recordReason (recordReason_of_readReason he)
  refine settle_none fun e he => ?_
  rw [moveRecord_records, moving_records_top rfl] at he
  rcases AMap.mem_set he with rfl | he
  · exact autoStep_of_launch hk ha hb
  · exact autoStep_of_final (hfinal e he)

end

end Sys2Proof.Machine

namespace Sys2Proof

open Sys2Proof.Machine Sys2Proof.Safety

/-- Settles O32: each step changes the one queue, or takes the record, by the branch that its conditions name; of what a record that is taken leaves, the
logbook's slot is the only byte. -/
theorem queuesAndRecords : Obligations.QueuesAndRecords := by
  unfold Obligations.QueuesAndRecords
  refine ⟨fun s queue off size rec v => ?_, fun s queue w rest => ?_⟩
  · intro q prio owner good Only
    refine ⟨fun ⟨hsize, hoff, hroom, hup⟩ => exists_onlyQueue (exec_submitRecord_takes hsize hoff hroom hup),
      fun h => exists_onlyQueue (exec_submitRecord_discards h), fun hen hlive => exists_onlyQueue (exec_qcfgWrite_changes hen hlive),
      fun h => exists_onlyQueue (exec_qcfgWrite_keeps h)⟩
  · intro q k seq e home Reads hi hq hup hruns hfinal
    have hreads : ∀ {x t p}, exec x s = .next t → TakenAs s t queue w rest p (if p = .rejected then e else 0) → Reads x p := fun hx ht =>
      ⟨_, _, hx, ht.record, rfl, rfl, rfl, rfl, rfl, rfl, rfl, rfl, ht.others, ht.nextSeq, by rw [ht.queued, getQueue_helmTook],
        by rw [ht.queued, getQueue_helmTook], ht.logHead, ht.entry⟩
    have hrejects : ∀ {x kind}, exec x s = helmRead s queue kind → kind k = true → (k = 5 → home = true) → e ≠ 0 → Reads x .rejected :=
      fun hx hkind hhome he => hreads (hx.trans (helmRead_rejects hq hup hruns hkind hhome he)) (takenAs_moveRecord hi hruns (.inl rfl) e)
    have hlaunch : ∀ {x kind}, exec x s = helmRead s queue kind → kind k = true → k ≤ 3 → Reads x (if e = 0 then .accepted else .rejected) := by
      intro x kind hx hkind hk
      split
      · next he =>
        refine hreads ((hx.trans (helmRead_accepts hq hup hruns hkind (fun h => by omega) he (by omega))).trans (congrArg _ (settle_taken hfinal hk he))) ?_
        exact takenAs_moveRecord hi hruns (.inr rfl) 0
      · next he => exact hrejects hx hkind (fun h => by omega) he
    refine ⟨fun hk => hlaunch (x := .crew queue) (kind := (· == 0)) rfl (by simp [hk]) (by omega),
      fun hk => hlaunch (x := .gang queue) (kind := (· == 1)) rfl (by simp [hk]) (by omega),
      fun hk => hlaunch (x := .voyage queue) (kind := (· == 2)) rfl (by simp [hk]) (by omega),
      fun hk => hlaunch (x := .stream queue) (kind := (· == 3)) rfl (by simp [hk]) (by omega),
      fun hk he => hrejects (x := .wait queue) (kind := (· == 4)) rfl (by simp [hk]) (fun h => by omega) he,
      fun hk he hhome => hrejects (x := .graph queue) (kind := (· == 5)) rfl (by simp [hk]) (fun _ => hhome) he,
      fun hk hhome => (helmRead_waits hq hk hhome : helmRead s queue (· == 5) = .next s), fun hk => ?_⟩
    have he : e ≠ 0 := readReason_ne_of_unknown hk
    exact ⟨he, hrejects (x := .unknownKind queue) (kind := fun k => decide (6 ≤ k)) rfl (by simp [hk]) (fun h => by omega) he⟩

end Sys2Proof
end

section
/-! ## What stops with a record (R39, R48)
Stopping a record's work goes over its crews, voyages and sections. `Stopping` says what all of that leaves of a state, so that an abort is a chain of
steps that each keep it. -/

namespace Sys2Proof.Machine

open Safety

/-! ### Maps whose values change -/

theorem AMap.find_map {α β : Type} (g : Nat × α → Nat × β) (hkey : ∀ e, (g e).1 = e.1) (m : AMap α) (k : Nat) :
    AMap.find (m.map g) k = (AMap.find m k).map fun v => (g (k, v)).2 := by
  induction m with
  | nil => rfl
  | cons e m ih =>
    obtain ⟨j, v⟩ := e
    have hj : (g (j, v)).1 = j := hkey (j, v)
    by_cases h : j = k
    · subst h
      simp [AMap.find, hj]
    · simp [AMap.find, hj, h, ih]

theorem AMap.getD_of_find {α : Type} {m : AMap α} {k : Nat} {v d : α} (h : AMap.find m k = some v) : AMap.getD m k d = v := by
  simp [AMap.getD, h]

theorem AMap.getD_of_find_none {α : Type} {m : AMap α} {k : Nat} {d : α} (h : AMap.find m k = none) : AMap.getD m k d = d := by
  simp [AMap.getD, h]

/-- A thread that lives is listed. -/
theorem find_of_live {s : State} {j : Nat} (hlive : (getThread s j).live = true) : AMap.find s.threads j = some (getThread s j) := by
  cases hf : AMap.find s.threads j with
  | none => exact absurd hlive (by simp [getThread, AMap.getD_of_find_none hf])
  | some th => rw [getThread, AMap.getD_of_find hf]

/-! ### The relation -/

/-- What stopping work leaves of a state: threads stop, voyages and sections go, crews and records stay. -/
structure Stopping (s t : State) : Prop where
  own : t.own = s.own
  helm : t.helm = s.helm
  thread : ∀ j, (getThread t j).live = (getThread s j).live ∧ (getThread t j).crew = (getThread s j).crew
    ∧ ((getThread s j).stopped = true → (getThread t j).stopped = true)
  crew : ∀ c, (getCrew t c).map (·.record) = (getCrew s c).map (·.record)
  voyage : ∀ c v, (getCluster t c).voyage = some v → (getCluster s c).voyage = some v
  images : ∀ c, ∀ i ∈ (getCluster t c).images, ∃ i' ∈ (getCluster s c).images, i'.2.launch = i.2.launch
  records : t.records = s.records

section

variable {s₀ s t u : State} {p : Prop} [Decidable p]

theorem Stopping.refl (s : State) : Stopping s s where
  own := rfl
  helm := rfl
  thread _ := ⟨rfl, rfl, id⟩
  crew _ := rfl
  voyage _ _ := id
  images _ i hi := ⟨i, hi, rfl⟩
  records := rfl

theorem Stopping.trans (h : Stopping s t) (h' : Stopping t u) : Stopping s u where
  own := h'.own.trans h.own
  helm := h'.helm.trans h.helm
  thread j := ⟨(h'.thread j).1.trans (h.thread j).1, (h'.thread j).2.1.trans (h.thread j).2.1, fun hs => (h'.thread j).2.2 ((h.thread j).2.2 hs)⟩
  crew c := (h'.crew c).trans (h.crew c)
  voyage c v hv := h.voyage c v (h'.voyage c v hv)
  images c i hi := by
    obtain ⟨i', hi', he'⟩ := h'.images c i hi
    obtain ⟨i'', hi'', he''⟩ := h.images c i' hi'
    exact ⟨i'', hi'', he''.trans he'⟩
  records := h'.records.trans h.records

/-- A change of the other parts of the state. -/
theorem Stopping.same (h : Stopping s₀ s) (own : t.own = s.own := by rfl) (helm : t.helm = s.helm := by rfl)
    (threads : t.threads = s.threads := by rfl) (crews : t.crews = s.crews := by rfl) (clusters : t.clusters = s.clusters := by rfl)
    (records : t.records = s.records := by rfl) : Stopping s₀ t :=
  h.trans
    { own, helm, records
      thread := fun j => by simp [getThread, threads]
      crew := fun c => by simp [getCrew, crews]
      voyage := fun c v hv => by simpa [getCluster, clusters] using hv
      images := fun c i hi => ⟨i, by simpa [getCluster, clusters] using hi, rfl⟩ }

/-- A cluster that keeps no voyage and no section but those it had. -/
theorem Stopping.withCluster {c : Nat} {v : ClusterState} (h : Stopping s₀ s)
    (hv : ∀ y, v.voyage = some y → (getCluster s c).voyage = some y)
    (hi : ∀ i ∈ v.images, ∃ i' ∈ (getCluster s c).images, i'.2.launch = i.2.launch) : Stopping s₀ (setCluster s c v) := by
  refine h.trans ⟨rfl, rfl, fun _ => ⟨rfl, rfl, id⟩, fun _ => rfl, ?_, ?_, rfl⟩
  · intro d y hy
    by_cases hd : d = c
    · subst hd
      exact hv y (by simpa using hy)
    · rwa [getCluster, setCluster, AMap.getD_set_ne _ _ _ hd] at hy
  · intro d i hid
    by_cases hd : d = c
    · subst hd
      exact hi i (by simpa using hid)
    · rw [getCluster, setCluster, AMap.getD_set_ne _ _ _ hd] at hid
      exact ⟨i, hid, rfl⟩

/-- Crews that keep their records. -/
theorem Stopping.withCrews {g : Nat × Crew → Nat × Crew} (h : Stopping s₀ s) (crews : t.crews = s.crews.map g)
    (hkey : ∀ e, (g e).1 = e.1) (hg : ∀ e, (g e).2.record = e.2.record) (own : t.own = s.own := by rfl) (helm : t.helm = s.helm := by rfl)
    (threads : t.threads = s.threads := by rfl) (clusters : t.clusters = s.clusters := by rfl)
    (records : t.records = s.records := by rfl) : Stopping s₀ t :=
  h.trans
    { own, helm, records
      thread := fun j => by simp [getThread, threads]
      crew := fun c => by
        rw [getCrew, getCrew, crews, AMap.find_map g hkey, Option.map_map]
        exact congrArg (Option.map · _) (funext fun w => hg (c, w))
      voyage := fun c v hv => by simpa [getCluster, clusters] using hv
      images := fun c i hi => ⟨i, by simpa [getCluster, clusters] using hi, rfl⟩ }

/-- Threads that stay alive in their crews, and stopped where they were. -/
theorem Stopping.withThreads {g : Nat × ThreadState → Nat × ThreadState} (h : Stopping s₀ s) (threads : t.threads = s.threads.map g)
    (hkey : ∀ e, (g e).1 = e.1) (hg : ∀ e, (g e).2.live = e.2.live ∧ (g e).2.crew = e.2.crew ∧ (e.2.stopped = true → (g e).2.stopped = true))
    (own : t.own = s.own := by rfl) (helm : t.helm = s.helm := by rfl)
    (crews : t.crews = s.crews := by rfl) (clusters : t.clusters = s.clusters := by rfl)
    (records : t.records = s.records := by rfl) : Stopping s₀ t :=
  h.trans
    { own, helm, records
      thread := fun j => by
        rw [getThread, getThread, threads, AMap.getD, AMap.find_map g hkey, AMap.getD]
        cases AMap.find s.threads j with
        | none => exact ⟨rfl, rfl, id⟩
        | some th => exact hg (j, th)
      crew := fun c => by simp [getCrew, crews]
      voyage := fun c v hv => by simpa [getCluster, clusters] using hv
      images := fun c i hi => ⟨i, by simpa [getCluster, clusters] using hi, rfl⟩ }

theorem Stopping.ite (hs : Stopping s₀ s) (ht : Stopping s₀ t) : Stopping s₀ (if p then s else t) := by
  split
  · exact hs
  · exact ht

theorem Stopping.when (ht : Stopping s₀ s → Stopping s₀ t) (hs : Stopping s₀ s) : Stopping s₀ (if p then t else s) := .ite (ht hs) hs

theorem Stopping.foldl {α : Type} {f : State → α → State} (hf : ∀ s x, Stopping s₀ s → Stopping s₀ (f s x)) {l : List α} :
    ∀ {s : State}, Stopping s₀ s → Stopping s₀ (l.foldl f s) := by
  induction l with
  | nil => exact id
  | cons x l ih => exact fun h => ih (hf _ x h)

/-! ### The steps of a stop -/

theorem Stopping.setCounter {c n v} (h : Stopping s₀ s) : Stopping s₀ (setCounter s c n v) :=
  h.withCluster (fun _ => id) fun i hi => ⟨i, hi, rfl⟩

theorem Stopping.unholdCores {c n} (h : Stopping s₀ s) : Stopping s₀ (unholdCores s c n) :=
  h.withCrews rfl (fun e => by dsimp only; split <;> rfl) (fun e => by dsimp only; split <;> rfl)

theorem Stopping.endDrain {c n} (h : Stopping s₀ s) : Stopping s₀ (endDrain s c n) := h.setCounter.unholdCores

theorem Stopping.counterDone {c n count clock} (h : Stopping s₀ s) : Stopping s₀ (counterDone s c n count clock) :=
  .ite h.setCounter.endDrain h.setCounter

theorem Stopping.recount {c n} (h : Stopping s₀ s) : Stopping s₀ (recount s c n) :=
  .ite (.ite h.setCounter.endDrain h.setCounter) h.setCounter.unholdCores

theorem Stopping.recountAll {c} (h : Stopping s₀ s) : Stopping s₀ (recountAll s c) := .foldl (fun _ _ h => h.recount) h

theorem Stopping.dropQueued {k tags} (h : Stopping s₀ s) : Stopping s₀ (dropQueued s k tags) :=
  .foldl (fun _ _ h => .ite h.counterDone h) h.same

theorem Stopping.leaveCells {c h0 ps} (h : Stopping s₀ s) : Stopping s₀ (leaveCells s c h0 ps) := h.same

theorem Stopping.evictQuiet {c} (h : Stopping s₀ s) : Stopping s₀ (evictQuiet s c) :=
  .foldl (fun _ _ h => h.leaveCells) (h.withCluster (fun _ => id) fun i hi => ⟨i, List.mem_of_mem_filter hi, rfl⟩)

theorem Stopping.setServers {c new} (h : Stopping s₀ s) (hv : ∀ y, new.voyage = some y → (getCluster s c).voyage = some y)
    (hi : ∀ i ∈ new.images, ∃ i' ∈ (getCluster s c).images, i'.2.launch = i.2.launch) : Stopping s₀ (setServers s c new) := by
  have hset : Stopping s₀
      (setCluster s c (if quietened (getCluster s c) new then { new with loads := new.loads.map fun x => { x with deferred := false } } else new)) :=
    h.withCluster (by split <;> exact hv) (by split <;> exact hi)
  exact .ite hset.evictQuiet hset

theorem stopping_setCluster {c : Nat} {v w : ClusterState} (hv : w.voyage = v.voyage) (hi : w.images = v.images) :
    Stopping (Machine.setCluster s c v) (Machine.setCluster s c w) := by
  have hset : Machine.setCluster s c w = Machine.setCluster (Machine.setCluster s c v) c w := by simp [Machine.setCluster, AMap.set_set]
  rw [hset]
  refine (Stopping.refl _).withCluster ?_ ?_ <;> rw [getCluster_setCluster]
  · exact fun _ hy => hv ▸ hy
  · exact fun i h => ⟨i, hi ▸ h, rfl⟩

/-- Writing a cluster with its images changes no more than writing it. -/
theorem setServers_after (s : State) (c : Nat) (new : ClusterState) : Stopping (Machine.setCluster s c new) (setServers s c new) :=
  .when (fun h => h.evictQuiet) (stopping_setCluster (by split <;> rfl) (by split <;> rfl))

theorem Stopping.dropCalls {c tags} (h : Stopping s₀ s) : Stopping s₀ (dropCalls s c tags) := by
  refine h.setServers (fun _ => id) fun i hi => ?_
  obtain ⟨i', hi', rfl⟩ := List.mem_map.mp hi
  exact ⟨i', hi', rfl⟩

theorem Stopping.dropWaiters {tags} (h : Stopping s₀ s) : Stopping s₀ (dropWaiters s tags) := h.same
theorem Stopping.forgetWaiters {f} (h : Stopping s₀ s) : Stopping s₀ (forgetWaiters s f) := h.same
theorem Stopping.spoilAgents {agents within} (h : Stopping s₀ s) : Stopping s₀ (spoilAgents s agents within) := h.same
theorem Stopping.spoilWork {q} (h : Stopping s₀ s) : Stopping s₀ (spoilWork s q) := h.spoilAgents
theorem Stopping.scrambleBays {c} (h : Stopping s₀ s) : Stopping s₀ (scrambleBays s c) := .foldl (fun _ _ h => h.same) h
theorem Stopping.spoil {ranges} (h : Stopping s₀ s) : Stopping s₀ (spoil s ranges) := h.same
theorem Stopping.putBytes {agent a bs} (h : Stopping s₀ s) : Stopping s₀ (putBytes s agent a bs) := h.same
theorem Stopping.forgetBays {c} (h : Stopping s₀ s) : Stopping s₀ (forgetBays s c) := h.scrambleBays.spoil.putBytes

theorem Stopping.orphanTasks {c} (h : Stopping s₀ s) : Stopping s₀ (orphanTasks s c) := by
  let g := fun (e : Nat × ThreadState) => if tagCluster e.1 == c then (e.1, { e.2 with sighting := e.2.sighting.bind HeldSighting.orphan }) else e
  have hthreads : Stopping s₀ { s with threads := s.threads.map g } :=
    h.withThreads rfl (fun e => by dsimp only [g]; split <;> rfl) fun e => by dsimp only [g]; split <;> exact ⟨rfl, rfl, id⟩
  exact hthreads.withCrews rfl (fun _ => rfl) (fun _ => rfl)

theorem Stopping.voyageOver {c v} (h : Stopping s₀ s) : Stopping s₀ (voyageOver s c v) := h.spoilAgents.forgetWaiters.orphanTasks

/-- A cluster without its voyage. -/
theorem Stopping.withoutVoyage {c} (h : Stopping s₀ s) : Stopping s₀ (setCluster s c { getCluster s c with voyage := none }) :=
  h.withCluster (fun _ hy => absurd hy.symm (Option.some_ne_none _)) fun i hi => ⟨i, hi, rfl⟩

theorem Stopping.dropVoyage {c v} (h : Stopping s₀ s) : Stopping s₀ (dropVoyage s c v) :=
  .ite h.withoutVoyage.voyageOver.forgetBays h.withoutVoyage.voyageOver

/-- The voyages on clusters that a condition names end, without their saves. -/
theorem Stopping.dropLive {l : List (Nat × Voyage)} (h : Stopping s₀ s) :
    Stopping s₀ (l.foldl (fun s e => Machine.dropVoyage s e.1 e.2) s) := .foldl (fun _ _ h => h.dropVoyage) h

theorem Stopping.dropVoyages {f} (h : Stopping s₀ s) : Stopping s₀ (dropVoyages s f) := by
  unfold Machine.dropVoyages
  exact .foldl (fun _ _ h => h.voyageOver.forgetBays) (h.dropLive.same)

/-- A crew that keeps its record. -/
theorem Stopping.setCrew {c v} (h : Stopping s₀ s) (hv : (getCrew s₀ c).map (·.record) = some v.record) :
    Stopping s₀ (setCrew s c v) where
  own := h.own
  helm := h.helm
  thread := h.thread
  crew d := by
    by_cases hd : d = c
    · subst hd
      rw [getCrew_setCrew, hv]
      rfl
    · rw [getCrew, Machine.setCrew, AMap.find_set_ne _ _ hd]
      exact h.crew d
  voyage := h.voyage
  images := h.images
  records := h.records

/-- The threads of a crew stop. -/
def stopThreads (s : State) (c : Nat) : State :=
  { s with threads := s.threads.map fun e => if e.2.live && e.2.crew == c then (e.1, { e.2 with stopped := true, deferred := [] }) else e }

theorem Stopping.stopThreads {c} (h : Stopping s₀ s) : Stopping s₀ (stopThreads s c) :=
  h.withThreads rfl (fun e => by dsimp only; split <;> rfl) fun e => by
    dsimp only
    split
    · exact ⟨rfl, rfl, fun _ => rfl⟩
    · exact ⟨rfl, rfl, id⟩

theorem stopThreads_stopped {c j : Nat} (hlive : (getThread s j).live = true) (hcrew : (getThread s j).crew = c) :
    (getThread (stopThreads s c) j).stopped = true := by
  rw [getThread, stopThreads, AMap.getD, AMap.find_map _ (fun e => by dsimp only; split <;> rfl), find_of_live hlive]
  simp [hlive, hcrew]

theorem stopCrew_eq {c : Nat} {w : Crew} (hw : getCrew s c = some w) : stopCrew s c =
    let tags := crewTags s c
    let u := w.cores.foldl (fun s k => dropQueued s k tags)
      (if w.phase == .saved then stopThreads s c else forgetWaiters (stopThreads s c) (w.waits tags))
    let u := setCrew (dropVoyages (dropCalls (dropWaiters u tags) w.cluster tags) fun v => v.crew == some c) c
      { w with phase := .aborting, save := none, event0A := none, event0B := none }
    if w.phase == .saved && savedHere u w.cluster w then recountAll u w.cluster else u := by
  rw [stopCrew, hw]
  rfl

/-- What follows when a crew's threads have stopped. -/
theorem stopCrew_after {c : Nat} {w : Crew} (hw : getCrew s c = some w) (h : Stopping s₀ (stopThreads s c))
    (hrec : (getCrew s₀ c).map (·.record) = some w.record) : Stopping s₀ (stopCrew s c) := by
  rw [stopCrew_eq hw]
  exact .when (fun h => h.recountAll)
    (.setCrew (.dropVoyages (.dropCalls (.dropWaiters (.foldl (fun _ _ h => h.dropQueued) (.ite h h.forgetWaiters))))) hrec)

theorem Stopping.stopCrew {c} (h : Stopping s₀ s) : Stopping s₀ (stopCrew s c) := by
  cases hw : getCrew s c with
  | none =>
    rw [Machine.stopCrew, hw]
    exact h
  | some w => exact stopCrew_after hw h.stopThreads ((h.crew c).symm.trans (congrArg (Option.map _) hw))

/-- The threads of a stopped crew are stopped. -/
theorem stopCrew_stopped {c j : Nat} {w : Crew} (hw : getCrew s c = some w) (hlive : (getThread s j).live = true) (hcrew : (getThread s j).crew = c) :
    (getThread (stopCrew s c) j).stopped = true :=
  ((stopCrew_after hw (.refl _) (congrArg (Option.map _) hw)).thread j).2.2 (stopThreads_stopped hlive hcrew)

/-! ### Voyages and sections of a record -/

/-- A fold that comes past an element: what the element's own step reaches, from what every step keeps, stays reached. -/
theorem foldl_reaches {α : Type} {f : State → α → State} {P Q : State → Prop} {x : α} (hP : ∀ s y, P s → P (f s y)) (hx : ∀ s, P s → Q (f s x))
    (hQ : ∀ s y, Q s → Q (f s y)) {l : List α} (hmem : x ∈ l) : ∀ {s : State}, P s → Q (l.foldl f s) := by
  have hstay : ∀ (l : List α) {s : State}, Q s → Q (l.foldl f s) := by
    intro l
    induction l with
    | nil => exact id
    | cons y l ih => exact fun h => ih (hQ _ y h)
  induction l with
  | nil => exact fun _ => absurd hmem List.not_mem_nil
  | cons y l ih =>
    intro s h
    rcases List.mem_cons.mp hmem with rfl | hmem
    · exact hstay l (hx s h)
    · exact ih hmem (hP s y h)

theorem dropVoyage_voyage (s : State) (c : Nat) (v : Voyage) : (getCluster (dropVoyage s c v) c).voyage = none := by
  have hgone : Stopping (setCluster s c { getCluster s c with voyage := none }) (dropVoyage s c v) := .ite (Stopping.refl _).voyageOver.forgetBays
    (Stopping.refl _).voyageOver
  refine Option.eq_none_iff_forall_ne_some.mpr fun y hy => ?_
  simpa using hgone.voyage c y hy

theorem Stopping.voyage_none {c : Nat} (h : Stopping s t) (hs : (getCluster s c).voyage = none) : (getCluster t c).voyage = none :=
  Option.eq_none_iff_forall_ne_some.mpr fun y hy => Option.some_ne_none y ((h.voyage c y hy).symm.trans hs)

theorem getCluster_mem {c : Nat} (h : getCluster s c ≠ {}) : (c, getCluster s c) ∈ s.clusters := by
  cases hf : AMap.find s.clusters c with
  | none => exact absurd (AMap.getD_of_find_none hf) h
  | some cl => exact getCluster.eq_1 s c ▸ AMap.getD_of_find hf ▸ AMap.mem_of_find hf

/-- The voyages that a condition names, with their clusters. -/
def voyagesThat (s : State) (f : Voyage → Bool) : List (Nat × Voyage) :=
  s.clusters.filterMap fun e => match e.2.voyage with | some v => if f v then some (e.1, v) else none | none => none

theorem mem_voyagesThat {f : Voyage → Bool} {c : Nat} {v : Voyage} (hv : (getCluster s c).voyage = some v) (hf : f v = true) : (c, v) ∈ voyagesThat s f :=
  List.mem_filterMap.mpr ⟨_, getCluster_mem (c := c) fun h => by simp [h] at hv, by simp [hv, hf]⟩

/-- After the voyages themselves, their saves go. -/
theorem dropVoyages_after (s : State) (f : Voyage → Bool) : Stopping ((voyagesThat s f).foldl (fun s e => dropVoyage s e.1 e.2) s) (dropVoyages s f) := by
  unfold dropVoyages
  exact .foldl (fun _ _ h => h.voyageOver.forgetBays) (Stopping.refl _).same

/-- No voyage that the condition names goes on. -/
theorem dropVoyages_voyage {f : Voyage → Bool} {c : Nat} {v : Voyage} (hv : (getCluster (dropVoyages s f) c).voyage = some v) : f v = false := by
  by_contra hf
  have hs := (Stopping.refl s).dropVoyages.voyage c v hv
  have hmem := mem_voyagesThat hs (Bool.eq_true_of_not_eq_false hf)
  have hnone : (getCluster ((voyagesThat s f).foldl (fun s e => dropVoyage s e.1 e.2) s) c).voyage = none :=
    foldl_reaches (x := (c, v)) (f := fun s e => dropVoyage s e.1 e.2) (P := fun _ => True) (Q := fun s => (getCluster s c).voyage = none) (fun _ _ _ => trivial) (fun s _ => dropVoyage_voyage s c v)
      (fun _ _ h => (Stopping.refl _).dropVoyage.voyage_none h) hmem trivial
  exact Option.some_ne_none v (hv.symm.trans ((dropVoyages_after s f).voyage_none hnone))

/-- A cluster without the sections of a record and their loads. -/
def sectionsGone (seq c : Nat) (s : State) : State :=
  setServers s c { getCluster s c with
    images := (getCluster s c).images.filter fun i => i.2.launch != some seq
    loads := (getCluster s c).loads.filter fun l => l.record != some seq }

/-- A cluster's sections of a record stop, and their cells are left. -/
def stopSectionAt (seq : Nat) (s : State) (c : Nat) : State :=
  ((getCluster s c).images.filter fun i => i.2.launch == some seq).foldl (fun s i => leaveCells s c i.2.h0 i.2.copies) (sectionsGone seq c s)

theorem stopSection_eq (s : State) (seq : Nat) : stopSection s seq =
    let u := forgetWaiters (dropVoyages s fun v => v.record == some seq) (ofSection s seq)
    let u := (u.clusters.map (·.1)).foldl (stopSectionAt seq) u
    { u with frozen := u.frozen.filter fun f => f.image.launch != some seq } := rfl

theorem Stopping.sectionsGone {seq c} (h : Stopping s₀ s) : Stopping s₀ (sectionsGone seq c s) :=
  h.setServers (fun _ => id) fun i hi => ⟨i, List.mem_of_mem_filter hi, rfl⟩

theorem Stopping.stopSectionAt {seq c} (h : Stopping s₀ s) : Stopping s₀ (stopSectionAt seq s c) := .foldl (fun _ _ h => h.leaveCells) h.sectionsGone

theorem Stopping.stopSection {seq} (h : Stopping s₀ s) : Stopping s₀ (stopSection s seq) := by
  rw [stopSection_eq]
  exact .same (s := List.foldl _ _ _) (.foldl (fun _ _ h => h.stopSectionAt) h.dropVoyages.forgetWaiters)

/-- No section of the record is on the cluster. -/
def NoSection (seq c : Nat) (s : State) : Prop := ∀ i ∈ (getCluster s c).images, i.2.launch ≠ some seq

theorem Stopping.noSection {seq c : Nat} (h : Stopping s t) (hs : NoSection seq c s) : NoSection seq c t := fun i hi => by
  obtain ⟨i', hi', he⟩ := h.images c i hi
  exact he ▸ hs i' hi'

theorem sectionsGone_noSection (s : State) (seq c : Nat) : NoSection seq c (sectionsGone seq c s) := by
  refine (setServers_after s c _).noSection fun i hi => ?_
  rw [getCluster_setCluster] at hi
  simpa using (List.mem_filter.mp hi).2

theorem stopSectionAt_noSection (s : State) (seq c : Nat) : NoSection seq c (stopSectionAt seq s c) :=
  Stopping.noSection (.foldl (fun _ _ h => h.leaveCells) (.refl _)) (sectionsGone_noSection s seq c)

theorem stopSection_noSection (s : State) (seq c : Nat) : NoSection seq c (stopSection s seq) := by
  rw [stopSection_eq]
  extract_lets u v
  have hv : NoSection seq c v := by
    by_cases hc : c ∈ u.clusters.map (·.1)
    · exact foldl_reaches (P := fun _ => True) (fun _ _ _ => trivial) (fun s _ => stopSectionAt_noSection s seq c)
        (fun _ _ h => (Stopping.refl _).stopSectionAt.noSection h) hc trivial
    · have hu : NoSection seq c u := fun i hi => absurd (List.mem_map_of_mem (f := Prod.fst) (getCluster_mem fun h => by simp [h] at hi)) hc
      exact Stopping.noSection (.foldl (fun _ _ h => h.stopSectionAt) (.refl u)) hu
  exact hv

/-- No voyage of the record goes on. -/
theorem stopSection_voyage {seq c : Nat} {v : Voyage} (hv : (getCluster (stopSection s seq) c).voyage = some v) : v.record ≠ some seq := by
  have hgone : Stopping (Machine.dropVoyages s fun v => v.record == some seq) (stopSection s seq) := by
    rw [stopSection_eq]
    exact .same (s := List.foldl _ _ _) (.foldl (fun _ _ h => h.stopSectionAt) (Stopping.refl _).forgetWaiters)
  simpa using dropVoyages_voyage (hgone.voyage c v hv)

/-! ### Records that end -/

/-- The record after an abort with a reason: an ending that it had stays, and only what a stop sets has changed. -/
def RecordState.StoppedAs (reason : BitVec 8) (x y : RecordState) : Prop :=
  y = { x with ending := y.ending, crewsLeft := y.crewsLeft, endClk := y.endClk }
    ∧ (y.ending = x.ending ∨ x.ending = none ∧ y.ending = some (.aborted, reason))

theorem RecordState.StoppedAs.refl (reason : BitVec 8) (x : RecordState) : x.StoppedAs reason x := ⟨rfl, .inl rfl⟩

theorem RecordState.StoppedAs.trans {reason : BitVec 8} {x y z : RecordState} (hxy : x.StoppedAs reason y) (hyz : y.StoppedAs reason z) :
    x.StoppedAs reason z := by
  obtain ⟨hy, hye⟩ := hxy
  obtain ⟨hz, hze⟩ := hyz
  refine ⟨hz.trans (by rw [hy]), ?_⟩
  rcases hze with hze | ⟨hnone, hze⟩
  · rw [hze]
    exact hye
  · rcases hye with hye | ⟨_, hye⟩
    · exact .inr ⟨hye ▸ hnone, hze⟩
    · exact absurd (hye.symm.trans hnone) (Option.some_ne_none _)

/-- All work of a record has stopped since a state. -/
structure Halted (seq : Nat) (s t : State) : Prop where
  thread : ∀ j w, (getThread s j).live = true → getCrew s (getThread s j).crew = some w → w.record = seq → (getThread t j).stopped = true
  voyage : ∀ c v, (getCluster t c).voyage = some v → v.record ≠ some seq
  sections : ∀ c, NoSection seq c t

/-- What an abort with a reason leaves of a state: beside what stops, records that had no ending may have that of an abort. -/
structure Aborting (reason : BitVec 8) (s t : State) : Prop where
  rest : Stopping s { t with records := s.records }
  record : ∀ q x, AMap.find s.records q = some x → ∃ y, AMap.find t.records q = some y ∧ x.StoppedAs reason y

theorem Stopping.aborting {reason : BitVec 8} (h : Stopping s t) : Aborting reason s t where
  rest := ⟨h.own, h.helm, h.thread, h.crew, h.voyage, h.images, rfl⟩
  record _ x hx := ⟨x, h.records ▸ hx, .refl reason x⟩

variable {reason : BitVec 8} {seq q : Nat} {r x : RecordState}

theorem Stopping.withRecords (h : Stopping s t) (l : AMap RecordState) : Stopping { s with records := l } { t with records := l } :=
  ⟨h.own, h.helm, h.thread, h.crew, h.voyage, h.images, rfl⟩

theorem Aborting.trans (h : Aborting reason s t) (h' : Aborting reason t u) : Aborting reason s u where
  rest := h.rest.trans (h'.rest.withRecords s.records)
  record q x hx := by
    obtain ⟨y, hy, hxy⟩ := h.record q x hx
    obtain ⟨z, hz, hyz⟩ := h'.record q y hy
    exact ⟨z, hz, hxy.trans hyz⟩

/-- A record whose work stops: an ending that it has stays. -/
def RecordState.stopAs (r : RecordState) (e : RecPhase × BitVec 8) (ends : Clock) : RecordState :=
  { r with ending := some (r.ending.getD e), nextCrew := r.nextCrew, crewsLeft := 0, endClk := ends }

theorem RecordState.stopAs_stoppedAs (r : RecordState) (reason : BitVec 8) (ends : Clock) : r.StoppedAs reason (r.stopAs (.aborted, reason) ends) := by
  refine ⟨rfl, ?_⟩
  rw [stopAs]
  cases r.ending with
  | none => exact .inr ⟨rfl, rfl⟩
  | some e => exact .inl rfl

/-- The work of a record stops: its crews, its voyages and sections. -/
def stopWork (s : State) (seq : Nat) : State :=
  spoilWork (stopSection (((s.crews.filter fun e => e.2.record == seq).map (·.1)).foldl stopCrew s) seq) seq

theorem stopRecord_eq {phase : RecPhase} (hr : AMap.find s.records seq = some r) (hfinal : r.phase.final = false) :
    stopRecord s seq phase reason = { stopWork s seq with
      records := AMap.set (stopWork s seq).records seq (r.stopAs (phase, reason)
        ((sectionClocks (((s.crews.filter fun e => e.2.record == seq).map (·.1)).foldl stopCrew s) seq).foldl Clock.join r.endClk))
      reserves := (stopWork s seq).reserves.filter fun v => v.record != seq
      preempting := (stopWork s seq).preempting.filter fun v => v.record != seq } := by
  rw [stopRecord, hr]
  dsimp only
  rw [hfinal]
  rfl

theorem Stopping.stopWork {seq} (h : Stopping s₀ s) : Stopping s₀ (stopWork s seq) := (Stopping.foldl (fun _ _ h => h.stopCrew) h).stopSection.spoilWork

theorem halted_stopWork (s : State) (seq : Nat) : Halted seq s (stopWork s seq) where
  thread j w hlive hw hseq := by
    refine ((Stopping.refl _).stopSection.spoilWork.thread j).2.2 ?_
    refine foldl_reaches (x := (getThread s j).crew) (P := Stopping s) (Q := fun u => (getThread u j).stopped = true) (fun _ _ h => h.stopCrew)
      (fun u h => ?_) (fun u _ h => ((Stopping.refl u).stopCrew.thread j).2.2 h) ?_ (.refl s)
    · obtain ⟨w', hw'⟩ : ∃ w', getCrew u (getThread s j).crew = some w' :=
        Option.map_eq_some_iff.mp ((h.crew _).trans (congrArg (Option.map _) hw)) |>.imp fun _ h => h.1
      exact stopCrew_stopped hw' ((h.thread j).1.trans hlive) (h.thread j).2.1
    · exact List.mem_map_of_mem (f := Prod.fst) (List.mem_filter.mpr ⟨AMap.mem_of_find hw, by simpa using hseq⟩)
  voyage c v hv := stopSection_voyage ((Stopping.refl _).spoilWork.voyage c v hv)
  sections c := (Stopping.refl _).spoilWork.noSection (stopSection_noSection _ seq c)

theorem halted_stopRecord {phase : RecPhase} (hr : AMap.find s.records seq = some r) (hfinal : r.phase.final = false) :
    Halted seq s (stopRecord s seq phase reason) := by
  have h := halted_stopWork s seq
  rw [stopRecord_eq hr hfinal]
  exact ⟨h.thread, h.voyage, h.sections⟩

theorem stopRecord_ending {phase : RecPhase} (hr : AMap.find s.records seq = some r) (hfinal : r.phase.final = false) (hend : r.ending = none) :
    ∃ y, AMap.find (stopRecord s seq phase reason).records seq = some y ∧ y.ending = some (phase, reason) := by
  rw [stopRecord_eq hr hfinal]
  exact ⟨_, AMap.find_set_self _ _ _, by simp [RecordState.stopAs, hend]⟩

theorem stopRecord_of_final {phase : RecPhase} (hr : AMap.find s.records seq = some r) (hfinal : r.phase.final = true) :
    stopRecord s seq phase reason = s := by
  rw [stopRecord, hr]
  exact if_pos hfinal

theorem stopRecord_find_ne {phase : RecPhase} (hq : q ≠ seq) : AMap.find (stopRecord s seq phase reason).records q = AMap.find s.records q := by
  cases hr : AMap.find s.records seq with
  | none => rw [stopRecord, hr]
  | some r =>
    cases hfinal : r.phase.final with
    | true => rw [stopRecord_of_final hr hfinal]
    | false =>
      rw [stopRecord_eq hr hfinal]
      exact (AMap.find_set_ne _ _ hq).trans (congrArg (AMap.find · q) (Stopping.refl s).stopWork.records)

theorem aborting_stopRecord : Aborting reason s (stopRecord s seq .aborted reason) := by
  cases hr : AMap.find s.records seq with
  | none =>
    rw [stopRecord, hr]
    exact (Stopping.refl s).aborting
  | some r =>
    cases hfinal : r.phase.final with
    | true =>
      rw [stopRecord_of_final hr hfinal]
      exact (Stopping.refl s).aborting
    | false =>
      refine ⟨?_, fun q x hx => ?_⟩
      · rw [stopRecord_eq hr hfinal]
        have h := (Stopping.refl s).stopWork (seq := seq)
        generalize stopWork s seq = u at h
        exact ⟨h.own, h.helm, h.thread, h.crew, h.voyage, h.images, rfl⟩
      · by_cases hq : q = seq
        · subst hq
          obtain rfl : r = x := Option.some.inj (hr.symm.trans hx)
          rw [stopRecord_eq hr hfinal]
          exact ⟨_, AMap.find_set_self _ _ _, r.stopAs_stoppedAs reason _⟩
        · exact ⟨x, (stopRecord_find_ne hq).trans hx, .refl reason x⟩

/-! ### Aborts of records with their arrays -/

theorem Halted.later (h : Halted seq s t) (h' : Aborting reason t u) : Halted seq s u where
  thread j w hlive hw hseq := (h'.rest.thread j).2.2 (h.thread j w hlive hw hseq)
  voyage c v hv := h.voyage c v (h'.rest.voyage c v hv)
  sections c := h'.rest.noSection (h.sections c)

theorem Halted.earlier (h' : Aborting reason s t) (h : Halted seq t u) : Halted seq s u where
  thread j w hlive hw hseq := by
    obtain ⟨hl, hc, _⟩ := h'.rest.thread j
    obtain ⟨w', hw', he⟩ := Option.map_eq_some_iff.mp ((h'.rest.crew _).trans (congrArg (Option.map _) hw))
    exact h.thread j w' (hl.trans hlive) ((congrArg (getCrew t) hc).trans hw') (he.trans hseq)
  voyage := h.voyage
  sections := h.sections

/-- A record that has no ending yet is aborted. -/
def abortLive (reason : BitVec 8) (s : State) (q : Nat) : State :=
  match AMap.find s.records q with
  | some r => if r.ending.isNone then stopRecord s q .aborted reason else s
  | none => s

theorem abortWork_eq (s : State) (seq : Nat) (reason : BitVec 8) : abortWork s seq reason = (withChildren s 4 seq).foldl (abortLive reason) s := rfl

theorem abortLive_of_live (hr : AMap.find s.records q = some r) (hend : r.ending = none) : abortLive reason s q = stopRecord s q .aborted reason := by
  simp [abortLive, hr, hend]

theorem abortLive_of_ending (hr : AMap.find s.records q = some r) {e : RecPhase × BitVec 8} (hend : r.ending = some e) : abortLive reason s q = s := by
  simp [abortLive, hr, hend]

theorem aborting_abortLive : Aborting reason s (abortLive reason s q) := by
  cases hr : AMap.find s.records q with
  | none =>
    rw [abortLive, hr]
    exact (Stopping.refl s).aborting
  | some r =>
    cases hend : r.ending with
    | none =>
      rw [abortLive_of_live hr hend]
      exact aborting_stopRecord
    | some e =>
      rw [abortLive_of_ending hr hend]
      exact (Stopping.refl s).aborting

theorem Aborting.foldl {f : State → Nat → State} (hf : ∀ s x, Aborting reason s (f s x)) {l : List Nat} :
    ∀ {s t : State}, Aborting reason s t → Aborting reason s (l.foldl f t) := by
  induction l with
  | nil => exact id
  | cons x l ih => exact fun h => ih (h.trans (hf _ x))

theorem aborting_abortWork : Aborting reason s (abortWork s seq reason) :=
  abortWork_eq s seq reason ▸ .foldl (fun _ _ => aborting_abortLive) (Stopping.refl s).aborting

theorem mem_withChildren (s : State) (seq : Nat) : seq ∈ withChildren s 4 seq := List.mem_cons_self

theorem mem_withChildren_of_child (hq : q ∈ childrenOf s seq) : q ∈ withChildren s 4 seq :=
  List.mem_cons_of_mem _ (List.mem_flatMap.mpr ⟨q, hq, List.mem_cons_self⟩)

/-- The record has the ending of an abort. -/
def EndsAborted (reason : BitVec 8) (q : Nat) (s : State) : Prop := ∃ y, AMap.find s.records q = some y ∧ y.ending = some (.aborted, reason)

theorem EndsAborted.later (h : EndsAborted reason q s) (h' : Aborting reason s t) : EndsAborted reason q t := by
  obtain ⟨y, hy, hend⟩ := h
  obtain ⟨z, hz, _, he | ⟨hnone, _⟩⟩ := h'.record q y hy
  · exact ⟨z, hz, he.trans hend⟩
  · exact absurd (hend.symm.trans hnone) (Option.some_ne_none _)

/-- A record whose turn comes in an abort has the abort's ending afterwards. -/
theorem endsAborted_abortLive (hr : AMap.find s₀.records q = some r) (hfinal : r.phase.final = false) (hend : r.ending = none)
    (h : Aborting reason s₀ s) : EndsAborted reason q (abortLive reason s q) := by
  obtain ⟨y, hy, hsame, he | ⟨_, he⟩⟩ := h.record q r hr
  · have hyend := he.trans hend
    rw [abortLive_of_live hy hyend]
    exact stopRecord_ending hy (by rw [hsame]; exact hfinal) hyend
  · rw [abortLive_of_ending hy he]
    exact ⟨y, hy, he⟩

theorem endsAborted_abortWork (hq : q ∈ withChildren s 4 seq) (hr : AMap.find s₀.records q = some r) (hfinal : r.phase.final = false)
    (hend : r.ending = none) (h : Aborting reason s₀ s) : EndsAborted reason q (abortWork s seq reason) :=
  abortWork_eq s seq reason ▸ foldl_reaches (x := q) (f := abortLive reason) (P := Aborting reason s₀) (Q := EndsAborted reason q) (fun _ _ h => h.trans aborting_abortLive)
    (fun _ h => endsAborted_abortLive hr hfinal hend h) (fun _ _ h => h.later aborting_abortLive) hq h

end

end Sys2Proof.Machine
end

section
/-! ## Owner commands (R43, R45–R48) -/

namespace Sys2Proof.Machine

open Safety

section

variable {s : State} {o : BitVec 12} {modes : BitVec 6} {slot : BitVec 6} {v : BitVec 32} {peer : BitVec 3} {op : BitVec 4} {r e : BitVec 3} {x : Instr}
  {k : KeyTransfer} {msg : Word}

@[simp] theorem getOwner_setOwner (s : State) (o : BitVec 12) (w : OwnerState) : getOwner (setOwner s o w) o = w := AMap.getD_set_self _ _ _ _

theorem getOwner_setOwner_ne (s : State) {q o : BitVec 12} (w : OwnerState) (h : q ≠ o) : getOwner (setOwner s o w) q = getOwner s q :=
  AMap.getD_set_ne _ _ _ fun he => h (BitVec.eq_of_toNat_eq he)

/-- A command that ends with a result has ended, and has changed no owner. -/
theorem exists_ownResult (h : exec x s = .next (ownResult s o e)) :
    ∃ t, exec x s = .next t ∧ (t.own.busy = false ∧ t.own.result = e ∧ t.own.statOwner = o) ∧ t.own.owners = s.own.owners :=
  ⟨_, h, ⟨rfl, rfl, rfl⟩, rfl⟩

/-! ### The outcomes of each command -/

theorem existFault_of_live (h : (getOwner s o).phase = .live) : existFault s o = none := by rw [existFault, h]

theorem exec_badOp (hbusy : s.own.busy = false) (hop : op = 0 ∨ 6 < op.toNat) : exec (.badOp op o) s = .next (ownResult s o 1) := by
  refine if_neg ?_
  rintro (h | ⟨hlo, hhi⟩)
  · exact absurd (hbusy.symm.trans h) Bool.false_ne_true
  · rcases hop with rfl | hop
    · exact absurd hlo (by decide)
    · omega

theorem exec_ownerCreate_fails (hbusy : s.own.busy = false) (hf : createFault s o modes = some r) :
    exec (.ownerCreate o modes) s = .next (ownResult s o r) := by
  simp [exec, execOwnerCreate, ownCreate, hbusy, hf]

theorem exec_ownerCreate (hbusy : s.own.busy = false) (hf : createFault s o modes = none) :
    exec (.ownerCreate o modes) s = .next (ownResult (makeOwner (drawKey s) o modes 0 (s.board.keysDrawn + 1)) o 0) := by
  simp [exec, execOwnerCreate, ownCreate, hbusy, hf]

theorem exec_join_fails (hbusy : s.own.busy = false) (hf : createFault s o modes = some r) : exec (.join o modes peer) s = .next (ownResult s o r) := by
  simp [exec, execJoin, ownJoin, hbusy, hf]

theorem exec_join (hbusy : s.own.busy = false) (hf : createFault s o modes = none) :
    exec (.join o modes peer) s = .next (startTransfer s { isJoin := true, owner := o, peer := peer, modes := modes, began := s.board.refclk }) := by
  simp [exec, execJoin, ownJoin, hbusy, hf]

theorem exec_setModes_refused (hbusy : s.own.busy = false) (hmode : modes.getLsbD 3 = false) :
    exec (.setModes o modes) s = .next (ownResult s o 2) := by
  rw [exec, execSetModes, ownSetModes, hbusy, hmode]
  rfl

theorem exec_setModes (hbusy : s.own.busy = false) (hlive : (getOwner s o).phase = .live) (hmode : modes.getLsbD 3 = true) :
    exec (.setModes o modes) s = .next (ownResult (setOwner s o { getOwner s o with modes := modes }) o 0) := by
  simp [exec, execSetModes, ownSetModes, hbusy, hmode, existFault_of_live hlive]

theorem exec_setEventSlot_fails (hbusy : s.own.busy = false) (hf : existFault s o = some r) :
    exec (.setEventSlot o slot v) s = .next (ownResult s o r) := by
  simp [exec, execSetEventSlot, ownSetSlot, hbusy, hf]

/-- With no record that waits, only the slot is set. -/
theorem exec_setEventSlot (hbusy : s.own.busy = false) (hlive : (getOwner s o).phase = .live) (hfinal : ∀ x ∈ s.records, x.2.phase.final = true) :
    exec (.setEventSlot o slot v) s
      = .next (ownResult (setOwner s o { getOwner s o with slots := AMap.set (getOwner s o).slots slot.toNat v }) o 0) := by
  have hset : exec (.setEventSlot o slot v) s
      = .next (settle (ownResult (setOwner s o { getOwner s o with slots := AMap.set (getOwner s o).slots slot.toNat v }) o 0)) := by
    simp [exec, execSetEventSlot, ownSetSlot, hbusy, existFault_of_live hlive]
  exact hset.trans (congrArg Host.Outcome.next (settle_none fun e he => autoStep_of_final (hfinal e he)))

theorem exec_ownerExport_fails (hbusy : s.own.busy = false) (hf : existFault s o = some r) :
    exec (.ownerExport o peer) s = .next (ownResult s o r) := by
  simp [exec, execOwnerExport, ownExport, hbusy, hf]

theorem exec_ownerExport (hbusy : s.own.busy = false) (hlive : (getOwner s o).phase = .live) :
    exec (.ownerExport o peer) s
      = .next (startTransfer s { isJoin := false, owner := o, peer := peer, modes := 0, began := s.board.refclk }) := by
  simp [exec, execOwnerExport, ownExport, hbusy, existFault_of_live hlive]

theorem exec_ownerRetire_fails (hbusy : s.own.busy = false) (hf : existFault s o = some r) :
    exec (.ownerRetire o) s = .next (ownResult s o r) := by
  simp [exec, execOwnerRetire, ownRetire, hbusy, hf]

theorem exec_ownerRetire_starts (hbusy : s.own.busy = false) (hlive : (getOwner s o).phase = .live) :
    exec (.ownerRetire o) s = .next (retireStart s o) := by
  simp [exec, execOwnerRetire, ownRetire, hbusy, existFault_of_live hlive]

/-- With no record and no cluster of the owner left, the retirement ends and the owner is gone. -/
theorem exec_ownerRetire_ends (hbusy : s.own.busy = true) (hphase : (getOwner s o).phase = .retiring) (hstat : s.own.statOwner = o)
    (hrecords : ownerRecords s o = []) (hclusters : ownerClusters s o = []) :
    exec (.ownerRetire o) s = .next (ownResult (dropRequests (setOwner { s with moves := s.moves.filter fun m => m.owner != o } o {})
      (HostNeed.ofOwner o)) o 0) := by
  simp [exec, execOwnerRetire, ownRetire, retireGoesOn, hbusy, hphase, hstat, hrecords, hclusters]

theorem exec_keyTransferTimeout (hk : s.own.transfer = some k) (htime : k.began + 10000000 ≤ s.board.refclk) :
    exec .keyTransferTimeout s = .next (failTransfer s k) := by
  simp [exec, execKeyTransferTimeout, hk, htime]

theorem exec_meridianAccess_matching (hk : s.own.transfer = some k) (howner : k.owner = o) (hpeer : k.peer = peer) :
    exec (.meridianAccess 3 peer o 0 0 msg) s
      = .next (finishTransfer s k (msg.setWidth 8) (keyName s (bits msg 10 8) (bits msg 63 11))) := by
  have hcontrol : exec (.meridianAccess 3 peer o 0 0 msg) s = .next (controlMessage s 3 peer o msg) := rfl
  rw [hcontrol, controlMessage, hk]
  exact congrArg Host.Outcome.next (if_pos ⟨howner, hpeer⟩)

/-- While a command is under way, no other has an effect. -/
theorem exec_owner_busy (hbusy : s.own.busy = true) :
    exec (.ownerCreate o modes) s = .next s ∧ exec (.setModes o modes) s = .next s ∧ exec (.setEventSlot o slot v) s = .next s
      ∧ exec (.ownerExport o peer) s = .next s ∧ exec (.join o modes peer) s = .next s ∧ exec (.badOp op o) s = .next s := by
  refine ⟨?_, ?_, ?_, ?_, ?_, if_pos (.inl hbusy)⟩ <;> exact congrArg Host.Outcome.next (if_pos hbusy)

/-! ### Transfers -/

theorem startTransfer_path (h : pathTo s k.peer.toNat = true) :
    startTransfer s k = { s with own := { s.own with busy := true, statOwner := k.owner, transfer := some k } } := if_pos h

theorem startTransfer_no_path (h : pathTo s k.peer.toNat = false) : startTransfer s k = ownResult s k.owner 5 := if_neg (ne_true_of_eq_false h)

theorem finishTransfer_join {mask : BitVec 8} {key : Nat} (h : k.isJoin = true) : finishTransfer s k mask key
    = ownResult (makeOwner { s with own := { s.own with transfer := none } } k.owner k.modes (mask ||| BitVec.ofNat 8 (2 ^ k.peer.toNat)) key) k.owner 0 :=
  if_pos h

theorem finishTransfer_export {mask : BitVec 8} {key : Nat} (h : k.isJoin = false) : finishTransfer s k mask key
    = ownResult (setOwner { s with own := { s.own with transfer := none } } k.owner
        { getOwner s k.owner with peers := (getOwner s k.owner).peers ||| BitVec.ofNat 8 (2 ^ k.peer.toNat) }) k.owner 0 :=
  if_neg (ne_true_of_eq_false h)

/-! ### The start of a retirement -/

/-- The state in which a retirement aborts the owner's records. -/
def retiring (s : State) (o : BitVec 12) : State :=
  setOwner { s with own := { s.own with busy := true, statOwner := o } } o { getOwner s o with phase := .retiring }

theorem retireStart_eq (s : State) (o : BitVec 12) : retireStart s o = (ownerRecords s o).foldl (fun s q => abortWork s q 0x33) (retiring s o) := rfl

theorem aborting_retireStart (s : State) (o : BitVec 12) : Aborting 0x33 (retiring s o) (retireStart s o) :=
  retireStart_eq s o ▸ .foldl (fun _ _ => aborting_abortWork) (Stopping.refl _).aborting

theorem mem_ownerRecords {q : Nat} {x : RecordState} (hx : AMap.find s.records q = some x) (howner : x.owner = o) (hfinal : x.phase.final = false) :
    q ∈ ownerRecords s o :=
  List.mem_map_of_mem (f := Prod.fst) (List.mem_filter.mpr ⟨AMap.mem_of_find hx, by simp [howner, hfinal]⟩)

theorem endsAborted_retireStart {q : Nat} {x : RecordState} (hx : AMap.find s.records q = some x) (howner : x.owner = o) (hfinal : x.phase.final = false)
    (hend : x.ending = none) : EndsAborted 0x33 q (retireStart s o) :=
  retireStart_eq s o ▸ foldl_reaches (x := q) (f := fun s q => abortWork s q 0x33) (P := Aborting 0x33 (retiring s o)) (Q := EndsAborted 0x33 q)
    (fun _ _ h => h.trans aborting_abortWork) (fun s h => endsAborted_abortWork (s₀ := retiring _ o) (mem_withChildren s q) hx hfinal hend h)
    (fun _ _ h => h.later aborting_abortWork) (mem_ownerRecords hx howner hfinal) (Stopping.refl _).aborting

end

end Sys2Proof.Machine

namespace Sys2Proof

open Sys2Proof.Machine Sys2Proof.Safety

/-- Settles O36: each command's outcome is read off its own code; a retirement's start is a fold of aborts, each of which keeps `Aborting`. -/
theorem ownerCommands : Obligations.OwnerCommands := by
  unfold Obligations.OwnerCommands
  intro s o modes slot v peer op r k msg w Ends Fails Starts
  have hfails : ∀ {x : Instr} {e : BitVec 3}, exec x s = .next (ownResult s o e) → Fails x e := exists_ownResult
  have hstarts : ∀ {x : Instr} {y : KeyTransfer}, exec x s = .next (startTransfer s y) → y.owner = o → y.peer = peer → y.began = s.board.refclk →
      (pathTo s peer.toNat = true → Starts x y.isJoin) ∧ (pathTo s peer.toNat = false → Fails x 5) := by
    rintro x y hx rfl rfl hbegan
    exact ⟨fun hp => ⟨_, y, hx.trans (congrArg _ (startTransfer_path hp)), rfl, rfl, rfl, rfl, rfl, hbegan, rfl⟩,
      fun hp => hfails (hx.trans (congrArg _ (startTransfer_no_path hp)))⟩
  refine ⟨fun hbusy hop => hfails (exec_badOp hbusy hop), fun hbusy hf => ?_,
    fun hbusy hf => ⟨hfails (exec_ownerCreate_fails hbusy hf), hfails (exec_join_fails hbusy hf)⟩, fun hbusy hlive => ?_,
    fun hbusy hmode => hfails (exec_setModes_refused hbusy hmode), fun hbusy hf => ⟨hfails (exec_setEventSlot_fails hbusy hf),
      hfails (exec_ownerRetire_fails hbusy hf), hfails (exec_ownerExport_fails hbusy hf)⟩,
    fun hbusy hphase hstat hrecords hclusters => ⟨_, exec_ownerRetire_ends hbusy hphase hstat hrecords hclusters, ⟨rfl, rfl, rfl⟩,
      getOwner_setOwner _ _ _⟩, fun hbusy => exec_owner_busy hbusy, fun hk howner htime => ⟨_, exec_keyTransferTimeout hk htime, ⟨rfl, rfl, howner⟩, rfl, rfl⟩,
    fun hk howner hpeer => ?_⟩
  · exact ⟨⟨_, exec_ownerCreate hbusy hf, ⟨rfl, rfl, rfl⟩, rfl, fun q hq => getOwner_setOwner_ne _ _ hq, getOwner_setOwner _ _ _⟩,
      hstarts (exec_join hbusy hf) rfl rfl rfl⟩
  · refine ⟨fun hmode => ⟨_, exec_setModes hbusy hlive hmode, ⟨rfl, rfl, rfl⟩, getOwner_setOwner _ _ _, fun q hq => getOwner_setOwner_ne _ _ hq⟩,
      fun hfinal => ⟨_, exec_setEventSlot hbusy hlive hfinal, ⟨rfl, rfl, rfl⟩, getOwner_setOwner _ _ _, fun q hq => getOwner_setOwner_ne _ _ hq⟩,
      ?_, hstarts (exec_ownerExport hbusy hlive) rfl rfl rfl⟩
    have hown : (retireStart s o).own = (retiring s o).own := (aborting_retireStart s o).rest.own
    refine ⟨_, exec_ownerRetire_starts hbusy hlive, congrArg (·.busy) hown, congrArg (·.statOwner) hown, ?_,
      fun q x hx howner hfinal hend => endsAborted_retireStart hx howner hfinal hend⟩
    rw [getOwner, hown]
    exact congrArg (·.phase) (getOwner_setOwner _ _ _)
  · have hmatch := exec_meridianAccess_matching (msg := msg) hk howner hpeer
    subst howner hpeer
    cases hjoin : k.isJoin with
    | true =>
      rw [finishTransfer_join hjoin] at hmatch
      have hnew : ∀ mask key, getOwner (ownResult (makeOwner { s with own := { s.own with transfer := none } } k.owner k.modes mask key) k.owner 0) k.owner
          = { phase := .live, root := s.own.ownArg.extractLsb' 16 26, modes := k.modes, key := some key, peers := mask, slots := [] } :=
        fun _ _ => getOwner_setOwner _ _ _
      refine ⟨_, hmatch, ⟨rfl, rfl, rfl⟩, rfl, fun q hq => getOwner_setOwner_ne _ _ hq, fun _ => ?_, fun h => Bool.noConfusion h⟩
      rw [hnew]
      exact ⟨rfl, rfl, rfl, rfl⟩
    | false =>
      rw [finishTransfer_export hjoin] at hmatch
      exact ⟨_, hmatch, ⟨rfl, rfl, rfl⟩, rfl, fun q hq => getOwner_setOwner_ne _ _ hq, fun h => Bool.noConfusion h, fun _ => getOwner_setOwner _ _ _⟩
end Sys2Proof
end

section
/-! ## Answers of the host and the request ring (R44, R85, R86, R110, R119, R204) -/

namespace Sys2Proof.Machine

open Safety

section

variable {s : State} {rec : Words8} {q h : HostRequest} {fn c crew seq j n k : Nat} {r : RecordState}

/-! ### Taking an answer -/

theorem takeAnswer_none (h : ∀ x ∈ s.req.posted, x.body.w0 ≠ rec.w0) : takeAnswer s fn rec.w0 = none := by
  have hfind : (s.req.posted.find? fun r => r.body.w0 == rec.w0) = none := List.find?_eq_none.mpr fun x hx => by simpa using h x hx
  rw [takeAnswer, hfind]
  exact ite_self _

/-- The state once a request is answered. -/
def answered (s : State) (q : HostRequest) : State := { s with req := { s.req with posted := s.req.posted.filter fun x => x.reqId != q.reqId } }

theorem takeAnswer_some (hq : s.req.posted.find? (fun x => x.body.w0 == rec.w0) = some q) (hfn : bits rec.w0 63 60 = fn) :
    takeAnswer s fn rec.w0 = some (q, answered s q) := by
  rw [takeAnswer, hq]
  exact if_pos hfn

/-! ### What the host named -/

theorem mem_rangeFrom : j ∈ rangeFrom n k ↔ k ≤ j ∧ j < k + n := by
  induction n generalizing k with
  | zero => simp [rangeFrom]
  | succ n ih =>
    rw [rangeFrom, List.mem_cons, ih]
    omega

/-- What the host named for a gang waits for the answers about its other crews (R85). -/
theorem useNamed_waits (hkind : r.kind = 1) (hj : j < crewCount r.words) (hnone : AMap.find r.named j = none) : useNamed s r = s := by
  refine if_pos ?_
  rw [if_pos hkind]
  exact List.length_filterMap_lt_length_iff_exists.mpr ⟨j, mem_rangeFrom.mpr ⟨Nat.zero_le j, by omega⟩, hnone⟩

/-! ### Images of a cluster -/

/-- Evicted images leave their cells to no one, and nothing else changes of clusters and requests. -/
theorem foldl_leaveCells_kept (c : Nat) (l : List (Nat × Image)) (s : State) :
    (l.foldl (fun s e => leaveCells s c e.2.h0 e.2.copies) s).clusters = s.clusters
      ∧ (l.foldl (fun s e => leaveCells s c e.2.h0 e.2.copies) s).req = s.req := by
  induction l generalizing s with
  | nil => exact ⟨rfl, rfl⟩
  | cons e l ih => exact ih _

/-- A resident image that is not to be evicted stays resident when the others are. -/
theorem resident_evictQuiet {fid : BitVec 12} (hstay : ∀ e ∈ (getCluster s c).images, e.2.fid = fid → e.2.evPend = false) :
    resident (evictQuiet s c) c fid = resident s c fid := by
  rw [evictQuiet, resident, getCluster, (foldl_leaveCells_kept _ _ _).1]
  refine (congrArg (fun cl => cl.images.find? fun e => e.2.fid == fid) (getCluster_setCluster s c _)).trans ?_
  rw [resident, List.find?_filter]
  refine List.find?_congr fun e he => ?_
  by_cases hfid : e.2.fid = fid
  · simp [hfid, hstay e he hfid]
  · simp [hfid]

/-- An image that is written back under its own number, and is not to be evicted, is the resident one. -/
theorem resident_putImage {fid : BitVec 12} {e : Nat} {i x : Image} (hi : resident s c fid = some (e, i)) (hfid : x.fid = i.fid) (hev : x.evPend = false) :
    resident (putImage s c x) c fid = some (e, x) := by
  have hi' : i.fid = fid := by simpa using List.find?_some hi
  have hx : x.fid = fid := hfid.trans hi'
  let images := (getCluster s c).images.map fun e => if e.2.fid == x.fid then (e.1, x) else e
  have hfind : images.find? (fun e => e.2.fid == fid) = some (e, x) := by
    have hsame : ((fun e : Nat × Image => e.2.fid == fid) ∘ fun e => if e.2.fid == x.fid then (e.1, x) else e) = fun e => e.2.fid == fid := by
      funext e
      by_cases he : e.2.fid = fid <;> simp [hx, he]
    rw [List.find?_map, hsame]
    exact (congrArg (Option.map _) hi).trans (by simp [hx, hi'])
  have hstay : ∀ e ∈ images, e.2.fid = fid → e.2.evPend = false := by
    intro e he hef
    obtain ⟨e', _, rfl⟩ := List.mem_map.mp he
    by_cases h' : e'.2.fid = fid <;> simp [hx, h'] at hef ⊢
    exact hev
  have hset : ∀ v : ClusterState, v.images = images → resident (setCluster s c v) c fid = some (e, x)
      ∧ resident (evictQuiet (setCluster s c v) c) c fid = some (e, x) := by
    intro v hv
    have hres : resident (setCluster s c v) c fid = some (e, x) := by rw [resident, getCluster_setCluster, hv, hfind]
    exact ⟨hres, (resident_evictQuiet fun e he => hstay e (by rwa [getCluster_setCluster, hv] at he)).trans hres⟩
  rw [putImage, setImages, setServers]
  split
  · exact (hset _ (by split <;> rfl)).2
  · exact (hset _ (by split <;> rfl)).1

theorem putImage_req (s : State) (c : Nat) (i : Image) : (putImage s c i).req = s.req := by
  rw [putImage, setImages, setServers]
  split
  · exact (foldl_leaveCells_kept _ _ _).2
  · rfl

/-! ### The ring -/

theorem words8Bytes_length (w : Words8) : (words8Bytes w).length = 64 := by simp [words8Bytes, bytesOf_length]

theorem ringWrite_req (s : State) (h : HostRequest) :
    (ringWrite s h).req = { s.req with reqHead := s.req.reqHead + 1, posted := s.req.posted ++ [h] } := by
  dsimp only [ringWrite]

/-- The slot of the ring that its head names (R44). -/
def ringSlot (s : State) : Nat := s.req.reqBase.toNat + 64 * (s.req.reqHead.toNat % 2 ^ s.req.reqSize.toNat)

theorem byteAt_ringWrite (s : State) (h : HostRequest) (x : Nat) :
    (ringWrite s h).byteAt x = (putBytes s 0 (ringSlot s) (words8Bytes h.body)).byteAt x := by
  dsimp only [ringWrite, deviceWrite, State.byteAt, ringSlot]

theorem bytesAt_ringWrite (hwf : Memory.wf s.mem = true) (h : HostRequest) : (ringWrite s h).bytesAt 64 (ringSlot s) = words8Bytes h.body := by
  have hbytes := bytesAt_of_byteAt (s := ringWrite s h) (words8Bytes h.body) (ringSlot s) fun x hlo hhi => by
    rw [byteAt_ringWrite, byteAt_putBytes _ _ _ _ hwf, if_pos ⟨hlo, hhi⟩]
  rwa [words8Bytes_length] at hbytes

theorem ringDrain_empty {fuel : Nat} (h : s.req.held = []) : ringDrain fuel s = s := by
  cases fuel with
  | zero => rfl
  | succ fuel => rw [ringDrain, h]

/-- One held request goes into a ring with room. -/
theorem ringDrain_one {fuel : Nat} (hheld : s.req.held = [h]) (hroom : ringFull s.req = false) :
    ringDrain (fuel + 1) s = ringWrite { s with req := { s.req with held := [] } } h := by
  have hstep : ringDrain (fuel + 1) s = ringDrain fuel (ringWrite { s with req := { s.req with held := [] } } h) := by
    rw [ringDrain, hheld]
    exact if_neg (ne_true_of_eq_false hroom)
  exact hstep.trans (ringDrain_empty (by rw [ringWrite_req]))

/-- The state with another ring tail. -/
def withReqTail (s : State) (tail : BitVec 32) : State := { s with req := { s.req with reqTail := tail } }

theorem exec_reqtailWrite {v : Word} (htail : (s.req.reqHead - v.setWidth 32).toNat ≤ 2 ^ s.req.reqSize.toNat) :
    exec (.reqtailWrite v) s = .next (ringDrain (s.req.held.length + 1) (withReqTail s (v.setWidth 32))) :=
  congrArg Host.Outcome.next (if_pos htail)

/-! ### The answers -/

theorem exec_answer_unknown (h : ∀ x ∈ s.req.posted, x.body.w0 ≠ rec.w0) :
    exec (.answerCrewPlacement rec) s = .next (badAnswer s) ∧ exec (.answerImagePlacement rec) s = .next (badAnswer s)
      ∧ exec (.answerTierMigration rec) s = .next (badAnswer s) ∧ exec (.answerSpill rec) s = .next (badAnswer s)
      ∧ exec (.answerTwinReload rec) s = .next (badAnswer s) := by
  refine ⟨?_, ?_, ?_, ?_, ?_⟩ <;>
    simp only [exec, execAnswerCrewPlacement, execAnswerImagePlacement, execAnswerTierMigration, execAnswerSpill, execAnswerTwinReload, takeAnswer_none h]

section

variable (hq : s.req.posted.find? (fun x => x.body.w0 == rec.w0) = some q)
include hq

/-- A deferral of a crew that is no gang's is noted with the free capacity (R85). -/
theorem exec_answerCrewPlacement_defers (hfn : bits rec.w0 63 60 = 0) (hneed : q.need = .crewPlacement seq crew)
    (hr : AMap.find s.records seq = some r) (hdefer : bitAt rec.w1 63 = true) (hkind : r.kind = 0) :
    exec (.answerCrewPlacement rec) s = .next (putRecord (answered s q) { r with deferredAt := some (capacity s) }) := by
  have hr' : AMap.find (answered s q).records seq = some r := hr
  simp only [exec, execAnswerCrewPlacement, takeAnswer_some hq hfn, hneed, hr', hdefer, hkind]
  rfl

/-- The answer for a crew of a gang of which another still waits for its own. -/
theorem exec_answerCrewPlacement_gang (hfn : bits rec.w0 63 60 = 0) (hneed : q.need = .crewPlacement seq crew)
    (hr : AMap.find s.records seq = some r) (hdefer : bitAt rec.w1 63 = true) (hkind : r.kind = 1) (hj : j < crewCount r.words) (hne : j ≠ crew)
    (hnone : AMap.find r.named j = none) :
    exec (.answerCrewPlacement rec) s = .next (putRecord (answered s q) { r with named := AMap.set r.named crew deferredCluster }) := by
  have hr' : AMap.find (answered s q).records seq = some r := hr
  have hkind' : (r.kind != 1) = false := by simp [hkind]
  simp only [exec, execAnswerCrewPlacement, takeAnswer_some hq hfn, hneed, hr', hdefer, hkind']
  exact congrArg Host.Outcome.next (useNamed_waits (r := { r with named := _ }) hkind hj ((AMap.find_set_ne _ _ hne).trans hnone))

theorem exec_answerImagePlacement {o fid : BitVec 12} (hfn : bits rec.w0 63 60 = 1) (hneed : q.need = .imagePlacement c o fid)
    (hevict : bitAt rec.w1 62 = false) (hdefer : bitAt rec.w1 63 = false) :
    exec (.answerImagePlacement rec) s = .next (changeLoad (answered s q) c fid fun l =>
      { l with place := some (bits rec.w1 7 4, bits rec.w1 2 0, bits rec.w2 7 4, bits rec.w2 2 0), deferred := false }) := by
  simp only [exec, execAnswerImagePlacement, takeAnswer_some hq hfn, hneed, hevict, hdefer]
  rfl

theorem exec_answerTierMigration {o : BitVec 12} (hfn : bits rec.w0 63 60 = 2) (hneed : q.need = .tierMigration o) :
    exec (.answerTierMigration rec) s = .next { answered s q with
      moves := s.moves ++ [rec.w1, rec.w2, rec.w3, rec.w4, rec.w5, rec.w6].filterMap (orderedMove s o) } := by
  simp only [exec, execAnswerTierMigration, takeAnswer_some hq hfn, hneed]
  rfl

theorem exec_answerSpill {id : Nat} {w : Crew} (hfn : bits rec.w0 63 60 = 4) (hneed : q.need = .spill seq crew)
    (hw : s.crews.find? (fun x => x.2.record == seq && x.2.index == crew) = some (id, w)) (hmore : w.spillCur < bits rec.w1 31 0) :
    exec (.answerSpill rec) s = .next (setCrew (answered s q) id { w with spillCur := bits rec.w1 31 0 }) := by
  have hw' : (answered s q).crews.find? (fun x => x.2.record == seq && x.2.index == crew) = some (id, w) := hw
  simp only [exec, execAnswerSpill, takeAnswer_some hq hfn, hneed, hw', if_pos hmore]

theorem exec_answerTwinReload {fid : BitVec 12} {sv e : Nat} {i : Image} (hfn : bits rec.w0 63 60 = 5) (hneed : q.need = .twinReload c fid sv)
    (hi : resident s c fid = some (e, i)) (hreload : i.reload = 1) :
    exec (.answerTwinReload rec) s = .next (putImage (answered s q) c { i with reload := 2 }) := by
  have hi' : resident (answered s q) c fid = some (e, i) := hi
  simp only [exec, execAnswerTwinReload, takeAnswer_some hq hfn, hneed, hi', if_pos hreload]

end

end

end Sys2Proof.Machine

namespace Sys2Proof

open Sys2Proof.Machine Sys2Proof.Safety

/-- Settles O37: an answer's request is found by its word 0, and each kind of answer then changes its own part of the state. -/
theorem hostAnswers : Obligations.HostAnswers := by
  unfold Obligations.HostAnswers
  intro s rec q seq crew c id e r w o fid sv i l v h fn left Taken Bad cl tail slot
  refine ⟨fun hnone => ?_, fun hq => ⟨?_, ?_, ?_, ?_, ?_⟩, fun htail hinv => ⟨fun hheld => ?_, fun hheld => ?_⟩, fun htail => ?_⟩
  · obtain ⟨hcrew, himage, htier, hspill, htwin⟩ := exec_answer_unknown hnone
    exact ⟨⟨_, hcrew, rfl⟩, ⟨_, himage, rfl⟩, ⟨_, htier, rfl⟩, ⟨_, hspill, rfl⟩, _, htwin, rfl⟩
  · intro hfn hneed hinv hr hdefer
    obtain ⟨hnum, _⟩ := (invFrom_zero.mpr hinv).found hr
    subst hnum
    refine ⟨fun hkind => ⟨_, exec_answerCrewPlacement_defers hq hfn hneed hr hdefer hkind, ⟨rfl, rfl⟩, AMap.find_set_self _ _ _⟩, ?_⟩
    rintro hkind ⟨j, hj, hne, hnone⟩
    exact ⟨_, exec_answerCrewPlacement_gang hq hfn hneed hr hdefer hkind hj hne hnone, ⟨rfl, rfl⟩, AMap.find_set_self _ _ _⟩
  · intro hfn hneed hevict hdefer hl hfid
    refine ⟨_, exec_answerImagePlacement hq hfn hneed hevict hdefer, ⟨rfl, rfl⟩, ?_⟩
    have hl' : (getCluster (answered s q) c).loads = [l] := hl
    rw [changeLoad, getCluster_setCluster, hl']
    simp [hfid]
  · exact fun hfn hneed => ⟨_, exec_answerTierMigration hq hfn hneed, ⟨rfl, rfl⟩, rfl⟩
  · exact fun hfn hneed hw hmore => ⟨_, exec_answerSpill hq hfn hneed hw hmore, ⟨rfl, rfl⟩, getCrew_setCrew _ _ _⟩
  · intro hfn hneed hi hreload hev
    have hreq := putImage_req (answered s q) c { i with reload := 2 }
    exact ⟨_, exec_answerTwinReload hq hfn hneed hi hreload, ⟨congrArg (·.posted) hreq, congrArg (·.badAns) hreq⟩,
      resident_putImage (s := answered s q) hi rfl hev⟩
  · have hdrain : ringDrain (s.req.held.length + 1) (withReqTail s tail) = withReqTail s tail := ringDrain_empty hheld
    exact ⟨_, (exec_reqtailWrite htail.le).trans (congrArg _ hdrain), rfl, rfl, fun _ => rfl⟩
  · have hroom : ringFull (withReqTail s tail).req = false := beq_false_of_ne htail.ne
    have hdrain := ringDrain_one (fuel := s.req.held.length) (s := withReqTail s tail) hheld hroom
    refine ⟨_, (exec_reqtailWrite htail.le).trans (congrArg _ hdrain), ?_, ?_, ?_, ?_, ?_⟩
    · rw [ringWrite_req]; rfl
    · rw [ringWrite_req]; rfl
    · rw [ringWrite_req]
    · rw [ringWrite_req]; rfl
    · exact bytesAt_ringWrite (s := { withReqTail s tail with req := { (withReqTail s tail).req with held := [] } }) hinv.1 h
  · exact congrArg Host.Outcome.next (if_neg (Nat.not_le.mpr htail))

end Sys2Proof
end

section
/-! ## What the helm's own state changes keep (R34, R36, R38)
The state changes that the helm makes by itself (`settle`) move records on, but leave every record its words, its number and its place, and a record in
a final state its state and reason. `Settling` says so. -/

namespace Sys2Proof.Machine

open Safety

/-! ### Records of a map whose keys are told apart -/

theorem AMap.find_of_mem {α : Type} {m : AMap α} (hnodup : (m.map (·.1)).Nodup) {k : Nat} {v : α} (h : (k, v) ∈ m) : AMap.find m k = some v := by
  induction m with
  | nil => exact absurd h List.not_mem_nil
  | cons e m ih =>
    obtain ⟨j, w⟩ := e
    obtain ⟨hj, hm⟩ := List.nodup_cons.mp hnodup
    rcases List.mem_cons.mp h with he | hmem
    · obtain ⟨rfl, rfl⟩ := Prod.mk.inj he
      exact if_pos rfl
    · rw [AMap.find, if_neg fun (hjk : j = k) => hj (List.mem_map.mpr ⟨(k, v), hmem, hjk.symm⟩)]
      exact ih hm hmem

theorem find_of_mem_records {s : State} (hinv : Inv s) {q : Nat} {r : RecordState} (h : (q, r) ∈ s.records) :
    r.seqNo = q ∧ AMap.find s.records q = some r :=
  have hi := invFrom_zero.mpr hinv
  ⟨(hi.numbered _ h).1, AMap.find_of_mem hi.nodup h⟩

/-! ### The relation -/

/-- The same record, whose state may differ. -/
def RecordState.Same (x y : RecordState) : Prop :=
  y = { x with phase := y.phase, entered := y.entered, reason := y.reason, ending := y.ending, endClk := y.endClk }

theorem RecordState.Same.refl (x : RecordState) : x.Same x := rfl

theorem RecordState.Same.trans {x y z : RecordState} (hxy : x.Same y) (hyz : y.Same z) : x.Same z := by
  have hy : y = _ := hxy
  have hz : z = _ := hyz
  exact hz.trans (by rw [hy])

theorem RecordState.same_moved (r : RecordState) (phase : RecPhase) (reason : BitVec 8) : r.Same (r.moved phase reason) := rfl

/-- The same record, which has not left a final state. -/
def RecordState.SettledAs (x y : RecordState) : Prop := x.Same y ∧ (x.phase.final = true → y.phase = x.phase ∧ y.reason = x.reason)

theorem RecordState.SettledAs.refl (x : RecordState) : x.SettledAs x := ⟨.refl x, fun _ => ⟨rfl, rfl⟩⟩

theorem RecordState.SettledAs.trans {x y z : RecordState} (hxy : x.SettledAs y) (hyz : y.SettledAs z) : x.SettledAs z := by
  refine ⟨hxy.1.trans hyz.1, fun hf => ?_⟩
  obtain ⟨hphase, hreason⟩ := hxy.2 hf
  obtain ⟨hphase', hreason'⟩ := hyz.2 (hphase ▸ hf)
  exact ⟨hphase'.trans hphase, hreason'.trans hreason⟩

/-- Every record stands where it stood, and those in a final state as they were. -/
def RecordsSettle (a b : AMap RecordState) : Prop := ∀ q x, AMap.find a q = some x → ∃ y, AMap.find b q = some y ∧ x.SettledAs y

theorem RecordsSettle.refl (a : AMap RecordState) : RecordsSettle a a := fun _ x hx => ⟨x, hx, .refl x⟩

theorem RecordsSettle.trans {a b c : AMap RecordState} (h : RecordsSettle a b) (h' : RecordsSettle b c) : RecordsSettle a c := fun q x hx => by
  obtain ⟨y, hy, hxy⟩ := h q x hx
  obtain ⟨z, hz, hyz⟩ := h' q y hy
  exact ⟨z, hz, hxy.trans hyz⟩

theorem recordsSettle_set {a : AMap RecordState} {q : Nat} {x : RecordState} (h : ∀ y, AMap.find a q = some y → y.SettledAs x) :
    RecordsSettle a (AMap.set a q x) := fun j y hy => by
  by_cases hj : j = q
  · subst hj
    exact ⟨x, AMap.find_set_self _ _ _, h y hy⟩
  · exact ⟨y, (AMap.find_set_ne _ _ hj).trans hy, .refl y⟩

/-- What the helm's own state changes keep. -/
structure Settling (s t : State) : Prop where
  records : RecordsSettle s.records t.records
  nextSeq : t.helm.nextSeq = s.helm.nextSeq
  logTail : t.helm.logTail = s.helm.logTail
  crews : t.crews = s.crews
  cores : t.cores = s.cores

section

variable {s t u : State} {r x : RecordState} {phase : RecPhase} {reason : BitVec 8} {index : BitVec 12}

theorem Settling.refl (s : State) : Settling s s := ⟨.refl _, rfl, rfl, rfl, rfl⟩

theorem Settling.trans (h : Settling s t) (h' : Settling t u) : Settling s u where
  records := h.records.trans h'.records
  nextSeq := h'.nextSeq.trans h.nextSeq
  logTail := h'.logTail.trans h.logTail
  crews := h'.crews.trans h.crews
  cores := h'.cores.trans h.cores

/-! ### A state change of one record -/

theorem joinEnd_settles (s : State) (q : Nat) (c : Clock) : RecordsSettle s.records (joinEnd s q c).records := by
  unfold joinEnd
  split
  · next hr =>
    refine recordsSettle_set fun y hy => ?_
    obtain rfl := Option.some.inj (hr.symm.trans hy)
    exact ⟨rfl, fun _ => ⟨rfl, rfl⟩⟩
  · exact .refl _

theorem joinGraph_settles (s : State) (r : RecordState) : RecordsSettle s.records (joinGraph s r).records := by
  unfold joinGraph
  split
  · exact .refl _
  · exact joinEnd_settles _ _ _

/-- A state change sets the record, and may add to what its graph releases. -/
theorem moving_settles (s : State) (r : RecordState) (phase : RecPhase) (reason : BitVec 8) :
    RecordsSettle (AMap.set s.records r.seqNo (r.moved phase reason)) (moving s r phase reason).records := by
  unfold moving
  extract_lets s₁ s₂
  have h₂ : RecordsSettle (AMap.set s.records r.seqNo (r.moved phase reason)) s₂.records := by
    unfold s₂
    split
    · exact joinGraph_settles (dropPlacement s₁ r.seqNo) r
    · exact .refl _
  split
  · exact h₂
  · exact h₂

/-- A state change that ends nothing sets the record alone. -/
theorem moving_records_open (hphase : phase.final = false) : (moving s r phase reason).records = AMap.set s.records r.seqNo (r.moved phase reason) := by
  unfold moving
  rw [hphase]
  extract_lets s₁ s₂
  split <;> rfl

/-- The record after its state change. -/
theorem find_moveRecord (s : State) (r : RecordState) (phase : RecPhase) (reason : BitVec 8) (index : BitVec 12) :
    ∃ y, AMap.find (moveRecord s r phase reason index).records r.seqNo = some y ∧ (r.moved phase reason).SettledAs y := by
  rw [moveRecord_records]
  exact moving_settles s r phase reason r.seqNo _ (AMap.find_set_self _ _ _)

@[simp] theorem logAppend_logTail (s : State) (e : LogEntry) : (logAppend s e).helm.logTail = s.helm.logTail := by
  unfold logAppend
  split
  · dsimp only [logWrite]
  · rfl

@[simp] theorem moveRecord_logTail : (moveRecord s r phase reason index).helm.logTail = s.helm.logTail := by
  rw [moveRecord_kept (fun s => s.helm.logTail) logAppend_logTail fun _ _ => rfl, moving_helm]

@[simp] theorem moveRecord_crews : (moveRecord s r phase reason index).crews = s.crews :=
  (moveRecord_kept State.crews (logAppend_kept _ (fun _ _ => rfl) fun _ _ => by dsimp only [logWrite, deviceWrite, putBytes]) fun _ _ => rfl).trans
    (moving_kept State.crews (fun _ _ => rfl) (fun _ _ => rfl) fun _ _ => rfl)

@[simp] theorem moveRecord_cores : (moveRecord s r phase reason index).cores = s.cores :=
  (moveRecord_kept State.cores (logAppend_kept _ (fun _ _ => rfl) fun _ _ => by dsimp only [logWrite, deviceWrite, putBytes]) fun _ _ => rfl).trans
    (moving_kept State.cores (fun _ _ => rfl) (fun _ _ => rfl) fun _ _ => rfl)

/-- A state change of a record that is not in a final state. -/
theorem settling_moveRecord (hx : AMap.find s.records r.seqNo = some x) (hopen : x.phase.final = false) (hsame : x.Same r) :
    Settling s (moveRecord s r phase reason index) where
  records := by
    rw [moveRecord_records]
    refine RecordsSettle.trans (recordsSettle_set fun y hy => ?_) (moving_settles s r phase reason)
    obtain rfl := Option.some.inj (hx.symm.trans hy)
    exact ⟨hsame.trans (r.same_moved phase reason), fun hf => absurd (hopen.symm.trans hf) Bool.false_ne_true⟩
  nextSeq := moveRecord_nextSeq
  logTail := moveRecord_logTail
  crews := moveRecord_crews
  cores := moveRecord_cores

/-! ### The helm's own state changes -/

/-- Every state that the option holds has settled from a state. -/
def SomeSettling (s : State) (o : Option State) : Prop := ∀ t, o = some t → Settling s t

theorem SomeSettling.some (h : Settling s t) : SomeSettling s (some t) := fun _ ht => Option.some.inj ht ▸ h

theorem SomeSettling.none : SomeSettling s none := fun _ h => (Option.some_ne_none _ h.symm).elim

theorem SomeSettling.ite {p : Prop} [Decidable p] {a b : Option State} (ha : p → SomeSettling s a) (hb : ¬p → SomeSettling s b) :
    SomeSettling s (if p then a else b) := by
  split
  · next h => exact ha h
  · next h => exact hb h

theorem settling_unhold {h : HeldStep} : Settling s (unhold s h) := by
  unfold unhold
  split
  · exact .refl s
  · exact ⟨.refl _, rfl, rfl, rfl, rfl⟩

theorem settling_holdBack {h : HeldStep} : Settling s (holdBack s h) := by
  unfold holdBack
  split
  · exact .refl s
  · exact ⟨.refl _, rfl, rfl, rfl, rfl⟩

/-- A listed record's own step keeps the records: only the WAIT's two state changes at once need the first one's record. -/
theorem settling_autoStep (hr : AMap.find s.records r.seqNo = some r) : SomeSettling s (autoStep s r) := by
  unfold autoStep
  refine .ite (fun _ => .none) fun hgoes => ?_
  have hopen : r.phase.final = false := by
    simp only [Bool.or_eq_true, not_or, Bool.not_eq_true] at hgoes
    exact hgoes.1
  have hmove : ∀ {phase reason}, Settling s (moveRecord s r phase reason r.index) := settling_moveRecord hr hopen (.refl r)
  refine .ite (fun _ => .ite (fun _ => .some ?_) fun _ => .some hmove) fun _ => .ite (fun _ => .ite (fun _ => .ite (fun _ => .some hmove) fun _ => .none)
    fun _ => .ite (fun _ => .some ?_) fun _ => .none) fun _ => .ite (fun _ => .ite (fun _ => .some hmove) fun _ => .ite (fun _ => .some hmove) fun _ =>
    .ite (fun _ => .some ?_) fun _ => .none) fun _ => .none
  · refine ⟨recordsSettle_set fun y hy => ?_, rfl, rfl, rfl, rfl⟩
    obtain rfl := Option.some.inj (hr.symm.trans hy)
    exact ⟨rfl, fun _ => ⟨rfl, rfl⟩⟩
  · have hadmitted : AMap.find (moveRecord s r .admitted 0 r.index).records r.seqNo = some (r.moved .admitted 0) := by
      rw [moveRecord_records, moving_records_open rfl, AMap.find_set_self]
    exact hmove.trans (settling_moveRecord (r := { r with phase := .admitted }) hadmitted rfl rfl)
  · split
    · exact hmove
    · exact hmove

theorem settling_firstPermitted {l : List (Nat × RecordState)} (hl : ∀ e ∈ l, AMap.find s.records e.2.seqNo = some e.2) :
    SomeSettling s (firstPermitted s l) := by
  induction l with
  | nil => exact .none
  | cons e l ih =>
    obtain ⟨q, r⟩ := e
    have ih := ih fun e he => hl e (List.mem_cons_of_mem _ he)
    have hstep := settling_autoStep (hl _ List.mem_cons_self)
    rw [firstPermitted]
    cases hs : autoStep s r with
    | none => exact ih
    | some t => exact .ite (fun _ => .some ((hstep t hs).trans settling_unhold)) fun _ => ih

theorem settling_holdDue : Settling s (holdDue s) := by
  unfold holdDue
  refine List.foldlRecOn (motive := Settling s) _ _ (.refl s) fun t ht e _ => ?_
  split
  · exact ht.trans settling_holdBack
  · exact ht

theorem settling_settleN {fuel : Nat} (hinv : Inv s) : Settling s (settleN fuel s) := by
  induction fuel generalizing s with
  | zero => exact .refl s
  | succ fuel ih =>
    have hstep := settling_firstPermitted (s := s) (l := s.records) fun e he => by
      obtain ⟨hnum, hfind⟩ := find_of_mem_records hinv he
      exact hnum ▸ hfind
    have hkept := inv_firstPermitted (invFrom_zero.mpr hinv).all (invFrom_zero.mpr hinv).below
    rw [settleN]
    cases hs : firstPermitted s s.records with
    | none =>
      dsimp only
      split
      · exact .refl s
      · exact settling_holdDue
    | some t => exact (hstep t hs).trans (ih (invFrom_zero.mp ((hkept t hs).mono (Nat.zero_le _))))

/-- What the helm does by itself keeps every record, and those in a final state as they are. -/
theorem settling_settle (hinv : Inv s) : Settling s (settle s) := settling_settleN hinv

end

end Sys2Proof.Machine
end

section
/-! ## WAIT records and the arrays of GRAPH records (R34, R36, R38) -/

namespace Sys2Proof.Machine

open Safety

section

variable {s t u : State} {r : RecordState} {phase : RecPhase} {reason : BitVec 8} {index : BitVec 12} {n q : Nat}

/-! ### Steps of the helm while the logbook has room -/

/-- Nothing is held back, no entry waits, and `n` more entries fit into the logbook. -/
structure RoomFor (n : Nat) (s : State) : Prop where
  waiting : s.helm.waiting = []
  heldBack : s.helm.heldBack = []
  room : (s.helm.logHead - s.helm.logTail).toNat + n ≤ 2 ^ s.helm.logSize.toNat

theorem RoomFor.helmRuns (h : RoomFor (n + 1) s) : helmRuns s = true :=
  helmRuns_iff.mpr ⟨h.waiting, beq_false_of_ne fun hfull => by have hroom := h.room; omega⟩

theorem RoomFor.logWrite (h : RoomFor (n + 1) s) (e : LogEntry) : RoomFor n (logWrite s e) where
  waiting := h.waiting
  heldBack := h.heldBack
  room := by
    have hroom := h.room
    have hstep : (s.helm.logHead + 1 - s.helm.logTail).toNat ≤ (s.helm.logHead - s.helm.logTail).toNat + 1 := by bv_omega
    dsimp only [Machine.logWrite]
    omega

theorem RoomFor.moveRecord (h : RoomFor (n + 1) s) (hphase : phase.final = false) : RoomFor n (moveRecord s r phase reason index) := by
  rw [moveRecord_of_runs h.helmRuns (.inr hphase)]
  refine RoomFor.logWrite ⟨?_, ?_, ?_⟩ _ <;> rw [moving_helm]
  · exact h.waiting
  · exact h.heldBack
  · exact h.room

@[simp] theorem logAppend_heldBack (s : State) (e : LogEntry) : (logAppend s e).helm.heldBack = s.helm.heldBack := by
  unfold logAppend
  split
  · dsimp only [logWrite]
  · rfl

@[simp] theorem moveRecord_heldBack : (moveRecord s r phase reason index).helm.heldBack = s.helm.heldBack := by
  rw [moveRecord_kept (fun s => s.helm.heldBack) logAppend_heldBack fun _ _ => rfl, moving_helm]

theorem RoomFor.mayChange (h : RoomFor n s) (x : HeldStep) : mayChange s x = true := by
  simp [Machine.mayChange, logRoom, h.waiting, h.heldBack]

theorem firstPermitted_one {l : List (Nat × RecordState)} (hmem : (q, r) ∈ l) (hothers : ∀ e ∈ l, e = (q, r) ∨ autoStep s e.2 = none)
    (hstep : autoStep s r = some t) (hmay : mayChange s (.record q) = true) : firstPermitted s l = some (unhold t (.record q)) := by
  induction l with
  | nil => exact absurd hmem List.not_mem_nil
  | cons e l ih =>
    obtain ⟨j, x⟩ := e
    rw [firstPermitted]
    rcases hothers _ List.mem_cons_self with he | hnone
    · obtain ⟨rfl, rfl⟩ := Prod.mk.inj he
      rw [hstep]
      exact if_pos hmay
    · rw [hnone]
      rcases List.mem_cons.mp hmem with he | hmem
      · obtain ⟨rfl, rfl⟩ := Prod.mk.inj he
        exact absurd (hstep.symm.trans hnone) (Option.some_ne_none _)
      · exact ih hmem fun e he => hothers e (List.mem_cons_of_mem _ he)

/-- Where one record alone can move, and nothing is held back, the helm moves it. -/
theorem settleN_one {fuel : Nat} (hmem : (q, r) ∈ s.records) (hothers : ∀ e ∈ s.records, e = (q, r) ∨ autoStep s e.2 = none)
    (hstep : autoStep s r = some t) (hmay : mayChange s (.record q) = true) (hheld : t.helm.heldBack = []) :
    settleN (fuel + 1) s = settleN fuel t := by
  have hunhold : unhold t (.record q) = t := if_pos (by rw [hheld]; rfl)
  rw [settleN, firstPermitted_one hmem hothers hstep hmay, hunhold]

/-! ### A WAIT at top level -/

theorem depOf_none (s : State) (r : RecordState) : depOf s r 0xFFF = none := rfl

/-- A record at top level that names no dependence and is ordered behind final records alone may start. -/
theorem startable_top (hphase : r.phase = .accepted) (hend : r.ending = none) (hidx : r.index = 0xFFF) (ha : r.depA = 0xFFF) (hb : r.depB = 0xFFF)
    (hothers : ∀ e ∈ s.records, e.2.seqNo = r.seqNo ∨ e.2.phase.final = true) : startable s r = true := by
  have hfence : fenceMet s r = true := by
    refine Bool.or_eq_true_iff.mpr (.inr (List.all_eq_true.mpr fun x hx => ?_))
    obtain ⟨e, he, rfl⟩ := List.mem_map.mp hx
    rcases hothers e he with h | h
    · simp [h]
    · simp [h]
  simp [startable, hphase, hend, graphOpen, hidx, hfence, depMet, ha, hb, depOf_none, depFailed_none]

/-- A WAIT that may start is admitted and runs at once (R38). -/
theorem autoStep_wait_starts (hkind : r.kind = 4) (hphase : r.phase = .accepted) (hend : r.ending = none) (ha : r.depA = 0xFFF) (hb : r.depB = 0xFFF)
    (hstart : startable s r = true) (hruns : helmRuns s = true) :
    autoStep s r = some (moveRecord (moveRecord s r .admitted 0 r.index) { r with phase := .admitted } .running 0 r.index) := by
  unfold autoStep
  rw [ha, hb, depFailed_none, hphase, hend, if_pos hkind, hstart, hruns]
  rfl

/-- A WAIT that runs completes when its slot holds its target (R36). -/
theorem autoStep_wait_runs (hkind : r.kind = 4) (hphase : r.phase = .running) (hend : r.ending = none) (ha : r.depA = 0xFFF) (hb : r.depB = 0xFFF) :
    autoStep s r = if eventHolds s r then some (moveRecord s r .completed 0 r.index) else none := by
  unfold autoStep
  rw [ha, hb, depFailed_none, hphase, hend, if_pos hkind]
  rfl

theorem moveRecord_own (hphase : phase.final = false) : (moveRecord s r phase reason index).own = s.own := by
  have happend : ∀ e, (logAppend (moving s r phase reason) e).own = s.own := fun e =>
    (logAppend_kept State.own (fun _ _ => rfl) (fun _ _ => by dsimp only [logWrite, deviceWrite, putBytes]) _ e).trans moving_own
  rw [moveRecord_eq, hphase]
  exact happend _

theorem eventHolds_congr {x : RecordState} (hown : t.own = s.own) (hsame : r.Same x) : eventHolds t x = eventHolds s r := by
  unfold eventHolds getOwner
  rw [hown, hsame]
  rfl

/-- One record stands beside records that are all final. -/
structure OneOpen (l : AMap RecordState) (r : RecordState) (s : State) : Prop where
  records : s.records = AMap.set l r.seqNo r
  others : ∀ e ∈ l, e.2.phase.final = true

variable {l : AMap RecordState}

theorem OneOpen.mem (h : OneOpen l r s) : (r.seqNo, r) ∈ s.records := AMap.mem_of_find (h.records ▸ AMap.find_set_self _ _ _)

theorem OneOpen.mem_others (h : OneOpen l r s) {e : Nat × RecordState} (he : e ∈ s.records) : e = (r.seqNo, r) ∨ e.2.phase.final = true :=
  (AMap.mem_set (h.records ▸ he)).imp_right (h.others e)

theorem OneOpen.autoStep_others (h : OneOpen l r s) : ∀ e ∈ s.records, e = (r.seqNo, r) ∨ autoStep s e.2 = none :=
  fun _ he => (h.mem_others he).imp_right autoStep_of_final

theorem OneOpen.autoStep_none (h : OneOpen l r s) (hnone : autoStep s r = none) : ∀ e ∈ s.records, autoStep s e.2 = none :=
  fun e he => (h.autoStep_others e he).elim (fun he => he ▸ hnone) id

theorem OneOpen.moveRecord {x : RecordState} (h : OneOpen l r s) (hidx : x.index = 0xFFF) (hnum : x.seqNo = r.seqNo) :
    OneOpen l (x.moved phase reason) (moveRecord s x phase reason index) where
  records := by rw [moveRecord_records, moving_records_top hidx, h.records, hnum, AMap.set_set]; exact congrArg (AMap.set l · _) hnum.symm
  others := h.others

/-- What the helm does with an accepted WAIT at top level, where nothing else moves: it runs, and completes at once when its slot has reached its
target (R36, R38). -/
theorem settle_wait (h : OneOpen l r s) (hroom : RoomFor 3 s) (hkind : r.kind = 4) (hphase : r.phase = .accepted) (hend : r.ending = none)
    (hidx : r.index = 0xFFF) (ha : r.depA = 0xFFF) (hb : r.depB = 0xFFF) :
    ∃ x, AMap.find (settle s).records r.seqNo = some x ∧ r.Same x ∧ x.reason = 0
      ∧ x.phase = if eventHolds s r then .completed else .running := by
  have hadmitted : OneOpen l (r.moved .admitted 0) (moveRecord s r .admitted 0 r.index) := h.moveRecord hidx rfl
  let r' := RecordState.moved { r with phase := .admitted } .running 0
  let t := moveRecord (moveRecord s r .admitted 0 r.index) { r with phase := .admitted } .running 0 r.index
  have hruns : OneOpen l r' t := hadmitted.moveRecord (x := { r with phase := .admitted }) hidx rfl
  have hroom' : RoomFor 1 t := (hroom.moveRecord rfl).moveRecord rfl
  have hevent : eventHolds t r' = eventHolds s r := eventHolds_congr ((moveRecord_own rfl).trans (moveRecord_own rfl)) rfl
  have hstart : startable s r = true := startable_top hphase hend hidx ha hb fun e he => (h.mem_others he).imp_left (congrArg fun e : Nat × RecordState => e.2.seqNo)
  obtain ⟨fuel, hfuel⟩ : ∃ fuel, 4 * s.records.length = fuel + 1 + 1 := by
    have hpos := List.length_pos_of_mem h.mem
    exact ⟨4 * s.records.length - 2, by omega⟩
  have hsettle : settle s = settleN (fuel + 1) t := by
    rw [settle, hfuel]
    exact settleN_one h.mem h.autoStep_others (autoStep_wait_starts hkind hphase hend ha hb hstart hroom.helmRuns) (hroom.mayChange _) hroom'.heldBack
  have hstep : autoStep t r' = if eventHolds s r then some (moveRecord t r' .completed 0 r'.index) else none :=
    hevent ▸ autoStep_wait_runs hkind rfl rfl ha hb
  rw [hsettle]
  cases hholds : eventHolds s r with
  | true =>
    rw [hholds] at hstep
    have hdone : OneOpen l (r'.moved .completed 0) (moveRecord t r' .completed 0 r'.index) := hruns.moveRecord hidx rfl
    rw [settleN_one hruns.mem hruns.autoStep_others hstep (hroom'.mayChange _) (moveRecord_heldBack.trans hroom'.heldBack),
      settleN_none (hdone.autoStep_none (autoStep_of_final rfl))]
    exact ⟨r'.moved .completed 0, hdone.records ▸ AMap.find_set_self _ _ _, rfl, rfl, rfl⟩
  | false =>
    rw [hholds] at hstep
    rw [settleN_none (hruns.autoStep_none hstep)]
    exact ⟨r', hruns.records ▸ AMap.find_set_self _ _ _, rfl, rfl, rfl⟩

/-! ### Arrays of records (R34) -/

/-- Record `i` of a GRAPH's array, as it is accepted under a sequence number. -/
def childRecord (g : RecordState) (seq i : Nat) (w : Words8) : RecordState :=
  newRecord seq g.queue g.owner g.prio w (BitVec.ofNat 12 i) g.seqNo (g.level + 1) g.clk

theorem acceptChild_records (g : RecordState) (s : State) (e : Nat × Words8) :
    (acceptChild g s e).records = AMap.set s.records s.helm.nextSeq (childRecord g s.helm.nextSeq e.1 e.2) := by
  unfold acceptChild
  rw [moveRecord_records, moving_records_open rfl]
  rfl

theorem acceptChild_nextSeq (g : RecordState) (s : State) (e : Nat × Words8) : (acceptChild g s e).helm.nextSeq = s.helm.nextSeq + 1 := by
  unfold acceptChild
  rw [moveRecord_nextSeq]

/-- The records of an array are accepted in index order, under the next sequence numbers. -/
theorem foldl_acceptChild (g : RecordState) (l : List Words8) (k : Nat) (s : State) :
    let t := ((rangeFrom l.length k).zip l).foldl (acceptChild g) s
    t.helm.nextSeq = s.helm.nextSeq + l.length ∧ (∀ q, q < s.helm.nextSeq → AMap.find t.records q = AMap.find s.records q)
      ∧ ∀ j c, l[j]? = some c → AMap.find t.records (s.helm.nextSeq + j) = some (childRecord g (s.helm.nextSeq + j) (k + j) c) := by
  induction l generalizing k s with
  | nil => exact ⟨rfl, fun _ _ => rfl, fun j c hj => by simp at hj⟩
  | cons w l ih =>
    obtain ⟨hnext, hkept, hlist⟩ := ih (k + 1) (acceptChild g s (k, w))
    rw [acceptChild_nextSeq] at hnext hkept hlist
    refine ⟨?_, fun q hq => ?_, fun j c hj => ?_⟩
    · exact hnext.trans (by simp only [List.length_cons]; omega)
    · exact (hkept q (by omega)).trans (by rw [acceptChild_records, AMap.find_set_ne _ _ (by omega)])
    · cases j with
      | zero =>
        obtain rfl : w = c := by simpa using hj
        exact (hkept _ (Nat.lt_succ_self _)).trans (by rw [acceptChild_records]; exact AMap.find_set_self _ _ _)
      | succ j =>
        have hlast := hlist j c (by simpa using hj)
        rwa [show s.helm.nextSeq + 1 + j = s.helm.nextSeq + (j + 1) by omega, show k + 1 + j = k + (j + 1) by omega] at hlast

/-- An accepted array stands: its GRAPH names it, and its records have the next sequence numbers. -/
structure ArrayStands (t : State) (g first : Nat) (l : List Words8) : Prop where
  graph : ∃ x, AMap.find t.records g = some x ∧ x.arrayBase = some first ∧ x.arrayLen = l.length
  nextSeq : t.helm.nextSeq = first + l.length
  child : ∀ j c, l[j]? = some c → ∃ x, AMap.find t.records (first + j) = some x ∧ x.words = c ∧ x.parent = g ∧ x.index = BitVec.ofNat 12 j

theorem arrayStands_acceptArray {g : RecordState} {l : List Words8} (hg : g.seqNo < s.helm.nextSeq) :
    ArrayStands (acceptArray s g l) g.seqNo s.helm.nextSeq l := by
  obtain ⟨hnext, hkept, hlist⟩ := foldl_acceptChild g l 0
    { s with records := AMap.set s.records g.seqNo { g with arrayBase := some s.helm.nextSeq, arrayLen := l.length } }
  refine ⟨⟨_, (hkept _ hg).trans (AMap.find_set_self _ _ _), rfl, rfl⟩, hnext, fun j c hj => ⟨_, hlist j c hj, rfl, rfl, ?_⟩⟩
  rw [Nat.zero_add]
  rfl

theorem ArrayStands.settles {g first : Nat} {l : List Words8} (h : ArrayStands s g first l) (hset : Settling s t) : ArrayStands t g first l := by
  obtain ⟨x, hx, hbase, hlen⟩ := h.graph
  obtain ⟨y, hy, hsame, _⟩ := hset.records g x hx
  refine ⟨⟨y, hy, ?_, ?_⟩, hset.nextSeq.trans h.nextSeq, fun j c hj => ?_⟩
  · rw [hsame]; exact hbase
  · rw [hsame]; exact hlen
  · obtain ⟨x, hx, hwords, hparent, hindex⟩ := h.child j c hj
    obtain ⟨y, hy, hsame, _⟩ := hset.records _ x hx
    refine ⟨y, hy, ?_, ?_, ?_⟩
    · rw [hsame]; exact hwords
    · rw [hsame]; exact hparent
    · rw [hsame]; exact hindex

/-- An array that is accepted stands after what the helm then does by itself. -/
theorem arrayStands_settle {g : RecordState} {l : List Words8} (hinv : Inv s) (hg : g.seqNo < s.helm.nextSeq) :
    ArrayStands (settle (acceptArray s g l)) g.seqNo s.helm.nextSeq l :=
  (arrayStands_acceptArray hg).settles (settling_settle (invFrom_zero.mp ((inv_acceptArray (invFrom_zero.mpr hinv).all hg).mono (Nat.zero_le _))))

/-- A GRAPH that starts inside another and whose array cannot be accepted ends with the reason (R33, R34). -/
theorem settle_faulted {e : BitVec 8} {i : BitVec 12} (hinv : Inv s) (hr : r.seqNo < s.helm.nextSeq) (o : BitVec 12) (va : Word) (n : Nat) :
    ∃ x, AMap.find (settle (moveRecord (reportWalks s o va n) r .faulted e i)).records r.seqNo = some x ∧ x.phase = .faulted ∧ x.reason = e := by
  have hkept := invFrom_zero.mp ((inv_moveRecord (phase := .faulted) (reason := e) (index := i)
    (inv_reportWalks (o := o) (va := va) (n := n) (invFrom_zero.mpr hinv).all) hr).mono (Nat.zero_le _))
  obtain ⟨y, hy, hmoved⟩ := find_moveRecord (reportWalks s o va n) r .faulted e i
  obtain ⟨x, hx, hsettled⟩ := (settling_settle hkept).records _ y hy
  obtain ⟨hphase, hreason⟩ := (hmoved.trans hsettled).2 rfl
  exact ⟨x, hx, hphase, hreason⟩

section

variable {seq : Nat} {l : List Words8} {e : BitVec 8} {i : BitVec 12} (hr : AMap.find s.records seq = some r) (hkind : r.kind = 5)
  (hnone : r.arrayBase = none) (hstart : startable s r = true) (hruns : helmRuns s = true) (hhome : allHome s (pilotClock s) = true)

include hr hkind hnone hstart hruns hhome

/-- The start of a nested GRAPH: what its array gives decides (R34). -/
theorem exec_nestedGraphStart : exec (.nestedGraphStart seq) s = (readArray s r.owner r.words r.level).elim (fun l => .next (settle (acceptArray s r l)))
    fun x => .next (settle (moveRecord (reportWalks s r.owner r.words.w2 (graphLength r.words)) r .faulted x.1 x.2)) := by
  have hgo : r.kind = 5 ∧ r.arrayBase.isNone = true ∧ startable s r = true ∧ helmRuns s = true ∧ allHome s (pilotClock s) = true :=
    ⟨hkind, by rw [hnone]; rfl, hstart, hruns, hhome⟩
  have hexec : exec (.nestedGraphStart seq) s = execNestedGraphStart seq s := rfl
  rw [hexec, execNestedGraphStart, hr]
  refine (if_pos hgo).trans ?_
  split
  · next hx => rw [hx]; rfl
  · next hx => rw [hx]; rfl

end

/-! ### What the helm reads -/

section

variable {queue : BitVec 8} {w : Words8} {rest : List Words8}

theorem inv_taken (hinv : Inv s) : Inv (moveRecord (helmTook s queue rest) (takenRecord s queue w) .accepted 0 0xFFF) :=
  invFrom_zero.mp ((inv_moveRecord ((invFrom_zero.mpr hinv).number (t := helmTook s queue rest)) (Nat.lt_succ_self _)).mono (Nat.zero_le _))

/-- A WAIT's slot holds its target: the count has reached it, modulo 2^32 (R36). -/
theorem eventHolds_iff : eventHolds s r = true
    ↔ (AMap.getD (getOwner s r.owner).slots (bits r.words.w1 63 58) 0 - r.words.w1.setWidth 32).toNat < 2 ^ 31 := by
  have htarget : BitVec.ofNat 32 r.target = r.words.w1.setWidth 32 := by
    refine BitVec.eq_of_toNat_eq ?_
    simp [RecordState.target, bits, bitsN]
  rw [eventHolds, htarget, decide_eq_true_iff]
  rfl

/-- The helm reads a WAIT that breaks no rule while every other record is final. -/
theorem exec_wait_top (hruns : helmRuns s = true) (hq : (getQueue s queue).fifo = w :: rest) (hup : s.board.phase = .running)
    (he : readReason s (getQueue s queue) w = 0) (hfinal : ∀ x ∈ s.records, x.2.phase.final = true) (hk : bits w.w0 63 60 = 4)
    (hheld : s.helm.heldBack = []) (hroom : (s.helm.logHead - s.helm.logTail).toNat + 4 ≤ 2 ^ s.helm.logSize.toNat) :
    ∃ t x, exec (.wait queue) s = .next t ∧ AMap.find t.records s.helm.nextSeq = some x ∧ x.words = w ∧ x.reason = 0
      ∧ ((AMap.getD (getOwner s (getQueue s queue).owner).slots (bits w.w1 63 58) 0 - w.w1.setWidth 32).toNat < 2 ^ 31 → x.phase = .completed)
      ∧ (¬(AMap.getD (getOwner s (getQueue s queue).owner).slots (bits w.w1 63 58) 0 - w.w1.setWidth 32).toNat < 2 ^ 31 → x.phase = .running) := by
  obtain ⟨ha, hb⟩ := deps_of_recordReason (recordReason_of_readReason he)
  have hread := helmRead_accepts (kind := (· == 4)) hq hup hruns (by simp [hk]) (fun h => by omega) he (by omega)
  have hopen : OneOpen s.records ((takenRecord s queue w).moved .accepted 0) (moveRecord (helmTook s queue rest) (takenRecord s queue w) .accepted 0 0xFFF) :=
    ⟨by rw [moveRecord_records, moving_records_top rfl]; rfl, hfinal⟩
  have hroom' : RoomFor 4 (helmTook s queue rest) := ⟨(helmRuns_iff.mp hruns).1, hheld, hroom⟩
  obtain ⟨x, hx, hsame, hreason, hphase⟩ := settle_wait hopen (hroom'.moveRecord rfl) hk rfl rfl rfl ha hb
  have hevent : eventHolds (moveRecord (helmTook s queue rest) (takenRecord s queue w) .accepted 0 0xFFF) ((takenRecord s queue w).moved .accepted 0) = true
      ↔ (AMap.getD (getOwner s (getQueue s queue).owner).slots (bits w.w1 63 58) 0 - w.w1.setWidth 32).toNat < 2 ^ 31 := by
    have hsame : eventHolds (moveRecord (helmTook s queue rest) (takenRecord s queue w) .accepted 0 0xFFF) ((takenRecord s queue w).moved .accepted 0)
        = eventHolds (helmTook s queue rest) (takenRecord s queue w) := eventHolds_congr (moveRecord_own rfl) rfl
    rw [hsame]
    exact eventHolds_iff
  exact ⟨_, x, hread, hx, by rw [hsame]; rfl, hreason, fun h => hphase.trans (if_pos (hevent.mpr h)), fun h => hphase.trans (if_neg (mt hevent.mp h))⟩

end

end

end Sys2Proof.Machine

namespace Sys2Proof

open Sys2Proof.Machine Sys2Proof.Safety

/-- Settles O33: a WAIT goes through its own two or three state changes (`settle_wait`); an accepted array stands, and stays through what the helm does
next (`arrayStands_settle`). -/
theorem waitsAndGraphs : Obligations.WaitsAndGraphs := by
  unfold Obligations.WaitsAndGraphs
  intro s queue w rest seq r l e i q new u home slot reached Array hinv hruns
  have harrays : ∀ {t g first}, ArrayStands t g first l → Array t g first := fun h => ⟨h.graph, h.nextSeq, h.child⟩
  refine ⟨fun hq hup he hfinal => ⟨fun hk hheld hroom => ?_, fun hk hhome harray => ?_, fun hk hhome harray => ?_⟩,
    fun hr hkind hnone hstart hhome => ⟨fun harray => ?_, fun harray => ?_⟩⟩
  · exact exec_wait_top hruns hq hup he hfinal hk hheld hroom
  · have hread := helmRead_takes (kind := (· == 5)) hq hup hruns (by simp [hk]) fun _ => hhome
    have harray' : readArray (helmTook s queue rest) (getQueue s queue).owner w 0 = .inr (e, i) := harray
    rw [if_pos he, if_pos hk, harray'] at hread
    exact ⟨_, _, hread, by rw [moveRecord_records, moving_records_top rfl]; exact AMap.find_set_self _ _ _, rfl, rfl, rfl⟩
  · have hread := helmRead_takes (kind := (· == 5)) hq hup hruns (by simp [hk]) fun _ => hhome
    have harray' : readArray (helmTook s queue rest) (getQueue s queue).owner w 0 = .inl l := harray
    rw [if_pos he, if_pos hk, harray'] at hread
    refine ⟨_, hread, harrays ?_⟩
    have hnext : (moveRecord (helmTook s queue rest) (takenRecord s queue w) .accepted 0 0xFFF).helm.nextSeq = s.helm.nextSeq + 1 := moveRecord_nextSeq
    have hstands := arrayStands_settle (s := moveRecord (helmTook s queue rest) (takenRecord s queue w) .accepted 0 0xFFF) (g := takenRecord s queue w)
      (l := l) (inv_taken hinv) (by rw [hnext]; exact Nat.lt_succ_self _)
    rw [hnext] at hstands
    exact hstands
  · obtain ⟨hnum, hlt⟩ := (invFrom_zero.mpr hinv).found hr
    have hexec := exec_nestedGraphStart hr hkind hnone hstart hruns hhome
    rw [harray] at hexec
    obtain ⟨x, hx, hphase, hreason⟩ := settle_faulted (e := e) (i := i) hinv (hnum ▸ hlt) r.owner r.words.w2 (graphLength r.words)
    exact ⟨_, x, hexec, hnum ▸ hx, hphase, hreason⟩
  · obtain ⟨hnum, hlt⟩ := (invFrom_zero.mpr hinv).found hr
    have hexec := exec_nestedGraphStart hr hkind hnone hstart hruns hhome
    rw [harray] at hexec
    exact ⟨_, hexec, harrays (hnum ▸ arrayStands_settle (g := r) (l := l) hinv (hnum ▸ hlt))⟩

end Sys2Proof
end

section
/-! ## A crew that leaves its cores (R39, R58)
Threads that end leave messages, spawns and spilled entries behind, which are discarded, and a spill area's header is written again. `Pruning` says what
none of that changes: the records, which crews there are and which records they are of, and that an idle core stays idle. -/

namespace Sys2Proof.Machine

open Safety

/-- A crew's number and its record's. -/
def crewOf (e : Nat × Crew) : Nat × Nat := (e.1, e.2.record)

theorem AMap.map_set_of_find {α β : Type} {m : AMap α} {k : Nat} {v w : α} {f : Nat × α → β} (hf : AMap.find m k = some v) (h : f (k, w) = f (k, v)) :
    (AMap.set m k w).map f = m.map f := by
  induction m with
  | nil => exact absurd hf.symm (Option.some_ne_none v)
  | cons e m ih =>
    obtain ⟨j, x⟩ := e
    by_cases hj : j = k
    · subst hj
      obtain rfl : x = v := Option.some.inj ((if_pos rfl).symm.trans hf)
      simp [AMap.set, h]
    · have hm : AMap.find m k = some v := (if_neg hj).symm.trans hf
      simp [AMap.set, hj, ih hm]

theorem map_crewOf_erase (m : AMap Crew) (k : Nat) : (AMap.erase m k).map crewOf = (m.map crewOf).filter fun e => e.1 != k := by
  induction m with
  | nil => rfl
  | cons e m ih =>
    obtain ⟨j, w⟩ := e
    by_cases hj : j = k <;> simp [AMap.erase, hj, ih, crewOf]

/-- What discarding the traffic of ended threads leaves of a state. -/
structure Pruning (s t : State) : Prop where
  records : t.records = s.records
  crews : t.crews.map crewOf = s.crews.map crewOf
  core : ∀ k, (getCore s k).crew = none → (getCore t k).crew = none

section

variable {s₀ s t u : State} {p : Prop} [Decidable p]

theorem Pruning.refl (s : State) : Pruning s s := ⟨rfl, rfl, fun _ => id⟩

theorem Pruning.trans (h : Pruning s t) (h' : Pruning t u) : Pruning s u :=
  ⟨h'.records.trans h.records, h'.crews.trans h.crews, fun k hk => h'.core k (h.core k hk)⟩

/-- A change of the other parts of the state. -/
theorem Pruning.same (h : Pruning s₀ s) (records : t.records = s.records := by rfl) (crews : t.crews = s.crews := by rfl)
    (cores : t.cores = s.cores := by rfl) : Pruning s₀ t :=
  h.trans ⟨records, congrArg _ crews, fun k hk => by rwa [getCore, cores]⟩

theorem Pruning.ite (hs : Pruning s₀ s) (ht : Pruning s₀ t) : Pruning s₀ (if p then s else t) := by
  split
  · exact hs
  · exact ht

theorem Pruning.when (ht : Pruning s₀ s → Pruning s₀ t) (hs : Pruning s₀ s) : Pruning s₀ (if p then t else s) := .ite (ht hs) hs

theorem Pruning.unless (ht : Pruning s₀ s → Pruning s₀ t) (hs : Pruning s₀ s) : Pruning s₀ (if p then s else t) := .ite hs (ht hs)

theorem Pruning.foldl {α : Type} {f : State → α → State} (hf : ∀ s x, Pruning s₀ s → Pruning s₀ (f s x)) {l : List α} :
    ∀ {s : State}, Pruning s₀ s → Pruning s₀ (l.foldl f s) := by
  induction l with
  | nil => exact id
  | cons x l ih => exact fun h => ih (hf _ x h)

/-- A crew that keeps its record. -/
theorem Pruning.setCrew {c : Nat} {v w : Crew} (h : Pruning s₀ s) (hw : getCrew s c = some w) (hv : v.record = w.record) : Pruning s₀ (setCrew s c v) :=
  h.trans ⟨rfl, AMap.map_set_of_find hw (Prod.ext rfl hv), fun _ => id⟩

/-- A core that keeps its crew. -/
theorem Pruning.setCore {k : Nat} {v : CoreState} (h : Pruning s₀ s) (hv : (getCore s k).crew = none → v.crew = none) : Pruning s₀ (setCore s k v) := by
  refine h.trans ⟨rfl, rfl, fun j hj => ?_⟩
  by_cases hjk : j = k
  · subst hjk
    rw [getCore_setCore]
    exact hv hj
  · rwa [getCore, Machine.setCore, AMap.getD_set_ne _ _ _ hjk]

/-! ### Writes at the homes -/

/-- What a write at the homes leaves of a state: the records, the crews with their threads, and the cores. -/
structure Writing (s t : State) : Prop where
  records : t.records = s.records
  crews : t.crews = s.crews
  cores : t.cores = s.cores
  threads : t.threads = s.threads

theorem Writing.refl (s : State) : Writing s s := ⟨rfl, rfl, rfl, rfl⟩

theorem Writing.same (h : Writing s₀ s) (records : t.records = s.records := by rfl) (crews : t.crews = s.crews := by rfl)
    (cores : t.cores = s.cores := by rfl) (threads : t.threads = s.threads := by rfl) : Writing s₀ t :=
  ⟨records.trans h.records, crews.trans h.crews, cores.trans h.cores, threads.trans h.threads⟩

theorem Writing.ite (hs : Writing s₀ s) (ht : Writing s₀ t) : Writing s₀ (if p then s else t) := by
  split
  · exact hs
  · exact ht

theorem Writing.when (ht : Writing s₀ s → Writing s₀ t) (hs : Writing s₀ s) : Writing s₀ (if p then t else s) := .ite (ht hs) hs

theorem Writing.unless (ht : Writing s₀ s → Writing s₀ t) (hs : Writing s₀ s) : Writing s₀ (if p then s else t) := .ite hs (ht hs)

theorem Writing.foldl {α : Type} {f : State → α → State} (hf : ∀ s x, Writing s₀ s → Writing s₀ (f s x)) {l : List α} :
    ∀ {s : State}, Writing s₀ s → Writing s₀ (l.foldl f s) := by
  induction l with
  | nil => exact id
  | cons x l ih => exact fun h => ih (hf _ x h)

theorem Writing.claimLine {k keyNo vline} (h : Writing s₀ s) : Writing s₀ (claimLine s k keyNo vline) := by
  unfold Machine.claimLine
  extract_lets _ _ u
  have hu : Writing s₀ u := .when (fun h => h.same) h
  exact .ite hu.same h

theorem Writing.putBytes {agent a bs} (h : Writing s₀ s) : Writing s₀ (putBytes s agent a bs) := h.same
theorem Writing.performWrite {a bs w rel track} (h : Writing s₀ s) : Writing s₀ (performWrite s a bs w rel track) := h.same
theorem Writing.rmwHome {a bs w track own} (h : Writing s₀ s) : Writing s₀ (rmwHome s a bs w track own) :=
  (h.performWrite (a := a) (bs := bs) (w := w) (rel := []) (track := track)).same

theorem Writing.bringHome {w} (h : Writing s₀ s) : Writing s₀ (bringHome s w) := by
  unfold Machine.bringHome
  extract_lets xs s₁ s₂ s₃
  have h₁ : Writing s₀ s₁ := .ite h.putBytes (.foldl (fun _ _ h => h.putBytes) h)
  have h₂ : Writing s₀ s₂ := .unless (fun h => h.same) h₁
  have h₃ : Writing s₀ s₃ := .when (fun h => h.same) h₂
  exact h₃.same

theorem Writing.headerFirst {w x} (h : Writing s₀ s) : Writing s₀ (headerFirst s w x) := .foldl (fun _ _ h => h.bringHome) h

theorem Writing.clearTileFlag {w track} (h : Writing s₀ s) : Writing s₀ (clearTileFlag s w track) := by
  unfold Machine.clearTileFlag
  split
  · exact h
  · exact h.headerFirst.rmwHome

theorem Writing.homeWrite {a bs w rel} (h : Writing s₀ s) : Writing s₀ (homeWrite s a bs w rel) := h.performWrite.clearTileFlag
theorem Writing.trackedHomeWrite {a bs w rel} (h : Writing s₀ s) : Writing s₀ (trackedHomeWrite s a bs w rel) := h.performWrite.clearTileFlag

theorem Writing.areaWord {c o va key home v} (h : Writing s₀ s) : Writing s₀ (areaWord s c o va key home v) :=
  .ite h.claimLine.homeWrite h.claimLine.trackedHomeWrite

theorem Pruning.writing (h : Pruning s₀ s) (ht : Writing s t) : Pruning s₀ t := h.same ht.records ht.crews ht.cores

/-! ### Writes of a spill area's header -/

theorem Pruning.crewEvent {c cause v} (h : Pruning s₀ s) : Pruning s₀ (crewEvent s c cause v) := by
  unfold Machine.crewEvent
  split
  · exact h
  · next hw => exact .ite (h.setCrew hw rfl) (h.setCrew hw rfl)

theorem Pruning.areaWords {crew c o l} : ∀ {s va}, Pruning s₀ s → Pruning s₀ (areaWords s crew c o va l) := by
  induction l with
  | nil => exact id
  | cons v l ih =>
    intro s va h
    rw [Machine.areaWords]
    refine ih ?_
    split
    · exact h.writing (Writing.refl s).areaWord
    · exact h.crewEvent

/-! ### Traffic of ended threads -/

theorem Pruning.pruneArea {keep crew} (h : Pruning s₀ s) : Pruning s₀ (pruneArea keep s crew) := by
  unfold Machine.pruneArea
  split
  · exact h
  · next w hw =>
    refine .ite h (Pruning.areaWords (h.setCrew hw ?_))
    unfold Crew.leaveArea
    split <;> rfl

theorem Pruning.pruneSpills {keep} (h : Pruning s₀ s) : Pruning s₀ (pruneSpills s keep) := .foldl (fun _ _ h => h.pruneArea) h.same

theorem Pruning.discardFor {t} (h : Pruning s₀ s) : Pruning s₀ (discardFor s t) := Pruning.pruneSpills h.same

theorem Pruning.freeThread {t} (h : Pruning s₀ s) : Pruning s₀ (freeThread s t) := by
  unfold Machine.freeThread
  extract_lets u k v
  have hv : Pruning s₀ v := h.discardFor.setCore id
  exact hv.same

theorem Pruning.forgetThread {t} (h : Pruning s₀ s) : Pruning s₀ (forgetThread s t) := Pruning.freeThread h.same

theorem Pruning.dropPending {c o} (h : Pruning s₀ s) : Pruning s₀ (dropPending s c o) := .ite (Pruning.pruneSpills h.same) h

/-! ### The crew itself -/

theorem Pruning.crewRecord (h : Pruning s t) (c : Nat) : (getCrew t c).map (·.record) = (getCrew s c).map (·.record) := by
  have hfind : ∀ u : State, (getCrew u c).map (·.record) = AMap.find (u.crews.map crewOf) c := fun u => (AMap.find_map crewOf (fun _ => rfl) u.crews c).symm
  rw [hfind, hfind, h.crews]

theorem Pruning.crew_none (h : Pruning s t) {c : Nat} (hs : getCrew s c = none) : getCrew t c = none :=
  Option.map_eq_none_iff.mp ((h.crewRecord c).trans (by rw [hs]; rfl))

/-- Cores that change but for their crews. -/
theorem Pruning.withCores {g : Nat × CoreState → Nat × CoreState} (h : Pruning s₀ s) (cores : t.cores = s.cores.map g) (hkey : ∀ e, (g e).1 = e.1)
    (hg : ∀ e, (g e).2.crew = e.2.crew) (records : t.records = s.records := by rfl) (crews : t.crews = s.crews := by rfl) : Pruning s₀ t := by
  refine h.trans ⟨records, congrArg _ crews, fun k hk => ?_⟩
  rw [getCore, cores, AMap.getD, AMap.find_map g hkey]
  rw [getCore, AMap.getD] at hk
  cases hf : AMap.find s.cores k with
  | none => rfl
  | some v =>
    rw [hf] at hk
    exact (hg (k, v)).trans hk

theorem Pruning.releaseCircuits {k} (h : Pruning s₀ s) : Pruning s₀ (releaseCircuits s k) := by
  unfold Machine.releaseCircuits
  extract_lets u c
  have hu : Pruning s₀ u := h.withCores rfl (fun _ => rfl) fun _ => rfl
  exact hu.setCore id

theorem Pruning.leaveCore {k} (h : Pruning s₀ s) : Pruning s₀ (leaveCore s k) := h.releaseCircuits.setCore fun _ => rfl

theorem leaveCore_crew (s : State) (k : Nat) : (getCore (leaveCore s k) k).crew = none := by rw [leaveCore, getCore_setCore]

/-- A crew's threads end, and it leaves the cores that are its own. -/
def releasing (s : State) (id : Nat) (w : Crew) : State :=
  let u := (crewTags s id).foldl forgetThread (forgetWaiters s (w.waits (crewTags s id)))
  if ownsCores u (id, w) then w.cores.foldl leaveCore u else u

theorem releaseCrew_eq (s : State) (id : Nat) (w : Crew) :
    releaseCrew s id w = dropPending { releasing s id w with crews := AMap.erase (releasing s id w).crews id } w.cluster w.owner := rfl

theorem pruning_releasing (s : State) (id : Nat) (w : Crew) : Pruning s (releasing s id w) :=
  .when (fun h => .foldl (fun _ _ h => h.leaveCore) h) (.foldl (fun _ _ h => h.forgetThread) (Pruning.refl s).same)

/-- The crew is listed no more. -/
theorem pruning_releaseCrew (s : State) (id : Nat) (w : Crew) :
    Pruning { releasing s id w with crews := AMap.erase (releasing s id w).crews id } (releaseCrew s id w) := (Pruning.refl _).dropPending

theorem releaseCrew_records (s : State) (id : Nat) (w : Crew) : (releaseCrew s id w).records = s.records :=
  (pruning_releaseCrew s id w).records.trans (pruning_releasing s id w).records

theorem releaseCrew_getCrew (s : State) (id : Nat) (w : Crew) : getCrew (releaseCrew s id w) id = none :=
  (pruning_releaseCrew s id w).crew_none (AMap.find_erase _ _)

/-- The other crews stay, each with its record. -/
theorem releaseCrew_crews (s : State) (id : Nat) (w : Crew) :
    (releaseCrew s id w).crews.map crewOf = (s.crews.map crewOf).filter fun e => e.1 != id := by
  refine (pruning_releaseCrew s id w).crews.trans ?_
  rw [← (pruning_releasing s id w).crews]
  exact map_crewOf_erase _ _

/-- The cores of a crew that owns them are idle. -/
theorem releaseCrew_core {id : Nat} {w : Crew} (hrun : w.phase = .running) {k : Nat} (hk : k ∈ w.cores) : (getCore (releaseCrew s id w) k).crew = none := by
  refine (pruning_releaseCrew s id w).core k ?_
  have howns : ∀ u, ownsCores u (id, w) = true := fun u => by simp [ownsCores, hrun]
  have hcore : (getCore (releasing s id w) k).crew = none := by
    rw [releasing, if_pos (howns _)]
    exact foldl_reaches (P := fun _ => True) (Q := fun s => (getCore s k).crew = none) (fun _ _ _ => trivial) (fun s _ => leaveCore_crew s k)
      (fun _ _ h => (Pruning.refl _).leaveCore.core k h) hk trivial
  exact hcore

end

end Sys2Proof.Machine
end

section
/-! ## Aborts, the logbook window and snapshots (R39–R42) -/

namespace Sys2Proof.Machine

open Safety

section

variable {s s₀ t u : State} {reason : BitVec 8} {seq q : Nat} {r a : RecordState}

/-! ### Aborts -/

theorem abortLive_find_ne (hq : q ≠ seq) : AMap.find (abortLive reason s seq).records q = AMap.find s.records q := by
  unfold abortLive
  split
  · split
    · exact stopRecord_find_ne hq
    · rfl
  · rfl

/-- A record is live, or all of its work has stopped since a state. -/
structure LiveOrHalted (reason : BitVec 8) (seq : Nat) (s₀ s : State) : Prop where
  aborting : Aborting reason s₀ s
  record : ∃ y, AMap.find s.records seq = some y ∧ y.phase.final = false ∧ (y.ending = none ∨ Halted seq s₀ s)

theorem LiveOrHalted.abortLive (h : LiveOrHalted reason seq s₀ s) : LiveOrHalted reason seq s₀ (abortLive reason s q) := by
  obtain ⟨habort, y, hy, hopen, hend⟩ := h
  have hnext : Aborting reason s (Machine.abortLive reason s q) := aborting_abortLive
  refine ⟨habort.trans hnext, ?_⟩
  obtain ⟨z, hz, hsame, hkeep⟩ := hnext.record seq y hy
  refine ⟨z, hz, by rw [hsame]; exact hopen, ?_⟩
  rcases hend with hend | hhalt
  · by_cases hq : q = seq
    · subst hq
      rw [abortLive_of_live hy hend] at hnext ⊢
      exact .inr (Halted.earlier habort (halted_stopRecord hy hopen))
    · obtain rfl : y = z := Option.some.inj (hy.symm.trans ((abortLive_find_ne (Ne.symm hq)).symm.trans hz))
      exact .inl hend
  · exact .inr (hhalt.later hnext)

theorem LiveOrHalted.abortWork (h : LiveOrHalted reason seq s₀ s) : LiveOrHalted reason seq s₀ (abortWork s q reason) := by
  rw [abortWork_eq]
  exact List.foldlRecOn (motive := LiveOrHalted reason seq s₀) _ _ h fun _ h _ _ => h.abortLive

/-- A record that is live before an abort, and has the abort's ending after it, has stopped. -/
theorem LiveOrHalted.halted (h : LiveOrHalted reason seq s₀ s) (hend : EndsAborted reason seq s) : Halted seq s₀ s := by
  obtain ⟨_, y, hy, _, hnone | hhalt⟩ := h
  · obtain ⟨z, hz, hend⟩ := hend
    obtain rfl := Option.some.inj (hy.symm.trans hz)
    exact absurd (hend.symm.trans hnone) (Option.some_ne_none _)
  · exact hhalt

/-- A record of an array is one of it still while records are aborted. -/
theorem mem_childrenOf_aborting (hinv : Inv s) (hq : q ∈ childrenOf s seq) (ha : AMap.find s.records q = some a) (h : Aborting reason s t) :
    q ∈ childrenOf t seq := by
  obtain ⟨⟨q', x⟩, hx, rfl⟩ := List.mem_map.mp hq
  obtain ⟨hmem, hcond⟩ := List.mem_filter.mp hx
  obtain ⟨_, hfind⟩ := find_of_mem_records hinv hmem
  obtain ⟨y, hy, hsame, _⟩ := h.record q' x hfind
  refine List.mem_map.mpr ⟨(q', y), List.mem_filter.mpr ⟨AMap.mem_of_find hy, ?_⟩, rfl⟩
  rw [hsame]
  exact hcond

/-- What an abort of a record, or of its queue, leaves (R39): the record and those of its array end aborted, and the record's work has stopped. -/
structure AbortedWith (reason : BitVec 8) (seq : Nat) (r : RecordState) (s t : State) : Prop where
  record : ∃ y, AMap.find t.records seq = some y ∧ y.words = r.words ∧ y.ending = some (.aborted, reason)
  child : ∀ q a, q ∈ childrenOf s seq → AMap.find s.records q = some a → a.phase.final = false → a.ending = none →
    ∃ y, AMap.find t.records q = some y ∧ y.words = a.words ∧ y.ending = some (.aborted, reason)
  halted : Halted seq s t

/-- The ending of an abort, on the record that had its words before. -/
theorem EndsAborted.words (h : EndsAborted reason q t) (hr : AMap.find s.records q = some r) (habort : Aborting reason s t) :
    ∃ y, AMap.find t.records q = some y ∧ y.words = r.words ∧ y.ending = some (.aborted, reason) := by
  obtain ⟨y, hy, hend⟩ := h
  obtain ⟨z, hz, hsame, _⟩ := habort.record q r hr
  obtain rfl := Option.some.inj (hy.symm.trans hz)
  exact ⟨y, hy, by rw [hsame], hend⟩

section

variable (hinv : Inv s) (hr : AMap.find s.records seq = some r) (hopen : r.phase.final = false) (hend : r.ending = none)

include hr hopen hend

theorem liveOrHalted_refl : LiveOrHalted reason seq s s := ⟨(Stopping.refl s).aborting, r, hr, hopen, .inl hend⟩

include hinv

/-- Aborts of several records, one of which is the record. -/
theorem abortedWith_foldl {l : List Nat} (hmem : seq ∈ l) : AbortedWith reason seq r s (l.foldl (fun s q => abortWork s q reason) s) := by
  have hall : LiveOrHalted reason seq s (l.foldl (fun s q => abortWork s q reason) s) :=
    List.foldlRecOn (motive := LiveOrHalted reason seq s) _ _ (liveOrHalted_refl hr hopen hend) fun _ h _ _ => h.abortWork
  have hreach : ∀ {q a}, (∀ u, Aborting reason s u → q ∈ withChildren u 4 seq) → AMap.find s.records q = some a → a.phase.final = false →
      a.ending = none → EndsAborted reason q (l.foldl (fun s q => abortWork s q reason) s) := fun {q _} hin ha hopen hend =>
    foldl_reaches (x := seq) (f := fun s q => abortWork s q reason) (P := Aborting reason s) (Q := EndsAborted reason q)
      (fun _ _ h => h.trans aborting_abortWork) (fun u h => endsAborted_abortWork (hin u h) ha hopen hend h) (fun _ _ h => h.later aborting_abortWork) hmem
      (Stopping.refl s).aborting
  have hself := hreach (fun u _ => mem_withChildren u seq) hr hopen hend
  exact ⟨hself.words hr hall.aborting, fun q a hq ha hopen hend => (hreach (fun u hu => mem_withChildren_of_child (mem_childrenOf_aborting hinv hq ha hu))
    ha hopen hend).words ha hall.aborting, hall.halted hself⟩

end

/-- The bridge's abort register holds the last write to it (R39). -/
def withAbortReg (s : State) (v : Word) : State := { s with helm := { s.helm with abortReg := v } }

/-- Aborts of several records, after the write of the abort register. -/
theorem abortedWith_register (v : Word) {l : List Nat} (hinv : Inv s) (hr : AMap.find s.records seq = some r) (hopen : r.phase.final = false)
    (hend : r.ending = none) (hmem : seq ∈ l) : AbortedWith reason seq r s (l.foldl (fun s q => abortWork s q reason) (withAbortReg s v)) :=
  have h := abortedWith_foldl (reason := reason) (s := withAbortReg s v) hinv hr hopen hend hmem
  ⟨h.record, h.child, h.halted.thread, h.halted.voyage, h.halted.sections⟩

/-- The bits that the abort register holds: whether a queue is meant, and the 48 of a sequence number (R39). -/
theorem abortMask_bit : ∀ i, i < 64 → (0x8000FFFFFFFFFFFF : Word).getLsbD i = (decide (i < 48) || decide (i = 63)) := by decide

theorem abortValue_record {n : Nat} (hn : n < 2 ^ 48) : let v : Word := BitVec.ofNat 64 n &&& 0x8000FFFFFFFFFFFF
    bitAt v 63 = false ∧ bits v 47 0 = n := by
  have hhigh : ∀ i, 48 ≤ i → n.testBit i = false := fun i hi => Nat.testBit_lt_two_pow (hn.trans_le (Nat.pow_le_pow_right (by decide) hi))
  have hv : (BitVec.ofNat 64 n &&& 0x8000FFFFFFFFFFFF : Word) = BitVec.ofNat 64 n := BitVec.eq_of_getLsbD_eq fun i hi => by
    rw [BitVec.getLsbD_and, abortMask_bit i hi]
    by_cases hlow : i < 48
    · simp [hlow]
    · simp [BitVec.getLsbD_ofNat, hhigh i (by omega)]
  rw [hv]
  refine ⟨by rw [bitAt, BitVec.getLsbD_ofNat, hhigh 63 (by decide)]; rfl, ?_⟩
  simp only [bits, bitsN, BitVec.toNat_ofNat]
  omega

theorem abortValue_queue (queue : BitVec 8) : let v : Word := BitVec.ofNat 64 (2 ^ 63 + queue.toNat) &&& 0x8000FFFFFFFFFFFF
    bitAt v 63 = true ∧ v.setWidth 8 = queue := by
  refine ⟨?_, BitVec.eq_of_getLsbD_eq fun i hi => ?_⟩
  · have hhigh : queue.toNat.testBit 63 = false := Nat.testBit_lt_two_pow (queue.isLt.trans (by decide))
    rw [bitAt, BitVec.getLsbD_and, abortMask_bit 63 (by decide), BitVec.getLsbD_ofNat, Nat.testBit_two_pow_add_eq, hhigh]
    rfl
  · rw [BitVec.getLsbD_setWidth, BitVec.getLsbD_and, abortMask_bit i (by omega), BitVec.getLsbD_ofNat, Nat.testBit_two_pow_add_gt (by omega)]
    simp [hi, show i < 48 by omega, show i < 64 by omega, BitVec.testBit_toNat]

theorem exec_abortRecord (hseq : seq < 2 ^ 48) : exec (.abortRecord seq) s = .next ([seq].foldl (fun s q => abortWork s q 0x31)
    (withAbortReg s (BitVec.ofNat 64 seq &&& 0x8000FFFFFFFFFFFF))) := by
  obtain ⟨hbit, hbits⟩ := abortValue_record hseq
  have hexec : exec (.abortRecord seq) s = .next (writeAbort s (BitVec.ofNat 64 (seq % 2 ^ 48))) := rfl
  rw [hexec, Nat.mod_eq_of_lt hseq, writeAbort, hbit, hbits]
  rfl

theorem exec_abortQueue (queue : BitVec 8) : exec (.abortQueue queue) s
    = .next (((s.records.filter fun r => r.2.queue == queue).map (·.1)).foldl (fun s q => abortWork s q 0x31)
      (withAbortReg s (BitVec.ofNat 64 (2 ^ 63 + queue.toNat) &&& 0x8000FFFFFFFFFFFF))) := by
  obtain ⟨hbit, hqueue⟩ := abortValue_queue queue
  have hexec : exec (.abortQueue queue) s = .next (writeAbort s (BitVec.ofNat 64 (2 ^ 63 + queue.toNat))) := rfl
  rw [hexec, writeAbort, hbit, hqueue]
  rfl

/-! ### The final entry of an aborted record -/

/-- The records of two states differ in what ended work releases alone. -/
def RecordsJoin (a b : AMap RecordState) : Prop :=
  ∀ q x, AMap.find a q = some x → ∃ y, AMap.find b q = some y ∧ y = { x with endClk := y.endClk }

theorem RecordsJoin.refl (a : AMap RecordState) : RecordsJoin a a := fun _ x hx => ⟨x, hx, rfl⟩

theorem RecordsJoin.trans {a b c : AMap RecordState} (h : RecordsJoin a b) (h' : RecordsJoin b c) : RecordsJoin a c := fun q x hx => by
  obtain ⟨y, hy, hxy⟩ := h q x hx
  obtain ⟨z, hz, hyz⟩ := h' q y hy
  exact ⟨z, hz, hyz.trans (by rw [hxy])⟩

theorem RecordsJoin.foldl {α : Type} {f : State → α → State} (hf : ∀ s x, RecordsJoin s.records (f s x).records) (l : List α) (s : State) :
    RecordsJoin s.records (l.foldl f s).records :=
  List.foldlRecOn (motive := fun t : State => RecordsJoin s.records t.records) _ _ (.refl _) fun _ h _ _ => h.trans (hf _ _)

theorem joinEnd_joins (s : State) (q : Nat) (c : Clock) : RecordsJoin s.records (joinEnd s q c).records := by
  unfold joinEnd
  split
  · next hr =>
    intro j x hx
    by_cases hj : j = q
    · subst hj
      obtain rfl := Option.some.inj (hr.symm.trans hx)
      exact ⟨_, AMap.find_set_self _ _ _, rfl⟩
    · exact ⟨x, (AMap.find_set_ne _ _ hj).trans hx, rfl⟩
  · exact .refl _

theorem joinCrew_joins (s : State) (q : Nat) (e : Nat × Crew) : RecordsJoin s.records (joinCrew s q e).records :=
  (RecordsJoin.foldl (fun _ _ => joinEnd_joins _ _ _) _ s).trans (.foldl (fun _ _ => .foldl (fun _ _ => joinEnd_joins _ _ _) _ _) _ _)

/-- The crews of an ended record leave, and nothing of its records changes but what they release. -/
theorem releaseCrews_joins (l : List (Nat × Crew)) (s : State) (seq : Nat) :
    RecordsJoin s.records (l.foldl (fun s e => releaseCrew (joinCrew s seq e) e.1 e.2) s).records :=
  .foldl (fun s e => (releaseCrew_records (joinCrew s seq e) e.1 e.2) ▸ joinCrew_joins s seq e) l s

section

variable {p : RecPhase} {e : BitVec 8}

/-- The state in which an aborted record whose work is done moves to its final state. -/
def abortReleased (s : State) (seq : Nat) : State :=
  unhold (dropRequests ((crewsOf s seq).foldl (fun s e => releaseCrew (joinCrew s seq e) e.1 e.2) s)
    fun n => match n with | .crewPlacement q _ | .spill q _ => q == seq | _ => false) (.record seq)

theorem abortReleased_joins (s : State) (seq : Nat) : RecordsJoin s.records (abortReleased s seq).records := by
  unfold abortReleased unhold
  split
  · exact releaseCrews_joins _ s seq
  · exact releaseCrews_joins _ s seq

theorem inv_abortReleased (hinv : Inv s) : Inv (abortReleased s seq) :=
  invFrom_zero.mp (inv_unhold (inv_dropRequests (.foldl (fun _ _ h => inv_releaseCrew (inv_joinCrew h)) (invFrom_zero.mpr hinv))))

/-- A record whose work is stopped, with no access on its way, takes its final entry (R39). -/
theorem exec_abortedEntry (hr : AMap.find s.records seq = some r) (hend : r.ending = some (p, e)) (hwork : workStopped s seq = true)
    (hchildren : (childrenOf s seq).all (isFinal s) = true) (hquiet : (crewsOf s seq).all (crewQuiet s) = true)
    (hmay : mayChange s (.record seq) = true) : exec (.abortedEntry seq) s = .next (moveSeq (abortReleased s seq) seq p e) := by
  have hgoes : (childrenOf s seq).any (stillGoes s) = false := by
    refine List.any_eq_false.mpr fun q hq => ?_
    have hfinal := List.all_eq_true.mp hchildren q hq
    unfold isFinal at hfinal
    unfold stillGoes
    cases hf : AMap.find s.records q with
    | none => simp
    | some x => simp [hf] at hfinal; simp [hfinal]
  have hexec : exec (.abortedEntry seq) s = execAbortedEntry seq s := rfl
  rw [hexec, execAbortedEntry, hr]
  dsimp only
  rw [hend]
  dsimp only
  rw [hwork, hgoes, hchildren, hquiet, hmay]
  rfl

/-- A record that moves to a final state keeps it through what the helm then does. -/
theorem moveSeq_final (hinv : Inv s) (hr : AMap.find s.records seq = some r) (hopen : r.phase.final = false) (hp : p.final = true) :
    ∃ y, AMap.find (moveSeq s seq p e).records seq = some y ∧ y.phase = p ∧ y.reason = e ∧ y.words = r.words := by
  obtain ⟨hnum, hlt⟩ := (invFrom_zero.mpr hinv).found hr
  have hmove : moveSeq s seq p e = settle (moveRecord s r p e r.index) := by
    rw [moveSeq, hr]
    exact if_neg (ne_true_of_eq_false hopen)
  have hkept : Inv (moveRecord s r p e r.index) :=
    invFrom_zero.mp ((inv_moveRecord (invFrom_zero.mpr hinv).all (hnum ▸ hlt)).mono (Nat.zero_le _))
  obtain ⟨x, hx, hmoved⟩ := find_moveRecord s r p e r.index
  obtain ⟨y, hy, hsettled⟩ := (settling_settle hkept).records _ x hx
  obtain ⟨hphase, hreason⟩ := (hmoved.trans hsettled).2 hp
  have hsame : r.Same y := (r.same_moved p e).trans (hmoved.trans hsettled).1
  exact ⟨y, by rw [hmove, ← hnum]; exact hy, hphase, hreason, by rw [hsame]⟩

end

/-! ### The logbook's window (R40, R41) -/

/-- The state with another tail of the logbook. -/
def withLogTail (s : State) (tail : BitVec 32) : State := { s with helm := { s.helm with logTail := tail } }

@[simp] theorem logWrite_logTail (s : State) (e : LogEntry) : (logWrite s e).helm.logTail = s.helm.logTail := by
  dsimp only [logWrite]

theorem logDrain_logTail (fuel : Nat) (s : State) : (logDrain fuel s).helm.logTail = s.helm.logTail := by
  induction fuel generalizing s with
  | zero => rfl
  | succ fuel ih =>
    rw [logDrain]
    split
    · rfl
    · split
      · rfl
      · exact (ih _).trans (logWrite_logTail _ _)

theorem snapRun_logTail (fuel : Nat) (s : State) : (snapRun fuel s).helm.logTail = s.helm.logTail := by
  induction fuel generalizing s with
  | zero => rfl
  | succ fuel ih =>
    rw [snapRun]
    split
    · rfl
    · split
      · dsimp only [logWrite]
      · dsimp only
        split
        · refine (ih _).trans ?_
          split
          · rfl
          · exact logWrite_logTail _ _
        · exact ih _

/-- The state in which the helm goes on once the logbook's tail has moved. -/
def tailMoved (s : State) (tail : BitVec 32) : State :=
  let u := logDrain (s.helm.waiting.length + 1) (withLogTail s tail)
  snapRun (u.helm.snapLeft.length + 1) u

theorem exec_logtailWrite {v : Word} (htail : (s.helm.logHead - v.setWidth 32).toNat ≤ 2 ^ s.helm.logSize.toNat) :
    exec (.logtailWrite v) s = .next (settle (tailMoved s (v.setWidth 32))) := congrArg Host.Outcome.next (if_pos htail)

theorem tailMoved_logTail (s : State) (tail : BitVec 32) : (tailMoved s tail).helm.logTail = tail :=
  (snapRun_logTail _ _).trans (logDrain_logTail _ _)

theorem inv_tailMoved (hinv : Inv s) (tail : BitVec 32) : Inv (tailMoved s tail) :=
  invFrom_zero.mp (inv_snapRun (inv_logDrain (s := withLogTail s tail) (invFrom_zero.mpr hinv)))

/-- The state in which the one entry that waited is in the logbook. -/
def oneDrained (s : State) (tail : BitVec 32) (x : LogEntry) : State :=
  let u := logWrite { withLogTail s tail with helm := { (withLogTail s tail).helm with waiting := [] } } x
  { u with helm := { u.helm with paused := logFull u.helm } }

@[simp] theorem logWrite_waiting (s : State) (e : LogEntry) : (logWrite s e).helm.waiting = s.helm.waiting := by
  dsimp only [logWrite]

@[simp] theorem logWrite_snap (s : State) (e : LogEntry) : (logWrite s e).helm.snap = s.helm.snap := by
  dsimp only [logWrite]

theorem logDrain_empty {fuel : Nat} (h : s.helm.waiting = []) : logDrain (fuel + 1) s = { s with helm := { s.helm with paused := logFull s.helm } } := by
  rw [logDrain, h]

theorem tailMoved_one {tail : BitVec 32} {x : LogEntry} (hroom : (s.helm.logHead - tail).toNat < 2 ^ s.helm.logSize.toNat) (hwait : s.helm.waiting = [x])
    (hsnap : s.helm.snap = false) : tailMoved s tail = oneDrained s tail x := by
  have hfull : logFull (withLogTail s tail).helm = false := beq_false_of_ne hroom.ne
  have hdrain : logDrain (s.helm.waiting.length + 1) (withLogTail s tail) = oneDrained s tail x := by
    have hwait' : (withLogTail s tail).helm.waiting = [x] := hwait
    rw [hwait, List.length_singleton, logDrain, hwait']
    dsimp only
    rw [hfull, if_neg Bool.false_ne_true]
    rw [logDrain_empty (logWrite_waiting _ _), oneDrained]
  have hidle : (oneDrained s tail x).helm.snap = false := by
    dsimp only [oneDrained, logWrite, withLogTail]
    exact hsnap
  unfold tailMoved
  rw [hdrain, snapRun, hidle]
  rfl

theorem oneDrained_kept (s : State) (tail : BitVec 32) (x : LogEntry) : (oneDrained s tail x).records = s.records
    ∧ (oneDrained s tail x).helm.logTail = tail ∧ (oneDrained s tail x).helm.waiting = [] ∧ (oneDrained s tail x).helm.logHead = s.helm.logHead + 1 := by
  dsimp only [oneDrained, logWrite, deviceWrite, putBytes, withLogTail]
  exact ⟨rfl, rfl, rfl, rfl⟩

theorem bytesAt_withHelm (s : State) (h : HelmState) (n a : Nat) : ({ s with helm := h } : State).bytesAt n a = s.bytesAt n a :=
  bytesAt_congr n a fun x _ _ => byteAt_congr rfl rfl rfl x

theorem bytesAt_oneDrained (hinv : Inv s) (tail : BitVec 32) (x : LogEntry) : (oneDrained s tail x).bytesAt 32 (logSlot s s.helm.logHead) = x.bytes := by
  have hwrite := bytesAt_logWrite (s := { withLogTail s tail with helm := { (withLogTail s tail).helm with waiting := [] } }) hinv.1 x
  rw [oneDrained]
  exact (bytesAt_withHelm _ _ _ _).trans hwrite

/-! ### A snapshot of one record (R42) -/

/-- The state in which a snapshot of one record starts. -/
def snapStarts (s : State) (seq : Nat) : State := { s with helm := { s.helm with snap := true, snapLeft := [seq] } }

/-- The state in which a snapshot appends the entry of its one record. -/
def snapping (s : State) : State := { s with helm := { s.helm with snap := true, snapLeft := [] } }

/-- The state in which the snapshot's record stands in the logbook. -/
def snapped (s : State) (r : RecordState) : State := logWrite (snapping s) (logEntry s r r.phase r.reason r.index 1)

/-- The state in which the snapshot has ended. -/
def snapDone (s : State) (r : RecordState) : State :=
  let u := logWrite (snapped s r) (snapEnd (snapped s r))
  { u with helm := { u.helm with snap := false } }

theorem snapped_helm (s : State) (r : RecordState) : (snapped s r).helm.snap = true ∧ (snapped s r).helm.snapLeft = []
    ∧ (snapped s r).helm.waiting = s.helm.waiting ∧ (snapped s r).helm.logHead = s.helm.logHead + 1 ∧ (snapped s r).helm.logTail = s.helm.logTail
    ∧ (snapped s r).helm.logSize = s.helm.logSize ∧ (snapped s r).helm.logBase = s.helm.logBase ∧ (snapped s r).helm.nextSeq = s.helm.nextSeq := by
  dsimp only [snapped, logWrite, snapping]
  exact ⟨rfl, rfl, rfl, rfl, rfl, rfl, rfl, rfl⟩

theorem helmRuns_of_room (hwait : s.helm.waiting = []) (hroom : (s.helm.logHead - s.helm.logTail).toNat < 2 ^ s.helm.logSize.toNat) : helmRuns s = true :=
  helmRuns_iff.mpr ⟨hwait, beq_false_of_ne hroom.ne⟩

theorem snapRun_record {fuel : Nat} {rest : List Nat} (hsnap : s.helm.snap = true) (hruns : helmRuns s = true) (hleft : s.helm.snapLeft = seq :: rest)
    (hr : AMap.find s.records seq = some r) (hopen : r.phase.final = false) : snapRun (fuel + 1) s
      = snapRun fuel (logWrite { s with helm := { s.helm with snapLeft := rest } } (logEntry s r r.phase r.reason r.index 1)) := by
  rw [snapRun, hsnap, hruns, hleft]
  dsimp only
  rw [hr]
  dsimp only
  rw [hopen]
  rfl

theorem snapRun_end {fuel : Nat} (hsnap : s.helm.snap = true) (hruns : helmRuns s = true) (hleft : s.helm.snapLeft = []) : snapRun (fuel + 1) s
    = { logWrite s (snapEnd s) with helm := { (logWrite s (snapEnd s)).helm with snap := false } } := by
  rw [snapRun, hsnap, hruns, hleft]
  rfl

theorem exec_snap_one (hsnap : s.helm.snap = false) (hwait : s.helm.waiting = []) (hroom : (s.helm.logHead - s.helm.logTail).toNat + 2 ≤ 2 ^ s.helm.logSize.toNat)
    (hlive : liveRecords s = [seq]) (hr : AMap.find s.records seq = some r) (hopen : r.phase.final = false) :
    exec .snap s = .next (snapDone s r) := by
  have hstart : exec .snap s = .next (snapRun 2 (snapStarts s seq)) := by
    have hexec : exec .snap s = .next (startSnap s) := rfl
    rw [hexec, startSnap, hsnap, hlive]
    rfl
  obtain ⟨hsnap', hleft', hwait', hhead', htail', hsize', _⟩ := snapped_helm s r
  have hruns' : helmRuns (snapped s r) = true := by
    refine helmRuns_of_room (hwait'.trans hwait) ?_
    rw [hhead', htail', hsize']
    have hstep : (s.helm.logHead + 1 - s.helm.logTail).toNat ≤ (s.helm.logHead - s.helm.logTail).toNat + 1 := by bv_omega
    omega
  have hruns : helmRuns (snapStarts s seq) = true := helmRuns_of_room (s := s) hwait (by omega)
  have hfirst : snapRun 2 (snapStarts s seq) = snapRun 1 (snapped s r) := snapRun_record rfl hruns rfl hr hopen
  rw [hstart, hfirst]
  exact congrArg Host.Outcome.next (snapRun_end hsnap' hruns' hleft')

/-- Two entries in a row go to different slots of a logbook of at least two. -/
theorem logSlot_next (hsize : 2 ≤ 2 ^ s.helm.logSize.toNat) (n : BitVec 32) : logSlot s (n + 1) + 32 ≤ logSlot s n ∨ logSlot s n + 32 ≤ logSlot s (n + 1) := by
  have hne : (n + 1).toNat % 2 ^ s.helm.logSize.toNat ≠ n.toNat % 2 ^ s.helm.logSize.toNat := by
    have hdvd : 2 ^ s.helm.logSize.toNat ∣ 2 ^ 32 := pow_dvd_pow 2 (by omega)
    have hsucc : (n + 1).toNat % 2 ^ s.helm.logSize.toNat = (n.toNat + 1) % 2 ^ s.helm.logSize.toNat := by
      rw [BitVec.toNat_add]
      exact Nat.mod_mod_of_dvd _ hdvd
    intro heq
    have hone : 1 ≡ 0 [MOD 2 ^ s.helm.logSize.toNat] := Nat.ModEq.add_left_cancel' n.toNat (hsucc.symm.trans heq)
    exact absurd (hone.eq_of_lt_of_lt (by omega) (by omega)) Nat.one_ne_zero
  unfold logSlot
  omega

theorem snapDone_kept (s : State) (r : RecordState) : (snapDone s r).helm.snap = false ∧ (snapDone s r).helm.logHead = s.helm.logHead + 2
    ∧ (snapDone s r).records = s.records := by
  dsimp only [snapDone, snapped, logWrite, snapping, deviceWrite, putBytes]
  exact ⟨rfl, by bv_omega, rfl⟩

theorem ofBytes_bytesOf (n v : Nat) : ofBytes (bytesOf n v) = v % 2 ^ (8 * n) := by
  induction n generalizing v with
  | zero => simp [bytesOf, ofBytes, Nat.mod_one]
  | succ n ih =>
    rw [bytesOf, ofBytes, ih, Nat.mul_succ, Nat.pow_add, Nat.mul_comm (2 ^ (8 * n)), Nat.mod_mul]
    rfl

theorem bytesAt_add (s : State) (m n k : Nat) : s.bytesAt (m + n) k = s.bytesAt m k ++ s.bytesAt n (k + m) := by
  induction m generalizing k with
  | zero => simp [State.bytesAt]
  | succ m ih =>
    rw [Nat.succ_add, State.bytesAt, ih, State.bytesAt, List.cons_append, show k + 1 + m = k + (m + 1) by omega]

/-- The first word of an entry in its slot. -/
theorem bytesAt_word0 {a : Nat} {e : LogEntry} (h : s.bytesAt 32 a = e.bytes) : ofBytes (s.bytesAt 8 a) = e.w0.toNat := by
  have hsplit : s.bytesAt 8 a ++ s.bytesAt 24 (a + 8) = bytesOf 8 e.w0.toNat ++ (bytesOf 8 e.w1.toNat ++ bytesOf 8 e.w2.toNat ++ bytesOf 8 e.w3.toNat) := by
    rw [← bytesAt_add, h]
    simp [LogEntry.bytes]
  rw [(List.append_inj hsplit (by rw [bytesAt_length, bytesOf_length])).1, ofBytes_bytesOf]
  exact Nat.mod_eq_of_lt e.w0.isLt

theorem wf_snapped (hinv : Inv s) (r : RecordState) : Memory.wf (snapped s r).mem = true :=
  (inv_logWrite (lo := 0) (s := snapping s) (invFrom_zero.mpr hinv)).wf

/-- The slots of the logbook, as they were before a snapshot's first entry. -/
theorem logSlot_snapped (s : State) (r : RecordState) (n : BitVec 32) : logSlot (snapped s r) n = logSlot s n := by
  obtain ⟨_, _, _, _, _, hsize, hbase, _⟩ := snapped_helm s r
  rw [logSlot, hsize, hbase, logSlot]

/-- The record's entry stands in its slot when the snapshot has ended. -/
theorem bytesAt_snapDone_first (hinv : Inv s) (hsize : 2 ≤ 2 ^ s.helm.logSize.toNat) :
    (snapDone s r).bytesAt 32 (logSlot s s.helm.logHead) = (logEntry s r r.phase r.reason r.index 1).bytes := by
  have hfirst : (snapped s r).bytesAt 32 (logSlot s s.helm.logHead) = (logEntry s r r.phase r.reason r.index 1).bytes :=
    bytesAt_logWrite (s := snapping s) hinv.1 _
  rw [snapDone]
  refine (bytesAt_withHelm _ _ _ _).trans ((bytesAt_congr 32 _ fun a hlo hhi => ?_).trans hfirst)
  rw [byteAt_logWrite (wf_snapped hinv r), logSlot_snapped, (snapped_helm s r).2.2.2.1]
  exact if_neg (by rcases logSlot_next hsize s.helm.logHead with h | h <;> omega)

theorem bytesAt_snapDone_end (hinv : Inv s) :
    (snapDone s r).bytesAt 32 (logSlot s (s.helm.logHead + 1)) = (snapEnd (snapped s r)).bytes := by
  have hend := bytesAt_logWrite (wf_snapped hinv r) (snapEnd (snapped s r))
  rw [logSlot_snapped, (snapped_helm s r).2.2.2.1] at hend
  rw [snapDone]
  exact (bytesAt_withHelm _ _ _ _).trans hend

/-- The end entry of a snapshot has type 2 and the next sequence number (R42). -/
theorem snapEnd_word0 (s : State) : (snapEnd s).w0.toNat % 16 = 2 ∧ (snapEnd s).w0.toNat / 2 ^ 16 = s.helm.nextSeq % 2 ^ 48 := by
  have hbyte : bits (s.free 30) 15 8 < 2 ^ 8 := Nat.mod_lt _ (by decide)
  have hchoice : s.choose 30 7 < 7 := Nat.mod_lt _ (by decide)
  have hw : (snapEnd s).w0.toNat = (s.helm.nextSeq * 2 ^ 16 + bits (s.free 30) 15 8 * 256 + s.choose 30 7 * 16 + 2) % 2 ^ 64 := BitVec.toNat_ofNat _ _
  rw [hw]
  omega

end

end Sys2Proof.Machine

namespace Sys2Proof

open Sys2Proof.Machine Sys2Proof.Safety

/-- Settles O34: an abort is a fold over the records that it names (`abortedWith_foldl`); the logbook's window and a snapshot are entries written one after
the other, each into its own slot. -/
theorem logbookAndAborts : Obligations.LogbookAndAborts := by
  unfold Obligations.LogbookAndAborts
  intro s seq r v p e x room size slot Marked Stopped tail hinv
  have hstopped : ∀ {i t}, exec i s = .next t → AbortedWith 0x31 seq r s t → Stopped i := fun hexec h =>
    ⟨_, hexec, h.record, h.child, h.halted.thread, h.halted.voyage, h.halted.sections⟩
  refine ⟨fun hr hopen hend hseq => ⟨?_, ?_⟩, fun hr hend hp hopen hwork hchildren hquiet hmay => ?_, fun htail => ?_, fun htail hwait hsnap hfinal => ?_,
    fun htail => ?_, fun hsnap hwait hroom hlive hr hopen => ?_, fun hsnap => ?_⟩
  · exact hstopped (exec_abortRecord hseq) (abortedWith_register _ hinv hr hopen hend (List.mem_singleton_self seq))
  · refine hstopped (exec_abortQueue r.queue) (abortedWith_register _ hinv hr hopen hend ?_)
    exact List.mem_map.mpr ⟨(seq, r), List.mem_filter.mpr ⟨AMap.mem_of_find hr, beq_self_eq_true r.queue⟩, rfl⟩
  · obtain ⟨y, hy, hjoin⟩ := abortReleased_joins s seq seq r hr
    obtain ⟨z, hz, hphase, hreason, hwords⟩ := moveSeq_final (e := e) (inv_abortReleased hinv) hy (by rw [hjoin]; exact hopen) hp
    exact ⟨_, z, exec_abortedEntry hr hend hwork hchildren hquiet hmay, hz, hphase, hreason, hwords.trans (by rw [hjoin])⟩
  · exact ⟨_, exec_logtailWrite htail, (settling_settle (inv_tailMoved hinv tail)).logTail.trans (tailMoved_logTail s tail)⟩
  · obtain ⟨hrecords, htail', hwait', hhead⟩ := oneDrained_kept s tail x
    have hsettle : settle (tailMoved s tail) = oneDrained s tail x := by
      rw [tailMoved_one htail hwait hsnap]
      exact settle_none fun e he => autoStep_of_final (hfinal e (hrecords ▸ he))
    exact ⟨_, (exec_logtailWrite htail.le).trans (congrArg _ hsettle), htail', hwait', hhead, bytesAt_oneDrained hinv tail x⟩
  · exact congrArg Host.Outcome.next (if_neg (Nat.not_le.mpr htail))
  · obtain ⟨hsnap', hhead, hrecords⟩ := snapDone_kept s r
    have hend := bytesAt_word0 (bytesAt_snapDone_end (r := r) hinv)
    obtain ⟨htype, hnext⟩ := snapEnd_word0 (snapped s r)
    exact ⟨_, exec_snap_one hsnap hwait hroom hlive hr hopen, hsnap', hhead, hrecords, bytesAt_snapDone_first hinv (Nat.le_trans (Nat.le_add_left 2 _) hroom),
      (congrArg (· % 16) hend).trans htype, (congrArg (· / 2 ^ 16) hend).trans hnext⟩
  · exact congrArg Host.Outcome.next (if_pos hsnap)

end Sys2Proof
end

section
/-! ## Crews come and go (R49, R58, R72, R74, R75, R111, R114) -/

namespace Sys2Proof.Machine

open Safety

section

variable {s₀ s t u : State} {seq crew c : Nat} {r : RecordState} {w : Crew}

/-! ### Reservations (R72) -/

theorem exec_reservation (hr : AMap.find s.records seq = some r) (hconsidered : considered s r = true) (hrefused : refusedFor s r s.helm.hage.toNat = true)
    (hnone : ∀ x ∈ s.reserves, x.record ≠ seq) (hunplaced : 0 < unplaced r) : exec (.reservation seq) s
      = .next { s with reserves := s.reserves ++ [{ record := seq, clusters := bestClusters s r (reserveSize r.cores (unplaced r)) }] } := by
  have hany : (s.reserves.any fun v => v.record == seq) = false := List.any_eq_false.mpr fun x hx => by simpa using hnone x hx
  have hexec : exec (.reservation seq) s = execReservation seq s := rfl
  rw [hexec, execReservation, hr]
  exact if_pos (by simp [hconsidered, hrefused, hany, hunplaced])

/-! ### Scrubs (R49) -/

theorem memGet_filter (m : List Host.Cell) (p : Nat → Bool) (a : Nat) : memGet (m.filter fun x => p x.1) a = if p a then memGet m a else 0 := by
  induction m with
  | nil => simp [memGet]
  | cons e m ih =>
    obtain ⟨k, v⟩ := e
    by_cases hk : k = a
    · subst hk
      by_cases hp : p k = true
      · simp [memGet, hp]
      · simp [hp, ih]
    · by_cases hp : p k = true
      · simp [memGet, hp, hk, ih]
      · simp [memGet, hp, hk, ih]

/-- A location lies in none of the stretches that are cut out of others. -/
theorem inStretch_foldl_cutRange (rs l : List (Nat × Nat)) (x : Nat) :
    inStretch (rs.foldl (fun l r => cutRange l r.1 r.2) l) x = (inStretch l x && !inStretch rs x) := by
  induction rs generalizing l with
  | nil => simp [inStretch]
  | cons r rs ih =>
    rw [List.foldl_cons, ih, inStretch_cutRange]
    simp [inStretch, Bool.and_assoc]

theorem controlKey_zero (c : Nat) : controlKey c 0 = 2 ^ 48 + c * 2 ^ 18 := rfl

/-- The stretches of a cluster are its locations. -/
theorem inStretch_clusterRanges (c x : Nat) : inStretch (clusterRanges c) x = inCluster c x := by
  have hpad : padKey (c * 128) 0 ≤ padKey ((c + 1) * 128) 0 := by
    unfold padKey
    omega
  have hcell : cellKey c 0 0 0 ≤ cellKey (c + 1) 0 0 0 := by
    unfold cellKey
    omega
  have hchart : chartKey c 0 ≤ chartKey (c + 1) 0 := by
    unfold chartKey
    omega
  have hcontrol : controlKey c 0 ≤ controlKey (c + 1) 0 := by
    rw [controlKey_zero, controlKey_zero]
    omega
  simp only [inStretch, clusterRanges, inCluster, List.map_cons, List.map_nil, List.any_cons, List.any_nil, Nat.add_sub_of_le hpad,
    Nat.add_sub_of_le hcell, Nat.add_sub_of_le hchart, Nat.add_sub_of_le hcontrol, Bool.or_false, Bool.or_assoc]

theorem scrubCluster_byteAt (s : State) (c a : Nat) : (scrubCluster s c).byteAt a = if inCluster c a then 0 else s.byteAt a := by
  have hloose : (scrubCluster s c).loose = (clusterRanges c).foldl (fun l r => cutRange l r.1 r.2) s.loose := rfl
  have hmem : (scrubCluster s c).mem = s.mem.filter fun x => !inCluster c x.1 := rfl
  have hfresh : (scrubCluster s c).fresh = s.fresh := rfl
  rw [State.byteAt, hloose, hmem, hfresh, inStretch_foldl_cutRange, inStretch_clusterRanges, memGet_filter s.mem (fun x => !inCluster c x)]
  cases hin : inCluster c a with
  | true => simp
  | false => simp [State.byteAt]

theorem exec_clusterScrub (hscrub : (getCluster s c).scrubbing = true) : exec (.clusterScrub c) s = .next (scrubCluster s c) := if_pos hscrub

/-! ### Pre-emption (R74, R111) -/

/-- What a stop that is asked for leaves of a state: threads stop, and the pre-emptions under way stay. -/
structure Asking (s t : State) : Prop where
  preempting : t.preempting = s.preempting
  thread : ∀ j, (getThread t j).live = (getThread s j).live ∧ (getThread t j).crew = (getThread s j).crew
    ∧ ((getThread s j).stopped = true → (getThread t j).stopped = true)

theorem Asking.refl (s : State) : Asking s s := ⟨rfl, fun _ => ⟨rfl, rfl, id⟩⟩

theorem Asking.trans (h : Asking s t) (h' : Asking t u) : Asking s u where
  preempting := h'.preempting.trans h.preempting
  thread j := ⟨(h'.thread j).1.trans (h.thread j).1, (h'.thread j).2.1.trans (h.thread j).2.1, fun hs => (h'.thread j).2.2 ((h.thread j).2.2 hs)⟩

theorem Asking.withThreads {g : Nat × ThreadState → Nat × ThreadState} (h : Asking s₀ s) (threads : t.threads = s.threads.map g)
    (hkey : ∀ e, (g e).1 = e.1) (hg : ∀ e, (g e).2.live = e.2.live ∧ (g e).2.crew = e.2.crew ∧ (e.2.stopped = true → (g e).2.stopped = true))
    (preempting : t.preempting = s.preempting := by rfl) : Asking s₀ t :=
  h.trans
    { preempting
      thread := fun j => by
        rw [getThread, getThread, threads, AMap.getD, AMap.find_map g hkey, AMap.getD]
        cases AMap.find s.threads j with
        | none => exact ⟨rfl, rfl, id⟩
        | some th => exact hg (j, th) }

theorem Asking.same (h : Asking s₀ s) (preempting : t.preempting = s.preempting := by rfl) (threads : t.threads = s.threads := by rfl) : Asking s₀ t :=
  h.trans ⟨preempting, fun j => by simp [getThread, threads]⟩

theorem Asking.askStop {c} (h : Asking s₀ s) : Asking s₀ (askStop s c) := by
  unfold Machine.askStop
  split
  · exact h
  · split
    · exact h
    · exact h.withThreads rfl (fun e => by dsimp only; split <;> rfl) fun e => by
        dsimp only
        split
        · exact ⟨rfl, rfl, id⟩
        · exact ⟨rfl, rfl, id⟩

theorem askStop_crews (s : State) (c : Nat) : (askStop s c).crews = s.crews := by
  unfold askStop
  split
  · rfl
  · split
    · rfl
    · rfl

/-- The threads of a crew stop at the boundary they stand at. -/
def haltThreads (s : State) (id : Nat) : State :=
  { s with threads := s.threads.map fun e => if e.2.live && e.2.crew == id then (e.1, e.2.halted) else e }

theorem stopForSave_eq {id : Nat} (hw : getCrew s id = some w) : stopForSave s id
    = askStop (setCrew (dropWaiters (haltThreads s id) (crewTags (haltThreads s id) id)) id { w with phase := .stopping }) w.cluster := by
  rw [stopForSave, hw]
  rfl

theorem Asking.haltThreads {id} (h : Asking s₀ s) : Asking s₀ (haltThreads s id) :=
  h.withThreads rfl (fun e => by split <;> rfl) fun e => by
    split
    · exact ⟨rfl, rfl, fun _ => rfl⟩
    · exact ⟨rfl, rfl, fun h => h⟩

theorem haltThreads_stopped {id j : Nat} (hlive : (getThread s j).live = true) (hcrew : (getThread s j).crew = id) :
    (getThread (haltThreads s id) j).stopped = true := by
  rw [getThread, haltThreads, AMap.getD, AMap.find_map _ (fun e => by split <;> rfl), find_of_live hlive]
  simp [hlive, hcrew, ThreadState.halted]

/-- What follows when a crew's threads have stopped for a save. -/
theorem asking_after_halt {id : Nat} (hw : getCrew s id = some w) : Asking (haltThreads s id) (stopForSave s id) := by
  rw [stopForSave_eq hw]
  exact (Asking.refl (haltThreads s id)).same.askStop

theorem Asking.stopForSave {id} (h : Asking s₀ s) : Asking s₀ (stopForSave s id) := by
  cases hw : getCrew s id with
  | none =>
    rw [Machine.stopForSave, hw]
    exact h
  | some w => exact h.haltThreads.trans (asking_after_halt hw)

theorem stopForSave_stopped {id j : Nat} (hw : getCrew s id = some w) (hlive : (getThread s j).live = true) (hcrew : (getThread s j).crew = id) :
    (getThread (stopForSave s id) j).stopped = true := ((asking_after_halt hw).thread j).2.2 (haltThreads_stopped hlive hcrew)

theorem stopForSave_getCrew_self {id : Nat} (hw : getCrew s id = some w) : getCrew (stopForSave s id) id = some { w with phase := .stopping } := by
  rw [stopForSave_eq hw, getCrew, askStop_crews]
  exact AMap.find_set_self _ _ _

theorem stopForSave_getCrew_ne {id d : Nat} (hd : d ≠ id) : getCrew (stopForSave s id) d = getCrew s d := by
  cases hw : getCrew s id with
  | none => rw [stopForSave, hw]
  | some w =>
    rw [stopForSave_eq hw, getCrew, askStop_crews]
    exact AMap.find_set_ne _ _ hd

/-- A crew that is stopped for a save, among others. -/
theorem foldl_stopForSave_getCrew {gone : List Nat} (hmem : crew ∈ gone) (hw : getCrew s crew = some w) :
    getCrew (gone.foldl stopForSave s) crew = some { w with phase := .stopping } := by
  have hkeep : ∀ u d, getCrew u crew = some { w with phase := .stopping } → getCrew (stopForSave u d) crew = some { w with phase := .stopping } := by
    intro u d hu
    by_cases hd : d = crew
    · subst hd
      exact stopForSave_getCrew_self (w := { w with phase := .stopping }) hu
    · exact (stopForSave_getCrew_ne (Ne.symm hd)).trans hu
  refine foldl_reaches (x := crew) (P := fun u => getCrew u crew = some w ∨ getCrew u crew = some { w with phase := .stopping })
    (fun u d hu => ?_) (fun u hu => ?_) hkeep hmem (.inl hw)
  · rcases hu with hu | hu
    · by_cases hd : d = crew
      · subst hd
        exact .inr (stopForSave_getCrew_self hu)
      · exact .inl ((stopForSave_getCrew_ne (Ne.symm hd)).trans hu)
    · exact .inr (hkeep u d hu)
  · rcases hu with hu | hu
    · exact stopForSave_getCrew_self hu
    · exact hkeep u crew hu

theorem foldl_stopForSave_stopped {gone : List Nat} {j : Nat} (hmem : crew ∈ gone) (hw : getCrew s crew = some w)
    (hlive : (getThread s j).live = true) (hcrew : (getThread s j).crew = crew) : (getThread (gone.foldl stopForSave s) j).stopped = true := by
  refine foldl_reaches (x := crew) (P := fun u => Asking s u ∧ ∃ w, getCrew u crew = some w) (Q := fun u => (getThread u j).stopped = true)
    (fun u d h => ⟨h.1.stopForSave, ?_⟩) (fun u h => ?_) (fun u d h => ((Asking.refl u).stopForSave.thread j).2.2 h) hmem ⟨.refl s, w, hw⟩
  · obtain ⟨_, x, hx⟩ := h
    by_cases hd : d = crew
    · subst hd
      exact ⟨_, stopForSave_getCrew_self hx⟩
    · exact ⟨x, (stopForSave_getCrew_ne (Ne.symm hd)).trans hx⟩
  · obtain ⟨hask, x, hx⟩ := h
    exact stopForSave_stopped hx ((hask.thread j).1.trans hlive) ((hask.thread j).2.1.trans hcrew)

/-- The sections and voyages of other owners on the places of a plan are asked to go (R74, R115). -/
def clearPlaces (s : State) (o : BitVec 12) (out : List (Nat × List Nat)) : State :=
  out.foldl (fun s e => stopOtherVoyage (closeSections s e.1 e.2) o e.1) s

theorem Asking.stopOtherVoyage {o c} (h : Asking s₀ s) : Asking s₀ (stopOtherVoyage s o c) := by
  unfold Machine.stopOtherVoyage
  split
  · split
    · exact h.askStop
    · exact h
  · exact h

theorem stopOtherVoyage_crews (s : State) (o : BitVec 12) (c : Nat) : (stopOtherVoyage s o c).crews = s.crews := by
  unfold stopOtherVoyage
  split
  · split
    · exact askStop_crews s c
    · rfl
  · rfl

theorem asking_clearPlaces (s : State) (o : BitVec 12) (out : List (Nat × List Nat)) : Asking s (clearPlaces s o out) :=
  List.foldlRecOn (motive := Asking s) _ _ (.refl s) fun u h e _ => by
    have hclose : Asking s (closeSections u e.1 e.2) := h.same
    exact hclose.stopOtherVoyage

theorem clearPlaces_crews (s : State) (o : BitVec 12) (out : List (Nat × List Nat)) : (clearPlaces s o out).crews = s.crews :=
  List.foldlRecOn (motive := fun u : State => u.crews = s.crews) _ _ rfl fun _ h _ _ => (stopOtherVoyage_crews _ _ _).trans h

/-- The state in which a pre-emption has asked what its plan needs away to go. -/
def asked (s : State) (r : RecordState) (places gone : List Nat) : State :=
  clearPlaces (gone.foldl stopForSave s) r.owner (places.eraseDups.map fun c => (c, (sectionsOut s r c).getD []))

/-- The record that waits has its places, where the host does not name them (R74, R85). -/
def placed (u : State) (r : RecordState) (places : List Nat) : State := if hostPlaced u r then u else putRecord u { r with chosen := places }

theorem exec_preemption {places gone : List Nat} (hr : AMap.find s.records seq = some r) (hconsidered : considered s r = true) (hchosen : r.chosen = [])
    (hwait : preemptWait s r.prio ≠ 0) (hrefused : refusedFor s r (preemptWait s r.prio) = true) (hnone : ∀ x ∈ s.preempting, x.record ≠ seq)
    (hplan : cheapestSet s r (if r.kind = 1 then crewCount r.words else 1) = some (places, gone))
    (hpool : poolUsed s + planUnits s r places gone ≤ s.helm.saveSize.toNat) (hheld : planHeld s places gone = false) :
    exec (.preemption seq) s = .next (let u := placed (asked s r places gone) r places
      { u with preempting := u.preempting ++ [{ record := seq, crews := gone, places := places }] }) := by
  have hany : (s.preempting.any fun p => p.record == seq) = false := List.any_eq_false.mpr fun x hx => by simpa using hnone x hx
  have hgo : (!(considered s r && r.chosen.isEmpty && preemptWait s r.prio != 0 && refusedFor s r (preemptWait s r.prio)
      && !s.preempting.any fun p => p.record == seq)) = false := by simp [hconsidered, hchosen, hwait, hrefused, hany]
  have hexec : exec (.preemption seq) s = execPreemption seq s := rfl
  rw [hexec, execPreemption, hr]
  dsimp only
  rw [hgo, if_neg Bool.false_ne_true, hplan]
  exact if_pos ⟨hpool, hheld⟩

theorem placed_kept (u : State) (r : RecordState) (places : List Nat) : (placed u r places).crews = u.crews
    ∧ (placed u r places).threads = u.threads ∧ (placed u r places).preempting = u.preempting := by
  unfold placed
  split
  · exact ⟨rfl, rfl, rfl⟩
  · exact ⟨rfl, rfl, rfl⟩

theorem asking_asked (s : State) (r : RecordState) (places gone : List Nat) : Asking s (asked s r places gone) :=
  Asking.trans (List.foldlRecOn (motive := Asking s) _ _ (.refl s) fun _ h _ _ => h.stopForSave) (asking_clearPlaces _ _ _)

/-! ### Saves (R111) -/

/-- A thread's number, whether it lives, and its crew. -/
def threadOf (e : Nat × ThreadState) : Nat × Bool × Nat := (e.1, e.2.live, e.2.crew)

theorem crewTags_congr (h : t.threads.map threadOf = s.threads.map threadOf) (id : Nat) : crewTags t id = crewTags s id := by
  have htags : ∀ u : State, crewTags u id = ((u.threads.map threadOf).filter fun e => e.2.1 && e.2.2 == id).map (·.1) := fun u => by
    rw [List.filter_map, List.map_map]
    rfl
  rw [htags, htags, h]

theorem deferTrap_threadOf (s : State) (j agent : Nat) (cause : BitVec 8) (v : Word) :
    (deferTrap s j agent cause v).threads.map threadOf = s.threads.map threadOf := by
  unfold deferTrap
  extract_lets th
  split
  · next h =>
    have hlive : th.live = true := by simp only [Bool.and_eq_true] at h; exact h.1
    refine AMap.map_set_of_find (find_of_live hlive) ?_
    unfold ThreadState.addDeferred
    split <;> rfl
  · rfl

theorem performPosted_threadOf (s : State) (p : PostedStore) : (performPosted s p).threads.map threadOf = s.threads.map threadOf := by
  unfold performPosted
  split
  · unfold performTask
    split <;> rfl
  · extract_lets rest w
    split
    · unfold refuseStore
      split
      · exact deferTrap_threadOf _ _ _ _ _
      · rfl
    · have hwrite : Writing s (homeWrite rest p.addr p.bytes w p.rel) := Writing.homeWrite (s := rest) (Writing.refl s).same
      exact congrArg _ hwrite.threads

theorem performCore_threadOf (s : State) (k : Nat) : (performCore s k).threads.map threadOf = s.threads.map threadOf := by
  unfold performCore
  refine List.foldlRecOn (motive := fun u : State => u.threads.map threadOf = s.threads.map threadOf) _ _ rfl fun u h p _ => ?_
  split
  · exact (performPosted_threadOf u p).trans h
  · exact h

theorem Writing.arriveWrite {num} (h : Writing s₀ s) : Writing s₀ (arriveWrite s num) := by
  unfold Machine.arriveWrite
  split
  · exact h
  · exact h.bringHome.clearTileFlag

theorem Writing.flushCluster {c} (h : Writing s₀ s) : Writing s₀ (flushCluster s c) := .foldl (fun _ _ h => h.arriveWrite) h

/-- The state in which what a crew wrote is at its homes. -/
def crewFlushed (s : State) (w : Crew) : State := flushCluster (w.cores.foldl performCore s) w.cluster

theorem crewTags_crewFlushed (s : State) (w : Crew) (id : Nat) : crewTags (crewFlushed s w) id = crewTags s id :=
  crewTags_congr ((congrArg _ (Writing.refl _).flushCluster.threads).trans
    (List.foldlRecOn (motive := fun u : State => u.threads.map threadOf = s.threads.map threadOf) _ _ rfl fun u h k _ =>
      (performCore_threadOf u k).trans h)) id

/-- The cores of a saved crew are left. -/
def leaveCores (s : State) (w : Crew) : State := w.cores.foldl (fun s k => setCore s k (leftCore (getCore s k))) s

theorem leaveCores_crew (s : State) {k : Nat} (hk : k ∈ w.cores) : (getCore (leaveCores s w) k).crew = none :=
  foldl_reaches (x := k) (f := fun s k => setCore s k (leftCore (getCore s k))) (P := fun _ => True) (Q := fun s => (getCore s k).crew = none)
    (fun _ _ _ => trivial) (fun s _ => by rw [getCore_setCore]; rfl) (fun _ _ h => ((Pruning.refl _).setCore fun _ => rfl).core k h) hk trivial

/-- The threads of a saved crew are gone, and the crew's save is its state. -/
def crewSaved (s : State) (crew : Nat) (w : Crew) (tags : List Nat) (v : Save) : State :=
  setCrew { s with threads := s.threads.filter fun e => !tags.contains e.1 } crew { w with phase := .saved, save := some v }

/-- A crew that can be saved is saved, with each of its cores (R111). -/
theorem exec_saveComplete (hw : getCrew s crew = some w) (hsavable : savable s crew w = true) :
    ∃ u v, exec (.saveComplete crew) s = .next (crewSaved (leaveCores u w) crew w (crewTags s crew) v) ∧ v.cores.map (fun y => y.core) = w.cores := by
  have hexec : exec (.saveComplete crew) s = execSaveComplete crew s := rfl
  have hgo : (!savable s crew w) = false := by rw [hsavable]; rfl
  rw [hexec, execSaveComplete, hw]
  dsimp only
  rw [hgo, if_neg Bool.false_ne_true, ← crewTags_crewFlushed s w crew]
  refine ⟨_, _, rfl, ?_⟩
  rw [List.map_map]
  exact List.map_id _

theorem crewSaved_thread (s : State) (crew : Nat) (w : Crew) {tags : List Nat} (v : Save) {j : Nat} (hj : j ∈ tags) :
    (getThread (crewSaved s crew w tags v) j).live = false := by
  have hnone : AMap.find (s.threads.filter fun e => !tags.contains e.1) j = none := by
    cases hf : AMap.find (s.threads.filter fun e => !tags.contains e.1) j with
    | none => rfl
    | some x =>
      have hmem := (List.mem_filter.mp (AMap.mem_of_find hf)).2
      simp [hj] at hmem
  exact congrArg (·.live) (AMap.getD_of_find_none hnone)

/-! ### Resumption (R75, R114) -/

/-- What the counting of pending commands leaves of a state: the threads, each core's crew and registers, and the crews that have no save. -/
structure Counting (s t : State) : Prop where
  threads : t.threads = s.threads
  core : ∀ k, (getCore t k).crew = (getCore s k).crew ∧ (getCore t k).s = (getCore s k).s ∧ (getCore t k).banks = (getCore s k).banks
  crew : ∀ c w, getCrew s c = some w → w.save = none → getCrew t c = some w

theorem Counting.refl (s : State) : Counting s s := ⟨rfl, fun _ => ⟨rfl, rfl, rfl⟩, fun _ _ h _ => h⟩

theorem Counting.trans (h : Counting s t) (h' : Counting t u) : Counting s u where
  threads := h'.threads.trans h.threads
  core k := ⟨(h'.core k).1.trans (h.core k).1, (h'.core k).2.1.trans (h.core k).2.1, (h'.core k).2.2.trans (h.core k).2.2⟩
  crew c w hw hsave := h'.crew c w (h.crew c w hw hsave) hsave

theorem counting_setCounter (s : State) (c n : Nat) (v : Counter) : Counting s (setCounter s c n v) := ⟨rfl, fun _ => ⟨rfl, rfl, rfl⟩, fun _ _ h _ => h⟩

theorem counting_unholdCores (s : State) (c n : Nat) : Counting s (unholdCores s c n) where
  threads := rfl
  core k := by
    rw [getCore, unholdCores, AMap.getD, AMap.find_map _ (fun e => by split <;> rfl), getCore, AMap.getD]
    cases AMap.find s.cores k with
    | none => exact ⟨rfl, rfl, rfl⟩
    | some x =>
      dsimp only [Option.map_some]
      split
      · exact ⟨rfl, rfl, rfl⟩
      · exact ⟨rfl, rfl, rfl⟩
  crew d w hw hsave := by
    have hw' : AMap.find s.crews d = some w := hw
    rw [getCrew, unholdCores, AMap.find_map _ (fun e => by split <;> rfl), hw']
    dsimp only [Option.map_some]
    split
    · cases w
      cases hsave
      rfl
    · rfl

theorem counting_endDrain (s : State) (c n : Nat) : Counting s (endDrain s c n) := (counting_setCounter _ _ _ _).trans (counting_unholdCores _ _ _)

theorem counting_recount (s : State) (c n : Nat) : Counting s (recount s c n) := by
  unfold recount
  extract_lets k all counted u
  split
  · split
    · exact (counting_setCounter _ _ _ _).trans (counting_endDrain _ _ _)
    · exact counting_setCounter _ _ _ _
  · exact (counting_setCounter _ _ _ _).trans (counting_unholdCores _ _ _)

theorem counting_recountAll (s : State) (c : Nat) : Counting s (recountAll s c) :=
  List.foldlRecOn (motive := Counting s) _ _ (.refl s) fun _ h _ _ => h.trans (counting_recount _ _ _)

/-- A core as it is restored for a crew: its own clock, pointer and waiters go on. -/
def restoredCore (id : Nat) (clk : Clock) (now : CoreState) (v : SavedCore) : CoreState :=
  { v.state with
    crew := some id, clk := now.clk, ptr := now.ptr, icache := [], waiters := now.waiters
    qclk := v.state.qclk.map fun e => (e.1, Clock.join e.2 clk) }

/-- A thread as it goes on after a resumption. -/
def resumedThread (clk : Clock) (th : ThreadState) : ThreadState := { th with stopped := false, lastIssue := none, clock := Clock.join th.clock clk }

theorem restoreCore_core (id : Nat) (clk : Clock) (s : State) (v : SavedCore) (k : Nat) :
    getCore (restoreCore id clk s v) k = if k = v.core then restoredCore id clk (getCore s v.core) v else getCore s k := by
  unfold restoreCore
  extract_lets bay now s₁ s₂ now' _ s₃
  have h₂ : s₂.cores = s.cores := by
    unfold s₂
    split
    · rfl
    · rfl
  have hget : ∀ j, getCore s₂ j = getCore s j := fun j => by rw [getCore, h₂, getCore]
  have hfold : (v.threads.foldl (fun s e => setThread s (coreTag v.core e.1) (resumedThread clk e.2)) s₃).cores = s₃.cores :=
    List.foldlRecOn (motive := fun u : State => u.cores = s₃.cores) _ _ rfl fun _ h _ _ => h
  have h₃ : getCore s₃ k = if k = v.core then restoredCore id clk (getCore s v.core) v else getCore s k := by
    split
    · next hk =>
      rw [hk, ← hget]
      exact getCore_setCore _ _ _
    · next hk => exact (AMap.getD_set_ne _ _ _ hk).trans (hget k)
  exact (congrArg (fun m : AMap CoreState => AMap.getD m k {}) hfold).trans h₃

theorem restoreCore_thread {id : Nat} {clk : Clock} {v : SavedCore} {slot : Nat} {th : ThreadState} (hv : v.threads = [(slot, th)]) :
    getThread (restoreCore id clk s v) (coreTag v.core slot) = resumedThread clk th := by
  unfold restoreCore
  rw [hv]
  exact getThread_setThread _ _ _

/-- The state in which a crew's one core is restored, and the crew runs on it. -/
def resumed (s : State) (id : Nat) (w : Crew) (v : Save) (vc : SavedCore) : State :=
  let u := restoreBlock s w v
  let u := restoreCore id v.clock u { vc with pad := vc.pad.readBack u (areaAt u v.base + 0x1000 + 0 * 0x35000) 0x30000 }
  let u := setCrew u id { w with phase := .running, save := none }
  setCluster u w.cluster { getCluster u w.cluster with lastOwner := some w.owner }

theorem resumeCrew_one {id : Nat} {v : Save} {vc : SavedCore} (hsave : w.save = some v) (hcores : v.cores = [vc]) :
    resumeCrew s id w = recountAll (w.cores.foldl serveRestored (resumed s id w v vc)) w.cluster := by
  unfold resumeCrew
  rw [hsave]
  dsimp only
  rw [hcores]
  rfl

theorem restoreBlock_cores (s : State) (w : Crew) (v : Save) : (restoreBlock s w v).cores = s.cores := by
  unfold restoreBlock
  split
  · rfl
  · split
    · rfl
    · dsimp only
      split
      · rfl
      · rfl

/-- With no waiter at any of its cores, a crew's resumption serves none. -/
theorem foldl_serveRestored (h : ∀ k ∈ w.cores, (getCore s k).waiters = []) : w.cores.foldl serveRestored s = s := by
  refine List.foldlRecOn (motive := fun u => u = s) _ _ rfl fun u hu k hk => ?_
  rw [hu, serveRestored, h k hk]
  rfl

section

variable {v : Save} {vc : SavedCore} {slot : Nat} {th : ThreadState}

theorem resumed_core (s : State) (id : Nat) (w : Crew) (v : Save) (vc : SavedCore) (k : Nat) : getCore (resumed s id w v vc) k
    = if k = vc.core then restoredCore id v.clock (getCore s vc.core) vc else getCore s k := by
  have hblock : ∀ j, getCore (restoreBlock s w v) j = getCore s j := fun j => by rw [getCore, restoreBlock_cores, getCore]
  have hrestore := restoreCore_core id v.clock (restoreBlock s w v)
    { vc with pad := vc.pad.readBack (restoreBlock s w v) (areaAt (restoreBlock s w v) v.base + 0x1000 + 0 * 0x35000) 0x30000 } k
  rw [hblock, hblock] at hrestore
  exact hrestore

theorem resumed_thread (s : State) (id : Nat) (w : Crew) (v : Save) (hthreads : vc.threads = [(slot, th)]) :
    getThread (resumed s id w v vc) (coreTag vc.core slot) = resumedThread v.clock th :=
  have hrestore := restoreCore_thread (id := id) (clk := v.clock) (s := restoreBlock s w v)
    (v := { vc with pad := vc.pad.readBack (restoreBlock s w v) (areaAt (restoreBlock s w v) v.base + 0x1000 + 0 * 0x35000) 0x30000 }) hthreads
  hrestore

theorem exec_crewResume (hw : getCrew s crew = some w) (hphase : w.phase = .saved) (hgang : w.gang = false) (hfits : groupFits s [(crew, w)] = true)
    (hplace : higherPlaceable s w.prio w.cluster = false) (hscrub : (getCluster s w.cluster).scrubbing = false)
    (hclean : needsScrub s w.cluster w.owner = false) : exec (.crewResume crew) s = .next (resumeCrew s crew w) := by
  have hgroup : resumeGroup s crew w = [(crew, w)] := if_neg (ne_true_of_eq_false hgang)
  have hexec : exec (.crewResume crew) s = execCrewResume crew s := rfl
  rw [hexec, execCrewResume, hw]
  dsimp only
  rw [hgroup]
  simp [hphase, hgang, hfits, hplace, hscrub, hclean]

/-- What the resumption of a crew of one core leaves (R114). -/
theorem resumeCrew_keeps (hsave : w.save = some v) (hcores : v.cores = [vc]) (hwaiters : ∀ k ∈ w.cores, (getCore s k).waiters = []) :
    Counting (resumed s crew w v vc) (resumeCrew s crew w) := by
  have hserve : w.cores.foldl serveRestored (resumed s crew w v vc) = resumed s crew w v vc := foldl_serveRestored fun k hk => by
    rw [resumed_core]
    split
    · next hv => exact hv ▸ hwaiters k hk
    · exact hwaiters k hk
  rw [resumeCrew_one hsave hcores, hserve]
  exact counting_recountAll _ _

end

/-! ### Retirement (R58) -/

/-- What a crew's commands did happens before its record's final entry (R30). -/
def joinCommands (s : State) (w : Crew) : State :=
  w.cores.foldl (fun s k => (getCore s k).qclk.foldl (fun s e => joinEnd s w.record e.2) s) s

/-- The state in which a crew that is done has left its cores. -/
def crewGone (s : State) (crew : Nat) (w : Crew) : State := releaseCrew (joinCommands (unhold s (.retire crew)) w) crew w

theorem joinEnd_crews (s : State) (q : Nat) (clk : Clock) : (joinEnd s q clk).crews = s.crews := by
  unfold joinEnd
  split
  · rfl
  · rfl

theorem joinCommands_crews (s : State) (w : Crew) : (joinCommands s w).crews = s.crews :=
  List.foldlRecOn (motive := fun u : State => u.crews = s.crews) _ _ rfl fun u h _ _ =>
    (List.foldlRecOn (motive := fun t : State => t.crews = u.crews) _ _ rfl fun _ h _ _ => (joinEnd_crews _ _ _).trans h).trans h

theorem unhold_kept (s : State) (x : HeldStep) : (unhold s x).crews = s.crews ∧ (unhold s x).records = s.records := by
  unfold unhold
  split
  · exact ⟨rfl, rfl⟩
  · exact ⟨rfl, rfl⟩

theorem crewGone_joins (s : State) (crew : Nat) (w : Crew) : RecordsJoin s.records (crewGone s crew w).records := by
  rw [crewGone, releaseCrew_records, ← (unhold_kept s (.retire crew)).2]
  exact .foldl (fun _ _ => .foldl (fun _ _ => joinEnd_joins _ _ _) _ _) _ _

theorem crewGone_crews (s : State) (crew : Nat) (w : Crew) :
    (crewGone s crew w).crews.map crewOf = (s.crews.map crewOf).filter fun e => e.1 != crew := by
  rw [crewGone, releaseCrew_crews, joinCommands_crews, (unhold_kept s (.retire crew)).1]

theorem inv_crewGone (hinv : Inv s) : Inv (crewGone s crew w) :=
  invFrom_zero.mp (inv_releaseCrew (InvFrom.foldl (fun _ _ h => .foldl (fun _ _ h => inv_joinEnd h) h) (inv_unhold (invFrom_zero.mpr hinv))))

/-- No other crew of the record is left. -/
theorem crewsOf_crewGone_isEmpty : (crewsOf (crewGone s crew w) seq).isEmpty = true ↔ ∀ x ∈ s.crews, x.2.record = seq → x.1 = crew := by
  have hcrews : (crewsOf (crewGone s crew w) seq).isEmpty = true ↔ ∀ p ∈ (crewGone s crew w).crews.map crewOf, p.2 ≠ seq := by
    rw [List.isEmpty_iff, crewsOf, List.filter_eq_nil_iff, List.forall_mem_map]
    simp [crewOf]
  rw [hcrews, crewGone_crews]
  constructor
  · intro h x hx hseq
    by_contra hne
    exact h (crewOf x) (List.mem_filter.mpr ⟨List.mem_map_of_mem hx, by simpa [crewOf] using hne⟩) hseq
  · intro h p hp hseq
    obtain ⟨hmem, hne⟩ := List.mem_filter.mp hp
    obtain ⟨x, hx, rfl⟩ := List.mem_map.mp hmem
    exact absurd (h x hx hseq) (by simpa [crewOf] using hne)

/-- A crew that is done leaves, and completes its launch if it is the last one. -/
theorem exec_crewRetire {y : RecordState} (hw : getCrew s crew = some w) (hdone : crewDone s crew w = true) (hmay : mayChange s (.retire crew) = true)
    (hy : AMap.find (crewGone s crew w).records w.record = some y) : exec (.crewRetire crew) s
      = .next (if y.crewsLeft = 0 ∧ (crewsOf (crewGone s crew w) w.record).isEmpty = true then moveSeq (crewGone s crew w) w.record .completed 0
        else crewGone s crew w) := by
  have hexec : exec (.crewRetire crew) s = execCrewRetire crew s := rfl
  have hy' : AMap.find (releaseCrew (joinCommands (unhold s (.retire crew)) w) crew w).records w.record = some y := hy
  rw [hexec, execCrewRetire, hw]
  dsimp only
  rw [hdone, hmay, if_neg (by decide), if_pos rfl]
  unfold crewGone
  unfold joinCommands at hy' ⊢
  rw [hy']
  dsimp only
  split
  · rfl
  · rfl

theorem moveSeq_kept {p : RecPhase} {e : BitVec 8} {y : RecordState} (hinv : Inv s) (hy : AMap.find s.records seq = some y) (hopen : y.phase.final = false) :
    (moveSeq s seq p e).crews = s.crews ∧ (moveSeq s seq p e).cores = s.cores := by
  obtain ⟨hnum, hlt⟩ := (invFrom_zero.mpr hinv).found hy
  have hmove : moveSeq s seq p e = settle (moveRecord s y p e y.index) := by
    rw [moveSeq, hy]
    exact if_neg (ne_true_of_eq_false hopen)
  have hkept : Inv (moveRecord s y p e y.index) :=
    invFrom_zero.mp ((inv_moveRecord (invFrom_zero.mpr hinv).all (hnum ▸ hlt)).mono (Nat.zero_le _))
  rw [hmove]
  exact ⟨(settling_settle hkept).crews.trans moveRecord_crews, (settling_settle hkept).cores.trans moveRecord_cores⟩

end

end Sys2Proof.Machine

namespace Sys2Proof

open Sys2Proof.Machine Sys2Proof.Safety

/-- Settles O44: each step's outcome is read off its own code; what the folds over crews, cores and commands leave is said once by `Asking`, `Counting`,
`Pruning` and `Settling`. -/
theorem crewsComeAndGo : Obligations.CrewsComeAndGo := by
  unfold Obligations.CrewsComeAndGo
  intro s seq crew c r w places gone v vc slot th n
  refine ⟨fun hr hconsidered hrefused hnone hunplaced => ⟨_, exec_reservation hr hconsidered hrefused hnone hunplaced, rfl⟩,
    fun hr hconsidered hchosen hwait hrefused hnone hplan hpool hheld hmem hw => ?_, fun hw hsavable => ?_,
    fun hw hphase hgang hsave hcores hthreads hfits hplace hwaiters hscrub hclean => ?_,
    fun hinv hw hdone hmay hseq hr hopen => ?_, fun hscrub => ?_⟩
  · obtain ⟨hcrews, hthreads, hpre⟩ := placed_kept (asked s r places gone) r places
    refine ⟨_, exec_preemption hr hconsidered hchosen hwait hrefused hnone hplan hpool hheld, ?_, ?_, fun j hlive hcrew => ?_⟩
    · exact (congrArg (AMap.find · crew) (hcrews.trans (clearPlaces_crews _ _ _))).trans (foldl_stopForSave_getCrew hmem hw)
    · exact congrArg (· ++ _) (hpre.trans (asking_asked s r places gone).preempting)
    · have hstop : (getThread (asked s r places gone) j).stopped = true := ((asking_clearPlaces _ r.owner _).thread j).2.2 
        (foldl_stopForSave_stopped hmem hw hlive hcrew)
      exact (congrArg (fun m => (AMap.getD m j {}).stopped) hthreads).trans hstop
  · obtain ⟨u, x, hexec, hx⟩ := exec_saveComplete hw hsavable
    exact ⟨_, x, hexec, getCrew_setCrew _ _ _, hx, fun k hk => leaveCores_crew u hk, fun j hj => crewSaved_thread _ crew w x hj⟩
  · have hkeeps := resumeCrew_keeps (crew := crew) hsave hcores hwaiters
    obtain ⟨hcrew, hs, hbanks⟩ := hkeeps.core vc.core
    rw [resumed_core, if_pos rfl] at hcrew hs hbanks
    refine ⟨_, exec_crewResume hw hphase hgang hfits hplace hscrub hclean, hkeeps.crew crew _ (getCrew_setCrew _ _ _) rfl, hcrew, hs, hbanks, ?_⟩
    exact (congrArg (fun m : AMap ThreadState => AMap.getD m (coreTag vc.core slot) {}) hkeeps.threads).trans (resumed_thread s crew w v hthreads)
  · subst hseq
    obtain ⟨y, hy, hjoin⟩ := crewGone_joins s crew w w.record r hr
    have hrun : w.phase = .running := by
      simp only [crewDone, Bool.and_eq_true, beq_iff_eq] at hdone
      exact hdone.1.1.1
    have hleft : y.crewsLeft = r.crewsLeft := by rw [hjoin]
    have hcore : ∀ k ∈ w.cores, (getCore (crewGone s crew w) k).crew = none := fun k hk => releaseCrew_core hrun hk
    have hexec := exec_crewRetire hw hdone hmay hy
    by_cases hlast : y.crewsLeft = 0 ∧ (crewsOf (crewGone s crew w) w.record).isEmpty = true
    · rw [if_pos hlast] at hexec
      obtain ⟨hcrews, hcores⟩ := moveSeq_kept (p := .completed) (e := 0) (inv_crewGone hinv) hy (by rw [hjoin]; exact hopen)
      obtain ⟨q, hq, hphase, _⟩ := moveSeq_final (p := .completed) (e := 0) (inv_crewGone hinv) hy (by rw [hjoin]; exact hopen) rfl
      refine ⟨_, q, hexec, ?_, fun k hk => ?_, hq, fun _ _ => hphase, fun hmore => ?_⟩
      · exact (congrArg (AMap.find · crew) hcrews).trans (releaseCrew_getCrew _ crew w)
      · exact (congrArg (fun m => (AMap.getD m k {}).crew) hcores).trans (hcore k hk)
      · rcases hmore with ⟨x, hx, hrec, hne⟩ | hmore
        · exact absurd (crewsOf_crewGone_isEmpty.mp hlast.2 x hx hrec) hne
        · omega
    · rw [if_neg hlast] at hexec
      refine ⟨_, y, hexec, releaseCrew_getCrew _ crew w, hcore, hy, fun hall hnone => ?_, fun _ => by rw [hjoin]⟩
      exact absurd ⟨hleft.trans hnone, crewsOf_crewGone_isEmpty.mpr hall⟩ hlast
  · refine ⟨_, exec_clusterScrub hscrub, scrubCluster_byteAt s c, rfl, ?_, ?_, ?_, rfl⟩
    all_goals
      rw [scrubCluster, getCluster_setCluster]

end Sys2Proof
end

section
/-! ## Tier migration (R83, R84) -/

namespace Sys2Proof.Machine

open Safety

section

variable {s : State} {lo hi n : Nat}

/-! ### Epochs (R83) -/

/-- The state at the end of an epoch, where no owner has its moves requested of the host. -/
def epochEnded (s : State) : State :=
  { s with
    moves := s.moves ++ ((epochMoves s ((liveOwners s).flatMap (mappedPages s))).filter fun e => !(getOwner s e.owner).modes.getLsbD 2).map EpochPage.move
    counts := []
    helm := { s.helm with epochEnd := s.board.refclk + (if s.helm.epoch = 0 then 1 else s.helm.epoch.toNat) * 100 } }

theorem exec_tierEpoch (hpower : s.board.phase = .running) (hend : s.helm.epochEnd ≤ s.board.refclk)
    (hhard : ∀ x ∈ liveOwners s, (getOwner s x).modes.getLsbD 2 = false) : exec .tierEpoch s = .next (epochEnded s) := by
  have hdue : ¬ ((!poweredUp s || decide (s.board.refclk < s.helm.epochEnd)) = true) := by simp [poweredUp, hpower, hend]
  have hsoft : (liveOwners s).filter (fun o => (getOwner s o).modes.getLsbD 2) = [] := List.filter_eq_nil_iff.mpr fun o ho => ne_true_of_eq_false (hhard o ho)
  have hexec : exec .tierEpoch s = execTierEpoch s := rfl
  rw [hexec, execTierEpoch, if_neg hdue, hsoft]
  rfl

theorem exec_tierEpoch_early (h : s.board.refclk < s.helm.epochEnd) : exec .tierEpoch s = .next s := if_pos (by simp [h])

/-! ### Stretches that move -/

/-- Where a location stands after `[lo, lo + n)` has moved to `hi`. -/
def shiftKey (lo hi n k : Nat) : Nat := if lo ≤ k ∧ k < lo + n then hi + (k - lo) else k

theorem shiftKey_inside {k : Nat} (hk : lo ≤ k ∧ k < lo + n) : shiftKey lo hi n k = hi + (k - lo) := if_pos hk

/-- A location lies in the parts that stand in `[a, a + n)` where it lies in both. -/
theorem inStretch_meetRange (l : List (Nat × Nat)) (a n x : Nat) : inStretch (meetRange l a n) x = (inStretch l x && (a ≤ x && x < a + n)) := by
  rw [Bool.eq_iff_iff]
  simp only [inStretch, meetRange, List.any_eq_true, List.mem_filter, List.mem_map, bne_iff_ne, Bool.and_eq_true, decide_eq_true_eq]
  constructor
  · rintro ⟨_, ⟨⟨r, hr, rfl⟩, _⟩, hx⟩
    exact ⟨⟨r, hr, by omega⟩, by omega⟩
  · rintro ⟨⟨r, hr, hx⟩, hin⟩
    exact ⟨_, ⟨⟨r, hr, rfl⟩, by omega⟩, by omega⟩

theorem meetRange_within {l : List (Nat × Nat)} {r : Nat × Nat} (hr : r ∈ meetRange l lo n) : lo ≤ r.1 ∧ r.1 < lo + n ∧ r.1 + r.2 ≤ lo + n := by
  obtain ⟨hmem, hlen⟩ := List.mem_filter.mp hr
  obtain ⟨q, _, rfl⟩ := List.mem_map.mp hmem
  simp only [bne_iff_ne] at hlen
  omega

/-- Stretches that move keep their distance from the start of what moves. -/
theorem inStretch_shifted (l : List (Nat × Nat)) (x : Nat) :
    inStretch ((meetRange l lo n).map fun r => (shiftKey lo hi n r.1, r.2)) x = (inStretch l (lo + (x - hi)) && (hi ≤ x && x < hi + n)) := by
  have hshift : inStretch ((meetRange l lo n).map fun r => (shiftKey lo hi n r.1, r.2)) x
      = (inStretch (meetRange l lo n) (lo + (x - hi)) && decide (hi ≤ x)) := by
    rw [Bool.eq_iff_iff]
    simp only [inStretch, List.any_map, List.any_eq_true, Function.comp, Bool.and_eq_true, decide_eq_true_eq]
    constructor
    · rintro ⟨r, hr, hx⟩
      obtain ⟨hlo, hlt, _⟩ := meetRange_within hr
      rw [shiftKey_inside ⟨hlo, hlt⟩] at hx
      exact ⟨⟨r, hr, by omega⟩, by omega⟩
    · rintro ⟨⟨r, hr, hx⟩, hle⟩
      obtain ⟨hlo, hlt, _⟩ := meetRange_within hr
      refine ⟨r, hr, ?_⟩
      rw [shiftKey_inside ⟨hlo, hlt⟩]
      omega
  rw [hshift, inStretch_meetRange, Bool.and_assoc]
  congr 1
  rw [Bool.eq_iff_iff]
  simp only [Bool.and_eq_true, decide_eq_true_eq]
  omega

/-! ### Cells that move -/

/-- Of cells whose places differ, each is read where it is put. -/
theorem memGet_memPut {m cs : List Host.Cell} (hwf : Memory.wf m = true) (hcs : (cs.map (·.1)).Nodup) (x : Nat) :
    memGet (memPut m cs) x = if x ∈ cs.map (·.1) then memGet cs x else memGet m x := by
  induction cs generalizing m with
  | nil => rfl
  | cons c cs ih =>
    obtain ⟨k, v⟩ := c
    obtain ⟨hk, hcs⟩ := List.nodup_cons.mp hcs
    have hput : memGet (memPut m ((k, v) :: cs)) x = memGet (memPut (memSet m k v) cs) x := rfl
    rw [hput, ih (memSet_wf m k v hwf) hcs, memGet_memSet m k v hwf]
    by_cases hx : x = k
    · subst hx
      rw [if_neg hk, if_pos rfl, if_pos (by simp), memGet, if_pos rfl]
    · rw [memGet, if_neg (Ne.symm hx)]
      simp [hx]

theorem memGet_of_notMem {m : List Host.Cell} {x : Nat} (h : x ∉ m.map (·.1)) : memGet m x = 0 := by
  induction m with
  | nil => rfl
  | cons c m ih =>
    obtain ⟨k, v⟩ := c
    have hk : k ≠ x := fun hk => h (List.mem_map.mpr ⟨(k, v), List.mem_cons_self, hk⟩)
    rw [memGet, if_neg hk]
    exact ih fun hm => h (List.mem_cons_of_mem _ hm)

/-- A cell reads alike under its new place, where no two places become one. -/
theorem memGet_map {m : List Host.Cell} {f : Nat → Nat} {x : Nat} (hf : ∀ c ∈ m, f c.1 = f x → c.1 = x) :
    memGet (m.map fun c => (f c.1, c.2)) (f x) = memGet m x := by
  induction m with
  | nil => rfl
  | cons c m ih =>
    obtain ⟨k, v⟩ := c
    rw [List.map_cons, memGet, memGet, ih fun c hc => hf c (List.mem_cons_of_mem _ hc)]
    by_cases hk : k = x
    · rw [if_pos (congrArg f hk), if_pos hk]
    · rw [if_neg fun h => hk (hf (k, v) List.mem_cons_self h), if_neg hk]

theorem Memory.nodup {m : List Host.Cell} (h : Memory.wf m = true) : (m.map (·.1)).Nodup := by
  induction m with
  | nil => exact List.nodup_nil
  | cons c m ih =>
    obtain ⟨k, v⟩ := c
    obtain ⟨_, habove, hm⟩ := Memory.wf_cons.mp h
    refine List.nodup_cons.mpr ⟨fun hk => ?_, ih hm⟩
    obtain ⟨e, he, hek⟩ := List.mem_map.mp hk
    exact (habove e he).ne' hek

theorem memSlice_within {m : List Host.Cell} {a b : Nat} {c : Host.Cell} (hc : c ∈ memSlice m a b) : a ≤ c.1 ∧ c.1 < b := by
  simpa using (List.mem_filter.mp hc).2

/-- What `[lo, lo + n)` lists, at its new places. -/
def shiftedCells (m : List Host.Cell) (lo hi n : Nat) : List Host.Cell := (memSlice m lo (lo + n)).map fun c => (shiftKey lo hi n c.1, c.2)

theorem shiftedCells_within {m : List Host.Cell} {x : Nat} (hx : x ∈ (shiftedCells m lo hi n).map (·.1)) : hi ≤ x ∧ x < hi + n := by
  obtain ⟨_, hc, rfl⟩ := List.mem_map.mp hx
  obtain ⟨e, he, rfl⟩ := List.mem_map.mp hc
  have hin := memSlice_within he
  dsimp only
  rw [shiftKey_inside hin]
  omega

theorem shiftedCells_nodup {m : List Host.Cell} (hwf : Memory.wf m = true) : ((shiftedCells m lo hi n).map (·.1)).Nodup := by
  have hslice : ((memSlice m lo (lo + n)).map (·.1)).Nodup := Memory.nodup (filter_wf _ m hwf)
  have hkeys : (shiftedCells m lo hi n).map (·.1) = ((memSlice m lo (lo + n)).map (·.1)).map (shiftKey lo hi n) := by
    rw [shiftedCells, List.map_map, List.map_map]
    rfl
  rw [hkeys]
  refine hslice.map_on fun x hx y hy hxy => ?_
  obtain ⟨c, hc, rfl⟩ := List.mem_map.mp hx
  obtain ⟨d, hd, rfl⟩ := List.mem_map.mp hy
  have hcin := memSlice_within hc
  have hdin := memSlice_within hd
  rw [shiftKey_inside hcin, shiftKey_inside hdin] at hxy
  omega

theorem memGet_shiftedCells (m : List Host.Cell) {j : Nat} (hj : j < n) : memGet (shiftedCells m lo hi n) (hi + j) = memGet m (lo + j) := by
  have hplace : shiftKey lo hi n (lo + j) = hi + j := by
    rw [shiftKey_inside (by omega)]
    omega
  rw [← hplace, shiftedCells, memGet_map fun c hc heq => ?_, memSlice, memGet_filter m (fun x => decide (lo ≤ x) && decide (x < lo + n)),
    if_pos (by simp; omega)]
  have hin := memSlice_within hc
  rw [hplace, shiftKey_inside hin] at heq
  omega

/-! ### What `rekey` leaves -/

theorem rekey_mem (s : State) (lo hi n : Nat) :
    (rekey s lo hi n).mem = memPut (memClear (memClear s.mem hi (hi + n)) lo (lo + n)) (shiftedCells s.mem lo hi n) := rfl

theorem rekey_wf (hwf : Memory.wf s.mem = true) : Memory.wf (rekey s lo hi n).mem = true :=
  memPut_wf _ _ (memClear_wf _ _ _ (memClear_wf _ _ _ hwf))

theorem rekey_inStretch (s : State) (lo hi n x : Nat) : inStretch (rekey s lo hi n).loose x
    = (((inStretch s.loose x && !(hi ≤ x && x < hi + n)) && !(lo ≤ x && x < lo + n))
      || (inStretch s.loose (lo + (x - hi)) && (hi ≤ x && x < hi + n))) := by
  have hloose : (rekey s lo hi n).loose
      = cutRange (cutRange s.loose hi n) lo n ++ (meetRange s.loose lo n).map fun r => (shiftKey lo hi n r.1, r.2) := rfl
  rw [hloose, ← inStretch_shifted (hi := hi), ← inStretch_cutRange, ← inStretch_cutRange]
  exact List.any_append

theorem rekey_inStretch_moved (s : State) {j : Nat} (hj : j < n) : inStretch (rekey s lo hi n).loose (hi + j) = inStretch s.loose (lo + j) := by
  simp [rekey_inStretch, hj]

theorem rekey_byteAt_moved (hwf : Memory.wf s.mem = true) {j : Nat} (hj : j < n) (hloose : inStretch s.loose (lo + j) = false) :
    (rekey s lo hi n).byteAt (hi + j) = s.byteAt (lo + j) := by
  have hcells : memGet (rekey s lo hi n).mem (hi + j) = memGet s.mem (lo + j) := by
    rw [rekey_mem, memGet_memPut (memClear_wf _ _ _ (memClear_wf _ _ _ hwf)) (shiftedCells_nodup hwf), memGet_shiftedCells _ hj]
    split
    · rfl
    · next hnone =>
      have hzero : memGet s.mem (lo + j) = 0 := (memGet_shiftedCells s.mem hj).symm.trans (memGet_of_notMem hnone)
      rw [hzero, memClear, memClear, memGet_filter _ (fun x => !(decide (lo ≤ x) && decide (x < lo + n))),
        memGet_filter _ (fun x => !(decide (hi ≤ x) && decide (x < hi + n)))]
      simp [hj]
  rw [State.byteAt, rekey_inStretch_moved s hj, hloose, State.byteAt, hloose, hcells]
  rfl

theorem rekey_byteAt_other (hwf : Memory.wf s.mem = true) {x : Nat} (hlo : ¬ (lo ≤ x ∧ x < lo + n)) (hhi : ¬ (hi ≤ x ∧ x < hi + n)) :
    (rekey s lo hi n).byteAt x = s.byteAt x := by
  have hlo' : (decide (lo ≤ x) && decide (x < lo + n)) = false := by simpa using hlo
  have hhi' : (decide (hi ≤ x) && decide (x < hi + n)) = false := by simpa using hhi
  have hcells : memGet (rekey s lo hi n).mem x = memGet s.mem x := by
    rw [rekey_mem, memGet_memPut (memClear_wf _ _ _ (memClear_wf _ _ _ hwf)) (shiftedCells_nodup hwf), if_neg fun h => hhi (shiftedCells_within h),
      memClear, memClear, memGet_filter _ (fun x => !(decide (lo ≤ x) && decide (x < lo + n))),
      memGet_filter _ (fun x => !(decide (hi ≤ x) && decide (x < hi + n))), hlo', hhi']
    rfl
  have hloose : inStretch (rekey s lo hi n).loose x = inStretch s.loose x := by
    rw [rekey_inStretch, hlo', hhi']
    simp
  have hfresh : (rekey s lo hi n).fresh = s.fresh := rfl
  rw [State.byteAt, hloose, hcells, hfresh, State.byteAt]

/-! ### A page move (R84) -/

/-- The state in which a page of a leaf stands in the other tier, and its entry at `a` says so. -/
def pageMoved (s : State) (m : PageMove) (p : Word) (big : Bool) (a : Nat) : State :=
  let p' := p ^^^ BitVec.ofNat 64 (2 ^ 59)
  let base := if big then BitVec.ofNat 64 (m.page / 2 ^ 13 * 2 ^ 29) else BitVec.ofNat 64 (m.page * 2 ^ 16)
  let u := rekey { s with moves := s.moves.erase m } (leafKey base p big) (leafKey base p' big) (if big then 2 ^ 29 else 2 ^ 16)
  retier (putBytes u 0 a (bytesOf 8 p'.toNat)) m.owner m.page p'

theorem movePage_of_leaf {m : PageMove} {p : Word} {big : Bool} {a : Nat} (hleaf : leafOf s m.owner m.page = some (p, big))
    (haddress : leafAddress s m.owner (BitVec.ofNat 64 (m.page * 2 ^ 16)) big = some a) (htier : pteTier p ≠ m.toDdr) (hpin : ptePin p = false)
    (hgood : leafGood s (BitVec.ofNat 64 (m.page * 2 ^ 16)) (p ^^^ BitVec.ofNat 64 (2 ^ 59)) big = true) :
    movePage { s with moves := s.moves.erase m } m = pageMoved s m p big a := by
  have hleaf' : leafOf { s with moves := s.moves.erase m } m.owner m.page = some (p, big) := hleaf
  have haddress' : leafAddress { s with moves := s.moves.erase m } m.owner (BitVec.ofNat 64 (m.page * 2 ^ 16)) big = some a := haddress
  have hgood' : leafGood { s with moves := s.moves.erase m } (BitVec.ofNat 64 (m.page * 2 ^ 16)) (p ^^^ BitVec.ofNat 64 (2 ^ 59)) big = true := hgood
  rw [movePage, hleaf']
  dsimp only
  rw [haddress']
  dsimp only
  have hgoes : ¬ (pteTier p = m.toDdr ∨ ptePin p = true ∨ leafGood { s with moves := s.moves.erase m } (BitVec.ofNat 64 (m.page * 2 ^ 16))
      (p ^^^ BitVec.ofNat 64 (2 ^ 59)) big = false) := by
    rw [hpin, hgood']
    simp [htier]
  rw [if_neg hgoes]
  rfl

theorem exec_pageMoveComplete {o : BitVec 12} {page : BitVec 39} {m : PageMove} (hfind : s.moves.find? (fun x => x.owner == o) = some m)
    (hpage : m.page = page.toNat) : exec (.pageMoveComplete o page) s = .next (movePage { s with moves := s.moves.erase m } m) := by
  have hexec : exec (.pageMoveComplete o page) s = execPageMoveComplete o page s := rfl
  rw [hexec, execPageMoveComplete, hfind]
  exact if_pos hpage

end

end Sys2Proof.Machine

namespace Sys2Proof

open Sys2Proof.Machine Sys2Proof.Safety

/-- Settles O45: the end of an epoch is one state change, and a page move is `rekey`, whose bytes and stretches are read where they now stand, and
a write of the entry. -/
theorem pagesMigrate : Obligations.PagesMigrate := by
  unfold Obligations.PagesMigrate
  intro s o page m p big a us plan p' va base n lo hi
  refine ⟨fun hpower hend hhard => ⟨_, exec_tierEpoch hpower hend hhard, rfl, rfl, rfl, fun _ => rfl, rfl⟩, exec_tierEpoch_early,
    fun hinv hfind howner hpage hleaf haddress htier hpin hgood _ => ?_⟩
  obtain ⟨hmem, _⟩ := hinv
  subst howner
  have hva : va = BitVec.ofNat 64 (m.page * 2 ^ 16) := by rw [hpage]
  have hbase : (if big then BitVec.ofNat 64 (m.page / 2 ^ 13 * 2 ^ 29) else BitVec.ofNat 64 (m.page * 2 ^ 16)) = base := by rw [hpage]
  rw [← hpage] at hleaf
  rw [hva] at haddress hgood
  have hmoved := movePage_of_leaf hleaf haddress htier hpin hgood
  have hwf := rekey_wf (s := { s with moves := s.moves.erase m }) (lo := lo) (hi := hi) (n := n) hmem
  have hbyte : ∀ x, (pageMoved s m p big a).byteAt x = if a ≤ x ∧ x < a + 8 then (bytesOf 8 p'.toNat).getD (x - a) 0
      else (rekey { s with moves := s.moves.erase m } lo hi n).byteAt x := fun x => by
    have hput := byteAt_putBytes _ 0 a (bytesOf 8 p'.toNat) hwf x
    rw [bytesOf_length] at hput
    rw [← hput, pageMoved, hbase]
    rfl
  refine ⟨_, (exec_pageMoveComplete hfind hpage).trans (congrArg _ hmoved), ?_, fun j hj hne => ⟨fun hloose => ?_, ?_⟩, fun x hne hlo hhi => ?_, rfl⟩
  · have hentry := bytesAt_of_byteAt (s := pageMoved s m p big a) (bytesOf 8 p'.toNat) a fun x hx hlt => by
      rw [bytesOf_length] at hlt
      rw [hbyte, if_pos ⟨hx, hlt⟩]
    rwa [bytesOf_length] at hentry
  · rw [hbyte, if_neg hne]
    exact rekey_byteAt_moved (s := { s with moves := s.moves.erase m }) hmem hj hloose
  · have hloose : (pageMoved s m p big a).loose = cutRange (rekey { s with moves := s.moves.erase m } lo hi n).loose a 8 := by
      rw [pageMoved, hbase]
      exact congrArg (cutRange _ a) (bytesOf_length 8 p'.toNat)
    have hout : (decide (a ≤ hi + j) && decide (hi + j < a + 8)) = false := by simpa using hne
    rw [hloose, inStretch_cutRange, hout, Bool.not_false, Bool.and_true]
    exact rekey_inStretch_moved (s := { s with moves := s.moves.erase m }) hj
  · rw [hbyte, if_neg hne]
    exact rekey_byteAt_other (s := { s with moves := s.moves.erase m }) hmem hlo hhi

end Sys2Proof
end

section
/-! ## What the helm's own state changes leave of places and of launches (R35, R38)
A launch that names no dependence moves only with its work, so that what the helm does by itself leaves its state, and no thread, core, crew or cluster
changes with a record's state. -/

namespace Sys2Proof.Machine

open Safety

section

variable {s t u : State} {r x y : RecordState} {phase : RecPhase} {reason : BitVec 8} {index : BitVec 12}

/-! ### Places -/

/-- The threads, clusters, cores and crews of a state, and the number of the next crew. -/
def State.places (s : State) : AMap ThreadState × AMap ClusterState × AMap CoreState × AMap Crew × Nat :=
  (s.threads, s.clusters, s.cores, s.crews, s.nextCrew)

theorem getThread_of_places (h : t.places = s.places) (k : Nat) : getThread t k = getThread s k :=
  congrArg (fun p : AMap ThreadState × _ => AMap.getD p.1 k {}) h

theorem getCluster_of_places (h : t.places = s.places) (c : Nat) : getCluster t c = getCluster s c :=
  congrArg (fun p : _ × AMap ClusterState × _ => AMap.getD p.2.1 c {}) h

theorem getCore_of_places (h : t.places = s.places) (k : Nat) : getCore t k = getCore s k :=
  congrArg (fun p : _ × _ × AMap CoreState × _ => AMap.getD p.2.2.1 k {}) h

theorem getCrew_of_places (h : t.places = s.places) (c : Nat) : getCrew t c = getCrew s c :=
  congrArg (fun p : _ × _ × _ × AMap Crew × _ => AMap.find p.2.2.2.1 c) h

theorem nextCrew_of_places (h : t.places = s.places) : t.nextCrew = s.nextCrew := congrArg (fun p : _ × _ × _ × _ × Nat => p.2.2.2.2) h

theorem moveRecord_places : (moveRecord s r phase reason index).places = s.places :=
  (moveRecord_kept State.places (logAppend_kept _ (fun _ _ => rfl) fun _ _ => by dsimp only [logWrite, deviceWrite, putBytes, State.places])
    fun _ _ => rfl).trans (moving_kept State.places (fun _ _ => rfl) (fun _ _ => rfl) fun _ _ => rfl)

/-! ### Launches -/

/-- The record is listed under its number, in its state. -/
def Stands (s : State) (x : RecordState) : Prop := ∃ y, AMap.find s.records x.seqNo = some y ∧ x.Same y ∧ y.phase = x.phase

theorem Stands.of_joins (h : Stands s x) (ht : RecordsJoin s.records t.records) : Stands t x := by
  obtain ⟨y, hy, hsame, hphase⟩ := h
  obtain ⟨z, hz, hyz⟩ := ht _ y hy
  refine ⟨z, hz, hsame.trans ?_, by rw [hyz, hphase]⟩
  rw [hyz]
  rfl

/-- What is written under another number. -/
theorem Stands.set {q : Nat} (h : Stands s x) (hq : x.seqNo ≠ q) (ht : t.records = AMap.set s.records q y) : Stands t x := by
  obtain ⟨z, hz, hstands⟩ := h
  exact ⟨z, by rw [ht, AMap.find_set_ne _ _ hq, hz], hstands⟩

theorem joinGraph_joins (s : State) (r : RecordState) : RecordsJoin s.records (joinGraph s r).records := by
  unfold joinGraph
  split
  · exact .refl _
  · exact joinEnd_joins _ _ _

/-- A state change sets its record, and may add to what its graph releases. -/
theorem moving_joins (s : State) (r : RecordState) (phase : RecPhase) (reason : BitVec 8) :
    RecordsJoin (AMap.set s.records r.seqNo (r.moved phase reason)) (moving s r phase reason).records := by
  unfold moving
  extract_lets s₁ s₂
  have h₂ : RecordsJoin (AMap.set s.records r.seqNo (r.moved phase reason)) s₂.records := by
    unfold s₂
    split
    · exact joinGraph_joins (dropPlacement s₁ r.seqNo) r
    · exact .refl _
  split
  · exact h₂
  · exact h₂

/-- Another record's state change. -/
theorem Stands.moveRecord (h : Stands s x) (hne : x.seqNo ≠ r.seqNo) : Stands (moveRecord s r phase reason index) x := by
  have hset : Stands { s with records := AMap.set s.records r.seqNo (r.moved phase reason) } x := h.set hne rfl
  refine hset.of_joins ?_
  rw [moveRecord_records]
  exact moving_joins s r phase reason

/-- The record's own state change. -/
theorem stands_moveRecord : Stands (moveRecord s r phase reason index) { r with phase := phase } := by
  have hset : Stands { s with records := AMap.set s.records r.seqNo (r.moved phase reason) } { r with phase := phase } :=
    ⟨_, AMap.find_set_self _ _ _, rfl, rfl⟩
  refine hset.of_joins ?_
  rw [moveRecord_records]
  exact moving_joins s r phase reason

/-! ### The helm's own state changes -/

/-- What the option holds has a property. -/
def SomeIs (P : State → Prop) (o : Option State) : Prop := ∀ t, o = some t → P t

theorem SomeIs.some {P : State → Prop} (h : P s) : SomeIs P (some s) := fun _ ht => Option.some.inj ht ▸ h

theorem SomeIs.none {P : State → Prop} : SomeIs P none := fun _ h => (Option.some_ne_none _ h.symm).elim

theorem SomeIs.ite {P : State → Prop} {c : Prop} [Decidable c] {a b : Option State} (ha : SomeIs P a) (hb : SomeIs P b) : SomeIs P (if c then a else b) := by
  split
  · exact ha
  · exact hb

/-- What the changes of one record keep, the step that the helm makes for it by itself keeps. -/
theorem autoStep_keeps {P : State → Prop} (hset : ∀ e, P { s with records := AMap.set s.records r.seqNo { r with ending := e } })
    (hmove : ∀ u x p e, P u → x.seqNo = r.seqNo → P (moveRecord u x p e r.index)) (hs : P s) : SomeIs P (autoStep s r) := by
  have hone : ∀ {p e}, P (moveRecord s r p e r.index) := hmove _ _ _ _ hs rfl
  unfold autoStep
  refine .ite .none (.ite (.ite (.some (hset _)) (.some hone)) (.ite (.ite (.ite (.some hone) .none) (.ite (.some (hmove _ _ _ _ hone rfl)) .none))
    (.ite (.ite (.some hone) (.ite (.some hone) (.ite (.some ?_) .none))) .none)))
  split
  · exact hone
  · exact hone

theorem firstPermitted_keeps {P : State → Prop} (hhelm : ∀ u h, P u → P { u with helm := h }) {l : List (Nat × RecordState)}
    (hstep : ∀ e ∈ l, SomeIs P (autoStep s e.2)) : SomeIs P (firstPermitted s l) := by
  induction l with
  | nil => exact .none
  | cons e l ih =>
    obtain ⟨q, r⟩ := e
    have ih := ih fun e he => hstep e (List.mem_cons_of_mem _ he)
    rw [firstPermitted]
    cases hs : autoStep s r with
    | none => exact ih
    | some v =>
      have hv : P v := hstep _ List.mem_cons_self v hs
      refine .ite (.some ?_) ih
      unfold unhold
      split
      · exact hv
      · exact hhelm _ _ hv

theorem settleN_keeps {P : State → Prop} (hhelm : ∀ u h, P u → P { u with helm := h })
    (hstep : ∀ u : State, Inv u → P u → ∀ e ∈ u.records, SomeIs P (autoStep u e.2)) {fuel : Nat} (hinv : Inv s) (hs : P s) : P (settleN fuel s) := by
  induction fuel generalizing s with
  | zero => exact hs
  | succ fuel ih =>
    rw [settleN]
    cases hf : firstPermitted s s.records with
    | none =>
      dsimp only
      split
      · exact hs
      · refine List.foldlRecOn (motive := P) _ _ hs fun v hv e _ => ?_
        unfold holdBack
        split
        · split
          · exact hv
          · exact hhelm _ _ hv
        · exact hv
    | some v =>
      have hkept := inv_firstPermitted (invFrom_zero.mpr hinv).all (invFrom_zero.mpr hinv).below v hf
      exact ih (invFrom_zero.mp (hkept.mono (Nat.zero_le _))) (firstPermitted_keeps hhelm (hstep s hinv hs) v hf)

/-- What the helm does by itself moves no place. -/
theorem settle_places (hinv : Inv s) : (settle s).places = s.places :=
  settleN_keeps (P := fun u => u.places = s.places) (fun _ _ h => h)
    (fun _ _ hu _ _ => autoStep_keeps (P := fun u => u.places = s.places) (fun _ => hu) (fun _ _ _ _ h _ => moveRecord_places.trans h) hu) hinv rfl

/-- What the helm does by itself leaves a launch that names no dependence in its state. -/
theorem Stands.settle (h : Stands s x) (hinv : Inv s) (hkind : x.kind ≤ 3) (ha : x.depA = 0xFFF) (hb : x.depB = 0xFFF) : Stands (settle s) x := by
  refine settleN_keeps (P := fun u => Stands u x) (fun _ _ h => h) (fun u hu hstands e he t ht => ?_) hinv h
  obtain ⟨hnum, hfind⟩ := find_of_mem_records hu (q := e.1) (r := e.2) he
  have hother : x.seqNo ≠ e.2.seqNo := fun heq => by
    obtain ⟨y, hy, hsame, _⟩ := hstands
    obtain rfl := Option.some.inj ((heq.trans hnum ▸ hfind).symm.trans hy)
    have hwords : e.2.words = x.words := by rw [hsame]
    have hnone : autoStep u e.2 = none :=
      autoStep_of_launch (by rwa [RecordState.kind, hwords]) (by rwa [RecordState.depA, hwords]) (by rwa [RecordState.depB, hwords])
    exact absurd (hnone.symm.trans ht) (Option.some_ne_none t).symm
  exact autoStep_keeps (P := fun u => Stands u x) (fun _ => hstands.set hother rfl) (fun _ _ _ _ h hx => h.moveRecord (hx ▸ hother)) hstands t ht

end

end Sys2Proof.Machine
end

section
/-! ## Admission of crews, sections and voyages (R55–R57, R60, R70–R72) -/

namespace Sys2Proof.Machine

open Safety

section

variable {s t : State} {r : RecordState} {seq c k : Nat}

/-! ### Launch threads (R55, R56) -/

theorem getElem_rangeFrom {n a i : Nat} (h : i < (rangeFrom n a).length) : (rangeFrom n a)[i] = a + i := by
  induction n generalizing a i with
  | zero => exact absurd h (Nat.not_lt_zero i)
  | succ n ih =>
    cases i with
    | zero => rfl
    | succ i =>
      have htail : (rangeFrom (n + 1) a)[i + 1] = a + 1 + i := ih (Nat.lt_of_succ_lt_succ h)
      omega

theorem nodup_rangeFrom (n a : Nat) : (rangeFrom n a).Nodup :=
  List.nodup_iff_injective_get.mpr fun i j hij => by
    rw [List.get_eq_getElem, List.get_eq_getElem, getElem_rangeFrom, getElem_rangeFrom] at hij
    exact Fin.ext (Nat.add_left_cancel hij)

/-- A thread of the list has its core's place and its slot. -/
theorem mem_crewThreadList {cores : List Nat} {n : Nat} {e : Nat × Nat} (he : e ∈ crewThreadList cores n) :
    ∃ i j, ∃ hi : i < cores.length, j < n ∧ e = (i * n + j, coreTag cores[i] j) := by
  obtain ⟨p, hp, hmem⟩ := List.mem_flatMap.mp he
  obtain ⟨j, hj, rfl⟩ := List.mem_map.mp hmem
  obtain ⟨i, hi, rfl⟩ := List.mem_iff_getElem.mp hp
  rw [List.length_zip, rangeFrom_length, Nat.min_self] at hi
  refine ⟨i, j, hi, by have := mem_rangeFrom.mp hj; omega, ?_⟩
  rw [List.getElem_zip, getElem_rangeFrom, Nat.zero_add]

/-- A core has no slot for a seventeenth thread, so that each tag stands once. -/
theorem crewThreadList_tag {cores : List Nat} {n : Nat} (hn : n ≤ 16) (hcores : cores.Nodup) {e d : Nat × Nat} (he : e ∈ crewThreadList cores n)
    (hd : d ∈ crewThreadList cores n) (h : d.2 = e.2) : d = e := by
  obtain ⟨i, j, hi, hj, rfl⟩ := mem_crewThreadList he
  obtain ⟨i', j', hi', hj', rfl⟩ := mem_crewThreadList hd
  simp only [coreTag] at h
  have hslot : j' = j := by omega
  have hcore : cores[i'] = cores[i] := by omega
  have hplace : i' = i := hcores.getElem_inj_iff.mp hcore
  subst hslot hplace
  rfl

/-! ### One crew (R55–R57) -/

theorem mem_idleCores : k ∈ idleCores s c ↔ (c * 128 ≤ k ∧ k < c * 128 + 96) ∧ (getCore s k).crew = none := by
  rw [idleCores, List.mem_filter, mem_rangeFrom, Option.isNone_iff_eq_none]

/-- The cores that the record's next crew takes. -/
def crewTakes (s : State) (r : RecordState) (c : Nat) : List Nat := (idleCores s c).take r.cores

theorem crewTakes_nodup : (crewTakes s r c).Nodup := ((nodup_rangeFrom 96 (c * 128)).filter _).sublist (List.take_sublist _ _)

theorem mem_crewTakes (hk : k ∈ crewTakes s r c) : coreCluster k = c ∧ (getCore s k).crew = none := by
  obtain ⟨hin, hidle⟩ := mem_idleCores.mp (List.mem_of_mem_take hk)
  refine ⟨?_, hidle⟩
  rw [coreCluster]
  omega

/-- The cores that a crew takes, as admission leaves them. -/
def takenCores (s : State) (r : RecordState) (c : Nat) : State :=
  (crewTakes s r c).foldl (fun u k => setCore u k (freshCore (getCore u k) s.nextCrew)) s

/-- The launch threads of a crew stand. -/
def launched (s : State) (r : RecordState) (u : State) (l : List (Nat × Nat)) : State :=
  l.foldl (fun x e => enlist (setThread x e.2 (launchThread s s.nextCrew r.clk r.words r.nextCrew e.1 e.2)) (s.nextAgent + e.1) r.seqNo) u

/-- A crew as it is admitted. -/
def newCrew (s : State) (r : RecordState) (c : Nat) : Crew :=
  { record := r.seqNo, index := r.nextCrew, owner := r.owner, prio := r.prio, gang := r.kind == 1, cluster := c, cores := crewTakes s r c,
    threads := crewThreads r.words, spillVa := r.words.w6, spillDecl := bits r.words.w3 31 16, spillCur := bits r.words.w3 31 16, spilled := [],
    spillWr := 0, spillRd := 0, phase := .running, issued := false, event0A := none, event0B := none, save := none }

theorem launched_crews (l : List (Nat × Nat)) (u : State) : (launched s r u l).crews = u.crews :=
  List.foldlRecOn (motive := fun v : State => v.crews = u.crews) _ _ rfl fun _ h _ _ => h

theorem launched_cores (l : List (Nat × Nat)) (u : State) : (launched s r u l).cores = u.cores :=
  List.foldlRecOn (motive := fun v : State => v.cores = u.cores) _ _ rfl fun _ h _ _ => h

theorem launched_thread {l : List (Nat × Nat)} {u : State} {e : Nat × Nat} (he : e ∈ l) (htag : ∀ d ∈ l, d.2 = e.2 → d = e) :
    getThread (launched s r u l) e.2 = launchThread s s.nextCrew r.clk r.words r.nextCrew e.1 e.2 := by
  induction l using List.reverseRecOn with
  | nil => exact absurd he List.not_mem_nil
  | append_singleton l d ih =>
    have hlast : launched s r u (l ++ [d]) = enlist (setThread (launched s r u l) d.2 (launchThread s s.nextCrew r.clk r.words r.nextCrew d.1 d.2))
        (s.nextAgent + d.1) r.seqNo := by
      rw [launched, List.foldl_append]
      rfl
    rw [hlast]
    by_cases hd : d.2 = e.2
    · obtain rfl := htag d (by simp) hd
      exact getThread_setThread _ _ _
    · have hmem : e ∈ l := by
        rcases List.mem_append.mp he with h | h
        · exact h
        · exact absurd (congrArg Prod.snd (List.mem_singleton.mp h)).symm hd
      exact (getThread_setThread_ne _ _ (Ne.symm hd)).trans (ih hmem fun d' hd' => htag d' (List.mem_append_left _ hd'))

theorem takenCores_crews : (takenCores s r c).crews = s.crews :=
  List.foldlRecOn (motive := fun v : State => v.crews = s.crews) _ _ rfl fun _ h _ _ => h

theorem takenCores_core_other (hk : k ∉ crewTakes s r c) : getCore (takenCores s r c) k = getCore s k :=
  List.foldlRecOn (motive := fun v => getCore v k = getCore s k) _ _ rfl fun _ h j hj =>
    (AMap.getD_set_ne _ _ _ fun hkj : k = j => hk (hkj ▸ hj)).trans h

theorem takenCores_core (hk : k ∈ crewTakes s r c) : (getCore (takenCores s r c) k).crew = some s.nextCrew := by
  refine foldl_reaches (P := fun _ => True) (Q := fun u => (getCore u k).crew = some s.nextCrew) (fun _ _ _ => trivial)
    (fun u _ => by rw [getCore_setCore]; rfl) (fun u j hu => ?_) hk trivial
  by_cases hj : k = j
  · rw [hj, getCore_setCore]
    rfl
  · rwa [getCore, setCore, AMap.getD_set_ne _ _ _ hj]

/-- The threads of the record's next crew run on its cores. -/
def crewLaunched (s : State) (r : RecordState) (c : Nat) : State :=
  launched s r (takenCores s r c) (crewThreadList (crewTakes s r c) (crewThreads r.words))

theorem admitCrew_nextCrew (s : State) (r : RecordState) (c : Nat) : (admitCrew s r c).nextCrew = s.nextCrew + 1 := rfl

theorem admitCrew_crews (s : State) (r : RecordState) (c : Nat) : (admitCrew s r c).crews = AMap.set s.crews s.nextCrew (newCrew s r c) := by
  have heq : (admitCrew s r c).crews = AMap.set (crewLaunched s r c).crews s.nextCrew (newCrew s r c) := rfl
  rw [heq, crewLaunched, launched_crews, takenCores_crews]

theorem admitCrew_core (s : State) (r : RecordState) (c k : Nat) : getCore (admitCrew s r c) k = getCore (takenCores s r c) k := by
  have heq : getCore (admitCrew s r c) k = getCore (crewLaunched s r c) k := rfl
  rw [heq, crewLaunched, getCore, launched_cores, getCore]

theorem admitCrew_core_other (hk : coreCluster k ≠ c) : getCore (admitCrew s r c) k = getCore s k := by
  rw [admitCrew_core, takenCores_core_other fun h => hk (mem_crewTakes h).1]

theorem admitCrew_thread {e : Nat × Nat} (hthreads : crewThreads r.words ≤ 16) (he : e ∈ crewThreadList (crewTakes s r c) (crewThreads r.words)) :
    getThread (admitCrew s r c) e.2 = launchThread s s.nextCrew r.clk r.words r.nextCrew e.1 e.2 := by
  have heq : getThread (admitCrew s r c) e.2 = getThread (crewLaunched s r c) e.2 := rfl
  rw [heq, crewLaunched, launched_thread he fun _ hd => crewThreadList_tag hthreads crewTakes_nodup he hd]

/-! ### The crews of a record (R38, R60) -/

/-- The record once `n` crews of it, one at least, are admitted. -/
def RecordState.crewsPlaced (r : RecordState) (n : Nat) : RecordState :=
  { r with
    nextCrew := r.nextCrew + n, crewsLeft := r.crewsLeft - n, refusedAt := none, chosen := [], named := [], deferredAt := none
    phase := if r.phase = .accepted then .admitted else r.phase, entered := if r.phase = .accepted then true else r.entered }

theorem RecordState.crewsPlaced_one (r : RecordState) (m : Nat) : (r.crewsPlaced m).crewsPlaced 1 = r.crewsPlaced (m + 1) := by
  by_cases h : r.phase = .accepted
  · simp [crewsPlaced, h, Nat.add_assoc, Nat.sub_sub]
  · simp [crewsPlaced, h, Nat.add_assoc, Nat.sub_sub]

/-- The state once the record's next crew is admitted. -/
def crewAdmitted (s : State) (r : RecordState) (c : Nat) : State :=
  let r' := { r with nextCrew := r.nextCrew + 1, crewsLeft := r.crewsLeft - 1, refusedAt := none, chosen := [], named := [], deferredAt := none }
  let u := shrinkReserve (putRecord (admitCrew s r c) r') r'
  if r.phase = .accepted then moveRecord u r' .admitted 0 r.index else u

theorem admitCrews_cons (s : State) (r : RecordState) (c : Nat) (rest : List Nat) :
    admitCrews s r (c :: rest) = admitCrews (crewAdmitted s r c) (r.crewsPlaced 1) rest := by
  rw [admitCrews, crewAdmitted, RecordState.crewsPlaced]
  by_cases h : r.phase = .accepted
  · simp [h]
  · simp [h]

theorem crewAdmitted_places (s : State) (r : RecordState) (c : Nat) : (crewAdmitted s r c).places = (admitCrew s r c).places := by
  unfold crewAdmitted
  extract_lets r' u
  split
  · exact moveRecord_places
  · rfl

theorem admitCrews_one_places (s : State) (r : RecordState) (c : Nat) : (admitCrews s r [c]).places = (admitCrew s r c).places :=
  (congrArg State.places (admitCrews_cons s r c [])).trans (crewAdmitted_places s r c)

theorem stands_crewAdmitted (s : State) (r : RecordState) (c : Nat) : Stands (crewAdmitted s r c) (r.crewsPlaced 1) := by
  unfold crewAdmitted
  extract_lets r' u
  split
  · next h =>
    have hmoved : Stands (moveRecord u r' .admitted 0 r.index) { r' with phase := .admitted } := stands_moveRecord
    obtain ⟨y, hy, hsame, hphase⟩ := hmoved
    exact ⟨y, hy, hsame, hphase.trans (if_pos h).symm⟩
  · next h => exact ⟨r', AMap.find_set_self _ _ _, rfl, (if_neg h).symm⟩

theorem stands_admitCrews {n : Nat} {cs : List Nat} (h : Stands s (r.crewsPlaced n)) :
    Stands (admitCrews s (r.crewsPlaced n) cs) (r.crewsPlaced (n + cs.length)) := by
  induction cs generalizing s n with
  | nil => exact h
  | cons c cs ih =>
    have hnext := stands_crewAdmitted s (r.crewsPlaced n) c
    rw [r.crewsPlaced_one] at hnext
    rw [admitCrews_cons, r.crewsPlaced_one, List.length_cons, Nat.add_comm cs.length, ← Nat.add_assoc]
    exact ih hnext

/-- Crews that are there stay, and so do the cores that they have taken. -/
structure CrewsKept (s t : State) : Prop where
  next : s.nextCrew ≤ t.nextCrew
  crew : ∀ id, id < s.nextCrew → getCrew t id = getCrew s id
  core : ∀ k id, (getCore s k).crew = some id → (getCore t k).crew = some id

theorem crewsKept_crewAdmitted (s : State) (r : RecordState) (c : Nat) : CrewsKept s (crewAdmitted s r c) := by
  have hplaces := crewAdmitted_places s r c
  refine ⟨?_, fun id hid => ?_, fun k id hk => ?_⟩
  · rw [nextCrew_of_places hplaces, admitCrew_nextCrew]
    exact Nat.le_succ _
  · rw [getCrew_of_places hplaces, getCrew, admitCrew_crews, AMap.find_set_ne _ _ (Nat.ne_of_lt hid), getCrew]
  · rw [getCore_of_places hplaces, admitCrew_core, takenCores_core_other fun h => Option.some_ne_none id (hk.symm.trans (mem_crewTakes h).2), hk]

theorem crewsKept_admitCrews {cs : List Nat} : CrewsKept s (admitCrews s r cs) := by
  induction cs generalizing s r with
  | nil => exact ⟨le_rfl, fun _ _ => rfl, fun _ _ h => h⟩
  | cons c cs ih =>
    have h₁ := crewsKept_crewAdmitted s r c
    have h₂ : CrewsKept (crewAdmitted s r c) (admitCrews (crewAdmitted s r c) (r.crewsPlaced 1) cs) := ih
    rw [admitCrews_cons]
    exact ⟨h₁.next.trans h₂.next, fun id hid => (h₂.crew id (hid.trans_le h₁.next)).trans (h₁.crew id hid),
      fun k id hk => h₂.core k id (h₁.core k id hk)⟩

theorem admitCrews_nextCrew {cs : List Nat} : (admitCrews s r cs).nextCrew = s.nextCrew + cs.length := by
  induction cs generalizing s r with
  | nil => rfl
  | cons c cs ih =>
    rw [admitCrews_cons, ih, nextCrew_of_places (crewAdmitted_places s r c), admitCrew_nextCrew, List.length_cons]
    omega

/-- A crew of the record runs on its cores. -/
def CrewStands (t : State) (r : RecordState) (id c n : Nat) : Prop :=
  ∃ w, getCrew t id = some w ∧ w.record = r.seqNo ∧ w.index = n ∧ w.owner = r.owner ∧ w.cluster = c ∧ w.threads = crewThreads r.words
    ∧ w.phase = .running ∧ w.spilled = [] ∧ ∀ k ∈ w.cores, (getCore t k).crew = some id

theorem CrewStands.of_places {id n : Nat} (h : CrewStands s r id c n) (ht : t.places = s.places) : CrewStands t r id c n := by
  obtain ⟨w, hw, hrecord, hindex, howner, hcluster, hthreads, hphase, hspilled, hcores⟩ := h
  exact ⟨w, (getCrew_of_places ht id).trans hw, hrecord, hindex, howner, hcluster, hthreads, hphase, hspilled,
    fun k hk => (congrArg _ (getCore_of_places ht k)).trans (hcores k hk)⟩

theorem crewAdmitted_getCrew (s : State) (r : RecordState) (c : Nat) : getCrew (crewAdmitted s r c) s.nextCrew = some (newCrew s r c) := by
  rw [getCrew_of_places (crewAdmitted_places s r c), getCrew, admitCrew_crews, AMap.find_set_self]

theorem crewAdmitted_core (hk : k ∈ crewTakes s r c) : (getCore (crewAdmitted s r c) k).crew = some s.nextCrew := by
  rw [getCore_of_places (crewAdmitted_places s r c), admitCrew_core, takenCores_core hk]

/-- Each crew runs on its cores: those that follow it take others. -/
theorem crewStands_admitCrews {cs : List Nat} {j x : Nat} (hx : cs[j]? = some x) :
    CrewStands (admitCrews s r cs) r (s.nextCrew + j) x (r.nextCrew + j) := by
  induction cs generalizing s r j with
  | nil => exact absurd hx.symm (Option.some_ne_none x)
  | cons c cs ih =>
    rw [admitCrews_cons]
    cases j with
    | zero =>
      obtain rfl := Option.some.inj hx
      have hkept : CrewsKept (crewAdmitted s r c) (admitCrews (crewAdmitted s r c) (r.crewsPlaced 1) cs) := crewsKept_admitCrews
      have hnext : s.nextCrew < (crewAdmitted s r c).nextCrew := by
        rw [nextCrew_of_places (crewAdmitted_places s r c), admitCrew_nextCrew]
        exact Nat.lt_succ_self _
      exact ⟨newCrew s r c, (hkept.crew _ hnext).trans (crewAdmitted_getCrew s r c), rfl, rfl, rfl, rfl, rfl, rfl, rfl,
        fun k hk => hkept.core k _ (crewAdmitted_core hk)⟩
    | succ j =>
      have hrest := ih (s := crewAdmitted s r c) (r := r.crewsPlaced 1) (j := j) hx
      have hnext : (crewAdmitted s r c).nextCrew = s.nextCrew + 1 := (nextCrew_of_places (crewAdmitted_places s r c)).trans (admitCrew_nextCrew s r c)
      rw [hnext, Nat.add_assoc, Nat.add_comm 1] at hrest
      have hindex : (r.crewsPlaced 1).nextCrew + j = r.nextCrew + (j + 1) := (Nat.add_assoc _ 1 j).trans (congrArg _ (Nat.add_comm 1 j))
      rw [hindex] at hrest
      exact hrest

/-! ### CREW_ADMIT and GANG_ADMIT (R55, R60, R71, R72) -/

theorem readHint_read (h : r.hintRead.isSome = true) : readHint s r = (s, r) := if_pos h

theorem hintHome_read (h : r.hintRead.isSome = true) : hintHome s r = true := by simp [hintHome, h]

/-- The state in which crews have gone to their clusters. -/
def crewsSettled (s : State) (r : RecordState) (cs : List Nat) : State := settle (admitCrews s r cs)

theorem crewsSettled_places {cs : List Nat} (hinv : Inv s) (hr : AMap.find s.records seq = some r) :
    (crewsSettled s r cs).places = (admitCrews s r cs).places := by
  have hi := invFrom_zero.mpr hinv
  exact settle_places (invFrom_zero.mp (hi.withFound hr inv_admitCrews))

/-- What becomes of the record. -/
theorem stands_crewsSettled {cs : List Nat} (hinv : Inv s) (hr : AMap.find s.records seq = some r) (hkind : r.kind ≤ 3) (ha : r.depA = 0xFFF)
    (hb : r.depB = 0xFFF) (hcs : cs ≠ []) : Stands (crewsSettled s r cs) (r.crewsPlaced cs.length) := by
  obtain ⟨c, rest, rfl⟩ := List.exists_cons_of_ne_nil hcs
  have hi := invFrom_zero.mpr hinv
  have hkept : Inv (admitCrews s r (c :: rest)) := invFrom_zero.mp (hi.withFound hr inv_admitCrews)
  refine Stands.settle ?_ hkept hkind ha hb
  rw [admitCrews_cons, List.length_cons, Nat.add_comm]
  exact stands_admitCrews (stands_crewAdmitted s r c)

/-- The crews of a unit whose turn it is go where they are placed, or are refused. -/
theorem admitUnits_turn {kind : Nat} {place : State → RecordState → Option (List Nat)} (hr : AMap.find s.records seq = some r)
    (hconsidered : considered s r = true) (hruns : helmRuns s = true) (hpower : s.board.phase = .running) (hhint : r.hintRead.isSome = true)
    (hchosen : r.chosen = []) (hhost : hostPlaced s r = false) (hturn : itsTurn s r = true) (hkind : r.kind = kind) :
    admitUnits s seq kind place = (place s r).elim (.next (refuse s r)) fun cs => .next (settleCrews s r cs) := by
  rw [admitUnits, hr]
  dsimp only
  rw [readHint_read hhint, hintHome_read hhint, hconsidered, hruns, poweredUp, hpower, hkind, hchosen, hturn, hhost]
  cases place s r with
  | none => simp
  | some cs => simp

theorem settleCrews_clean {cs : List Nat} (hclean : ∀ x ∈ cs, needsScrub s x r.owner = false) : settleCrews s r cs = crewsSettled s r cs :=
  if_neg (by simpa using hclean)

theorem refuse_first (h : r.refusedAt = none) : refuse s r = putRecord s { r with refusedAt := some s.board.refclk } :=
  if_neg (by simp [h])

/-! ### STREAM_ADMIT and VOYAGE_ADMIT (R70) -/

/-- The site of a launch that has one, once it is scrubbed. -/
theorem siteOf_chosen {kind : Nat} (hr : AMap.find s.records seq = some r) (hconsidered : considered s r = true) (hruns : helmRuns s = true)
    (hpower : s.board.phase = .running) (hhint : r.hintRead.isSome = true) (hkind : r.kind = kind) (hchosen : r.chosen = [c])
    (hfree : freeFor s c r.owner = true) (hscrubbed : scrubbed s r = true) : siteOf s seq kind = .inr (s, r, c) := by
  have hend : r.ending.isNone = true := by
    simp only [considered, Bool.and_eq_true] at hconsidered
    obtain ⟨⟨hend, _⟩, _⟩ := hconsidered
    exact hend
  rw [siteOf, hr]
  dsimp only
  rw [readHint_read hhint, hintHome_read hhint, hconsidered, hruns, poweredUp, hpower, hkind, hend, hchosen]
  simp [hfree, hscrubbed]

/-- The state in which a section's image starts to load. -/
def sectionLoading (s : State) (r : RecordState) (c : Nat) (l : ImageLoad) : State :=
  setCluster (putRecord s { r with chosen := [c], refusedAt := none }) c
    { getCluster s c with lastOwner := some r.owner, loads := (getCluster s c).loads ++ [l] }

theorem exec_streamAdmit (hsite : siteOf s seq 3 = .inr (s, r, c)) (hnone : ∀ l ∈ (getCluster s c).loads, l.record ≠ some seq) :
    ∃ l, exec (.streamAdmit seq) s = .next (sectionLoading s r c l) ∧ l.fid = r.words.w2.extractLsb' 52 12 ∧ l.record = some seq := by
  have hany : ((getCluster s c).loads.any fun l => l.record == some seq) = false := List.any_eq_false.mpr fun l hl => by simpa using hnone l hl
  have hexec : exec (.streamAdmit seq) s = execStreamAdmit seq s := rfl
  refine ⟨newLoad (putRecord s { r with chosen := [c], refusedAt := none }) (r.words.w2.extractLsb' 52 12) (some seq), ?_, rfl, rfl⟩
  rw [hexec, execStreamAdmit, hsite]
  dsimp only
  rw [hany]
  rfl

/-- The record as a cluster is given to it. -/
def RecordState.placedAt (r : RecordState) : RecordState := { r with refusedAt := none, phase := .admitted, entered := true }

theorem admitSite_record (h : r.phase = .accepted) : (admitSite s r c).2 = r.placedAt := by
  rw [admitSite, h]
  rfl

/-- The voyage of a launch whose descriptor has been read. -/
def launchVoyage (s : State) (r : RecordState) (c seq : Nat) (bs : List Byte) : Voyage :=
  newVoyage (unhold (admitSite s r c).1 (.record seq)) r.words.w2 (words8Of (wordsOf 8 bs)) r.owner (some seq) none none 0 r.clk

/-- The state in which a launch's voyage begins, before the helm's own state changes. -/
def voyageBegun (s : State) (r : RecordState) (c seq : Nat) (bs : List Byte) : State :=
  beginVoyage (enlist (putRecord (unhold (admitSite s r c).1 (.record seq)) { r.placedAt with chosen := [] }) (launchVoyage s r c seq bs).agent seq) c
    (launchVoyage s r c seq bs)

theorem exec_voyageAdmit {bs : List Byte} (hsite : siteOf s seq 2 = .inr (s, r, c)) (htaken : voyageTaken s c = false) (hphase : r.phase = .accepted)
    (hmay : mayChange (admitSite s r c).1 (.record seq) = true)
    (hread : engineWords (admitSite s r c).1 c none r.owner r.clk .both 8 r.words.w2 [] false = .got bs false)
    (hgood : descError (words8Of (wordsOf 8 bs)) r.words.w2 = 0) : exec (.voyageAdmit seq) s = .next (settle (voyageBegun s r c seq bs)) := by
  have hexec : exec (.voyageAdmit seq) s = execVoyageAdmit seq s := rfl
  have hrecord := admitSite_record (s := s) (c := c) hphase
  rw [hexec, execVoyageAdmit, hsite, voyageBegun, launchVoyage]
  dsimp only
  rw [htaken, if_neg Bool.false_ne_true]
  generalize admitSite s r c = p at *
  obtain ⟨u, x⟩ := p
  dsimp only at *
  subst hrecord
  have hread' : engineWords u c none r.placedAt.owner r.placedAt.clk .both 8 r.placedAt.words.w2 [] false = .got bs false := hread
  rw [hread']
  dsimp only
  have hgood' : descError (words8Of (wordsOf 8 bs)) r.placedAt.words.w2 = 0 := hgood
  rw [hmay, hgood']
  rfl

theorem inv_voyageBegun {bs : List Byte} (hinv : Inv s) (hr : AMap.find s.records seq = some r) : Inv (voyageBegun s r c seq bs) := by
  have hi := (invFrom_zero.mpr hinv).all
  obtain ⟨hnum, hlt⟩ := hi.found hr
  obtain ⟨hsite, _⟩ := inv_admitSite (c := c) hi (hnum ▸ hlt) rfl
  have hput : InvFrom s.helm.nextSeq (putRecord (unhold (admitSite s r c).1 (.record seq)) { r.placedAt with chosen := [] }) :=
    inv_putRecord (inv_unhold hsite) (hnum ▸ hlt)
  exact invFrom_zero.mp (InvFrom.mono (.same hput) (Nat.zero_le _))

theorem stands_voyageBegun (s : State) (r : RecordState) (c seq : Nat) (bs : List Byte) :
    Stands (voyageBegun s r c seq bs) { r.placedAt with chosen := [] } := ⟨_, AMap.find_set_self _ _ _, .refl _, rfl⟩

theorem voyageBegun_voyage (s : State) (r : RecordState) (c seq : Nat) (bs : List Byte) :
    (getCluster (voyageBegun s r c seq bs) c).voyage = some (launchVoyage s r c seq bs) := congrArg ClusterState.voyage (getCluster_setCluster _ _ _)

end

end Sys2Proof.Machine

namespace Sys2Proof

open Sys2Proof.Machine Sys2Proof.Safety

/-- Settles O43: the crews of a unit are admitted one after another (`admitCrews_cons`), and the helm's own state changes afterwards leave the launch in its
state and move no place. -/
theorem unitsArePlaced : Obligations.UnitsArePlaced := by
  unfold Obligations.UnitsArePlaced
  intro s seq c r cs bs T Crewed adm Goes u cl hinv hr hconsidered hruns hpower hhint ha hb hT
  have hnum : r.seqNo = seq := ((invFrom_zero.mpr hinv).found hr).1
  have hgoes : ∀ t n, Stands t (r.crewsPlaced n) → Goes t n := fun t n ⟨q, hq, hsame, hphase⟩ =>
    ⟨q, hnum ▸ hq, hphase, by rw [hsame]; rfl, by rw [hsame]; rfl, by rw [hsame]; rfl, by rw [hsame]; rfl⟩
  have hcrewed : ∀ t id x n, CrewStands t r id x n → Crewed t id x n := fun t id x n ⟨w, hw, hrecord, hrest⟩ => ⟨w, hw, hrecord.trans hnum, hrest⟩
  refine ⟨fun hchosen hhost hturn => ⟨fun hkind hplace hclean => ?_, fun hkind hplace hfirst => ?_, fun hkind hplace hclean hne => ?_⟩,
    fun hkind hchosen hfree hscrubbed hnone => ?_, fun hkind hchosen hfree hscrubbed htaken hphase hmay hread hgood => ?_⟩
  · have hexec : exec (.crewAdmit seq) s = execCrewAdmit seq s := rfl
    rw [execCrewAdmit, admitUnits_turn hr hconsidered hruns hpower hhint hchosen hhost hturn hkind, hplace] at hexec
    have hsettled : settleCrews s r [c] = crewsSettled s r [c] := settleCrews_clean (by simpa using hclean)
    have hplaces := crewsSettled_places (cs := [c]) hinv hr
    have hone : (crewsSettled s r [c]).places = (admitCrew s r c).places := hplaces.trans (admitCrews_one_places s r c)
    refine ⟨_, hexec.trans (congrArg _ hsettled), hgoes _ _ (stands_crewsSettled hinv hr (by omega) ha hb (by simp)),
      hcrewed _ _ _ _ (CrewStands.of_places (crewStands_admitCrews (j := 0) rfl) hplaces), ?_, ⟨newCrew s r c, ?_, ?_, fun e he => ?_⟩, fun k hk => ?_⟩
    · rw [nextCrew_of_places hone, admitCrew_nextCrew]
    · rw [getCrew_of_places hone, getCrew, admitCrew_crews, AMap.find_set_self]
    · rw [newCrew, crewTakes, RecordState.cores, if_pos (by omega)]
    · have hthread : getThread (crewsSettled s r [c]) e.2 = _ := (getThread_of_places hone e.2).trans (admitCrew_thread hT he)
      dsimp only
      rw [hthread]
      exact ⟨rfl, rfl, rfl, rfl, rfl, rfl, rfl, rfl, rfl, rfl, rfl, rfl, rfl⟩
    · rw [getCore_of_places hone, admitCrew_core_other hk]
  · have hexec : exec (.crewAdmit seq) s = execCrewAdmit seq s := rfl
    rw [execCrewAdmit, admitUnits_turn hr hconsidered hruns hpower hhint hchosen hhost hturn hkind, hplace] at hexec
    refine ⟨_, hexec.trans (congrArg Host.Outcome.next (refuse_first hfirst)), ?_, rfl, rfl⟩
    rw [putRecord, ← hnum]
    exact AMap.find_set_self _ _ _
  · have hexec : exec (.gangAdmit seq) s = execGangAdmit seq s := rfl
    rw [execGangAdmit, admitUnits_turn hr hconsidered hruns hpower hhint hchosen hhost hturn hkind, hplace] at hexec
    have hplaces := crewsSettled_places (cs := cs) hinv hr
    refine ⟨_, hexec.trans (congrArg _ (settleCrews_clean hclean)), hgoes _ _ (stands_crewsSettled hinv hr (by omega) ha hb hne), ?_,
      fun j x hx => hcrewed _ _ _ _ (CrewStands.of_places (crewStands_admitCrews hx) hplaces)⟩
    rw [nextCrew_of_places hplaces, admitCrews_nextCrew]
  · obtain ⟨l, hexec, hfid, hrecord⟩ := exec_streamAdmit (siteOf_chosen hr hconsidered hruns hpower hhint hkind hchosen hfree hscrubbed) hnone
    refine ⟨_, l, hexec, ?_, hfid, hrecord, ?_, rfl⟩
    · rw [sectionLoading, getCluster_setCluster]
    · rw [sectionLoading, getCluster_setCluster]
  · have hsite := siteOf_chosen hr hconsidered hruns hpower hhint hkind hchosen hfree hscrubbed
    have hbegun := inv_voyageBegun (c := c) (bs := bs) hinv hr
    obtain ⟨q, hq, hsame, hadmitted⟩ := (stands_voyageBegun s r c seq bs).settle hbegun (show r.kind ≤ 3 by omega) ha hb
    refine ⟨_, launchVoyage s r c seq bs, q, exec_voyageAdmit hsite htaken hphase hmay hread hgood, ?_, rfl, rfl, rfl, rfl, rfl, rfl, hnum ▸ hq,
      hadmitted, ?_⟩
    · rw [getCluster_of_places (settle_places hbegun), voyageBegun_voyage]
    · rw [hsame]

end Sys2Proof
end

section
/-! ## Atomics (R63, R293–R295) -/

namespace Sys2Proof.Machine

open Safety

/-! ### Numbers -/

theorem ofBytes_lt (bs : List Byte) : ofBytes bs < 2 ^ (8 * bs.length) := by
  induction bs with
  | nil => exact Nat.one_pos
  | cons b bs ih =>
    have hb := b.isLt
    rw [ofBytes, List.length_cons, Nat.mul_succ, Nat.pow_add]
    omega

theorem bytesAt_lt (s : State) (n k : Nat) : ofBytes (s.bytesAt n k) < 2 ^ (8 * n) := by
  have h := ofBytes_lt (s.bytesAt n k)
  rwa [bytesAt_length] at h

theorem toInt_ofNat_of_lt {w x : Nat} (hw : 0 < w) (hx : x < 2 ^ w) :
    (BitVec.ofNat w x).toInt = if x < 2 ^ w / 2 then (x : Int) else (x : Int) - 2 ^ w := by
  have htwice : 2 ^ w = 2 ^ (w - 1) * 2 := (Nat.two_pow_pred_mul_two hw).symm
  rw [BitVec.toInt_eq_toNat_cond, BitVec.toNat_ofNat, Nat.mod_eq_of_lt hx]
  split
  · rw [if_pos (by omega)]
  · rw [if_neg (by omega)]
    norm_cast

/-- A loaded value that is sign-extended. -/
theorem extend_signed {n x : Nat} (hn : 0 < n) (hx : x < 2 ^ (8 * n)) : extend true n x = (BitVec.ofNat (8 * n) x).signExtend 64 := by
  have hhalf : 2 ^ (8 * n) / 2 = 2 ^ (8 * n - 1) := Nat.pow_div (show 1 ≤ 8 * n by omega) (by decide)
  rw [BitVec.signExtend, toInt_ofNat_of_lt (by omega) hx, hhalf]
  rfl

theorem bits_lt (v : Word) (hi lo : Nat) : bits v hi lo < 2 ^ (hi + 1 - lo) := Nat.mod_lt _ (Nat.two_pow_pos _)

theorem foldXor_lt (fuel w v : Nat) : foldXor fuel w v < 2 ^ w := by
  induction fuel generalizing v with
  | zero => exact Nat.two_pow_pos w
  | succ fuel ih => exact Nat.xor_lt_two_pow (Nat.mod_lt _ (Nat.two_pow_pos w)) (ih _)

/-! ### Places that no bay holds (R144, R145) -/

/-- Global memory stands below the scratchpads (R90, R211). -/
theorem leafKey_lt (va p : Word) (big : Bool) : leafKey va p big < 2 ^ 43 := by
  have hdie : homeDie va big < 2 ^ 3 := foldXor_lt _ _ _
  have hframe := bits_lt p 41 29
  have hoffset := bits_lt va 28 0
  have hframe' := bits_lt p 41 16
  have hoffset' := bits_lt va 15 0
  unfold leafKey ddrKey
  cases big
  · simp only [Bool.false_eq_true, if_false]
    split <;> omega
  · simp only [if_true]
    split <;> omega

variable {s t u : State} {x : Word} {n k off key c core : Nat}

theorem spaceOf_pad (h : spaceOf c (some core) x n = .pad k off) : off < 2 ^ 18 ∧ (k / 128 = c ∨ k = core) := by
  have hoffset := bits_lt x 17 0
  unfold spaceOf at h
  split at h
  case h_2 =>
    split at h
    · next hin =>
      obtain ⟨rfl, rfl⟩ := Space.pad.inj h
      exact ⟨hoffset, .inl (by omega)⟩
    · exact absurd h (by simp)
  case h_4 =>
    dsimp only at h
    split at h
    · obtain ⟨rfl, rfl⟩ := Space.pad.inj h
      exact ⟨hoffset, .inr rfl⟩
    · exact absurd h (by simp)
  case h_6 => exact absurd h (by simp)
  all_goals
    split_ifs at h

theorem spaceOf_cell {own : Option Nat} (h : spaceOf c own x n = .cell key) : 2 ^ 44 ≤ key := by
  unfold spaceOf at h
  split at h
  case h_3 =>
    split at h
    · obtain rfl := Space.cell.inj h
      exact Nat.le_trans (Nat.le_add_right _ _) (Nat.le_add_right _ _)
    · exact absurd h (by simp)
  case h_4 =>
    split at h
    · split_ifs at h
    · exact absurd h (by simp)
  case h_6 => exact absurd h (by simp)
  all_goals
    split_ifs at h

/-- A thread's access of a scratchpad meets no active bay: one that would is denied. -/
theorem inActiveBay_pad (hat : locate s s.cur x n .both = .pad core off) : inActiveBay s (padKey core off) n = false := by
  unfold locate at hat
  split at hat
  case h_2 hspace =>
    obtain ⟨hoff, hcore⟩ := spaceOf_pad hspace
    split at hat
    · exact absurd hat (by simp)
    · next hfree =>
      obtain ⟨hk, ho⟩ := Located.pad.inj hat
      rw [hk] at hcore
      rw [ho] at hoff hfree
      have hcluster : coreCluster ((padKey core off - 2 ^ 43) / 2 ^ 18) = tagCluster s.cur := by
        have hplace : (padKey core off - 2 ^ 43) / 2 ^ 18 = core := by
          unfold padKey
          omega
        rw [hplace, coreCluster]
        unfold tagCluster tagCore at *
        omega
      have hplace : padKey core off % 2 ^ 18 = off := by
        unfold padKey
        omega
      rw [inActiveBay, hcluster, hplace]
      cases hbay : inBay off n && voyageActive s (tagCluster s.cur) with
      | true => exact absurd (by simpa using hbay) (by simpa using hfree)
      | false => rw [Bool.and_assoc, hbay, Bool.and_false]
  case h_5 =>
    split at hat <;> exact absurd hat (by simp)
  all_goals exact absurd hat (by simp)

theorem inActiveBay_outside (h : ¬ (2 ^ 43 ≤ key ∧ key < 2 ^ 44)) : inActiveBay s key n = false := by
  rw [inActiveBay, decide_eq_false h]
  rfl

theorem locate_cell_le (hat : locate s s.cur x n .both = .cell key) : 2 ^ 44 ≤ key := by
  unfold locate at hat
  split at hat
  case h_3 hspace =>
    obtain rfl := Located.cell.inj hat
    exact spaceOf_cell hspace
  case h_2 =>
    split at hat <;> exact absurd hat (by simp)
  case h_5 =>
    split at hat <;> exact absurd hat (by simp)
  all_goals exact absurd hat (by simp)

theorem locate_global_lt {cls : BitVec 2} {fl : Option Nat} (hat : locate s s.cur x n .both = .global key cls fl) : key < 2 ^ 43 := by
  unfold locate at hat
  split at hat
  case h_2 =>
    split at hat <;> exact absurd hat (by simp)
  case h_5 =>
    split at hat
    · next hhit =>
      obtain ⟨rfl, _⟩ := Located.global.inj hat
      unfold xlate at hhit
      split at hhit
      · exact absurd hhit (by simp)
      · split at hhit
        · obtain ⟨rfl, _⟩ := Xlate.hit.inj hhit
          exact leafKey_lt _ _ _
        · exact absurd hhit (by simp)
    · exact absurd hat (by simp)
    · exact absurd hat (by simp)
  all_goals exact absurd hat (by simp)

/-! ### A request leaves the core (R128, R295) -/

/-- What sending a request leaves of a state: bytes and their marks, threads, and what is on its way. -/
structure Sending (s u : State) : Prop where
  mem : u.mem = s.mem
  loose : u.loose = s.loose
  fresh : u.fresh = s.fresh
  poison : u.poison = s.poison
  threads : u.threads = s.threads
  cur : u.cur = s.cur
  posted : u.posted = s.posted
  writes : u.writes = s.writes

theorem Sending.refl (s : State) : Sending s s := ⟨rfl, rfl, rfl, rfl, rfl, rfl, rfl, rfl⟩

theorem Sending.th (h : Sending s u) : u.th = s.th := by rw [State.th, getThread, h.threads, h.cur, State.th, getThread]

theorem Sending.byteAt (h : Sending s u) (a : Nat) : u.byteAt a = s.byteAt a := byteAt_congr h.mem h.loose h.fresh a

/-- The access is counted, and fills the L1 TLB. -/
theorem fillL1_countAccess (s : State) (o : BitVec 12) (x : Word) (c page : Nat) :
    ∃ l m, fillL1 (countAccess s o x) c o page = { s with clusters := l, counts := m } := by
  unfold countAccess
  dsimp only
  split
  all_goals
    unfold fillL1
    dsimp only
    split
    · exact ⟨_, _, rfl⟩
    · split
      · exact ⟨_, _, rfl⟩
      · exact ⟨_, _, rfl⟩

/-- An atomic on a clean line of global memory changes no byte before it is performed. -/
theorem sending_global {o : BitVec 12} {page : Nat} (hline : lineForeign s key (keyOf s (ownerOf s s.cur)) (bits x 54 6) = false) :
    Sending s (claimFor (fillL1 (countAccess s o x) c o page) s.cur key x) := by
  obtain ⟨l, m, heq⟩ := fillL1_countAccess s o x c page
  have hline' : lineForeign { s with clusters := l, counts := m } key (keyOf { s with clusters := l, counts := m }
      (ownerOf { s with clusters := l, counts := m } s.cur)) (bits x 54 6) = false := hline
  rw [heq, claimFor, claimLine_clean hline']
  exact ⟨rfl, rfl, rfl, rfl, rfl, rfl, rfl, rfl⟩

/-- The state in which the issuing thread waits for the value of its request. -/
def sent (u : State) (r : MemReq) : State := { u with nextWrite := u.nextWrite + 1 }.setTh { u.th with park := .memory r }

theorem sendRequest_eq (u : State) (r : MemReq) : sendRequest u r = .next (sent u r) := rfl

theorem sent_th (u : State) (r : MemReq) : getThread (sent u r) u.cur = { u.th with park := .memory r } := getThread_setThread _ _ _

theorem sent_other {j : Nat} (r : MemReq) (hj : j ≠ u.cur) : getThread (sent u r) j = getThread u j := getThread_setThread_ne _ _ hj

/-- With nothing else on its way, a request is performed at once (R128). -/
theorem ready_sent (hquiet : Quiet s) (h : Sending s u) (r : MemReq) : r.ready (sent u r) u.cur = true := by
  obtain ⟨hposted, hwrites, hthreads⟩ := hquiet
  have hposted' : (sent u r).posted = [] := h.posted.trans hposted
  have hwrites' : (sent u r).writes = [] := h.writes.trans hwrites
  have hbehind : r.behind (sent u r) u.cur = false := by
    refine List.any_eq_false.mpr fun e he => ?_
    have hmem : e ∈ AMap.set u.threads u.cur { u.th with park := .memory r } := he
    rcases AMap.mem_set hmem with rfl | hother
    · simp
    · have hnone := List.all_eq_true.mp hthreads e (h.threads ▸ hother)
      split
      · next heq =>
        rw [heq] at hnone
        exact absurd hnone Bool.false_ne_true
      · simp
  rw [MemReq.ready, hbehind, writeAhead, dirtyBelow, hposted', hwrites']
  simp

/-! ### The value returns (R295) -/

/-- The issuing thread of `s` stands in `u` as it was, but for what it waits for and its clock. -/
structure Away (s u : State) : Prop where
  cur : u.cur = s.cur
  own : ∃ p k, getThread u s.cur = { s.th with park := p, clock := k }
  others : ∀ j, j ≠ s.cur → getThread u j = getThread s j

theorem away_sent (h : Sending s u) (r : MemReq) : Away s (sent u r) where
  cur := h.cur
  own := ⟨.memory r, s.th.clock, by rw [← h.cur, sent_th, h.th]⟩
  others j hj := by rw [sent_other r (h.cur ▸ hj), getThread, h.threads, getThread]

theorem Away.same (h : Away s u) (hthreads : t.threads = u.threads := by rfl) (hcur : t.cur = u.cur := by rfl) : Away s t where
  cur := hcur.trans h.cur
  own := by rw [getThread, hthreads]; exact h.own
  others j hj := by rw [getThread, hthreads]; exact h.others j hj

theorem Away.setClock (h : Away s u) (k : Clock) (hthreads : t.threads = u.threads := by rfl) (hcur : t.cur = u.cur := by rfl) :
    Away s (setThread t s.cur { getThread u s.cur with clock := k }) where
  cur := hcur.trans h.cur
  own := by
    obtain ⟨p, l, hth⟩ := h.own
    exact ⟨p, k, by rw [getThread_setThread, hth]⟩
  others j hj := by rw [getThread_setThread_ne _ _ hj, getThread, hthreads]; exact h.others j hj

theorem Away.acquired (h : Away s u) (ends : List RelEnd) (sc : Scope) : Away s (acquired u s.cur ends sc) := h.setClock _

/-- The thread has its value and goes on; every other thread is as it was. -/
structure Returned (s : State) (d : Reg) (v : Word) (t : State) : Prop where
  value : t.x d = if d = 0 then 0 else v
  pc : t.th.pc = s.th.pc + 4
  park : t.th.park = .none
  kept : Kept d s t
  others : OthersKept s t

theorem returned_finishLoad (h : Away s u) (d : Reg) (v : Word) (ends : List RelEnd) : Returned s d v (finishLoad u s.cur d v ends) := by
  obtain ⟨p, k, hth⟩ := h.own
  have hcur : (finishLoad u s.cur d v ends).th = { ({ s.th with park := p, clock := k }.writeX d v).advance with
      park := .none, seen := s.th.seen ++ ends } := by
    have hself : (finishLoad u s.cur d v ends).th = getThread (finishLoad u s.cur d v ends) s.cur := congrArg _ h.cur
    rw [hself, Machine.finishLoad, getThread_setThread, hth]
  have hx : ∀ r, (finishLoad u s.cur d v ends).x r = ({ s.th with park := p, clock := k }.writeX d v).readX r := fun r => by
    rw [State.x, hcur]
    rfl
  refine ⟨?_, ?_, ?_, ⟨fun r hr => ?_, ?_⟩, fun j hj => (getThread_setThread_ne _ _ hj).trans (h.others j hj)⟩
  · rw [hx, readX_writeX_self]
  · rw [hcur]
    exact congrArg (· + 4) (writeX_pc _ _ _)
  · rw [hcur]
  · rw [hx, readX_writeX_ne _ _ hr]
    rfl
  · rw [hcur]
    unfold ThreadState.writeX
    split
    · exact ⟨rfl, rfl, rfl, rfl, rfl, rfl, rfl, rfl, rfl⟩
    · exact ⟨rfl, rfl, rfl, rfl, rfl, rfl, rfl, rfl, rfl⟩

/-- An atomic that `i` is, issued at `s`, ends with `v` in x[d]: its request leaves the core, and the value returns (R295). -/
def AtomicEnds (i : Instr) (s : State) (d : Reg) (v : Word) (t : State) : Prop :=
  ∃ u, exec i s = .next u ∧ u.th.pc = s.th.pc ∧ Kept 0 s u ∧ SameMem s u ∧ exec (.loadReturn s.cur) u = .next t
    ∧ t.x d = (if d = 0 then 0 else v) ∧ t.th.pc = s.th.pc + 4 ∧ t.th.park = .none ∧ Kept d s t ∧ OthersKept s t

/-- A request for an atomic is performed when nothing else is on its way, and where no active bay stands. -/
theorem exec_loadReturn_sent {r : MemReq} {op : AtomicOp} (hquiet : Quiet s) (h : Sending s u) (hop : r.op = some op) (hsync : r.sync = none)
    (hbay : inActiveBay (sent u r) r.key r.size = false) : exec (.loadReturn s.cur) (sent u r) = .next (returnAtomic (sent u r) s.cur r op) := by
  have hexec : exec (.loadReturn s.cur) (sent u r) = execLoadReturn s.cur (sent u r) := rfl
  have hready := ready_sent hquiet h r
  rw [hexec, execLoadReturn, ← h.cur, sent_th]
  dsimp only
  rw [hready, hbay, hsync, hop, Bool.and_false]
  rfl

/-- What such an instruction leaves, once its value has returned. -/
theorem atomicEnds_of_returned {i : Instr} {d : Reg} {v : Word} {r : MemReq} {op : AtomicOp} (hexec : exec i s = .next (sent u r)) (hquiet : Quiet s)
    (h : Sending s u) (hop : r.op = some op) (hsync : r.sync = none) (hbay : inActiveBay (sent u r) r.key r.size = false)
    (hreturned : Returned s d v (returnAtomic (sent u r) s.cur r op)) : AtomicEnds i s d v (returnAtomic (sent u r) s.cur r op) := by
  have hth : (sent u r).th = { s.th with park := .memory r } := (sent_th u r).trans (by rw [h.th])
  refine ⟨sent u r, hexec, by rw [hth], ⟨fun j _ => ?_, ?_⟩, h.byteAt, exec_loadReturn_sent hquiet h hop hsync hbay, hreturned.value, hreturned.pc,
    hreturned.park, hreturned.kept, hreturned.others⟩
  · rw [State.x, hth]
    rfl
  · rw [hth]
    exact ⟨rfl, rfl, rfl, rfl, rfl, rfl, rfl, rfl, rfl⟩

/-! ### Words of memory (R293) -/

theorem flushLineFor_nil (h : s.writes = []) (c k m a : Nat) : flushLineFor s c k m a = s := by
  rw [flushLineFor, flushWrites, h]
  rfl

/-- An atomic writes, but for a `cas` that meets another value. -/
def atomicWrites (op : AtomicOp) (old expect : Nat) : Bool := !(op == .cas && old != expect)

/-- The acquire end of an atomic. -/
def atomicAcquired (w : State) (tag : Nat) (r : MemReq) (n : Nat) : State :=
  if r.acquire then acquired w tag (homeEnds w r.key n) r.scope else w

/-- The state in which an atomic on memory is performed. -/
def atomicDone (w : State) (tag : Nat) (r : MemReq) (op : AtomicOp) : State :=
  let old := ofBytes (w.bytesAt r.size r.key)
  let u := atomicAcquired w tag r r.size
  let th := getThread u tag
  let by_ := { th.writer tag none with issued := some r.after }
  if atomicWrites op old (r.expect.toNat % 2 ^ (8 * r.size)) then
    setThread (rmwHome u r.key (bytesOf r.size (op.apply r.size old (r.operand.toNat % 2 ^ (8 * r.size)))) by_ (!r.atHome)
      (th.plainEnds ++ ownEnd tag r by_)) tag th.wrote
  else u

theorem returnAtomic_memory {w : State} {tag : Nat} {r : MemReq} {op : AtomicOp} (hwrites : w.writes = []) (hcontrol : r.control = none)
    (hflag : r.flagAt = none) (hpoison : poisoned w r.key r.size = false) : returnAtomic w tag r op
      = finishLoad (atomicDone w tag r op) tag r.dest (extend r.signed r.size (ofBytes (w.bytesAt r.size r.key))) (homeEnds w r.key r.size) := by
  rw [returnAtomic, hcontrol]
  dsimp only
  rw [flushLineFor_nil hwrites, hpoison, hflag]
  rfl

theorem away_atomicAcquired {w : State} (h : Away s w) (r : MemReq) (n : Nat) : Away s (atomicAcquired w s.cur r n) := by
  unfold atomicAcquired
  split
  · exact h.acquired _ _
  · exact h

theorem atomicAcquired_mem (w : State) (tag : Nat) (r : MemReq) (n : Nat) : (atomicAcquired w tag r n).mem = w.mem := by
  unfold atomicAcquired
  split
  · rfl
  · rfl

theorem atomicAcquired_clusters (w : State) (tag : Nat) (r : MemReq) (n : Nat) : (atomicAcquired w tag r n).clusters = w.clusters := by
  unfold atomicAcquired
  split
  · rfl
  · rfl

theorem atomicAcquired_byteAt (w : State) (tag : Nat) (r : MemReq) (n a : Nat) : (atomicAcquired w tag r n).byteAt a = w.byteAt a := by
  unfold atomicAcquired
  split
  · rfl
  · rfl

theorem away_atomicDone {w : State} (h : Away s w) (r : MemReq) (op : AtomicOp) : Away s (atomicDone w s.cur r op) := by
  have hu := away_atomicAcquired h r r.size
  unfold atomicDone
  extract_lets old u th by_
  split
  · exact hu.setClock _
  · exact hu

theorem byteAt_atomicDone {w : State} (hwf : Memory.wf w.mem = true) (tag : Nat) (r : MemReq) (op : AtomicOp) (a : Nat) :
    (atomicDone w tag r op).byteAt a
      = if atomicWrites op (ofBytes (w.bytesAt r.size r.key)) (r.expect.toNat % 2 ^ (8 * r.size)) = true ∧ r.key ≤ a ∧ a < r.key + r.size then
          (bytesOf r.size (op.apply r.size (ofBytes (w.bytesAt r.size r.key)) (r.operand.toNat % 2 ^ (8 * r.size)))).getD (a - r.key) 0
        else w.byteAt a := by
  have hmem := atomicAcquired_mem w tag r r.size
  have hu := atomicAcquired_byteAt w tag r r.size a
  unfold atomicDone
  extract_lets old u th by_
  by_cases hw : atomicWrites op old (r.expect.toNat % 2 ^ (8 * r.size)) = true
  · have hput := byteAt_performWrite u r.key (bytesOf r.size (op.apply r.size old (r.operand.toNat % 2 ^ (8 * r.size)))) by_ [] (!r.atHome) (hmem ▸ hwf) a
    rw [bytesOf_length, hu] at hput
    rw [if_pos hw, if_congr (and_iff_right hw) rfl rfl]
    exact hput
  · rw [if_neg hw, if_neg fun h => hw h.1, hu]

/-- Where an atomic on memory goes: a scratchpad, a memory cell, or a clean line of global memory outside of the tile frames. -/
def AtomicPlace (s : State) (x : Word) (core off key n : Nat) (cls : BitVec 2) : Prop :=
  (locate s s.cur x n .both = .pad core off ∧ key = padKey core off ∧ (core = tagCore s.cur → padBlocked s s.cur true off n = false))
    ∨ locate s s.cur x n .both = .cell key
    ∨ (locate s s.cur x n .both = .global key cls none ∧ lineForeign s key (keyOf s (ownerOf s s.cur)) (bits x 54 6) = false)

section

variable {d a b : Reg} {o sc cls : BitVec 2} {op : AtomicOp} {i : Instr}

/-- An atomic on such a place sends its request there, whatever its operation (R295). -/
theorem atomic_sends (halign : (s.x a).toNat % n = 0) (hplace : AtomicPlace s (s.x a) core off key n cls) :
    ∃ u home, Sending s u ∧ (∀ r, inActiveBay (sent u r) key n = false)
      ∧ ∀ op, atomic op n d a b o sc s = .next (sent u (atomicReq u key (s.x a) n home d b op o sc none none)) := by
  rcases hplace with ⟨hat, rfl, hfree⟩ | hat | ⟨hat, hline⟩
  · refine ⟨s, true, .refl s, fun _ => inActiveBay_pad (s := s) hat, fun op => ?_⟩
    unfold atomic
    extract_lets ea
    rw [if_neg (not_not_intro halign), hat]
    exact if_neg fun h => ne_true_of_eq_false (hfree h.1) h.2
  · have hkey := locate_cell_le hat
    refine ⟨s, true, .refl s, fun _ => inActiveBay_outside (by omega), fun op => ?_⟩
    unfold atomic
    extract_lets ea
    rw [if_neg (not_not_intro halign), hat]
    rfl
  · have hkey := locate_global_lt hat
    refine ⟨claimFor (fillL1 (countAccess s (ownerOf s s.cur) (s.x a)) (tagCluster s.cur) (ownerOf s s.cur) (pageOf (s.x a))) s.cur key (s.x a),
      cls == 1, sending_global hline, fun _ => inActiveBay_outside (by omega), fun op => ?_⟩
    obtain ⟨l, m, hfill⟩ := fillL1_countAccess s (ownerOf s s.cur) (s.x a) (tagCluster s.cur) (pageOf (s.x a))
    have hcur : (fillL1 (countAccess s (ownerOf s s.cur) (s.x a)) (tagCluster s.cur) (ownerOf s s.cur) (pageOf (s.x a))).cur = s.cur := by rw [hfill]
    unfold atomic
    extract_lets ea
    rw [if_neg (not_not_intro halign), hat]
    dsimp only
    rw [hcur, sendRequest_eq]

/-- An atomic returns the old value, and writes the new one unless it is a `cas` that fails. -/
theorem atomic_ends (hexec : exec i s = atomic op n d a b o sc s) (hinv : Inv s) (hquiet : Quiet s) (halign : (s.x a).toNat % n = 0)
    (hplace : AtomicPlace s (s.x a) core off key n cls) (hclean : poisoned s key n = false) :
    ∃ t, AtomicEnds i s d (extend (op != .fadd) n (ofBytes (s.bytesAt n key))) t
      ∧ ∀ y, t.byteAt y = if atomicWrites op (ofBytes (s.bytesAt n key)) ((s.x d).toNat % 2 ^ (8 * n)) = true ∧ key ≤ y ∧ y < key + n then
          (bytesOf n (op.apply n (ofBytes (s.bytesAt n key)) ((s.x b).toNat % 2 ^ (8 * n)))).getD (y - key) 0
        else s.byteAt y := by
  obtain ⟨u, home, hu, hbay, hsend⟩ := atomic_sends (d := d) (b := b) (o := o) (sc := sc) halign hplace
  have ⟨_, hnone, _⟩ := hquiet
  obtain ⟨hwf, _⟩ := hinv
  have hx : ∀ r, u.x r = s.x r := fun r => by rw [State.x, hu.th, State.x]
  let r := atomicReq u key (s.x a) n home d b op o sc none none
  have hbytes : (sent u r).bytesAt r.size r.key = s.bytesAt n key := bytesAt_congr n key fun y _ _ => hu.byteAt y
  have hpoison : poisoned (sent u r) r.key r.size = false := by
    rw [← hclean]
    exact congrArg (fun l : List Nat => l.any fun x => (key ≤ x && x < key + n) || sameExtent x key || (n != 0 && sameExtent x (key + n - 1))) hu.poison
  have hreturn := returnAtomic_memory (w := sent u r) (tag := s.cur) (r := r) (op := op) (hu.writes.trans hnone) rfl rfl hpoison
  have haway := away_atomicDone (away_sent hu r) r op
  have hreturned := returned_finishLoad haway d (extend (op != .fadd) n (ofBytes (s.bytesAt n key))) (homeEnds (sent u r) r.key r.size)
  have hvalue : extend r.signed r.size (ofBytes ((sent u r).bytesAt r.size r.key)) = extend (op != .fadd) n (ofBytes (s.bytesAt n key)) :=
    congrArg (fun bs => extend (op != .fadd) n (ofBytes bs)) hbytes
  rw [hvalue] at hreturn
  refine ⟨_, atomicEnds_of_returned (hexec.trans (hsend op)) hquiet hu rfl rfl (hbay r) (hreturn ▸ hreturned), fun y => ?_⟩
  have hbyte := byteAt_atomicDone (w := sent u r) (hu.mem ▸ hwf) s.cur r op y
  have hexpect : r.expect = s.x d := hx d
  have hoperand : r.operand = s.x b := hx b
  rw [hbytes, hexpect, hoperand] at hbyte
  have hrest : (sent u r).byteAt y = s.byteAt y := hu.byteAt y
  rw [hrest] at hbyte
  rw [hreturn]
  exact hbyte

/-- Every atomic but a `cas` writes its result. -/
theorem atomic_stores (hexec : exec i s = atomic op n d a b o sc s) (hcas : (op == .cas) = false) (hinv : Inv s) (hquiet : Quiet s)
    (halign : (s.x a).toNat % n = 0) (hplace : AtomicPlace s (s.x a) core off key n cls) (hclean : poisoned s key n = false) :
    ∃ t, AtomicEnds i s d (extend (op != .fadd) n (ofBytes (s.bytesAt n key))) t
      ∧ Stored key (bytesOf n (op.apply n (ofBytes (s.bytesAt n key)) ((s.x b).toNat % 2 ^ (8 * n)))) s t := by
  obtain ⟨t, ht, hbytes⟩ := atomic_ends hexec hinv hquiet halign hplace hclean
  refine ⟨t, ht, fun y => ?_⟩
  rw [hbytes y, atomicWrites, hcas, bytesOf_length]
  simp

/-- A `cas` writes its operand where it meets its value. -/
theorem cas_stores (hexec : exec i s = atomic .cas n d a b o sc s) (hinv : Inv s) (hquiet : Quiet s) (halign : (s.x a).toNat % n = 0)
    (hplace : AtomicPlace s (s.x a) core off key n cls) (hclean : poisoned s key n = false) :
    ∃ t, AtomicEnds i s d (extend true n (ofBytes (s.bytesAt n key))) t
      ∧ (ofBytes (s.bytesAt n key) = (s.x d).toNat % 2 ^ (8 * n) → Stored key (bytesOf n ((s.x b).toNat % 2 ^ (8 * n))) s t)
      ∧ (ofBytes (s.bytesAt n key) ≠ (s.x d).toNat % 2 ^ (8 * n) → SameMem s t) := by
  obtain ⟨t, ht, hbytes⟩ := atomic_ends hexec hinv hquiet halign hplace hclean
  refine ⟨t, ht, fun hsame y => ?_, fun hother y => ?_⟩
  · rw [hbytes y, atomicWrites, hsame, bytesOf_length]
    simp [AtomicOp.apply]
  · rw [hbytes y, atomicWrites]
    simp [hother]

/-! ### Words of the task table (R63) -/

/-- The state in which an atomic on a word of the task table is performed. -/
def taskDone (w : State) (tag : Nat) (r : MemReq) (op : AtomicOp) (wd : Nat) : State :=
  let old := getTask w (tagCluster tag) wd
  let u := atomicAcquired w tag r 8
  let th := getThread u tag
  if op == .cas && old != r.expect then u
  else
    let v := setThread (setTask u (tagCluster tag) wd (BitVec.ofNat 64 (op.apply 8 old.toNat r.operand.toNat))) tag th.wrote
    { v with homeRel := setHomeRel v.homeRel r.key 8 ((AMap.getD v.homeRel r.key []) ++ th.plainEnds ++ ownEnd tag r (th.writer tag none)) }

theorem returnAtomic_task {w : State} {tag off wd : Nat} {r : MemReq} {op : AtomicOp} (hcontrol : r.control = some off)
    (htask : controlOf off = .task wd) : returnAtomic w tag r op
      = finishLoad (taskDone w tag r op wd) tag r.dest (getTask w (tagCluster tag) wd) (homeEnds w r.key 8) := by
  rw [returnAtomic, hcontrol]
  dsimp only
  rw [htask]
  rfl

theorem away_taskDone {w : State} (h : Away s w) (r : MemReq) (op : AtomicOp) (wd : Nat) : Away s (taskDone w s.cur r op wd) := by
  have hu := away_atomicAcquired h r 8
  unfold taskDone
  extract_lets old u th v
  split
  · exact hu
  · have hv : Away s v := hu.setClock _
    exact hv.same

theorem taskDone_byteAt (w : State) (tag : Nat) (r : MemReq) (op : AtomicOp) (wd y : Nat) : (taskDone w tag r op wd).byteAt y = w.byteAt y := by
  have hu := atomicAcquired_byteAt w tag r 8 y
  unfold taskDone
  extract_lets old u th v
  split
  · exact hu
  · exact hu

theorem taskDone_getTask (w : State) (tag : Nat) (r : MemReq) (op : AtomicOp) (wd : Nat) :
    getTask (taskDone w tag r op wd) (tagCluster tag) wd
      = (if op == .cas && getTask w (tagCluster tag) wd != r.expect then getTask w (tagCluster tag) wd
        else taskMask wd (BitVec.ofNat 64 (op.apply 8 (getTask w (tagCluster tag) wd).toNat r.operand.toNat)))
    ∧ ∀ j, j ≠ wd → getTask (taskDone w tag r op wd) (tagCluster tag) j = getTask w (tagCluster tag) j := by
  have hu : ∀ j, getTask (atomicAcquired w tag r 8) (tagCluster tag) j = getTask w (tagCluster tag) j := fun j => by
    rw [getTask, getCluster, atomicAcquired_clusters, getTask, getCluster]
  have hset : ∀ j x, (AMap.getD (getCluster (setTask (atomicAcquired w tag r 8) (tagCluster tag) wd x) (tagCluster tag)).tasks j 0)
      = AMap.getD (AMap.set (getCluster (atomicAcquired w tag r 8) (tagCluster tag)).tasks wd (taskMask wd x)) j 0 := fun j x => by
    rw [setTask, getCluster_setCluster]
  unfold taskDone
  extract_lets old u th v
  split
  · exact ⟨hu wd, fun j _ => hu j⟩
  · exact ⟨(hset wd _).trans (AMap.getD_set_self _ _ _ _), fun j hj => (hset j _).trans ((AMap.getD_set_ne _ _ _ hj).trans (hu j))⟩

/-- An atomic of 8 bytes that the task table takes returns the old word, and writes the new one unless it is a `cas` that fails. -/
theorem atomic_ends_task {wd : Nat} (hexec : exec i s = atomic op 8 d a b o sc s) (honTable : op.onTable = true) (hquiet : Quiet s)
    (halign : (s.x a).toNat % 8 = 0) (hat : locate s s.cur (s.x a) 8 .both = .control off) (htask : controlOf off = .task wd) :
    ∃ t, AtomicEnds i s d (getTask s (tagCluster s.cur) wd) t ∧ SameMem s t
      ∧ getTask t (tagCluster s.cur) wd
        = (if op == .cas && getTask s (tagCluster s.cur) wd != s.x d then getTask s (tagCluster s.cur) wd
          else taskMask wd (BitVec.ofNat 64 (op.apply 8 (getTask s (tagCluster s.cur) wd).toNat (s.x b).toNat)))
      ∧ ∀ j, j ≠ wd → getTask t (tagCluster s.cur) j = getTask s (tagCluster s.cur) j := by
  let r := atomicReq s (controlKey (tagCluster s.cur) off) (s.x a) 8 true d b op o sc (some off) none
  have hkey : 2 ^ 48 ≤ controlKey (tagCluster s.cur) off := by
    rw [controlKey, htask]
    exact Nat.le_trans (Nat.le_add_right _ _) (Nat.le_add_right _ _)
  have hsend : atomic op 8 d a b o sc s = .next (sent s r) := by
    unfold atomic
    extract_lets ea
    rw [if_neg (not_not_intro halign), hat]
    dsimp only
    rw [htask]
    exact if_pos ⟨rfl, honTable⟩
  have hreturn := returnAtomic_task (w := sent s r) (tag := s.cur) (r := r) (op := op) rfl htask
  have hreturned := returned_finishLoad (away_taskDone (away_sent (.refl s) r) r op wd) d (getTask s (tagCluster s.cur) wd) (homeEnds (sent s r) r.key 8)
  have hbay : inActiveBay (sent s r) r.key r.size = false := inActiveBay_outside (key := controlKey (tagCluster s.cur) off) (by omega)
  refine ⟨_, atomicEnds_of_returned (hexec.trans hsend) hquiet (.refl s) rfl rfl hbay (hreturn ▸ hreturned), fun y => ?_, ?_⟩
  · rw [hreturn]
    exact taskDone_byteAt (sent s r) s.cur r op wd y
  · rw [hreturn]
    exact taskDone_getTask (sent s r) s.cur r op wd

/-- A `cas` on the task table writes its operand where it meets its value. -/
theorem cas_ends_task {wd : Nat} (hexec : exec i s = atomic .cas 8 d a b o sc s) (hquiet : Quiet s) (halign : (s.x a).toNat % 8 = 0)
    (hat : locate s s.cur (s.x a) 8 .both = .control off) (htask : controlOf off = .task wd) :
    ∃ t, AtomicEnds i s d (getTask s (tagCluster s.cur) wd) t ∧ SameMem s t
      ∧ getTask t (tagCluster s.cur) wd
        = (if getTask s (tagCluster s.cur) wd = s.x d then taskMask wd (s.x b) else getTask s (tagCluster s.cur) wd)
      ∧ ∀ j, j ≠ wd → getTask t (tagCluster s.cur) j = getTask s (tagCluster s.cur) j := by
  obtain ⟨t, ht, hmem, hnew, hrest⟩ := atomic_ends_task hexec rfl hquiet halign hat htask
  refine ⟨t, ht, hmem, hnew.trans ?_, hrest⟩
  by_cases hmeets : getTask s (tagCluster s.cur) wd = s.x d
  · simp [hmeets, AtomicOp.apply]
  · simp [hmeets]

/-- Any other atomic on the task table is an access fault (R63). -/
theorem atomic_traps_task {wd : Nat} (halign : (s.x a).toNat % n = 0) (hat : locate s s.cur (s.x a) n .both = .control off)
    (htask : controlOf off = .task wd) (hno : ¬ (n = 8 ∧ op.onTable = true)) : atomic op n d a b o sc s = s.trap 0x03 (s.x a) := by
  unfold atomic
  extract_lets ea
  rw [if_neg (not_not_intro halign), hat]
  dsimp only
  rw [htask]
  exact if_neg hno

/-! ### The operations (R293) -/

theorem apply_and_word (x y : Word) : BitVec.ofNat 64 (AtomicOp.apply .and 8 x.toNat y.toNat) = x &&& y :=
  BitVec.eq_of_toNat_eq (by simp [AtomicOp.apply])

theorem apply_or_word (x y : Word) : BitVec.ofNat 64 (AtomicOp.apply .or 8 x.toNat y.toNat) = x ||| y :=
  BitVec.eq_of_toNat_eq (by simp [AtomicOp.apply])

theorem apply_swap_word (x y : Word) : BitVec.ofNat 64 (AtomicOp.apply .swap 8 x.toNat y.toNat) = y :=
  BitVec.eq_of_toNat_eq (by simp [AtomicOp.apply])

theorem apply_min {old v : Nat} (hn : 0 < n) (hold : old < 2 ^ (8 * n)) (hv : v < 2 ^ (8 * n)) :
    AtomicOp.apply .min n old v = if (BitVec.ofNat (8 * n) old).toInt ≤ (BitVec.ofNat (8 * n) v).toInt then old else v := by
  rw [toInt_ofNat_of_lt (by omega) hold, toInt_ofNat_of_lt (by omega) hv]
  simp [AtomicOp.apply]

theorem apply_max {old v : Nat} (hn : 0 < n) (hold : old < 2 ^ (8 * n)) (hv : v < 2 ^ (8 * n)) :
    AtomicOp.apply .max n old v = if (BitVec.ofNat (8 * n) old).toInt ≤ (BitVec.ofNat (8 * n) v).toInt then v else old := by
  rw [toInt_ofNat_of_lt (by omega) hold, toInt_ofNat_of_lt (by omega) hv]
  simp [AtomicOp.apply]

end

end Sys2Proof.Machine

namespace Sys2Proof

open Sys2Proof.Machine Sys2Proof.Safety

/-- Settles O12: the request leaves the core (`atomic_sends`, `exec_loadReturn_sent`), and its return is one read-modify-write at the home, or one
of a task word. -/
theorem atomicOperations : Obligations.AtomicOperations := by
  unfold Obligations.AtomicOperations
  intro s d a b z o c core off key n w cls ea cl at_ here M old v sgn Ends Does R T OnTask hinv hn halign hquiet
  have hsize : n = atomSize z := hn
  have hpos : 0 < n := by
    rw [hn]
    split
    · exact Nat.succ_pos _
    · exact Nat.succ_pos _
  have hold : old < 2 ^ (8 * n) := bytesAt_lt s n key
  have hv : v < 2 ^ (8 * n) := Nat.mod_lt _ (Nat.two_pow_pos _)
  refine ⟨fun hhere hclean => ?_, fun hat htask => ⟨fun h8 => ?_, fun hih => ?_⟩⟩
  · have hdoes : ∀ {op i x}, exec i s = atomic op n d a b o c s → (op == .cas) = false → (op != .fadd) = true → op.apply n old v = x →
        Does i R (some x) := by
      intro op i x hexec hcas hfadd hx
      obtain ⟨t, ht, hstored⟩ := atomic_stores hexec hcas hinv hquiet halign hhere hclean
      rw [hfadd, extend_signed hpos hold] at ht
      exact ⟨t, ht, hx ▸ hstored⟩
    subst hsize
    refine ⟨hdoes (op := .add) rfl rfl rfl rfl, hdoes (op := .and) rfl rfl rfl rfl, hdoes (op := .or) rfl rfl rfl rfl, hdoes (op := .xor) rfl rfl rfl rfl,
      hdoes (op := .min) rfl rfl rfl (apply_min hpos hold hv), hdoes (op := .max) rfl rfl rfl (apply_max hpos hold hv), hdoes (op := .minu) rfl rfl rfl rfl,
      hdoes (op := .maxu) rfl rfl rfl rfl, hdoes (op := .swap) rfl rfl rfl rfl, ?_, fun hz => ?_⟩
    · obtain ⟨t, ht, hsame, hother⟩ := cas_stores (i := .atmCas d a b z o c) rfl hinv hquiet halign hhere hclean
      rw [extend_signed hpos hold] at ht
      by_cases hmeets : old = (s.x d).toNat % M
      · rw [if_pos hmeets]
        exact ⟨t, ht, hsame hmeets⟩
      · rw [if_neg hmeets]
        exact ⟨t, ht, hother hmeets⟩
    · subst hz
      exact atomic_stores (op := .fadd) (i := .atmFaddS d a b o c) rfl rfl hinv hquiet halign hhere hclean
  · subst h8
    have hz : z = 1 := by
      by_contra hz
      rw [if_neg hz] at hn
      exact absurd hn (by decide)
    subst hz
    have hends : ∀ {op i x}, exec i s = atomic op 8 d a b o c s → op.onTable = true → (op == .cas) = false →
        BitVec.ofNat 64 (op.apply 8 T.toNat (s.x b).toNat) = x → OnTask i (taskMask w x) := by
      intro op i x hexec honTable hcas hx
      obtain ⟨t, ht, hmem, hnew, hrest⟩ := atomic_ends_task hexec honTable hquiet halign hat htask
      rw [hcas, Bool.false_and, if_neg Bool.false_ne_true] at hnew
      exact ⟨t, ht, hmem, hx ▸ hnew, hrest⟩
    exact ⟨hends (op := .and) rfl rfl rfl (apply_and_word _ _), hends (op := .or) rfl rfl rfl (apply_or_word _ _),
      hends (op := .swap) rfl rfl rfl (apply_swap_word _ _), cas_ends_task (i := .atmCas d a b 1 o c) rfl hquiet halign hat htask⟩
  · have htraps : ∀ {op i}, exec i s = atomic op n d a b o c s → ¬ (n = 8 ∧ op.onTable = true) → Traps i s 0x03 ea := fun hexec hno =>
      traps_trap hih (hexec.trans (atomic_traps_task halign hat htask hno))
    have hoff : ∀ {op : AtomicOp}, op.onTable = false → ¬ (n = 8 ∧ op.onTable = true) := fun h hon => ne_true_of_eq_false h hon.2
    subst hsize
    refine ⟨htraps (op := .add) rfl (hoff rfl), htraps (op := .xor) rfl (hoff rfl), htraps (op := .min) rfl (hoff rfl), htraps (op := .max) rfl (hoff rfl),
      htraps (op := .minu) rfl (hoff rfl), htraps (op := .maxu) rfl (hoff rfl), fun h4 => ?_⟩
    have hword : ∀ op : AtomicOp, ¬ (atomSize z = 8 ∧ op.onTable = true) := fun _ h => by omega
    refine ⟨htraps (op := .and) rfl (hword _), htraps (op := .or) rfl (hword _), htraps (op := .swap) rfl (hword _), htraps (op := .cas) rfl (hword _),
      htraps (op := .fadd) (h4 ▸ rfl) (hword _)⟩

end Sys2Proof
end

section
/-! ## Replacing what the servers of a cluster hold (R201, R202, R204)
An image that is to go is evicted whenever a cluster's images change. `ServersOnly` says what such a change leaves of the state, and
`getCluster_setServers` what it leaves of the cluster. -/

namespace Sys2Proof.Machine

open Safety

section

variable {s t u : State} {c : Nat} {new : ClusterState}

/-- Only clusters have changed, and what unspecified stretches there are. -/
def ServersOnly (s t : State) : Prop :=
  t = { s with clusters := t.clusters, loose := t.loose, wrote := t.wrote, poison := t.poison, homeRel := t.homeRel }

theorem ServersOnly.refl (s : State) : ServersOnly s s := rfl

theorem ServersOnly.eq (h : ServersOnly s t) :
    t = { s with clusters := t.clusters, loose := t.loose, wrote := t.wrote, poison := t.poison, homeRel := t.homeRel } := h

theorem ServersOnly.trans (h : ServersOnly s t) (h' : ServersOnly t u) : ServersOnly s u :=
  h'.eq.trans (by rw [h.eq])

theorem ServersOnly.threads (h : ServersOnly s t) : t.threads = s.threads := by rw [h.eq]
theorem ServersOnly.records (h : ServersOnly s t) : t.records = s.records := by rw [h.eq]
theorem ServersOnly.dies (h : ServersOnly s t) : t.dies = s.dies := by rw [h.eq]
theorem ServersOnly.inv (h : ServersOnly s t) : t.inv = s.inv := by rw [h.eq]

theorem serversOnly_setCluster (s : State) (c : Nat) (v : ClusterState) : ServersOnly s (setCluster s c v) := rfl

theorem serversOnly_leaveCells (s : State) (c : Nat) (h0 : Word) (ps : List Placed) : ServersOnly s (leaveCells s c h0 ps) := rfl

theorem serversOnly_evictQuiet (s : State) (c : Nat) : ServersOnly s (evictQuiet s c) :=
  List.foldlRecOn (motive := ServersOnly s) _ _ (serversOnly_setCluster s c _) fun _ h _ _ => h.trans (serversOnly_leaveCells _ _ _ _)

theorem serversOnly_setServers (s : State) (c : Nat) (new : ClusterState) : ServersOnly s (setServers s c new) := by
  unfold setServers
  extract_lets u
  split
  · exact (serversOnly_setCluster s c _).trans (serversOnly_evictQuiet u c)
  · exact serversOnly_setCluster s c _

theorem serversOnly_putImage (s : State) (c : Nat) (i : Image) : ServersOnly s (putImage s c i) := serversOnly_setServers s c _

theorem serversOnly_dropImage (s : State) (c : Nat) (fid : BitVec 12) : ServersOnly s (dropImage s c fid) := by
  unfold dropImage
  extract_lets u
  split
  · exact (serversOnly_setServers s c _).trans (serversOnly_leaveCells u _ _ _)
  · exact serversOnly_setServers s c _

/-- Without an image to evict only the cluster is written, and its loads that the host deferred may be asked for again. -/
theorem setServers_of_stay (s : State) (c : Nat) (h : ∀ e ∈ new.images, e.2.evPend = false) :
    ∃ l, setServers s c new = setCluster s c { new with loads := l } := by
  have hnone : (new.images.any fun e => e.2.evPend) = false := List.any_eq_false.mpr fun e he => by simp [h e he]
  rw [setServers, hnone, if_neg Bool.false_ne_true]
  split
  · exact ⟨_, rfl⟩
  · exact ⟨new.loads, rfl⟩

/-- An image that no eviction takes now. -/
def staysIn (cl : ClusterState) (e : Nat × Image) : Bool := !(e.2.evPend && !e.2.busy cl)

theorem getCluster_evictQuiet (s : State) (c : Nat) :
    getCluster (evictQuiet s c) c = { getCluster s c with images := (getCluster s c).images.filter (staysIn (getCluster s c)) } := by
  rw [evictQuiet, getCluster, (foldl_leaveCells_kept _ _ _).1]
  exact getCluster_setCluster s c _

/-- What is written of a cluster stands there, but for images that were to go, and what is noted of deferred loads. -/
theorem getCluster_setServers (s : State) (c : Nat) (new : ClusterState) : ∃ p l, getCluster (setServers s c new) c
    = { new with images := new.images.filter p, loads := new.loads.map l } ∧ (∀ e, e.2.evPend = false → p e = true) ∧ ∀ x, (l x).fid = x.fid := by
  obtain ⟨l, hl, hnew⟩ : ∃ l : ImageLoad → ImageLoad, (∀ x, (l x).fid = x.fid)
      ∧ (if quietened (getCluster s c) new then { new with loads := new.loads.map fun x => { x with deferred := false } } else new)
        = { new with loads := new.loads.map l } := by
    split
    · exact ⟨fun x => { x with deferred := false }, fun _ => rfl, rfl⟩
    · refine ⟨id, fun _ => rfl, ?_⟩
      rw [List.map_id]
  rw [setServers, hnew]
  split
  · refine ⟨staysIn { new with loads := new.loads.map l }, l, ?_, fun e he => by simp [staysIn, he], hl⟩
    rw [getCluster_evictQuiet, getCluster_setCluster]
  · refine ⟨fun _ => true, l, ?_, fun _ _ => rfl, hl⟩
    rw [getCluster_setCluster, List.filter_true]

end

end Sys2Proof.Machine
end

section
/-! ## What a replay and a decline leave (R94, R98, R99, R392)
Re-issuing a miss changes one die and the agent that waits. `Reissuing` says what it leaves; on its die no waiter is lost and no fault entry of the owner
appears. -/

namespace Sys2Proof.Machine

open Safety

section

variable {s t u : State} {o : BitVec 12} {die : Nat} {w x : Waiter} {d e : DieState}

/-! ### Replacing a die's state -/

theorem getDie_setDie_ne (s : State) {d k : Nat} (v : DieState) (h : k ≠ d) : getDie (setDie s d v) k = getDie s k := AMap.getD_set_ne _ _ _ h

theorem setDie_setDie (s : State) (d : Nat) (v w : DieState) : setDie (setDie s d v) d w = setDie s d w := by
  simp [setDie, AMap.set_set]

/-! ### Agents that go on -/

/-- No image of any cluster is to be evicted, so that no change of images evicts one (R201). -/
def NoneDue (s : State) : Prop := ∀ c, ∀ e ∈ (getCluster s c).images, e.2.evPend = false

theorem noneDue_of_clusters (h : ∀ e ∈ s.clusters, ∀ i ∈ e.2.images, i.2.evPend = false) : NoneDue s := fun c i hi =>
  h _ (getCluster_mem (c := c) fun he => by simp [he] at hi) i hi

/-- The homes hold what they held, and no image has become one to evict. -/
structure HomesStay (s t : State) : Prop where
  due : NoneDue t
  mem : t.mem = s.mem
  loose : t.loose = s.loose
  fresh : t.fresh = s.fresh

theorem HomesStay.trans (h : HomesStay s t) (h' : HomesStay t u) : HomesStay s u :=
  ⟨h'.due, h'.mem.trans h.mem, h'.loose.trans h.loose, h'.fresh.trans h.fresh⟩

theorem HomesStay.sameMem (h : HomesStay s t) : SameMem s t := fun a => byteAt_congr h.mem h.loose h.fresh a

theorem NoneDue.setCluster {c : Nat} {v : ClusterState} (h : NoneDue s) (hv : ∀ e ∈ v.images, e.2.evPend = false) :
    HomesStay s (Machine.setCluster s c v) := by
  refine ⟨fun k e he => ?_, rfl, rfl, rfl⟩
  by_cases hk : k = c
  · subst hk
    rw [getCluster_setCluster] at he
    exact hv e he
  · rw [getCluster, Machine.setCluster, AMap.getD_set_ne _ _ _ hk] at he
    exact h k e he

theorem NoneDue.putImage {c : Nat} {i : Image} (h : NoneDue s) (hi : i.evPend = false) : HomesStay s (Machine.putImage s c i) := by
  have hall : ∀ e ∈ ((getCluster s c).images.map fun e => if e.2.fid == i.fid then (e.1, i) else e), e.2.evPend = false := by
    intro e he
    obtain ⟨y, hy, rfl⟩ := List.mem_map.mp he
    split
    · exact hi
    · exact h c y hy
  obtain ⟨l, hl⟩ := setServers_of_stay s c (new := { getCluster s c with images := _ }) hall
  rw [Machine.putImage, setImages, hl]
  exact h.setCluster hall

theorem NoneDue.resident {c n : Nat} {fid : BitVec 12} {i : Image} (h : NoneDue s) (hi : resident s c fid = some (n, i)) : i.evPend = false :=
  h c (n, i) (List.mem_of_find?_eq_some hi)

/-- Only agents have changed: not the dies, nor what the module's translation registers hold. -/
structure AgentsOnly (s t : State) : Prop where
  inv : t.inv = s.inv
  dies : t.dies = s.dies
  homes : NoneDue s → HomesStay s t

theorem AgentsOnly.refl (s : State) : AgentsOnly s s := ⟨rfl, rfl, fun h => ⟨h, rfl, rfl, rfl⟩⟩

theorem AgentsOnly.trans (h : AgentsOnly s t) (h' : AgentsOnly t u) : AgentsOnly s u :=
  ⟨h'.inv.trans h.inv, h'.dies.trans h.dies, fun hs => (h.homes hs).trans (h'.homes (h.homes hs).due)⟩

/-- A change of threads, cores or records. -/
theorem AgentsOnly.same (inv : t.inv = s.inv := by rfl) (dies : t.dies = s.dies := by rfl) (clusters : t.clusters = s.clusters := by rfl)
    (mem : t.mem = s.mem := by rfl) (loose : t.loose = s.loose := by rfl) (fresh : t.fresh = s.fresh := by rfl) : AgentsOnly s t :=
  ⟨inv, dies, fun h => ⟨fun c e he => h c e (by rwa [getCluster, clusters] at he), mem, loose, fresh⟩⟩

theorem agentsOnly_setCluster {c : Nat} {v : ClusterState} (hv : v.images = (getCluster s c).images) : AgentsOnly s (setCluster s c v) :=
  ⟨rfl, rfl, fun h => h.setCluster (hv ▸ h c)⟩

theorem agentsOnly_putImage {c n : Nat} {fid : BitVec 12} {i j : Image} (hi : resident s c fid = some (n, i)) (hj : j.evPend = i.evPend) :
    AgentsOnly s (putImage s c j) where
  inv := (serversOnly_putImage s c j).inv
  dies := (serversOnly_putImage s c j).dies
  homes h := h.putImage (hj.trans (h.resident hi))

/-- What a replay's bridge core released reaches the waiting agent, and nothing else changes (R392). -/
theorem agentsOnly_replayEdge (s : State) (w : Waiter) : AgentsOnly s (replayEdge s w) := by
  unfold replayEdge
  extract_lets join
  split
  · exact .same
  · exact .same
  · split
    · exact .same
    · exact .refl s
  · split
    · exact .same
    · exact .refl s
  · split
    · exact agentsOnly_setCluster rfl
    · exact .refl s
  · split
    · exact agentsOnly_setCluster rfl
    · exact .refl s
  · split
    · next hi => exact agentsOnly_putImage hi rfl
    · exact .refl s
  · split
    · exact .same
    · exact .refl s
  · split
    · next hi =>
      split
      · extract_lets th u
        have hu : AgentsOnly s u ∧ u.clusters = s.clusters := by
          unfold u
          split
          · exact ⟨.same, rfl⟩
          · exact ⟨.refl s, rfl⟩
        have hi' : resident u _ _ = some _ := (show resident u _ _ = resident s _ _ by rw [resident, getCluster, hu.2]; rfl).trans hi
        exact hu.1.trans (agentsOnly_putImage hi' rfl)
      · exact .refl s
    · exact .refl s
  · exact agentsOnly_setCluster rfl

/-! ### A miss of a die -/

/-- A waiter stands in a walk or a queued miss of the die. -/
def DieState.Walks (d : DieState) (w : Waiter) : Prop := ∃ x ∈ d.walks ++ d.missQ, w ∈ x.waiters

/-- No fault entry of the owner stands on the die. -/
def DieState.NoFault (d : DieState) (o : BitVec 12) : Prop := ∀ f ∈ d.faults, f.owner ≠ o

/-- A miss of an owner has been issued on a die: no waiter is lost, and no fault entry appears. -/
structure Issued (o : BitVec 12) (d e : DieState) : Prop where
  walks : ∀ w, d.Walks w → e.Walks w
  noFault : d.NoFault o → e.NoFault o
  missQ : (∀ x ∈ d.missQ, x.owner = o) → ∀ x ∈ e.missQ, x.owner = o

theorem Issued.refl (o : BitVec 12) (d : DieState) : Issued o d d := ⟨fun _ => id, id, id⟩

theorem DieState.Walks.of_missQ {k : Walk} (hk : k ∈ d.missQ) (hw : w ∈ k.waiters) : d.Walks w := ⟨k, List.mem_append_right _ hk, hw⟩

/-- A miss that waits in the queue. -/
theorem issued_queue {k : Walk} (hk : k.owner = o) : Issued o d { d with missQ := d.missQ ++ [k] } where
  walks w := fun ⟨x, hx, hw⟩ => ⟨x, by
    rcases List.mem_append.mp hx with hx | hx
    · exact List.mem_append_left _ hx
    · exact List.mem_append_right _ (List.mem_append_left _ hx), hw⟩
  noFault := id
  missQ h x hx := by
    rcases List.mem_append.mp hx with hx | hx
    · exact h x hx
    · rw [List.mem_singleton.mp hx, hk]

/-- A miss that starts a walk. -/
theorem issued_walk (k : Walk) : Issued o d { d with walks := d.walks ++ [k] } where
  walks w := fun ⟨x, hx, hw⟩ => ⟨x, by
    rcases List.mem_append.mp hx with hx | hx
    · exact List.mem_append_left _ (List.mem_append_left _ hx)
    · exact List.mem_append_right _ hx, hw⟩
  noFault := id
  missQ := id

/-- A miss that joins the walks of its page. -/
theorem issued_join {p : Walk → Bool} (w : Waiter) :
    Issued o d { d with walks := d.walks.map fun g => if p g then { g with waiters := g.waiters ++ [w] } else g } where
  walks y := fun ⟨x, hx, hy⟩ => by
    rcases List.mem_append.mp hx with hx | hx
    · refine ⟨_, List.mem_append_left _ (List.mem_map_of_mem hx), ?_⟩
      split
      · exact List.mem_append_left _ hy
      · exact hy
    · exact .of_missQ hx hy
  noFault := id
  missQ := id

/-- A miss that joins the fault entries of its page. -/
theorem issued_fault {p : FaultEntry → Bool} (w : Waiter) :
    Issued o d { d with faults := d.faults.map fun g => if p g then { g with waiters := g.waiters ++ [w] } else g } where
  walks _ := id
  noFault h f hf := by
    obtain ⟨g, hg, rfl⟩ := List.mem_map.mp hf
    split
    · exact h g hg
    · exact h g hg
  missQ := id

/-- A miss of an owner on a die; where no fault entry of the owner stands, its waiter waits for a walk. -/
theorem startWalk_issues (s : State) (die : Nat) (o : BitVec 12) (w : Waiter) :
    ∃ e, startWalk s die o w = setDie s die e ∧ Issued o (getDie s die) e ∧ ((getDie s die).NoFault o → e.Walks w) := by
  unfold startWalk
  extract_lets va kind d page fresh serve
  have hqueue : Issued o d { d with missQ := d.missQ ++ [fresh] } ∧ ({ d with missQ := d.missQ ++ [fresh] } : DieState).Walks w :=
    ⟨issued_queue rfl, .of_missQ (List.mem_append_right _ List.mem_cons_self) List.mem_cons_self⟩
  split
  · next f hf =>
    have hno : ¬ d.NoFault o := fun hno => hno f (List.mem_of_find?_eq_some hf) (by
      have := List.find?_some hf
      simp only [Bool.and_eq_true, beq_iff_eq] at this
      exact this.1.1)
    split
    · exact ⟨_, rfl, issued_fault w, fun h => absurd h hno⟩
    · exact ⟨_, rfl, hqueue.1, fun _ => hqueue.2⟩
  · split
    · next f hf =>
      split
      · refine ⟨_, rfl, issued_join w, fun _ => ⟨_, List.mem_append_left _ (List.mem_map_of_mem (List.mem_of_find?_eq_some hf)), ?_⟩⟩
        have hp := List.find?_some hf
        rw [if_pos hp]
        exact List.mem_append_right _ List.mem_cons_self
      · exact ⟨_, rfl, hqueue.1, fun _ => hqueue.2⟩
    · split
      · exact ⟨_, rfl, issued_walk fresh, fun _ => ⟨fresh, List.mem_append_left _ (List.mem_append_right _ List.mem_cons_self), List.mem_cons_self⟩⟩
      · exact ⟨_, rfl, hqueue.1, fun _ => hqueue.2⟩

/-! ### Misses of an owner, re-issued on a die -/

/-- What re-issuing misses of an owner on a die leaves of a state. -/
structure Reissuing (o : BitVec 12) (die : Nat) (s t : State) : Prop where
  inv : t.inv = s.inv
  die_other : ∀ k, k ≠ die → getDie t k = getDie s k
  issued : Issued o (getDie s die) (getDie t die)
  homes : NoneDue s → HomesStay s t

theorem AgentsOnly.reissuing (h : AgentsOnly s t) (o : BitVec 12) (die : Nat) : Reissuing o die s t where
  inv := h.inv
  die_other k _ := by rw [getDie, h.dies, getDie]
  issued := by
    have hdie : getDie t die = getDie s die := by rw [getDie, h.dies, getDie]
    rw [hdie]
    exact .refl o _
  homes := h.homes

theorem Reissuing.refl (o : BitVec 12) (die : Nat) (s : State) : Reissuing o die s s := (AgentsOnly.refl s).reissuing o die

theorem Reissuing.trans (h : Reissuing o die s t) (h' : Reissuing o die t u) : Reissuing o die s u where
  inv := h'.inv.trans h.inv
  die_other k hk := (h'.die_other k hk).trans (h.die_other k hk)
  issued := ⟨fun w hw => h'.issued.walks w (h.issued.walks w hw), fun hn => h'.issued.noFault (h.issued.noFault hn),
    fun hm => h'.issued.missQ (h.issued.missQ hm)⟩
  homes hs := (h.homes hs).trans (h'.homes (h.homes hs).due)

theorem Reissuing.foldl {α : Type} {f : State → α → State} (hf : ∀ s x, Reissuing o die s (f s x)) (l : List α) (s : State) :
    Reissuing o die s (l.foldl f s) :=
  List.foldlRecOn (motive := Reissuing o die s) _ _ (.refl o die s) fun _ h x _ => h.trans (hf _ x)

theorem reissuing_setDie (s : State) (die : Nat) (h : Issued o (getDie s die) e) : Reissuing o die s (setDie s die e) where
  inv := rfl
  die_other _ hk := getDie_setDie_ne s _ hk
  issued := by rwa [getDie_setDie]
  homes h := ⟨h, rfl, rfl, rfl⟩

theorem reissuing_startWalk (s : State) (die : Nat) (o : BitVec 12) (w : Waiter) : Reissuing o die s (startWalk s die o w) := by
  obtain ⟨e, he, hissued, _⟩ := startWalk_issues s die o w
  rw [he]
  exact reissuing_setDie s die hissued

/-- On a die without a fault entry of the owner, a waiter of a list that is gone through waits for a walk in the end. -/
theorem Reissuing.foldl_walks {α : Type} {f : State → α → State} {l : List α} {y : α} (hf : ∀ s x, Reissuing o die s (f s x))
    (hy : ∀ s, (getDie s die).NoFault o → (getDie (f s y) die).Walks w) (hmem : y ∈ l) (hs : (getDie s die).NoFault o) :
    (getDie (l.foldl f s) die).Walks w :=
  foldl_reaches (x := y) (P := fun u => (getDie u die).NoFault o) (Q := fun u => (getDie u die).Walks w) (fun u x h => (hf u x).issued.noFault h) hy
    (fun u x h => (hf u x).issued.walks w h) hmem hs

theorem startWalk_walks (h : (getDie s die).NoFault o) : (getDie (startWalk s die o w) die).Walks w := by
  obtain ⟨e, he, _, hwalks⟩ := startWalk_issues s die o w
  rw [he, getDie_setDie]
  exact hwalks h

/-- Queued misses of one owner go again one waiter after the other. -/
theorem foldl_reissue {l : List Walk} (h : ∀ x ∈ l, x.owner = o) : ∀ s : State,
    l.foldl (fun s x => reissue s die x) s = (l.flatMap (·.waiters)).foldl (fun s x => startWalk s die o x) s := by
  induction l with
  | nil => exact fun _ => rfl
  | cons x l ih =>
    intro s
    rw [List.foldl_cons, ih (fun y hy => h y (List.mem_cons_of_mem _ hy)), List.flatMap_cons, List.foldl_append, reissue, h x List.mem_cons_self]

/-- The die with an empty miss queue. -/
def drained (s : State) (die : Nat) : State := setDie s die { getDie s die with missQ := [] }

/-- When entries have become free, every queued miss goes again. -/
theorem drainMisses_freed (hq : ∀ x ∈ (getDie s die).missQ, x.owner = o) :
    drainMisses s die true = ((getDie s die).missQ.flatMap (·.waiters)).foldl (fun s x => startWalk s die o x) (drained s die) := by
  have hall : drainMisses s die true = (getDie s die).missQ.foldl (fun s x => reissue s die x) (drained s die) := by
    simp [drainMisses, drained]
  rw [hall, foldl_reissue hq]

/-- An empty queue stays empty. -/
theorem drainMisses_empty (hq : (getDie s die).missQ = []) (freed : Bool) : drainMisses s die freed = drained s die := by
  simp [drainMisses, drained, hq]

theorem drainMisses_walks (hno : (getDie s die).NoFault o) (hq : ∀ x ∈ (getDie s die).missQ, x.owner = o) (h : (getDie s die).Walks w) :
    (getDie (drainMisses s die true) die).Walks w := by
  have hno' : (getDie (drained s die) die).NoFault o := by rwa [drained, getDie_setDie]
  rw [drainMisses_freed hq]
  obtain ⟨x, hx, hw⟩ := h
  rcases List.mem_append.mp hx with hx | hx
  · refine (Reissuing.foldl (fun s y => reissuing_startWalk s die o y) _ _).issued.walks w ⟨x, ?_, hw⟩
    rw [drained, getDie_setDie]
    exact List.mem_append_left _ hx
  · exact Reissuing.foldl_walks (fun s y => reissuing_startWalk s die o y) (fun _ => startWalk_walks) (List.mem_flatMap.mpr ⟨x, hx, hw⟩) hno'

/-! ### A replay (R98, R392) -/

/-- What a replay of an owner leaves of a state, on one die and beside it. -/
structure Replayed (o : BitVec 12) (die : Nat) (s t : State) : Prop where
  inv : t.inv = s.inv
  die_other : ∀ k, k ≠ die → getDie t k = getDie s k
  noFault : (getDie t die).NoFault o
  walks : ∀ f ∈ (getDie s die).faults, f.owner = o → ∀ w ∈ f.waiters, (getDie t die).Walks w
  homes : NoneDue s → HomesStay s t

/-- A die without the fault entries of an owner. -/
def withoutFaults (o : BitVec 12) (s : State) (die : Nat) : State :=
  setDie s die { getDie s die with faults := (getDie s die).faults.filter fun f => f.owner != o, missQ := [] }

theorem replayDie_eq (hq : (getDie s die).missQ = []) : replayDie o s die
    = drainMisses ((((getDie s die).faults.filter fun f => f.owner == o).flatMap fun f => f.waiters).foldl
        (fun s w => startWalk (replayEdge s w) die o w) (withoutFaults o s die)) die true := by
  simp [replayDie, withoutFaults, hq]

theorem replayed_replayDie (hq : (getDie s die).missQ = []) : Replayed o die s (replayDie o s die) := by
  have hstep : ∀ (u : State) (w : Waiter), Reissuing o die u (startWalk (replayEdge u w) die o w) := fun u w =>
    ((agentsOnly_replayEdge u w).reissuing o die).trans (reissuing_startWalk _ die o w)
  have hempty : (getDie (withoutFaults o s die) die).missQ = [] := by rw [withoutFaults, getDie_setDie]
  have hno : (getDie (withoutFaults o s die) die).NoFault o := by
    rw [withoutFaults, getDie_setDie]
    intro f hf
    simpa using (List.mem_filter.mp hf).2
  rw [replayDie_eq hq]
  generalize hws : ((getDie s die).faults.filter fun f => f.owner == o).flatMap (fun f => f.waiters) = ws
  have hfold := Reissuing.foldl hstep ws (withoutFaults o s die)
  have hwalks : ∀ w ∈ ws, (getDie (ws.foldl (fun s w => startWalk (replayEdge s w) die o w) (withoutFaults o s die)) die).Walks w := fun w hw =>
    Reissuing.foldl_walks hstep (fun u hu => startWalk_walks (((agentsOnly_replayEdge u w).reissuing o die).issued.noFault hu)) hw hno
  generalize ws.foldl (fun s w => startWalk (replayEdge s w) die o w) (withoutFaults o s die) = u at hfold hwalks
  have hnou := hfold.issued.noFault hno
  have hqu : ∀ x ∈ (getDie u die).missQ, x.owner = o := hfold.issued.missQ fun x hx => by
    rw [hempty] at hx
    exact absurd hx List.not_mem_nil
  have hdrain : Reissuing o die (drained u die) (drainMisses u die true) := by
    rw [drainMisses_freed hqu]
    exact .foldl (fun s y => reissuing_startWalk s die o y) _ _
  refine ⟨hdrain.inv.trans hfold.inv, fun k hk => ?_, hdrain.issued.noFault ?_, fun f hf ho w hw => drainMisses_walks hnou hqu (hwalks w ?_), fun h => ?_⟩
  · rw [hdrain.die_other k hk, drained, getDie_setDie_ne _ _ hk, hfold.die_other k hk, withoutFaults, getDie_setDie_ne _ _ hk]
  · rwa [drained, getDie_setDie]
  · rw [← hws]
    exact List.mem_flatMap.mpr ⟨f, List.mem_filter.mpr ⟨hf, by simpa using ho⟩, hw⟩
  · have hs : HomesStay s (withoutFaults o s die) := ⟨h, rfl, rfl, rfl⟩
    have hu := hs.trans (hfold.homes hs.due)
    have hd : HomesStay u (drained u die) := ⟨hu.due, rfl, rfl, rfl⟩
    exact (hu.trans hd).trans (hdrain.homes hd.due)

/-- What a replay leaves of a state, on every die of a list. -/
structure ReplayedAll (o : BitVec 12) (l : List Nat) (s t : State) : Prop where
  inv : t.inv = s.inv
  die_other : ∀ k, k ∉ l → getDie t k = getDie s k
  noFault : ∀ k ∈ l, (getDie t k).NoFault o
  walks : ∀ k ∈ l, ∀ f ∈ (getDie s k).faults, f.owner = o → ∀ w ∈ f.waiters, (getDie t k).Walks w
  homes : NoneDue s → HomesStay s t

theorem replayedAll_foldl {l : List Nat} (hl : l.Nodup) : ∀ {s : State}, (∀ k ∈ l, (getDie s k).missQ = []) → ReplayedAll o l s (l.foldl (replayDie o) s) := by
  induction l with
  | nil => exact fun _ => ⟨rfl, fun _ _ => rfl, by simp, by simp, fun h => ⟨h, rfl, rfl, rfl⟩⟩
  | cons d l ih =>
    intro s hq
    obtain ⟨hd, hl⟩ := List.nodup_cons.mp hl
    have hone := replayed_replayDie (o := o) (hq d List.mem_cons_self)
    have hne : ∀ k ∈ l, k ≠ d := fun k hk he => hd (he ▸ hk)
    have hrest := ih hl (s := replayDie o s d) fun k hk => by
      rw [hone.die_other k (hne k hk)]
      exact hq k (List.mem_cons_of_mem _ hk)
    have hself := hrest.die_other d hd
    refine ⟨hrest.inv.trans hone.inv, fun k hk => ?_, fun k hk => ?_, fun k hk => ?_, fun h => (hone.homes h).trans (hrest.homes (hone.homes h).due)⟩
    · obtain ⟨hkd, hkl⟩ := not_or.mp (List.mem_cons.not.mp hk)
      exact (hrest.die_other k hkl).trans (hone.die_other k hkd)
    · rcases List.mem_cons.mp hk with rfl | hk
      · exact hself ▸ hone.noFault
      · exact hrest.noFault k hk
    · rcases List.mem_cons.mp hk with rfl | hk
      · exact hself ▸ hone.walks
      · exact hone.die_other k (hne k hk) ▸ hrest.walks k hk

/-- With no other replay held, the end of a replay changes one bit. -/
theorem endReplays_of_none (h : s.inv.repQ = []) (fuel : Nat) : ∃ b, endReplays fuel s = { s with inv := { s.inv with repBusy := b } } := by
  cases fuel with
  | zero => exact ⟨s.inv.repBusy, rfl⟩
  | succ fuel =>
    rw [endReplays]
    split
    · exact ⟨s.inv.repBusy, rfl⟩
    · rw [h]
      exact ⟨false, rfl⟩

/-- Where no replay runs, none ends. -/
theorem endReplays_idle (h : s.inv.repBusy = false) (fuel : Nat) : endReplays fuel s = s := by
  cases fuel with
  | zero => rfl
  | succ fuel =>
    rw [endReplays]
    exact if_pos (by simp [h])

/-- A replay has started for an owner. -/
def replayBegun (s : State) (o : BitVec 12) : State := { s with inv := { s.inv with replay := o, repBusy := true, repClk := fencedClock s } }

theorem exec_replay_idle (hidle : s.inv.repBusy = false) (hnone : s.inv.repQ = []) (hq : ∀ k, k < 8 → (getDie s k).missQ = []) :
    ∃ u b, exec (.replay o) s = .next { u with inv := { u.inv with repBusy := b } } ∧ ReplayedAll o (rangeFrom 8 0) (replayBegun s o) u := by
  have hall : ReplayedAll o (rangeFrom 8 0) (replayBegun s o) (startReplay s o (fencedClock s)) :=
    replayedAll_foldl (nodup_rangeFrom 8 0) fun k hk => hq k (by have := mem_rangeFrom.mp hk; omega)
  obtain ⟨b, hb⟩ := endReplays_of_none (s := startReplay s o (fencedClock s)) (by rw [hall.inv]; exact hnone) 4097
  have hexec : exec (.replay o) s = .next (writeReplay s o) := rfl
  refine ⟨_, b, ?_, hall⟩
  rw [hexec, writeReplay, hidle, if_neg Bool.false_ne_true, hb]

/-- A write of REPLAY while one runs is held. -/
theorem exec_replay_held (hbusy : s.inv.repBusy = true) (hroom : s.inv.repQ.length < 4096) (hnew : o ∉ s.inv.repQ) : exec (.replay o) s
    = .next { s with inv := { s.inv with repQ := s.inv.repQ ++ [o], repClks := s.inv.repClks ++ [fencedClock s] } } := by
  have hexec : exec (.replay o) s = .next (writeReplay s o) := rfl
  rw [hexec, writeReplay, if_pos hbusy, if_neg (by simpa using hnew), if_pos hroom]

/-! ### A decline (R99) -/

/-- The register of declines has been written. -/
def declineNoted (s : State) (v : Word) : State := { s with inv := { s.inv with decline := v } }

theorem exec_decline (s : State) (o : BitVec 12) (page : BitVec 39) :
    ∃ v, exec (.decline o page) s = .next (endReplays 4097 ((rangeFrom 8 0).foldl (declineDie o page.toNat) (declineNoted s v))) := by
  have hexec : exec (.decline o page) s = .next (writeDecline s o page) := rfl
  refine ⟨BitVec.ofNat 64 (o.toNat * 2 ^ 52 + page.toNat), ?_⟩
  rw [hexec, writeDecline, declineNoted]

theorem declineDie_none {page : Nat} (h : ∀ f ∈ (getDie s die).faults, ¬(f.owner = o ∧ f.page = page)) : declineDie o page s die = s := by
  have hfind : ((getDie s die).faults.find? fun f => f.owner == o && f.page == page) = none := List.find?_eq_none.mpr fun f hf => by
    simpa using h f hf
  rw [declineDie, hfind]

theorem foldl_declineDie_none {page : Nat} {l : List Nat} (h : ∀ k ∈ l, ∀ f ∈ (getDie s k).faults, ¬(f.owner = o ∧ f.page = page)) :
    l.foldl (declineDie o page) s = s :=
  List.foldlRecOn (motive := fun u => u = s) _ _ rfl fun u hu k hk => by
    subst hu
    exact declineDie_none (h k hk)

/-- A decline changes the one die where an entry for the page stands. -/
theorem foldl_declineDie_one {page : Nat} {l : List Nat} (hl : l.Nodup) (hmem : die ∈ l)
    (hother : ∀ u, (u = s ∨ u = declineDie o page s die) → ∀ k ∈ l, k ≠ die → ∀ f ∈ (getDie u k).faults, ¬(f.owner = o ∧ f.page = page)) :
    l.foldl (declineDie o page) s = declineDie o page s die := by
  obtain ⟨a, b, rfl⟩ := List.append_of_mem hmem
  obtain ⟨_, hb, hdisj⟩ := List.nodup_append.mp hl
  have hnb : die ∉ b := (List.nodup_cons.mp hb).1
  have hna : die ∉ a := fun ha => hdisj die ha die List.mem_cons_self rfl
  rw [List.foldl_append, foldl_declineDie_none fun k hk => hother s (.inl rfl) k (List.mem_append_left _ hk) fun he => hna (he ▸ hk), List.foldl_cons]
  exact foldl_declineDie_none fun k hk => hother _ (.inr rfl) k (List.mem_append_right _ (List.mem_cons_of_mem _ hk)) fun he => hnb (he ▸ hk)

/-- A thread that waits on a page takes its trap at the instruction it is parked at. -/
theorem trapParked_eq {tag : Nat} {cause : BitVec 8} {va : Word} (hpark : (getThread s tag).park = .fault) (hstop : (getThread s tag).stopped = false)
    (hih : (getThread s tag).ih = false) :
    trapParked s tag cause va = setThread s tag ((getThread s tag).enterTrap cause va (getThread s tag).pc) := by
  have hih' : ({ getThread s tag with park := .none } : ThreadState).ih = false := hih
  rw [trapParked, if_pos ⟨hpark, hstop⟩, takeTrap, getThread_setThread, hih', if_neg Bool.false_ne_true, setThread, setThread, AMap.set_set]
  rfl

/-- The state once a thread that waited alone on a page has had its access declined. -/
def declined (s : State) (die tag : Nat) (va : Word) : State :=
  setDie (setThread s tag ((getThread s tag).enterTrap 0x04 va (getThread s tag).pc)) die { getDie s die with faults := [], missQ := [] }

theorem declined_thread (s : State) (die tag j : Nat) (va : Word) : getThread (declined s die tag va) j
    = if j = tag then (getThread s tag).enterTrap 0x04 va (getThread s tag).pc else getThread s j := by
  rw [getThread, declined, setDie_threads]
  split
  · next hj =>
    subst hj
    exact getThread_setThread s j _
  · next hj => exact getThread_setThread_ne s _ hj

theorem declineDie_thread {tag : Nat} {va : Word} {kind : BitVec 4} {page : Nat} {f : FaultEntry} (hq : (getDie s die).missQ = [])
    (hf : (getDie s die).faults = [f]) (ho : f.owner = o) (hp : f.page = page) (hw : f.waiters = [{ who := .thread tag, va := va, kind := kind }])
    (hpark : (getThread s tag).park = .fault) (hstop : (getThread s tag).stopped = false) (hih : (getThread s tag).ih = false) :
    declineDie o page s die = declined s die tag va := by
  have hfind : ((getDie s die).faults.find? fun f => f.owner == o && f.page == page) = some f := by simp [hf, ho, hp]
  have herase : (getDie s die).faults.erase f = [] := by simp [hf]
  rw [declineDie, hfind]
  dsimp only
  rw [hw, herase]
  have hfold : [({ who := .thread tag, va := va, kind := kind } : Waiter)].foldl (faultWaiter 0x04) (setDie s die { getDie s die with faults := [] })
      = setThread (setDie s die { getDie s die with faults := [] }) tag ((getThread s tag).enterTrap 0x04 va (getThread s tag).pc) :=
    trapParked_eq hpark hstop hih
  have hdie : getDie (setThread (setDie s die { getDie s die with faults := [] }) tag ((getThread s tag).enterTrap 0x04 va (getThread s tag).pc)) die
      = { getDie s die with faults := [] } := getDie_setDie s die _
  rw [hfold, drainMisses_empty (by rw [hdie]; exact hq), drained, hdie]
  exact setDie_setDie (setThread s tag _) die { getDie s die with faults := [] } _

/-! ### TLB invalidation (R100) -/

section

variable {hit : TlbEntry → Bool} {pointer : BitVec 12 → Nat → Nat → Bool} {held : BitVec 12 → Nat → Bool} {v : Word}

theorem removeEntries_l1 (s : State) (c : Nat) :
    (getCluster (removeEntries s hit pointer held) c).l1 = (getCluster s c).l1.filter fun e => !hit e := by
  rw [getCluster, removeEntries, AMap.getD, AMap.find_map _ (fun _ => by rfl), getCluster, AMap.getD]
  cases AMap.find s.clusters c with
  | none => rfl
  | some cl => rfl

theorem removeEntries_l2 (s : State) (d : Nat) :
    (getDie (removeEntries s hit pointer held) d).l2 = (getDie s d).l2.filter fun e => !hit e := by
  rw [getDie, removeEntries, AMap.getD, AMap.find_map _ (fun _ => by rfl), getDie, AMap.getD]
  cases AMap.find s.dies d with
  | none => rfl
  | some y => rfl

/-- An invalidation that starts takes the entries that it picks out of every TLB. -/
theorem removes_startInvalidation (hidle : s.inv.invBusy = false) (ht : t = startInvalidation s v hit pointer held) :
    t.inv.invBusy = true ∧ (∀ c, (getCluster t c).l1 = (getCluster s c).l1.filter fun e => !hit e)
      ∧ (∀ d, (getDie t d).l2 = (getDie s d).l2.filter fun e => !hit e) ∧ t.threads = s.threads ∧ SameMem s t := by
  rw [startInvalidation, if_neg (ne_true_of_eq_false hidle)] at ht
  subst ht
  exact ⟨rfl, removeEntries_l1 (pointer := pointer) (held := held) s, removeEntries_l2 (pointer := pointer) (held := held) s, rfl, fun _ => rfl⟩

/-- While one is in progress, a write starts none. -/
theorem startInvalidation_busy (hbusy : s.inv.invBusy = true) : startInvalidation s v hit pointer held = s := if_pos hbusy

end

end

end Sys2Proof.Machine

namespace Sys2Proof

open Sys2Proof.Machine Sys2Proof.Safety

/-- Settles O38: an invalidation filters every TLB; a replay goes die by die (`replayedAll_foldl`), and no waiter of a fault entry is lost on its way back
to a walk; a decline changes the one die where an entry stands. -/
theorem invalidationReplayAndDecline : Obligations.InvalidationReplayAndDecline := by
  unfold Obligations.InvalidationReplayAndDecline
  constructor
  · intro s o page die Removes d
    refine ⟨fun hidle => ?_, fun hbusy => ?_, fun hbusy hdone => ?_, fun hwait => ?_, ?_⟩
    · exact ⟨⟨_, rfl, removes_startInvalidation hidle rfl⟩, ⟨_, rfl, removes_startInvalidation hidle rfl⟩, _, rfl, removes_startInvalidation hidle rfl⟩
    · exact ⟨congrArg Host.Outcome.next (startInvalidation_busy hbusy), congrArg Host.Outcome.next (startInvalidation_busy hbusy),
        congrArg Host.Outcome.next (startInvalidation_busy hbusy)⟩
    · exact ⟨_, if_pos (by simp [hbusy, hdone]), rfl, rfl⟩
    · exact if_neg (by simp [hwait])
    · exact ⟨_, rfl, rfl, getDie_setDie s _ _, fun k hk => getDie_setDie_ne s _ hk, rfl, fun _ => rfl⟩
  · intro s o page die t f va kind th
    refine ⟨fun hidle hnone hq => ?_, fun hbusy hroom hnew => ⟨_, exec_replay_held hbusy hroom hnew, rfl, rfl, rfl⟩,
      fun hdie hother hq hidle hf ho hp hw hpark hih hstop => ?_, fun hnone hidle => ?_⟩
    · obtain ⟨u, b, hexec, hall⟩ := exec_replay_idle (o := o) hidle hnone hq
      have hmem : ∀ k, k < 8 → k ∈ rangeFrom 8 0 := fun k hk => mem_rangeFrom.mpr (by omega)
      exact ⟨_, hexec, congrArg InvState.replay hall.inv, fun k hk => hall.noFault k (hmem k hk), fun k hk => hall.walks k (hmem k hk),
        fun h => (hall.homes (noneDue_of_clusters h)).sameMem⟩
    · obtain ⟨v, hexec⟩ := exec_decline s o page
      have hdecline := declineDie_thread (s := declineNoted s v) hq hf ho hp hw hpark hstop hih
      have hone := foldl_declineDie_one (s := declineNoted s v) (o := o) (page := page.toNat) (nodup_rangeFrom 8 0)
        (mem_rangeFrom.mpr ⟨Nat.zero_le die, by omega⟩) (by
        rintro u (rfl | rfl) k hk hne
        · exact hother k (by have := mem_rangeFrom.mp hk; omega) hne
        · rw [hdecline, declined, getDie_setDie_ne _ _ hne]
          exact hother k (by have := mem_rangeFrom.mp hk; omega) hne)
      have hend : endReplays 4097 (declined (declineNoted s v) die t va) = declined (declineNoted s v) die t va :=
        endReplays_idle (s := declined (declineNoted s v) die t va) hidle _
      rw [hone, hdecline, hend] at hexec
      have hthread : getThread (declined (declineNoted s v) die t va) t = th.enterTrap 0x04 va th.pc := (declined_thread _ _ _ _ _).trans (if_pos rfl)
      refine ⟨_, hexec, ?_, ?_, ?_, ?_, ?_, ?_, fun j hj => (declined_thread _ _ _ _ _).trans (if_neg hj),
        fun a => byteAt_congr rfl rfl rfl a⟩
      · rw [declined, getDie_setDie]
      all_goals
        rw [hthread]
        rfl
    · obtain ⟨v, hexec⟩ := exec_decline s o page
      have hnone' : (rangeFrom 8 0).foldl (declineDie o page.toNat) (declineNoted s v) = declineNoted s v :=
        foldl_declineDie_none fun k hk f hf => absurd (hnone k (by have := mem_rangeFrom.mp hk; omega) ▸ hf) List.not_mem_nil
      have hend : endReplays 4097 (declineNoted s v) = declineNoted s v := endReplays_idle (s := declineNoted s v) hidle _
      rw [hnone', hend] at hexec
      exact ⟨_, hexec, rfl⟩

end Sys2Proof
end

section
/-! ## The end of a walk, and lines that arrive (R94–R97, R101, R139) -/

namespace Sys2Proof.Machine

open Safety

section

variable {s : State} {die : BitVec 3} {o : BitVec 12} {page : BitVec 39} {w : Walk} {x : Waiter} {t : Nat} {va : Word} {kind : BitVec 4}

/-! ### A walk ends (R93, R94) -/

/-- A die whose walk has ended, with what its walk cache then holds. -/
def walkOver (s : State) (die : Nat) (w : Walk) (cache : List (BitVec 12 × Nat × Nat × Word)) : State :=
  setDie s die { getDie s die with walks := (getDie s die).walks.erase w, wcache := cache }

/-- What each end of a walk does to its waiters. -/
def walkEnds (s : State) (die : Nat) (w : Walk) : WalkEnd → State
  | .leaf pte big => walkLeaf s die w pte big
  | .pageFault level => walkFault s die w level
  | .accessFault => w.waiters.foldl (faultWaiter 0x03) s
  | .poisoned a => w.waiters.foldl (faultWaiter 0x03) (reportEntry s a)

/-- A pointer that enters a die's walk cache changes nothing else. -/
theorem cachePointer_setDie (s : State) (die : Nat) (o : BitVec 12) (level index i : Nat) (p : Option Word) (d : DieState) :
    ∃ c, cachePointer (setDie s die d) die o level index i p = setDie s die { d with wcache := c } := by
  cases p with
  | none => exact ⟨d.wcache, rfl⟩
  | some q =>
    rw [cachePointer, getDie_setDie, setDie_setDie, setDie_setDie]
    split
    · exact ⟨_, rfl⟩
    · exact ⟨_, rfl⟩

theorem exec_walkComplete (hw : (getDie s die.toNat).walks.find? (fun w => w.owner == o && w.page == page.toNat) = some w) :
    ∃ cache, exec (.walkComplete die o page) s
      = .next (endReplays 4097 (drainMisses (walkEnds (walkOver s die.toNat w cache) die.toNat w (dieWalk s die.toNat o w.va).1) die.toNat false)) := by
  obtain ⟨c, hc⟩ := cachePointer_setDie s die.toNat o 1 (bits w.va 54 42) 52 (dieWalk s die.toNat o w.va).2.1
    { getDie s die.toNat with walks := (getDie s die.toNat).walks.erase w }
  obtain ⟨c', hc'⟩ := cachePointer_setDie s die.toNat o 2 (bits w.va 54 29) 53 (dieWalk s die.toNat o w.va).2.2
    { getDie s die.toNat with walks := (getDie s die.toNat).walks.erase w, wcache := c }
  have hexec : exec (.walkComplete die o page) s = execWalkComplete die o page s := rfl
  refine ⟨c', ?_⟩
  rw [hexec, execWalkComplete, hw]
  dsimp only
  rw [hc, hc']
  rfl

/-- With no queued miss and no replay, nothing follows the end of a walk. -/
theorem walk_settles {u : State} {k : Nat} (hq : (getDie u k).missQ = []) (hidle : u.inv.repBusy = false) :
    endReplays 4097 (drainMisses u k false) = drained u k := by
  rw [drainMisses_empty hq]
  exact endReplays_idle (s := drained u k) hidle _

/-! ### A leaf (R93, R101) -/

/-- The TLB entry of a leaf that a walk found. -/
def leafEntry (w : Walk) (pte : Word) (big : Bool) : TlbEntry :=
  { owner := w.owner, vpn := if big then w.page / 2 ^ 13 * 2 ^ 13 else w.page, big := big, pte := pte }

theorem leafEntry_hits (w : Walk) (pte : Word) (big : Bool) : (leafEntry w pte big).hits w.owner w.page = true := by
  cases big <;> simp [leafEntry, TlbEntry.hits]

/-- A TLB with room takes the entry. -/
theorem addL2_room {k : Nat} {e : TlbEntry} (hroom : (getDie s k).l2.length < 32768) :
    e ∈ (getDie (addL2 s k e) k).l2 ∧ (getDie (addL2 s k e) k).missQ = (getDie s k).missQ
      ∧ addL2 s k e = { s with dies := (addL2 s k e).dies } := by
  unfold addL2
  extract_lets d
  split
  · next h => exact ⟨by simpa using h, rfl, rfl⟩
  · rw [getDie_setDie]
    exact ⟨List.mem_append_right _ List.mem_cons_self, rfl, rfl⟩

theorem wakeFault_parked (h : (getThread s t).park = .fault) : wakeFault s t = setThread s t { getThread s t with park := .none } := if_pos h

/-- The state in which a leaf's entry stands and the thread that waited for it goes on. -/
theorem wakeFault_filled {k c : Nat} {e : TlbEntry} (hpark : (getThread s t).park = .fault) (hroom : (getDie s k).l2.length < 32768) :
    e ∈ (getDie (wakeFault (addL1 (addL2 s k e) e c) t) k).l2
      ∧ (getDie (wakeFault (addL1 (addL2 s k e) e c) t) k).missQ = (getDie s k).missQ
      ∧ wakeFault (addL1 (addL2 s k e) e c) t
        = { s with dies := (addL2 s k e).dies, clusters := (addL1 (addL2 s k e) e c).clusters
                   threads := (setThread s t { getThread s t with park := .none }).threads } := by
  obtain ⟨hmem, hq, heq⟩ := addL2_room (e := e) hroom
  have hth : (addL2 s k e).threads = s.threads := by rw [heq]
  have hget : getThread (addL1 (addL2 s k e) e c) t = getThread s t := by
    show AMap.getD (addL2 s k e).threads t {} = _
    rw [hth]
    rfl
  have hwake : wakeFault (addL1 (addL2 s k e) e c) t = setThread (addL1 (addL2 s k e) e c) t { getThread s t with park := .none } := by
    rw [wakeFault_parked (by rw [hget]; exact hpark), hget]
  rw [hwake]
  refine ⟨hmem, hq, ?_⟩
  rw [setThread, addL1, setCluster, heq]
  rfl

/-- A leaf for one thread fills the TLBs of its die and cluster, and the thread goes on. -/
theorem walkLeaf_thread (k : Nat) (pte : Word) (big : Bool) (hw : w.waiters = [{ who := .thread t, va := va, kind := kind }]) :
    walkLeaf s k w pte big = wakeFault (addL1 (addL2 s k (leafEntry w pte big)) (leafEntry w pte big) (tagCluster t)) t := by
  rw [walkLeaf, hw]
  rfl

/-! ### A page fault (R94–R97) -/

/-- The fault entry of a walk's waiters. -/
def faultOf (w : Walk) (x : Waiter) : FaultEntry := { owner := w.owner, page := w.page, va := x.va, kind := x.kind, waiters := w.waiters }

/-- A fault entry stands on a die. -/
def faultNoted (s : State) (k : Nat) (f : FaultEntry) : State := setDie s k { getDie s k with faults := (getDie s k).faults ++ [f] }

theorem walkFault_thread {k level : Nat} (hw : w.waiters = [x]) (hx : x.who = .thread t) (hroom : (getDie s k).faults.length < 4096) :
    walkFault s k w level = writeRecord (faultNoted s k (faultOf w x)) k (faultOf w x) level := by
  have hone : [x].foldl pageFaultWaiter s = s := by simp [pageFaultWaiter, hx]
  have hserve : ([x].filter fun x => !x.who.isServe) = [x] := by simp [hx, Requester.isServe]
  rw [walkFault, hw, hone, hserve]
  dsimp only
  rw [if_pos hroom, faultOf, hw]
  rfl

/-- Where the next record of a fault buffer goes (R97). -/
def recordSlot (d : DieState) : Nat := d.fbBase.toNat * 4096 + 32 * (d.fbHead.toNat % 2 ^ d.fbSize.toNat)

/-- The bytes of a fault record (R96). -/
def recordBytes (s : State) (k : Nat) (f : FaultEntry) (level : Nat) : List Byte := (recordWords s k f level).flatMap fun w => bytesOf 8 w.toNat

theorem recordBytes_length (s : State) (k : Nat) (f : FaultEntry) (level : Nat) : (recordBytes s k f level).length = 32 := by
  simp [recordBytes, recordWords, bytesOf_length]

/-- The record of a thread's fault says nothing of the rest of the state. -/
theorem recordBytes_thread {u : State} {k level : Nat} {f : FaultEntry} (hf : f.waiters = [x]) (hx : x.who = .thread t) :
    recordBytes u k f level = recordBytes s k f level := by
  simp [recordBytes, recordWords, hf, hx, recordSource]

theorem writeRecord_room {k level : Nat} {f : FaultEntry} (hen : (getDie s k).en = true) (hroom : bufferFull (getDie s k) = false) :
    writeRecord s k f level
      = setDie (deviceWrite s (recordSlot (getDie s k)) (recordBytes s k f level)) k { getDie s k with fbHead := (getDie s k).fbHead + 1 } :=
  if_neg (by simp [hen, hroom])

theorem writeRecord_dropped {k level : Nat} {f : FaultEntry} (h : (getDie s k).en = false ∨ bufferFull (getDie s k) = true) :
    writeRecord s k f level = setDie s k { getDie s k with dropped := true, dropCnt := (getDie s k).dropCnt + 1 } :=
  if_pos (by rcases h with h | h <;> simp [h])

/-- Bytes that the device writes stand, whatever its die becomes. -/
theorem bytesAt_deviceWrite {n : Nat} {bs : List Byte} (hwf : Memory.wf s.mem = true) (hn : bs.length = n) (a k : Nat) (d : DieState) :
    (setDie (deviceWrite s a bs) k d).bytesAt n a = bs :=
  hn ▸ bytesAt_of_byteAt bs a fun x h1 h2 => (byteAt_putBytes s 0 a bs hwf x).trans (if_pos ⟨h1, h2⟩)

theorem deviceWrite_kept (s : State) (a k : Nat) (bs : List Byte) (d : DieState) :
    (setDie (deviceWrite s a bs) k d).threads = s.threads ∧ (setDie (deviceWrite s a bs) k d).inv = s.inv := ⟨rfl, rfl⟩

/-- What a record in the buffer leaves: the write offset has moved, and the record stands below it. -/
theorem writeRecord_stands {k level : Nat} {f : FaultEntry} (hwf : Memory.wf s.mem = true) (hen : (getDie s k).en = true)
    (hspace : bufferFull (getDie s k) = false) :
    getDie (writeRecord s k f level) k = { getDie s k with fbHead := (getDie s k).fbHead + 1 }
      ∧ (writeRecord s k f level).bytesAt 32 (recordSlot (getDie s k)) = recordBytes s k f level
      ∧ (writeRecord s k f level).threads = s.threads ∧ (writeRecord s k f level).inv = s.inv := by
  rw [writeRecord_room hen hspace]
  exact ⟨getDie_setDie _ k _, bytesAt_deviceWrite hwf (recordBytes_length s k f level) _ k _, deviceWrite_kept s _ k _ _⟩

/-! ### A line arrives (R139) -/

/-- Threads of a list go on, and no other thread changes. -/
theorem getThread_foldl_unpark (l : List Nat) (j : Nat) : ∀ s : State, getThread (l.foldl unpark s) j
    = if j ∈ l then { getThread s j with park := .none } else getThread s j := by
  induction l with
  | nil => exact fun _ => rfl
  | cons k l ih =>
    intro s
    have hone : getThread (unpark s k) j = if j = k then { getThread s j with park := .none } else getThread s j := by
      by_cases hj : j = k
      · subst hj
        rw [if_pos rfl]
        exact getThread_setThread _ _ _
      · rw [if_neg hj]
        exact getThread_setThread_ne _ _ hj
    rw [List.foldl_cons, ih, hone]
    by_cases hj : j = k <;> simp [hj]

theorem foldl_unpark_eq (l : List Nat) (s : State) : ∃ th, l.foldl unpark s = { s with threads := th } := by
  induction l generalizing s with
  | nil => exact ⟨s.threads, rfl⟩
  | cons k l ih => exact ih (unpark s k)

/-- The state in which a line is in a core's instruction cache. -/
def lineFilled (s : State) (core line : Nat) (bs : List Byte) : State :=
  setCore s core { getCore s core with icache := [{ line := line, words := lineWords 16 bs }] }

theorem exec_icacheFill {core line : Nat} {rest : List Nat} {bs b8 : List Byte} {bad : Bool} (hts : fetchers s core line = t :: rest)
    (hempty : (getCore s core).icache = [])
    (hfirst : engineRead s (coreCluster core) none (ownerOf s t) (getThread s t).clock (BitVec.ofNat 64 (line * 64)) 8 .exec = .got b8 bad)
    (hline : engineWords s (coreCluster core) none (ownerOf s t) (getThread s t).clock .exec 8 (BitVec.ofNat 64 (line * 64)) [] false = .got bs false) :
    exec (.icacheFill core line) s = .next ((t :: rest).foldl unpark (lineFilled s core line bs)) := by
  have hexec : exec (.icacheFill core line) s = execIcacheFill core line s := rfl
  rw [hexec, execIcacheFill, hts]
  dsimp only
  rw [hfirst]
  dsimp only
  rw [hline, hempty]
  rfl

/-! ### The end of a walk for one thread (R94–R97, R101) -/

/-- A walk for one parked thread, with no miss queued on its die and no replay. -/
structure WalkOfOne (s : State) (die : BitVec 3) (o : BitVec 12) (page : BitVec 39) (w : Walk) (t : Nat) (va : Word) (kind : BitVec 4) : Prop where
  found : (getDie s die.toNat).walks.find? (fun w => w.owner == o && w.page == page.toNat) = some w
  ownerEq : w.owner = o
  pageEq : w.page = page.toNat
  vaEq : w.va = va
  waiters : w.waiters = [{ who := .thread t, va := va, kind := kind }]
  queue : (getDie s die.toNat).missQ = []
  idle : s.inv.repBusy = false
  park : (getThread s t).park = .fault

/-- The fault entry of one thread. -/
def threadFault (o : BitVec 12) (page : BitVec 39) (t : Nat) (va : Word) (kind : BitVec 4) : FaultEntry :=
  { owner := o, page := page.toNat, va := va, kind := kind, waiters := [{ who := .thread t, va := va, kind := kind }] }

/-- A walk whose end leaves the queue empty ends there. -/
theorem WalkOfOne.exec_settled {r : WalkEnd} (h : WalkOfOne s die o page w t va kind) (hr : (dieWalk s die.toNat o va).1 = r) {p : State → Prop}
    (hp : ∀ cache, (getDie (walkEnds (walkOver s die.toNat w cache) die.toNat w r) die.toNat).missQ = []
      ∧ (walkEnds (walkOver s die.toNat w cache) die.toNat w r).inv.repBusy = false
      ∧ p (drained (walkEnds (walkOver s die.toNat w cache) die.toNat w r) die.toNat)) :
    ∃ u, exec (.walkComplete die o page) s = .next u ∧ p u := by
  obtain ⟨cache, hexec⟩ := exec_walkComplete h.found
  obtain ⟨hq, hidle, hu⟩ := hp cache
  rw [h.vaEq, hr, walk_settles hq hidle] at hexec
  exact ⟨_, hexec, hu⟩

theorem getDie_walkOver (s : State) (k : Nat) (w : Walk) (cache : List (BitVec 12 × Nat × Nat × Word)) :
    getDie (walkOver s k w cache) k = { getDie s k with walks := (getDie s k).walks.erase w, wcache := cache } := getDie_setDie s k _

theorem WalkOfOne.leaf {pte : Word} {big : Bool} (h : WalkOfOne s die o page w t va kind) (hr : (dieWalk s die.toNat o va).1 = .leaf pte big)
    (hroom : (getDie s die.toNat).l2.length < 32768) :
    ∃ u, exec (.walkComplete die o page) s = .next u ∧ leafEntry w pte big ∈ (getDie u die.toNat).l2
      ∧ getThread u t = { getThread s t with park := .none } ∧ SameMem s u := by
  refine h.exec_settled hr fun cache => ?_
  obtain ⟨hmem, hmiss, heq⟩ := wakeFault_filled (s := walkOver s die.toNat w cache) (c := tagCluster t) (e := leafEntry w pte big) h.park
    (by rw [getDie_walkOver]; exact hroom)
  rw [walkEnds, walkLeaf_thread die.toNat pte big h.waiters]
  refine ⟨?_, ?_, ?_, ?_, fun a => ?_⟩
  · rw [hmiss, getDie_walkOver]
    exact h.queue
  · rw [heq]
    exact h.idle
  · rw [drained, getDie_setDie]
    exact hmem
  · rw [drained, heq]
    exact getThread_setThread s t _
  · rw [drained, heq]
    exact byteAt_congr rfl rfl rfl a

/-- A page fault makes the fault entry, and nothing else but its record. -/
theorem WalkOfOne.walkEnds_pageFault {level : Nat} (h : WalkOfOne s die o page w t va kind) (hroom : (getDie s die.toNat).faults.length < 4096)
    (cache : List (BitVec 12 × Nat × Nat × Word)) :
    ∃ v, walkEnds (walkOver s die.toNat w cache) die.toNat w (.pageFault level) = writeRecord v die.toNat (threadFault o page t va kind) level
      ∧ getDie v die.toNat = { getDie s die.toNat with
          walks := (getDie s die.toNat).walks.erase w, wcache := cache, faults := (getDie s die.toNat).faults ++ [threadFault o page t va kind] }
      ∧ v = { s with dies := v.dies } := by
  have hfault : faultOf w { who := .thread t, va := va, kind := kind } = threadFault o page t va kind := by
    rw [faultOf, h.waiters, h.ownerEq, h.pageEq, threadFault]
  refine ⟨faultNoted (walkOver s die.toNat w cache) die.toNat (threadFault o page t va kind), ?_, ?_, rfl⟩
  · rw [walkEnds, walkFault_thread h.waiters rfl (by rw [getDie_walkOver]; exact hroom), hfault]
  · rw [faultNoted, getDie_setDie, getDie_walkOver s die.toNat w cache]

theorem WalkOfOne.pageFault_recorded {level : Nat} (h : WalkOfOne s die o page w t va kind) (hr : (dieWalk s die.toNat o va).1 = .pageFault level)
    (hwf : Memory.wf s.mem = true) (hroom : (getDie s die.toNat).faults.length < 4096) (hen : (getDie s die.toNat).en = true)
    (hspace : bufferFull (getDie s die.toNat) = false) :
    ∃ u, exec (.walkComplete die o page) s = .next u ∧ threadFault o page t va kind ∈ (getDie u die.toNat).faults
      ∧ (getDie u die.toNat).fbHead = (getDie s die.toNat).fbHead + 1
      ∧ u.bytesAt 32 (recordSlot (getDie s die.toNat)) = recordBytes s die.toNat (threadFault o page t va kind) level ∧ u.threads = s.threads := by
  refine h.exec_settled hr fun cache => ?_
  obtain ⟨v, hends, hdie, hkept⟩ := h.walkEnds_pageFault (level := level) hroom cache
  obtain ⟨hdie', hbytes, hth, hinv⟩ := writeRecord_stands (level := level) (f := threadFault o page t va kind) (s := v) (by rw [hkept]; exact hwf)
    (by rw [hdie]; exact hen) (by rw [hdie]; exact hspace)
  have hslot : recordSlot (getDie v die.toNat) = recordSlot (getDie s die.toNat) := by rw [hdie]; rfl
  have hrecord := recordBytes_thread (s := s) (u := v) (k := die.toNat) (level := level) (f := threadFault o page t va kind) rfl rfl
  rw [hslot, hrecord] at hbytes
  rw [hends]
  refine ⟨?_, ?_, ?_, ?_, hbytes, hth.trans (by rw [hkept])⟩
  · rw [hdie', hdie]
    exact h.queue
  · rw [hinv, hkept]
    exact h.idle
  · rw [drained, getDie_setDie, hdie', hdie]
    exact List.mem_append_right _ List.mem_cons_self
  · rw [drained, getDie_setDie, hdie', hdie]

theorem WalkOfOne.pageFault_dropped {level : Nat} (h : WalkOfOne s die o page w t va kind) (hr : (dieWalk s die.toNat o va).1 = .pageFault level)
    (hroom : (getDie s die.toNat).faults.length < 4096) (hdrop : (getDie s die.toNat).en = false ∨ bufferFull (getDie s die.toNat) = true) :
    ∃ u, exec (.walkComplete die o page) s = .next u ∧ threadFault o page t va kind ∈ (getDie u die.toNat).faults
      ∧ (getDie u die.toNat).dropCnt = (getDie s die.toNat).dropCnt + 1 ∧ (getDie u die.toNat).dropped = true ∧ SameMem s u ∧ u.threads = s.threads := by
  refine h.exec_settled hr fun cache => ?_
  obtain ⟨v, hends, hdie, hkept⟩ := h.walkEnds_pageFault (level := level) hroom cache
  rw [hends, writeRecord_dropped (by rw [hdie]; exact hdrop), drained, getDie_setDie, getDie_setDie, hdie]
  refine ⟨h.queue, ?_, List.mem_append_right _ List.mem_cons_self, rfl, rfl, fun a => ?_, ?_⟩
  · rw [hkept]
    exact h.idle
  · rw [hkept]
    exact byteAt_congr rfl rfl rfl a
  · rw [hkept]
    rfl

theorem WalkOfOne.accessFault (h : WalkOfOne s die o page w t va kind) (hr : (dieWalk s die.toNat o va).1 = .accessFault)
    (hstop : (getThread s t).stopped = false) (hih : (getThread s t).ih = false) :
    ∃ u, exec (.walkComplete die o page) s = .next u ∧ getThread u t = (getThread s t).enterTrap 0x03 va (getThread s t).pc ∧ SameMem s u := by
  refine h.exec_settled hr fun cache => ?_
  have htrap : walkEnds (walkOver s die.toNat w cache) die.toNat w .accessFault
      = setThread (walkOver s die.toNat w cache) t ((getThread s t).enterTrap 0x03 va (getThread s t).pc) := by
    rw [walkEnds, h.waiters]
    exact trapParked_eq h.park hstop hih
  rw [htrap]
  exact ⟨(congrArg DieState.missQ (getDie_walkOver s die.toNat w cache)).trans h.queue, h.idle, getThread_setThread _ _ _,
    fun a => byteAt_congr rfl rfl rfl a⟩

end

end Sys2Proof.Machine

namespace Sys2Proof

open Sys2Proof.Machine Sys2Proof.Safety

/-- Settles O39: the walk's die is written first (`exec_walkComplete`), then each end does what it does to the one thread that waits. -/
theorem walksEnd : Obligations.WalksEnd := by
  unfold Obligations.WalksEnd
  intro s die o page k t va kind pte big level core line rest bs b8 bad d th r f at_ x
  refine ⟨fun hw ho hp hva hwaits hq hidle hpark hstop => ?_, fun hts hempty hfirst hline => ?_⟩
  · have h : WalkOfOne s die o page k t va kind := ⟨hw, ho, hp, hva, hwaits, hq, hidle, hpark⟩
    refine ⟨fun hleaf hroom => ?_, fun hfault ⟨hwf, _⟩ hroom => ⟨h.pageFault_recorded hfault hwf hroom, h.pageFault_dropped hfault hroom⟩, fun hacc hih => ?_⟩
    · obtain ⟨u, hexec, hmem, hth, hsame⟩ := h.leaf hleaf hroom
      have hits := leafEntry_hits k pte big
      rw [ho, hp] at hits
      exact ⟨u, leafEntry k pte big, hexec, hmem, ho, rfl, rfl, hits, hth, hsame⟩
    · obtain ⟨u, hexec, hth, hsame⟩ := h.accessFault hacc hstop hih
      refine ⟨u, hexec, ?_, ?_, ?_, ?_, ?_, hsame⟩ <;> rw [hth] <;> rfl
  · rw [exec_icacheFill hts hempty hfirst hline]
    obtain ⟨threads, hth⟩ := foldl_unpark_eq (t :: rest) (lineFilled s core line bs)
    refine ⟨_, rfl, ?_, fun j hj => ?_, fun j hj => ?_, fun a => ?_⟩
    · rw [hth]
      exact congrArg CoreState.icache (getCore_setCore s core _)
    · rw [getThread_foldl_unpark, if_pos hj]
    · rw [getThread_foldl_unpark, if_neg hj]
      rfl
    · rw [hth]
      rfl

end Sys2Proof
end

section
/-! ## Messages of the spill areas (R108–R110) -/

namespace Sys2Proof.Machine

open Safety

section

variable {s t : State} {c crew : Nat} {o : BitVec 12} {va : Word} {m : Message} {w : Crew} {i : SpillItem} {l : List Word} {key hkey : Nat}

/-! ### What writes of an area leave -/

/-- What writes of a crew's area leave of a state: the messages, the threads, and each crew but for its events. -/
structure AreaOnly (s t : State) : Prop where
  messages : t.messages = s.messages
  threads : t.threads = s.threads
  clusters : t.clusters = s.clusters
  dies : t.dies = s.dies
  crew : ∀ k w, getCrew s k = some w → ∃ a b, getCrew t k = some { w with event0A := a, event0B := b }

theorem AreaOnly.refl (s : State) : AreaOnly s s := ⟨rfl, rfl, rfl, rfl, fun _ w hw => ⟨w.event0A, w.event0B, hw⟩⟩

theorem AreaOnly.trans {u : State} (h : AreaOnly s t) (h' : AreaOnly t u) : AreaOnly s u where
  messages := h'.messages.trans h.messages
  threads := h'.threads.trans h.threads
  clusters := h'.clusters.trans h.clusters
  dies := h'.dies.trans h.dies
  crew k w hw :=
    have ⟨a, b, ht⟩ := h.crew k w hw
    have ⟨a', b', hu⟩ := h'.crew k { w with event0A := a, event0B := b } ht
    ⟨a', b', hu⟩

theorem areaOnly_setCrew {a : Option Word} {b : Option Word} (hw : getCrew s c = some w) : AreaOnly s (setCrew s c { w with event0A := a, event0B := b }) where
  messages := rfl
  threads := rfl
  clusters := rfl
  dies := rfl
  crew k v hv := by
    by_cases hk : k = c
    · subst hk
      cases hw.symm.trans hv
      exact ⟨a, b, getCrew_setCrew _ _ _⟩
    · exact ⟨v.event0A, v.event0B, (AMap.find_set_ne s.crews _ hk).trans hv⟩

theorem areaOnly_crewEvent (s : State) (c : Nat) (cause : BitVec 8) (v : Word) : AreaOnly s (crewEvent s c cause v) := by
  unfold crewEvent
  split
  · exact .refl s
  · next w hw =>
    split
    · exact areaOnly_setCrew hw
    · exact areaOnly_setCrew hw

/-- A write of a word of an area, at its home: it claims its line and is performed. -/
theorem areaWord_eq (s : State) (c : Nat) (o : BitVec 12) (va : Word) (key : Nat) (home : Bool) (v : Word) :
    ∃ w track, areaWord s c o va key home v = performWrite (claimLine s key (keyOf s o) (bits va 54 6)) key (bytesOf 8 v.toNat) w [] track := by
  unfold areaWord
  split
  · exact ⟨_, false, rfl⟩
  · exact ⟨_, true, rfl⟩

/-- A claim of a line may spoil what the line held; nothing else changes. -/
theorem claimLine_eq (s : State) (k keyNo v : Nat) : claimLine s k keyNo v = { s with
    loose := (claimLine s k keyNo v).loose, wrote := (claimLine s k keyNo v).wrote, poison := (claimLine s k keyNo v).poison
    homeRel := (claimLine s k keyNo v).homeRel, writes := (claimLine s k keyNo v).writes, lines := (claimLine s k keyNo v).lines } := by
  unfold claimLine
  split
  · cases lineForeign s k keyNo v with
    | false => rfl
    | true => rfl
  · rfl

theorem areaWord_agents (s : State) (c : Nat) (o : BitVec 12) (va : Word) (key : Nat) (home : Bool) (v : Word) :
    (areaWord s c o va key home v).messages = s.messages ∧ (areaWord s c o va key home v).clusters = s.clusters
      ∧ (areaWord s c o va key home v).dies = s.dies ∧ (areaWord s c o va key home v).own = s.own := by
  obtain ⟨w, track, h⟩ := areaWord_eq s c o va key home v
  rw [h, performWrite, putBytes, claimLine_eq]
  exact ⟨rfl, rfl, rfl, rfl⟩

theorem areaOnly_areaWord (s : State) (c : Nat) (o : BitVec 12) (va : Word) (key : Nat) (home : Bool) (v : Word) : AreaOnly s (areaWord s c o va key home v) where
  messages := (areaWord_agents s c o va key home v).1
  threads := (Writing.refl s).areaWord.threads
  clusters := (areaWord_agents s c o va key home v).2.1
  dies := (areaWord_agents s c o va key home v).2.2.1
  crew k w hw := ⟨w.event0A, w.event0B, by rw [getCrew, (Writing.refl s).areaWord.crews]; exact hw⟩

theorem areaOnly_areaWords (l : List Word) : ∀ (s : State) (va : Word), AreaOnly s (areaWords s crew c o va l) := by
  induction l with
  | nil => exact fun s _ => .refl s
  | cons v l ih =>
    intro s va
    rw [areaWords]
    refine AreaOnly.trans ?_ (ih _ _)
    split
    · exact areaOnly_areaWord s _ _ _ _ _ _
    · exact areaOnly_crewEvent s _ _ _

theorem areaOnly_areaHeader (s : State) (crew : Nat) (w : Crew) : AreaOnly s (areaHeader s crew w) := areaOnly_areaWords _ _ _

/-! ### A delivery from the engine and from the area (R109, R110) -/

/-- A message that has filled its register stands in it. -/
theorem find_fillRegister (s : State) (m : Message) : AMap.find (getThread (fillRegister s m) m.target).m m.reg = some m.value := by
  rw [fillRegister, getThread_setThread]
  exact AMap.find_set_self _ _ _

/-- A message whose register can take it is delivered there. -/
theorem deliverItem_fills (h : canFill s m = true) : deliverItem s (.message m) = some (fillRegister s m) := if_pos h

/-- The one item of an engine goes to its target. -/
theorem retryItem_fills (hw : getCrew s m.crew = some w) (hlost : itemLost s w.owner (.message m) = false)
    (hfirst : ∀ i ∈ w.spilled, i.sameTarget (.message m) = false) (hfill : canFill s m = true) :
    retryItem s c [] (.message m) = (fillRegister s m, true) := by
  have hitems : areaItems s m.crew = w.spilled := by rw [areaItems, hw]
  have hnone : (areaItems s m.crew).any (fun j => j.sameTarget (.message m)) = false := by
    rw [hitems, List.any_eq_false]
    exact fun i hi => by simp [hfirst i hi]
  have hw' : getCrew s (SpillItem.message m).crew = some w := hw
  rw [retryItem, hw']
  dsimp only
  rw [hlost, if_neg Bool.false_ne_true, if_neg (by simp), if_neg (by rw [SpillItem.crew, hnone]; simp), deliverItem_fills hfill]

theorem exec_spillRetry (hspill : (getCluster s c).spill = [.message m]) (hdue : (getCluster s c).spillTried + 1024 ≤ s.board.clk) :
    exec (.spillRetry c) s = .next (retryAll (setCluster s c { getCluster s c with spillTried := s.board.clk }) c [] [.message m]) := by
  have hexec : exec (.spillRetry c) s = execSpillRetry c s := rfl
  rw [hexec, execSpillRetry, if_neg (by simp [hspill, hdue])]
  dsimp only
  rw [hspill]

/-- The first entry of an area goes to its target. -/
theorem firstDelivery_fills {rest : List SpillItem} (hlost : itemLost s o (.message m) = false) (hfill : canFill s m = true) :
    firstDelivery s o [] (.message m :: rest) = some (.message m, fillRegister s m) := by
  rw [firstDelivery, hlost, if_neg Bool.false_ne_true, if_neg (by simp), deliverItem_fills hfill]

theorem exec_spillDeliver {u : State} (hw : getCrew s crew = some w)
    (hfirst : firstDelivery (setCrew s crew { w with spilled := [] }) w.owner [] w.spilled = some (i, u)) (hkept : areaTouched s w i = false) :
    exec (.spillDeliver crew) s
      = .next (areaHeader (setCrew { u with fresh := s.fresh } crew (w.leaveArea (w.spilled.erase i) 1)) crew (w.leaveArea (w.spilled.erase i) 1)) := by
  have hexec : exec (.spillDeliver crew) s = execSpillDeliver crew s := rfl
  rw [hexec, execSpillDeliver, hw]
  dsimp only
  rw [hfirst]
  dsimp only
  rw [hkept, if_neg Bool.false_ne_true, if_neg Bool.false_ne_true, if_neg (by decide), if_neg (by decide)]
  rfl

/-- What is left of an area whose entries left; with the last the offsets return to zero. -/
theorem leaveArea_spilled (w : Crew) (left : List SpillItem) (n : Nat) :
    (w.leaveArea left n).spilled = left ∧ (left = [] → (w.leaveArea left n).spillWr = 0 ∧ (w.leaveArea left n).spillRd = 0) := by
  cases left with
  | nil => exact ⟨rfl, fun _ => ⟨rfl, rfl⟩⟩
  | cons i left => exact ⟨rfl, fun h => nomatch h⟩

/-! ### A message enters its area (R108) -/

/-- A crew whose area takes an item at its write offset. -/
def Crew.withEntry (w : Crew) (i : SpillItem) : Crew :=
  { w with spilled := w.spilled ++ [i], spillWr := w.spillWr + 32, spillAt := AMap.set w.spillAt i.num w.spillWr }

/-- The address of a crew's next entry. -/
def Crew.nextEntry (w : Crew) : Word := w.spillVa + BitVec.ofNat 64 (0x40 + w.spillWr)

theorem spillItem_enters (hw : getCrew s i.crew = some w) (hroom : 0x40 + w.spillWr + 32 ≤ w.spillCur * 2 ^ 16)
    (hhead : spillReach s c w.owner w.spillVa = .good hkey) (hbody : spillReach s c w.owner w.nextEntry = .good key) :
    spillItem s c i
      = (areaHeader (areaWords (setCrew s i.crew (w.withEntry i)) i.crew c w.owner w.nextEntry i.words) i.crew (w.withEntry i), true) := by
  rw [spillItem, hw]
  dsimp only
  rw [if_pos (Or.inl hroom), if_pos hroom]
  have hbody' : spillReach s c w.owner (w.spillVa + BitVec.ofNat 64 (0x40 + w.spillWr)) = .good key := hbody
  rw [hhead, hbody']
  rfl

theorem tlbFind_congr {page : Nat} (hl1 : (getCluster t c).l1 = (getCluster s c).l1) (hdies : t.dies = s.dies) : tlbFind t c o page = tlbFind s c o page := by
  rw [tlbFind, tlbFind, hl1, getDie, hdies]
  rfl

theorem spillReach_congr (hl1 : (getCluster t c).l1 = (getCluster s c).l1) (hdies : t.dies = s.dies) : spillReach t c o va = spillReach s c o va := by
  simp only [spillReach, xlate, tlbFind_congr hl1 hdies]

theorem getCluster_enterEngine (s : State) (c : Nat) (i : SpillItem) : (getCluster (enterEngine s c i) c).l1 = (getCluster s c).l1 := by
  rw [enterEngine, getCluster_setCluster]

/-- The state in which the message `num` has left the network for the engine of its sender's cluster. -/
def engineHolds (s : State) (c num : Nat) (m : Message) : State := enterEngine (dropMessage s num) c (.message m)

/-- The state in which the area has the entry. -/
def entered (s : State) (c num : Nat) (m : Message) (w : Crew) : State :=
  areaHeader (areaWords (setCrew (engineHolds s c num m) m.crew (w.withEntry (.message m))) m.crew c w.owner w.nextEntry (SpillItem.message m).words)
    m.crew (w.withEntry (.message m))

theorem areaOnly_entered (s : State) (c num : Nat) (m : Message) (w : Crew) :
    AreaOnly (setCrew (engineHolds s c num m) m.crew (w.withEntry (.message m))) (entered s c num m w) :=
  (areaOnly_areaWords _ _ _).trans (areaOnly_areaHeader _ _ _)

theorem exec_spill {num : Nat} (hm : s.messages.find? (fun q => q.num == num && q.accepted) = some m) (hdue : m.issued + 1024 ≤ s.board.clk)
    (hw : getCrew s m.crew = some w) (hroom : (getCluster s (tagCluster m.sender)).spill.length < 64)
    (hnone : ∀ j ∈ (getCluster s (tagCluster m.sender)).spill, j.sameTarget (.message m) = false) (hlate : overtakes s (.message m) = false)
    (hcur : 0x40 + w.spillWr + 32 ≤ w.spillCur * 2 ^ 16) (hhead : spillReach s (tagCluster m.sender) w.owner w.spillVa = .good hkey)
    (hbody : spillReach s (tagCluster m.sender) w.owner w.nextEntry = .good key) :
    ∃ cl, exec (.spill num) s = .next (setCluster (entered s (tagCluster m.sender) num m w) (tagCluster m.sender) cl) := by
  have hexec : exec (.spill num) s = execSpill num s := rfl
  have hany : (getCluster (dropMessage s num) (tagCluster m.sender)).spill.any (fun j => j.sameTarget (.message m)) = false :=
    List.any_eq_false.mpr fun j hj => by simp [hnone j hj]
  have hl1 := getCluster_enterEngine (dropMessage s num) (tagCluster m.sender) (.message m)
  have henters := spillItem_enters (i := .message m) (s := engineHolds s (tagCluster m.sender) num m) hw hcur
    ((spillReach_congr hl1 rfl).trans hhead) ((spillReach_congr hl1 rfl).trans hbody)
  rw [hexec, execSpill, hm]
  dsimp only
  rw [if_pos (by simp [overdue, hdue, hw, hroom, hlate]), engineTakes]
  dsimp only
  rw [hany, if_neg Bool.false_ne_true, ← engineHolds, henters]
  exact ⟨_, rfl⟩

/-! ### The words of an area's page -/

/-- An offset within a 64 KiB page adds to the location key, and a page's first key stands at the start of a line. -/
theorem leafKey_add (p : Word) (big : Bool) {n : Nat} (hva : va.toNat % 2 ^ 16 = 0) (hn : n < 2 ^ 16) :
    leafKey (va + BitVec.ofNat 64 n) p big = leafKey va p big + n ∧ leafKey va p big % 64 = 0 := by
  have hto : (va + BitVec.ofNat 64 n).toNat = va.toNat + n := by
    rw [BitVec.toNat_add, BitVec.toNat_ofNat]
    have := va.isLt
    omega
  have hhome : homeDie (va + BitVec.ofNat 64 n) big = homeDie va big := by
    have h16 : bits (va + BitVec.ofNat 64 n) 54 16 = bits va 54 16 := by
      simp only [bits, bitsN, hto]
      omega
    have h29 : bits (va + BitVec.ofNat 64 n) 54 29 = bits va 54 29 := by
      simp only [bits, bitsN, hto]
      omega
    rw [homeDie, homeDie, h16, h29]
  have hlow : bits (va + BitVec.ofNat 64 n) 15 0 = bits va 15 0 + n ∧ bits va 15 0 % 64 = 0 := by
    simp only [bits, bitsN, hto]
    omega
  have hbig : bits (va + BitVec.ofNat 64 n) 28 0 = bits va 28 0 + n ∧ bits va 28 0 % 2 ^ 16 = 0 := by
    simp only [bits, bitsN, hto]
    omega
  have hfit : bits va 15 0 = 0 := by
    simp only [bits, bitsN]
    omega
  unfold leafKey ddrKey
  rw [hhome, hlow.1, hbig.1]
  cases big
  · simp only [Bool.false_eq_true, if_false]
    split <;> omega
  · simp only [if_true]
    split <;> omega

theorem pageOf_add {n : Nat} (hva : va.toNat % 2 ^ 16 = 0) (hn : n < 2 ^ 16) : pageOf (va + BitVec.ofNat 64 n) = pageOf va := by
  have := va.isLt
  simp only [pageOf, bits, bitsN, BitVec.toNat_add, BitVec.toNat_ofNat]
  omega

theorem spaceOf_global {n : Nat} :
    spaceOf c none va n = .global ↔ bits va 63 56 = 0 ∧ bitAt va 55 = false ∧ bits va 54 0 + n ≤ 2 ^ 55 := by
  constructor
  · intro h
    unfold spaceOf at h
    split at h
    case h_1 htop =>
      split at h
      · nomatch h
      · next hbit =>
        split at h
        · next hend => exact ⟨htop, Bool.eq_false_iff.mpr hbit, hend⟩
        · nomatch h
    all_goals
      repeat' split at h
      all_goals nomatch h
  · rintro ⟨htop, hbit, hend⟩
    rw [spaceOf, htop, hbit, if_neg Bool.false_ne_true, if_pos hend]
    rfl

theorem bitAt_eq (v : Word) (k : Nat) : bitAt v k = decide (v.toNat / 2 ^ k % 2 = 1) := Nat.testBit_eq_decide_div_mod_eq

theorem spaceOf_global_add {n : Nat} (h : spaceOf c none va 8 = .global) (hva : va.toNat % 2 ^ 16 = 0) (hn : n + 8 ≤ 2 ^ 16) :
    spaceOf c none (va + BitVec.ofNat 64 n) 8 = .global := by
  obtain ⟨htop, hbit, hend⟩ := spaceOf_global.mp h
  have hlt := va.isLt
  rw [bitAt_eq, decide_eq_false_iff_not] at hbit
  rw [spaceOf_global, bitAt_eq, decide_eq_false_iff_not]
  simp only [bits, bitsN, BitVec.toNat_add, BitVec.toNat_ofNat] at htop hend ⊢
  omega

/-- What a write of a spill area meets when it is good: an entry of a TLB that allows it. -/
theorem spillReach_good : spillReach s c o va = .good key ↔
    spaceOf c none va 8 = .global ∧ ∃ e, tlbFind s c o (pageOf va) = some e ∧ Want.write.allowed e.pte = true ∧ leafKey va e.pte e.big = key := by
  constructor
  · intro h
    unfold spillReach xlate at h
    split at h
    case h_1 hspace =>
      cases hfind : tlbFind s c o (pageOf va) with
      | none =>
        rw [hfind] at h
        nomatch h
      | some e =>
        rw [hfind] at h
        dsimp only at h
        by_cases hallow : Want.write.allowed e.pte = true
        · rw [if_pos hallow] at h
          exact ⟨hspace, e, rfl, hallow, SpillReach.good.inj h⟩
        · rw [if_neg hallow] at h
          nomatch h
    case h_2 => nomatch h
  · rintro ⟨hspace, e, hfind, hallow, rfl⟩
    unfold spillReach xlate
    rw [hspace, hfind]
    dsimp only
    rw [if_pos hallow]

theorem areaKey_of_reach (h : spillReach s c o va = .good key) : ∃ home, areaKey s c o va = some (key, home) := by
  obtain ⟨hspace, e, hfind, hallow, rfl⟩ := spillReach_good.mp h
  refine ⟨pteClass e.pte == 1, ?_⟩
  unfold areaKey xlate
  rw [hspace, hfind]
  dsimp only
  rw [if_pos hallow]

/-- A write that reaches the first word of a page reaches any word of it. -/
theorem spillReach_add {n : Nat} (h : spillReach s c o va = .good key) (hva : va.toNat % 2 ^ 16 = 0) (hn : n + 8 ≤ 2 ^ 16) :
    spillReach s c o (va + BitVec.ofNat 64 n) = .good (key + n) ∧ key % 64 = 0 := by
  obtain ⟨hspace, e, hfind, hallow, rfl⟩ := spillReach_good.mp h
  obtain ⟨hkey, hline⟩ := leafKey_add e.pte e.big hva (show n < 2 ^ 16 by omega)
  refine ⟨spillReach_good.mpr ⟨spaceOf_global_add hspace hva hn, e, ?_, hallow, hkey⟩, hline⟩
  rw [pageOf_add hva (show n < 2 ^ 16 by omega)]
  exact hfind

theorem spillReach_lt (h : spillReach s c o va = .good key) : key < 2 ^ 43 := by
  obtain ⟨-, e, -, -, rfl⟩ := spillReach_good.mp h
  exact leafKey_lt _ _ _

/-! ### Bytes that writes of words leave -/

/-- Known bytes stand at a location, in the line that `e` claims. -/
structure LineHolds (s : State) (key : Nat) (e : Nat × Nat) (bs : List Byte) : Prop where
  wf : Memory.wf s.mem = true
  line : bs ≠ [] → AMap.find s.lines (key / 64) = some e
  byte : ∀ j, j < bs.length → inStretch s.loose (key + j) = false ∧ memGet s.mem (key + j) = bs.getD j 0

theorem LineHolds.none {e : Nat × Nat} (h : Memory.wf s.mem = true) : LineHolds s key e [] :=
  ⟨h, fun h => absurd rfl h, fun _ hj => absurd hj (Nat.not_lt_zero _)⟩

theorem LineHolds.bytesAt {e : Nat × Nat} {bs : List Byte} (h : LineHolds s key e bs) : s.bytesAt bs.length key = bs :=
  bytesAt_of_byteAt bs key fun a h1 h2 => by
    obtain ⟨hloose, hmem⟩ := h.byte (a - key) (by omega)
    rw [Nat.add_sub_cancel' h1] at hloose hmem
    rw [State.byteAt, hloose, if_neg Bool.false_ne_true, hmem]

/-- A claim of a line spoils no byte of a line that it finds claimed alike, or of another. -/
theorem inStretch_claimLine {k x : Nat} {e : Nat × Nat} (h : inStretch s.loose x = false) (hx : x / 64 = k / 64 → AMap.find s.lines (k / 64) = some e) :
    inStretch (claimLine s k e.1 e.2).loose x = false := by
  by_cases hline : x / 64 = k / 64
  · have hown : lineForeign s k e.1 e.2 = false := by
      rw [lineForeign, hx hline]
      exact bne_self_eq_false e
    unfold claimLine
    split
    · rw [hown]
      exact h
    · exact h
  · unfold claimLine
    split
    · cases lineForeign s k e.1 e.2 with
      | false => exact h
      | true =>
        show inStretch ((k / 64 * 64, 64) :: cutRange s.loose (k / 64 * 64) 64) x = false
        have hcut : inStretch (cutRange s.loose (k / 64 * 64) 64) x = false := by rw [inStretch_cutRange, h, Bool.false_and]
        have hcons : inStretch ((k / 64 * 64, 64) :: cutRange s.loose (k / 64 * 64) 64) x
            = (decide (k / 64 * 64 ≤ x) && decide (x < k / 64 * 64 + 64) || inStretch (cutRange s.loose (k / 64 * 64) 64) x) := rfl
        rw [hcons, hcut, Bool.or_false, ← Bool.decide_and, decide_eq_false_iff_not]
        omega
    · exact h

theorem lines_claimLine {k : Nat} (hk : k < 2 ^ 43) (s : State) (n v : Nat) : (claimLine s k n v).lines = AMap.set s.lines (k / 64) (n, v) := by
  unfold claimLine
  rw [if_pos (show globalKey k = true from decide_eq_true hk)]
  cases lineForeign s k n v with
  | false => rfl
  | true => rfl

theorem performWrite_stores (s : State) (key : Nat) (bs : List Byte) (w : Writer) (track : Bool) :
    (performWrite s key bs w [] track).mem = memSetN s.mem key bs ∧ (performWrite s key bs w [] track).loose = cutRange s.loose key bs.length
      ∧ (performWrite s key bs w [] track).lines = s.lines := ⟨rfl, rfl, rfl⟩

/-- What a write of a word of an area leaves of the memory. -/
theorem areaWord_stores (s : State) (c : Nat) (o : BitVec 12) (va : Word) (key : Nat) (home : Bool) (v : Word) :
    (areaWord s c o va key home v).mem = memSetN s.mem key (bytesOf 8 v.toNat)
      ∧ (areaWord s c o va key home v).loose = cutRange (claimLine s key (keyOf s o) (bits va 54 6)).loose key 8
      ∧ (areaWord s c o va key home v).lines = (claimLine s key (keyOf s o) (bits va 54 6)).lines := by
  obtain ⟨w, track, heq⟩ := areaWord_eq s c o va key home v
  have hmem : (claimLine s key (keyOf s o) (bits va 54 6)).mem = s.mem := by rw [claimLine_eq]
  have h := performWrite_stores (claimLine s key (keyOf s o) (bits va 54 6)) key (bytesOf 8 v.toNat) w track
  rw [hmem, bytesOf_length] at h
  rwa [heq]

/-- A word that a write of the area adds to the bytes before it in their line. -/
theorem LineHolds.add {bs : List Byte} {home : Bool} {v : Word} (h : LineHolds s key (keyOf s o, bits va 54 6) bs) (hglobal : key + bs.length < 2 ^ 43)
    (hline : (key + bs.length) / 64 = key / 64) :
    LineHolds (areaWord s c o va (key + bs.length) home v) key (keyOf s o, bits va 54 6) (bs ++ bytesOf 8 v.toNat) := by
  obtain ⟨hmem, hloose, hlines⟩ := areaWord_stores s c o va (key + bs.length) home v
  refine ⟨?_, fun _ => ?_, fun j hj => ?_⟩
  · rw [hmem]
    exact memSetN_wf _ _ _ h.wf
  · rw [hlines, lines_claimLine hglobal, hline, AMap.find_set_self]
  · rw [hmem, hloose, inStretch_cutRange, memGet_memSetN _ _ _ h.wf, bytesOf_length]
    rw [List.length_append, bytesOf_length] at hj
    by_cases hold : j < bs.length
    · obtain ⟨hfixed, hbyte⟩ := h.byte j hold
      have hfound := h.line (List.ne_nil_of_length_pos (by omega))
      rw [inStretch_claimLine (e := (keyOf s o, bits va 54 6)) hfixed fun _ => hline ▸ hfound, if_neg (by omega), hbyte, List.getD_append _ _ _ _ hold]
      exact ⟨rfl, rfl⟩
    · have hin : (decide (key + bs.length ≤ key + j) && decide (key + j < key + bs.length + 8)) = true := by
        rw [← Bool.decide_and, decide_eq_true_iff]
        omega
      rw [hin, Bool.not_true, Bool.and_false, if_pos (by omega), List.getD_append_right _ _ _ _ (by omega),
        show key + j - (key + bs.length) = j - bs.length by omega]
      exact ⟨rfl, rfl⟩

/-- A write of the area in another line leaves those bytes. -/
theorem LineHolds.other {e : Nat × Nat} {bs : List Byte} {home : Bool} {v : Word} {k : Nat} (h : LineHolds s key e bs) (hk : k < 2 ^ 43)
    (hfit : key % 64 + bs.length ≤ 64) (hkfit : k % 64 + 8 ≤ 64) (hne : key / 64 ≠ k / 64) :
    LineHolds (areaWord s c o va k home v) key e bs := by
  obtain ⟨hmem, hloose, hlines⟩ := areaWord_stores s c o va k home v
  refine ⟨?_, fun hbs => ?_, fun j hj => ?_⟩
  · rw [hmem]
    exact memSetN_wf _ _ _ h.wf
  · rw [hlines, lines_claimLine hk, AMap.find_set_ne _ _ hne]
    exact h.line hbs
  · obtain ⟨hfixed, hbyte⟩ := h.byte j hj
    rw [hmem, hloose, inStretch_cutRange, memGet_memSetN _ _ _ h.wf, bytesOf_length, if_neg (by omega),
      inStretch_claimLine (e := (keyOf s o, bits va 54 6)) hfixed fun hx => by omega, Bool.false_and]
    exact ⟨rfl, hbyte⟩

/-! ### The words of an entry, and of the area's header -/

theorem bytesAt_setCluster (s : State) (c : Nat) (v : ClusterState) (n a : Nat) : (setCluster s c v).bytesAt n a = s.bytesAt n a :=
  bytesAt_congr n a fun _ _ _ => rfl

/-- The bytes of words. -/
def areaBytes (l : List Word) : List Byte := l.flatMap fun v => bytesOf 8 v.toNat

theorem add_ofNat_add (va : Word) (n : Nat) : va + BitVec.ofNat 64 n + 8 = va + BitVec.ofNat 64 (n + 8) := by
  rw [BitVec.add_assoc, BitVec.ofNat_add]
  rfl

theorem areaWords_cons {n : Nat} {v : Word} (h : spillReach s c o va = .good hkey) (hva : va.toNat % 2 ^ 16 = 0) (hn : n + 8 ≤ 2 ^ 16) :
    ∃ home, areaWords s crew c o (va + BitVec.ofNat 64 n) (v :: l)
        = areaWords (areaWord s c o (va + BitVec.ofNat 64 n) (hkey + n) home v) crew c o (va + BitVec.ofNat 64 (n + 8)) l
      ∧ spillReach (areaWord s c o (va + BitVec.ofNat 64 n) (hkey + n) home v) c o va = .good hkey
      ∧ keyOf (areaWord s c o (va + BitVec.ofNat 64 n) (hkey + n) home v) o = keyOf s o := by
  obtain ⟨home, hkey'⟩ := areaKey_of_reach (spillReach_add h hva hn).1
  obtain ⟨-, hcl, hdies, hown⟩ := areaWord_agents s c o (va + BitVec.ofNat 64 n) (hkey + n) home v
  refine ⟨home, ?_, (spillReach_congr (by rw [getCluster, hcl]; rfl) hdies).trans h, by rw [keyOf, getOwner, hown]; rfl⟩
  rw [areaWords, hkey', add_ofNat_add]

/-- Words that go into one line stand there one after the other. -/
theorem LineHolds.words (hva : va.toNat % 2 ^ 16 = 0) {n : Nat} {e : Nat × Nat} (l : List Word) : ∀ {s : State} {bs : List Byte},
    spillReach s c o va = .good hkey → LineHolds s (hkey + n) e bs → e = (keyOf s o, bits (va + BitVec.ofNat 64 n) 54 6) → n % 64 + bs.length + 8 * l.length ≤ 64 →
    n + bs.length + 8 * l.length ≤ 2 ^ 16 →
    LineHolds (areaWords s crew c o (va + BitVec.ofNat 64 (n + bs.length)) l) (hkey + n) e (bs ++ areaBytes l) := by
  induction l with
  | nil =>
    intro s bs _ h _ _ _
    rw [areaBytes, List.flatMap_nil, List.append_nil]
    exact h
  | cons v l ih =>
    intro s bs hreach h he hfit hpage
    rw [List.length_cons] at hfit hpage
    obtain ⟨home, hcons, hreach', hown⟩ := areaWords_cons (n := n + bs.length) (v := v) (l := l) (crew := crew) hreach hva (by omega)
    obtain ⟨hlast, halign⟩ := spillReach_add hreach hva (n := n + bs.length) (by omega)
    have hlt := spillReach_lt hlast
    have hsame : bits (va + BitVec.ofNat 64 (n + bs.length)) 54 6 = bits (va + BitVec.ofNat 64 n) 54 6 := by
      have := va.isLt
      simp only [bits, bitsN, BitVec.toNat_add, BitVec.toNat_ofNat]
      omega
    rw [he, ← hsame] at h
    have hstep := h.add (c := c) (home := home) (v := v) (by omega) (by omega)
    rw [hsame, ← he, Nat.add_assoc hkey n bs.length] at hstep
    have hnext := ih hreach' hstep (by rw [hown]; exact he) (by rw [List.length_append, bytesOf_length]; omega)
      (by rw [List.length_append, bytesOf_length]; omega)
    rw [List.length_append, bytesOf_length, List.append_assoc, ← Nat.add_assoc n] at hnext
    rw [hcons]
    exact hnext

/-- Words that go into another line leave the bytes of this one. -/
theorem LineHolds.otherWords {e : Nat × Nat} {bs : List Byte} (hva : va.toNat % 2 ^ 16 = 0) (hfit : key % 64 + bs.length ≤ 64) (l : List Word) :
    ∀ {s : State} {n : Nat}, spillReach s c o va = .good hkey → LineHolds s key e bs → n % 8 = 0 → n + 8 * l.length ≤ 64 → key / 64 ≠ hkey / 64 →
    LineHolds (areaWords s crew c o (va + BitVec.ofNat 64 n) l) key e bs := by
  induction l with
  | nil => exact fun _ h _ _ _ => h
  | cons v l ih =>
    intro s n hreach h hword hend hne
    rw [List.length_cons] at hend
    obtain ⟨home, hcons, hreach', -⟩ := areaWords_cons (n := n) (v := v) (l := l) (crew := crew) hreach hva (by omega)
    obtain ⟨hlast, halign⟩ := spillReach_add hreach hva (n := n) (by omega)
    have hlt := spillReach_lt hlast
    rw [hcons]
    exact ih hreach' (h.other hlt hfit (by omega) (by omega)) (by omega) (by omega) hne

theorem areaBytes_length (m : Message) : (areaBytes (SpillItem.message m).words).length = 32 := by
  simp [areaBytes, SpillItem.words, bytesOf_length]

theorem areaBytes_message (m : Message) : areaBytes (SpillItem.message m).words
    = ([2 ^ 62 + m.reg * 2 ^ 59 + m.addr.toNat % 2 ^ 22, m.value.toNat, 0, 0] : List Nat).flatMap (bytesOf 8) := by
  have haddr : bits m.addr 21 0 = m.addr.toNat % 2 ^ 22 := by simp [bits, bitsN]
  have hword (n : Nat) : bytesOf 8 (BitVec.ofNat 64 n).toNat = bytesOf 8 n := bytesOf_mod 8 n
  rw [areaBytes, SpillItem.words, haddr]
  simp only [List.flatMap_cons, List.flatMap_nil, hword]
  rfl

/-- The entry's four words stand in their line, below the header (R108). -/
theorem lineHolds_entered {num : Nat} (hwf : Memory.wf s.mem = true) (hhome : w.cluster = c) (hva : w.spillVa.toNat % 2 ^ 16 = 0)
    (hend : 0x40 + w.spillWr + 32 ≤ 2 ^ 16) (hwr : w.spillWr % 32 = 0) (hhead : spillReach s c w.owner w.spillVa = .good hkey) :
    ∃ e, LineHolds (entered s c num m w) (hkey + (0x40 + w.spillWr)) e (areaBytes (SpillItem.message m).words) := by
  have hreach : spillReach (setCrew (engineHolds s c num m) m.crew (w.withEntry (.message m))) c w.owner w.spillVa = .good hkey :=
    (spillReach_congr (getCluster_enterEngine (dropMessage s num) c (.message m)) rfl).trans hhead
  obtain ⟨e, he⟩ : ∃ e, e = (keyOf (setCrew (engineHolds s c num m) m.crew (w.withEntry (.message m))) w.owner, bits w.nextEntry 54 6) := ⟨_, rfl⟩
  have hlength : (SpillItem.message m).words.length = 4 := rfl
  have hwords := LineHolds.words (crew := m.crew) hva (n := 0x40 + w.spillWr) (e := e) (SpillItem.message m).words hreach (LineHolds.none hwf) he
    (by rw [hlength, List.length_nil]; omega) (by rw [hlength, List.length_nil]; omega)
  rw [List.nil_append, List.length_nil, Nat.add_zero, ← Crew.nextEntry] at hwords
  have hkept := areaOnly_areaWords (crew := m.crew) (c := c) (o := w.owner) (SpillItem.message m).words
    (setCrew (engineHolds s c num m) m.crew (w.withEntry (.message m))) w.nextEntry
  have hreach' := (spillReach_congr (c := c) (o := w.owner) (va := w.spillVa) (by rw [getCluster, hkept.clusters]; rfl) hkept.dies).trans hreach
  have halign := (spillReach_add hhead hva (n := 0) (by omega)).2
  have hheader := LineHolds.otherWords (crew := m.crew) hva
    (show (hkey + (0x40 + w.spillWr)) % 64 + (areaBytes (SpillItem.message m).words).length ≤ 64 from by rw [areaBytes_length]; omega)
    [BitVec.ofNat 64 (w.spillWr + 32), BitVec.ofNat 64 w.spillRd, BitVec.ofNat 64 (w.spillCur * 2 ^ 16)] (n := 0) hreach' hwords rfl
    (show 0 + 8 * 3 ≤ 64 by omega) (by omega)
  rw [BitVec.add_zero] at hheader
  subst hhome
  exact ⟨e, hheader⟩


end

end Sys2Proof.Machine

namespace Sys2Proof

open Sys2Proof.Machine Sys2Proof.Safety

/-- Settles O17: the entry is written into one line of the area (`LineHolds.words`), the header into another (`LineHolds.otherWords`). -/
theorem spilledMessages : Obligations.SpilledMessages := by
  unfold Obligations.SpilledMessages
  intro s num crew key hkey m w cl rest c va filled hinv
  refine ⟨fun hm hdue hw hroom hnone hlate hcur hhead hbody => ?_, ?_, ?_⟩
  · obtain ⟨cl', hexec⟩ := exec_spill hm hdue hw hroom hnone hlate hcur hhead hbody
    obtain ⟨a, b, hcrew⟩ := (areaOnly_entered s c num m w).crew m.crew _ (getCrew_setCrew _ _ _)
    refine ⟨_, _, hexec, hcrew, rfl, rfl, (areaOnly_entered s c num m w).messages, (areaOnly_entered s c num m w).threads, ?_⟩
    intro hhome hva hend hwr
    obtain ⟨hwf, -⟩ := hinv
    obtain ⟨e, hstands⟩ := lineHolds_entered (num := num) (m := m) hwf hhome hva hend hwr hhead
    have hkey : hkey + (0x40 + w.spillWr) = key := SpillReach.good.inj ((spillReach_add hhead hva (by omega)).1.symm.trans hbody)
    have hbytes := hstands.bytesAt
    rw [areaBytes_message, hkey] at hbytes
    rw [bytesAt_setCluster]
    exact hbytes
  · intro hspill hdue hw hfirst u hlost hfill
    have hw' : getCrew u m.crew = some w := hw
    have hretry := retryItem_fills (c := cl) hw' hlost hfirst hfill
    rw [exec_spillRetry hspill hdue, retryAll, hretry]
    refine ⟨_, rfl, ?_, find_fillRegister u m⟩
    have hcl : getCluster (fillRegister u m) cl = { getCluster s cl with spillTried := s.board.clk } := getCluster_setCluster s cl _
    show (getCluster (setCluster (fillRegister u m) cl _) cl).spill = []
    rw [getCluster_setCluster, hcl, hspill, List.erase_cons_head]
  · intro hw hspilled hkept u hlost hfill
    have hone := firstDelivery_fills (rest := rest) (s := u) hlost hfill
    rw [← hspilled] at hone
    have hgone : w.spilled.erase (.message m) = rest := by rw [hspilled, List.erase_cons_head]
    rw [exec_spillDeliver hw hone hkept, hgone]
    obtain ⟨hleft, hzero⟩ := leaveArea_spilled w rest 1
    have hkeeps := areaOnly_areaHeader (setCrew { fillRegister u m with fresh := s.fresh } crew (w.leaveArea rest 1)) crew (w.leaveArea rest 1)
    obtain ⟨a, b, hcrew⟩ := hkeeps.crew crew _ (getCrew_setCrew _ _ _)
    refine ⟨_, _, rfl, ?_, hcrew, hleft, hzero⟩
    show AMap.find (getThread _ m.target).m m.reg = some m.value
    rw [getThread, hkeeps.threads]
    exact find_fillRegister u m

end Sys2Proof
end

section
/-! ## Threads that wait and end, and traps at a boundary (R105–R107, R321, R323) -/

namespace Sys2Proof.Machine

open Safety

section

variable {s t u : State} {k c : Nat} {p : Prop} [Decidable p]

/-! ### What the homes' own writes leave -/

/-- Nothing but what the homes hold and know of their writes changed. -/
structure HomesOnly (s t : State) : Prop where
  eq : t = { s with
    mem := t.mem, lines := t.lines, ciphered := t.ciphered, loose := t.loose, wrote := t.wrote, poison := t.poison, writes := t.writes
    homeRel := t.homeRel, fillClk := t.fillClk, nextWrite := t.nextWrite }

theorem HomesOnly.refl (s : State) : HomesOnly s s := ⟨rfl⟩

theorem HomesOnly.trans (h : HomesOnly s t) (h' : HomesOnly t u) : HomesOnly s u := ⟨by rw [h'.eq, h.eq]⟩

theorem HomesOnly.ite (ht : HomesOnly s t) (hu : HomesOnly s u) : HomesOnly s (if p then t else u) := by
  split
  · exact ht
  · exact hu

theorem HomesOnly.foldl {α : Type} {f : State → α → State} (hf : ∀ s x, HomesOnly s (f s x)) (l : List α) : HomesOnly s (l.foldl f s) :=
  List.foldlRecOn _ _ (.refl s) fun u hu x _ => hu.trans (hf u x)

theorem homesOnly_putBytes (s : State) (agent a : Nat) (bs : List Byte) : HomesOnly s (putBytes s agent a bs) := ⟨rfl⟩

theorem homesOnly_spoil (s : State) (ranges : List (Nat × Nat)) : HomesOnly s (spoil s ranges) := ⟨rfl⟩

theorem homesOnly_markBad (s : State) (a n : Nat) : HomesOnly s (markBad s a n) := ⟨rfl⟩

theorem homesOnly_performWrite (s : State) (a : Nat) (bs : List Byte) (w : Writer) (rel : List RelEnd) (track : Bool) :
    HomesOnly s (performWrite s a bs w rel track) := ⟨rfl⟩

theorem homesOnly_rmwHome (s : State) (a : Nat) (bs : List Byte) (w : Writer) (track : Bool) (own : List RelEnd) : HomesOnly s (rmwHome s a bs w track own) := ⟨rfl⟩

theorem homesOnly_bringHome (s : State) (w : WriteRec) : HomesOnly s (bringHome s w) := by
  unfold bringHome
  extract_lets xs s₁ s₂ s₃
  have h₁ : HomesOnly s s₁ := .ite (homesOnly_putBytes _ _ _ _) (.foldl (fun _ _ => homesOnly_putBytes _ _ _ _) _)
  have h₂ : HomesOnly s s₂ := .ite h₁ (h₁.trans (homesOnly_spoil _ _))
  have h₃ : HomesOnly s s₃ := .ite (h₂.trans (homesOnly_markBad _ _ _)) h₂
  exact h₃.trans ⟨rfl⟩

theorem homesOnly_clearTileFlag (s : State) (w : WriteRec) (track : Bool) : HomesOnly s (clearTileFlag s w track) := by
  unfold clearTileFlag
  split
  · exact .refl s
  · next h _ =>
    have hfirst : HomesOnly s (headerFirst s w h) := .foldl (fun _ _ => homesOnly_bringHome _ _) _
    exact hfirst.trans (homesOnly_rmwHome _ _ _ _ _ _)

theorem homesOnly_homeWrite (s : State) (a : Nat) (bs : List Byte) (w : Writer) (rel : List RelEnd) : HomesOnly s (homeWrite s a bs w rel) :=
  (homesOnly_performWrite s a bs w rel false).trans (homesOnly_clearTileFlag _ _ _)

theorem homesOnly_rmwWrite (s : State) (a : Nat) (bs : List Byte) (w : Writer) (track : Bool) (own : List RelEnd) : HomesOnly s (rmwWrite s a bs w track own) :=
  (homesOnly_rmwHome s a bs w track own).trans (homesOnly_clearTileFlag _ _ _)

theorem homesOnly_arriveWrite (s : State) (num : Nat) : HomesOnly s (arriveWrite s num) := by
  unfold arriveWrite
  split
  · exact .refl s
  · exact (homesOnly_bringHome _ _).trans (homesOnly_clearTileFlag _ _ _)

theorem homesOnly_flushWrites (s : State) (c : Nat) (f : WriteRec → Bool) : HomesOnly s (flushWrites s c f) :=
  .foldl (fun _ _ => homesOnly_arriveWrite _ _) _

/-! ### A release of module scope (R141, R217) -/

/-- What a release leaves of a state: the messages, the cores, the crews, the chosen thread, and the sightings of the threads. -/
structure Releasing (s t : State) : Prop where
  messages : t.messages = s.messages
  cores : t.cores = s.cores
  crews : t.crews = s.crews
  cur : t.cur = s.cur
  sighting : ∀ j, (getThread t j).sighting = (getThread s j).sighting

theorem Releasing.refl (s : State) : Releasing s s := ⟨rfl, rfl, rfl, rfl, fun _ => rfl⟩

theorem Releasing.trans (h : Releasing s t) (h' : Releasing t u) : Releasing s u where
  messages := h'.messages.trans h.messages
  cores := h'.cores.trans h.cores
  crews := h'.crews.trans h.crews
  cur := h'.cur.trans h.cur
  sighting j := (h'.sighting j).trans (h.sighting j)

theorem HomesOnly.releasing (h : HomesOnly s t) : Releasing s t := by
  rw [h.eq]
  exact ⟨rfl, rfl, rfl, rfl, fun _ => rfl⟩

theorem releasing_deferTrap (s : State) (j agent : Nat) (cause : BitVec 8) (v : Word) : Releasing s (deferTrap s j agent cause v) := by
  unfold deferTrap
  extract_lets th
  split
  · refine ⟨rfl, rfl, rfl, rfl, fun i => ?_⟩
    by_cases hi : i = j
    · subst hi
      rw [getThread_setThread, ThreadState.addDeferred]
      split
      · rfl
      · rfl
    · rw [getThread_setThread_ne _ _ hi]
  · exact .refl s

theorem releasing_performPosted (s : State) (q : PostedStore) : Releasing s (performPosted s q) := by
  unfold performPosted performTask refuseStore
  split
  · split
    · exact ⟨rfl, rfl, rfl, rfl, fun _ => rfl⟩
    · exact ⟨rfl, rfl, rfl, rfl, fun _ => rfl⟩
  · extract_lets rest w
    have hrest : Releasing s rest := ⟨rfl, rfl, rfl, rfl, fun _ => rfl⟩
    split
    · split
      · exact hrest.trans (releasing_deferTrap _ _ _ _ _)
      · exact hrest
    · exact hrest.trans (homesOnly_homeWrite _ _ _ _ _).releasing

theorem releasing_releaseNow (s : State) (j : Nat) : Releasing s (releaseNow s j) := by
  have hcore : Releasing s (performCore s (tagCore j)) := List.foldlRecOn (motive := Releasing s) _ _ (.refl s) fun u hu q _ => by
    split
    · exact hu.trans (releasing_performPosted u q)
    · exact hu
  exact hcore.trans (homesOnly_flushWrites _ _ _).releasing

/-! ### The chosen thread stays chosen -/

theorem moving_cur (s : State) (r : RecordState) (phase : RecPhase) (reason : BitVec 8) : (moving s r phase reason).cur = s.cur :=
  moving_kept State.cur (fun _ _ => rfl) (fun _ _ => rfl) fun _ _ => rfl

theorem logWrite_cur (s : State) (e : LogEntry) : (logWrite s e).cur = s.cur := by
  dsimp only [logWrite, deviceWrite, putBytes]

theorem moveRecord_cur (s : State) (r : RecordState) (phase : RecPhase) (reason : BitVec 8) (index : BitVec 12) :
    (moveRecord s r phase reason index).cur = s.cur :=
  (moveRecord_kept State.cur (logAppend_kept State.cur (fun _ _ => rfl) logWrite_cur) fun _ _ => rfl).trans (moving_cur s r phase reason)

theorem holdBack_eq (s : State) (h : HeldStep) : ∃ l, holdBack s h = { s with helm := { s.helm with heldBack := l } } := by
  unfold holdBack
  split
  · exact ⟨s.helm.heldBack, rfl⟩
  · exact ⟨_, rfl⟩

theorem holdBack_cur (s : State) (h : HeldStep) : (holdBack s h).cur = s.cur := by
  obtain ⟨l, hl⟩ := holdBack_eq s h
  rw [hl]

theorem settleN_cur (fuel : Nat) : ∀ s : State, (settleN fuel s).cur = s.cur := by
  induction fuel with
  | zero => exact fun _ => rfl
  | succ fuel ih =>
    intro s
    rw [settleN]
    cases hf : firstPermitted s s.records with
    | none =>
      dsimp only
      split
      · rfl
      · refine List.foldlRecOn (motive := fun u : State => u.cur = s.cur) _ _ rfl fun u hu e _ => ?_
        split
        · exact (holdBack_cur u _).trans hu
        · exact hu
    | some v =>
      have hv : v.cur = s.cur := firstPermitted_keeps (P := fun u => u.cur = s.cur) (fun _ _ h => h)
        (fun _ _ => autoStep_keeps (P := fun u => u.cur = s.cur) (fun _ => rfl) (fun u x p e h _ => (moveRecord_cur u x p e _).trans h) rfl) v hf
      exact (ih v).trans hv

theorem moveSeq_cur (s : State) (q : Nat) (phase : RecPhase) (reason : BitVec 8) : (moveSeq s q phase reason).cur = s.cur := by
  unfold moveSeq
  split
  · split
    · rfl
    · exact (settleN_cur _ _).trans (moveRecord_cur _ _ _ _ _)
  · rfl

theorem joinEnd_eq (s : State) (q : Nat) (clk : Clock) : ∃ l, joinEnd s q clk = { s with records := l } := by
  unfold joinEnd
  split
  · exact ⟨_, rfl⟩
  · exact ⟨s.records, rfl⟩

theorem unhold_eq (s : State) (h : HeldStep) : ∃ l, unhold s h = { s with helm := { s.helm with heldBack := l } } := by
  unfold unhold
  split
  · exact ⟨s.helm.heldBack, rfl⟩
  · exact ⟨_, rfl⟩

theorem homesOnly_claimLine (s : State) (key n v : Nat) : HomesOnly s (claimLine s key n v) := ⟨by rw [claimLine_eq]⟩

theorem homesOnly_engineWriteAt (s : State) (o : BitVec 12) (w : Writer) (va : Word) (key : Nat) (cached : Bool) (bs : List Byte) :
    HomesOnly s (engineWriteAt s o w va key cached bs false) := by
  unfold engineWriteAt
  extract_lets v
  have hclaim : HomesOnly s v := homesOnly_claimLine _ _ _ _
  split
  · exact hclaim.trans ⟨rfl⟩
  · exact hclaim.trans (homesOnly_homeWrite _ _ _ _ _)

theorem homesOnly_ringWrite8 (s : State) (c : Nat) (o : BitVec 12) (agent : Nat) (clk : Clock) (va : Word) (bs : List Byte) :
    HomesOnly s (ringWrite8 s c o agent clk va bs) := by
  unfold ringWrite8
  split
  · exact homesOnly_engineWriteAt _ _ _ _ _ _ _
  · exact (homesOnly_engineWriteAt _ _ _ _ _ _ _).trans (homesOnly_arriveWrite _ _)
  · exact .refl s

theorem homesOnly_chartOr (s : State) (c : Nat) (v : Voyage) (i bit : Nat) : HomesOnly s (chartOr s c v i bit) := by
  unfold chartOr
  extract_lets va
  split
  · exact homesOnly_rmwWrite _ _ _ _ _ _
  · exact (homesOnly_flushWrites _ _ _).trans (homesOnly_rmwWrite _ _ _ _ _ _)
  · exact .refl s

theorem homesOnly_forgetBays (s : State) (c : Nat) : HomesOnly s (forgetBays s c) := by
  have hbays : HomesOnly s (scrambleBays s c) := .foldl (fun _ _ => ⟨rfl⟩) _
  exact hbays.trans ((homesOnly_spoil _ _).trans (homesOnly_putBytes _ _ _ _))

theorem HomesOnly.cur (h : HomesOnly s t) : t.cur = s.cur := by rw [h.eq]

theorem endVoyage_cur (s : State) (c : Nat) (v : Voyage) (error : Nat) (done : Bool) : (endVoyage s c v error done).cur = s.cur :=
  (homesOnly_forgetBays _ _).cur.trans (homesOnly_ringWrite8 s c _ _ _ _ _).cur

theorem countUp_cur (s : State) (c : Nat) (v : Voyage) (n : Nat) : (countUp s c v n).cur = s.cur := by
  unfold countUp
  extract_lets w done s₁ k s₂
  have h₂ : s₂.cur = s.cur := by
    show s₁.cur = s.cur
    unfold s₁
    split
    · exact endVoyage_cur _ _ _ _ _
    · rfl
  split
  · split
    · next q _ =>
      obtain ⟨l, hl⟩ := unhold_eq s₂ (.voyage c)
      obtain ⟨l', hl'⟩ := joinEnd_eq (unhold s₂ (.voyage c)) q w.clock
      rw [moveSeq_cur, hl', hl, h₂]
    · exact h₂
  · exact h₂

theorem countEntry_cur (s : State) (c : Nat) (v : Voyage) (i : Nat) : (countEntry s c v i).cur = s.cur := by
  unfold countEntry
  split
  · rfl
  · rw [countUp_cur]
    split
    · exact (homesOnly_chartOr _ _ _ _ _).cur.trans (homesOnly_chartOr _ _ _ _ _).cur
    · exact (homesOnly_chartOr _ _ _ _ _).cur

theorem countSaved_cur (s : State) (q : VoyageSave) (i : Nat) (clk : Clock) : (countSaved s q i clk).cur = s.cur := by
  unfold countSaved
  split
  · rfl
  · next e _ =>
    split
    · rfl
    · show (if e.again then _ else _ : State).cur = s.cur
      split
      · exact (homesOnly_chartOr _ _ _ _ _).cur.trans (homesOnly_chartOr _ _ _ _ _).cur
      · exact (homesOnly_chartOr _ _ _ _ _).cur

theorem countSighting_cur (s : State) (j : Nat) : (countSighting s j).cur = s.cur := by
  unfold countSighting
  split
  · rfl
  · dsimp only
    split
    · rw [apply_ite State.cur, countEntry_cur, ite_self]
    · refine List.foldlRecOn (motive := fun u : State => u.cur = s.cur) _ _ rfl fun u hu q _ => ?_
      split
      · exact (countSaved_cur u q _ _).trans hu
      · exact hu

/-! ### The end of a thread (R321) -/

/-- Items that the areas do not hold leave the areas as they are. -/
theorem pruneSpills_eq {keep : SpillItem → Bool} (h : ∀ e ∈ s.crews, ∀ i ∈ e.2.spilled, keep i = true) :
    pruneSpills s keep = { s with clusters := s.clusters.map fun e => (e.1, { e.2 with spill := e.2.spill.filter keep }) } := by
  refine List.foldlRecOn (motive := fun u : State => u = { s with clusters := s.clusters.map fun e => (e.1, { e.2 with spill := e.2.spill.filter keep }) })
    _ _ rfl fun u hu k _ => ?_
  unfold pruneArea
  split
  · exact hu
  · next w hw =>
    have hall : w.spilled.filter keep = w.spilled := by
      rw [hu] at hw
      exact List.filter_eq_self.mpr (h _ (AMap.mem_of_find hw))
    rw [hall]
    exact (if_pos rfl).trans hu

/-- What the discarding of items of the areas leaves of a state. -/
structure Discarding (s t : State) : Prop where
  messages : t.messages = s.messages
  threads : t.threads = s.threads
  cores : t.cores = s.cores

theorem Discarding.trans (h : Discarding s t) (h' : Discarding t u) : Discarding s u :=
  ⟨h'.messages.trans h.messages, h'.threads.trans h.threads, h'.cores.trans h.cores⟩

theorem areaWords_cores {crew c : Nat} {o : BitVec 12} (l : List Word) : ∀ (s : State) (va : Word), (areaWords s crew c o va l).cores = s.cores := by
  induction l with
  | nil => exact fun _ _ => rfl
  | cons v l ih =>
    intro s va
    rw [areaWords, ih]
    split
    · exact (Writing.refl s).areaWord.cores
    · unfold spillFailed crewEvent
      split
      · rfl
      · split
        · rfl
        · rfl

theorem discarding_pruneSpills (s : State) (keep : SpillItem → Bool) : Discarding s (pruneSpills s keep) := by
  refine List.foldlRecOn (motive := Discarding s) _ _ ⟨rfl, rfl, rfl⟩ fun u hu k _ => ?_
  unfold pruneArea
  split
  · exact hu
  · next w _ =>
    extract_lets left w'
    have harea := areaOnly_areaHeader (setCrew u k w') k w'
    split
    · exact hu
    · exact hu.trans ⟨harea.messages, harea.threads, areaWords_cores _ _ _⟩

theorem find_freeThread (s : State) (j : Nat) : AMap.find (freeThread s j).threads j = none := AMap.find_erase _ _

/-- A slot that becomes free: the messages for it and its responses are discarded, and nothing else stands behind. -/
theorem freeThread_discards (s : State) (j : Nat) :
    (freeThread s j).messages = s.messages.filter (fun m => !(m.accepted && m.target == j))
      ∧ (getCore (freeThread s j) (tagCore j)).responses = (getCore s (tagCore j)).responses.filter (fun q => q.tag != j)
      ∧ (freeThread s j).threads = AMap.erase s.threads j := by
  have h : Discarding { s with messages := s.messages.filter fun m => !(m.accepted && m.target == j) } (discardFor s j) := discarding_pruneSpills _ _
  have hthreads : (discardFor s j).threads = s.threads := h.threads
  have hcore : getCore (discardFor s j) (tagCore j) = getCore s (tagCore j) := by
    rw [getCore, h.cores]
    rfl
  have hown : getCore (freeThread s j) (tagCore j) = { getCore (discardFor s j) (tagCore j) with
      responses := (getCore (discardFor s j) (tagCore j)).responses.filter fun r => r.tag != j } := getCore_setCore _ _ _
  refine ⟨h.messages, by rw [hown, hcore], ?_⟩
  show AMap.erase (discardFor s j).threads j = _
  rw [hthreads]

theorem freeThread_sameMem {j : Nat} (h : ∀ e ∈ s.crews, ∀ q, SpillItem.message q ∈ e.2.spilled → q.target ≠ j) : SameMem s (freeThread s j) := by
  have heq : discardFor s j = _ := pruneSpills_eq (s := { s with messages := s.messages.filter fun m => !(m.accepted && m.target == j) }) fun e he i hi => by
    cases i with
    | message q => exact bne_iff_ne.mpr (h e he q hi)
    | spawn q => rfl
  intro a
  refine byteAt_congr (s := s) ?_ ?_ ?_ a
  · show (discardFor s j).mem = _
    rw [heq]
  · show (discardFor s j).loose = _
    rw [heq]
  · show (discardFor s j).fresh = _
    rw [heq]

/-- The state in which an exit's record has joined what its thread releases. -/
def exitJoined (s : State) : State := match getCrew s s.th.crew with | some w => joinEnd s w.record s.th.clock | none => s

/-- The state in which the sighting of a thread that exits is counted. -/
def exitCounted (s : State) : State := countSighting (exitJoined s) (exitJoined s).cur

theorem exitJoined_eq (s : State) : ∃ l, exitJoined s = { s with records := l } := by
  unfold exitJoined
  split
  · exact joinEnd_eq _ _ _
  · exact ⟨s.records, rfl⟩

theorem exitCounted_cur (s : State) : (exitCounted s).cur = s.cur := by
  obtain ⟨l, hl⟩ := exitJoined_eq s
  rw [exitCounted, countSighting_cur, hl]

/-- A thread without a sighting has none to count. -/
theorem exitCounted_eq (h : s.th.sighting = none) : ∃ l, exitCounted s = { s with records := l } := by
  obtain ⟨l, hl⟩ := exitJoined_eq s
  refine ⟨l, ?_⟩
  have hnone : exitCounts (getThread { s with records := l } s.cur) = none := by
    show exitCounts s.th = none
    rw [exitCounts, h]
  rw [exitCounted, hl, countSighting, hnone]

theorem exec_exit (hcan : canExit s s.cur = true) (hdone : releaseDone (released s) s.cur = true) :
    exec .exit s = .next (freeThread (exitCounted (released s)) s.cur) := by
  have hexec : exec .exit s = execExit s := rfl
  have hcur : (exitCounted (released s)).cur = s.cur := (exitCounted_cur _).trans (releasing_releaseNow s s.cur).cur
  have hgo : execExit s = .next (freeThread (exitCounted (released s)) (exitCounted (released s)).cur) := by
    rw [execExit, if_pos hcan]
    exact if_pos hdone
  rw [hexec, hgo, hcur]

/-- What the exit of a thread without a sighting leaves, beside its slot. -/
theorem exit_discards (hnone : s.th.sighting = none) :
    (freeThread (exitCounted (released s)) s.cur).messages = s.messages.filter (fun m => !(m.accepted && m.target == s.cur))
      ∧ (getCore (freeThread (exitCounted (released s)) s.cur) (tagCore s.cur)).responses
        = (getCore s (tagCore s.cur)).responses.filter (fun q => q.tag != s.cur)
      ∧ (freeThread (exitCounted (released s)) s.cur).threads = AMap.erase (released s).threads s.cur
      ∧ ((∀ q, SpillItem.message q ∈ allSpilled s → q.target ≠ s.cur) → SameMem (released s) (freeThread (exitCounted (released s)) s.cur)) := by
  have hrel := releasing_releaseNow s s.cur
  have hsight : (released s).th.sighting = none := by
    show (getThread (released s) (released s).cur).sighting = none
    rw [hrel.cur, hrel.sighting]
    exact hnone
  obtain ⟨l, hl⟩ := exitCounted_eq hsight
  obtain ⟨hmessages, hresponses, hthreads⟩ := freeThread_discards (exitCounted (released s)) s.cur
  have hcore : getCore (exitCounted (released s)) (tagCore s.cur) = getCore s (tagCore s.cur) := by
    rw [hl]
    show AMap.getD (released s).cores (tagCore s.cur) {} = _
    rw [hrel.cores]
    rfl
  refine ⟨?_, by rw [hresponses, hcore], ?_, fun hspills a => ?_⟩
  · rw [hmessages, hl]
    show (released s).messages.filter _ = _
    rw [hrel.messages]
  · rw [hthreads, hl]
  · refine (freeThread_sameMem (s := exitCounted (released s)) (fun e he q hq => hspills q ?_) a).trans ?_
    · rw [hl] at he
      have he' : e ∈ s.crews := hrel.crews ▸ he
      exact List.mem_append_right _ (List.mem_flatMap.mpr ⟨e, he', hq⟩)
    · rw [hl]
      rfl

theorem exec_exit_waits (hcan : canExit s s.cur = true) (hdone : releaseDone (released s) s.cur = false) : exec .exit s = (released s).forfeit := by
  have hexec : exec .exit s = execExit s := rfl
  rw [hexec, execExit, if_pos hcan, State.afterRelease]
  dsimp only
  rw [if_neg (by rw [hdone]; exact Bool.false_ne_true)]

/-! ### A trap inside a handler (R106) -/

theorem takeTrap_handler {j : Nat} {cause : BitVec 8} {v epc : Word} {w : Crew} (hih : (getThread s j).ih = true)
    (hw : getCrew s (getThread s j).crew = some w) : takeTrap s j cause v epc = abortLaunch s (getThread s j).crew := by
  rw [takeTrap, if_pos hih, hw]

theorem takeTrap_outside {j : Nat} {cause : BitVec 8} {v epc : Word} (hih : (getThread s j).ih = false) :
    takeTrap s j cause v epc = setThread s j ((getThread s j).enterTrap cause v epc) := by
  rw [takeTrap, hih, if_neg Bool.false_ne_true]

/-- The threads of a crew that halts stop. -/
theorem stopped_haltCrew {j : Nat} (hlive : (getThread s j).live = true) (hcrew : (getThread s j).crew = c) : (getThread (haltCrew s c) j).stopped = true := by
  have hfind : AMap.find (haltCrew s c).threads j = some { getThread s j with stopped := true } := by
    rw [haltCrew, AMap.find_map _ (fun e => by dsimp only; split <;> rfl), find_of_live hlive]
    simp [hlive, hcrew]
  rw [getThread, AMap.getD_of_find hfind]

section

variable {w : Crew} {r : RecordState} {k : Nat}

/-- A handler's trap that may end its launch at once: the launch ends faulted, and its crew stops. -/
theorem abortLaunch_ends (hw : getCrew s k = some w) (hr : AMap.find s.records w.record = some r) (hfinal : r.phase.final = false) (hend : r.ending = none)
    (hmay : mayChange s (.handler k) = true) :
    ∃ q, AMap.find (abortLaunch s k).records w.record = some q ∧ q.ending = some (.faulted, 0x20)
      ∧ ∀ j, (getThread s j).live = true → (getThread s j).crew = k → (getThread (abortLaunch s k) j).stopped = true := by
  obtain ⟨l, hl⟩ := unhold_eq s (.handler k)
  have hr' : AMap.find (unhold s (.handler k)).records w.record = some r := by rw [hl]; exact hr
  obtain ⟨q, hq, hqend⟩ := stopRecord_ending (phase := .faulted) (reason := 0x20) hr' hfinal hend
  have habort : abortLaunch s k = stopRecord (unhold s (.handler k)) w.record .faulted 0x20 := by
    rw [abortLaunch, hw]
    exact if_pos hmay
  rw [habort]
  refine ⟨q, hq, hqend, fun j hlive hcrew => (halted_stopRecord hr' hfinal).thread j w ?_ ?_ rfl⟩
  · rw [hl]
    exact hlive
  · rw [hl]
    exact (congrArg (getCrew s) hcrew).trans hw

/-- One that has no place to wait: its crew stops, and its launch ends later (R41). -/
theorem abortLaunch_waits (hw : getCrew s k = some w) (hmay : mayChange s (.handler k) = false) :
    (abortLaunch s k).records = s.records
      ∧ ∀ j, (getThread s j).live = true → (getThread s j).crew = k → (getThread (abortLaunch s k) j).stopped = true := by
  obtain ⟨l, hl⟩ := holdBack_eq (haltCrew s k) (.handler k)
  have habort : abortLaunch s k = holdBack (haltCrew s k) (.handler k) := by
    rw [abortLaunch, hw]
    exact if_neg (by rw [hmay]; exact Bool.false_ne_true)
  rw [habort, hl]
  exact ⟨rfl, fun j hlive hcrew => stopped_haltCrew hlive hcrew⟩

end

theorem exec_trap (a : Reg) : exec (.trap a) s = .next (takeTrap s s.cur 0x08 (s.x a) s.th.pc) := rfl

/-! ### Deferred traps and crew events (R105, R107) -/

/-- A wait that is withdrawn changes no thread and no byte. -/
theorem withdraw_eq (s : State) (j : Nat) : ∃ d m p c, withdraw s j = { s with dies := d, messages := m, spawns := p, cores := c } := by
  unfold withdraw forgetWaiters
  extract_lets keep v
  split
  · exact ⟨_, _, s.spawns, s.cores, rfl⟩
  · exact ⟨_, s.messages, _, s.cores, rfl⟩
  · exact ⟨_, s.messages, s.spawns, _, rfl⟩
  · exact ⟨_, s.messages, s.spawns, s.cores, rfl⟩

theorem ih_of_canTakeDeferred {j : Nat} (h : canTakeDeferred s j = true) : (getThread s j).ih = false := by
  simp only [canTakeDeferred, Bool.and_eq_true, Bool.not_eq_true'] at h
  tauto

theorem exec_deferredTrap {d : Deferred} {rest : List Deferred} (hcan : canTakeDeferred s s.cur = true) (hdef : s.th.deferred = d :: rest) :
    exec (.deferredTrap s.cur) s = .next (s.setTh ({ s.th with deferred := rest }.enterTrap d.cause d.tval s.th.pc)) := by
  have hexec : exec (.deferredTrap s.cur) s = execDeferredTrap s.cur s := rfl
  have hdef' : (getThread s s.cur).deferred = d :: rest := hdef
  have hih : (getThread (setThread s s.cur { getThread s s.cur with deferred := rest }) s.cur).ih = false := by
    rw [getThread_setThread]
    exact ih_of_canTakeDeferred hcan
  rw [hexec, execDeferredTrap, if_pos hcan]
  dsimp only
  rw [hdef']
  dsimp only
  rw [takeTrap_outside hih, getThread_setThread, setThread, setThread, AMap.set_set]
  rfl

theorem ih_of_canTakeEvent {th : ThreadState} (h : canTakeEvent th = true) : th.ih = false := by
  simp only [canTakeEvent, Bool.and_eq_true, Bool.not_eq_true'] at h
  tauto

section

variable {crew j : Nat} {w : Crew} {v : Word}

theorem exec_crewEvent_0B (hw : getCrew s crew = some w) (ht : eventThread s crew = some j) (hrun : w.phase = .running)
    (hcan : canTakeEvent (getThread s j) = true) (hb : w.event0B = some v) :
    exec (.crewEvent crew) s = .next (takeTrap (setCrew (withdraw s j) crew { w with event0B := none }) j 0x0B v (getThread s j).pc) := by
  have hexec : exec (.crewEvent crew) s = execCrewEvent crew s := rfl
  rw [hexec, execCrewEvent, hw, ht]
  dsimp only
  rw [if_pos (by simp [hrun, hcan]), hb]

theorem exec_crewEvent_0A (hw : getCrew s crew = some w) (ht : eventThread s crew = some j) (hrun : w.phase = .running)
    (hcan : canTakeEvent (getThread s j) = true) (hb : w.event0B = none) (ha : w.event0A = some v) :
    exec (.crewEvent crew) s = .next (takeTrap (setCrew (withdraw s j) crew { w with event0A := none }) j 0x0A v (getThread s j).pc) := by
  have hexec : exec (.crewEvent crew) s = execCrewEvent crew s := rfl
  rw [hexec, execCrewEvent, hw, ht]
  dsimp only
  rw [if_pos (by simp [hrun, hcan]), ha]
  generalize { w with event0A := none } = w'
  rw [hb]

/-- What the trap of an event leaves. -/
theorem takeTrap_event (hcan : canTakeEvent (getThread s j) = true) (w' : Crew) (cause : BitVec 8) (v : Word) :
    getThread (takeTrap (setCrew (withdraw s j) crew w') j cause v (getThread s j).pc) j = (getThread s j).enterTrap cause v (getThread s j).pc
      ∧ getCrew (takeTrap (setCrew (withdraw s j) crew w') j cause v (getThread s j).pc) crew = some w'
      ∧ SameMem s (takeTrap (setCrew (withdraw s j) crew w') j cause v (getThread s j).pc)
      ∧ ∀ i, i ≠ j → getThread (takeTrap (setCrew (withdraw s j) crew w') j cause v (getThread s j).pc) i = getThread s i := by
  obtain ⟨d, m, p, c, heq⟩ := withdraw_eq s j
  have hth : getThread (setCrew (withdraw s j) crew w') j = getThread s j := by rw [heq]; rfl
  rw [takeTrap_outside (by rw [hth]; exact ih_of_canTakeEvent hcan), hth, heq]
  exact ⟨getThread_setThread _ _ _, getCrew_setCrew _ _ _, fun _ => rfl, fun i hi => getThread_setThread_ne _ _ hi⟩

end

/-! ### A thread that parks (R323) -/

/-- An exit that must wait parks its thread; only a place in the order of state changes may be taken beside. -/
theorem exec_exit_parks (hcan : canExit s s.cur = false) :
    ∃ l, exec .exit s = .next ({ s with helm := { s.helm with heldBack := l } }.setTh { s.th with park := .exiting })
      ∧ (exitHeld s s.cur = false → l = s.helm.heldBack) := by
  have hexec : exec .exit s = (if exitHeld s s.cur then holdBack s (.voyage (tagCluster s.cur)) else s).parkOn .exiting :=
    if_neg (by rw [hcan]; exact Bool.false_ne_true)
  by_cases hheld : exitHeld s s.cur = true
  · obtain ⟨l, hl⟩ := holdBack_eq s (.voyage (tagCluster s.cur))
    rw [hexec, if_pos hheld, hl]
    exact ⟨l, rfl, fun h => absurd (h.symm.trans hheld) Bool.false_ne_true⟩
  · rw [hexec, if_neg hheld]
    exact ⟨s.helm.heldBack, rfl, fun _ => rfl⟩

theorem fullBits_ne_zero {th : ThreadState} : th.fullBits ≠ 0 ↔ ∃ i, i < 8 ∧ (AMap.find th.m i).isSome = true := by
  rw [ThreadState.fullBits, ne_eq, List.sum_eq_zero_iff]
  simp only [List.mem_map, mem_rangeFrom]
  constructor
  · intro h
    by_contra hnone
    refine h fun x hx => ?_
    obtain ⟨i, ⟨-, hi⟩, rfl⟩ := hx
    exact if_neg fun hi' => hnone ⟨i, by omega, hi'⟩
  · rintro ⟨i, hi, hfull⟩ hzero
    have h := hzero _ ⟨i, ⟨Nat.zero_le i, by omega⟩, rfl⟩
    rw [if_pos hfull] at h
    exact absurd h (Nat.two_pow_pos i).ne'

theorem exec_park_awake (h : (∃ i, i < 8 ∧ (AMap.find s.th.m i).isSome = true) ∨ s.th.deferred ≠ [] ∨ eventPending s s.cur = true) :
    exec .park s = .next (s.setTh { s.th.advance with park := .none }) := by
  rw [← fullBits_ne_zero] at h
  exact if_pos (by simpa [or_assoc] using h)

theorem exec_park_waits (h : ¬((∃ i, i < 8 ∧ (AMap.find s.th.m i).isSome = true) ∨ s.th.deferred ≠ [] ∨ eventPending s s.cur = true)) :
    exec .park s = .next (s.setTh { s.th with park := .anyMessage }) := by
  rw [← fullBits_ne_zero] at h
  exact if_neg (by simpa [or_assoc] using h)

end

end Sys2Proof.Machine

namespace Sys2Proof

open Sys2Proof.Machine Sys2Proof.Safety

/-- Settles O25: an exit releases what its core wrote (`releasing_releaseNow`) and frees its slot (`freeThread_discards`); the rest is one trap or one wait each. -/
theorem parkExitAndDeferredTraps : Obligations.ParkExitAndDeferredTraps := by
  unfold Obligations.ParkExitAndDeferredTraps
  constructor
  · intro s a crew r k awake Stopped u
    refine ⟨fun h => ⟨_, exec_park_awake h, getThread_setThread _ _ _, onlyThread_setTh _ _⟩,
      fun h => ⟨_, exec_park_waits h, getThread_setThread _ _ _, onlyThread_setTh _ _⟩,
      fun hcan hdone => ⟨_, exec_exit hcan hdone, find_freeThread _ _, exit_discards⟩,
      fun hcan hdone => ⟨_, exec_exit_waits hcan hdone, getThread_setThread _ _ _, onlyThread_setTh _ _⟩, fun hcan => ?_,
      fun hih hw hr hfinal hend => ⟨fun hmay => ?_, fun hmay => ?_⟩⟩
    · obtain ⟨hb, hheld, hfree⟩ := exec_exit_parks hcan
      exact ⟨_, hheld, getThread_setThread _ _ _, fun j hj => getThread_setThread_ne _ _ hj, fun _ => rfl, fun hno => by
        rw [hfree hno]
        exact onlyThread_setTh _ _⟩
    · obtain ⟨q, hends⟩ := abortLaunch_ends hw hr hfinal hend hmay
      rw [exec_trap, takeTrap_handler hih hw]
      exact ⟨_, q, rfl, hends⟩
    · rw [exec_trap, takeTrap_handler hih hw]
      exact ⟨_, rfl, abortLaunch_waits hw hmay⟩
  · intro s d rest crew t w v th u Enters
    refine ⟨fun hcan hdef => ?_, fun hw ht hrun hcan => ⟨fun hb => ?_, fun hb ha => ?_⟩⟩
    · rw [exec_deferredTrap hcan hdef]
      exact ⟨_, rfl, onlyThread_setTh _ _, getThread_setThread _ _ _⟩
    · exact ⟨_, exec_crewEvent_0B hw ht hrun hcan hb, takeTrap_event hcan { w with event0B := none } 0x0B v⟩
    · exact ⟨_, exec_crewEvent_0A hw ht hrun hcan hb ha, takeTrap_event hcan { w with event0A := none } 0x0A v⟩

end Sys2Proof
end

section
/-! ## Images that load, move, freeze and go (R115, R181, R199–R207, R371) -/

namespace Sys2Proof.Machine

open Safety

section

variable {s t : State} {c e n seq : Nat} {fid : BitVec 12} {i : Image} {p : Placed} {l : ImageLoad} {raw : Raw} {m : CallReq}

/-! ### The images of a cluster -/

/-- Where nothing else meets a condition, what is set under a key is what is found. -/
theorem find_set_only {α : Type} {m : AMap α} {q : Nat × α → Bool} {k : Nat} {v : α} (hnone : ∀ x ∈ m, q x = false) (hv : q (k, v) = true) :
    (AMap.set m k v).find? q = some (k, v) := by
  have hmem : (k, v) ∈ AMap.set m k v := AMap.mem_of_find (AMap.find_set_self m k v)
  cases hf : (AMap.set m k v).find? q with
  | none => exact absurd hv (List.find?_eq_none.mp hf _ hmem)
  | some x =>
    rcases AMap.mem_set (List.mem_of_find?_eq_some hf) with rfl | hx
    · rfl
    · exact absurd (List.find?_some hf) (by rw [hnone x hx]; exact Bool.false_ne_true)

theorem resident_fid (h : resident s c fid = some (e, i)) : i.fid = fid := by simpa using List.find?_some h

theorem not_resident (h : resident s c fid = none) : ∀ x ∈ (getCluster s c).images, (x.2.fid == fid) = false := fun x hx => by
  simpa using List.find?_eq_none.mp h x hx

theorem resident_congr (h : (getCluster t c).images = (getCluster s c).images) : resident t c fid = resident s c fid := by
  rw [resident, h, resident]

/-- An image that goes leaves the others, but for those that are to be evicted. -/
theorem getCluster_dropImage (s : State) (c : Nat) (fid : BitVec 12) : ∃ q l, getCluster (dropImage s c fid) c
    = { getCluster s c with images := ((getCluster s c).images.filter fun e => e.2.fid != fid).filter q, loads := (getCluster s c).loads.map l }
      ∧ ∀ e, e.2.evPend = false → q e = true := by
  obtain ⟨q, l, hget, hq, -⟩ := getCluster_setServers s c { getCluster s c with images := (getCluster s c).images.filter fun e => e.2.fid != fid }
  refine ⟨q, l, ?_, hq⟩
  unfold dropImage
  split
  · exact hget
  · exact hget

theorem not_resident_dropImage (s : State) (c : Nat) (fid : BitVec 12) : resident (dropImage s c fid) c fid = none := by
  obtain ⟨q, l, hget, -⟩ := getCluster_dropImage s c fid
  rw [resident, hget, List.find?_eq_none]
  intro x hx
  have hne := (List.mem_filter.mp (List.mem_filter.mp hx).1).2
  simpa using hne

theorem resident_dropImage_ne (hstay : ∀ w ∈ (getCluster s c).images, w.2.evPend = false) {g : BitVec 12} (hg : g ≠ fid) :
    resident (dropImage s c fid) c g = resident s c g := by
  obtain ⟨q, l, hget, hq⟩ := getCluster_dropImage s c fid
  have hall : ((getCluster s c).images.filter fun e => e.2.fid != fid).filter q = (getCluster s c).images.filter fun e => e.2.fid != fid :=
    List.filter_eq_self.mpr fun x hx => hq x (hstay x (List.mem_filter.mp hx).1)
  rw [resident, hget, hall, List.find?_filter, resident]
  refine List.find?_congr fun x _ => ?_
  by_cases hx : x.2.fid = g
  · simp [hx, hg]
  · simp [hx]

/-- With no image to evict the going image's cells are left, and no others. -/
theorem dropImage_of_stay (hi : resident s c fid = some (e, i)) (hstay : ∀ w ∈ (getCluster s c).images, w.2.evPend = false) :
    ∃ cl, dropImage s c fid = leaveCells (setCluster s c cl) c i.h0 i.copies := by
  obtain ⟨l, hl⟩ := setServers_of_stay s c (new := { getCluster s c with images := (getCluster s c).images.filter fun e => e.2.fid != fid })
    fun x hx => hstay x (List.mem_filter.mp hx).1
  rw [dropImage, hi, setImages, hl]
  exact ⟨_, rfl⟩

/-! ### Cells that an image has left (R202) -/

/-- A byte of an image's memory cells. -/
def InCells (c : Nat) (i : Image) (x : Nat) : Prop :=
  ∃ p ∈ i.copies, ∃ k ∈ p.memCells i.h0, cellKey c p.server k 0 ≤ x ∧ x < cellKey c p.server k 0 + 8192

theorem inStretch_spoiled (rs l : List (Nat × Nat)) (x : Nat) :
    inStretch (rs.foldl (fun l r => (r.1, r.2) :: cutRange l r.1 r.2) l) x = (inStretch l x || inStretch rs x) := by
  induction rs generalizing l with
  | nil => simp [inStretch]
  | cons r rs ih =>
    have hcons : inStretch ((r.1, r.2) :: cutRange l r.1 r.2) x = (decide (r.1 ≤ x) && decide (x < r.1 + r.2) || inStretch (cutRange l r.1 r.2) x) := rfl
    have hrest : inStretch (r :: rs) x = (decide (r.1 ≤ x) && decide (x < r.1 + r.2) || inStretch rs x) := rfl
    rw [List.foldl_cons, ih, hcons, hrest, inStretch_cutRange]
    cases decide (r.1 ≤ x) && decide (x < r.1 + r.2) <;> cases inStretch l x <;> rfl

theorem inStretch_leaveCells (s : State) (c : Nat) (i : Image) (x : Nat) :
    inStretch (leaveCells s c i.h0 i.copies).loose x = true ↔ InCells c i x ∨ inStretch s.loose x = true := by
  have hspoiled : (leaveCells s c i.h0 i.copies).loose = (i.copies.flatMap fun p => (p.memCells i.h0).map fun n => (cellKey c p.server n 0, 8192)).foldl
    (fun l r => (r.1, r.2) :: cutRange l r.1 r.2) s.loose := rfl
  rw [hspoiled, inStretch_spoiled, Bool.or_eq_true, or_comm]
  refine or_congr_left ?_
  simp only [inStretch, InCells, List.any_eq_true, List.mem_flatMap, List.mem_map, Bool.and_eq_true, decide_eq_true_eq]
  constructor
  · rintro ⟨r, ⟨p, hp, k, hk, rfl⟩, hx⟩
    exact ⟨p, hp, k, hk, hx⟩
  · rintro ⟨p, hp, k, hk, hx⟩
    exact ⟨_, ⟨p, hp, k, hk, rfl⟩, hx⟩

theorem byteAt_leaveCells {x : Nat} (hx : ¬ InCells c i x) : (leaveCells s c i.h0 i.copies).byteAt x = s.byteAt x := by
  have hloose : inStretch (leaveCells s c i.h0 i.copies).loose x = inStretch s.loose x := by
    rw [Bool.eq_iff_iff, inStretch_leaveCells]
    exact or_iff_right hx
  rw [State.byteAt, hloose]
  rfl

/-! ### What cells are given -/

theorem writeCells_kept (r : Raw) (s : State) (c : Nat) (p : Placed) : (r.writeCells s c p).clusters = s.clusters ∧ (r.writeCells s c p).threads = s.threads :=
  List.foldlRecOn (motive := fun u : State => u.clusters = s.clusters ∧ u.threads = s.threads) _ _ ⟨rfl, rfl⟩ fun _ h _ _ => h

theorem foldl_writeCells_kept (r : Raw) (c : Nat) (ps : List Placed) (s : State) :
    (ps.foldl (fun s p => r.writeCells s c p) s).clusters = s.clusters ∧ (ps.foldl (fun s p => r.writeCells s c p) s).threads = s.threads :=
  List.foldlRecOn (motive := fun u : State => u.clusters = s.clusters ∧ u.threads = s.threads) _ _ ⟨rfl, rfl⟩ fun u h p _ =>
    ⟨(writeCells_kept r u c p).1.trans h.1, (writeCells_kept r u c p).2.trans h.2⟩

theorem putContents_kept (s : State) (c : Nat) (i : Image) (p : Placed) (cs : List Region) :
    (putContents s c i p cs).clusters = s.clusters ∧ (putContents s c i p cs).threads = s.threads ∧ (putContents s c i p cs).frozen = s.frozen :=
  List.foldlRecOn (motive := fun u : State => u.clusters = s.clusters ∧ u.threads = s.threads ∧ u.frozen = s.frozen) _ _ ⟨rfl, rfl, rfl⟩ fun _ h _ _ => h

theorem enterCalls_none (h : (getCluster s c).misses = []) : enterCalls s c = s := by
  rw [enterCalls, h]
  rfl

/-! ### A load (R181, R199, R371) -/

/-- What a load that a call asked for becomes once its image is read. -/
def loadRead (s : State) (c : Nat) (fid : BitVec 12) (l : ImageLoad) (raw : Raw) : State :=
  setCluster (dropLoad s c fid) c { getCluster (dropLoad s c fid) c with
    loads := (getCluster (dropLoad s c fid) c).loads ++ [{ l with words := raw.ws, outcome := some 0, began := s.board.clk }] }

/-- The clock of a load's reader: the pilot's, and those of the calls that wait. -/
def loadClock (s : State) (c : Nat) (fid : BitVec 12) : Clock :=
  ((getCluster s c).misses.filter fun m => m.fid == fid).foldl (fun k m => Clock.join k m.clock) (pilotClock s)

theorem exec_imageLoad_good (hdue : dueLoad s c fid = some l) (hfew : startedLoads (getCluster s c) < 4) (hrec : l.record = none)
    (hhome : allHome s (loadClock s c fid) = true) (hread : readImage s c (serverOwner s c) (loadClock s c fid) fid = .inl raw) :
    exec (.imageLoad c fid) s = .next (loadRead s c fid l raw) := by
  have hexec : exec (.imageLoad c fid) s = execImageLoad c fid s := rfl
  rw [loadClock] at hhome hread
  rw [hexec, execImageLoad, hdue]
  dsimp only
  rw [if_neg (by rw [hhome]; simp [hfew]), hread]
  dsimp only
  split
  · next q hq => exact nomatch hrec.symm.trans hq
  · rfl

theorem exec_imageLoad_bad {code : BitVec 4} (hdue : dueLoad s c fid = some l) (hfew : startedLoads (getCluster s c) < 4) (hrec : l.record = none)
    (hhome : allHome s (loadClock s c fid) = true) (hread : readImage s c (serverOwner s c) (loadClock s c fid) fid = .inr code) :
    exec (.imageLoad c fid) s = .next (failCalls (dropLoad (reportImage s c (serverOwner s c) fid) c l.fid) c l.fid code) := by
  have hexec : exec (.imageLoad c fid) s = execImageLoad c fid s := rfl
  rw [loadClock] at hhome hread
  rw [hexec, execImageLoad, hdue]
  dsimp only
  rw [if_neg (by rw [hhome]; simp [hfew]), hread]
  dsimp only
  rw [hrec]
  dsimp only
  rw [failLoad, hrec]

theorem reportWalk_eq (s : State) (o : BitVec 12) (va : Word) : ∃ b, reportWalk s o va = { s with board := b } := by
  rw [reportWalk]
  cases walk s (getOwner s o).root va with
  | poisoned a => exact ⟨_, rfl⟩
  | leaf _ _ => exact ⟨s.board, rfl⟩
  | pageFault _ => exact ⟨s.board, rfl⟩
  | accessFault => exact ⟨s.board, rfl⟩

theorem reportWalks_eq (s : State) (o : BitVec 12) (va : Word) (n : Nat) : ∃ b, reportWalks s o va n = { s with board := b } :=
  List.foldlRecOn (motive := fun u : State => ∃ b, u = { s with board := b }) _ _ ⟨s.board, rfl⟩ fun u ⟨b, hb⟩ k _ => by
    obtain ⟨b', hb'⟩ := reportWalk_eq u o (va + BitVec.ofNat 64 (65536 * k))
    exact ⟨b', by rw [hb', hb]⟩

/-- A report changes nothing but the board. -/
theorem reportImage_eq (s : State) (c : Nat) (o : BitVec 12) (fid : BitVec 12) : ∃ b, reportImage s c o fid = { s with board := b } := by
  unfold reportImage
  extract_lets va u
  obtain ⟨b, hb⟩ : ∃ b, u = { s with board := b } := reportWalk_eq s o va
  split
  · split
    · next e0 _ _ _ hs _ =>
      obtain ⟨b', hb'⟩ := reportWalks_eq u o e0 (Nat.min (Raw.length ⟨fid, hs⟩) 0x90000)
      exact ⟨b', by rw [hb', hb]⟩
    · next e0 _ _ _ _ =>
      obtain ⟨b', hb'⟩ := reportWalk_eq u o e0
      exact ⟨b', by rw [hb', hb]⟩
  · exact ⟨b, hb⟩

/-- A waiting call outside a handler is poisoned: its thread enters its trap. -/
theorem poisonCall_traps {tag : Nat} {code : BitVec 4} (hwaits : callerWaits s tag = true) (hih : (getThread s tag).ih = false) (hcode : code = 4 ∨ code = 5) :
    poisonCall s tag code 0 = setThread s tag ((getThread s tag).enterTrap 0x05 (BitVec.ofNat 64 (code.toNat * 2 ^ 60)) (getThread s tag).pc) := by
  have hoff : ¬(code = 1 ∨ code = 2 ∨ code = 6) := by rcases hcode with rfl | rfl <;> decide
  have hih' : (getThread (setThread s tag { getThread s tag with park := .none }) tag).ih = false := by
    rw [getThread_setThread]
    exact hih
  rw [poisonCall, if_pos hwaits]
  extract_lets a
  have ha : a = 0 := if_neg hoff
  rw [ha, Nat.add_zero, takeTrap_outside hih', getThread_setThread, setThread, setThread, AMap.set_set]
  rfl

/-- The one waiting call of a load that failed traps, and leaves the miss list. -/
theorem failCalls_one {code : BitVec 4} (hmiss : (getCluster s c).misses = [m]) (hm : m.fid = fid) (hstay : ∀ w ∈ (getCluster s c).images, w.2.evPend = false)
    (hwaits : callerWaits s m.tag = true) (hih : (getThread s m.tag).ih = false) (hcode : code = 4 ∨ code = 5) :
    ∃ cl, cl.misses = [] ∧ failCalls s c fid code = setThread (setCluster s c cl) m.tag
      ((getThread s m.tag).enterTrap 0x05 (BitVec.ofNat 64 (code.toNat * 2 ^ 60)) (getThread s m.tag).pc) := by
  have hwaiting : (getCluster s c).misses.filter (fun m => m.fid == fid) = [m] := by rw [hmiss]; simp [hm]
  have hleft : (getCluster s c).misses.filter (fun m => m.fid != fid) = [] := by rw [hmiss]; simp [hm]
  obtain ⟨l, hl⟩ := setServers_of_stay s c (new := { getCluster s c with misses := (getCluster s c).misses.filter fun m => m.fid != fid }) hstay
  have htrap := poisonCall_traps (s := setCluster s c { getCluster s c with misses := (getCluster s c).misses.filter fun m => m.fid != fid, loads := l })
    hwaits hih hcode
  exact ⟨_, hleft, by rw [failCalls, hwaiting, hl]; exact htrap⟩

/-! ### An image is placed (R199, R203) -/

theorem install_stands {r : Raw} (hmiss : (getCluster s c).misses = []) (hfid : i.fid = l.fid) (hnone : resident s c l.fid = none) :
    resident (install s c r l n i) c l.fid = some (n, i) ∧ (∀ x ∈ (getCluster (install s c r l n i) c).loads, x.fid ≠ l.fid)
      ∧ (install s c r l n i).threads = s.threads := by
  let u := i.copies.foldl (fun s p => r.writeCells s c p) s
  obtain ⟨hclusters, hthreads⟩ : u.clusters = s.clusters ∧ u.threads = s.threads := foldl_writeCells_kept r c i.copies s
  have hget : getCluster u c = getCluster s c := by rw [getCluster, hclusters]; rfl
  have hdrop : getCluster (dropLoad u c l.fid) c = { getCluster s c with loads := (getCluster s c).loads.filter fun x => x.fid != l.fid } := by
    rw [dropLoad, getCluster_setCluster, hget]
  obtain ⟨v, hv⟩ : ∃ v : State, v = { dropLoad u c l.fid with nextAgent := (dropLoad u c l.fid).nextAgent + 1 } := ⟨_, rfl⟩
  have hvcl : getCluster v c = { getCluster s c with loads := (getCluster s c).loads.filter fun x => x.fid != l.fid } := by rw [hv]; exact hdrop
  have hvth : v.threads = s.threads := by rw [hv]; exact hthreads
  have hput := getCluster_setCluster v c { getCluster v c with images := AMap.set (getCluster v c).images n i, gens := AMap.set (getCluster v c).gens l.fid.toNat i.gen }
  have hinstall : install s c r l n i
      = setCluster v c { getCluster v c with images := AMap.set (getCluster v c).images n i, gens := AMap.set (getCluster v c).gens l.fid.toNat i.gen } := by
    rw [hv]
    refine enterCalls_none ?_
    rw [getCluster_setCluster]
    show (getCluster (dropLoad u c l.fid) c).misses = []
    rw [hdrop, hmiss]
  rw [hinstall]
  refine ⟨?_, fun x hx => ?_, hvth⟩
  · rw [resident, hput, hvcl]
    exact find_set_only (not_resident hnone) (by simp [hfid])
  · rw [hput, hvcl] at hx
    simpa using (List.mem_filter.mp hx).2

theorem exec_imageLoadComplete {at_ : List (Nat × Nat)} (hl : startedLoad s c fid = some l) (hfid : l.fid = fid) (hnone : resident s c fid = none)
    (hhost : hostPlaces s c = false) (hrec : l.record = none)
    (hpick : pick (loadPlaces s c ⟨fid, l.words⟩ l) (s.choose 20 (loadPlaces s c ⟨fid, l.words⟩ l).length) = some at_) (hfree : freeEntry (getCluster s c) = some n) :
    exec (.imageLoadComplete c fid) s = .next (install s c ⟨fid, l.words⟩ l n (newImage s c ⟨fid, l.words⟩ l at_)) := by
  have hexec : exec (.imageLoadComplete c fid) s = execImageLoadComplete c fid s := rfl
  have hreplaced : replaced s c l = some s := by rw [replaced, hfid, hnone]
  rw [hexec, execImageLoadComplete, hl]
  dsimp only
  rw [hreplaced]
  dsimp only
  rw [hhost, Bool.false_and, if_neg Bool.false_ne_true, hpick, hfree]
  dsimp only
  rw [hrec]

/-! ### Eviction and moves (R201, R202) -/

theorem exec_imageEvict {r : Raw} (hi : resident s c fid = some (e, i)) (hbusy : i.busy (getCluster s c) = false) (hstarved : starvedLoad s c = some r)
    (hhost : hostPlaces s c = false) (hno : canCompact s c r = false) (hfirst : firstEvict s c = some i) : exec (.imageEvict c fid) s = .next (dropImage s c fid) := by
  have hexec : exec (.imageEvict c fid) s = execImageEvict c fid s := rfl
  rw [hexec, execImageEvict, hi]
  dsimp only
  rw [hbusy, if_neg Bool.false_ne_true, hstarved]
  dsimp only
  rw [hhost, hno, hfirst, if_pos (by simp [resident_fid hi])]

theorem exec_imageEvict_stays (hi : resident s c fid = some (e, i)) (h : i.busy (getCluster s c) = true ∨ starvedLoad s c = none) :
    exec (.imageEvict c fid) s = .next s := by
  have hexec : exec (.imageEvict c fid) s = execImageEvict c fid s := rfl
  rw [hexec, execImageEvict, hi]
  dsimp only
  split
  · rfl
  · next hbusy =>
    rcases h with h | h
    · exact absurd h hbusy
    · rw [h]

/-- The image that a compaction leaves. -/
def movedImage (i : Image) (p : Placed) (page : Nat) : Image := { i.setCopy 0 (p.moveTo p.server page) with gen := i.gen + 1 }

/-- The state in which an image has moved, but for its generation. -/
def moved (s : State) (c : Nat) (i : Image) (p : Placed) (page : Nat) : State :=
  putContents (leaveCells (putImage s c (movedImage i p page)) c i.h0 [p]) c (movedImage i p page) (p.moveTo p.server page) (cellContents s c i p)

theorem exec_compaction {r : Raw} {page : Nat} (hi : resident s c fid = some (e, i)) (hstarved : starvedLoad s c = some r) (hhost : hostPlaces s c = false)
    (hcopies : i.copies = [p]) (htargets : moveTargets s c r i = [(0, page)]) :
    ∃ g, exec (.compaction c fid) s = .next (setCluster (moved s c i p page) c { getCluster (moved s c i p page) c with gens := g }) := by
  have hexec : exec (.compaction c fid) s = execCompaction c fid s := rfl
  have hcopy : i.copies[0]? = some p := by rw [hcopies]; rfl
  rw [hexec, execCompaction, hstarved, hi]
  dsimp only
  rw [hhost, if_neg Bool.false_ne_true, htargets, pick]
  dsimp only
  rw [hcopy]
  exact ⟨_, rfl⟩

theorem resident_moved {page : Nat} (hi : resident s c fid = some (e, i)) (hev : i.evPend = false) :
    resident (moved s c i p page) c fid = some (e, movedImage i p page) ∧ (moved s c i p page).threads = s.threads := by
  have hput := resident_putImage (x := movedImage i p page) hi rfl hev
  obtain ⟨hclusters, hthreads, -⟩ := putContents_kept (leaveCells (putImage s c (movedImage i p page)) c i.h0 [p]) c (movedImage i p page)
    (p.moveTo p.server page) (cellContents s c i p)
  refine ⟨(resident_congr ?_).trans hput, hthreads.trans (serversOnly_putImage s c _).threads⟩
  rw [moved, getCluster, hclusters]
  rfl

/-! ### A twin is loaded afresh (R119) -/

/-- The image that a reload of a twin leaves. -/
def reloadedImage (s : State) (i : Image) (r : Raw) (at_ : List (Nat × Nat)) : Image :=
  { i with copies := r.copiesAt at_, closed := false, reload := 0, gen := i.gen + 1, calls := 0, poisoned := 0, squashed := [], loadClk := s.board.clk - i.reloadAt }

/-- The state in which the cells of a reloaded twin are written, and its images do not list it. -/
def reloading (s : State) (c : Nat) (i : Image) (r : Raw) (at_ : List (Nat × Nat)) : State :=
  (r.copiesAt at_).foldl (fun s p => r.writeCells s c p) (dropImage s c i.fid)

theorem getCluster_reloading (s : State) (c : Nat) (i : Image) (r : Raw) (at_ : List (Nat × Nat)) :
    getCluster (reloading s c i r at_) c = getCluster (dropImage s c i.fid) c ∧ (reloading s c i r at_).threads = s.threads := by
  obtain ⟨hclusters, hthreads⟩ := foldl_writeCells_kept r c (r.copiesAt at_) (dropImage s c i.fid)
  exact ⟨by rw [reloading, getCluster, hclusters]; rfl, hthreads.trans (serversOnly_dropImage s c i.fid).threads⟩

theorem reloadTwin_here {r : Raw} (hhere : ∀ a ∈ i.copies.map (fun p => (p.server, p.page)), (AMap.getD (getCluster s c).servers a.1 {}).offline = 0)
    (hmiss : (getCluster s c).misses = []) :
    ∃ cl, cl.images = AMap.set (getCluster (dropImage s c i.fid) c).images n (reloadedImage s i r (i.copies.map fun p => (p.server, p.page)))
      ∧ reloadTwin s c n i r = some (setCluster (reloading s c i r (i.copies.map fun p => (p.server, p.page))) c cl) := by
  have hoff : (i.copies.map fun p => (p.server, p.page)).any (fun a => (AMap.getD (getCluster s c).servers a.1 {}).offline != 0) = false :=
    List.any_eq_false.mpr fun a ha => by rw [hhere a ha]; decide
  obtain ⟨hget, -⟩ := getCluster_reloading s c i r (i.copies.map fun p => (p.server, p.page))
  obtain ⟨q, l, hdrop, -⟩ := getCluster_dropImage s c i.fid
  rw [reloadTwin]
  dsimp only
  rw [hoff, if_neg Bool.false_ne_true, pick]
  dsimp only
  refine ⟨_, ?_, congrArg some (enterCalls_none ?_)⟩
  · rw [← hget]
    rfl
  · rw [getCluster_setCluster]
    show (getCluster (reloading s c i r (i.copies.map fun p => (p.server, p.page))) c).misses = []
    rw [hget, hdrop, hmiss]

theorem exec_twinReload {r : Raw} {u : State} (hi : resident s c fid = some (e, i)) (hreload : i.reload = 2) (htags : i.tags = [])
    (hhome : allHome s (pilotClock s) = true) (hread : readImage s c (serverOwner s c) (pilotClock s) fid = .inl r) (hu : reloadTwin s c e i r = some u) :
    exec (.twinReload c fid) s = .next u := by
  have hexec : exec (.twinReload c fid) s = execTwinReload c fid s := rfl
  rw [hexec, execTwinReload, hi]
  dsimp only
  rw [if_neg (by simp [hreload, htags, hhome]), if_neg (by simp [hreload]), hread]
  dsimp only
  rw [hu]
  rfl

/-! ### A section is frozen (R115, R205) -/

/-- What a frozen section is kept as. -/
def frozenOf (s : State) (c : Nat) (i : Image) (p : Placed) : Frozen :=
  { cluster := c, image := { i with closed := false }, cells := cellContents s c i p, base := poolBase s (frozenUnits i) }

/-- The state in which a section's save area is written. -/
def frozenState (s : State) (f : Frozen) (units : Nat) : State :=
  { writeArea s f.base units (frozenPieces f) with frozen := (writeArea s f.base units (frozenPieces f)).frozen ++ [f] }

theorem writeArea_kept (s : State) (base units : Nat) (ps : Pieces) : (writeArea s base units ps).threads = s.threads
    ∧ (writeArea s base units ps).frozen = s.frozen ∧ (writeArea s base units ps).clusters = s.clusters := ⟨rfl, rfl, rfl⟩

theorem frozenState_kept (s : State) (f : Frozen) (units : Nat) :
    (frozenState s f units).threads = s.threads ∧ (frozenState s f units).frozen = s.frozen ++ [f] ∧ (frozenState s f units).clusters = s.clusters := by
  obtain ⟨hthreads, hfrozen, hclusters⟩ := writeArea_kept s f.base units (frozenPieces f)
  rw [frozenState]
  exact ⟨hthreads, congrArg (· ++ [f]) hfrozen, hclusters⟩

/-- What the freeze of a section leaves. -/
theorem dropImage_frozenState (s : State) (c : Nat) (fid : BitVec 12) (f : Frozen) (units : Nat) :
    resident (dropImage (frozenState s f units) c fid) c fid = none ∧ (dropImage (frozenState s f units) c fid).frozen = s.frozen ++ [f]
      ∧ (dropImage (frozenState s f units) c fid).threads = s.threads := by
  have hdrop := serversOnly_dropImage (frozenState s f units) c fid
  obtain ⟨hthreads, hfrozen, -⟩ := frozenState_kept s f units
  exact ⟨not_resident_dropImage _ c fid, by rw [hdrop.eq, hfrozen], hdrop.threads.trans hthreads⟩

/-- An access by the section of a function id. -/
def regionOf (c : Nat) (fid : BitVec 12) : Requester → Bool
  | .region c' g _ => c' == c && g == fid
  | _ => false

theorem forgetWaiters_eq (s : State) (q : Requester → Bool) : ∃ d, forgetWaiters s q = { s with dies := d } := ⟨_, rfl⟩

theorem exec_freezeWave (hi : resident s c fid = some (e, i)) (hlaunch : i.launch = some seq) (hcopies : i.copies = [p]) (hclosed : i.closed = true) :
    ∃ d, exec (.freezeWave c fid) s = .next { dropImage (frozenState s (frozenOf s c i p) (frozenUnits i)) c fid with dies := d } := by
  have hexec : exec (.freezeWave c fid) s = execFreezeWave c fid s := rfl
  obtain ⟨d, hd⟩ := forgetWaiters_eq (dropImage (frozenState s (frozenOf s c i p) (frozenUnits i)) c fid) (regionOf c fid)
  refine ⟨d, ?_⟩
  rw [← hd, hexec, execFreezeWave, hi]
  dsimp only
  split
  · next q x _ hx =>
    obtain rfl : p = x := by injection hcopies.symm.trans hx
    rw [if_pos hclosed]
    rfl
  · next hno => exact (hno seq p hlaunch hcopies).elim

/-- A write of one byte is found at no other. -/
theorem memGet_memSet_ne (cells : List Host.Cell) {a x : Nat} (b : Byte) (hx : x ≠ a) : memGet (memSet cells a b) x = memGet cells x := by
  induction cells with
  | nil =>
    rw [memSet]
    split
    · rfl
    · exact if_neg fun h => hx h.symm
  | cons y cells ih =>
    obtain ⟨k, v⟩ := y
    rw [memSet]
    split
    · split
      · rfl
      · exact if_neg fun h => hx h.symm
    · split
      · next hk =>
        have hkx : k ≠ x := fun h => hx (h ▸ hk.symm)
        split
        · exact (if_neg hkx).symm
        · rw [memGet, memGet, if_neg (fun h => hx h.symm), if_neg hkx]
      · rw [memGet, memGet, ih]

/-- Bytes written elsewhere leave a byte. -/
theorem memGet_memSetN_ne (bs : List Byte) : ∀ (cells : List Host.Cell) (a : Nat) {x : Nat}, x < a ∨ a + bs.length ≤ x →
    memGet (memSetN cells a bs) x = memGet cells x := by
  induction bs with
  | nil => exact fun _ _ _ _ => rfl
  | cons b bs ih =>
    intro cells a x hx
    rw [List.length_cons] at hx
    rw [memSetN, ih _ _ (by omega), memGet_memSet_ne _ _ (by omega)]

theorem byteAt_writeArea {base units x : Nat} {ps : Pieces} (hout : ¬(areaAt s base ≤ x ∧ x < areaAt s base + units * 2 ^ 16))
    (hps : ∀ y ∈ ps, x < areaAt s base + y.1 ∨ areaAt s base + y.1 + y.2.length ≤ x) : (writeArea s base units ps).byteAt x = s.byteAt x := by
  have hloose : (writeArea s base units ps).loose = cutRange s.loose (areaAt s base) (units * 2 ^ 16) := rfl
  have hcut : (decide (areaAt s base ≤ x) && decide (x < areaAt s base + units * 2 ^ 16)) = false := by
    rw [← Bool.decide_and]
    exact decide_eq_false hout
  have hmem : memGet (writeArea s base units ps).mem x = memGet s.mem x := by
    have hfold : (writeArea s base units ps).mem = ps.foldl (fun m p => memSetN m (areaAt s base + p.1) p.2)
      (memClear s.mem (areaAt s base) (areaAt s base + units * 2 ^ 16)) := rfl
    rw [hfold]
    refine List.foldlRecOn (motive := fun m => memGet m x = memGet s.mem x) _ _ ?_ fun m hm y hy => (memGet_memSetN_ne _ _ _ (hps y hy)).trans hm
    rw [memClear, memGet_filter s.mem fun y => !(decide (areaAt s base ≤ y) && decide (y < areaAt s base + units * 2 ^ 16)), hcut, if_pos (show (!false) = true from rfl)]
  have hfresh : (writeArea s base units ps).fresh = s.fresh := rfl
  rw [State.byteAt, hloose, inStretch_cutRange, hmem, hfresh, hcut, Bool.not_false, Bool.and_true]
  rfl

/-- A byte that the freeze of a section neither saves nor frees. -/
theorem byteAt_dropImage_frozenState {f : Frozen} {units x : Nat} (hi : resident s c fid = some (e, i))
    (hstay : ∀ w ∈ (getCluster s c).images, w.2.evPend = false) (hx : ¬ InCells c i x) (hout : ¬(areaAt s f.base ≤ x ∧ x < areaAt s f.base + units * 2 ^ 16))
    (hps : ∀ y ∈ frozenPieces f, x < areaAt s f.base + y.1 ∨ areaAt s f.base + y.1 + y.2.length ≤ x) :
    (dropImage (frozenState s f units) c fid).byteAt x = s.byteAt x := by
  obtain ⟨-, -, hclusters⟩ := frozenState_kept s f units
  have hget : getCluster (frozenState s f units) c = getCluster s c := by rw [getCluster, hclusters]; rfl
  obtain ⟨cl, hdrop⟩ := dropImage_of_stay (s := frozenState s f units) (by rw [resident, hget]; exact hi) (by rw [hget]; exact hstay)
  obtain ⟨u, hu⟩ : ∃ u, u = writeArea s f.base units (frozenPieces f) := ⟨_, rfl⟩
  have hbyte : u.byteAt x = s.byteAt x := by
    rw [hu]
    exact byteAt_writeArea hout hps
  rw [hdrop, byteAt_leaveCells hx, frozenState, ← hu]
  exact hbyte

/-! ### A section ends (R207) -/

/-- An image whose section has ended. -/
def sectionOver (i : Image) : Image :=
  { i with launch := none, copies := i.copies.map fun p => { p with links := p.links.map fun l => { l with toks := [] }, cells := [] }, stalled := none, argsDue := [] }

/-- The state in which a section has ended, before its record's state change. -/
def sectionLeft (s : State) (c : Nat) (i : Image) (seq : Nat) (fid : BitVec 12) : State :=
  joinEnd (forgetWaiters (putImage (unhold s (.sectionEnd c fid)) c (sectionOver i)) (regionOf c fid)) seq i.clock

theorem exec_sectionComplete (hi : resident s c fid = some (e, i)) (hlaunch : i.launch = some seq) (hspent : i.tilesLeft = 0)
    (hmay : mayChange s (.sectionEnd c fid) = true) : exec (.sectionComplete c fid) s = .next (moveSeq (sectionLeft s c i seq fid) seq .completed 0) := by
  have hexec : exec (.sectionComplete c fid) s = execSectionComplete c fid s := rfl
  rw [hexec, execSectionComplete, hi]
  dsimp only
  rw [hlaunch]
  dsimp only
  rw [if_neg (by simp [hmay]), if_pos hspent]
  rfl

theorem moveSeq_places {phase : RecPhase} {reason : BitVec 8} (hinv : Inv s) : (moveSeq s seq phase reason).places = s.places := by
  unfold moveSeq
  split
  · next r hr =>
    split
    · rfl
    · have hkept : Inv (moveRecord s r phase reason r.index) :=
        invFrom_zero.mp (((invFrom_zero.mpr hinv).withFound hr fun h hr => inv_moveRecord h hr).mono (Nat.zero_le _))
      exact (settle_places hkept).trans moveRecord_places
  · rfl

theorem sectionLeft_kept (hinv : Inv s) (hi : resident s c fid = some (e, i)) (hev : i.evPend = false) {rec : RecordState}
    (hr : AMap.find s.records seq = some rec) :
    Inv (sectionLeft s c i seq fid) ∧ (∃ y, AMap.find (sectionLeft s c i seq fid).records seq = some y ∧ y.phase = rec.phase)
      ∧ resident (sectionLeft s c i seq fid) c fid = some (e, sectionOver i) ∧ (sectionLeft s c i seq fid).threads = s.threads := by
  obtain ⟨l, hl⟩ := unhold_eq s (.sectionEnd c fid)
  obtain ⟨x, hx⟩ : ∃ x, x = putImage (unhold s (.sectionEnd c fid)) c (sectionOver i) := ⟨_, rfl⟩
  have hput : resident x c fid = some (e, sectionOver i) := by
    rw [hx, hl]
    exact resident_putImage (s := { s with helm := { s.helm with heldBack := l } }) hi rfl hev
  have hthreads : x.threads = s.threads := by
    rw [hx, (serversOnly_putImage _ _ _).threads, hl]
  have hrecords : x.records = s.records := by
    rw [hx, (serversOnly_putImage _ _ _).records, hl]
  obtain ⟨d, hd⟩ := forgetWaiters_eq x (regionOf c fid)
  have hleft : sectionLeft s c i seq fid = joinEnd { x with dies := d } seq i.clock := by rw [← hd, hx]; rfl
  have hjoin := joinEnd_joins { x with dies := d } seq i.clock
  obtain ⟨r', hr'⟩ := joinEnd_eq { x with dies := d } seq i.clock
  refine ⟨?_, ?_, ?_, ?_⟩
  · exact invFrom_zero.mp (inv_joinEnd (inv_forgetWaiters (inv_putImage (inv_unhold (invFrom_zero.mpr hinv)))))
  · obtain ⟨y, hy, heq⟩ := hjoin seq rec (by rw [← hr, ← hrecords])
    exact ⟨y, by rw [hleft]; exact hy, by rw [heq]⟩
  · rw [hleft, hr']
    exact hput
  · rw [hleft, hr']
    exact hthreads

/-! ### A section goes on (R115) -/

/-- The image that thaws. -/
def thawedImage (cl : ClusterState) (f : Frozen) (p : Placed) (v page : Nat) (fid : BitVec 12) : Image :=
  { f.image with copies := [p.moveTo v page], gen := nextGen cl fid, stalled := none }

theorem thawScrubs_of_mayThaw {o : BitVec 12} (h : mayThaw s c o = true) : thawScrubs s c o = false := by
  unfold mayThaw at h
  unfold thawScrubs
  cases hlast : (getCluster s c).lastOwner with
  | none => simp
  | some x =>
    rw [hlast] at h
    simp only [Bool.and_eq_true] at h
    obtain ⟨⟨⟨-, hsame⟩, -⟩, -⟩ := h
    simp [eq_of_beq hsame]

theorem exec_thaw {f : Frozen} {rec : RecordState} {v page : Nat} (hf : s.frozen.find? (fun x => x.cluster == c && x.image.fid == fid) = some f)
    (hcopies : f.image.copies = [p]) (hlaunch : f.image.launch = some seq) (hr : AMap.find s.records seq = some rec)
    (hpick : pick (freeRects (getCluster s c) f.image.width f.image.height) (s.choose 23 (freeRects (getCluster s c) f.image.width f.image.height).length) = some (v, page))
    (hfree : freeEntry (getCluster s c) = some n) (hmay : mayThaw s c rec.owner = true) (hnone : resident s c fid = none) :
    ∃ cl, cl.images = AMap.set (getCluster s c).images n (thawedImage (getCluster s c) f p v page fid)
      ∧ exec (.thaw c fid) s = .next (putContents (setCluster { s with frozen := s.frozen.erase f } c cl) c (thawedImage (getCluster s c) f p v page fid)
        (p.moveTo v page) f.cells) := by
  have hexec : exec (.thaw c fid) s = execThaw c fid s := rfl
  rw [hexec, execThaw, hf]
  dsimp only
  split
  · next x r hx hrec =>
    obtain rfl : p = x := by injection hcopies.symm.trans hx
    rw [hlaunch] at hrec
    obtain rfl : rec = r := Option.some.inj (hr.symm.trans hrec)
    rw [thawScrubs_of_mayThaw hmay, if_neg Bool.false_ne_true, hpick, hfree]
    dsimp only
    rw [hmay, hnone, if_pos (show (true && (none : Option (Nat × Image)).isNone) = true from rfl)]
    exact ⟨_, rfl, rfl⟩
  · next hno =>
    refine (hno p rec hcopies ?_).elim
    rw [hlaunch]
    exact hr

end

end Sys2Proof.Machine

namespace Sys2Proof

open Sys2Proof.Machine Sys2Proof.Safety

/-- Settles O48: an image that goes leaves its cells (`dropImage_of_stay`), one that comes stands where nothing else has its function id (`find_set_only`). -/
theorem imagesComeAndGo : Obligations.ImagesComeAndGo := by
  unfold Obligations.ImagesComeAndGo
  intro s c e n tgt v pg seq fid l raw r code m i p at_ f rec cl th o clk here fresh fz area inCells stay
  refine ⟨fun hdue hfew hrec hstay hhome => ⟨fun hread => ?_, fun hread hmiss hm hl hwaits hih hcode => ?_⟩, fun hl hnone hfid hhost hrec hmiss hpick hfree => ?_,
    fun hi => ⟨fun hbusy hstarved hhost hno hfirst hstay => ?_, exec_imageEvict_stays hi, fun hev hstarved hhost hcopies htargets => ?_,
      fun hreload htags hhere hhome hread hmiss => ?_, fun hlaunch hcopies hclosed => ?_, fun hlaunch hev hspent hmay hinv hr hopen => ?_⟩,
    fun hf hcopies hlaunch hr hpick hfree hmay hnone => ?_⟩
  · refine ⟨_, { l with words := raw.ws, outcome := some 0, began := s.board.clk }, exec_imageLoad_good hdue hfew hrec hhome hread, ?_, rfl, rfl, rfl, rfl, fun _ => rfl⟩
    rw [loadRead, getCluster_setCluster]
    exact List.mem_append_right _ List.mem_cons_self
  · obtain ⟨b, hb⟩ := reportImage_eq s c o fid
    have hdrop : getCluster (dropLoad { s with board := b } c fid) c = { cl with loads := cl.loads.filter fun l => l.fid != fid } := getCluster_setCluster _ _ _
    obtain ⟨cl', hmiss', hfail⟩ := failCalls_one (s := dropLoad { s with board := b } c fid) (c := c) (m := m) (fid := fid) (code := code)
      (by rw [hdrop]; exact hmiss) hm (by rw [hdrop]; exact hstay) hwaits hih hcode
    have hexec := exec_imageLoad_bad hdue hfew hrec hhome hread
    rw [hb, hl, hfail] at hexec
    have hth := getThread_setThread (setCluster (dropLoad { s with board := b } c fid) c cl') m.tag (th.enterTrap 0x05 (BitVec.ofNat 64 (code.toNat * 2 ^ 60)) th.pc)
    refine ⟨_, hexec, ?_, ?_, ?_, ?_, fun _ => rfl⟩
    · exact (congrArg ClusterState.misses (getCluster_setCluster _ c cl')).trans hmiss'
    · exact congrArg ThreadState.tcause hth
    · exact congrArg ThreadState.tval hth
    · exact congrArg ThreadState.pc hth
  · have hexec := exec_imageLoadComplete hl hfid hnone hhost hrec hpick hfree
    obtain ⟨hres, hloads, hthreads⟩ := install_stands (l := l) (n := n) (r := fresh) (i := newImage s c fresh l at_) hmiss rfl (hfid ▸ hnone)
    rw [hfid] at hres hloads
    exact ⟨_, _, hexec, hres, rfl, rfl, rfl, rfl, rfl, by rw [← hfid]; rfl, hloads, hthreads⟩
  · obtain ⟨cl', hdrop⟩ := dropImage_of_stay hi hstay
    refine ⟨_, exec_imageEvict hi hbusy hstarved hhost hno hfirst, not_resident_dropImage s c fid, fun g hg => resident_dropImage_ne hstay hg,
      fun x hx => ?_, fun x hx => ?_, (serversOnly_dropImage s c fid).threads⟩
    · rw [hdrop]
      exact (inStretch_leaveCells _ c i x).mpr (.inl hx)
    · rw [hdrop]
      exact byteAt_leaveCells (s := setCluster s c cl') hx
  · obtain ⟨g, hexec⟩ := exec_compaction hi hstarved hhost hcopies htargets
    obtain ⟨hres, hthreads⟩ := resident_moved (p := p) (page := tgt) hi hev
    refine ⟨_, movedImage i p tgt, hexec, (resident_congr ?_).trans hres, ?_, rfl, hthreads⟩
    · rw [getCluster_setCluster]
    · rw [movedImage, Image.setCopy, hcopies]
      rfl
  · obtain rfl := resident_fid hi
    obtain ⟨cl', himages, hreloaded⟩ := reloadTwin_here (n := e) (r := raw) hhere hmiss
    refine ⟨_, reloadedImage s i raw here, exec_twinReload hi hreload htags hhome hread hreloaded, ?_, rfl, rfl, rfl, rfl, rfl,
      (getCluster_reloading s c i raw here).2⟩
    rw [resident, getCluster_setCluster, himages]
    exact find_set_only (not_resident (not_resident_dropImage s c i.fid)) (beq_self_eq_true _)
  · obtain ⟨d, hexec⟩ := exec_freezeWave hi hlaunch hcopies hclosed
    obtain ⟨hres, hfrozen, hthreads⟩ := dropImage_frozenState s c fid (frozenOf s c i p) (frozenUnits i)
    exact ⟨_, hexec, hres, hfrozen, hthreads, fun hstay x hx hout hpieces => byteAt_dropImage_frozenState hi hstay hx hout hpieces⟩
  · obtain ⟨hkept, ⟨y, hy, hphase⟩, hres, hthreads⟩ := sectionLeft_kept hinv hi hev hr
    obtain ⟨q, hq, hqphase, -⟩ := moveSeq_final (p := .completed) (e := 0) hkept hy (by rw [hphase]; exact hopen) rfl
    have hplaces := moveSeq_places (seq := seq) (phase := .completed) (reason := 0) hkept
    refine ⟨_, q, sectionOver i, exec_sectionComplete hi hlaunch hspent hmay, hq, hqphase, ?_, rfl, ?_⟩
    · exact (resident_congr (congrArg ClusterState.images (getCluster_of_places hplaces c))).trans hres
    · exact (congrArg Prod.fst hplaces).trans hthreads
  · obtain ⟨cl', himages, hexec⟩ := exec_thaw hf hcopies hlaunch hr hpick hfree hmay hnone
    obtain ⟨hclusters, hthreads, hfrozen⟩ := putContents_kept (setCluster { s with frozen := s.frozen.erase f } c cl') c
      (thawedImage cl f p v pg fid) (p.moveTo v pg) f.cells
    have hfid : (f.image.fid == fid) = true := by
      have := List.find?_some hf
      simp only [Bool.and_eq_true] at this
      exact this.2
    refine ⟨_, hexec, ?_, hfrozen, hthreads⟩
    have hget : getCluster (putContents (setCluster { s with frozen := s.frozen.erase f } c cl') c (thawedImage cl f p v pg fid) (p.moveTo v pg) f.cells) c = cl' := by
      rw [getCluster, hclusters]
      exact getCluster_setCluster _ c cl'
    rw [resident, hget, himages]
    exact find_set_only (not_resident hnone) hfid

end Sys2Proof
end

section
/-! ## The step of a core's turn (R123, R139, R244) -/

namespace Sys2Proof.Machine

/-- The turn that is fixed beforehand is the one that the step takes. -/
theorem step_of_turn {s t : State} {core : Nat} (h : s.turn = some core) (ht : coreTurn { s with turn := none } core = .next t) :
    step s = .next (passTime t) := by
  have hact : nextAct s = some fun x => coreTurn x core := by rw [nextAct, h]
  simp only [step, oneStep, hact, ht]

/-- The word of a thread that no bank holds off runs as what it decodes to (R123, R124, R244). -/
theorem issue_word {s t : State} {tag clk : Nat} {w : IWord} (hfetch : fetch s tag = .word w)
    (hbank : ∀ j, decode w = some j → bankForfeit (issuing s tag clk) tag j = false)
    (hexec : exec ((decode w).getD (.illegalInstruction w)) (issuing s tag clk) = .next t) :
    issue s tag clk = .next (afterIssue s t tag) := by
  cases hdecode : decode w with
  | none =>
    rw [hdecode] at hexec
    have hrun : runWord (issuing s tag clk) w = .next t := by rw [runWord, hdecode]; exact hexec
    simp [issue, hfetch, hdecode, hrun]
  | some i =>
    rw [hdecode] at hexec
    have hrun : runWord (issuing s tag clk) w = .next t := by rw [runWord, hdecode]; exact hexec
    simp [issue, hfetch, hdecode, hrun, hbank i hdecode]

end Sys2Proof.Machine

namespace Sys2Proof

open Sys2Proof.Machine Sys2Proof.Safety

/-- Settles O53: the fixed turn is the step (`step_of_turn`), the rotation names the thread, and its word runs (`issue_word`). -/
theorem stepRunsTheDecodedInstruction : Obligations.StepRunsTheDecodedInstruction := by
  unfold Obligations.StepRunsTheDecodedInstruction
  intro s core slot w s0 c r tag s1 s2 i hturn hslot hfetch hbank
  refine ⟨rfl, ?_, fun t hexec => step_of_turn hturn ?_⟩
  · exact congrArg ThreadState.park (getThread_setThread _ _ _)
  · have hissue : issue s1 tag c.clk = .next (afterIssue s1 t tag) := issue_word hfetch hbank hexec
    have hturns : coreTurn s0 core = issue s1 tag c.clk := by
      show (match r.2 with
        | none => _
        | some slot => issue (setCore r.1 core { getCore r.1 core with clk := c.clk + 1, ptr := slot }) (coreTag core slot) c.clk) = _
      rw [hslot]
    exact hturns.trans hissue

end Sys2Proof
end

section
/-! ## Loads that leave the core (R121, R128, R212, R221, R223, R278) -/

namespace Sys2Proof.Machine

open Safety

variable {s u : State} {x : Instr} {d a : Reg} {i : BitVec 16} {ea : Word} {n k off key : Nat} {sg home stream : Bool} {ctl : Option Nat}

/-! ### The request leaves the core -/

/-- The load `x`, issued at `s`, waits for `n` bytes at `k` to come back: its request says so, and no register or byte changes. -/
def LoadSent (x : Instr) (s : State) (d : Reg) (ea : Word) (n : Nat) (sg : Bool) (k : Nat) (home stream : Bool) (ctl : Option Nat) : Prop :=
  ∃ t r, exec x s = .next t ∧ t.th = { s.th with park := .memory r }
    ∧ r.key = k ∧ r.va = ea ∧ r.size = n ∧ r.signed = sg ∧ r.dest = d ∧ r.op = none ∧ r.sync = none
    ∧ r.atHome = home ∧ r.stream = stream ∧ r.control = ctl ∧ r.after = s.nextWrite ∧ OthersKept s t ∧ SameMem s t

theorem loadSent_of_sending (hu : Sending s u) (hnext : u.nextWrite = s.nextWrite)
    (hexec : exec x s = .next (sent u { loadReq u k ea n home sg d ctl with stream := stream })) : LoadSent x s d ea n sg k home stream ctl := by
  refine ⟨_, _, hexec, (sent_th u _).trans (by rw [hu.th]), rfl, rfl, rfl, rfl, rfl, rfl, rfl, rfl, rfl, rfl, hnext, fun j hj => ?_, hu.byteAt⟩
  rw [sent_other _ (hu.cur ▸ hj), getThread, hu.threads, getThread]

section

variable (hexec : exec x s = load d a i n sg s) (halign : (s.x a + immI i).toNat % n = 0)
include hexec halign

/-- A load of global memory that a TLB lets it read goes to the page's home or cache. -/
theorem load_global {cls : BitVec 2} {fl : Option Nat} (hspace : spaceOf (tagCluster s.cur) (some (tagCore s.cur)) (s.x a + immI i) n = .global)
    (hhit : xlate s (tagCluster s.cur) (ownerOf s s.cur) (s.x a + immI i) .read = .hit key cls fl) :
    LoadSent x s d (s.x a + immI i) n sg key (cls == 1) (cls == 2) none := by
  obtain ⟨l, m, hfill⟩ := fillL1_countAccess s (ownerOf s s.cur) (s.x a + immI i) (tagCluster s.cur) (pageOf (s.x a + immI i))
  refine loadSent_of_sending (u := { s with clusters := l, counts := m }) ⟨rfl, rfl, rfl, rfl, rfl, rfl, rfl, rfl⟩ rfl (hexec.trans ?_)
  simp only [load, locate, hspace, hhit, halign, hfill, ne_eq, not_true_eq_false, if_false]
  rfl

theorem load_pad (hspace : spaceOf (tagCluster s.cur) (some (tagCore s.cur)) (s.x a + immI i) n = .pad k off) (hk : k ≠ tagCore s.cur) :
    LoadSent x s d (s.x a + immI i) n sg (padKey k off) true false none := by
  refine loadSent_of_sending (.refl s) rfl (hexec.trans ?_)
  simp only [load, locate, hspace, halign, hk, bne_self_eq_false, Bool.false_and, Bool.false_eq_true, ne_eq, not_true_eq_false, if_false]
  rfl

theorem load_cell (hspace : spaceOf (tagCluster s.cur) (some (tagCore s.cur)) (s.x a + immI i) n = .cell key) :
    LoadSent x s d (s.x a + immI i) n sg key true false none := by
  refine loadSent_of_sending (.refl s) rfl (hexec.trans ?_)
  simp only [load, locate, hspace, halign, ne_eq, not_true_eq_false, if_false]
  rfl

theorem load_control (hn : n = 8) (hspace : spaceOf (tagCluster s.cur) (some (tagCore s.cur)) (s.x a + immI i) n = .control off)
    (hin : controlOf off ≠ .outside) : LoadSent x s d (s.x a + immI i) n sg (controlKey (tagCluster s.cur) off) true false (some off) := by
  refine loadSent_of_sending (.refl s) rfl (hexec.trans ?_)
  subst hn
  simp only [load, locate, hspace, halign, hin, ne_eq, not_true_eq_false, or_self, if_false]
  rfl

end

/-! ### The value of a frontier (R221, R223) -/

variable {r : MemReq} {w : WriteRec} {fr : Nat → List WriteRec} {m : Option WriteRec} {t at_ y : Nat}

theorem ne_nil_iff_mem {α : Type} {l : List α} : l ≠ [] ↔ ∃ b, b ∈ l := ⟨List.exists_mem_of_ne_nil l, fun ⟨_, h⟩ => List.ne_nil_of_mem h⟩

theorem exists_pick {α : Type} {l : List α} (h : l ≠ []) (j : Nat) : ∃ b, pick l j = some b := by
  unfold pick
  split
  · exact absurd rfl h
  · exact ⟨_, rfl⟩
  · exact ⟨_, List.getElem?_eq_getElem (Nat.mod_lt _ (List.length_pos_of_ne_nil h))⟩

theorem coversByte_iff : w.coversByte y = true ↔ w.addr ≤ y ∧ y < w.addr + w.bytes.length := by
  simp [WriteRec.coversByte]

theorem beforeWrite_iff {v : WriteRec} : w.beforeWrite v = true
    ↔ v.initial = false ∧ (w.initial = true ∨ (w.num < v.num ∧ w.stamp ≤ AMap.getD v.clock w.agent 0)) := by
  cases h : v.initial <;> simp [WriteRec.beforeWrite, h]

theorem sameCoreFirst_iff {v : WriteRec} {c : Nat} : WriteRec.sameCoreFirst (some c) w v = true
    ↔ w.core = some c ∧ v.core = some c ∧ w.issued < v.issued := by
  simp [WriteRec.sameCoreFirst, and_assoc]

theorem mem_frontier : w ∈ frontier s.writes (getThread s t).clock (some (tagCore t)) at_ y ↔ InFrontier s t at_ y w := by
  simp only [frontier, InFrontier, List.mem_filter, List.any_filter, Bool.not_eq_true', List.any_eq_false, Bool.and_eq_true, Bool.or_eq_true,
    Bool.and_eq_false_imp, coversByte_iff, beforeWrite_iff, sameCoreFirst_iff, WriteRec.before, Option.isSome_some, beq_iff_eq, decide_eq_true_eq,
    decide_eq_false_iff_not, not_and, not_or, true_and, and_assoc, or_assoc, and_imp]

theorem matching_iff : w.matching k n = true ↔ w.initial = true ∨ (w.addr = k ∧ w.bytes.length = n) := by
  simp [WriteRec.matching]

theorem mem_byteOptions {l : List WriteRec} : w ∈ byteOptions l m k n
    ↔ w ∈ l ∧ ((w.initial = true ∨ (w.addr = k ∧ w.bytes.length = n)) → ∃ v, m = some v ∧ ((w.initial = true ∧ v.initial = true) ∨ w.num = v.num)) := by
  rw [byteOptions, List.mem_filter, ← matching_iff]
  refine and_congr_right fun _ => ?_
  cases m with
  | none => simp
  | some v => simp [imp_iff_not_or]

/-- `m` can be the one matching write of a load of `[k, k + n)` whose bytes have the frontiers `fr`: it is in one of them, and every byte that has a
frontier finds a write there (R223). -/
def MatchFits (fr : Nat → List WriteRec) (k n : Nat) (m : Option WriteRec) : Prop :=
  (∀ v, m = some v → v.matching k n = true ∧ ∃ y, (k ≤ y ∧ y < k + n) ∧ v ∈ fr y) ∧
    ∀ y, k ≤ y ∧ y < k + n → fr y ≠ [] → byteOptions (fr y) m k n ≠ []

/-- A byte `b` of a load is one that its frontier lets it return beside the matching write `m`, and the home's where it has no frontier. -/
def ByteFits (s : State) (fr : List WriteRec) (k n : Nat) (m : Option WriteRec) (y : Nat) (b : Byte) : Prop :=
  (fr = [] → b = s.byteAt y) ∧ (fr ≠ [] → ∃ w ∈ byteOptions fr m k n, b = w.valueAt s y)

/-- Where a matching write can be chosen, each byte of a load comes of its options beside the chosen one. -/
theorem loadFrontier_fits {c : Clock} {o : Option Nat} (hsome : ∃ m, MatchFits (frontier s.writes c o at_) k n m) :
    ∃ m, MatchFits (frontier s.writes c o at_) k n m
      ∧ ∀ j b, ((loadFrontier s c o at_ k n).map (·.1))[j]? = some b → ByteFits s (frontier s.writes c o at_ (k + j)) k n m (k + j) b := by
  unfold loadFrontier
  extract_lets xs frs all ms good m
  have hgood : ∀ v, v ∈ good ↔ MatchFits (frontier s.writes c o at_) k n v := fun v => by
    simp only [good, ms, all, frs, xs, MatchFits, List.mem_filter, List.mem_cons, List.mem_map, List.mem_flatten, List.map_map, List.all_map, List.all_eq_true, mem_rangeFrom,
      Function.comp_apply, Bool.or_eq_true, List.isEmpty_iff, Bool.not_eq_true', List.isEmpty_eq_false_iff, imp_iff_not_or (a := _ ≠ []), ne_eq, not_not]
    refine and_congr_left' ?_
    cases v with
    | none => simp
    | some v => simp [and_comm]
  have hm : m ∈ good := by
    obtain ⟨v, hv⟩ := hsome
    obtain ⟨w, hw⟩ := exists_pick (List.ne_nil_of_mem ((hgood v).mpr hv)) (frontierChoice s k 0)
    have hmw : m = w := by simp only [m, hw, Option.getD_some]
    exact hmw ▸ mem_of_pick hw
  refine ⟨m, (hgood m).mp hm, fun j b hb => ?_⟩
  obtain ⟨_, hfits⟩ := (hgood m).mp hm
  simp only [frs, xs, List.map_map, List.getElem?_map, Option.map_eq_some_iff] at hb
  obtain ⟨y, hy, hb⟩ := hb
  obtain ⟨hj, hy⟩ := List.getElem?_eq_some_iff.mp hy
  rw [getElem_rangeFrom] at hy
  rw [rangeFrom_length] at hj
  subst hy
  refine ⟨fun hnone => ?_, fun hfr => ?_⟩
  · have hpick : pick (byteOptions (frontier s.writes c o at_ (k + j)) m k n) (frontierChoice s k (1 + (k + j - k))) = none := by rw [hnone]; rfl
    simp only [Function.comp_apply, hpick] at hb
    exact hb.symm
  · obtain ⟨w, hw⟩ := exists_pick (hfits (k + j) (by omega) hfr) (frontierChoice s k (1 + (k + j - k)))
    refine ⟨w, mem_of_pick hw, ?_⟩
    simp only [Function.comp_apply, hw] at hb
    exact hb.symm

/-! ### The dirty bytes of a cluster's cache (R212) -/

/-- A load of thread `t` with the number `at_` finds byte `y` of the write dirty in the cache of its cluster. -/
def WriteRec.dirtyFor (t at_ y : Nat) (w : WriteRec) : Bool := w.dirtyAt (tagCluster t) y && !(w.core == some (tagCore t) && decide (at_ ≤ w.issued))

theorem topDirty_eq (s : State) (t at_ y : Nat) :
    topDirty s (tagCluster t) (some (tagCore t)) at_ y = (s.writes.filter (WriteRec.dirtyFor t at_ y)).getLast? := rfl

theorem dirtyHere_iff : DirtyHere s t at_ y w ↔ w ∈ s.writes ∧ w.dirtyFor t at_ y = true := by
  simp only [DirtyHere, WriteRec.dirtyFor, WriteRec.dirtyAt, coversByte_iff, Bool.and_eq_true, Bool.not_eq_true', Bool.and_eq_false_imp, beq_iff_eq,
    decide_eq_false_iff_not, and_assoc, not_and]

/-- Without a dirty byte a stream page reads as its home does. -/
theorem streamByte_home (hnone : ∀ w, ¬DirtyHere s t at_ y w) : (streamByte s (tagCluster t) (some (tagCore t)) at_ y).1 = s.byteAt y := by
  have htop : topDirty s (tagCluster t) (some (tagCore t)) at_ y = none := by
    rw [topDirty_eq, List.getLast?_eq_none_iff, List.filter_eq_nil_iff]
    exact fun w hw hdirty => hnone w (dirtyHere_iff.mpr ⟨hw, hdirty⟩)
  rw [streamByte, htop]

/-- Of the dirty bytes of the cluster's cache the latest is read. -/
theorem streamByte_dirty {pre post : List WriteRec} (hwrites : s.writes = pre ++ w :: post) (hw : DirtyHere s t at_ y w)
    (hpost : ∀ v ∈ post, ¬DirtyHere s t at_ y v) : (streamByte s (tagCluster t) (some (tagCore t)) at_ y).1 = w.valueAt s y := by
  have hnone : post.filter (WriteRec.dirtyFor t at_ y) = [] :=
    List.filter_eq_nil_iff.mpr fun v hv hdirty => hpost v hv (dirtyHere_iff.mpr ⟨hwrites ▸ List.mem_append_right _ (List.mem_cons_of_mem _ hv), hdirty⟩)
  have htop : topDirty s (tagCluster t) (some (tagCore t)) at_ y = some w := by
    rw [topDirty_eq, hwrites, List.filter_append, List.filter_cons_of_pos (dirtyHere_iff.mp hw).2, hnone, List.getLast?_concat]
  rw [streamByte, htop]

/-! ### The value returns (R128, R278) -/

/-- LOAD_RETURN ends the wait of the issuing thread's load `r` with the `n` bytes of `v`. -/
def LoadReturns (s : State) (r : MemReq) (n v : Nat) : Prop :=
  ∃ t, Gets (.loadReturn s.cur) s r.dest (if r.signed then (BitVec.ofNat (8 * n) v).signExtend 64 else BitVec.ofNat 64 v) t
    ∧ OthersKept s t ∧ t = { s with threads := t.threads }

/-- A load that may return, meets no poison and no foreign line returns its value. -/
theorem loadReturns_value (hpark : s.th.park = .memory r) (hop : r.op = none) (hsync : r.sync = none) (hsize : r.size = n) (hn : 0 < n)
    (hready : r.ready s s.cur = true) (hbad : loadBad s s.cur r = false) (hclear : (r.control.isNone && r.foreign s s.cur) = false)
    (hlt : (loadValue s s.cur r).1 < 2 ^ (8 * n)) : LoadReturns s r n (loadValue s s.cur r).1 := by
  have hpark' : (getThread s s.cur).park = .memory r := hpark
  have hexec : exec (.loadReturn s.cur) s = .next (returnLoad s s.cur r) := by
    show execLoadReturn s.cur s = _
    simp only [execLoadReturn, hpark', hready, hop, hsync, MemReq.atomic, Option.isSome_none, Bool.or_self, Bool.false_and, Bool.not_true, Bool.false_eq_true, if_false]
  have hreturn : returnLoad s s.cur r = finishLoad s s.cur r.dest (extend r.signed n (loadValue s s.cur r).1) (loadValue s s.cur r).2 := by
    simp only [returnLoad, hbad, hclear, hsize, Bool.false_eq_true, if_false]
  have hvalue : extend r.signed n (loadValue s s.cur r).1
      = if r.signed then (BitVec.ofNat (8 * n) (loadValue s s.cur r).1).signExtend 64 else BitVec.ofNat 64 (loadValue s s.cur r).1 := by
    cases r.signed with
    | false => rfl
    | true => exact extend_signed hn hlt
  have haway : Away s s := ⟨rfl, ⟨_, _, rfl⟩, fun _ _ => rfl⟩
  have hreturned := returned_finishLoad haway r.dest (extend r.signed n (loadValue s s.cur r).1) (loadValue s s.cur r).2
  rw [hreturn] at hexec
  rw [LoadReturns, ← hvalue]
  exact ⟨_, ⟨hexec, hreturned.value, hreturned.pc, hreturned.park, hreturned.kept, fun _ => rfl⟩, hreturned.others, rfl⟩

theorem toNat_append_eq_add {v w : Nat} (b : BitVec v) (c : BitVec w) : (b ++ c).toNat = b.toNat * 2 ^ w + c.toNat := by
  rw [BitVec.toNat_append, ← Nat.shiftLeft_add_eq_or_of_lt c.isLt, Nat.shiftLeft_eq]

/-- The word of a counter holds its fields side by side (R121). -/
theorem counter_word (c : Counter) : c.word = BitVec.ofBool c.drain ++ (0 : BitVec 3) ++ c.pend ++ c.value := by
  have hvalue := c.value.isLt
  have hpend := c.pend.isLt
  have hfree : (0 : BitVec 3).toNat = 0 := rfl
  refine BitVec.eq_of_toNat_eq ?_
  rw [Counter.word, toNat_append_eq_add, toNat_append_eq_add, toNat_append_eq_add, BitVec.toNat_ofNat]
  cases c.drain
  · simp only [Bool.false_eq_true, if_false, hfree, BitVec.toNat_ofBool, Bool.toNat_false]
    omega
  · simp only [if_true, hfree, BitVec.toNat_ofBool, Bool.toNat_true]
    omega

/-- What a load of the control window returns, space by space (R121). -/
theorem controlWord_eq {c off : Nat} {V : Word}
    (hV : match controlOf off with
      | .counter k => let C := getCounter s c k; V = BitVec.ofBool C.drain ++ (0 : BitVec 3) ++ C.pend ++ C.value
      | .barrier k hi => let B := getBarrier s c k; V = if hi then 0 else B.count ++ B.arrived ++ B.phase
      | .pending o => (getCluster s c).pendingQ[o / 32]? = none ∧ V = 0
      | .task w => V = getTask s c w
      | .chart o => if o = 0 ∧ (theVoyage s c).isSome then some V = (theVoyage s c).map Voyage.vstate
          else theVoyage s c = none ∧ V = BitVec.ofNat 64 (ofBytes (s.bytesAt 8 (chartKey c o)))
      | .directory o => V = directoryWord (getCluster s c) s.board.refclk o
      | .outside => False) : controlWord s c off = V := by
  unfold controlWord
  cases h : controlOf off
  all_goals rw [h] at hV
  case counter => exact (counter_word _).trans hV.symm
  case barrier => exact hV.symm
  case pending =>
    obtain ⟨hnone, rfl⟩ := hV
    simp only [hnone]
  case task => exact hV.symm
  case chart o =>
    dsimp only at hV ⊢
    split at hV
    · next h0 =>
      obtain ⟨rfl, hsome⟩ := h0
      obtain ⟨v, hv⟩ := Option.isSome_iff_exists.mp hsome
      rw [hv] at hV ⊢
      exact (Option.some.inj hV).symm
    · obtain ⟨hnone, rfl⟩ := hV
      simp only [hnone]
  case directory => exact hV.symm
  case outside => exact hV.elim

theorem ofBytes_lt_of_length {bs : List Byte} (h : bs.length = n) : ofBytes bs < 2 ^ (8 * n) := h ▸ ofBytes_lt bs

/-- The values of a load that meets neither poison nor a foreign line, at the place its request names. -/
theorem loadReturns_memory (hpark : s.th.park = .memory r) (hop : r.op = none) (hsync : r.sync = none) (hsize : r.size = n) (hn : 0 < n)
    (hready : r.ready s s.cur = true) (hbad : loadBad s s.cur r = false) (hmem : r.control = none) (hforeign : r.foreign s s.cur = false) :
    (r.atHome = true → LoadReturns s r n (ofBytes (s.bytesAt n r.key)))
    ∧ (r.atHome = false → r.stream = true →
        LoadReturns s r n (ofBytes ((rangeFrom n r.key).map fun y => (streamByte s (tagCluster s.cur) (some (tagCore s.cur)) r.after y).1)))
    ∧ (r.atHome = false → r.stream = false →
        LoadReturns s r n (ofBytes ((loadFrontier s (getThread s s.cur).clock (some (tagCore s.cur)) r.after r.key n).map (·.1)))) := by
  have hreturns : ∀ bs : List Byte, bs.length = n → (loadValue s s.cur r).1 = ofBytes bs → LoadReturns s r n (ofBytes bs) := fun bs hlen hv =>
    hv ▸ loadReturns_value hpark hop hsync hsize hn hready hbad (by rw [hforeign, Bool.and_false]) (hv ▸ ofBytes_lt_of_length hlen)
  refine ⟨fun hhome => hreturns _ (bytesAt_length s n r.key) ?_, fun hhome hstream => hreturns _ (by rw [List.length_map, rangeFrom_length]) ?_,
    fun hhome hstream => hreturns _ (by simp [loadFrontier, rangeFrom_length]) ?_⟩
  · simp only [loadValue, hmem, hhome, hsize, if_true]
  · simp only [loadValue, hmem, hhome, hstream, hsize, Bool.false_eq_true, if_false, if_true, List.map_map]
    rfl
  · simp only [loadValue, hmem, hhome, hstream, hsize, Bool.false_eq_true, if_false]

end Sys2Proof.Machine

namespace Sys2Proof

open Sys2Proof.Machine Sys2Proof.Safety

/-- Settles O8: each place sends its request (`load_global`, `load_pad`, `load_cell`, `load_control`), and what returns is the value of the place
(`loadReturns_memory`, with `streamByte_dirty` and `loadFrontier_fits` for cached pages; `controlWord_eq`). -/
theorem globalLoadsWaitForTheirValue : Obligations.GlobalLoadsWaitForTheirValue := by
  unfold Obligations.GlobalLoadsWaitForTheirValue
  refine ⟨fun s d a i key off cls fl => ?_, fun s r n off => ?_⟩
  · intro ea sp Sent
    have hsent : ∀ x n sg, exec x s = load d a i n sg s → Sent x n sg := fun x n sg hexec halign => by
      refine ⟨load_global hexec halign, ?_, fun hn => load_control hexec halign hn⟩
      rintro (⟨k, o, hspace, hk, rfl⟩ | hspace)
      · exact load_pad hexec halign hspace hk
      · exact load_cell hexec halign hspace
    exact ⟨hsent _ _ _ rfl, hsent _ _ _ rfl, hsent _ _ _ rfl, hsent _ _ _ rfl, hsent _ _ _ rfl, hsent _ _ _ rfl, hsent _ _ _ rfl⟩
  · intro cl Returns F same matching inside Free Choice hpark hop hsync hsize hn hready hbad
    have hpos : 0 < n := by omega
    refine ⟨fun hmem hforeign => ?_, fun hcontrol hn8 V hV => ?_⟩
    · obtain ⟨hhome, hstream, hreconcile⟩ := loadReturns_memory hpark hop hsync hsize hpos hready hbad hmem hforeign
      refine ⟨hhome, fun hcached hclass => ⟨_, by rw [List.length_map, rangeFrom_length], hstream hcached hclass, fun j b hb => ?_⟩,
        fun hcached hclass hchoice => ?_⟩
      · rw [List.getElem?_map, Option.map_eq_some_iff] at hb
        obtain ⟨y, hy, rfl⟩ := hb
        obtain ⟨hj, rfl⟩ := List.getElem?_eq_some_iff.mp hy
        rw [getElem_rangeFrom]
        exact ⟨streamByte_home, fun w pre post => streamByte_dirty⟩
      · let fr := frontier s.writes (getThread s s.cur).clock (some (tagCore s.cur)) r.after
        have hF : ∀ y, fr y ≠ [] ↔ ∃ w, F y w := fun y => ne_nil_iff_mem.trans (exists_congr fun w => mem_frontier)
        have hFree : ∀ m y w, w ∈ byteOptions (fr y) m r.key n ↔ Free m y w := fun m y w => mem_byteOptions.trans (and_congr_left' mem_frontier)
        have hChoice : ∀ m, MatchFits fr r.key n m ↔ Choice m := fun m =>
          and_congr (forall₂_congr fun v _ => and_congr matching_iff (exists_congr fun y => and_congr_right' mem_frontier))
            (forall₂_congr fun y _ => imp_congr (hF y) (ne_nil_iff_mem.trans (exists_congr (hFree m y))))
        obtain ⟨m, hfits, hbytes⟩ := loadFrontier_fits (hchoice.imp fun m => (hChoice m).mpr)
        refine ⟨_, m, (hChoice m).mp hfits, by simp [loadFrontier, rangeFrom_length], hreconcile hcached hclass, fun j b hb => ?_⟩
        obtain ⟨hhome, hwrite⟩ := hbytes j b hb
        refine ⟨fun hnone => hhome (not_ne_iff.mp fun h => ?_), fun hsome => ?_⟩
        · obtain ⟨w, hw⟩ := (hF _).mp h
          exact hnone w hw
        · obtain ⟨w, hw, hvalue⟩ := hwrite ((hF _).mpr hsome)
          exact ⟨w, (hFree _ _ _).mp hw, hvalue⟩
    · obtain rfl := controlWord_eq hV
      have hvalue : (loadValue s s.cur r).1 = (controlWord s cl off).toNat := by simp only [loadValue, hcontrol, cl]
      rw [← hvalue]
      exact loadReturns_value hpark hop hsync hsize hpos hready hbad (by rw [hcontrol]; rfl) (by rw [hvalue, hn8]; exact (controlWord s cl off).isLt)

end Sys2Proof
end

section
/-! ## Stores that leave the core, and their arrival at the home (R121, R128, R140, R145, R220, R224) -/

namespace Sys2Proof.Machine

open Safety

variable {s u t : State} {x : Instr} {a b : Reg} {i : BitVec 16} {n k off o key : Nat} {f : Option Nat}

/-! ### A store leaves its thread -/

/-- The store `x`, issued at `s`, has left its thread at `t`: the thread goes on, and no byte of memory has changed yet. -/
def StoreLeaves (x : Instr) (s t : State) : Prop := exec x s = .next t ∧ SameMem s t ∧ t.th.pc = s.th.pc + 4 ∧ Kept 0 s t ∧ OthersKept s t

/-- The store `x`, issued at `s`, is on its way to `k` with the bytes `bs` (R128). -/
def StorePosted (x : Instr) (s : State) (k : Nat) (bs : List Byte) (f : Option Nat) : Prop :=
  ∃ t p, StoreLeaves x s t ∧ t.posted = s.posted ++ [p] ∧ p.addr = k ∧ p.flagAt = f ∧ p.bytes = bs ∧ p.core = tagCore s.cur ∧ t.writes = s.writes

/-- A thread that goes on with another clock keeps its registers but the pc, and stands as the issuing one among threads that are as they were. -/
theorem storeLeaves_of_sending {v : State} {c : Clock} (hu : Sending s u) (hexec : exec x s = .next (v.setTh { u.th with clock := c, pc := u.th.pc + 4 }))
    (hbytes : ∀ y, v.byteAt y = u.byteAt y) (hthreads : v.threads = u.threads := by rfl) (hcur : v.cur = u.cur := by rfl) :
    StoreLeaves x s (v.setTh { u.th with clock := c, pc := u.th.pc + 4 }) := by
  have hth : (v.setTh { u.th with clock := c, pc := u.th.pc + 4 }).th = { s.th with clock := c, pc := s.th.pc + 4 } := by rw [setTh_th, hu.th]
  refine ⟨hexec, fun y => (hbytes y).trans (hu.byteAt y), by rw [hth], ⟨fun r _ => ?_, ?_⟩, fun j hj => ?_⟩
  · rw [State.x, hth]
    rfl
  · rw [hth]
    exact ⟨rfl, rfl, rfl, rfl, rfl, rfl, rfl, rfl, rfl⟩
  · rw [setTh_other _ _ ((hcur.trans hu.cur) ▸ hj), getThread, hthreads, hu.threads, getThread]

theorem storePosted_of_sending {bs : List Byte} (hu : Sending s u) (hexec : exec x s = .next (storePosted u k bs f)) : StorePosted x s k bs f := by
  have hposted : (storePosted u k bs f).posted = u.posted ++ _ := rfl
  exact ⟨_, _, storeLeaves_of_sending hu hexec fun _ => rfl, hposted.trans (congrArg (· ++ _) hu.posted), rfl, rfl, rfl, congrArg tagCore hu.cur, hu.writes⟩

section

variable {cls : BitVec 2} {fl : Option Nat} (hexec : exec x s = store b a i n s) (halign : (s.x a + immI i).toNat % n = 0)
include hexec halign

theorem store_pad (hat : locate s s.cur (s.x a + immI i) n .write = .pad k off) (hk : k ≠ tagCore s.cur) :
    StorePosted x s (padKey k off) (bytesOf n (s.x b).toNat) none := by
  refine storePosted_of_sending (.refl s) (hexec.trans ?_)
  simp only [store, hat, halign, hk, ne_eq, not_true_eq_false, if_false]

theorem store_cell (hat : locate s s.cur (s.x a + immI i) n .write = .cell key) : StorePosted x s key (bytesOf n (s.x b).toNat) none := by
  refine storePosted_of_sending (.refl s) (hexec.trans ?_)
  simp only [store, hat, halign, ne_eq, not_true_eq_false, if_false]

theorem store_task {wd : Nat} (hn : n = 8) (hat : locate s s.cur (s.x a + immI i) n .write = .control off) (htask : controlOf off = .task wd) :
    StorePosted x s (controlKey (tagCluster s.cur) off) (bytesOf n (s.x b).toNat) none := by
  refine storePosted_of_sending (.refl s) (hexec.trans ?_)
  subst hn
  simp only [store, hat, htask, halign, ne_eq, not_true_eq_false, if_false]

theorem store_chart (hn : n = 8) (hat : locate s s.cur (s.x a + immI i) n .write = .control off) (hchart : controlOf off = .chart o)
    (hvoyage : voyageActive s (tagCluster s.cur) = false) : StorePosted x s (chartKey (tagCluster s.cur) o) (bytesOf n (s.x b).toNat) none := by
  refine storePosted_of_sending (.refl s) (hexec.trans ?_)
  subst hn
  simp only [store, hat, hchart, hvoyage, halign, ne_eq, not_true_eq_false, Bool.false_eq_true, if_false]

/-- Chart memory under a voyage takes no store (R121). -/
theorem store_chart_voyage (hn : n = 8) (hat : locate s s.cur (s.x a + immI i) n .write = .control off) (hchart : controlOf off = .chart o)
    (hvoyage : voyageActive s (tagCluster s.cur) = true) : ∃ t, StoreLeaves x s t ∧ t.posted = s.posted ∧ t.writes = s.writes := by
  have hskip : exec x s = .next s.skip := by
    subst hn
    rw [hexec]
    simp only [store, hat, hchart, hvoyage, halign, ne_eq, not_true_eq_false, if_true, if_false]
  exact ⟨_, storeLeaves_of_sending (c := s.th.clock) (.refl s) hskip fun _ => rfl, rfl, rfl⟩

end

/-! ### Global memory (R140, R220) -/

/-- The state in which a store to global memory leaves: its access is counted, and its line claimed. -/
def storeReached (s : State) (key : Nat) (ea : Word) : State :=
  claimFor (fillL1 (countAccess s (ownerOf s s.cur) ea) (tagCluster s.cur) (ownerOf s s.cur) (pageOf ea)) s.cur key ea

theorem storeReached_eq {ea : Word} (hline : lineForeign s key (keyOf s (ownerOf s s.cur)) (bits ea 54 6) = false) :
    ∃ l m n, storeReached s key ea = { s with clusters := l, counts := m, lines := n } := by
  obtain ⟨l, m, hfill⟩ := fillL1_countAccess s (ownerOf s s.cur) ea (tagCluster s.cur) (pageOf ea)
  have hline' : lineForeign { s with clusters := l, counts := m } key (keyOf { s with clusters := l, counts := m }
      (ownerOf { s with clusters := l, counts := m } s.cur)) (bits ea 54 6) = false := hline
  rw [storeReached, hfill, claimFor, claimLine_clean hline']
  exact ⟨_, _, _, rfl⟩

/-- A store to global memory is posted to a page of home class, and performed in the cluster's cache to one of another. -/
theorem store_global {cls : BitVec 2} (halign : (s.x a + immI i).toNat % n = 0) (hat : locate s s.cur (s.x a + immI i) n .write = .global key cls f) :
    store b a i n s = .next (if cls == 1 then storePosted (storeReached s key (s.x a + immI i)) key (bytesOf n (s.x b).toNat) f
      else storeCached (storeReached s key (s.x a + immI i)) key (bytesOf n (s.x b).toNat) f) := by
  obtain ⟨l, m, hfill⟩ := fillL1_countAccess s (ownerOf s s.cur) (s.x a + immI i) (tagCluster s.cur) (pageOf (s.x a + immI i))
  simp only [store, storeReached, hat, halign, hfill, ne_eq, not_true_eq_false, if_false]
  split
  · rfl
  · rfl

theorem mem_uncovered {y : Nat} : y ∈ uncovered s.writes key n
    ↔ key ≤ y ∧ y < key + n ∧ ∀ v ∈ s.writes, ¬(v.addr ≤ y ∧ y < v.addr + v.bytes.length) := by
  simp only [uncovered, List.mem_filter, mem_rangeFrom, Bool.not_eq_true', List.any_eq_false, coversByte_iff, and_assoc]

/-- The initial writes of a stretch hold what its home holds (R220). -/
theorem initialWrites_initial {v : WriteRec} (hv : v ∈ initialWrites s key n) :
    v.initial = true ∧ v.bytes.length = 1 ∧ v.valueAt s v.addr = s.byteAt v.addr := by
  obtain ⟨y, -, rfl⟩ := List.mem_map.mp hv
  refine ⟨rfl, rfl, ?_⟩
  by_cases hloose : inStretch s.loose y = true
  · simp [WriteRec.valueAt, State.byteAt, hloose]
  · simp [WriteRec.valueAt, State.byteAt, WriteRec.byteAt, hloose]

/-- The bytes that had no record get one. -/
theorem initialWrites_addr {y : Nat} : (∃ v ∈ initialWrites s key n, v.addr = y)
    ↔ key ≤ y ∧ y < key + n ∧ ∀ v ∈ s.writes, ¬(v.addr ≤ y ∧ y < v.addr + v.bytes.length) := by
  rw [← mem_uncovered]
  simp [initialWrites]

/-- A store to a page of reconcile or stream class joins the write set, dirty in its cluster's cache. -/
theorem store_cached {ea : Word} {bs : List Byte} (hline : lineForeign s key (keyOf s (ownerOf s s.cur)) (bits ea 54 6) = false)
    (hexec : exec x s = .next (storeCached (storeReached s key ea) key bs f)) (hlen : bs.length = n) :
    ∃ (t : State) (ws : List WriteRec) (w : WriteRec), StoreLeaves x s t ∧ t.posted = s.posted ∧ t.writes = s.writes ++ ws ++ [w]
      ∧ w.addr = key ∧ w.bytes = bs ∧ w.flagAt = f ∧ w.core = some (tagCore s.cur) ∧ w.cluster = tagCluster s.cur
      ∧ w.initial = false ∧ w.arrived = false ∧ w.num = s.nextWrite ∧ w.issued = s.nextWrite ∧ w.loose = [] ∧ w.bad = false
      ∧ (∀ v ∈ ws, v.initial = true ∧ v.bytes.length = 1 ∧ v.valueAt s v.addr = s.byteAt v.addr)
      ∧ ∀ y, (∃ v ∈ ws, v.addr = y) ↔ (key ≤ y ∧ y < key + n ∧ ∀ v ∈ s.writes, ¬(v.addr ≤ y ∧ y < v.addr + v.bytes.length)) := by
  subst hlen
  generalize hu : storeReached s key ea = u at hexec
  obtain ⟨l, m, c, hreached⟩ := storeReached_eq hline
  have hsending : Sending s u := (hu.symm.trans hreached) ▸ ⟨rfl, rfl, rfl, rfl, rfl, rfl, rfl, rfl⟩
  have hnext : u.nextWrite = s.nextWrite := (hu.symm.trans hreached) ▸ rfl
  have hinitial : initialWrites u key bs.length = initialWrites s key bs.length := by rw [initialWrites, hsending.writes, hsending.mem, hsending.loose, initialWrites]
  have hwrites : (storeCached u key bs f).writes
      = s.writes ++ initialWrites s key bs.length ++ [mkWrite s.nextWrite key bs (s.th.writer s.cur f) false s.th.plainEnds] := by
    rw [← hinitial, ← hsending.writes, ← hnext, ← hsending.th, ← hsending.cur]
    rfl
  exact ⟨storeCached u key bs f, initialWrites s key bs.length, mkWrite s.nextWrite key bs (s.th.writer s.cur f) false s.th.plainEnds,
    storeLeaves_of_sending (v := cacheWrite u key bs (u.th.writer u.cur f) u.th.plainEnds) hsending hexec fun _ => rfl, hsending.posted, hwrites,
    rfl, rfl, rfl, rfl, rfl, rfl, rfl, rfl, rfl, rfl, rfl, fun v hv => initialWrites_initial hv, fun y => initialWrites_addr⟩

/-! ### A store reaches its home (R224) -/

variable {p : PostedStore} {w v : WriteRec} {wd : Nat}

theorem exec_homeArrival_posted (hfound : s.posted.find? (fun q => q.num == n) = some p) (hfirst : postedFirst s p = true) :
    exec (.homeArrival n) s = .next (performPosted s p) := by
  show execHomeArrival n s = _
  simp only [execHomeArrival, hfound, hfirst, if_true]

theorem exec_homeArrival_dirty (hfound : s.posted.find? (fun q => q.num == n) = none)
    (hdirty : s.writes.find? (fun w => w.num == n && !w.initial && !w.arrived) = some v) (hmay : mayArrive s v = true) :
    exec (.homeArrival n) s = .next (arriveWrite s n) := by
  show execHomeArrival n s = _
  simp only [execHomeArrival, hfound, hdirty, hmay, if_true]

theorem exec_homeArrival_waits (hwaits : (s.posted.find? (fun q => q.num == n) = some p ∧ postedFirst s p = false)
    ∨ (s.posted.find? (fun q => q.num == n) = none ∧ s.writes.find? (fun w => w.num == n && !w.initial && !w.arrived) = some v ∧ mayArrive s v = false)
    ∨ (s.posted.find? (fun q => q.num == n) = none ∧ s.writes.find? (fun w => w.num == n && !w.initial && !w.arrived) = none)) :
    exec (.homeArrival n) s = .next s := by
  show execHomeArrival n s = _
  rcases hwaits with ⟨hfound, hfirst⟩ | ⟨hfound, hdirty, hmay⟩ | ⟨hfound, hdirty⟩
  · simp only [execHomeArrival, hfound, hfirst, Bool.false_eq_true, if_false]
  · simp only [execHomeArrival, hfound, hdirty, hmay, Bool.false_eq_true, if_false]
  · simp only [execHomeArrival, hfound, hdirty]

/-- What is on its way, without the store that arrives. -/
def withoutPosted (s : State) (p : PostedStore) : State := { s with posted := s.posted.filter fun q => q.num != p.num }

theorem homeWrite_plain {k : Nat} {bs : List Byte} {c : Writer} {rel : List RelEnd} (h : c.flagAt = none) :
    homeWrite s k bs c rel = performWrite s k bs c rel false := by
  simp only [homeWrite, clearTileFlag, mkWrite, h]

/-- A store outside of the active bays and the tile frames writes its bytes at its home. -/
theorem performPosted_stores (hwf : Memory.wf s.mem = true) (hkey : p.addr < 2 ^ 48) (hbay : inActiveBay s p.addr p.bytes.length = false)
    (hflag : p.flagAt = none) : Stored p.addr p.bytes s (performPosted s p) ∧ HomesOnly (withoutPosted s p) (performPosted s p) := by
  have hbay' : inActiveBay (withoutPosted s p) p.addr p.bytes.length = false := hbay
  have hperform : performPosted s p = homeWrite (withoutPosted s p) p.addr p.bytes
      { agent := p.agent, core := some p.core, cluster := coreCluster p.core, stamp := p.stamp, clock := p.clock, flagAt := p.flagAt } p.rel := by
    rw [performPosted, if_neg (Nat.not_le.mpr hkey)]
    exact if_neg (ne_true_of_eq_false hbay')
  rw [hperform, homeWrite_plain hflag]
  exact ⟨byteAt_performWrite (withoutPosted s p) p.addr p.bytes _ p.rel false hwf, homesOnly_performWrite _ _ _ _ _ _⟩

/-- A store that meets an active bay is refused: it writes nothing (R145). -/
theorem performPosted_bay (hbay : inActiveBay s p.addr p.bytes.length = true) : performPosted s p = refuseStore (withoutPosted s p) p := by
  have hkey : ¬2 ^ 48 ≤ p.addr := by
    have hin := hbay
    simp only [inActiveBay, Bool.and_eq_true, decide_eq_true_eq] at hin
    omega
  have hbay' : inActiveBay (withoutPosted s p) p.addr p.bytes.length = true := hbay
  rw [performPosted, if_neg hkey]
  exact if_pos hbay'

/-- A refused store changes nothing but threads. -/
theorem refuseStore_eq (s : State) (p : PostedStore) : ∃ l, refuseStore s p = { s with threads := l } := by
  unfold refuseStore deferTrap
  split
  · dsimp only
    split
    · exact ⟨_, rfl⟩
    · exact ⟨_, rfl⟩
  · exact ⟨_, rfl⟩

/-- The thread of a refused store has its deferred access fault (R105, R145). -/
theorem refuseStore_defers {tag : Nat} {th : ThreadState} (hfind : s.threads.find? (fun e => e.2.live && e.2.agent == p.agent) = some (tag, th))
    (hth : getThread s tag = th) (hroom : th.deferred.length < 8) :
    getThread (refuseStore s p) tag = { th with deferred := th.deferred ++ [{ cause := 0x03, tval := padAddress p.addr }] } := by
  have hlives : (th.live && th.agent == p.agent) = true := by
    have hsome := List.find?_some hfind
    exact hsome
  simp only [refuseStore, hfind, deferTrap, hth, hlives, if_true, getThread_setThread, ThreadState.addDeferred, hroom]

/-- A store to the task table writes its word there (R62, R63). -/
theorem performPosted_task (hkey : 2 ^ 48 ≤ p.addr) (htask : controlOf (p.addr % 2 ^ 18) = .task wd) :
    performPosted s p = { setTask s ((p.addr - 2 ^ 48) / 2 ^ 18) wd (BitVec.ofNat 64 (ofBytes p.bytes)) with
      posted := s.posted.filter fun q => q.num != p.num, homeRel := setHomeRel s.homeRel p.addr 8 p.rel } := by
  rw [performPosted, if_pos hkey, performTask]
  simp only [htask]

theorem getTask_setTask (c j : Nat) (v : Word) : getTask (setTask s c wd v) c j = if j = wd then taskMask wd v else getTask s c j := by
  rw [getTask, setTask, getCluster_setCluster]
  split
  · next h => exact h ▸ AMap.getD_set_self _ _ _ _
  · next h => exact AMap.getD_set_ne _ _ _ h

/-! ### A dirty write goes home (R140, R224) -/

theorem byteAt_foldl_putBytes (hwf : Memory.wf s.mem = true) (agent : Nat) (g : Nat → Byte) (l : List Nat) (y : Nat) :
    (l.foldl (fun s z => putBytes s agent z [g z]) s).byteAt y = if y ∈ l then g y else s.byteAt y := by
  induction l generalizing s with
  | nil => rfl
  | cons z l ih =>
    rw [List.foldl_cons, ih (putBytes_wf s agent z [g z] hwf), byteAt_putBytes s agent z [g z] hwf]
    by_cases hl : y ∈ l
    · rw [if_pos hl, if_pos (List.mem_cons_of_mem _ hl)]
    · by_cases hy : y = z
      · subst hy
        simp [hl]
      · rw [if_neg hl, if_neg (by simp; omega), if_neg (by simp [hy, hl])]

theorem goesHome_iff {y : Nat} : v.goesHome y = true ↔ v.addr ≤ y ∧ y < v.addr + v.bytes.length ∧ y ∉ v.passed := by
  simp only [WriteRec.goesHome, Bool.and_eq_true, coversByte_iff, Bool.not_eq_true', List.contains_eq_mem, decide_eq_false_iff_not, and_assoc]

/-- A dirty write brings home the bytes that no later write of its cluster has passed (R140). -/
theorem byteAt_bringHome (hwf : Memory.wf s.mem = true) (hloose : v.loose = []) (hbad : v.bad = false) (y : Nat) : (bringHome s v).byteAt y
    = if v.addr ≤ y ∧ y < v.addr + v.bytes.length ∧ y ∉ v.passed then v.bytes.getD (y - v.addr) 0 else s.byteAt y := by
  have hmem : ∀ z, z ∈ (rangeFrom v.bytes.length v.addr).filter v.goesHome ↔ v.addr ≤ z ∧ z < v.addr + v.bytes.length ∧ z ∉ v.passed := fun z => by
    rw [List.mem_filter, mem_rangeFrom, goesHome_iff]
    tauto
  unfold bringHome
  simp only [hloose, hbad, List.isEmpty_nil, Bool.false_and, Bool.false_eq_true, if_true, if_false]
  split
  · next hnone =>
    rw [List.isEmpty_iff] at hnone
    have hput := byteAt_putBytes s v.agent v.addr v.bytes hwf y
    have hall : (v.addr ≤ y ∧ y < v.addr + v.bytes.length ∧ y ∉ v.passed) ↔ (v.addr ≤ y ∧ y < v.addr + v.bytes.length) := by rw [hnone]; simp
    rw [← if_congr hall rfl rfl] at hput
    exact hput
  · have hput := byteAt_foldl_putBytes hwf v.agent v.byteAt ((rangeFrom v.bytes.length v.addr).filter v.goesHome) y
    rw [if_congr (hmem y) rfl rfl] at hput
    exact hput

/-- A buried write is of the number it was, and an initial one stays so. -/
theorem buried_kept (v w : WriteRec) : (v.buried w).num = v.num ∧ (v.buried w).initial = v.initial := by
  unfold WriteRec.buried
  split
  · exact ⟨rfl, rfl⟩
  · exact ⟨rfl, rfl⟩

/-- A write that has gone home leaves no dirty record of its number. -/
theorem bringHome_arrived {r : WriteRec} (hr : r ∈ (bringHome s v).writes) (hnum : r.num = v.num) : r.initial = true ∨ r.arrived = true := by
  obtain ⟨q, -, hq⟩ := List.mem_map.mp hr
  obtain ⟨hkeptNum, hkeptInitial⟩ := buried_kept q v
  split at hq
  · subst hq
    exact .inr rfl
  · next hother =>
    subst hq
    rw [hkeptNum] at hnum
    rw [hkeptInitial]
    cases hinitial : q.initial with
    | true => exact .inl rfl
    | false => exact absurd (by simp [hnum, hinitial]) hother

/-- A dirty write that clears no flag goes home alone. -/
theorem arriveWrite_eq (hdirty : s.writes.find? (fun w => w.num == n && !w.initial && !w.arrived) = some v) (hflag : v.flagAt = none) :
    arriveWrite s n = bringHome s v := by
  simp only [arriveWrite, hdirty, clearTileFlag, hflag]

end Sys2Proof.Machine

namespace Sys2Proof

open Sys2Proof.Machine Sys2Proof.Safety

/-- Settles O9: a store leaves its thread by the place it names (`store_pad`, `store_cell`, `store_task`, `store_chart`, `store_global`), and HOME_ARRIVAL
performs it there (`performPosted_stores`, `performPosted_bay`, `performPosted_task`, `byteAt_bringHome`). -/
theorem remoteStoresArriveLater : Obligations.RemoteStoresArriveLater := by
  unfold Obligations.RemoteStoresArriveLater
  refine ⟨fun s b a i key off o cls fl => ?_, fun s p n w v => ?_⟩
  · intro ea at_ owned Stores
    have hstores : ∀ x n, exec x s = store b a i n s → Stores x n := fun x n hexec halign => by
      refine ⟨?_, fun hat hline => ?_, fun hat hcls hline => ?_, fun hn hat hchart hvoyage => store_chart_voyage hexec halign hn hat hchart hvoyage⟩
      · rintro (⟨k, j, hat, hk, rfl⟩ | hat | ⟨hn, hat, ⟨wd, htask⟩, rfl⟩ | ⟨hn, hat, hchart, hvoyage, rfl⟩)
        · exact store_pad hexec halign hat hk
        · exact store_cell hexec halign hat
        · exact store_task hexec halign hn hat htask
        · exact store_chart hexec halign hn hat hchart hvoyage
      · obtain ⟨l, m, c, hreached⟩ := storeReached_eq hline
        exact storePosted_of_sending (hreached ▸ ⟨rfl, rfl, rfl, rfl, rfl, rfl, rfl, rfl⟩) (hexec.trans (store_global halign hat))
      · have hcls' : (cls == 1) = false := beq_eq_false_iff_ne.mpr hcls
        have hglobal := store_global (b := b) halign hat
        rw [hcls'] at hglobal
        exact store_cached hline (hexec.trans hglobal) (bytesOf_length n _)
    exact ⟨hstores _ _ rfl, hstores _ _ rfl, hstores _ _ rfl, hstores _ _ rfl⟩
  · rintro c found dirty ⟨hwf, -⟩
    refine ⟨fun hfound hfirst hkey hbay hflag => ?_, fun hfound hfirst hbay => ?_, fun hfound hfirst hkey htask => ?_, fun hfound hdirty hmay hflag hloose hbad => ?_,
      exec_homeArrival_waits⟩
    · obtain ⟨hstored, hhomes⟩ := performPosted_stores hwf hkey hbay hflag
      refine ⟨_, exec_homeArrival_posted hfound hfirst, hstored, ?_, ?_, ?_, ?_⟩
      all_goals
        rw [hhomes.eq]
        rfl
    · have hexec := exec_homeArrival_posted hfound hfirst
      rw [performPosted_bay hbay] at hexec
      obtain ⟨l, hrefuse⟩ := refuseStore_eq (withoutPosted s p) p
      refine ⟨_, hexec, ?_, ?_, ?_, ?_, fun tag th hfind hth hroom => refuseStore_defers hfind hth hroom⟩
      all_goals rw [hrefuse]
      · exact fun _ => rfl
      · rfl
      · rfl
      · rfl
    · have hexec := exec_homeArrival_posted hfound hfirst
      rw [performPosted_task hkey htask] at hexec
      exact ⟨_, hexec, (getTask_setTask c w _).trans (if_pos rfl), fun j hj => (getTask_setTask c j _).trans (if_neg hj), rfl, fun _ => rfl, rfl⟩
    · have hexec := exec_homeArrival_dirty hfound hdirty hmay
      rw [arriveWrite_eq hdirty hflag] at hexec
      have hnum : v.num = n := by
        have hsome := List.find?_some hdirty
        simp only [Bool.and_eq_true, beq_iff_eq] at hsome
        exact hsome.1.1
      refine ⟨_, hexec, byteAt_bringHome hwf hloose hbad, fun r hr hr' => bringHome_arrived hr (hr'.trans hnum.symm), ?_, ?_, ?_, ?_⟩
      all_goals
        rw [(homesOnly_bringHome s v).eq]

end Sys2Proof
end

section
/-! ## Tile instructions start and complete (R134, R136, R137, R309–R313) -/

namespace Sys2Proof.Machine

open Safety

variable {s t u : State} {core k z n off side : Nat} {e : TileEntry} {rest : List TileEntry}

theorem getCore_setCore_ne (s : State) {j k : Nat} (v : CoreState) (h : j ≠ k) : getCore (setCore s k v) j = getCore s j := AMap.getD_set_ne _ _ _ h

theorem rangeFrom_eq_range (n a : Nat) : rangeFrom n a = (List.range n).map (a + ·) := by
  induction n generalizing a with
  | zero => rfl
  | succ n ih =>
    rw [rangeFrom, ih, List.range_succ_eq_map, List.map_cons, List.map_map]
    refine congrArg₂ _ rfl (List.map_congr_left fun i _ => ?_)
    simp only [Function.comp_apply]
    omega

theorem rangeFrom_zero (n : Nat) : rangeFrom n 0 = List.range n := by simp [rangeFrom_eq_range]

/-! ### What the engine reads (R136) -/

theorem padKey_add (k off i : Nat) : padKey k (off + i) = padKey k off + i := (Nat.add_assoc _ _ _).symm

theorem getD_bytesAt (s : State) {n i : Nat} (a : Nat) (hi : i < n) : (s.bytesAt n a).getD i 0 = s.byteAt (a + i) := by
  induction n generalizing a i with
  | zero => exact absurd hi (Nat.not_lt_zero i)
  | succ n ih =>
    cases i with
    | zero => rfl
    | succ i => rw [State.bytesAt, List.getD_cons_succ, ih (a + 1) (Nat.lt_of_succ_lt_succ hi), Nat.succ_add_eq_add_succ]

theorem bytesAt_padKey (s : State) (k n off : Nat) : s.bytesAt n (padKey k off) = (rangeFrom n off).map fun o => s.byteAt (padKey k o) := by
  induction n generalizing off with
  | zero => rfl
  | succ n ih => rw [State.bytesAt, rangeFrom, List.map_cons, ← ih]; rfl

/-- Every chunk that the engine has read for the instruction holds what stands there at `s`. -/
def LatchedNow (s : State) (k : Nat) (e : TileEntry) : Prop := ∀ x ∈ e.latched, x.2 = s.bytesAt x.2.length (padKey k (x.1 / 2))

/-- Chunks that hold what stands there read as the scratchpad does. -/
theorem latchReader_now (h : LatchedNow s k e) (side : Nat) : latchReader s k e side = padReader s k := by
  unfold latchReader
  extract_lets l
  split
  · rfl
  · funext off n
    rw [padReader, bytesAt_padKey]
    refine congrArg ofBytes (List.map_congr_left fun o _ => ?_)
    split
    · next x hx =>
      have hin := List.find?_some hx
      simp only [Bool.and_eq_true, decide_eq_true_eq] at hin
      rw [h x (List.mem_of_find?_eq_some hx), getD_bytesAt s _ (by omega), ← padKey_add, Nat.add_sub_cancel' hin.1.2]
    · rfl

theorem latch_op (e : TileEntry) (s : State) (k : Nat) (xs : List (Nat × Nat × Nat)) : (e.latch s k xs).op = e.op :=
  List.foldlRecOn (motive := fun f : TileEntry => f.op = e.op) xs _ rfl fun f hf x _ => by
    split
    · exact hf
    · exact hf

/-- What the engine reads for an instruction is what stands there. -/
theorem latchedNow_latch {xs : List (Nat × Nat × Nat)} (h : LatchedNow s k e) (hside : ∀ x ∈ xs, x.1 < 2) : LatchedNow s k (e.latch s k xs) :=
  List.foldlRecOn (motive := LatchedNow s k) xs _ h fun f hf x hx => by
    split
    · exact hf
    · intro y hy
      rcases AMap.mem_set hy with rfl | hy
      · have hplace : (2 * x.2.1 + x.1) / 2 = x.2.1 := by
          have := hside x hx
          omega
        rw [hplace, bytesAt_length]
      · exact hf y hy

theorem drain_chunks_side {z : Nat} {f : BitVec 3} {dst : Nat} {scale : BitVec 32} {bias : Option Nat} {relu acc prop : Bool} {flag : Option Nat} {stride : Nat}
    {x : Nat × Nat × Nat} (hx : x ∈ (TileOp.drain z f dst scale bias relu acc prop flag stride).chunks) : x.1 < 2 := by
  obtain ⟨y, hy, hx⟩ := List.mem_flatMap.mp hx
  obtain ⟨i, -, rfl⟩ := List.mem_map.mp hx
  have hzero : y.1 = 0 := by
    rcases List.mem_append.mp hy with hy | hy
    · cases bias with
      | none => exact absurd hy List.not_mem_nil
      | some b => rw [List.mem_singleton.mp hy]
    · split at hy
      · obtain ⟨r, -, rfl⟩ := List.mem_map.mp hy
        rfl
      · exact absurd hy List.not_mem_nil
  show y.1 < 2
  omega

/-! ### Banks (R135, R239) -/

theorem find_filterMap_nonzero (g : Nat → BitVec 32) (l : List Nat) (m : Nat) :
    AMap.find (l.filterMap fun n => if g n = 0 then none else some (n, g n)) m = if m ∈ l ∧ g m ≠ 0 then some (g m) else none := by
  induction l with
  | nil => simp [AMap.find]
  | cons n l ih =>
    by_cases hg : g n = 0
    · simp only [List.filterMap_cons, hg, if_true, ih, List.mem_cons]
      by_cases hm : m = n
      · simp [hm, hg]
      · simp [hm]
    · simp only [List.filterMap_cons, hg, if_false, AMap.find, ih, List.mem_cons]
      by_cases hm : n = m
      · subst hm
        rw [if_pos rfl, if_pos ⟨.inl rfl, hg⟩]
      · simp [hm, Ne.symm hm]

/-- A bank's word is the one that its function gives. -/
theorem bankOf_at (f : Nat → Nat → BitVec 32) {cs : AMap (BitVec 32)} {i j : Nat} (hi : i < 16) (hj : j < 16) : (Bank.mk (bankOf f) cs).at i j = f i j := by
  have hfind := find_filterMap_nonzero (fun n => f (n / 16) (n % 16)) (rangeFrom 256 0) (16 * i + j)
  have hmem : 16 * i + j ∈ rangeFrom 256 0 := mem_rangeFrom.mpr (by omega)
  rw [show (16 * i + j) / 16 = i by omega, show (16 * i + j) % 16 = j by omega] at hfind
  rw [Bank.at, bankOf, AMap.getD, hfind]
  by_cases hzero : f i j = 0
  · rw [if_neg fun h => h.2 hzero, hzero]
  · rw [if_pos ⟨hmem, hzero⟩]

theorem ofNat_toNat_emod (x : Int) : BitVec.ofNat 32 (x % 2 ^ 32).toNat = BitVec.ofInt 32 x := by
  refine BitVec.eq_of_toNat_eq ?_
  rw [BitVec.toNat_ofNat, BitVec.toNat_ofInt]
  omega

/-- Products that are added modulo 2^32 leave their exact sum modulo 2^32 (R239). -/
theorem ofNat_foldl_products (f : Nat → Int) (l : List Nat) (acc : Nat) :
    BitVec.ofNat 32 (l.foldl (fun acc k => (((acc : Int) + f k) % 2 ^ 32).toNat) acc) = BitVec.ofNat 32 acc + BitVec.ofInt 32 (l.map f).sum := by
  induction l generalizing acc with
  | nil => simp
  | cons n l ih =>
    rw [List.foldl_cons, ih, ofNat_toNat_emod, List.map_cons, List.sum_cons, BitVec.ofInt_add, BitVec.ofInt_add, BitVec.ofInt_natCast, BitVec.add_assoc]

/-! ### TILE_START and TILE_COMPLETE (R136) -/

theorem exec_tileStart (hfree : (getCore s core).tileBusy = false) (hring : (getCore s core).ringBusy = false) (htiles : (getCore s core).tiles = e :: rest)
    (hwants : ringWants s core = false) (hwaits : tileWaits s core e = false) :
    exec (.tileStart core) s = .next (setCore s core { getCore s core with tileBusy := true, rows := 0 }) := by
  show execTileStart core s = _
  simp only [execTileStart, htiles, hfree, hring, hwants, hwaits, Bool.or_self, Bool.false_eq_true, if_false]

theorem exec_tileComplete_ring (hring : (getCore s core).ringBusy = true) :
    exec (.tileComplete core) s = .next (setCore s core { getCore s core with ringBusy := false }) := if_pos hring

theorem voyageMask_congr (hclusters : t.clusters = s.clusters) (hvsaves : t.vsaves = s.vsaves) (c : Nat) : voyageMask t c = voyageMask s c := by
  rw [voyageMask, theVoyage, getCluster, hclusters, hvsaves, voyageMask, theVoyage, getCluster]

theorem spoilBank_free (h : (voyageMask s (coreCluster k)).testBit z = false) : spoilBank s k z = s := if_neg (ne_true_of_eq_false h)

/-- The state once the running instruction has had its effect `u` and has left the queue. -/
def tileLeft (u : State) (core : Nat) (rest : List TileEntry) : State :=
  setCore u core { getCore u core with tiles := rest, tileBusy := headStreams rest, rows := 0 }

/-- A running instruction whose bank no voyage has reserved completes with its effect, and leaves the queue. -/
theorem exec_tileComplete (hbusy : (getCore s core).tileBusy = true) (hring : (getCore s core).ringBusy = false)
    (htiles : (getCore s core).tiles = e :: rest) (hbank : (voyageMask s (coreCluster core)).testBit e.op.bank = false)
    (hclusters : (runTile s core e).clusters = s.clusters) (hvsaves : (runTile s core e).vsaves = s.vsaves) :
    exec (.tileComplete core) s = .next (tileLeft (runTile s core e) core rest) := by
  have hspoil : spoilBank (runTile s core e) core e.op.bank = runTile s core e := spoilBank_free (by rw [voyageMask_congr hclusters hvsaves]; exact hbank)
  show execTileComplete core s = _
  simp only [execTileComplete, htiles, hbusy, hring, hspoil, Bool.false_eq_true, if_false, if_true]
  rfl

/-- The instruction `op` of core `core` completes at `s` with the state `t`, and leaves the queue `rest` behind it. -/
def TileDone (s : State) (core : Nat) (e : TileEntry) (op : TileOp) (rest : List TileEntry) (t : State) : Prop :=
  (getCore s core).tiles = { e with op := op } :: rest ∧ exec (.tileComplete core) s = .next t ∧ (getCore t core).tiles = rest
    ∧ (getCore t core).tileBusy = headStreams rest ∧ ∀ c, c ≠ core → getCore t c = getCore s c

theorem getBank_tileLeft (u : State) (core : Nat) (rest : List TileEntry) (y : Nat) :
    getBank (getCore (tileLeft u core rest) core) y = getBank (getCore u core) y := by
  rw [tileLeft, getCore_setCore, getBank, getBank]

theorem getBank_setBank (k : CoreState) (z : Nat) (b : Bank) (y : Nat) : getBank (setBank k z b) y = if y = z then b else getBank k y := by
  split
  · next h => exact h ▸ AMap.getD_set_self _ _ _ _
  · next h => exact AMap.getD_set_ne _ _ _ h

section

variable {op : TileOp} (hbusy : (getCore s core).tileBusy = true) (hring : (getCore s core).ringBusy = false)
  (hbank : (voyageMask s (coreCluster core)).testBit op.bank = false) (htiles : (getCore s core).tiles = { e with op := op } :: rest)
include hbusy hring hbank htiles

theorem tileDone_of_run (hrun : runTile s core { e with op := op } = u) (hclusters : u.clusters = s.clusters) (hvsaves : u.vsaves = s.vsaves)
    (hothers : ∀ c, c ≠ core → getCore u c = getCore s c) : TileDone s core e op rest (tileLeft u core rest) := by
  subst hrun
  refine ⟨htiles, exec_tileComplete hbusy hring htiles hbank hclusters hvsaves, ?_, ?_, fun c hc => (getCore_setCore_ne _ _ hc).trans (hothers c hc)⟩
  · rw [tileLeft, getCore_setCore]
  · rw [tileLeft, getCore_setCore]

/-- An instruction that writes its bank, and of its thread at most the status, completes with both. -/
theorem tileDone_bank {b : Bank} {l : AMap ThreadState}
    (hrun : runTile s core { e with op := op } = { setCore s core (setBank (getCore s core) op.bank b) with threads := l }) :
    ∃ t, TileDone s core e op rest t ∧ (∀ y, getBank (getCore t core) y = if y = op.bank then b else getBank (getCore s core) y) ∧ SameMem s t
      ∧ t.threads = l := by
  refine ⟨_, tileDone_of_run hbusy hring hbank htiles hrun rfl rfl fun c hc => getCore_setCore_ne s _ hc, fun y => ?_, fun _ => rfl, rfl⟩
  rw [getBank_tileLeft, ← getBank_setBank]
  exact congrArg (getBank · y) (getCore_setCore s core _)

end

/-! ### What each instruction does (R309–R311) -/

theorem latchReader_nil (hlatched : e.latched = []) (side : Nat) : latchReader s k e side = padReader s k :=
  latchReader_now (fun _ hx => absurd (hlatched ▸ hx) List.not_mem_nil) side

theorem runTile_load {src : Nat} (hlatched : e.latched = []) (hop : e.op = .load z src) : runTile s k e
    = setCore s k (setBank (getCore s k) z { z := bankOf fun i j => BitVec.ofNat 32 (padReader s k (src + 4 * (16 * i + j)) 4), cs := [] }) := by
  rw [runTile, hop, latchReader_nil hlatched]

/-- The threads after a `tmma`: its own has the status of a digit that is none (R232, R314). -/
def mmaThreads (s : State) (tag : Nat) (bad : Bool) : AMap ThreadState :=
  if bad then AMap.set s.threads tag { getThread s tag with tstat := (getThread s tag).tstat ||| 2 } else s.threads

theorem mmaThreads_good {tag : Nat} {bad : Bool} (h : bad = false) : mmaThreads s tag bad = s.threads := if_neg (ne_true_of_eq_false h)

theorem mmaThreads_bad {tag : Nat} {bad : Bool} (h : bad = true) :
    AMap.getD (mmaThreads s tag bad) tag {} = { getThread s tag with tstat := (getThread s tag).tstat ||| 2 } := by
  rw [mmaThreads, if_pos h, AMap.getD_set_self]

theorem runTile_mma {fa fb : BitVec 3} {a b kk q p : Nat} (hlatched : e.latched = []) (hop : e.op = .mma z fa fb a b kk q p) : runTile s k e
    = { setCore s k (setBank (getCore s k) z ((Mma.mk fa fb a b kk q p).run (padReader s k) (padReader s k) (getBank (getCore s k) z))) with
        threads := mmaThreads s e.tag ((Mma.mk fa fb a b kk q p).badDigit (padReader s k)) } := by
  simp only [runTile, hop, latchReader_nil hlatched, mmaThreads]
  split
  · rfl
  · rfl

/-- i8 operands leave the exact sum of their products, modulo 2^32 (R239). -/
theorem element_i8 (rd : Reader) (a b kk q p i j acc : Nat) : BitVec.ofNat 32 ((Mma.mk 4 4 a b kk q p).element rd rd i j acc)
    = BitVec.ofNat 32 acc + BitVec.ofInt 32 ((List.range kk).map fun x => sx8 (rd (a + kk * i + x) 1) * sx8 (rd (b + kk * j + x) 1)).sum := by
  rw [← rangeFrom_zero, ← ofNat_foldl_products]
  have hbytes : elemBytes 4 = 1 := rfl
  have hformat : ((4 : BitVec 3) == 6) = false := rfl
  simp only [Mma.element, Mma.aBits, Mma.bBits, hbytes, hformat, beq_self_eq_true, Bool.false_eq_true, if_false, if_true, Nat.mul_one, Nat.add_assoc]

/-! ### What a drain writes (R137, R240, R313) -/

/-- The element (r, c) that a drain stores. -/
def drainElement (rd : Reader) (b : Bank) (d : DrainArgs) (dst stride r c : Nat) : Nat :=
  d.element (b.at r c) (b.csAt c) c (if d.acc then rd (dst + r * stride + c * drainBytes d.fmt) (drainBytes d.fmt) else 0)

theorem drainBytes_pos (f : BitVec 3) : 0 < drainBytes f := by
  unfold drainBytes
  split
  all_goals decide

theorem length_flatMap_bytesOf (n : Nat) (l : List Nat) : (l.flatMap (bytesOf n)).length = l.length * n := by
  induction l with
  | nil => exact (Nat.zero_mul n).symm
  | cons y l ih => rw [List.flatMap_cons, List.length_append, bytesOf_length, ih, List.length_cons]; ring

/-- The bytes of elements that stand side by side. -/
theorem getD_flatMap_bytesOf (l : List Nat) {c q : Nat} (hc : c < l.length) (hq : q < n) :
    (l.flatMap (bytesOf n)).getD (c * n + q) 0 = (bytesOf n (l.getD c 0)).getD q 0 := by
  induction l generalizing c with
  | nil => exact absurd hc (Nat.not_lt_zero c)
  | cons y l ih =>
    rw [List.flatMap_cons]
    cases c with
    | zero => rw [Nat.zero_mul, Nat.zero_add, List.getD_append _ _ _ _ (by rw [bytesOf_length]; exact hq), List.getD_cons_zero]
    | succ c =>
      have hplace : (c + 1) * n + q - n = c * n + q := by rw [Nat.succ_mul]; omega
      rw [List.getD_append_right _ _ _ _ (by rw [bytesOf_length, Nat.succ_mul]; omega), bytesOf_length, hplace, ih (Nat.lt_of_succ_lt_succ hc), List.getD_cons_succ]

section

variable {w : Writer} (hflag : w.flagAt = none)
include hflag

/-- Rows that agree wherever they overlap are all there once they are written. -/
theorem byteAt_padRows {rows : List (Nat × List Byte)} {val : Nat → Byte} (hwf : Memory.wf s.mem = true)
    (hval : ∀ r ∈ rows, ∀ q < r.2.length, r.2.getD q 0 = val (padKey k r.1 + q)) (y : Nat) :
    (padRows s k w rows).byteAt y = (if ∃ r ∈ rows, padKey k r.1 ≤ y ∧ y < padKey k r.1 + r.2.length then val y else s.byteAt y) := by
  induction rows generalizing s with
  | nil => simp [padRows]
  | cons r rows ih =>
    have hrow : padRows s k w (r :: rows) = padRows (performWrite s (padKey k r.1) r.2 w [] false) k w rows := by
      rw [← homeWrite_plain hflag]
      rfl
    rw [hrow, ih (performWrite_wf s _ _ _ _ _ hwf) fun x hx => hval x (List.mem_cons_of_mem _ hx), byteAt_performWrite s _ _ _ _ _ hwf]
    by_cases hlater : ∃ x ∈ rows, padKey k x.1 ≤ y ∧ y < padKey k x.1 + x.2.length
    · rw [if_pos hlater, if_pos (by obtain ⟨x, hx, hin⟩ := hlater; exact ⟨x, List.mem_cons_of_mem _ hx, hin⟩)]
    · rw [if_neg hlater]
      by_cases hhere : padKey k r.1 ≤ y ∧ y < padKey k r.1 + r.2.length
      · rw [if_pos hhere, if_pos ⟨r, List.mem_cons_self, hhere⟩, hval r List.mem_cons_self _ (by omega), Nat.add_sub_cancel' hhere.1]
      · rw [if_neg hhere, if_neg]
        rintro ⟨x, hx, hin⟩
        rcases List.mem_cons.mp hx with rfl | hx
        · exact hhere hin
        · exact hlater ⟨x, hx, hin⟩

theorem padRows_wf {rows : List (Nat × List Byte)} (hwf : Memory.wf s.mem = true) : Memory.wf (padRows s k w rows).mem = true :=
  List.foldlRecOn (motive := fun u : State => Memory.wf u.mem = true) rows _ hwf fun u hu r _ => by
    rw [homeWrite_plain hflag]
    exact performWrite_wf u _ _ _ _ _ hu

/-- The flag's byte after a drain has written it. -/
theorem byteAt_setFlag {o : Nat} {v : Bool} (hwf : Memory.wf s.mem = true) (y : Nat) : (setFlag s k w o v).byteAt y
    = if y = padKey k o + 4 then (if v then s.byteAt (padKey k o + 4) ||| 0x80 else s.byteAt (padKey k o + 4) &&& 0x7F) else s.byteAt y := by
  rw [setFlag, homeWrite_plain hflag, byteAt_performWrite s _ _ _ _ _ hwf, padKey_add]
  by_cases hy : y = padKey k o + 4
  · subst hy
    simp
  · rw [if_neg hy, if_neg (by simp only [List.length_singleton]; omega)]

end

/-- The byte at `m` behind the start of a drain's destination, when it is one of its elements'. -/
def drainByte (elt : Nat → Nat → Nat) (n stride m : Nat) : Byte := (bytesOf n (elt (m / stride) (m % stride / n))).getD (m % stride % n) 0

theorem drainByte_eq {elt : Nat → Nat → Nat} {stride r c q : Nat} (hstride : 16 * n ≤ stride) (hc : c < 16) (hq : q < n) :
    drainByte elt n stride (r * stride + (c * n + q)) = (bytesOf n (elt r c)).getD q 0 := by
  have hin : c * n + q < stride := by nlinarith
  obtain ⟨hrow, hrest⟩ := (Nat.div_mod_unique (show 0 < stride by omega)).mpr ⟨show c * n + q + stride * r = r * stride + (c * n + q) by ring, hin⟩
  obtain ⟨hcolumn, hbyte⟩ := (Nat.div_mod_unique (show 0 < n by omega)).mpr ⟨show q + n * c = c * n + q by ring, hq⟩
  rw [drainByte, hrow, hrest, hcolumn, hbyte]

section

variable {w : Writer} {rd : Reader} {b : Bank} {d : DrainArgs} {dst stride : Nat}

/-- The place of element (r, c) of a drain's destination. -/
def drainCell (k : Nat) (d : DrainArgs) (dst stride r c : Nat) : Nat := padKey k (dst + r * stride + c * drainBytes d.fmt)

/-- The location stands in the cell of an element of a drain. -/
def InDrainCells (k : Nat) (d : DrainArgs) (dst stride y : Nat) : Prop :=
  ∃ r c, r < 16 ∧ c < 16 ∧ drainCell k d dst stride r c ≤ y ∧ y < drainCell k d dst stride r c + drainBytes d.fmt

/-- The location is the byte of a drain's flag that holds bit 39 of its word (R313). -/
def IsFlagByte (k : Nat) (flag : Option Nat) (y : Nat) : Prop := ∃ o, flag = some o ∧ y = padKey k o + 4

theorem mem_drainRows {x : Nat × List Byte} : x ∈ (drainRows rd b d dst stride).1
    ↔ ∃ i < 16, x = (dst + i * stride, ((List.range 16).map (drainElement rd b d dst stride i)).flatMap (bytesOf (drainBytes d.fmt))) := by
  rw [← rangeFrom_zero]
  refine List.mem_map.trans (exists_congr fun i => and_congr ?_ eq_comm)
  rw [mem_rangeFrom]
  omega

/-- What a drain's rows leave: the cells of its elements stand apart, so that each holds its own element, and nothing else is written. -/
theorem byteAt_drainRows (hwf : Memory.wf s.mem = true) (hflag : w.flagAt = none) (hstride : 16 * drainBytes d.fmt ≤ stride) :
    (∀ r c q, r < 16 → c < 16 → q < drainBytes d.fmt → (padRows s k w (drainRows rd b d dst stride).1).byteAt (drainCell k d dst stride r c + q)
        = (bytesOf (drainBytes d.fmt) (drainElement rd b d dst stride r c)).getD q 0)
    ∧ ∀ y, ¬InDrainCells k d dst stride y → (padRows s k w (drainRows rd b d dst stride).1).byteAt y = s.byteAt y := by
  have hpos := drainBytes_pos d.fmt
  have hlength : ∀ i, (((List.range 16).map (drainElement rd b d dst stride i)).flatMap (bytesOf (drainBytes d.fmt))).length = 16 * drainBytes d.fmt := fun i => by
    rw [length_flatMap_bytesOf, List.length_map, List.length_range]
  have hrows := byteAt_padRows (s := s) (k := k) hflag (rows := (drainRows rd b d dst stride).1)
    (val := fun y => drainByte (drainElement rd b d dst stride) (drainBytes d.fmt) stride (y - padKey k dst)) hwf (fun x hx q hq => by
      obtain ⟨i, hi, rfl⟩ := mem_drainRows.mp hx
      rw [hlength] at hq
      have hcolumn : q / drainBytes d.fmt < 16 := Nat.div_lt_of_lt_mul (by rw [Nat.mul_comm]; exact hq)
      have hplace : q = q / drainBytes d.fmt * drainBytes d.fmt + q % drainBytes d.fmt := (Nat.div_add_mod' _ _).symm
      have hbyte := Nat.mod_lt q hpos
      have hoffset : padKey k (dst + i * stride) + q - padKey k dst = i * stride + q := by rw [padKey_add]; omega
      dsimp only
      rw [hoffset, hplace, drainByte_eq hstride hcolumn hbyte, getD_flatMap_bytesOf _ (by simpa using hcolumn) hbyte]
      simp [hcolumn])
  refine ⟨fun r c q hr hc hq => ?_, fun y hy => ?_⟩
  · have hcell : drainCell k d dst stride r c = padKey k (dst + r * stride) + c * drainBytes d.fmt := padKey_add _ _ _
    have hin : c * drainBytes d.fmt + q < 16 * drainBytes d.fmt := by nlinarith
    have hoffset : drainCell k d dst stride r c + q - padKey k dst = r * stride + (c * drainBytes d.fmt + q) := by rw [hcell, padKey_add]; omega
    rw [hrows, if_pos ⟨_, mem_drainRows.mpr ⟨r, hr, rfl⟩, by dsimp only; rw [hlength]; omega⟩, hoffset, drainByte_eq hstride hc hq]
  · rw [hrows, if_neg]
    rintro ⟨x, hx, hin⟩
    obtain ⟨i, hi, rfl⟩ := mem_drainRows.mp hx
    dsimp only at hin
    rw [hlength] at hin
    have hcolumn : (y - padKey k (dst + i * stride)) / drainBytes d.fmt < 16 := Nat.div_lt_of_lt_mul (show _ < drainBytes d.fmt * 16 by omega)
    have hplace := Nat.div_add_mod' (y - padKey k (dst + i * stride)) (drainBytes d.fmt)
    have hbyte := Nat.mod_lt (y - padKey k (dst + i * stride)) hpos
    refine hy ⟨i, _, hi, hcolumn, ?_⟩
    rw [drainCell, padKey_add]
    omega

/-- Every element of a drain is zero (R313). -/
theorem drainRows_zero : (drainRows rd b d dst stride).2 = true ↔ ∀ r c, r < 16 → c < 16 → drainZero d.fmt (drainElement rd b d dst stride r c) = true := by
  have hall : (drainRows rd b d dst stride).2
      = (rangeFrom 16 0).all fun r => ((rangeFrom 16 0).map (drainElement rd b d dst stride r)).all fun y => drainZero d.fmt y := rfl
  rw [hall]
  simp only [List.all_eq_true, List.all_map, rangeFrom_zero, List.mem_range, Function.comp_apply]
  exact ⟨fun h r c hr hc => h r hr c hc, fun h r hr c hc => h r c hr hc⟩

/-- What a drain puts out, once it has read its biases and old values, is what stands at its operands. -/
theorem drainOutput_now {f : BitVec 3} {scale : BitVec 32} {bias flag : Option Nat} {relu acc prop : Bool} (hnow : LatchedNow s k e)
    (hop : e.op = .drain z f dst scale bias relu acc prop flag stride) : drainOutput s k e
      = drainRows (padReader s k) (getBank (getCore s k) z)
          ⟨f, scale, bias.map fun o => (List.range 16).map fun j => (j, BitVec.ofNat 32 (padReader s k (o + 4 * j) 4)), relu, acc, prop⟩ dst stride := by
  rw [drainOutput, hop, ← rangeFrom_zero]
  dsimp only
  rw [latchReader_now hnow]

end

/-- What a drain's flag names is written after its rows (R313). -/
def withFlag (s : State) (k : Nat) (w : Writer) (flag : Option Nat) (v : Bool) : State :=
  match flag with
  | some o => setFlag s k w o v
  | none => s

/-- A drain that has read and written nothing writes all its rows, and its flag. -/
theorem runTile_drain {f : BitVec 3} {dst stride : Nat} {scale : BitVec 32} {bias flag : Option Nat} {relu acc prop : Bool} {d : DrainArgs}
    (hlatched : e.latched = []) (hrows : (getCore s k).rows = 0) (hop : e.op = .drain z f dst scale bias relu acc prop flag stride)
    (hd : d = ⟨f, scale, bias.map fun o => (List.range 16).map fun j => (j, BitVec.ofNat 32 (padReader s k (o + 4 * j) 4)), relu, acc, prop⟩) :
    runTile s k e = withFlag (padRows s k ((getThread s e.tag).writer e.tag none) (drainRows (padReader s k) (getBank (getCore s k) z) d dst stride).1) k
      ((getThread s e.tag).writer e.tag none) flag (drainRows (padReader s k) (getBank (getCore s k) z) d dst stride).2 := by
  have hnow : LatchedNow s k (e.latch s k e.op.chunks) :=
    latchedNow_latch (fun _ hx => absurd (hlatched ▸ hx) List.not_mem_nil) fun x hx => drain_chunks_side (hop ▸ hx)
  have hout := drainOutput_now hnow ((latch_op e s k _).trans hop)
  rw [← hd] at hout
  rw [hop] at hout
  simp only [runTile, hop, hout, hrows, List.drop_zero]
  cases flag with
  | none => rfl
  | some o => rfl

theorem homesOnly_padRows (s : State) (k : Nat) (w : Writer) (rows : List (Nat × List Byte)) : HomesOnly s (padRows s k w rows) :=
  .foldl (fun _ _ => homesOnly_homeWrite _ _ _ _ _) rows

theorem homesOnly_withFlag (s : State) (k : Nat) (w : Writer) (flag : Option Nat) (v : Bool) : HomesOnly s (withFlag s k w flag v) := by
  cases flag with
  | none => exact .refl s
  | some o => exact homesOnly_homeWrite _ _ _ _ _

theorem byteAt_withFlag_other {w : Writer} (hflag : w.flagAt = none) (hwf : Memory.wf s.mem = true) {flag : Option Nat} {v : Bool} {y : Nat}
    (hy : ¬IsFlagByte k flag y) : (withFlag s k w flag v).byteAt y = s.byteAt y := by
  cases flag with
  | none => rfl
  | some o => exact (byteAt_setFlag hflag hwf y).trans (if_neg fun h => hy ⟨o, rfl, h⟩)

/-- The flag of a drain is bit 7 of its byte, and the byte's other bits stay (R313). -/
theorem byteAt_withFlag {w : Writer} (hflag : w.flagAt = none) (hwf : Memory.wf s.mem = true) {flag : Option Nat} {v : Bool} {y : Nat}
    (hy : IsFlagByte k flag y) :
    ((withFlag s k w flag v).byteAt y).getLsbD 7 = v ∧ (withFlag s k w flag v).byteAt y &&& 0x7F = s.byteAt y &&& 0x7F := by
  obtain ⟨o, rfl, rfl⟩ := hy
  have hbyte := (byteAt_setFlag hflag hwf (k := k) (o := o) (v := v) (padKey k o + 4)).trans (if_pos rfl)
  have hset : ∀ c : Byte, (c ||| 0x80).getLsbD 7 = true ∧ (c ||| 0x80) &&& 0x7F = c &&& 0x7F := by decide
  have hclear : ∀ c : Byte, (c &&& 0x7F).getLsbD 7 = false ∧ (c &&& 0x7F) &&& 0x7F = c &&& 0x7F := by decide
  rw [withFlag, hbyte]
  cases v with
  | true => exact hset _
  | false => exact hclear _

/-- A drain that has read and written nothing completes with its elements in their cells, its flag, and nothing else of memory. -/
theorem tileDone_drain {f : BitVec 3} {dst stride : Nat} {scale : BitVec 32} {bias flag : Option Nat} {relu acc prop : Bool} {d : DrainArgs}
    (hbusy : (getCore s core).tileBusy = true) (hring : (getCore s core).ringBusy = false) (hbank : (voyageMask s (coreCluster core)).testBit z = false)
    (htiles : (getCore s core).tiles = { e with op := .drain z f dst scale bias relu acc prop flag stride } :: rest) (hlatched : e.latched = [])
    (hrows : (getCore s core).rows = 0) (hwf : Memory.wf s.mem = true) (hstride : 16 * drainBytes d.fmt ≤ stride)
    (hd : d = ⟨f, scale, bias.map fun o => (List.range 16).map fun j => (j, BitVec.ofNat 32 (padReader s core (o + 4 * j) 4)), relu, acc, prop⟩) :
    let elt := drainElement (padReader s core) (getBank (getCore s core) z) d dst stride
    ∃ t, TileDone s core e (.drain z f dst scale bias relu acc prop flag stride) rest t
      ∧ (∀ r c, r < 16 → c < 16 → (∀ x, drainCell core d dst stride r c ≤ x → x < drainCell core d dst stride r c + drainBytes d.fmt → ¬IsFlagByte core flag x) →
          t.bytesAt (drainBytes d.fmt) (drainCell core d dst stride r c) = bytesOf (drainBytes d.fmt) (elt r c))
      ∧ (∀ x, IsFlagByte core flag x → ((t.byteAt x).getLsbD 7 = true ↔ ∀ r c, r < 16 → c < 16 → drainZero d.fmt (elt r c) = true)
          ∧ (¬InDrainCells core d dst stride x → t.byteAt x &&& 0x7F = s.byteAt x &&& 0x7F))
      ∧ (∀ x, ¬InDrainCells core d dst stride x → ¬IsFlagByte core flag x → t.byteAt x = s.byteAt x)
      ∧ (getCore t core).banks = (getCore s core).banks ∧ t.threads = s.threads := by
  intro elt
  have hrun := runTile_drain (e := { e with op := .drain z f dst scale bias relu acc prop flag stride }) hlatched hrows rfl hd
  have hzero := drainRows_zero (rd := padReader s core) (b := getBank (getCore s core) z) (d := d) (dst := dst) (stride := stride)
  generalize hw : (getThread s _).writer _ none = w at hrun
  have hflag : w.flagAt = none := hw ▸ rfl
  obtain ⟨hcells, hrest⟩ := byteAt_drainRows (k := core) (rd := padReader s core) (b := getBank (getCore s core) z) (dst := dst) hwf hflag hstride
  generalize drainRows (padReader s core) (getBank (getCore s core) z) d dst stride = out at hrun hcells hrest hzero
  have hwf' := padRows_wf (k := core) (rows := out.1) hflag hwf
  have hhomes : HomesOnly s (withFlag (padRows s core w out.1) core w flag out.2) := (homesOnly_padRows _ _ _ _).trans (homesOnly_withFlag _ _ _ _ _)
  have hother := fun x => byteAt_withFlag_other (k := core) (flag := flag) (v := out.2) (y := x) hflag hwf'
  have hbit := fun x => byteAt_withFlag (k := core) (flag := flag) (v := out.2) (y := x) hflag hwf'
  generalize withFlag (padRows s core w out.1) core w flag out.2 = u at hrun hhomes hother hbit
  generalize padRows s core w out.1 = v at hcells hrest hother hbit
  have hcores : ∀ c, getCore u c = getCore s c := fun c => by rw [hhomes.eq]; rfl
  refine ⟨_, tileDone_of_run hbusy hring hbank htiles hrun (by rw [hhomes.eq]) (by rw [hhomes.eq]) fun c _ => hcores c, fun r c hr hc hclear => ?_,
    fun x hx => ⟨?_, fun hout => ?_⟩, fun x hout hx => (hother x hx).trans (hrest x hout), ?_, ?_⟩
  · have hlen := bytesOf_length (drainBytes d.fmt) (elt r c)
    have hbytes := bytesAt_of_byteAt (s := tileLeft u core rest) (bytesOf (drainBytes d.fmt) (elt r c)) (drainCell core d dst stride r c) fun y hlo hhi => by
      rw [hlen] at hhi
      have hbyte := hcells r c (y - drainCell core d dst stride r c) hr hc (by omega)
      rw [Nat.add_sub_cancel' hlo] at hbyte
      exact (hother y (hclear y hlo hhi)).trans hbyte
    rwa [hlen] at hbytes
  · rw [← hzero]
    exact Eq.to_iff (congrArg (· = true) (hbit x hx).1)
  · have hkept := (hbit x hx).2
    rw [hrest x hout] at hkept
    exact hkept
  · rw [tileLeft, getCore_setCore, hcores]
  · exact (congrArg State.threads hhomes.eq).trans rfl

end Sys2Proof.Machine

namespace Sys2Proof

open Sys2Proof.Machine Sys2Proof.Safety

/-- Settles O46: an instruction completes with what `runTile` makes of its bank (`tileDone_bank`), or, for a drain, of the bytes of its cells and its flag
(`byteAt_drainRows`, `byteAt_withFlag`). -/
theorem tileInstructionsRun : Obligations.TileInstructionsRun := by
  unfold Obligations.TileInstructionsRun
  intro s core z src kk q p dst stride fa fb f a b i j scale relu acc prop bias flag e rest k rd old Done bs els cell inCells flagByte m th
  refine ⟨fun hfree hring htiles hwants hwaits => ⟨_, exec_tileStart hfree hring htiles hwants hwaits, getCore_setCore _ _ _, rfl, fun _ => rfl⟩,
    fun hring => ⟨_, exec_tileComplete_ring hring, getCore_setCore _ _ _, rfl, fun _ => rfl⟩, fun hbusy hring hlatched hrows hbank hi hj =>
      ⟨fun htiles => ?_, fun htiles => ?_, fun htiles => ?_, fun htiles hinv hstride => ?_⟩⟩
  · obtain ⟨t, hdone, hbanks, hmem, hthreads⟩ := tileDone_bank (op := .zero z) hbusy hring hbank htiles rfl
    exact ⟨t, hdone, (hbanks z).trans (if_pos rfl), hmem, hthreads⟩
  · obtain ⟨t, hdone, hbanks, hmem, hthreads⟩ := tileDone_bank (op := .load z src) hbusy hring hbank htiles (runTile_load hlatched rfl)
    have hz := (hbanks z).trans (if_pos rfl)
    exact ⟨t, hdone, by rw [hz]; exact bankOf_at _ hi hj, by rw [hz]; rfl, hmem, hthreads⟩
  · obtain ⟨t, hdone, hbanks, hmem, hthreads⟩ := tileDone_bank (op := .mma z fa fb a b kk q p) hbusy hring hbank htiles (runTile_mma hlatched rfl)
    have hz : (getBank (getCore t core) z).at i j = BitVec.ofNat 32 (m.element rd rd i j old.toNat) :=
      (congrArg (Bank.at · i j) ((hbanks z).trans (if_pos rfl))).trans (bankOf_at _ hi hj)
    refine ⟨t, hdone, hmem, hz, ?_, fun hgood => ?_, fun hbad => ?_, fun y hy => (hbanks y).trans (if_neg hy)⟩
    · rintro rfl rfl
      rw [hz]
      exact (element_i8 rd a b kk q p i j old.toNat).trans (by rw [BitVec.ofNat_toNat, BitVec.setWidth_eq])
    · exact hthreads.trans (mmaThreads_good hgood)
    · rw [getThread, hthreads]
      exact mmaThreads_bad hbad
  · obtain ⟨hwf, -⟩ := hinv
    obtain ⟨t, hdone, hcells, hflag, hrest⟩ := tileDone_drain (d := ⟨f, scale, bs, relu, acc, prop⟩) hbusy hring hbank htiles hlatched hrows hwf hstride rfl
    exact ⟨t, hdone, hcells i j hi hj, hflag, hrest⟩

end Sys2Proof
end

section
/-! ## Every instruction, event and step answers a next state (R123, R139, R244) -/

namespace Sys2Proof.Machine

open Safety

/-- The outcome is a next state: no fault, no refusal. -/
def Answers (o : Out) : Prop := ∃ t, o = .next t

/-- It closes a trap, a forfeit, a wait and a request too: each unfolds to a next state. -/
theorem Answers.next {s : State} : Answers (.next s) := ⟨s, rfl⟩

theorem Answers.ite {c : Prop} [Decidable c] {p q : Out} (hp : Answers p) (hq : Answers q) : Answers (if c then p else q) := by
  split
  · exact hp
  · exact hq

section

variable {s : State}

/-! ### Loads, stores and atomics -/

theorem answers_load {d a i n signed} : Answers (load d a i n signed s) := by
  unfold load
  refine .ite .next ?_
  split
  · exact .next
  · exact .next
  · exact .ite (.ite .next .next) .next
  · exact .next
  · exact .ite .next .next
  · exact .next

theorem answers_store {b a i n} : Answers (store b a i n s) := by
  unfold store
  refine .ite .next ?_
  split
  · exact .next
  · exact .next
  · exact .ite (.ite .next .next) .next
  · exact .next
  · refine .ite .next ?_
    split
    · exact .next
    · exact .ite .next .next
    · exact .next
  · exact .ite .next .next

theorem answers_atomic {op n d a b o c} : Answers (atomic op n d a b o c s) := by
  unfold atomic
  refine .ite .next ?_
  split
  · exact .next
  · exact .next
  · exact .ite .next .next
  · exact .next
  · split
    · exact .ite .next .next
    · exact .next
  · exact .next

theorem answers_syncOp {op d v a off} : Answers (syncOp op d v a off s) := by
  unfold syncOp
  refine .ite .next ?_
  split
  · exact .ite .next (.ite (.ite .next .next) .next)
  · exact .next

/-! ### Other instructions -/

theorem answers_execMget {d n} : Answers (execMget d n s) := by
  unfold execMget
  dsimp only
  split
  all_goals exact .next

theorem answers_execMpeek {d n} : Answers (execMpeek d n s) := by
  unfold execMpeek
  split
  all_goals exact .next

theorem answers_serveCall {fid d a n} : Answers (serveCall s fid d a n) := by
  unfold serveCall
  extract_lets
  split
  · exact .ite .next (.ite .next (.ite .next .next))
  · exact .ite .next (.ite .next .next)

theorem answers_execSevict {a} : Answers (execSevict a s) := by
  unfold execSevict
  dsimp only
  split
  all_goals exact .next

theorem answers_execTmma {d a b z g f} : Answers (execTmma d a b z g f s) := by
  unfold execTmma
  refine .ite .next ?_
  split
  · exact .ite .next .next
  · exact .next

theorem answers_execTdrain {a b z f} : Answers (execTdrain a b z f s) := by
  unfold execTdrain
  split
  · exact .next
  · refine .ite .next (.ite .next (.ite .next ?_))
    split
    · exact .ite .next (.ite .next (.ite .next .next))
    · exact .next

theorem answers_execTload {a z} : Answers (execTload a z s) := by
  unfold execTload
  split
  · exact .ite .next (.ite .next .next)
  · exact .next

theorem answers_execVstart {a} : Answers (execVstart a s) := by
  unfold execVstart
  refine .ite .next (.ite (.ite .next ?_) .next)
  split
  · exact .next
  · exact .next
  · exact .next
  · extract_lets
    split
    · exact .next
    · exact .next

theorem answers_execRget {d} : Answers (execRget d s) := by
  unfold execRget
  split
  · exact .next
  · split
    all_goals exact .next

theorem answers_execRdsys {d b} : Answers (execRdsys d b s) := by
  unfold execRdsys
  split
  all_goals exact .next

theorem answers_execWrsys {a b} : Answers (execWrsys a b s) := by
  unfold execWrsys
  split
  all_goals exact .next

/-! ### Commands -/

theorem answers_execGet {core q} : Answers (execGet core q s) := by
  unfold execGet
  split
  all_goals exact .next

theorem answers_execPut {core q} : Answers (execPut core q s) := by
  unfold execPut
  split
  all_goals exact .next

theorem answers_execGetx {core q} : Answers (execGetx core q s) := by
  unfold execGetx
  split
  · exact .next
  · refine .ite .next ?_
    split
    all_goals exact .next

theorem answers_execPutx {core q} : Answers (execPutx core q s) := by
  unfold execPutx
  split
  · exact .next
  · refine .ite .next ?_
    split
    all_goals exact .next

theorem answers_execCopy {core q} : Answers (execCopy core q s) := by
  unfold execCopy
  split
  · exact .next
  · exact .ite .next (.ite .next .next)

theorem answers_execFill {core q} : Answers (execFill core q s) := by
  unfold execFill
  split
  · exact .next
  · exact .ite .next .next

theorem answers_execRedput {core q} : Answers (execRedput core q s) := by
  unfold execRedput
  split
  all_goals exact .next

theorem answers_execChain {core q} : Answers (execChain core q s) := by
  unfold execChain
  split
  · exact .next
  · refine .ite .next (.ite .next ?_)
    dsimp only
    split
    · exact .next
    · exact .ite .next (.ite .next .next)

theorem answers_execHalo {core q} : Answers (execHalo core q s) := by
  unfold execHalo
  split
  · exact .next
  · refine .ite .next (.ite ?_ .next)
    split
    all_goals exact .next

theorem answers_execBind {core q} : Answers (execBind core q s) := by
  unfold execBind
  split
  · exact .next
  · exact .ite .next (.ite .next (.ite .next (.ite .next .next)))

theorem answers_execScan {core q} : Answers (execScan core q s) := by
  unfold execScan
  split
  · exact .next
  · refine .ite .next (.ite .next (.ite .next ?_))
    split
    · refine .ite ?_ .next
      split
      all_goals exact .next
    · exact .next
    · exact .next
    · exact .next

theorem answers_execProbe {core q} : Answers (execProbe core q s) := by
  unfold execProbe
  split
  · exact .next
  · refine .ite .next ?_
    split
    · exact .next
    · dsimp only
      split
      · exact .ite .next .next
      · exact .next

theorem answers_execCommandStart {core q} : Answers (execCommandStart core q s) := by
  unfold execCommandStart
  split
  · exact .next
  · exact .ite .next .next

theorem answers_execCommandComplete {core q} : Answers (execCommandComplete core q s) := by
  unfold execCommandComplete
  split
  · exact .ite .next .next
  · split
    · exact .next
    · exact .ite .next (.ite .next .next)

theorem answers_execFaceDelivered {core q face} : Answers (execFaceDelivered core q face s) := by
  unfold execFaceDelivered
  split
  · exact .next
  · refine .ite .next (.ite .next ?_)
    split
    all_goals exact .next

/-! ### The host's answers and requests -/

theorem answers_execAnswerCrewPlacement {rec} : Answers (execAnswerCrewPlacement rec s) := by
  unfold execAnswerCrewPlacement
  split
  · exact .next
  · split
    · split
      · exact .next
      · exact .ite .next .next
    · exact .next

theorem answers_execAnswerImagePlacement {rec} : Answers (execAnswerImagePlacement rec s) := by
  unfold execAnswerImagePlacement
  split
  · exact .next
  · split
    · refine .ite ?_ (.ite .next .next)
      split
      all_goals exact .next
    · exact .next

theorem answers_execAnswerTierMigration {rec} : Answers (execAnswerTierMigration rec s) := by
  unfold execAnswerTierMigration
  split
  · exact .next
  · split
    all_goals exact .next

theorem answers_execAnswerSpill {rec} : Answers (execAnswerSpill rec s) := by
  unfold execAnswerSpill
  split
  · exact .next
  · split
    · split
      · exact .next
      · exact .ite .next .next
    · exact .next

theorem answers_execAnswerTwinReload {rec} : Answers (execAnswerTwinReload rec s) := by
  unfold execAnswerTwinReload
  split
  · exact .next
  · split
    · split
      all_goals exact .next
    · exact .next

theorem answers_request {self conn mseq mtype open_ lenGood act} : Answers (request self s conn mseq mtype open_ lenGood act) := by
  unfold request
  split
  · exact .next
  · exact .ite .next (.ite .next (.ite .next (.ite .next (.ite .next .next))))

theorem answers_execModuleReset {conn mseq len} : Answers (execModuleReset conn mseq len s) := by
  unfold execModuleReset
  split
  · exact .next
  · exact .ite .next (.ite .next answers_request)

theorem answers_execMeridianLaneFailure {port4} : Answers (execMeridianLaneFailure port4 s) := by
  unfold execMeridianLaneFailure
  dsimp only
  split
  · exact .next
  · exact .ite .next (.ite .next .next)

theorem answers_execMeridianAccess {kind src owner va size v} : Answers (execMeridianAccess kind src owner va size v s) := by
  unfold execMeridianAccess
  refine .ite .next ?_
  split
  · exact .ite .next .next
  · exact .next

/-! ### Records, units and crews -/

theorem answers_helmRead {queue kind} : Answers (helmRead s queue kind) := by
  unfold helmRead
  extract_lets
  split
  · exact .next
  · refine .ite .next (.ite .next ?_)
    extract_lets
    split
    · refine .ite ?_ .next
      split
      · exact .next
      · exact .next
    · exact .next

theorem answers_execNestedGraphStart {seq} : Answers (execNestedGraphStart seq s) := by
  unfold execNestedGraphStart
  split
  · exact .next
  · refine .ite ?_ .next
    split
    all_goals exact .next

theorem answers_execAbortedEntry {seq} : Answers (execAbortedEntry seq s) := by
  unfold execAbortedEntry
  split
  · exact .next
  · split
    · exact .next
    · exact .ite .next (.ite .next (.ite .next (.ite .next .next)))

theorem answers_execKeyTransferTimeout : Answers (execKeyTransferTimeout s) := by
  unfold execKeyTransferTimeout
  split
  · exact .ite .next .next
  · exact .next

theorem answers_admitUnits {seq kind place} : Answers (admitUnits s seq kind place) := by
  unfold admitUnits
  split
  · exact .next
  · refine .ite .next ?_
    split
    refine .ite .next (.ite .next (.ite .next ?_))
    split
    · exact .next
    · exact .next

theorem answers_execStreamAdmit {seq} : Answers (execStreamAdmit seq s) := by
  unfold execStreamAdmit
  split
  · exact .next
  · exact .ite .next .next

theorem answers_execVoyageAdmit {seq} : Answers (execVoyageAdmit seq s) := by
  unfold execVoyageAdmit
  split
  · exact .next
  · refine .ite .next ?_
    split
    extract_lets
    split
    · exact .next
    · exact .ite .next .next
    · exact .ite .next .next
    · refine .ite .next (.ite .next ?_)
      extract_lets
      split
      · exact .next
      · exact .next

theorem answers_execReservation {seq} : Answers (execReservation seq s) := by
  unfold execReservation
  split
  · exact .next
  · exact .ite .next .next

theorem answers_execPreemption {seq} : Answers (execPreemption seq s) := by
  unfold execPreemption
  split
  · exact .next
  · refine .ite .next ?_
    split
    · exact .next
    · exact .ite .next .next

theorem answers_execSaveComplete {crew} : Answers (execSaveComplete crew s) := by
  unfold execSaveComplete
  split
  · exact .next
  · exact .ite .next .next

theorem answers_execCrewResume {crew} : Answers (execCrewResume crew s) := by
  unfold execCrewResume
  split
  · exact .next
  · exact .ite .next (.ite .next .next)

theorem answers_execCrewRetire {crew} : Answers (execCrewRetire crew s) := by
  unfold execCrewRetire
  split
  · exact .next
  · refine .ite .next (.ite ?_ .next)
    dsimp only
    split
    · exact .next
    · exact .ite .next .next

theorem answers_execCrewEvent {crew} : Answers (execCrewEvent crew s) := by
  unfold execCrewEvent
  split
  · refine .ite ?_ .next
    split
    all_goals exact .next
  · exact .next

theorem answers_execPageMoveComplete {owner page} : Answers (execPageMoveComplete owner page s) := by
  unfold execPageMoveComplete
  split
  · exact .ite .next .next
  · exact .next

/-! ### What threads wait for -/

theorem answers_execLoadReturn {tag} : Answers (execLoadReturn tag s) := by
  unfold execLoadReturn
  dsimp only
  split
  · refine .ite .next (.ite .next ?_)
    split
    all_goals exact .next
  · exact .next

theorem answers_execHomeArrival {access} : Answers (execHomeArrival access s) := by
  unfold execHomeArrival
  split
  · exact .ite .next .next
  · split
    · exact .ite .next .next
    · exact .next

theorem answers_execReleaseAck {tag} : Answers (execReleaseAck tag s) := by
  unfold execReleaseAck
  split
  · exact .ite .next .next
  · exact .next

theorem answers_execWalkComplete {die owner page} : Answers (execWalkComplete die owner page s) := by
  unfold execWalkComplete
  dsimp only
  split
  all_goals exact .next

theorem answers_execIcacheFill {core line} : Answers (execIcacheFill core line s) := by
  unfold execIcacheFill
  split
  · exact .next
  · dsimp only
    split
    · exact .next
    · exact .next
    · exact .next
    · split
      all_goals exact .next

theorem answers_execSendArrives {msg} : Answers (execSendArrives msg s) := by
  unfold execSendArrives
  split
  · exact .next
  · exact .ite .next .next

theorem answers_execMessageDelivery {msg} : Answers (execMessageDelivery msg s) := by
  unfold execMessageDelivery
  split
  · exact .next
  · exact .ite .next (.ite .next .next)

theorem answers_execSpawnArrives {msg} : Answers (execSpawnArrives msg s) := by
  unfold execSpawnArrives
  split
  · exact .ite .next .next
  · split
    · exact .next
    · refine .ite .next ?_
      split
      all_goals exact .next

theorem answers_execSpill {msg} : Answers (execSpill msg s) := by
  unfold execSpill
  split
  · exact .ite .next .next
  · split
    · exact .next
    · exact .ite .next .next

theorem answers_execSpillDeliver {crew} : Answers (execSpillDeliver crew s) := by
  unfold execSpillDeliver
  split
  · exact .next
  · dsimp only
    split
    · exact .next
    · exact .ite .next .next

theorem answers_execWaiterResend {tag} : Answers (execWaiterResend tag s) := by
  unfold execWaiterResend
  split
  all_goals exact .next

theorem answers_execDeferredTrap {tag} : Answers (execDeferredTrap tag s) := by
  unfold execDeferredTrap
  refine .ite ?_ .next
  dsimp only
  split
  all_goals exact .next

/-! ### Tile engines -/

theorem answers_execTileStart {core} : Answers (execTileStart core s) := by
  unfold execTileStart
  dsimp only
  split
  · exact .ite .next .next
  · exact .next

theorem answers_execTileComplete {core} : Answers (execTileComplete core s) := by
  unfold execTileComplete
  refine .ite .next ?_
  split
  · exact .ite .next .next
  · exact .next

theorem answers_drainRow {core} : Answers (drainRow core s) := by
  unfold drainRow
  dsimp only
  split
  · split
    · exact .ite .next .next
    · exact .next
  · exact .next

theorem answers_latchChunk {core} : Answers (latchChunk core s) := by
  unfold latchChunk
  dsimp only
  split
  all_goals exact .next

/-! ### Servers -/

theorem answers_execServeAdmit {cluster server} : Answers (execServeAdmit cluster server s) := by
  unfold execServeAdmit
  split
  · exact .next
  · exact .ite .next .next

theorem answers_execServeExit {cluster fid} : Answers (execServeExit cluster fid s) := by
  unfold execServeExit
  split
  · exact .next
  · refine .ite .next ?_
    extract_lets
    split
    · exact .next
    · refine .ite .next ?_
      extract_lets _ fault
      clear_value fault
      split
      · exact .next
      · exact .ite .next .next

theorem answers_execCellFire {cluster server cell} : Answers (execCellFire cluster server cell s) := by
  unfold execCellFire
  split
  · exact .next
  · refine .ite .next (.ite ?_ ?_)
    · split
      all_goals exact .next
    · split
      · exact .next
      · dsimp only
        split
        · exact .next
        · split
          · exact .next
          · exact .next
          · split
            · exact .next
            · split
              all_goals exact .next

theorem answers_execServeTimeout {cluster fid} : Answers (execServeTimeout cluster fid s) := by
  unfold execServeTimeout
  split
  · exact .next
  · exact .ite .next .next

theorem answers_execImageLoad {cluster fid} : Answers (execImageLoad cluster fid s) := by
  unfold execImageLoad
  split
  · exact .next
  · refine .ite .next ?_
    extract_lets ends
    clear_value ends
    split
    · split
      · exact .next
      · exact .next
    · extract_lets
      split
      · refine .ite .next ?_
        split
        · exact .next
        · exact .ite .next .next
      · exact .next

theorem answers_execImageLoadComplete {cluster fid} : Answers (execImageLoadComplete cluster fid s) := by
  unfold execImageLoadComplete
  split
  · exact .next
  · extract_lets
    split
    · exact .next
    · refine .ite (.ite .next .next) ?_
      extract_lets
      split
      · extract_lets
        split
        · exact .next
        · refine .ite .next (.ite .next ?_)
          split
          · exact .next
          · exact .next
      · exact .ite .next .next

theorem answers_execImageEvict {cluster fid} : Answers (execImageEvict cluster fid s) := by
  unfold execImageEvict
  split
  · exact .next
  · refine .ite .next ?_
    split
    · exact .ite .next .next
    · exact .next

theorem answers_execCompaction {cluster fid} : Answers (execCompaction cluster fid s) := by
  unfold execCompaction
  split
  · refine .ite .next ?_
    dsimp only
    split
    · exact .next
    · split
      all_goals exact .next
  · exact .next

theorem answers_execTwinReload {cluster fid} : Answers (execTwinReload cluster fid s) := by
  unfold execTwinReload
  split
  · exact .next
  · refine .ite .next (.ite (.ite .next .next) ?_)
    split
    all_goals exact .next

theorem answers_execFreezeWave {cluster fid} : Answers (execFreezeWave cluster fid s) := by
  unfold execFreezeWave
  split
  · exact .next
  · split
    · exact .ite .next .next
    · exact .next

theorem answers_execThaw {cluster fid} : Answers (execThaw cluster fid s) := by
  unfold execThaw
  split
  · exact .next
  · split
    · refine .ite .next ?_
      extract_lets
      split
      · exact .ite .next .next
      · exact .next
    · exact .next

theorem answers_execSectionComplete {cluster fid} : Answers (execSectionComplete cluster fid s) := by
  unfold execSectionComplete
  split
  · exact .next
  · split
    · exact .ite .next (.ite .next .next)
    · exact .next

theorem answers_execEndpointPoll {cluster server cell} : Answers (execEndpointPoll cluster server cell s) := by
  unfold execEndpointPoll
  split
  · exact .next
  · refine .ite .next ?_
    split
    · exact .next
    · split
      all_goals exact .next

/-! ### Voyages -/

theorem answers_execEmbark {cluster} : Answers (execEmbark cluster s) := by
  unfold execEmbark
  split
  · exact .next
  · refine .ite .next (.ite (.ite .next (.ite .next .next)) (.ite .next ?_))
    split
    all_goals exact .next

theorem answers_execEmbarkComplete {cluster} : Answers (execEmbarkComplete cluster s) := by
  unfold execEmbarkComplete
  split
  · exact .next
  · refine .ite .next ?_
    split
    · exact .next
    · exact .next
    · exact .next
    · exact .ite .next .next

theorem answers_execSighting {cluster station} : Answers (execSighting cluster station s) := by
  unfold execSighting
  split
  · exact .next
  · refine .ite .next ?_
    split
    · exact .next
    · refine .ite (.ite .next .next) (.ite .next ?_)
      split
      all_goals exact .next

theorem answers_execAccumulationComplete {cluster entry} : Answers (execAccumulationComplete cluster entry s) := by
  unfold execAccumulationComplete
  split
  · exact .next
  · split
    · exact .next
    · refine .ite .next (.ite .next ?_)
      split
      all_goals exact .next

theorem answers_execStationReady {cluster station} : Answers (execStationReady cluster station s) := by
  unfold execStationReady
  split
  · exact .next
  · refine .ite .next (.ite .next (.ite ?_ ?_))
    · split
      all_goals exact .next
    · split
      all_goals exact .next

theorem answers_execHalfStepStart {cluster} : Answers (execHalfStepStart cluster s) := by
  unfold execHalfStepStart
  split
  · exact .next
  · refine .ite .next (.ite .next (.ite (.ite .next .next) ?_))
    dsimp only
    split
    all_goals exact .next

theorem answers_reckonEntry {c v i st e run} : Answers (reckonEntry s c v i st e run) := by
  unfold reckonEntry
  split
  · exact .next
  · exact .next
  · exact .next
  · extract_lets
    split
    · exact .next
    · exact .ite .next .next

theorem answers_execReckoning {cluster} : Answers (execReckoning cluster s) := by
  unfold execReckoning
  split
  · exact .next
  · refine .ite .next ?_
    split
    · exact .next
    · exact .ite (.ite .next .next) answers_reckonEntry

theorem answers_execReckonTaskStart {cluster station} : Answers (execReckonTaskStart cluster station s) := by
  unfold execReckonTaskStart
  split
  · exact .next
  · refine .ite .next ?_
    split
    · exact .next
    · refine .ite .next ?_
      split
      · exact .next
      · exact answers_reckonEntry

theorem answers_execVoyageFailure {cluster} : Answers (execVoyageFailure cluster s) := by
  unfold execVoyageFailure
  split
  · exact .next
  · split
    · exact .next
    · refine .ite .next ?_
      split
      split
      all_goals exact .next

theorem answers_execVoyageStop {cluster} : Answers (execVoyageStop cluster s) := by
  unfold execVoyageStop
  split
  · exact .next
  · refine .ite .next ?_
    split
    all_goals exact .next

theorem answers_execVoyageResume {cluster} : Answers (execVoyageResume cluster s) := by
  unfold execVoyageResume
  split
  · exact .next
  · exact .ite .next (.ite .next .next)

end

/-! ### Every instruction and event -/

theorem answers_exec (i : Instr) (s : State) : Answers (exec i s) := by
  cases i <;> dsimp only [exec]
  case add | sub | and | or | xor | andn | sll | srl | sra | rotl | rotr | slt | sltu | min | max | minu | maxu | mul | mulh | mulhu | mulhsu | div
    | divu | rem | remu | clz | ctz | popc | bswap | addW | subW | sllW | srlW | sraW | mulW | divW | divuW | remW | remuW | fadd | fsub | fmul | fdiv
    | fmin | fmax | fsqrt | fclass | addi | andi | ori | xori | slti | sltiu | addiW | slli | srli | srai | rotri | slliW | srliW | sraiW | ldhi |
    pcadd | fenceAcq | call | mtest | sget | sput | tstat | vrel | vinfo | yield | dropcntRead | bridgeCoreReset | powerWindow | fmadd | fmsub |
    fnmadd | fsgnj | fsgnjn | fsgnjx | feq | flt | fle | fcvtW | fcvtWu | fcvtL | fcvtLu | fcvtFromW | fcvtFromWu | fcvtFromL | fcvtFromLu | fcvtHS |
    fcvtSH | fcvtBfS | fcvtSBf | fcvtE4S | fcvtSE4 | fcvtE5S | fcvtSE5 | bEq | bNe | bLt | bGe | bLtu | bGeu | trap | illegalInstruction | qcfgWrite |
    logtailWrite | snap | abortQueue | abortRecord | registerWrite | apertureAccess | ownerCreate | ownerRetire | setModes | setEventSlot |
    ownerExport | join | tlbinvPage | tlbinvOwner | tlbinvAll | replay | decline | measurementExtend | coldReset | v12AuxLoss | pwrgd48 | patrolScrub
    | pendingTaskStart | reqtailWrite => exact .next
  case fcvtDS | fenceRel | fenceFull | barrWait | nwait | park | jr | sinfo | tret | submitRecord | invalidationDone | powerUp | clusterScrub |
    tierEpoch | spillRetry | badOp | managementConnection => exact .ite .next .next
  case ldB | ldBu | ldH | ldHu | ldW | ldWu | ldD => exact answers_load
  case stB | stH | stW | stD => exact answers_store
  case ldsyncTake | ldsyncKeep | stsyncFill | stsyncSet | syncClear | syncTest => exact answers_syncOp
  case atmAdd | atmAnd | atmOr | atmXor | atmMin | atmMax | atmMinu | atmMaxu | atmSwap | atmCas | atmFaddS => exact answers_atomic
  case barrInit | nread | nset | exit => exact .ite (.ite .next .next) .next
  case barrArrive => exact .ite (.ite .next (.ite .next .next)) .next
  case send | spawn | scmd => exact .ite .next (.ite .next (.ite .next .next))
  case mget => exact answers_execMget
  case mpeek => exact answers_execMpeek
  case serveImm | serveReg => exact .ite .next answers_serveCall
  case sload | tzero => exact .ite .next (.ite .next .next)
  case sevict => exact answers_execSevict
  case tmma => exact answers_execTmma
  case tdrain => exact answers_execTdrain
  case tload => exact answers_execTload
  case vstart => exact answers_execVstart
  case rget => exact answers_execRget
  case rdsys => exact answers_execRdsys
  case wrsys => exact answers_execWrsys
  case get => exact answers_execGet
  case put => exact answers_execPut
  case getx => exact answers_execGetx
  case putx => exact answers_execPutx
  case copy => exact answers_execCopy
  case fill => exact answers_execFill
  case redput => exact answers_execRedput
  case chain => exact answers_execChain
  case halo => exact answers_execHalo
  case bind => exact answers_execBind
  case scan => exact answers_execScan
  case probe => exact answers_execProbe
  case commandStart => exact answers_execCommandStart
  case commandComplete => exact answers_execCommandComplete
  case faceDelivered => exact answers_execFaceDelivered
  case crew | gang | voyage | stream | wait | graph | unknownKind => exact answers_helmRead
  case nestedGraphStart => exact answers_execNestedGraphStart
  case abortedEntry => exact answers_execAbortedEntry
  case pcieRequest => exact .ite .next (.ite (.ite .next .next) .next)
  case keyTransferTimeout => exact answers_execKeyTransferTimeout
  case answerCrewPlacement => exact answers_execAnswerCrewPlacement
  case answerImagePlacement => exact answers_execAnswerImagePlacement
  case answerTierMigration => exact answers_execAnswerTierMigration
  case answerSpill => exact answers_execAnswerSpill
  case answerTwinReload => exact answers_execAnswerTwinReload
  case telemetry | setPowerLimit | firmwareWrite | attest | events | enrollClient | unknownType => exact answers_request
  case moduleReset => exact answers_execModuleReset
  case firmwareSelect => exact .ite .next answers_request
  case sensorRead => exact .ite .next (.ite .next (.ite .next (.ite .next .next)))
  case meridianLaneFailure => exact answers_execMeridianLaneFailure
  case meridianAccess => exact answers_execMeridianAccess
  case crewAdmit | gangAdmit => exact answers_admitUnits
  case streamAdmit => exact answers_execStreamAdmit
  case voyageAdmit => exact answers_execVoyageAdmit
  case reservation => exact answers_execReservation
  case preemption => exact answers_execPreemption
  case saveComplete => exact answers_execSaveComplete
  case crewResume => exact answers_execCrewResume
  case crewRetire => exact answers_execCrewRetire
  case pageMoveComplete => exact answers_execPageMoveComplete
  case loadReturn => exact answers_execLoadReturn
  case homeArrival => exact answers_execHomeArrival
  case releaseAck => exact answers_execReleaseAck
  case walkComplete => exact answers_execWalkComplete
  case icacheFill => exact answers_execIcacheFill
  case sendArrives => exact answers_execSendArrives
  case messageDelivery => exact answers_execMessageDelivery
  case spawnArrives => exact answers_execSpawnArrives
  case spill => exact answers_execSpill
  case spillDeliver => exact answers_execSpillDeliver
  case waiterResend => exact answers_execWaiterResend
  case deferredTrap => exact answers_execDeferredTrap
  case crewEvent => exact answers_execCrewEvent
  case tileStart => exact answers_execTileStart
  case tileComplete => exact answers_execTileComplete
  case serveAdmit => exact answers_execServeAdmit
  case serveExit => exact answers_execServeExit
  case cellFire => exact answers_execCellFire
  case serveTimeout => exact answers_execServeTimeout
  case imageLoad => exact answers_execImageLoad
  case imageLoadComplete => exact answers_execImageLoadComplete
  case imageEvict => exact answers_execImageEvict
  case compaction => exact answers_execCompaction
  case twinReload => exact answers_execTwinReload
  case freezeWave => exact answers_execFreezeWave
  case thaw => exact answers_execThaw
  case sectionComplete => exact answers_execSectionComplete
  case endpointPoll => exact answers_execEndpointPoll
  case embark => exact answers_execEmbark
  case embarkComplete => exact answers_execEmbarkComplete
  case sighting => exact answers_execSighting
  case accumulationComplete => exact answers_execAccumulationComplete
  case stationReady => exact answers_execStationReady
  case halfStepStart => exact answers_execHalfStepStart
  case reckoning => exact answers_execReckoning
  case reckonTaskStart => exact answers_execReckonTaskStart
  case voyageFailure => exact answers_execVoyageFailure
  case voyageStop => exact answers_execVoyageStop
  case voyageResume => exact answers_execVoyageResume

section

variable {s : State}

theorem answers_runWord {w} : Answers (runWord s w) := by
  unfold runWord
  split
  all_goals exact answers_exec _ _

theorem answers_issue {t clk} : Answers (issue s t clk) := by
  unfold issue
  split
  · exact .next
  · exact .next
  · refine .ite .next ?_
    split
    · exact .next
    · exact answers_runWord

theorem answers_coreTurn {k} : Answers (coreTurn s k) := by
  unfold coreTurn
  extract_lets
  split
  · exact .next
  · exact answers_issue

theorem answers_readEvent {q w} : Answers (readEvent q w s) := by
  unfold readEvent
  generalize bits w.w0 63 60 = kind
  rcases kind with _ | _ | _ | _ | _ | _ | kind
  all_goals exact answers_helmRead

theorem answers_nextRequest {conn} : Answers (nextRequest conn s) := by
  unfold nextRequest
  split
  · exact .next
  · split
    · exact .next
    · refine .ite .next ?_
      split
      · exact .next
      · exact answers_exec _ _

theorem answers_outsideAct {o} : Answers (outsideAct o s) := by
  unfold outsideAct
  split
  · exact .ite (answers_exec _ _) .next
  all_goals exact .next

theorem answers_takeInput : Answers (takeInput s) := by
  unfold takeInput
  split
  · exact .next
  · exact .ite .next answers_outsideAct

end

/-! ### Everything that can happen next -/

/-- Each of the steps answers a next state, in every state. -/
def AllAnswer (l : List (State → Out)) : Prop := ∀ a ∈ l, ∀ s, Answers (a s)

theorem AllAnswer.nil : AllAnswer [] := fun _ ha => absurd ha List.not_mem_nil
theorem AllAnswer.cons {a : State → Out} {l : List (State → Out)} (ha : ∀ {s}, Answers (a s)) (hl : AllAnswer l) : AllAnswer (a :: l) :=
  List.forall_mem_cons.mpr ⟨fun _ => ha, hl⟩
theorem AllAnswer.one {a : State → Out} (ha : ∀ {s}, Answers (a s)) : AllAnswer [a] := .cons ha .nil
theorem AllAnswer.append {l m : List (State → Out)} (hl : AllAnswer l) (hm : AllAnswer m) : AllAnswer (l ++ m) := List.forall_mem_append.mpr ⟨hl, hm⟩

theorem AllAnswer.ite {c : Prop} [Decidable c] {l m : List (State → Out)} (hl : AllAnswer l) (hm : AllAnswer m) : AllAnswer (if c then l else m) := by
  split
  · exact hl
  · exact hm

theorem AllAnswer.flatMap {α : Type} {f : α → List (State → Out)} {l : List α} (hf : ∀ x, AllAnswer (f x)) : AllAnswer (l.flatMap f) := by
  intro a ha
  obtain ⟨x, -, hx⟩ := List.mem_flatMap.mp ha
  exact hf x a hx

theorem AllAnswer.map {α : Type} {f : α → State → Out} {l : List α} (hf : ∀ x {s}, Answers (f x s)) : AllAnswer (l.map f) := by
  intro a ha
  obtain ⟨x, -, rfl⟩ := List.mem_map.mp ha
  exact fun _ => hf x

theorem heldEvent_answers (x : HeldStep) : AllAnswer (heldEvent x) := by
  unfold heldEvent
  split
  · exact .one .next
  · exact .nil

theorem helmEvents_answer (s : State) : AllAnswer (helmEvents s) := by
  unfold helmEvents
  have hspill : ∀ c (p : Prop) [Decidable p], AllAnswer (if p then [] else [execSpillDeliver c]) := fun _ _ _ => .ite .nil (.one answers_execSpillDeliver)
  refine .append (.append (.append (.append (.append (.append (.append (.append (.append (.append ?_ ?_) ?_) ?_) ?_) ?_) ?_) ?_) ?_) ?_) ?_
  · refine .flatMap fun q => ?_
    split
    · exact .one answers_readEvent
    · exact .nil
  · refine .flatMap fun r => .append (.append (.ite (.one answers_execAbortedEntry) .nil) (.ite (.one answers_execNestedGraphStart) .nil))
      (.ite (.cons ?_ (.cons answers_execReservation (.one answers_execPreemption))) .nil)
    intro s
    generalize r.2.kind = kind
    rcases kind with _ | _ | _ | kind
    · exact answers_admitUnits
    · exact answers_admitUnits
    · exact answers_execVoyageAdmit
    · exact answers_execStreamAdmit
  · refine .flatMap fun c => ?_
    split
    · exact .append (.append (.one answers_execCrewRetire) (.ite (.one answers_execCrewEvent) .nil)) (hspill _ _)
    · exact .append (.one answers_execSaveComplete) (hspill _ _)
    · exact .append (.one answers_execCrewResume) (hspill _ _)
    · exact .nil
  · exact .ite (.one .next) .nil
  · exact .ite (.one answers_execKeyTransferTimeout) .nil
  · exact .ite (.one (.ite .next .next)) .nil
  · exact .map fun _ _ => answers_execPageMoveComplete
  · exact .ite (.one (.ite .next .next)) .nil
  · split
    · exact .one (answers_exec _ _)
    · exact .nil
  · exact .map fun _ _ => answers_nextRequest
  · exact .flatMap heldEvent_answers

theorem threadEvents_answer (s : State) : AllAnswer (threadEvents s) := by
  unfold threadEvents
  refine .append (.append (.append (.append (.append ?_ ?_) ?_) ?_) ?_) ?_
  · refine .flatMap fun e => .append (.ite (.one answers_execDeferredTrap) .nil) ?_
    split
    · exact .one answers_execLoadReturn
    · exact .one answers_execIcacheFill
    · exact .one answers_execReleaseAck
    · exact .one answers_execWaiterResend
    · exact .nil
  · exact .map fun _ _ => answers_execHomeArrival
  · exact .map fun _ _ => answers_execHomeArrival
  · exact .flatMap fun m => .ite (.cons answers_execMessageDelivery (.one answers_execSpill)) (.one answers_execSendArrives)
  · exact .map fun _ _ => answers_execSpawnArrives
  · exact .flatMap fun d => .map fun _ _ => answers_execWalkComplete

theorem commandEvent_answers (k q : Nat) (m : Command) : AllAnswer (commandEvent k q m) := by
  unfold commandEvent
  split
  · exact .one answers_execCommandStart
  · exact .one answers_execCommandComplete
  · split
    · exact .one answers_execGet
    · exact .one answers_execPut
    · exact .one answers_execGetx
    · exact .one answers_execPutx
    · exact .one answers_execCopy
    · exact .one answers_execFill
    · exact .one answers_execRedput
    · exact .one answers_execChain
    · exact .append (.cons answers_execHalo (.one answers_execCommandComplete)) (.map fun _ _ => answers_execFaceDelivered)
    · exact .cons answers_execBind (.one answers_execCommandComplete)
    · exact .one answers_execScan
    · exact .one answers_execProbe
    · exact .nil
  · exact .nil

theorem coreEvents_answer (s : State) : AllAnswer (coreEvents s) := by
  refine .flatMap fun e => .append (.append (.append (.ite .nil (.one answers_execTileStart)) (.ite (.one answers_execTileComplete) .nil))
    (.ite (.cons answers_latchChunk (.one answers_drainRow)) .nil)) (.flatMap fun q => ?_)
  split
  · exact commandEvent_answers _ _ _
  · exact .nil

theorem imageEvents_answer (c : Nat) (i : Image) : AllAnswer (imageEvents c i) :=
  .append (.cons answers_execServeExit (.cons answers_execServeTimeout (.cons answers_execImageEvict (.cons answers_execCompaction (.cons answers_execTwinReload
    (.cons answers_execFreezeWave (.one answers_execSectionComplete)))))))
    (.flatMap fun _ => .flatMap fun _ => .cons answers_execCellFire (.one answers_execEndpointPoll))

theorem voyageEvents_answer (c : Nat) (v : Voyage) : AllAnswer (voyageEvents c v) := by
  unfold voyageEvents
  refine .append (.append (.append (.ite (.one answers_execVoyageFailure) .nil) (.ite (.one answers_execVoyageStop) .nil)) ?_)
    (.flatMap fun _ => .ite (.one answers_execAccumulationComplete) .nil)
  split
  · exact .ite (.one answers_execEmbarkComplete) (.one answers_execEmbark)
  · exact .cons answers_execHalfStepStart (.flatMap fun _ => .cons answers_execSighting (.one answers_execStationReady))
  · exact .cons answers_execReckoning (.map fun _ _ => answers_execReckonTaskStart)
  · exact .nil

theorem clusterEvents_answer (s : State) : AllAnswer (clusterEvents s) := by
  refine .append (.append (.flatMap fun e => ?_) (.map fun _ _ => answers_execThaw)) (.map fun _ _ => answers_execVoyageResume)
  refine .append (.append (.append (.append (.append (.append (.append (.append ?_ ?_) ?_) ?_) ?_) ?_) ?_) ?_) ?_
  · exact .ite (.one (.ite .next .next)) .nil
  · exact .ite .nil (.one .next)
  · exact .flatMap fun _ => .cons answers_execSpawnArrives (.one answers_execSpill)
  · exact .ite .nil (.one (.ite .next .next))
  · exact .ite (.map fun _ _ => answers_execServeAdmit) .nil
  · exact .flatMap fun _ => imageEvents_answer _ _
  · exact .flatMap fun _ => .cons answers_execImageLoad (.one answers_execImageLoadComplete)
  · exact .map fun _ _ => answers_execImageLoad
  · split
    · exact voyageEvents_answer _ _
    · exact .nil

theorem events_answer (s : State) : AllAnswer (events s) :=
  .append (.append (.append (helmEvents_answer s) (threadEvents_answer s)) (coreEvents_answer s)) (clusterEvents_answer s)

theorem candidates_answer (s : State) : AllAnswer (candidates s) :=
  .append (.append (.map fun _ _ => answers_coreTurn) (events_answer s)) (.ite .nil (.one answers_takeInput))

/-! ### A step -/

theorem answers_nextAct {s : State} {a : State → Out} (ha : nextAct s = some a) (t : State) : Answers (a t) := by
  unfold nextAct at ha
  split at ha
  · exact Option.some.inj ha ▸ answers_coreTurn
  · exact candidates_answer s a (mem_of_pick ha) t

theorem answers_step (s : State) : Answers (step s) := by
  change Answers (oneStep s)
  unfold oneStep
  extract_lets s₀
  split
  · exact .next
  · next ha =>
    split
    · exact .next
    · exact answers_nextAct ha s₀

end Sys2Proof.Machine

namespace Sys2Proof

open Sys2Proof.Machine Sys2Proof.Safety

/-- Settles O54: every branch of every instruction and event ends in a next state, and so does each of the acts that a step picks from. -/
theorem everyStepAnswersANextState : Obligations.EveryStepAnswersANextState := by
  unfold Obligations.EveryStepAnswersANextState
  exact ⟨answers_exec, answers_step⟩

end Sys2Proof
end
